-- ==== Sys2Proof/Word.lean ====
section
/-! DEFINITION. The word types of the Lumoratos LM6: 64-bit scalar registers and instruction words (R82, R94),
bytes (R2) and 512-byte queue elements (R92). -/

namespace Sys2Proof

/-- A scalar register, a special register or an instruction word: 64 bits. -/
abbrev Word := BitVec 64

/-- One byte of memory, scratchpad or the argument block. -/
abbrev Byte := BitVec 8

/-- One 512-byte element of a vector queue (R92), byte 0 in bits 7:0 (R2). -/
abbrev Elem := BitVec 4096

/-- The number of an x register (R90). -/
abbrev Reg := BitVec 6

/-- The name of a vector queue: 0 to 639, or the sink names of R90. -/
abbrev QName := BitVec 10

/-- `vnull` (R90). -/
abbrev vnull : QName := 1022

/-- `vz` (R90). -/
abbrev vz : QName := 1023

end Sys2Proof
end

