-- ==== Sys2Proof/Fields.lean ====
section
/-! DEFINITION. The fields of instruction words that hold one of a named set of values (R90 to R93 and the entries'
own tables), each with the code the spec gives it. -/

namespace Sys2Proof

/-- The three contexts of a core (R83). -/
inductive Ctx where
  | L | X | S
  deriving DecidableEq, Repr, Inhabited

/-- CTX of R97 and R405. -/
def Ctx.code : Ctx → Nat
  | .L => 0 | .X => 1 | .S => 2

/-- The successor of a context in the circle L, X, S (R83). -/
def Ctx.succ : Ctx → Ctx
  | .L => .X | .X => .S | .S => .L

/-- The predecessor of a context in the circle (R83). -/
def Ctx.pred : Ctx → Ctx
  | .L => .S | .X => .L | .S => .X

/-- The element types of R92. -/
inductive ETy where
  | fp32 | bf16 | fp16 | e4m3 | e5m2 | int32 | int16 | int8 | uint8
  deriving DecidableEq, Repr

/-- The code of a value. -/
def ETy.code : ETy → BitVec 4
  | .fp32 => 0
  | .bf16 => 1
  | .fp16 => 2
  | .e4m3 => 3
  | .e5m2 => 4
  | .int32 => 5
  | .int16 => 6
  | .int8 => 7
  | .uint8 => 8

/-- The value of a code; `none` for a code the spec leaves unallocated. -/
def ETy.ofCode (b : BitVec 4) : Option ETy :=
  match b.toNat with
  | 0 => some .fp32
  | 1 => some .bf16
  | 2 => some .fp16
  | 3 => some .e4m3
  | 4 => some .e5m2
  | 5 => some .int32
  | 6 => some .int16
  | 7 => some .int8
  | 8 => some .uint8
  | _ => none

/-- The conditions of R93. -/
inductive Cond where
  | eq | ne | lt | ge | ltu | geu | al
  deriving DecidableEq, Repr

/-- The code of a value. -/
def Cond.code : Cond → BitVec 4
  | .eq => 0
  | .ne => 1
  | .lt => 2
  | .ge => 3
  | .ltu => 4
  | .geu => 5
  | .al => 6

/-- The value of a code; `none` for a code the spec leaves unallocated. -/
def Cond.ofCode (b : BitVec 4) : Option Cond :=
  match b.toNat with
  | 0 => some .eq
  | 1 => some .ne
  | 2 => some .lt
  | 3 => some .ge
  | 4 => some .ltu
  | 5 => some .geu
  | 6 => some .al
  | _ => none

/-- The rounding modes of R90. -/
inductive RM where
  | rne | rtz | rdn | rup | rna
  deriving DecidableEq, Repr

/-- The code of a value. -/
def RM.code : RM → BitVec 3
  | .rne => 0
  | .rtz => 1
  | .rdn => 2
  | .rup => 3
  | .rna => 4

/-- The value of a code; `none` for a code the spec leaves unallocated. -/
def RM.ofCode (b : BitVec 3) : Option RM :=
  match b.toNat with
  | 0 => some .rne
  | 1 => some .rtz
  | 2 => some .rdn
  | 3 => some .rup
  | 4 => some .rna
  | _ => none

/-- fn of MULH (R134): signed, unsigned, signed by unsigned. -/
inductive Mulh where
  | ss | uu | su
  deriving DecidableEq, Repr

/-- The code of a value. -/
def Mulh.code : Mulh → BitVec 6
  | .ss => 0
  | .uu => 1
  | .su => 2

/-- The value of a code; `none` for a code the spec leaves unallocated. -/
def Mulh.ofCode (b : BitVec 6) : Option Mulh :=
  match b.toNat with
  | 0 => some .ss
  | 1 => some .uu
  | 2 => some .su
  | _ => none

/-- part of LIMM (R139). -/
inductive LPart where
  | lo | hi | s | z
  deriving DecidableEq, Repr

/-- The code of a value. -/
def LPart.code : LPart → BitVec 2
  | .lo => 0
  | .hi => 1
  | .s => 2
  | .z => 3

/-- The value of a code; `none` for a code the spec leaves unallocated. -/
def LPart.ofCode (b : BitVec 2) : Option LPart :=
  match b.toNat with
  | 0 => some .lo
  | 1 => some .hi
  | 2 => some .s
  | 3 => some .z
  | _ => none

/-- The conditions of VCMP (R175). -/
inductive VCond where
  | eq | ne | lt | le | gt | ge
  deriving DecidableEq, Repr

/-- The code of a value. -/
def VCond.code : VCond → BitVec 4
  | .eq => 0
  | .ne => 1
  | .lt => 2
  | .le => 3
  | .gt => 4
  | .ge => 5

/-- The value of a code; `none` for a code the spec leaves unallocated. -/
def VCond.ofCode (b : BitVec 4) : Option VCond :=
  match b.toNat with
  | 0 => some .eq
  | 1 => some .ne
  | 2 => some .lt
  | 3 => some .le
  | 4 => some .gt
  | 5 => some .ge
  | _ => none

/-- The operations of AMO (R240). -/
inductive AmoOp where
  | swap | add | and | or | xor | min | max | minu | maxu | cas
  deriving DecidableEq, Repr

/-- The code of a value. -/
def AmoOp.code : AmoOp → BitVec 4
  | .swap => 0
  | .add => 1
  | .and => 2
  | .or => 3
  | .xor => 4
  | .min => 5
  | .max => 6
  | .minu => 7
  | .maxu => 8
  | .cas => 9

/-- The value of a code; `none` for a code the spec leaves unallocated. -/
def AmoOp.ofCode (b : BitVec 4) : Option AmoOp :=
  match b.toNat with
  | 0 => some .swap
  | 1 => some .add
  | 2 => some .and
  | 3 => some .or
  | 4 => some .xor
  | 5 => some .min
  | 6 => some .max
  | 7 => some .minu
  | 8 => some .maxu
  | 9 => some .cas
  | _ => none

/-- The operations of RED (R241). -/
inductive RedOp where
  | addF32 | addI32 | maxF32 | minF32 | maxI32 | minI32
  deriving DecidableEq, Repr

/-- The code of a value. -/
def RedOp.code : RedOp → BitVec 4
  | .addF32 => 0
  | .addI32 => 1
  | .maxF32 => 2
  | .minF32 => 3
  | .maxI32 => 4
  | .minI32 => 5

/-- The value of a code; `none` for a code the spec leaves unallocated. -/
def RedOp.ofCode (b : BitVec 4) : Option RedOp :=
  match b.toNat with
  | 0 => some .addF32
  | 1 => some .addI32
  | 2 => some .maxF32
  | 3 => some .minF32
  | 4 => some .maxI32
  | 5 => some .minI32
  | _ => none

/-- fn of VACT (R177). -/
inductive ActFn where
  | relu | gelu | silu | sigm | tanh | swiglu | geglu
  deriving DecidableEq, Repr

/-- The code of a value. -/
def ActFn.code : ActFn → BitVec 4
  | .relu => 0
  | .gelu => 1
  | .silu => 2
  | .sigm => 3
  | .tanh => 4
  | .swiglu => 5
  | .geglu => 6

/-- The value of a code; `none` for a code the spec leaves unallocated. -/
def ActFn.ofCode (b : BitVec 4) : Option ActFn :=
  match b.toNat with
  | 0 => some .relu
  | 1 => some .gelu
  | 2 => some .silu
  | 3 => some .sigm
  | 4 => some .tanh
  | 5 => some .swiglu
  | 6 => some .geglu
  | _ => none

/-- k of VREDM (R179). -/
inductive MaxK where
  | max | min | amax | amin
  deriving DecidableEq, Repr

/-- The code of a value. -/
def MaxK.code : MaxK → BitVec 4
  | .max => 0
  | .min => 1
  | .amax => 2
  | .amin => 3

/-- The value of a code; `none` for a code the spec leaves unallocated. -/
def MaxK.ofCode (b : BitVec 4) : Option MaxK :=
  match b.toNat with
  | 0 => some .max
  | 1 => some .min
  | 2 => some .amax
  | 3 => some .amin
  | _ => none

/-- The direction of a control queue (R149, R150): predecessor or successor. -/
inductive Dir6 where
  | p | n
  deriving DecidableEq, Repr

/-- The code of a value. -/
def Dir6.code : Dir6 → BitVec 6
  | .p => 0
  | .n => 1

/-- The value of a code; `none` for a code the spec leaves unallocated. -/
def Dir6.ofCode (b : BitVec 6) : Option Dir6 :=
  match b.toNat with
  | 0 => some .p
  | 1 => some .n
  | _ => none

/-- The type field of ACCRD (R216): either code copies the bits. -/
inductive AccTy where
  | fp32 | int32
  deriving DecidableEq, Repr

/-- The code of a value. -/
def AccTy.code : AccTy → BitVec 4
  | .fp32 => 0
  | .int32 => 5

/-- The value of a code; `none` for a code the spec leaves unallocated. -/
def AccTy.ofCode (b : BitVec 4) : Option AccTy :=
  match b.toNat with
  | 0 => some .fp32
  | 5 => some .int32
  | _ => none

/-- The control half of a word, bits 63:49 (R82). Bit 48 is reserved and holds nothing. -/
structure Ctl where
  stop  : Bool
  popp  : Bool
  popn  : Bool
  wtk   : BitVec 5
  pushp : Bool
  pushn : Bool
  stk   : BitVec 5
  deriving DecidableEq, Repr

/-- A control half of zeros: no wait and no signal. -/
def Ctl.none : Ctl := ⟨false, false, false, 0, false, false, 0⟩

/-- The operands of an E-format word: token out, three tokens in, record block (R85, R89). -/
structure EArgs where
  tko : BitVec 5
  tki0 : BitVec 5
  tki1 : BitVec 5
  tki2 : BitVec 5
  rcd : BitVec 16
  deriving DecidableEq, Repr

/-- Operands of a V3 vector word with two sources: destination, sources, peek bits (R168). -/
structure V3 where
  vd : QName
  va : QName
  vb : QName
  pa : Bool
  pb : Bool
  deriving DecidableEq, Repr

/-- Operands of a vector word with one source. -/
structure V2 where
  vd : QName
  va : QName
  pa : Bool
  deriving DecidableEq, Repr

/-- Operands of a V4 vector word (R168). -/
structure V4 where
  vd : QName
  va : QName
  vb : QName
  vc : QName
  deriving DecidableEq, Repr

/-- The mode field of a vector word (R166): saturation and rounding mode. -/
structure VMode where
  sat : Bool
  rm : RM
  deriving DecidableEq, Repr

/-- Operands of the TGO family (R202). -/
structure Tile where
  acc : BitVec 4
  nest : BitVec 3
  profile : BitVec 8
  xm : Reg
  xn : Reg
  xk : Reg
  gang : BitVec 3
  adv : Bool
  accum : Bool
  deriving DecidableEq, Repr

/-- Operands of ACCLD and ACCST (R202). -/
structure Win where
  acc : BitVec 4
  nest : BitVec 3
  xm : Reg
  xn : Reg
  adv : Bool
  deriving DecidableEq, Repr

end Sys2Proof
end

