-- ==== Sys2Proof/Machine/Causes.lean ====
section
/-! DEFINITION. The cause codes (R403) and the fault record (R405). -/

namespace Sys2Proof.Machine

open Sys2Proof

/-- The causes of R403. -/
inductive Cause where
  | illop | ctxop | priv | qovf | qunf | fqunf | bankc | sprng | align | xlate | prot | staleb | bpool | lbusy | truncx
  | lcap | tkerr | ovlap | profile | tkovf | tapseq | deadlk | tqfull | eccu | tierm | accovf | kick | brk | sysc
  | preempt | debug | tsord | rtimeout
  deriving DecidableEq, Repr

/-- The code of a cause (R403). -/
def Cause.code : Cause → Nat
  | .illop => 0x01 | .ctxop => 0x02 | .priv => 0x03 | .qovf => 0x04 | .qunf => 0x05 | .fqunf => 0x06 | .bankc => 0x07
  | .sprng => 0x08 | .align => 0x09 | .xlate => 0x0A | .prot => 0x0B | .staleb => 0x0C | .bpool => 0x0D
  | .lbusy => 0x0E | .truncx => 0x0F | .lcap => 0x10 | .tkerr => 0x11 | .ovlap => 0x12 | .profile => 0x13
  | .tkovf => 0x14 | .tapseq => 0x15 | .deadlk => 0x16 | .tqfull => 0x17 | .eccu => 0x19 | .tierm => 0x1A
  | .accovf => 0x1B | .kick => 0x1C | .brk => 0x1D | .sysc => 0x1E | .preempt => 0x1F | .debug => 0x20
  | .tsord => 0x21 | .rtimeout => 0x22

/-- A cause may be reflected to a kernel handler (R403, column Refl.). -/
def Cause.reflectable : Cause → Bool
  | .deadlk | .tqfull | .tierm | .kick | .sysc | .preempt | .debug | .rtimeout => false
  | _ => true

/-- What a word reports when it traps: the cause, ADDR, INFO and MALF of R405. -/
structure Trap where
  cause : Cause
  addr  : Word := 0
  info  : Word := 0
  malf  : Bool := false
  deriving DecidableEq, Repr

/-- A fault record (R405), its fields in their own types. `ctx` is 3 and `core` 511 where the record concerns none. -/
structure FaultRecord where
  cause  : Cause
  ctx    : Nat
  eng    : Bool
  malf   : Bool
  rst    : Bool
  level  : Nat
  core   : Nat
  part   : Nat
  resume : Nat
  pos    : Nat
  addr   : Word
  word   : Word
  info   : Word
  taskt  : Word
  tasks  : Word
  cyc    : Word
  deriving DecidableEq, Repr

end Sys2Proof.Machine
end

