-- ==== Sys2Proof/Machine/Sparse.lean ====
section
/-! DEFINITION. Sparse data: lists of a key and a value in one canonical form, keys strictly rising. A key that is not
listed reads as a default; a write of the default removes the entry, so that equal contents are equal data. -/

namespace Sys2Proof.Machine

/-- Data by key. -/
abbrev Sparse (α : Type) := List (Nat × α)

/-- Bytes by address (R2). An unlisted byte reads as 0: scratchpad (R55), Weight Store and HBM (R448) are zeroed by
the spec; for host and pooled memory, whose contents no rule gives, see assumption 8. DESIGN CHOICE -/
abbrev Memory := List Host.Cell

/-- The value at a key. -/
def Sparse.get {α : Type} (d : α) : Sparse α → Nat → α
  | [], _ => d
  | (k, v) :: r, j => if k = j then v else Sparse.get d r j

/-- The value at a key, if it is listed. -/
def Sparse.find {α : Type} : Sparse α → Nat → Option α
  | [], _ => none
  | (k, v) :: r, j => if k = j then some v else Sparse.find r j

/-- Take a key out. -/
def Sparse.erase {α : Type} : Sparse α → Nat → Sparse α
  | [], _ => []
  | (k, v) :: r, j => if k = j then Sparse.erase r j else (k, v) :: Sparse.erase r j

/-- List a value at a key. -/
def Sparse.put {α : Type} : Sparse α → Nat → α → Sparse α
  | [], j, x => [(j, x)]
  | (k, v) :: r, j, x =>
    if j < k then (j, x) :: (k, v) :: r
    else if k = j then (j, x) :: r
    else (k, v) :: Sparse.put r j x

/-- Write a value; the default is not listed. -/
def Sparse.set {α : Type} [DecidableEq α] (d : α) (m : Sparse α) (j : Nat) (x : α) : Sparse α :=
  if x = d then Sparse.erase m j else Sparse.put m j x

/-- Keys strictly rising from above a bound. -/
def Sparse.sortedFrom {α : Type} : Nat → Sparse α → Bool
  | _, [] => true
  | n, (k, _) :: r => decide (n ≤ k) && Sparse.sortedFrom (k + 1) r

/-- The canonical form: keys strictly rising, and no entry equal to the default. -/
def Sparse.wf {α : Type} [DecidableEq α] (d : α) (m : Sparse α) : Bool :=
  Sparse.sortedFrom 0 m && m.all (fun e => decide (e.2 ≠ d))

/-- The canonical form of a memory. -/
abbrev Memory.wf (m : Memory) : Bool := Sparse.wf (0 : Byte) m

/-- One byte. -/
def Memory.byte (m : Memory) (a : Nat) : Byte := Sparse.get 0 m a

/-- Write one byte. -/
def Memory.setByte (m : Memory) (a : Nat) (b : Byte) : Memory := Sparse.set 0 m a b

/-- `n` bytes from `a`, in ascending address. -/
def Memory.bytes (m : Memory) (a : Nat) : Nat → List Byte
  | 0 => []
  | n + 1 => m.byte a :: Memory.bytes m (a + 1) n

/-- Write bytes from `a` upward. -/
def Memory.setBytes (m : Memory) (a : Nat) : List Byte → Memory
  | [] => m
  | b :: bs => Memory.setBytes (m.setByte a b) (a + 1) bs

end Sys2Proof.Machine
end

