-- ==== Sys2Proof/Machine/CoreTypes.lean ====
section
/-! DEFINITION. The state of one core (R12, R94): its three contexts, queues, counters, tiles, accumulators, engines
and scratchpad, as plain data. -/

namespace Sys2Proof.Machine

open Sys2Proof

/-- What a write in flight will do when it lands (R73, R133, R165, R216, R323). -/
inductive Landing where
  /-- A scalar register takes a value. -/
  | reg (x : Reg) (v : Word)
  /-- Element `id` of queue `q` becomes a landed element (R163). -/
  | push (q : Nat) (id : Nat)
  /-- FP32 values are added to exact accumulators: accumulator number and values in lane order (R189). -/
  | exAdd (adds : List (Nat × List (BitVec 32)))
  /-- Exact accumulators `a` to `a + n - 1` are cleared (R128). -/
  | exClr (a n : Nat)
  /-- 512 bytes of a VSTS are performed (R187). -/
  | scratch (off : Nat) (e : Elem)
  /-- A control-queue entry becomes visible to the getter (R149); `succ` selects the queue to the successor. -/
  | cq (succ : Bool) (v : Word)
  /-- TKINC's amount reaches its counter (R151). -/
  | tk (n amount : Nat)
  /-- Sticky flags of the context are set (R167). -/
  | flags (f : BitVec 3)
  deriving DecidableEq, Repr

/-- One write in flight: the word it belongs to, the issue cycle at which it lands in exposed mode, and its effect. -/
structure Flight where
  wid  : Nat
  due  : Nat
  pos  : Nat
  word : Word
  land : Landing
  deriving DecidableEq, Repr

/-- One signal that a word owes at retirement (R66): a token for the FIFO to its predecessor or to its successor, or an
increment of a counter, with the word's position and bits. `hold` marks an engine command that retires at acceptance or at
completion (R85, R192); `free` marks an engine word's own STK, which waits for no access (R348). -/
structure Sig where
  wid   : Nat
  pushp : Bool
  pushn : Bool
  stk   : BitVec 5
  hold  : Bool
  free  : Bool
  pos   : Nat
  word  : Word
  deriving DecidableEq, Repr

/-- An entry of the loop stack: start word, closing word, remaining count (R145). -/
structure LoopEntry where
  start : Nat
  close : Nat
  count : Word
  deriving DecidableEq, Repr

/-- Whether a context issues words. -/
inductive RunSt where
  /-- No task has started the context. -/
  | idle
  /-- It issues words. -/
  | running
  /-- It has executed EXIT (R79). -/
  | exited
  /-- It has taken a cause and waits for the supervisor's answer (R407). -/
  | trapped (r : FaultRecord)
  /-- It is stopped at a STOP point by HALT, DEADLK or pre-emption (R411, R412, R415). -/
  | held
  deriving DecidableEq, Repr

/-- A saved x56 to x59 of a reflection (R408). -/
structure Frame where
  x56 : Word
  x57 : Word
  x58 : Word
  x59 : Word
  deriving DecidableEq, Repr

/-- What holds a word back: nothing, an interlock of its own context, or a condition that makes the context blocked
(R70); `starve` is one of those that R69 counts: a token, a control queue, or a data queue fed by L. -/
inductive Wait where
  | go | hold | starve | block
  deriving DecidableEq, Repr

/-- The first word of an X issue cycle, as the pairing rules see it (R59, R164, R194, R323): its issue slot, whether no word
pairs with it, and the registers and queues it writes. `held` says what holds the second word back. No state between two
steps has one. -/
structure PairInfo where
  unit   : Nat
  single : Bool
  regs   : List Reg
  queues : List Nat
  held   : Wait
  deriving DecidableEq, Repr

/-- What an access of the access queue of L or S does (R225, R226, R238 to R240, R244, R253). -/
inductive AccOp where
  | load (xd : Reg) (size : Nat)
  | vld (q id : Nat)
  | store (size : Nat) (v : Word)
  | amo (op : AmoOp) (dbl : Bool) (xd : Reg) (b old : Word)
  | mark (id n : Nat)
  | fence (scope : Nat) (e : Bool)
  | rfill (ring : Nat)
  | rfree (ring : Nat)
  | mqcred (mq n : Nat)
  | rlq (name : Word)
  deriving DecidableEq, Repr

/-- One access of an access queue, in program order. -/
structure Access where
  wid  : Nat
  pos  : Nat
  word : Word
  op   : AccOp
  ea   : Word
  deriving DecidableEq, Repr

/-- A halt of an access queue or of an engine command at a page (R391): the address, and what the service found when it
could not be mapped. `failed` holds the cause to deliver; `wid` is the halted access of a context's queue. -/
structure Halt where
  wid    : Nat
  va     : Nat
  malf   : Bool
  failed : Option Cause
  deriving DecidableEq, Repr

/-- Where a byte lies: 0 HBM by physical address, 1 host, 2 second tier, 3 Weight Store, 5 a replicated page by the
address of its first replica (R381, R390). -/
structure Loc where
  space : Nat
  addr  : Nat
  deriving DecidableEq, Repr

/-- The engine commands of L and S (E-format words). -/
inductive EngOp where
  | spld | spst | gath | scat | ldt | ferry | ferryTier | ferryQ
  | red (op : RedOp)
  | msend
  | stn (s : Bool)
  | tspawn | tgraph
  | coll (form : Nat)
  deriving DecidableEq, Repr

/-- An engine command with its copied record and its progress (R227 to R236). `row` is the replay pointer, with `buf` and
`done` inside the row: the bytes read and not yet written or pushed, and how many bytes of the row are behind. `off` is
the record's scratchpad offset. -/
structure EngCmd where
  /-- Number of its word. -/
  id     : Nat
  /-- Its context (R229). -/
  ctx    : Ctx
  /-- Operation (R229). -/
  op     : EngOp
  /-- The copied record (R227, R228). -/
  rcd    : BitVec 512
  /-- Scratchpad offset of the record (R227). -/
  off    : Nat
  /-- Token out (R229). -/
  tko    : BitVec 5
  /-- Position of its word (R405). -/
  pos    : Nat
  /-- Its word (R405). -/
  word   : Word
  /-- Its inputs are met (R229). -/
  taken  : Bool
  /-- Stage. -/
  stage  : Nat
  /-- The row under way (R231). -/
  row    : Nat
  /-- Bytes read and not yet written (R231). -/
  buf    : List Byte
  /-- Bytes of the row that are behind (R391). -/
  done   : Nat
  /-- What a further stage needs. -/
  aux    : Nat
  /-- The index of the row under way, read once when the row is reached (R231). -/
  idx    : Option Nat
  /-- The source pages that the engine has reached: number, and where each lies (R389). -/
  srcTr  : List (Nat × Loc)
  /-- The destination pages that the engine has reached (R389). -/
  dstTr  : List (Nat × Loc)
  /-- Pages that FERRY.TIER has moved (R361). -/
  pages  : List Nat
  /-- FERRY.TIER commands that complete before it: task, rank and number (R361). -/
  after  : List (Nat × Nat × Nat)
  /-- REDDL in core cycles, as it stood at the issue of a collective (R368). -/
  limit  : Nat
  /-- The berth allocated (R249). -/
  name   : Word
  /-- Its halt (R391). -/
  halt   : Option Halt
  /-- Its failure (R230). -/
  fail   : Option Trap
  /-- Its data has moved (R229). -/
  fin    : Bool
  deriving DecidableEq, Repr

/-- A store performed at core scope and not yet at device scope (R344): the issuing context, the location's space and
address, and the bytes. -/
structure Posted where
  ctx   : Ctx
  wid   : Nat
  space : Nat
  addr  : Nat
  va    : Nat
  data  : List Byte
  deriving DecidableEq, Repr

/-- An ACCOVF that waits for a reader (R132, R273): the saturating word, and CYCLE when it saturated, by which the oldest of several
causes is known (R402). -/
structure SatMark where
  pos  : Nat
  word : Word
  cyc  : Word
  deriving DecidableEq, Repr

/-- An element of a vector queue: its bits, its number, whether it has landed, whether ECC has lost it (R417), and
the ACCOVF that the word which pops it takes (R273). -/
structure QEl where
  e      : Elem
  id     : Nat
  landed : Bool
  bad    : Bool
  ovf    : Option SatMark
  deriving DecidableEq, Repr

/-- A vector queue: depth and kind by its shape (R49), elements oldest first. -/
structure QState where
  depth : Nat
  kind  : Nat
  els   : List QEl
  deriving DecidableEq, Repr

/-- A token counter: count and sticky error flag (R67). -/
structure Tk where
  count : Nat
  flag  : Bool
  deriving DecidableEq, Repr

/-- The class of an exact accumulator (R128). -/
inductive ExClass where
  | finite | pinf | ninf | nan
  deriving DecidableEq, Repr

/-- An exact accumulator (R128). -/
structure ExAcc where
  n   : Int
  cls : ExClass
  sat : Bool
  bad : Bool
  deriving DecidableEq, Repr

/-- An accumulator tile (R191): elements by 128 × row + column, the record of R199, how many issued commands still
write it (0: full), an ACCOVF that its first reader takes, a saturation that waits for the tile to be full (R132), and
whether ECC has lost it. -/
structure TileSt where
  /-- Elements by 128 × row + column (R191). -/
  els  : Sparse (BitVec 32)
  /-- CFMT of its record (R199). -/
  cfmt : Nat
  /-- OFMT of its record (R199). -/
  ofmt : Nat
  /-- OSAT of its record (R199). -/
  osat : Bool
  /-- Rounding mode of its record (R199). -/
  mode : RM
  /-- Issued commands that still write it; 0: full (R191). -/
  pend : Nat
  /-- The ACCOVF its first reader takes (R132). -/
  ovf  : Option SatMark
  /-- A saturation that waits for the tile to be full (R132). -/
  sat  : Bool
  /-- ECC has lost it (R417). -/
  bad  : Bool
  deriving DecidableEq, Repr

/-- An entry of the format queue (R198). -/
inductive FqEntry where
  | fmt (w : Word)
  | mode (m : RM)
  deriving DecidableEq, Repr

/-- A group of TGO.G as read at issue (R207). -/
structure Group where
  rows : Nat
  grow : Nat
  arow : Nat
  bidx : Nat
  deriving DecidableEq, Repr

/-- The matrix engine's commands. -/
inductive MatOp where
  | tgo | tgoG | tgoSp | accz
  | accmov (src : Nat) (add : Bool)
  | accst | accld
  deriving DecidableEq, Repr

/-- A matrix engine command and what it captured at issue (R192, R200, R206). -/
structure MatCmd where
  /-- Number of its word. -/
  id      : Nat
  /-- The word it belongs to. -/
  wid     : Nat
  /-- Position (R405). -/
  pos     : Nat
  /-- Word (R405). -/
  word    : Word
  /-- Operation (R206, R458). -/
  op      : MatOp
  /-- Tile (R206). -/
  acc     : Nat
  /-- Profile (R206). -/
  profile : Nat
  /-- Gang (R209). -/
  gang    : Nat
  /-- It accumulates (R206). -/
  accum   : Bool
  /-- Rows (R206). -/
  m       : Nat
  /-- Columns (R206). -/
  n       : Nat
  /-- Depth (R206). -/
  kk      : Nat
  /-- The group table as read at issue (R207). -/
  groups  : List Group
  /-- Its nest (R201). -/
  nest    : BitVec 512
  /-- The scale registers as recorded at issue (R200). -/
  sc      : Sparse (BitVec 8)
  /-- The code tables as recorded at issue (R200). -/
  ct      : Sparse (BitVec 16)
  /-- QMASK as recorded at issue (R315). -/
  qmask   : BitVec 256
  /-- Base row (R315). -/
  rbase   : Nat
  /-- Queued, at the head, or accepted (R192). -/
  stage   : Nat
  /-- It has claimed a format word at its issue (R205). -/
  claim   : Bool
  /-- How many entries fq had taken in all at its issue: it sees no later one (R197). -/
  fqEnd   : Nat
  /-- D's CFMT as an ACCMOV that adds finds it when it starts (R213). -/
  cfmt    : Nat
  /-- The format word it consumed (R199). -/
  fw      : Word
  /-- The rounding mode at its head (R199). -/
  mode    : RM
  /-- Leave has been asked (R451). -/
  asked   : Bool
  /-- Leave has been granted (R451). -/
  leave   : Bool
  /-- The operand bytes as read at acceptance (R192, R206). -/
  snap    : Memory
  deriving DecidableEq, Repr

/-- The ladder engine's commands. -/
inductive LadOp where
  | lapp (bf : Bool)
  | lappb (qa qb : QName) (j : Nat) (bf : Bool)
  | lread (form : Nat) (qc : QName) (bf div : Bool)
  | lfork (src : Nat)
  | ltruncLow (m : Word)
  | ltruncCkpt (c : Nat)
  | ldrop
  | lstat (qc : QName)
  deriving DecidableEq, Repr

/-- A ladder engine command (R263 to R265). `els` are the elements popped so far, `outs` the elements still to push, each
with a mark for a saturated accumulator. Once it is planned, `old` and `new` are the descriptor's bytes before and after
its swap (`new` empty: no swap), `rung` the bytes of a new rung and `name` its berth, `rel` the names to relinquish after
the swap. -/
structure LadCmd where
  /-- Number of its word. -/
  id     : Nat
  /-- The word it belongs to. -/
  wid    : Nat
  /-- Position (R405). -/
  pos    : Nat
  /-- Word (R405). -/
  word   : Word
  /-- Operation (R262). -/
  op     : LadOp
  /-- Slot (R262). -/
  slot   : Nat
  /-- Its slot is suppressed (R322). -/
  masked : Bool
  /-- Elements popped (R270). -/
  els    : List Elem
  /-- Elements to push, each with a mark for a saturated accumulator (R273). -/
  outs   : List (Elem × Bool)
  /-- Stage. -/
  stage  : Nat
  /-- Leave has been asked (R451). -/
  asked  : Bool
  /-- Leave has been granted (R451). -/
  leave  : Bool
  /-- The descriptor before the swap (R266). -/
  old    : List Byte
  /-- The descriptor after the swap; empty: no swap (R266). -/
  new    : List Byte
  /-- Bytes of the new rung (R259). -/
  rung   : List Byte
  /-- Berth of the new rung (R269). -/
  name   : Word
  /-- Names to relinquish after the swap (R263, R269). -/
  rel    : List Word
  /-- The pages of its descriptor while it swaps, each with its place (R265, R266). -/
  held   : List (Nat × Loc)
  /-- Its halt (R259). -/
  halt   : Option Halt
  /-- Its failure (R265). -/
  fail   : Option Trap
  deriving DecidableEq, Repr

/-- The generation words that wait for memory (R323). -/
inductive GenOp where
  | gstep | vgmask (bf : Bool) | tokout
  deriving DecidableEq, Repr

/-- A waiting generation word: its control element, its chunk, the place of its result, whether its row is
quarantined, and the reads that it has performed, each with its address and size (R331, R393). -/
structure GenCmd where
  id   : Nat
  wid  : Nat
  pos  : Nat
  word : Word
  op   : GenOp
  vd   : QName
  ctl  : Elem
  chunk : Elem
  masked : Bool
  seen : List (Nat × Nat × List Byte)
  halt : Option Halt
  fail : Option Trap
  deriving DecidableEq, Repr

/-- The state of a ring's or message queue's slot (R243). -/
inductive SlotSt where
  | empty | claimed | full | taken
  deriving DecidableEq, Repr

/-- A configured ring or message queue (R242, R245): the configuration word, slots that are not empty, positions.
For a message queue `prod` is the next slot to grant and `cons` the receiving context. -/
structure Ring where
  /-- BASE (R242). -/
  base   : Nat
  /-- SIZE (R242). -/
  size   : Nat
  /-- Slots (R242). -/
  slots  : Nat
  /-- Producing context (message queue: unused) (R242). -/
  prod   : Ctx
  /-- Consuming or receiving context (R242, R245). -/
  cons   : Ctx
  /-- Slots that are not empty (R243). -/
  st     : Sparse SlotSt
  /-- Next slot to claim (R243). -/
  claim  : Nat
  /-- Next slot to fill (R243). -/
  fill   : Nat
  /-- Next slot to take (R243). -/
  take   : Nat
  /-- Next slot to free (R243). -/
  free   : Nat
  deriving DecidableEq, Repr

/-- A bound ladder slot (R254). -/
structure Bound where
  desc : Nat
  shr  : Bool
  deriving DecidableEq, Repr

/-- An entry of a TLB (R388): partition, page or block number, and the leaf. In a first-level TLB `win` marks a translation of
a window (R387): then `vpn` is the number of a 4 KiB granule and `leaf` its place, space × 2^60 + address. -/
structure TlbEntry where
  part  : Nat
  win   : Bool
  block : Bool
  vpn   : Nat
  leaf  : Word
  deriving DecidableEq, Repr

/-- A pointer or directory entry that a die's walker keeps (R388): its partition, the addresses it stands for, which are
those with `va / 2 ^ shift = key`, and the entry. -/
structure WalkEntry where
  part  : Nat
  shift : Nat
  key   : Nat
  word  : Word
  deriving DecidableEq, Repr

/-- A command of another core that this core holds or owes an end: a RED or MSEND held until it has started (R56), or a
HALT that waits until it has halted (R376). The sender's core, context and command or word number. -/
structure HeldMsg where
  core : Nat
  ctx  : Ctx
  id   : Nat
  deriving DecidableEq, Repr

/-- A write of the supervisor to the state of a halted core (R415): a part of the save area's layout (R413) from 0x00_0000 to
0x00_FFFF, by what it holds. -/
inductive HaltWrite where
  | reg (x : Ctx) (n : Reg) (v : Word)
  | mode (x : Ctx) (pc : Nat) (exposed : Bool) (slack level : Nat)
  | flags (x : Ctx) (spaceovr : BitVec 32) (sflags : BitVec 3)
  | loops (x : Ctx) (l : List LoopEntry)
  /-- The place of the halted access, by its doublewords. -/
  | halt (x : Ctx) (ws : List Word)
  | frame (x : Ctx) (f : Option Frame)
  | fifos (x : Ctx) (p n : Nat)
  | tk (n : Nat) (t : Tk)
  | cqs (x : Ctx) (p n : List Word)
  | ring (n : Nat) (r : Ring)
  | mq (n : Nat) (r : Ring)
  | fq (l : List FqEntry) (m : RM)
  | sc (n : Nat) (v : BitVec 8)
  | ct (n : Nat) (v : BitVec 16)
  | nest (n : Nat) (v : BitVec 512)
  | ex (n : Nat) (a : ExAcc)
  | tile (n cfmt ofmt : Nat) (osat : Bool) (m : RM)
  | masks (batch : Option Nat) (qmask : BitVec 256) (lsup : BitVec 64)
  /-- An entry of the queue directory: queue, element count, first element. -/
  | dir (q count first : Nat)
  /-- The place of an unstarted engine command: word and record. -/
  | cmd (i : Nat) (word : Word) (rcd : BitVec 512)
  /-- A ladder-slot binding. -/
  | slot (n : Nat) (b : Option Bound)
  deriving DecidableEq, Repr

/-- A trained-value record (R447): whether each of its signatures verifies, the serial number of the device that produced it,
when it was made, and after how long it expires, in core cycles. -/
structure Trained where
  ecdsa  : Bool
  lms    : Bool
  serial : Nat
  made   : Nat
  expiry : Nat
  deriving DecidableEq, Repr

/-- A level of the launch nest (R48): kind, extent, ragged. -/
structure NestLevel where
  kind   : Nat
  extent : Nat
  ragged : Bool
  deriving DecidableEq, Repr

/-- Whether a core works for a task (R288, R80). -/
inductive CoreStatus where
  | free
  /-- Placed for its task, start state not yet in place. -/
  | placed
  /-- Its contexts have started. -/
  | active
  /-- Every context has exited and operations finish (R80). -/
  | draining
  deriving DecidableEq, Repr

/-- One context of a core (R94 to R98, R145, R149, R391, R408). -/
structure CtxSt where
  /-- x1 to x63; x0 reads 0 (R94, R51, R55). -/
  regs     : Sparse Word
  /-- PC, a word index of the window (R57). -/
  pc       : Nat
  /-- Idle, running, exited, trapped or held (R79, R407). -/
  run      : RunSt
  /-- The context has executed EXIT, or was ended (R79). -/
  ended    : Bool
  /-- The level it runs at (R364). -/
  level    : Nat
  /-- Scratchpad offset of its stream window (R47, R58). -/
  wbase    : Nat
  /-- Words of its window, W (R47, R57). -/
  wwords   : Nat
  /-- Exposed mode (R74, R97). -/
  exposed  : Bool
  /-- Slack (R76). -/
  slack    : Nat
  /-- Words without STOP since the last STOP point (R72). -/
  nonStop  : Nat
  /-- SPACEOVR (R96). -/
  spaceovr : BitVec 32
  /-- SFLAGS: CVNAN, CVSAT, EXOVF (R97). -/
  sflags   : BitVec 3
  /-- The flags that the device has set in the issue cycle under way, in exposed mode (R98). -/
  newFlags : BitVec 3
  /-- The loop stack, innermost first (R145). -/
  loops    : List LoopEntry
  /-- The issue cycle (R73). -/
  icycle   : Nat
  /-- The first word of the issue cycle under way (R59). -/
  pair     : Option PairInfo
  /-- Writes in flight (R73, R74, R75). -/
  flights  : List Flight
  /-- Signals that words owe at retirement (R66). -/
  sigs     : List Sig
  /-- Registers whose asynchronous write is pending (R222). -/
  pend     : List Reg
  /-- The context is blocked (R70). -/
  blocked  : Bool
  /-- The context stands at a forced STOP point (R72). -/
  forced   : Bool
  /-- Causes found after issue that the next word takes (R394, R402). -/
  attached : List FaultRecord
  /-- The access queue (L and S), oldest first (R391, R346). -/
  accq     : List Access
  /-- The halt of the access queue (R391). -/
  accHalt  : Option Halt
  /-- Marks issued, by identifier (R238). -/
  marks    : Sparse Nat
  /-- Marks performed, by identifier (R238). -/
  marked   : Sparse Nat
  /-- The engine queue (L and S) (R229). -/
  engq     : List EngCmd
  /-- Tokens in the FIFO to the predecessor (R83, R66). -/
  fifoP    : Nat
  /-- Tokens in the FIFO to the successor (R83, R66). -/
  fifoN    : Nat
  /-- The control queue to the predecessor (R60, R149). -/
  cqP      : List Word
  /-- The control queue to the successor (R60, R149). -/
  cqN      : List Word
  /-- The active reflection frame: x56 to x59 as saved (R408, R409). -/
  frame    : Option Frame
  deriving DecidableEq, Repr

/-- One core (R12). -/
structure CoreSt where
  /-- Whether the core works for a task (R288, R80). -/
  status  : CoreStatus
  /-- Its task's sequence number (R96). -/
  task    : Nat
  /-- Its rank in the gang (R45, R51). -/
  rank    : Nat
  /-- Context L (R12, R44). -/
  cL      : CtxSt
  /-- Context X (R12, R44). -/
  cX      : CtxSt
  /-- Context S (R12, R44). -/
  cS      : CtxSt
  /-- Token counters 1 to 31 (R63, R67, R94). -/
  tks     : Sparse Tk
  /-- The vector queues by number, with depth and kind by their shape (R49, R163). -/
  qs      : Sparse QState
  /-- The accumulator tiles (R191). -/
  tiles   : Sparse TileSt
  /-- The exact accumulators (R128). -/
  ex      : Sparse ExAcc
  /-- The format queue (R198). -/
  fq      : List FqEntry
  /-- How many format words at the head of fq issued commands have claimed (R119, R195). -/
  claimed : Nat
  /-- How many entries have left fq in all (R197, R198). -/
  fqOut   : Nat
  /-- The rounding mode of the format queue's head (R119). -/
  emode   : RM
  /-- The scale registers sc0 to sc15 (R118, R94). -/
  sc      : Sparse (BitVec 8)
  /-- The code tables (R199, R94). -/
  ct      : Sparse (BitVec 16)
  /-- The nests (R201). -/
  nests   : Sparse (BitVec 512)
  /-- The configured rings (R242). -/
  rings   : Sparse Ring
  /-- The configured message queues (R245). -/
  mqs     : Sparse Ring
  /-- The bound ladder slots (R254). -/
  slots   : Sparse Bound
  /-- Scratchpad offset of the bound batch table (R313). -/
  batch   : Option Nat
  /-- QMASK (R315, R366). -/
  qmask   : BitVec 256
  /-- LSUP (R315, R366). -/
  lsup    : BitVec 64
  /-- Scratchpad bytes (R12, R52). -/
  sp      : Memory
  /-- Scratchpad blocks that ECC cannot correct (R417). -/
  spBad   : List Nat
  /-- Stores performed at core scope and not yet at device scope (R344). -/
  posted  : List Posted
  /-- The matrix engine's command queue (R192). -/
  matq    : List MatCmd
  /-- The matrix engine waits until the handler of a fault found at its head has returned (R211). -/
  matHold : Bool
  /-- The ladder engine's commands (R264). -/
  ladq    : List LadCmd
  /-- Commands on the Ferry path: elastic buffer and channels (R77, R233). -/
  ferry   : List EngCmd
  /-- Generation words that wait for memory (R323). -/
  genq    : List GenCmd
  /-- Numbers the core's words and commands. -/
  nextId  : Nat
  /-- The value of State.now at the start of the task; CYCLE counts from it (R96). -/
  cycle   : Nat
  /-- The first-level TLB (R388). -/
  tlb     : List TlbEntry
  /-- The core is halted by HALT or DEADLK, or its task is held (R376, R411, R415). -/
  halted  : Bool
  /-- HALT has asked the core to stop (R376). -/
  haltReq : Bool
  /-- HALT words that wait until the core has halted (R376). -/
  haltBy  : List HeldMsg
  /-- Pre-emption has asked the core to stop (R412). -/
  preReq  : Bool
  /-- Contexts that wait without another cause since the last progress (R69). -/
  starved : List Ctx
  /-- Cycles for which the condition of R69 has held without interruption (R69). -/
  still   : Nat
  /-- RED and MSEND commands of other cores held until this core has started (R56, R241). -/
  msgs    : List HeldMsg
  /-- Kept tile leave (R154, R453). -/
  keptT   : Nat
  /-- Kept Ferry leave (R154, R453). -/
  keptF   : Nat
  /-- Kept ladder leave (R154, R453). -/
  keptL   : Nat
  /-- The kernel header's DET bit (R47, R97). -/
  det     : Bool
  /-- The kernel header's EXTRAP bit (R47, R97). -/
  extrap  : Bool
  /-- The levels of the launch nest (R48). -/
  nest    : List NestLevel
  /-- Handler word of L (R47, R408). -/
  hfl     : Nat
  /-- Handler word of X (R47, R408). -/
  hfx     : Nat
  /-- Handler word of S (R47, R408). -/
  hfs     : Nat
  /-- Handler word of tap traps (R47, R320). -/
  htap    : Nat
  /-- The argument address that x63 shows (R51). -/
  args    : Word
  /-- The start state has been put in place (R55, R56). -/
  landed  : Bool
  /-- The supervisor's writes to a halted core, applied when it goes on (R415). -/
  patches : List HaltWrite
  deriving DecidableEq, Repr

end Sys2Proof.Machine
end

