-- ==== Sys2Proof/Syntax.lean ====
section
/-! DEFINITION. The instruction set: one constructor per row of the opcode table (R100 and the entries). The
constructors with a control half `c` are the encoded words (R82, R89); the others, from `loadComplete` on in each
family, are the events of the table, steps of the machine that have no encoding. -/

namespace Sys2Proof

/-- Instructions and events (R100; spec/95_what_each_step_holds.md). -/
inductive Instr where
  | nop (c : Ctl)
  | add (c : Ctl) (xd : Reg) (xa : Reg) (xb : Reg)
  | sub (c : Ctl) (xd : Reg) (xa : Reg) (xb : Reg)
  | mul (c : Ctl) (xd : Reg) (xa : Reg) (xb : Reg)
  | mulh (c : Ctl) (xd : Reg) (xa : Reg) (xb : Reg) (m : Mulh)
  | div (c : Ctl) (xd : Reg) (xa : Reg) (xb : Reg) (uns : Bool)
  | rem (c : Ctl) (xd : Reg) (xa : Reg) (xb : Reg) (uns : Bool)
  | addi (c : Ctl) (xd : Reg) (xa : Reg) (imm : BitVec 28)
  | and (c : Ctl) (xd : Reg) (xa : Reg) (xb : Reg)
  | or (c : Ctl) (xd : Reg) (xa : Reg) (xb : Reg)
  | xor (c : Ctl) (xd : Reg) (xa : Reg) (xb : Reg)
  | andi (c : Ctl) (xd : Reg) (xa : Reg) (imm : BitVec 28)
  | ori (c : Ctl) (xd : Reg) (xa : Reg) (imm : BitVec 28)
  | xori (c : Ctl) (xd : Reg) (xa : Reg) (imm : BitVec 28)
  | shl (c : Ctl) (xd : Reg) (xa : Reg) (xb : Reg) (imm : BitVec 6)
  | shr (c : Ctl) (xd : Reg) (xa : Reg) (xb : Reg) (imm : BitVec 6)
  | sar (c : Ctl) (xd : Reg) (xa : Reg) (xb : Reg) (imm : BitVec 6)
  | rol (c : Ctl) (xd : Reg) (xa : Reg) (xb : Reg) (imm : BitVec 6)
  | min (c : Ctl) (xd : Reg) (xa : Reg) (xb : Reg) (uns : Bool)
  | max (c : Ctl) (xd : Reg) (xa : Reg) (xb : Reg) (uns : Bool)
  | cmp (c : Ctl) (cond : Cond) (xd : Reg) (xa : Reg) (xb : Reg)
  | cmpi (c : Ctl) (cond : Cond) (xd : Reg) (xa : Reg) (imm : BitVec 24)
  | csel (c : Ctl) (xd : Reg) (xs : Reg) (xa : Reg) (xb : Reg)
  | limm (c : Ctl) (xd : Reg) (part : LPart) (imm : BitVec 32)
  | clz (c : Ctl) (xd : Reg) (xa : Reg)
  | popc (c : Ctl) (xd : Reg) (xa : Reg)
  | extr (c : Ctl) (xd : Reg) (xa : Reg) (sgn : Bool) (len1 : BitVec 6) (pos : BitVec 6)
  | insr (c : Ctl) (xd : Reg) (xa : Reg) (len1 : BitVec 6) (pos : BitVec 6)
  | bswap (c : Ctl) (xd : Reg) (xa : Reg)
  | muli (c : Ctl) (xd : Reg) (xa : Reg) (imm : BitVec 28)
  | br (c : Ctl) (cond : Cond) (xa : Reg) (xb : Reg) (disp : BitVec 24)
  | jmpr (c : Ctl) (xd : Reg) (xa : Reg) (imm : BitVec 16)
  | loop (c : Ctl) (xa : Reg) (body : BitVec 16)
  | loopN (c : Ctl) (level : BitVec 3) (body : BitVec 16)
  | loopi (c : Ctl) (count : BitVec 16) (body : BitVec 12)
  | cqput (c : Ctl) (dir : Dir6) (xa : Reg)
  | cqget (c : Ctl) (xd : Reg) (dir : Dir6)
  | cqbr (c : Ctl) (cond : Cond) (dir : Dir6) (disp : BitVec 24)
  | tkinc (c : Ctl) (n : BitVec 5) (xa : Reg) (imm : BitVec 16)
  | tkchk (c : Ctl) (xd : Reg) (n : BitVec 5)
  | mode (c : Ctl) (exposed : Bool) (slack : BitVec 4)
  | leave (c : Ctl) (n : BitVec 8) (mask : BitVec 3)
  | capr (c : Ctl) (xd : Reg) (xa : Reg) (imm : BitVec 16)
  | mfs (c : Ctl) (xd : Reg) (sel : BitVec 16)
  | mts (c : Ctl) (sel : BitVec 16) (xa : Reg)
  | exit (c : Ctl)
  | brk (c : Ctl) (code : BitVec 28)
  | sysc (c : Ctl) (service : BitVec 28)
  | ldb (c : Ctl) (xd : Reg) (xb : Reg) (imm : BitVec 24)
  | ldh (c : Ctl) (xd : Reg) (xb : Reg) (imm : BitVec 24)
  | ldw (c : Ctl) (xd : Reg) (xb : Reg) (imm : BitVec 24)
  | ldd (c : Ctl) (xd : Reg) (xb : Reg) (imm : BitVec 24)
  | stb (c : Ctl) (xs : Reg) (xb : Reg) (imm : BitVec 24)
  | sth (c : Ctl) (xs : Reg) (xb : Reg) (imm : BitVec 24)
  | stw (c : Ctl) (xs : Reg) (xb : Reg) (imm : BitVec 24)
  | std (c : Ctl) (xs : Reg) (xb : Reg) (imm : BitVec 24)
  | vld (c : Ctl) (vq : QName) (xb : Reg) (imm : BitVec 24)
  | loadComplete (k : Nat) (ctx : Ctx)
  | spld (c : Ctl) (e : EArgs)
  | spst (c : Ctl) (e : EArgs)
  | gath (c : Ctl) (e : EArgs)
  | scat (c : Ctl) (e : EArgs)
  | ldt (c : Ctl) (e : EArgs)
  | ferry (c : Ctl) (e : EArgs)
  | ferryTier (c : Ctl) (e : EArgs)
  | ferryQ (c : Ctl) (e : EArgs)
  | engineCmdComplete (k : Nat) (ctx : Ctx) (id : Nat)
  | mark (c : Ctl) (id : BitVec 8)
  | fence (c : Ctl) (e : Bool) (scope : BitVec 2)
  | amo (c : Ctl) (op : AmoOp) (dbl : Bool) (xd : Reg) (xa : Reg) (xb : Reg) (imm : BitVec 16)
  | red (c : Ctl) (op : RedOp) (e : EArgs)
  | redApply (k : Nat) (ctx : Ctx) (id : Nat)
  | rclaimCfg (c : Ctl) (ring : BitVec 4) (xa : Reg)
  | rclaim (c : Ctl) (xd : Reg) (ring : BitVec 4)
  | rfill (c : Ctl) (ring : BitVec 4)
  | rwaitf (c : Ctl) (xd : Reg) (ring : BitVec 4) (n : BitVec 16)
  | rwaite (c : Ctl) (xd : Reg) (ring : BitVec 4) (n : BitVec 16)
  | rtake (c : Ctl) (xd : Reg) (ring : BitVec 4)
  | rfree (c : Ctl) (ring : BitVec 4)
  | msend (c : Ctl) (e : EArgs)
  | msendGrant (k : Nat) (ctx : Ctx) (id : Nat)
  | mrecvCfg (c : Ctl) (mq : BitVec 2) (xa : Reg)
  | mrecv (c : Ctl) (xd : Reg) (mq : BitVec 2)
  | mrecvNb (c : Ctl) (xd : Reg) (mq : BitVec 2)
  | mqcred (c : Ctl) (mq : BitVec 2) (n : BitVec 16)
  | stn (c : Ctl) (e : EArgs)
  | stnS (c : Ctl) (e : EArgs)
  | stnNameReturn (k : Nat) (ctx : Ctx) (id : Nat)
  | baddr (c : Ctl) (xd : Reg) (xa : Reg) (xb : Reg) (imm : BitVec 16)
  | bshare (c : Ctl) (xa : Reg)
  | rlq (c : Ctl) (xa : Reg)
  | lbind (c : Ctl) (slot : BitVec 6) (xa : Reg) (shr : Bool)
  | lunbind (c : Ctl) (slot : BitVec 6)
  | tspawn (c : Ctl) (e : EArgs)
  | tgraph (c : Ctl) (e : EArgs)
  | tyieldFront (c : Ctl)
  | tyieldPast (c : Ctl) (xa : Reg)
  | collAllred (c : Ctl) (e : EArgs)
  | collRed (c : Ctl) (e : EArgs)
  | collBcast (c : Ctl) (e : EArgs)
  | collBar (c : Ctl) (e : EArgs)
  | collContribution (k : Nat) (ctx : Ctx) (id : Nat)
  | collDeadlineExpire (part : Nat) (group : Nat) (cnum : Nat)
  | collMemberTimeout (k : Nat) (ctx : Ctx) (id : Nat)
  | vadd (c : Ctl) (v : V3) (ty : ETy) (md : VMode)
  | vsub (c : Ctl) (v : V3) (ty : ETy) (md : VMode)
  | vmul (c : Ctl) (v : V3) (ty : ETy) (md : VMode)
  | vdiv (c : Ctl) (v : V3) (ty : ETy) (md : VMode)
  | vmin (c : Ctl) (v : V3) (ty : ETy)
  | vmax (c : Ctl) (v : V3) (ty : ETy)
  | vfmaFp32 (c : Ctl) (v : V4)
  | vfmaBf16 (c : Ctl) (v : V4)
  | vfmaFp16 (c : Ctl) (v : V4)
  | vabs (c : Ctl) (v : V2) (ty : ETy) (sat : Bool)
  | vneg (c : Ctl) (v : V2) (ty : ETy) (sat : Bool)
  | vand (c : Ctl) (v : V3)
  | vor (c : Ctl) (v : V3)
  | vxor (c : Ctl) (v : V3)
  | vshl (c : Ctl) (v : V3) (ty : ETy)
  | vshr (c : Ctl) (v : V3) (ty : ETy) (arith : Bool)
  | vaddi (c : Ctl) (v : V2) (ty : ETy) (imm : BitVec 15)
  | vmuli (c : Ctl) (v : V2) (ty : ETy) (imm : BitVec 15)
  | vsplatImm (c : Ctl) (vd : QName) (ty : ETy) (imm : BitVec 15)
  | vsplatReg (c : Ctl) (vd : QName) (ty : ETy) (xa : Reg)
  | vcvt (c : Ctl) (v : V2) (src : ETy) (dst : ETy) (rm : RM) (sat : Bool)
  | vcmp (c : Ctl) (v : V3) (ty : ETy) (cond : VCond)
  | vsel32 (c : Ctl) (v : V4)
  | vsel16 (c : Ctl) (v : V4)
  | vsel8 (c : Ctl) (v : V4)
  | vreds (c : Ctl) (v : V3) (ty : ETy) (md : VMode)
  | vredm (c : Ctl) (v : V2) (ty : ETy) (kind : MaxK)
  | vscan (c : Ctl) (v : V3) (ty : ETy) (ex : Bool) (rm : RM)
  | vsortcCount (c : Ctl) (v : V3) (win : BitVec 2)
  | vsortcOrder (c : Ctl) (v : V2)
  | vsortcSlot (c : Ctl) (v : V3) (win : BitVec 2)
  | vspselMask (c : Ctl) (v : V2) (ty : ETy)
  | vspselMeta (c : Ctl) (v : V2) (ty : ETy)
  | vspselPack (c : Ctl) (v : V2) (ty : ETy)
  | vrmsnFp32 (c : Ctl) (v : V4)
  | vrmsnBf16 (c : Ctl) (v : V4)
  | vact (c : Ctl) (v : V3) (ty : ETy) (fn : ActFn)
  | vexp (c : Ctl) (v : V2) (ty : ETy)
  | vexp2 (c : Ctl) (v : V2) (ty : ETy)
  | vrcp (c : Ctl) (v : V2) (ty : ETy)
  | vrsq (c : Ctl) (v : V2) (ty : ETy)
  | vperm (c : Ctl) (v : V3) (ty : ETy) (hi : Bool)
  | vlds (c : Ctl) (vd : QName) (xa : Reg) (imm : BitVec 15)
  | vsts (c : Ctl) (va : QName) (pa : Bool) (xa : Reg) (imm : BitVec 15)
  | vqst (c : Ctl) (xd : Reg) (vn : QName)
  | vmov (c : Ctl) (v : V2)
  | exadd (c : Ctl) (d : BitVec 6) (va : QName) (pa : Bool) (ty : ETy)
  | exaddL (c : Ctl) (d : BitVec 6) (va : QName) (len1 : BitVec 6) (pa : Bool) (ty : ETy)
  | exrd (c : Ctl) (vd : QName) (a : BitVec 6) (len1 : BitVec 6) (clr : Bool)
  | exclr (c : Ctl) (a : BitVec 6) (len1 : BitVec 6)
  | fqpush (c : Ctl) (xa : Reg)
  | fqmode (c : Ctl) (rm : RM)
  | scw (c : Ctl) (sc : BitVec 4) (xa : Reg) (imm : BitVec 16)
  | ctwr (c : Ctl) (bank : Bool) (entry : BitVec 4) (xa : Reg) (imm : BitVec 16)
  | nestw (c : Ctl) (nest : BitVec 3) (xa : Reg) (imm : BitVec 16)
  | tgo (c : Ctl) (t : Tile)
  | tgoG (c : Ctl) (t : Tile)
  | tgoSp (c : Ctl) (t : Tile)
  | tileCmdHead (k : Nat)
  | tileCmdAccept (k : Nat)
  | tileCmdComplete (k : Nat) (id : Nat)
  | accz (c : Ctl) (acc : BitVec 4)
  | accrd (c : Ctl) (vd : QName) (acc : BitVec 4) (ty : AccTy) (xa : Reg) (row : BitVec 7)
  | accmov (c : Ctl) (accD : BitVec 4) (accS : BitVec 4) (add : Bool)
  | accst (c : Ctl) (w : Win)
  | accld (c : Ctl) (w : Win)
  | lapp (c : Ctl) (slot : BitVec 6) (qa : QName) (qb : QName) (bf : Bool)
  | lappb (c : Ctl) (slot : BitVec 6) (qa : QName) (qb : QName) (j : BitVec 4) (bf : Bool)
  | lreadOrd (c : Ctl) (slot : BitVec 6) (qa : QName) (qb : QName) (qc : QName) (bf : Bool) (div : Bool)
  | lreadExa (c : Ctl) (slot : BitVec 6) (qa : QName) (qb : QName) (qc : QName) (bf : Bool) (div : Bool)
  | lreadRungs (c : Ctl) (slot : BitVec 6) (qa : QName) (qb : QName) (qc : QName) (bf : Bool)
  | lfork (c : Ctl) (slotD : BitVec 6) (slotS : BitVec 6)
  | ltruncLow (c : Ctl) (slot : BitVec 6) (xm : Reg)
  | ltruncCkpt (c : Ctl) (slot : BitVec 6) (slotC : BitVec 6)
  | ldrop (c : Ctl) (slot : BitVec 6)
  | lstat (c : Ctl) (slot : BitVec 6) (qc : QName)
  | ladderCmdComplete (k : Nat) (id : Nat)
  | tapchk (c : Ctl) (xb : Reg) (first : BitVec 6) (cnt1 : BitVec 4)
  | tapchkBind (c : Ctl) (xa : Reg)
  | tapchkMask (c : Ctl) (xd : Reg) (wd : BitVec 2)
  | vshort (c : Ctl) (v : V3) (bf : Bool)
  | vsort (c : Ctl) (v : V3)
  | vsortMerge (c : Ctl) (v : V3)
  | vsamp (c : Ctl) (v : V3) (f : Bool)
  | vsampU (c : Ctl) (vd : QName) (vb : QName) (pa : Bool) (pb : Bool)
  | rngget (c : Ctl) (xd : Reg) (xa : Reg)
  | rnggetPeek (c : Ctl) (xd : Reg) (xa : Reg)
  | rngjmp (c : Ctl) (xa : Reg) (xb : Reg)
  | gstep (c : Ctl) (v : V2)
  | vgmask (c : Ctl) (v : V3) (bf : Bool)
  | gsave (c : Ctl) (xd : Reg) (xa : Reg)
  | grest (c : Ctl) (xa : Reg) (xb : Reg)
  | tokout (c : Ctl) (v : V2)
  | wsw (c : Ctl) (xa : Reg) (xb : Reg) (xc : Reg)
  | ptbw (c : Ctl) (xa : Reg) (idx : BitVec 6)
  | ptbwH (c : Ctl) (xa : Reg)
  | tlbiPg (c : Ctl) (xa : Reg)
  | tlbiBlk (c : Ctl) (xa : Reg)
  | tlbiAll (c : Ctl)
  | quar (c : Ctl) (xa : Reg) (xb : Reg) (wd : BitVec 2)
  | slotw (c : Ctl) (xa : Reg) (n : BitVec 6)
  | bmapwFree (c : Ctl) (xa : Reg)
  | bmapwSet (c : Ctl) (xa : Reg) (xb : Reg)
  | halt (c : Ctl) (xa : Reg)
  | resume (c : Ctl) (xa : Reg)
  | eret (c : Ctl)
  | ipi (c : Ctl) (xa : Reg) (code : BitVec 12)
  | partw (c : Ctl) (xa : Reg) (xb : Reg) (sel : BitVec 5)
  | islw (c : Ctl) (xa : Reg) (xb : Reg)
  | forcedStopPoint (k : Nat) (ctx : Ctx)
  | deadlk (k : Nat)
  | tlbWalk (k : Nat) (va : Nat)
  | xlateService (k : Nat) (who : Nat) (id : Nat) (mapped : Bool)
  | pageMove (part : Nat) (va : Nat) (dest : Nat) (addr : Nat)
  | pageSupplyAnswer (k : Nat) (ctx : Ctx) (id : Nat) (page : Option Nat)
  | holdWindowExpire (part : Nat) (va : Nat)
  | migrationGo (mva : Nat) (dir : Bool) (part : Nat)
  | hostDeviceWrite (pa : Nat) (data : List Byte)
  | taskSelect (part : Nat)
  | reservationRequest (task : Nat) (k : Nat)
  | coreRelease (k : Nat)
  | raggedDistribute (task : Nat)
  | coreStart (k : Nat)
  | coreDrainDone (k : Nat)
  | taskCommit (part : Nat)
  | supervisorResume (k : Nat) (ctx : Ctx) (x56 : Word) (x57 : Word)
  | supervisorReflect (k : Nat) (ctx : Ctx)
  | supervisorEndFault (task : Nat)
  | preemptSave (task : Nat) (area : Nat)
  | scrubError (part : Nat) (kind : Nat) (addr : Nat)
  | specdepthWrite (part : Nat) (v : Word)
  | vbquotaWrite (part : Nat) (v : Word)
  | reddlWrite (part : Nat) (v : Word)
  | ptbaseWrite (part : Nat) (v : Word)
  | tqspareWrite (part : Nat) (v : Word)
  | schctlPre (part : Nat)
  | schctlHold (part : Nat) (hold : Bool)
  | registerWrite (off : Nat) (v : Word)
  | queueEnable (q : Nat) (v : Word)
  | kick (q : Nat) (tail : BitVec 32)
  | entryFetch (q : Nat)
  | frameBoundary
  | wsRefreshWindow (bank : Nat)
  | leaveGrant (island : Nat)
  | linkFlitRetry (link : Nat)
  | powerOn
  | pcieFundamentalReset
  | bootctlCold
  | bootctlWarm
  | stageTimeout
  | icarnColdReset
  | writeInFlightCompletes (k : Nat) (ctx : Ctx) (wid : Nat)
  | postedStorePerformed (k : Nat) (ctx : Ctx) (idx : Nat) (die : Nat)
  | hostPortDown (port : Nat) (up : Bool)
  | linkStateChange (link : Nat) (st : Nat) (peer : Nat)
  | islandPowerGating (island : Nat) (gated : Bool)
  | landingProcessorWrite (pa : Nat) (data : List Byte)
  deriving DecidableEq, Repr

end Sys2Proof
end

