-- ==== Sys2Proof/Machine/Turn.lean ====
section
/-! DEFINITION. What the next step of the device is. Contexts, engines, ports, supervisors and the host run at their own
pace (R343; 95_what_each_step_holds.md lists the part's indivisible steps); one step of the model is one of them. Which
one comes next is not the spec's to say, and a free value of Config says it (assumption 2). -/

namespace Sys2Proof.Machine

open Sys2Proof

/-- Steps inside the part that no row of the opcode table names, each an elementary step of a row that spans several
(an engine command's rows, a start's stages, another device's contribution). -/
inductive Inner where
  /-- The Icarn controller's store holds another trained-value record, or none (R447). -/
  | trainedRecord (r : Option Trained)
  /-- The running stage of a start ends, well or with a failure code (R448, R449). -/
  | bootStage (code : Nat)
  /-- The command `id` of a context's engine queue performs its next elementary step (R231, R249, R306, R309). -/
  | engineStep (k : Nat) (ctx : Ctx) (id : Nat)
  /-- The Ferry path accepts a command from the elastic buffer (R77, R229). -/
  | ferryAccept (k : Nat) (id : Nat)
  /-- A Ferry command moves its next row or page (R233). -/
  | ferryStep (k : Nat) (id : Nat)
  /-- The ladder engine pops or pushes one element of a command (R264, R270). -/
  | ladderStep (k : Nat) (id : Nat)
  /-- The oldest waiting generation word of a core is performed (R323). -/
  | genStep (k : Nat)
  /-- The head access of a context's access queue that is no load and no store is performed (R238, R239, R244, R253). -/
  | accessStep (k : Nat) (ctx : Ctx)
  /-- Die `die` applies the next update of a replicated page (R353). -/
  | replicaApply (die : Nat)
  /-- A collective's contribution from a core of another device reaches the reduction point (R445); `op` is OP + 8 × ROOT. -/
  | remoteContribution (part group cnum rank : Nat) (sub op : Nat) (data : List Byte)
  /-- The reduction point delivers one member's result on another device's behalf: nothing here. A collective whose
  contributions are complete writes every local member's DST (R445). -/
  | collDeliver (idx : Nat)
  /-- The host, or another owner of pooled memory, writes its own memory (R224, R438). `tier` selects pooled memory. -/
  | outsideWrite (tier : Bool) (addr : Nat) (data : List Byte)
  /-- The device decides to migrate a page in answer to an XLATE, or carries the decision out (R393, R398). -/
  | deviceMigration (part va : Nat) (done : Bool)
  /-- The landing processor answers the host's migration request (R439). -/
  | migrationAnswer (res : Nat)
  /-- A soft error that ECC cannot correct (R416, R417): the kind of memory and the place. -/
  | upset (kind k key : Nat)
  /-- The debugger's or supervisor's pre-emption order reaches the gang of a task (R412). -/
  | preemptOrder (task : Nat)
  /-- The scheduler aborts the latest speculative task that holds a core the frontier needs (R290). -/
  | makeRoom (part : Nat)
  /-- The end-to-end check of a partition's queues finds a segment that has been overwritten (R421). -/
  | controlError (part : Nat)
  /-- The oldest release of a node task goes on (R310). -/
  | nodeRelease
  /-- A bank set's refresh window ends (R14, R97). -/
  | refreshEnd (bank : Nat)
  /-- The supervisor writes a part of a halted core's state through the landing processor (R415). -/
  | haltedWrite (k : Nat) (w : HaltWrite)
  /-- A write of a partition register through the register port, which has waited for the partition to empty, takes effect (R379). -/
  | portPartw
  deriving DecidableEq, Repr

/-- The next step. -/
inductive Turn where
  /-- The context that is next to issue fetches and issues a word. -/
  | issue
  /-- An event row of the opcode table. -/
  | event (i : Instr)
  /-- An elementary step inside such a row. -/
  | inner (a : Inner)
  deriving DecidableEq, Repr, Inhabited

/-- The context whose turn it is to issue. Cores are numbered 0 to 383 (R11). -/
structure Who where
  core : Fin 384
  ctx  : Ctx
  deriving DecidableEq, Repr, Inhabited

end Sys2Proof.Machine
end

