-- ==== Sys2Proof/Config.lean ====
section
/-! DEFINITION. What an implementation fixes and what the spec leaves open. Every constant here is opaque: nothing can
evaluate it or prove a value of it, so a statement holds whatever it is. -/

namespace Sys2Proof.Config

open Sys2Proof Sys2Proof.Machine

/-- The device number of the signed configuration record (R447, R456). -/
opaque deviceNumber : BitVec 16

/-- The serial number of the device, by which a trained-value record names it (R447). -/
opaque serial : Nat

/-- The granules per stack of the signed configuration record (R456). -/
opaque berthRecord : Nat

/-- Granules per stack that PARTW may place in berth pools: what the record gives, at most 48 GB (R456). -/
def berthLimit : Nat := min berthRecord 11718750

/-- The second-tier memory that a stage 7 finds attached, by the count of steps taken (R448). -/
opaque tierFound : Nat → Nat

/-- Bytes of second-tier memory found at stage 7, at most 8 TiB (R16, R440, R448, R456). -/
def tierBytes (ticks : Nat) : Nat := min (tierFound ticks) (2 ^ 43)

/-- The island limits of the signed configuration record (R367, R380): the record value of ISL n. -/
opaque islRecord : Nat → Word

/-- When the first refresh window of a bank set of the Weight Store begins, in core cycles (R14): windows are staggered. -/
opaque firstWindow : Nat → Nat

/-- Which step comes next, by the count of steps taken (assumption 2). -/
opaque nextTurn : Nat → Turn

/-- Which context issues next, by the count of steps taken (assumption 2). -/
opaque nextWho : Nat → Who

/-- Core cycles that pass with a step, by the count of steps taken (assumption 3). -/
opaque dt : Nat → Nat

/-- A free value, by the count of steps taken and a place in the step (R249's choice of run, R388's victims, the bytes
of R230, the results the spec does not state). -/
opaque free : Nat → Nat → Nat

/-- Whether a read-set signature matches a line falsely (R295), by the count of steps taken, the task and the line. -/
opaque falseMatch : Nat → Nat → Nat → Bool

/-- A rounded value of a transcendental function where the model's interval does not decide it (assumption 15), by
function, format code and operand. -/
opaque undecided : Nat → Nat → Nat → Nat

end Sys2Proof.Config
end

