-- ==== Sys2Proof/WellFormed.lean ====
section
/-! DEFINITION. The checks of a word that depend on nothing but its bits and that the shape of a constructor does not
make already (R87, step 5; R88, R90, R457). A word that fails one traps ILLOP. -/

namespace Sys2Proof

/-- The width of an element type in bits (R92). -/
def ETy.bits : ETy → Nat
  | .fp32 | .int32 => 32
  | .bf16 | .fp16 | .int16 => 16
  | .e4m3 | .e5m2 | .int8 | .uint8 => 8

/-- A queue that has a name: 0 to 639 (R90). -/
def isName (q : QName) : Bool := decide (q.toNat < 640)

/-- A name that may stand as a source: `vnull` may not (R90). -/
def isSrc (q : QName) : Bool := isName q || q == vz

/-- A name that may stand as a destination: `vz` may not (R90). -/
def isDst (q : QName) : Bool := isName q || q == vnull

/-- The integer types, codes 5 to 8 (R92). -/
def okInt (t : ETy) : Bool := t == .int32 || t == .int16 || t == .int8 || t == .uint8

/-- Types 0, 1 and 2. -/
def okFp (t : ETy) : Bool := t == .fp32 || t == .bf16 || t == .fp16

/-- Types 0, 1, 2 and 5 to 8 (the table before R169). -/
def okArith (t : ETy) : Bool := okFp t || okInt t

/-- The mode field: an integer type has mode bits of zero (R166). -/
def okMode (t : ETy) (m : VMode) : Bool := !okInt t || m.rm == .rne

/-- The queue names of a word with two sources. -/
def okV3 (v : V3) : Bool := isDst v.vd && isSrc v.va && isSrc v.vb

/-- The queue names of a word with one source. -/
def okV2 (vd va : QName) : Bool := isDst vd && isSrc va

/-- The queue names of a V4 word. -/
def okV4 (v : V4) : Bool := isDst v.vd && isSrc v.va && isSrc v.vb && isSrc v.vc

/-- A selector that MFS may name (R95, R96, R366, R429, R441). -/
def mfsSel (sel : BitVec 16) : Bool :=
  let n := sel.toNat
  decide (n ≤ 5) || (decide (8 ≤ n) && decide (n ≤ 12)) || n == 0x10 || (decide (0x400 ≤ n) && decide (n ≤ 0x57F)) ||
    (decide (0x8000 ≤ n) && decide (n ≤ 0x8005)) || (decide (0x8008 ≤ n) && decide (n ≤ 0x800C)) ||
    (decide (0x8010 ≤ n) && decide (n ≤ 0x8012)) || (decide (0x8040 ≤ n) && decide (n ≤ 0x807F)) ||
    (decide (0x8080 ≤ n) && decide (n ≤ 0x809F)) || (decide (0x8100 ≤ n) && decide (n ≤ 0x811F)) ||
    (decide (0x8200 ≤ n) && decide (n ≤ 0x8211))

/-- A selector that MTS may name: those that can be written (R95, R96, R366, R429). -/
def mtsSel (sel : BitVec 16) : Bool :=
  let n := sel.toNat
  n == 1 || n == 2 || (decide (0x8002 ≤ n) && decide (n ≤ 0x8005)) || n == 0x8010 || n == 0x8012

/-- A partition register's selector that is allocated (R367, R379, R382, R406, R442, R316). -/
def partSel (sel : BitVec 5) : Bool :=
  let n := sel.toNat
  decide (n < 6) || n == 8 || n == 9 || n == 10 || n == 11 || n == 13 || n == 15 || (decide (16 ≤ n) && decide (n < 30))

/-- The word keeps every check of step 5. -/
def Instr.wf : Instr → Bool
| .nop _ => true
| .add _ _ _ _ => true
| .sub _ _ _ _ => true
| .mul _ _ _ _ => true
| .mulh _ _ _ _ _ => true
| .div _ _ _ _ _ => true
| .rem _ _ _ _ _ => true
| .addi _ _ _ _ => true
| .and _ _ _ _ => true
| .or _ _ _ _ => true
| .xor _ _ _ _ => true
| .andi _ _ _ _ => true
| .ori _ _ _ _ => true
| .xori _ _ _ _ => true
| .shl _ _ _ _ _ => true
| .shr _ _ _ _ _ => true
| .sar _ _ _ _ _ => true
| .rol _ _ _ _ _ => true
| .min _ _ _ _ _ => true
| .max _ _ _ _ _ => true
| .cmp _ cond _ _ _ => cond != .al
| .cmpi _ cond _ _ _ => cond != .al
| .csel _ _ _ _ _ => true
| .limm _ _ _ _ => true
| .clz _ _ _ => true
| .popc _ _ _ => true
| .extr _ _ _ _ len1 pos => decide (pos.toNat + len1.toNat + 1 ≤ 64)
| .insr _ _ _ len1 pos => decide (pos.toNat + len1.toNat + 1 ≤ 64)
| .bswap _ _ _ => true
| .muli _ _ _ _ => true
| .br _ cond xa xb _ => (cond != .al || (xa == 0 && xb == 0))
| .jmpr _ _ _ _ => true
| .loop _ _ body => body != 0
| .loopN _ level body => body != 0 && decide (level.toNat < 6)
| .loopi _ _ body => body != 0
| .cqput _ _ _ => true
| .cqget _ _ _ => true
| .cqbr _ _ _ _ => true
| .tkinc _ n _ _ => n != 0
| .tkchk _ _ n => n != 0
| .mode _ _ _ => true
| .leave _ _ mask => mask != 0
| .capr _ _ _ _ => true
| .mfs _ _ sel => mfsSel sel
| .mts _ sel _ => mtsSel sel
| .exit c => c.stop
| .brk _ _ => true
| .sysc _ _ => true
| .ldb _ _ _ _ => true
| .ldh _ _ _ _ => true
| .ldw _ _ _ _ => true
| .ldd _ _ _ _ => true
| .stb _ _ _ _ => true
| .sth _ _ _ _ => true
| .stw _ _ _ _ => true
| .std _ _ _ _ => true
| .vld _ vq _ _ => isName vq
| .loadComplete _ _ => true
| .spld _ _ => true
| .spst _ _ => true
| .gath _ _ => true
| .scat _ _ => true
| .ldt _ _ => true
| .ferry _ _ => true
| .ferryTier _ _ => true
| .ferryQ _ _ => true
| .engineCmdComplete _ _ _ => true
| .mark _ _ => true
| .fence _ _ _ => true
| .amo _ _ _ _ _ _ _ => true
| .red _ _ _ => true
| .redApply _ _ _ => true
| .rclaimCfg _ _ _ => true
| .rclaim _ _ _ => true
| .rfill _ _ => true
| .rwaitf _ _ _ _ => true
| .rwaite _ _ _ _ => true
| .rtake _ _ _ => true
| .rfree _ _ => true
| .msend _ _ => true
| .msendGrant _ _ _ => true
| .mrecvCfg _ _ _ => true
| .mrecv _ _ _ => true
| .mrecvNb _ _ _ => true
| .mqcred _ _ n => decide (1 ≤ n.toNat) && decide (n.toNat ≤ 256)
| .stn _ _ => true
| .stnS _ _ => true
| .stnNameReturn _ _ _ => true
| .baddr _ _ _ _ _ => true
| .bshare _ _ => true
| .rlq _ _ => true
| .lbind _ _ _ _ => true
| .lunbind _ _ => true
| .tspawn _ _ => true
| .tgraph _ _ => true
| .tyieldFront _ => true
| .tyieldPast _ _ => true
| .collAllred _ _ => true
| .collRed _ _ => true
| .collBcast _ _ => true
| .collBar _ _ => true
| .collContribution _ _ _ => true
| .collDeadlineExpire _ _ _ => true
| .collMemberTimeout _ _ _ => true
| .vadd _ v ty md => okV3 v && okArith ty && okMode ty md
| .vsub _ v ty md => okV3 v && okArith ty && okMode ty md
| .vmul _ v ty md => okV3 v && okArith ty && okMode ty md
| .vdiv _ v ty _ => okV3 v && okFp ty
| .vmin _ v ty => okV3 v && okArith ty
| .vmax _ v ty => okV3 v && okArith ty
| .vfmaFp32 _ v => okV4 v
| .vfmaBf16 _ v => okV4 v
| .vfmaFp16 _ v => okV4 v
| .vabs _ v ty sat => okV2 v.vd v.va && okArith ty && (!sat || okInt ty)
| .vneg _ v ty sat => okV2 v.vd v.va && okArith ty && (!sat || okInt ty)
| .vand _ v => okV3 v
| .vor _ v => okV3 v
| .vxor _ v => okV3 v
| .vshl _ v ty => okV3 v && okInt ty
| .vshr _ v ty arith => okV3 v && okInt ty && !(arith && ty == .uint8)
| .vaddi _ v ty _ => okV2 v.vd v.va && okArith ty
| .vmuli _ v ty _ => okV2 v.vd v.va && okArith ty
| .vsplatImm _ vd _ _ => isDst vd
| .vsplatReg _ vd _ _ => isDst vd
| .vcvt _ v src dst _ sat => okV2 v.vd v.va && src != dst && !(sat && !okInt src && okInt dst) && !(v.pa && decide
      (dst.bits < src.bits))
| .vcmp _ v _ _ => okV3 v
| .vsel32 _ v => okV4 v
| .vsel16 _ v => okV4 v
| .vsel8 _ v => okV4 v
| .vreds _ v ty md => okV3 v && okArith ty && okMode ty md
| .vredm _ v _ _ => okV2 v.vd v.va
| .vscan _ v ty _ rm => okV3 v && (ty == .fp32 || (ty == .int32 && rm == .rne))
| .vsortcCount _ v _ => okV3 v
| .vsortcOrder _ v => okV2 v.vd v.va
| .vsortcSlot _ v _ => okV3 v
| .vspselMask _ v ty => okV2 v.vd v.va && (!okInt ty || ty == .int8)
| .vspselMeta _ v ty => okV2 v.vd v.va && (!okInt ty || ty == .int8)
| .vspselPack _ v ty => okV2 v.vd v.va && (!okInt ty || ty == .int8)
| .vrmsnFp32 _ v => okV4 v
| .vrmsnBf16 _ v => okV4 v
| .vact _ v ty fn => okV2 v.vd v.va && okFp ty && (if fn == .swiglu || fn == .geglu then isSrc v.vb else v.vb == 0
      && !v.pb)
| .vexp _ v ty => okV2 v.vd v.va && okFp ty
| .vexp2 _ v ty => okV2 v.vd v.va && okFp ty
| .vrcp _ v ty => okV2 v.vd v.va && okFp ty
| .vrsq _ v ty => okV2 v.vd v.va && okFp ty
| .vperm _ v ty hi => okV3 v && (!hi || ty.bits == 8)
| .vlds _ vd _ _ => isDst vd
| .vsts _ va _ _ _ => isSrc va
| .vqst _ _ vn => isName vn
| .vmov _ v => okV2 v.vd v.va
| .exadd _ _ va _ ty => isSrc va && okFp ty
| .exaddL _ d va len1 _ ty => isSrc va && okFp ty && decide (d.toNat + len1.toNat + 1 ≤ 64)
| .exrd _ vd a len1 _ => isDst vd && decide (a.toNat + len1.toNat + 1 ≤ 64)
| .exclr _ a len1 => decide (a.toNat + len1.toNat + 1 ≤ 64)
| .fqpush _ _ => true
| .fqmode _ _ => true
| .scw _ _ _ _ => true
| .ctwr _ _ _ _ _ => true
| .nestw _ nest _ _ => decide (nest.toNat < 6)
| .tgo _ t => decide (t.nest.toNat < 6) && decide (1 ≤ t.gang.toNat) && decide (t.gang.toNat ≤ 4)
| .tgoG _ t => decide (t.nest.toNat < 6) && decide (1 ≤ t.gang.toNat) && decide (t.gang.toNat ≤ 4)
| .tgoSp _ t => decide (t.nest.toNat < 6) && decide (1 ≤ t.gang.toNat) && decide (t.gang.toNat ≤ 4)
| .tileCmdHead _ => true
| .tileCmdAccept _ => true
| .tileCmdComplete _ _ => true
| .accz _ _ => true
| .accrd _ vd _ _ _ _ => isDst vd
| .accmov _ _ _ _ => true
| .accst _ w => decide (w.nest.toNat < 6)
| .accld _ w => decide (w.nest.toNat < 6)
| .lapp c _ qa qb _ => isSrc qa && isSrc qb && !c.pushp && !c.pushn
| .lappb c _ qa qb j _ => isSrc qa && isSrc qb && !c.pushp && !c.pushn && decide (j.toNat ≤ 12)
| .lreadOrd c _ qa qb qc _ _ => isSrc qa && isSrc qb && isDst qc && !c.pushp && !c.pushn
| .lreadExa c _ qa qb qc _ _ => isSrc qa && isSrc qb && isDst qc && !c.pushp && !c.pushn
| .lreadRungs c _ qa qb qc _ => isSrc qa && isSrc qb && isDst qc && !c.pushp && !c.pushn
| .lfork c slotD slotS => !c.pushp && !c.pushn && slotD != slotS
| .ltruncLow c _ _ => !c.pushp && !c.pushn
| .ltruncCkpt c _ _ => !c.pushp && !c.pushn
| .ldrop c _ => !c.pushp && !c.pushn
| .lstat c _ qc => isDst qc && !c.pushp && !c.pushn
| .ladderCmdComplete _ _ => true
| .tapchk c _ first cnt1 => c.stop && decide (first.toNat + cnt1.toNat + 1 ≤ 64)
| .tapchkBind c _ => c.stop
| .tapchkMask c _ _ => c.stop
| .vshort _ v _ => okV3 v
| .vsort _ v => okV3 v
| .vsortMerge _ v => okV3 v
| .vsamp _ v _ => okV3 v
| .vsampU _ vd vb _ _ => isSrc vb && isDst vd
| .rngget _ _ _ => true
| .rnggetPeek _ _ _ => true
| .rngjmp _ _ _ => true
| .gstep _ v => okV2 v.vd v.va
| .vgmask _ v _ => okV3 v
| .gsave _ _ _ => true
| .grest _ _ _ => true
| .tokout _ v => okV2 v.vd v.va
| .wsw _ _ _ _ => true
| .ptbw _ _ _ => true
| .ptbwH _ _ => true
| .tlbiPg _ _ => true
| .tlbiBlk _ _ => true
| .tlbiAll _ => true
| .quar _ _ _ _ => true
| .slotw _ _ _ => true
| .bmapwFree _ _ => true
| .bmapwSet _ _ _ => true
| .halt _ _ => true
| .resume _ _ => true
| .eret c => c.stop
| .ipi _ _ _ => true
| .partw _ _ _ sel => partSel sel
| .islw _ _ _ => true
| .forcedStopPoint _ _ => true
| .deadlk _ => true
| .tlbWalk _ _ => true
| .xlateService _ _ _ _ => true
| .pageMove _ _ _ _ => true
| .pageSupplyAnswer _ _ _ _ => true
| .holdWindowExpire _ _ => true
| .migrationGo _ _ _ => true
| .hostDeviceWrite _ _ => true
| .taskSelect _ => true
| .reservationRequest _ _ => true
| .coreRelease _ => true
| .raggedDistribute _ => true
| .coreStart _ => true
| .coreDrainDone _ => true
| .taskCommit _ => true
| .supervisorResume _ _ _ _ => true
| .supervisorReflect _ _ => true
| .supervisorEndFault _ => true
| .preemptSave _ _ => true
| .scrubError _ _ _ => true
| .specdepthWrite _ _ => true
| .vbquotaWrite _ _ => true
| .reddlWrite _ _ => true
| .ptbaseWrite _ _ => true
| .tqspareWrite _ _ => true
| .schctlPre _ => true
| .schctlHold _ _ => true
| .registerWrite _ _ => true
| .queueEnable _ _ => true
| .kick _ _ => true
| .entryFetch _ => true
| .frameBoundary => true
| .wsRefreshWindow _ => true
| .leaveGrant _ => true
| .linkFlitRetry _ => true
| .powerOn => true
| .pcieFundamentalReset => true
| .bootctlCold => true
| .bootctlWarm => true
| .stageTimeout => true
| .icarnColdReset => true
| .writeInFlightCompletes _ _ _ => true
| .postedStorePerformed _ _ _ _ => true
| .hostPortDown _ _ => true
| .linkStateChange _ _ _ => true
| .islandPowerGating _ _ => true
| .landingProcessorWrite _ _ => true

end Sys2Proof
end

