-- ==== Sys2Proof/Decode.lean ====
section
/-! DEFINITION. The decoder and the encoder of the 64-bit word (R82, R87, R89, R100). A word is read from its low end:
each reader takes the next bits of a field and hands on the bits above them. -/

namespace Sys2Proof

/-- Why a word is no instruction (R87, steps 1, 2 and 5). -/
inductive DecodeError where
  /-- The word is all ones (R86). -/
  | allOnes
  /-- The opcode is unallocated in the opcode map (R100). -/
  | unallocated
  /-- Bit 48 is 1 (R82). -/
  | bit48
  /-- A field is reserved and nonzero, or holds a value that its entry does not allocate (R87, step 5; R457). -/
  | badField
  /-- Fewer than eight bytes. -/
  | truncated
  deriving DecidableEq, Repr

/-- Place the value `v` of an `n`-bit field below the bits `rest`. -/
def put (n v rest : Nat) : Nat := v + 2 ^ n * rest

/-- Read an `n`-bit field. -/
def rd {α : Type} (n w : Nat) (k : BitVec n → Nat → Option α) : Option α := k (BitVec.ofNat n w) (w / 2 ^ n)

/-- Read an `n`-bit field that must hold `v`. -/
def rk {α : Type} (n v w : Nat) (k : Nat → Option α) : Option α := if w % 2 ^ n = v then k (w / 2 ^ n) else none

/-- Read a one-bit field. -/
def rb {α : Type} (w : Nat) (k : Bool → Nat → Option α) : Option α := k (w % 2 == 1) (w / 2)

/-- Read a field that holds a code of a named set. -/
def rE {α β : Type} {n : Nat} (of : BitVec n → Option β) (w : Nat) (k : β → Nat → Option α) : Option α :=
  match of (BitVec.ofNat n w) with
  | some b => k b (w / 2 ^ n)
  | none => none

/-- No bits are left above the operands. -/
def rend {α : Type} (w : Nat) (a : α) : Option α := if w = 0 then some a else none

/-- Operands of NOP, opcode 0x00. -/
def decNop (c : Ctl) (w : Nat) : Option Instr :=
  rk 40 0 w fun w => rend w (.nop c)

/-- Operands of ADD, opcode 0x01. -/
def decAdd (c : Ctl) (w : Nat) : Option Instr :=
  rk 22 0 w fun w => rd 6 w fun xb w => rd 6 w fun xa w => rd 6 w fun xd w => rend w (.add c xd xa xb)

/-- Operands of SUB, opcode 0x02. -/
def decSub (c : Ctl) (w : Nat) : Option Instr :=
  rk 22 0 w fun w => rd 6 w fun xb w => rd 6 w fun xa w => rd 6 w fun xd w => rend w (.sub c xd xa xb)

/-- Operands of MUL, opcode 0x03. -/
def decMul (c : Ctl) (w : Nat) : Option Instr :=
  rk 22 0 w fun w => rd 6 w fun xb w => rd 6 w fun xa w => rd 6 w fun xd w => rend w (.mul c xd xa xb)

/-- Operands of MULH, opcode 0x04. -/
def decMulh (c : Ctl) (w : Nat) : Option Instr :=
  rk 16 0 w fun w => rE Mulh.ofCode w fun m w => rd 6 w fun xb w => rd 6 w fun xa w => rd 6 w fun xd w => rend w
    (.mulh c xd xa xb m)

/-- Operands of DIV, opcode 0x05. -/
def decDiv (c : Ctl) (w : Nat) : Option Instr :=
  rk 16 0 w fun w => rb w fun uns w => rk 5 0 w fun w => rd 6 w fun xb w => rd 6 w fun xa w => rd 6 w fun xd w => rend
    w (.div c xd xa xb uns)

/-- Operands of REM, opcode 0x06. -/
def decRem (c : Ctl) (w : Nat) : Option Instr :=
  rk 16 0 w fun w => rb w fun uns w => rk 5 0 w fun w => rd 6 w fun xb w => rd 6 w fun xa w => rd 6 w fun xd w => rend
    w (.rem c xd xa xb uns)

/-- Operands of ADDI, opcode 0x07. -/
def decAddi (c : Ctl) (w : Nat) : Option Instr :=
  rd 28 w fun imm w => rd 6 w fun xa w => rd 6 w fun xd w => rend w (.addi c xd xa imm)

/-- Operands of AND, opcode 0x08. -/
def decAnd (c : Ctl) (w : Nat) : Option Instr :=
  rk 22 0 w fun w => rd 6 w fun xb w => rd 6 w fun xa w => rd 6 w fun xd w => rend w (.and c xd xa xb)

/-- Operands of OR, opcode 0x09. -/
def decOr (c : Ctl) (w : Nat) : Option Instr :=
  rk 22 0 w fun w => rd 6 w fun xb w => rd 6 w fun xa w => rd 6 w fun xd w => rend w (.or c xd xa xb)

/-- Operands of XOR, opcode 0x0a. -/
def decXor (c : Ctl) (w : Nat) : Option Instr :=
  rk 22 0 w fun w => rd 6 w fun xb w => rd 6 w fun xa w => rd 6 w fun xd w => rend w (.xor c xd xa xb)

/-- Operands of ANDI, opcode 0x0b. -/
def decAndi (c : Ctl) (w : Nat) : Option Instr :=
  rd 28 w fun imm w => rd 6 w fun xa w => rd 6 w fun xd w => rend w (.andi c xd xa imm)

/-- Operands of ORI, opcode 0x0c. -/
def decOri (c : Ctl) (w : Nat) : Option Instr :=
  rd 28 w fun imm w => rd 6 w fun xa w => rd 6 w fun xd w => rend w (.ori c xd xa imm)

/-- Operands of XORI, opcode 0x0d. -/
def decXori (c : Ctl) (w : Nat) : Option Instr :=
  rd 28 w fun imm w => rd 6 w fun xa w => rd 6 w fun xd w => rend w (.xori c xd xa imm)

/-- Operands of SHL, opcode 0x0e. -/
def decShl (c : Ctl) (w : Nat) : Option Instr :=
  rd 6 w fun imm w => rk 10 0 w fun w => rk 6 0 w fun w => rd 6 w fun xb w => rd 6 w fun xa w => rd 6 w fun xd w =>
    rend w (.shl c xd xa xb imm)

/-- Operands of SHR, opcode 0x0f. -/
def decShr (c : Ctl) (w : Nat) : Option Instr :=
  rd 6 w fun imm w => rk 10 0 w fun w => rk 6 0 w fun w => rd 6 w fun xb w => rd 6 w fun xa w => rd 6 w fun xd w =>
    rend w (.shr c xd xa xb imm)

/-- Operands of SAR, opcode 0x10. -/
def decSar (c : Ctl) (w : Nat) : Option Instr :=
  rd 6 w fun imm w => rk 10 0 w fun w => rk 6 0 w fun w => rd 6 w fun xb w => rd 6 w fun xa w => rd 6 w fun xd w =>
    rend w (.sar c xd xa xb imm)

/-- Operands of ROL, opcode 0x11. -/
def decRol (c : Ctl) (w : Nat) : Option Instr :=
  rd 6 w fun imm w => rk 10 0 w fun w => rk 6 0 w fun w => rd 6 w fun xb w => rd 6 w fun xa w => rd 6 w fun xd w =>
    rend w (.rol c xd xa xb imm)

/-- Operands of MIN, opcode 0x12. -/
def decMin (c : Ctl) (w : Nat) : Option Instr :=
  rk 16 0 w fun w => rb w fun uns w => rk 5 0 w fun w => rd 6 w fun xb w => rd 6 w fun xa w => rd 6 w fun xd w => rend
    w (.min c xd xa xb uns)

/-- Operands of MAX, opcode 0x13. -/
def decMax (c : Ctl) (w : Nat) : Option Instr :=
  rk 16 0 w fun w => rb w fun uns w => rk 5 0 w fun w => rd 6 w fun xb w => rd 6 w fun xa w => rd 6 w fun xd w => rend
    w (.max c xd xa xb uns)

/-- Operands of CMP, opcode 0x14. -/
def decCmp (c : Ctl) (w : Nat) : Option Instr :=
  rk 16 0 w fun w => rE Cond.ofCode w fun cond w => rk 2 0 w fun w => rd 6 w fun xb w => rd 6 w fun xa w => rd 6 w fun
    xd w => rend w (.cmp c cond xd xa xb)

/-- Operands of CMPI, opcode 0x15. -/
def decCmpi (c : Ctl) (w : Nat) : Option Instr :=
  rd 24 w fun imm w => rE Cond.ofCode w fun cond w => rd 6 w fun xa w => rd 6 w fun xd w => rend w (.cmpi c cond xd xa
    imm)

/-- Operands of CSEL, opcode 0x16. -/
def decCsel (c : Ctl) (w : Nat) : Option Instr :=
  rk 16 0 w fun w => rd 6 w fun xs w => rd 6 w fun xb w => rd 6 w fun xa w => rd 6 w fun xd w => rend w (.csel c xd xs
    xa xb)

/-- Operands of LIMM, opcode 0x17. -/
def decLimm (c : Ctl) (w : Nat) : Option Instr :=
  rd 32 w fun imm w => rE LPart.ofCode w fun part w => rd 6 w fun xd w => rend w (.limm c xd part imm)

/-- Operands of CLZ, opcode 0x18. -/
def decClz (c : Ctl) (w : Nat) : Option Instr :=
  rk 28 0 w fun w => rd 6 w fun xa w => rd 6 w fun xd w => rend w (.clz c xd xa)

/-- Operands of POPC, opcode 0x19. -/
def decPopc (c : Ctl) (w : Nat) : Option Instr :=
  rk 28 0 w fun w => rd 6 w fun xa w => rd 6 w fun xd w => rend w (.popc c xd xa)

/-- Operands of EXTR, opcode 0x1a. -/
def decExtr (c : Ctl) (w : Nat) : Option Instr :=
  rd 6 w fun pos w => rd 6 w fun len1 w => rb w fun sgn w => rk 3 0 w fun w => rk 6 0 w fun w => rk 6 0 w fun w => rd
    6 w fun xa w => rd 6 w fun xd w => rend w (.extr c xd xa sgn len1 pos)

/-- Operands of INSR, opcode 0x1b. -/
def decInsr (c : Ctl) (w : Nat) : Option Instr :=
  rd 6 w fun pos w => rd 6 w fun len1 w => rk 4 0 w fun w => rk 6 0 w fun w => rk 6 0 w fun w => rd 6 w fun xa w => rd
    6 w fun xd w => rend w (.insr c xd xa len1 pos)

/-- Operands of BSWAP, opcode 0x1c. -/
def decBswap (c : Ctl) (w : Nat) : Option Instr :=
  rk 28 0 w fun w => rd 6 w fun xa w => rd 6 w fun xd w => rend w (.bswap c xd xa)

/-- Operands of MULI, opcode 0x1d. -/
def decMuli (c : Ctl) (w : Nat) : Option Instr :=
  rd 28 w fun imm w => rd 6 w fun xa w => rd 6 w fun xd w => rend w (.muli c xd xa imm)

/-- Operands of BR, opcode 0x20. -/
def decBr (c : Ctl) (w : Nat) : Option Instr :=
  rd 24 w fun disp w => rE Cond.ofCode w fun cond w => rd 6 w fun xb w => rd 6 w fun xa w => rend w (.br c cond xa xb
    disp)

/-- Operands of JMPR, opcode 0x21. -/
def decJmpr (c : Ctl) (w : Nat) : Option Instr :=
  rd 16 w fun imm w => rk 12 0 w fun w => rd 6 w fun xa w => rd 6 w fun xd w => rend w (.jmpr c xd xa imm)

/-- Operands of LOOP, opcode 0x22. -/
def decLoop (c : Ctl) (w : Nat) : Option Instr :=
  rd 16 w fun body w => rk 3 0 w fun w => rk 3 0 w fun w => rk 6 0 w fun w => rd 6 w fun xa w => rk 6 0 w fun w =>
    rend w (.loop c xa body)

/-- Operands of LOOP N, opcode 0x22. -/
def decLoopN (c : Ctl) (w : Nat) : Option Instr :=
  rd 16 w fun body w => rd 3 w fun level w => rk 3 1 w fun w => rk 6 0 w fun w => rk 6 0 w fun w => rk 6 0 w fun w =>
    rend w (.loopN c level body)

/-- Operands of LOOPI, opcode 0x23. -/
def decLoopi (c : Ctl) (w : Nat) : Option Instr :=
  rd 12 w fun body w => rd 16 w fun count w => rk 12 0 w fun w => rend w (.loopi c count body)

/-- Operands of CQPUT, opcode 0x28. -/
def decCqput (c : Ctl) (w : Nat) : Option Instr :=
  rk 16 0 w fun w => rE Dir6.ofCode w fun dir w => rk 6 0 w fun w => rd 6 w fun xa w => rk 6 0 w fun w => rend w
    (.cqput c dir xa)

/-- Operands of CQGET, opcode 0x29. -/
def decCqget (c : Ctl) (w : Nat) : Option Instr :=
  rk 16 0 w fun w => rE Dir6.ofCode w fun dir w => rk 6 0 w fun w => rk 6 0 w fun w => rd 6 w fun xd w => rend w
    (.cqget c xd dir)

/-- Operands of CQBR, opcode 0x2a. -/
def decCqbr (c : Ctl) (w : Nat) : Option Instr :=
  rd 24 w fun disp w => rE Cond.ofCode w fun cond w => rk 6 0 w fun w => rE Dir6.ofCode w fun dir w => rend w (.cqbr c
    cond dir disp)

/-- Operands of TKINC, opcode 0x2c. -/
def decTkinc (c : Ctl) (w : Nat) : Option Instr :=
  rd 16 w fun imm w => rd 5 w fun n w => rk 1 0 w fun w => rk 6 0 w fun w => rd 6 w fun xa w => rk 6 0 w fun w => rend
    w (.tkinc c n xa imm)

/-- Operands of TKCHK, opcode 0x2d. -/
def decTkchk (c : Ctl) (w : Nat) : Option Instr :=
  rk 16 0 w fun w => rd 5 w fun n w => rk 1 0 w fun w => rk 12 0 w fun w => rd 6 w fun xd w => rend w (.tkchk c xd n)

/-- Operands of MODE, opcode 0x30. -/
def decMode (c : Ctl) (w : Nat) : Option Instr :=
  rb w fun exposed w => rk 3 0 w fun w => rd 4 w fun slack w => rk 20 0 w fun w => rk 12 0 w fun w => rend w (.mode c
    exposed slack)

/-- Operands of LEAVE, opcode 0x31. -/
def decLeave (c : Ctl) (w : Nat) : Option Instr :=
  rd 3 w fun mask w => rk 5 0 w fun w => rd 8 w fun n w => rk 12 0 w fun w => rk 12 0 w fun w => rend w (.leave c n
    mask)

/-- Operands of CAPR, opcode 0x32. -/
def decCapr (c : Ctl) (w : Nat) : Option Instr :=
  rd 16 w fun imm w => rk 12 0 w fun w => rd 6 w fun xa w => rd 6 w fun xd w => rend w (.capr c xd xa imm)

/-- Operands of MFS, opcode 0x33. -/
def decMfs (c : Ctl) (w : Nat) : Option Instr :=
  rd 16 w fun sel w => rk 18 0 w fun w => rd 6 w fun xd w => rend w (.mfs c xd sel)

/-- Operands of MTS, opcode 0x34. -/
def decMts (c : Ctl) (w : Nat) : Option Instr :=
  rd 16 w fun sel w => rk 12 0 w fun w => rd 6 w fun xa w => rk 6 0 w fun w => rend w (.mts c sel xa)

/-- Operands of EXIT, opcode 0x38. -/
def decExit (c : Ctl) (w : Nat) : Option Instr :=
  rk 40 0 w fun w => rend w (.exit c)

/-- Operands of BRK, opcode 0x39. -/
def decBrk (c : Ctl) (w : Nat) : Option Instr :=
  rd 28 w fun code w => rk 12 0 w fun w => rend w (.brk c code)

/-- Operands of SYSC, opcode 0x3a. -/
def decSysc (c : Ctl) (w : Nat) : Option Instr :=
  rd 28 w fun service w => rk 12 0 w fun w => rend w (.sysc c service)

/-- Operands of LDB, opcode 0x40. -/
def decLdb (c : Ctl) (w : Nat) : Option Instr :=
  rd 24 w fun imm w => rd 6 w fun xd w => rk 4 0 w fun w => rd 6 w fun xb w => rend w (.ldb c xd xb imm)

/-- Operands of LDH, opcode 0x41. -/
def decLdh (c : Ctl) (w : Nat) : Option Instr :=
  rd 24 w fun imm w => rd 6 w fun xd w => rk 4 0 w fun w => rd 6 w fun xb w => rend w (.ldh c xd xb imm)

/-- Operands of LDW, opcode 0x42. -/
def decLdw (c : Ctl) (w : Nat) : Option Instr :=
  rd 24 w fun imm w => rd 6 w fun xd w => rk 4 0 w fun w => rd 6 w fun xb w => rend w (.ldw c xd xb imm)

/-- Operands of LDD, opcode 0x43. -/
def decLdd (c : Ctl) (w : Nat) : Option Instr :=
  rd 24 w fun imm w => rd 6 w fun xd w => rk 4 0 w fun w => rd 6 w fun xb w => rend w (.ldd c xd xb imm)

/-- Operands of STB, opcode 0x44. -/
def decStb (c : Ctl) (w : Nat) : Option Instr :=
  rd 24 w fun imm w => rd 6 w fun xs w => rk 4 0 w fun w => rd 6 w fun xb w => rend w (.stb c xs xb imm)

/-- Operands of STH, opcode 0x45. -/
def decSth (c : Ctl) (w : Nat) : Option Instr :=
  rd 24 w fun imm w => rd 6 w fun xs w => rk 4 0 w fun w => rd 6 w fun xb w => rend w (.sth c xs xb imm)

/-- Operands of STW, opcode 0x46. -/
def decStw (c : Ctl) (w : Nat) : Option Instr :=
  rd 24 w fun imm w => rd 6 w fun xs w => rk 4 0 w fun w => rd 6 w fun xb w => rend w (.stw c xs xb imm)

/-- Operands of STD, opcode 0x47. -/
def decStd (c : Ctl) (w : Nat) : Option Instr :=
  rd 24 w fun imm w => rd 6 w fun xs w => rk 4 0 w fun w => rd 6 w fun xb w => rend w (.std c xs xb imm)

/-- Operands of VLD, opcode 0x48. -/
def decVld (c : Ctl) (w : Nat) : Option Instr :=
  rd 24 w fun imm w => rd 10 w fun vq w => rd 6 w fun xb w => rend w (.vld c vq xb imm)

/-- Operands of SPLD, opcode 0x49. -/
def decSpld (c : Ctl) (w : Nat) : Option Instr :=
  rd 16 w fun rcd w => rk 4 0 w fun w => rd 5 w fun tki2 w => rd 5 w fun tki1 w => rd 5 w fun tki0 w => rd 5 w fun tko
    w => rend w (.spld c ⟨tko, tki0, tki1, tki2, rcd⟩)

/-- Operands of SPST, opcode 0x4a. -/
def decSpst (c : Ctl) (w : Nat) : Option Instr :=
  rd 16 w fun rcd w => rk 4 0 w fun w => rd 5 w fun tki2 w => rd 5 w fun tki1 w => rd 5 w fun tki0 w => rd 5 w fun tko
    w => rend w (.spst c ⟨tko, tki0, tki1, tki2, rcd⟩)

/-- Operands of GATH, opcode 0x4b. -/
def decGath (c : Ctl) (w : Nat) : Option Instr :=
  rd 16 w fun rcd w => rk 4 0 w fun w => rd 5 w fun tki2 w => rd 5 w fun tki1 w => rd 5 w fun tki0 w => rd 5 w fun tko
    w => rend w (.gath c ⟨tko, tki0, tki1, tki2, rcd⟩)

/-- Operands of SCAT, opcode 0x4c. -/
def decScat (c : Ctl) (w : Nat) : Option Instr :=
  rd 16 w fun rcd w => rk 4 0 w fun w => rd 5 w fun tki2 w => rd 5 w fun tki1 w => rd 5 w fun tki0 w => rd 5 w fun tko
    w => rend w (.scat c ⟨tko, tki0, tki1, tki2, rcd⟩)

/-- Operands of LDT, opcode 0x4d. -/
def decLdt (c : Ctl) (w : Nat) : Option Instr :=
  rd 16 w fun rcd w => rk 4 0 w fun w => rd 5 w fun tki2 w => rd 5 w fun tki1 w => rd 5 w fun tki0 w => rd 5 w fun tko
    w => rend w (.ldt c ⟨tko, tki0, tki1, tki2, rcd⟩)

/-- Operands of FERRY, opcode 0x50. -/
def decFerry (c : Ctl) (w : Nat) : Option Instr :=
  rd 16 w fun rcd w => rk 4 0 w fun w => rd 5 w fun tki2 w => rd 5 w fun tki1 w => rd 5 w fun tki0 w => rd 5 w fun tko
    w => rend w (.ferry c ⟨tko, tki0, tki1, tki2, rcd⟩)

/-- Operands of FERRY TIER, opcode 0x50. -/
def decFerryTier (c : Ctl) (w : Nat) : Option Instr :=
  rd 16 w fun rcd w => rk 4 1 w fun w => rd 5 w fun tki2 w => rd 5 w fun tki1 w => rd 5 w fun tki0 w => rd 5 w fun tko
    w => rend w (.ferryTier c ⟨tko, tki0, tki1, tki2, rcd⟩)

/-- Operands of FERRY Q, opcode 0x50. -/
def decFerryQ (c : Ctl) (w : Nat) : Option Instr :=
  rd 16 w fun rcd w => rk 4 2 w fun w => rd 5 w fun tki2 w => rd 5 w fun tki1 w => rd 5 w fun tki0 w => rd 5 w fun tko
    w => rend w (.ferryQ c ⟨tko, tki0, tki1, tki2, rcd⟩)

/-- Operands of MARK, opcode 0x52. -/
def decMark (c : Ctl) (w : Nat) : Option Instr :=
  rd 8 w fun id w => rk 20 0 w fun w => rk 12 0 w fun w => rend w (.mark c id)

/-- Operands of FENCE, opcode 0x53. -/
def decFence (c : Ctl) (w : Nat) : Option Instr :=
  rd 2 w fun scope w => rb w fun e w => rk 25 0 w fun w => rk 12 0 w fun w => rend w (.fence c e scope)

/-- Operands of AMO, opcode 0x54. -/
def decAmo (c : Ctl) (w : Nat) : Option Instr :=
  rd 16 w fun imm w => rE AmoOp.ofCode w fun op w => rb w fun dbl w => rk 1 0 w fun w => rd 6 w fun xb w => rd 6 w fun
    xa w => rd 6 w fun xd w => rend w (.amo c op dbl xd xa xb imm)

/-- Operands of RED, opcode 0x55. -/
def decRed (c : Ctl) (w : Nat) : Option Instr :=
  rd 16 w fun rcd w => rE RedOp.ofCode w fun op w => rd 5 w fun tki2 w => rd 5 w fun tki1 w => rd 5 w fun tki0 w => rd
    5 w fun tko w => rend w (.red c op ⟨tko, tki0, tki1, tki2, rcd⟩)

/-- Operands of RCLAIM CFG, opcode 0x58. -/
def decRclaimCfg (c : Ctl) (w : Nat) : Option Instr :=
  rk 16 0 w fun w => rd 4 w fun ring w => rk 2 1 w fun w => rk 6 0 w fun w => rd 6 w fun xa w => rk 6 0 w fun w =>
    rend w (.rclaimCfg c ring xa)

/-- Operands of RCLAIM, opcode 0x58. -/
def decRclaim (c : Ctl) (w : Nat) : Option Instr :=
  rk 16 0 w fun w => rd 4 w fun ring w => rk 2 0 w fun w => rk 12 0 w fun w => rd 6 w fun xd w => rend w (.rclaim c xd
    ring)

/-- Operands of RFILL, opcode 0x59. -/
def decRfill (c : Ctl) (w : Nat) : Option Instr :=
  rk 16 0 w fun w => rd 4 w fun ring w => rk 2 0 w fun w => rk 18 0 w fun w => rend w (.rfill c ring)

/-- Operands of RWAITF, opcode 0x5a. -/
def decRwaitf (c : Ctl) (w : Nat) : Option Instr :=
  rd 16 w fun n w => rd 4 w fun ring w => rk 2 0 w fun w => rk 12 0 w fun w => rd 6 w fun xd w => rend w (.rwaitf c xd
    ring n)

/-- Operands of RWAITE, opcode 0x5b. -/
def decRwaite (c : Ctl) (w : Nat) : Option Instr :=
  rd 16 w fun n w => rd 4 w fun ring w => rk 2 0 w fun w => rk 12 0 w fun w => rd 6 w fun xd w => rend w (.rwaite c xd
    ring n)

/-- Operands of RTAKE, opcode 0x5c. -/
def decRtake (c : Ctl) (w : Nat) : Option Instr :=
  rk 16 0 w fun w => rd 4 w fun ring w => rk 2 0 w fun w => rk 12 0 w fun w => rd 6 w fun xd w => rend w (.rtake c xd
    ring)

/-- Operands of RFREE, opcode 0x5d. -/
def decRfree (c : Ctl) (w : Nat) : Option Instr :=
  rk 16 0 w fun w => rd 4 w fun ring w => rk 2 0 w fun w => rk 18 0 w fun w => rend w (.rfree c ring)

/-- Operands of MSEND, opcode 0x60. -/
def decMsend (c : Ctl) (w : Nat) : Option Instr :=
  rd 16 w fun rcd w => rk 4 0 w fun w => rd 5 w fun tki2 w => rd 5 w fun tki1 w => rd 5 w fun tki0 w => rd 5 w fun tko
    w => rend w (.msend c ⟨tko, tki0, tki1, tki2, rcd⟩)

/-- Operands of MRECV CFG, opcode 0x61. -/
def decMrecvCfg (c : Ctl) (w : Nat) : Option Instr :=
  rk 16 0 w fun w => rd 2 w fun mq w => rk 2 1 w fun w => rk 2 0 w fun w => rk 6 0 w fun w => rd 6 w fun xa w => rk 6
    0 w fun w => rend w (.mrecvCfg c mq xa)

/-- Operands of MRECV, opcode 0x61. -/
def decMrecv (c : Ctl) (w : Nat) : Option Instr :=
  rk 16 0 w fun w => rd 2 w fun mq w => rk 2 0 w fun w => rk 2 0 w fun w => rk 12 0 w fun w => rd 6 w fun xd w => rend
    w (.mrecv c xd mq)

/-- Operands of MRECV NB, opcode 0x61. -/
def decMrecvNb (c : Ctl) (w : Nat) : Option Instr :=
  rk 16 0 w fun w => rd 2 w fun mq w => rk 2 2 w fun w => rk 2 0 w fun w => rk 12 0 w fun w => rd 6 w fun xd w => rend
    w (.mrecvNb c xd mq)

/-- Operands of MQCRED, opcode 0x62. -/
def decMqcred (c : Ctl) (w : Nat) : Option Instr :=
  rd 16 w fun n w => rd 2 w fun mq w => rk 4 0 w fun w => rk 18 0 w fun w => rend w (.mqcred c mq n)

/-- Operands of STN, opcode 0x64. -/
def decStn (c : Ctl) (w : Nat) : Option Instr :=
  rd 16 w fun rcd w => rk 4 0 w fun w => rd 5 w fun tki2 w => rd 5 w fun tki1 w => rd 5 w fun tki0 w => rd 5 w fun tko
    w => rend w (.stn c ⟨tko, tki0, tki1, tki2, rcd⟩)

/-- Operands of STN S, opcode 0x64. -/
def decStnS (c : Ctl) (w : Nat) : Option Instr :=
  rd 16 w fun rcd w => rk 4 1 w fun w => rd 5 w fun tki2 w => rd 5 w fun tki1 w => rd 5 w fun tki0 w => rd 5 w fun tko
    w => rend w (.stnS c ⟨tko, tki0, tki1, tki2, rcd⟩)

/-- Operands of BADDR, opcode 0x65. -/
def decBaddr (c : Ctl) (w : Nat) : Option Instr :=
  rd 16 w fun imm w => rk 6 0 w fun w => rd 6 w fun xb w => rd 6 w fun xa w => rd 6 w fun xd w => rend w (.baddr c xd
    xa xb imm)

/-- Operands of BSHARE, opcode 0x66. -/
def decBshare (c : Ctl) (w : Nat) : Option Instr :=
  rk 28 0 w fun w => rd 6 w fun xa w => rk 6 0 w fun w => rend w (.bshare c xa)

/-- Operands of RLQ, opcode 0x67. -/
def decRlq (c : Ctl) (w : Nat) : Option Instr :=
  rk 28 0 w fun w => rd 6 w fun xa w => rk 6 0 w fun w => rend w (.rlq c xa)

/-- Operands of LBIND, opcode 0x68. -/
def decLbind (c : Ctl) (w : Nat) : Option Instr :=
  rb w fun shr w => rk 15 0 w fun w => rd 6 w fun slot w => rk 6 0 w fun w => rd 6 w fun xa w => rk 6 0 w fun w =>
    rend w (.lbind c slot xa shr)

/-- Operands of LUNBIND, opcode 0x69. -/
def decLunbind (c : Ctl) (w : Nat) : Option Instr :=
  rk 16 0 w fun w => rd 6 w fun slot w => rk 18 0 w fun w => rend w (.lunbind c slot)

/-- Operands of TSPAWN, opcode 0x6a. -/
def decTspawn (c : Ctl) (w : Nat) : Option Instr :=
  rd 16 w fun rcd w => rk 4 0 w fun w => rd 5 w fun tki2 w => rd 5 w fun tki1 w => rd 5 w fun tki0 w => rd 5 w fun tko
    w => rend w (.tspawn c ⟨tko, tki0, tki1, tki2, rcd⟩)

/-- Operands of TGRAPH, opcode 0x6b. -/
def decTgraph (c : Ctl) (w : Nat) : Option Instr :=
  rd 16 w fun rcd w => rk 4 0 w fun w => rd 5 w fun tki2 w => rd 5 w fun tki1 w => rd 5 w fun tki0 w => rd 5 w fun tko
    w => rend w (.tgraph c ⟨tko, tki0, tki1, tki2, rcd⟩)

/-- Operands of TYIELD FRONT, opcode 0x6c. -/
def decTyieldFront (c : Ctl) (w : Nat) : Option Instr :=
  rk 16 0 w fun w => rk 6 0 w fun w => rk 6 0 w fun w => rk 6 0 w fun w => rk 6 0 w fun w => rend w (.tyieldFront c)

/-- Operands of TYIELD PAST, opcode 0x6c. -/
def decTyieldPast (c : Ctl) (w : Nat) : Option Instr :=
  rk 16 0 w fun w => rk 6 1 w fun w => rk 6 0 w fun w => rd 6 w fun xa w => rk 6 0 w fun w => rend w (.tyieldPast c
    xa)

/-- Operands of COLL ALLRED, opcode 0x6d. -/
def decCollAllred (c : Ctl) (w : Nat) : Option Instr :=
  rd 16 w fun rcd w => rk 4 0 w fun w => rd 5 w fun tki2 w => rd 5 w fun tki1 w => rd 5 w fun tki0 w => rd 5 w fun tko
    w => rend w (.collAllred c ⟨tko, tki0, tki1, tki2, rcd⟩)

/-- Operands of COLL RED, opcode 0x6d. -/
def decCollRed (c : Ctl) (w : Nat) : Option Instr :=
  rd 16 w fun rcd w => rk 4 1 w fun w => rd 5 w fun tki2 w => rd 5 w fun tki1 w => rd 5 w fun tki0 w => rd 5 w fun tko
    w => rend w (.collRed c ⟨tko, tki0, tki1, tki2, rcd⟩)

/-- Operands of COLL BCAST, opcode 0x6d. -/
def decCollBcast (c : Ctl) (w : Nat) : Option Instr :=
  rd 16 w fun rcd w => rk 4 2 w fun w => rd 5 w fun tki2 w => rd 5 w fun tki1 w => rd 5 w fun tki0 w => rd 5 w fun tko
    w => rend w (.collBcast c ⟨tko, tki0, tki1, tki2, rcd⟩)

/-- Operands of COLL BAR, opcode 0x6d. -/
def decCollBar (c : Ctl) (w : Nat) : Option Instr :=
  rd 16 w fun rcd w => rk 4 3 w fun w => rd 5 w fun tki2 w => rd 5 w fun tki1 w => rd 5 w fun tki0 w => rd 5 w fun tko
    w => rend w (.collBar c ⟨tko, tki0, tki1, tki2, rcd⟩)

/-- Operands of VADD, opcode 0x80. -/
def decVadd (c : Ctl) (w : Nat) : Option Instr :=
  rE RM.ofCode w fun rm w => rb w fun sat w => rE ETy.ofCode w fun ty w => rb w fun pb w => rb w fun pa w => rd 10 w
    fun vb w => rd 10 w fun va w => rd 10 w fun vd w => rend w (.vadd c ⟨vd, va, vb, pa, pb⟩ ty ⟨sat, rm⟩)

/-- Operands of VSUB, opcode 0x81. -/
def decVsub (c : Ctl) (w : Nat) : Option Instr :=
  rE RM.ofCode w fun rm w => rb w fun sat w => rE ETy.ofCode w fun ty w => rb w fun pb w => rb w fun pa w => rd 10 w
    fun vb w => rd 10 w fun va w => rd 10 w fun vd w => rend w (.vsub c ⟨vd, va, vb, pa, pb⟩ ty ⟨sat, rm⟩)

/-- Operands of VMUL, opcode 0x82. -/
def decVmul (c : Ctl) (w : Nat) : Option Instr :=
  rE RM.ofCode w fun rm w => rb w fun sat w => rE ETy.ofCode w fun ty w => rb w fun pb w => rb w fun pa w => rd 10 w
    fun vb w => rd 10 w fun va w => rd 10 w fun vd w => rend w (.vmul c ⟨vd, va, vb, pa, pb⟩ ty ⟨sat, rm⟩)

/-- Operands of VDIV, opcode 0x83. -/
def decVdiv (c : Ctl) (w : Nat) : Option Instr :=
  rE RM.ofCode w fun rm w => rb w fun sat w => rE ETy.ofCode w fun ty w => rb w fun pb w => rb w fun pa w => rd 10 w
    fun vb w => rd 10 w fun va w => rd 10 w fun vd w => rend w (.vdiv c ⟨vd, va, vb, pa, pb⟩ ty ⟨sat, rm⟩)

/-- Operands of VMIN, opcode 0x84. -/
def decVmin (c : Ctl) (w : Nat) : Option Instr :=
  rk 4 0 w fun w => rE ETy.ofCode w fun ty w => rb w fun pb w => rb w fun pa w => rd 10 w fun vb w => rd 10 w fun va w
    => rd 10 w fun vd w => rend w (.vmin c ⟨vd, va, vb, pa, pb⟩ ty)

/-- Operands of VMAX, opcode 0x85. -/
def decVmax (c : Ctl) (w : Nat) : Option Instr :=
  rk 4 0 w fun w => rE ETy.ofCode w fun ty w => rb w fun pb w => rb w fun pa w => rd 10 w fun vb w => rd 10 w fun va w
    => rd 10 w fun vd w => rend w (.vmax c ⟨vd, va, vb, pa, pb⟩ ty)

/-- Operands of VFMA FP32, opcode 0x86. -/
def decVfmaFp32 (c : Ctl) (w : Nat) : Option Instr :=
  rd 10 w fun vc w => rd 10 w fun vb w => rd 10 w fun va w => rd 10 w fun vd w => rend w (.vfmaFp32 c ⟨vd, va, vb,
    vc⟩)

/-- Operands of VFMA BF16, opcode 0x87. -/
def decVfmaBf16 (c : Ctl) (w : Nat) : Option Instr :=
  rd 10 w fun vc w => rd 10 w fun vb w => rd 10 w fun va w => rd 10 w fun vd w => rend w (.vfmaBf16 c ⟨vd, va, vb,
    vc⟩)

/-- Operands of VFMA FP16, opcode 0x88. -/
def decVfmaFp16 (c : Ctl) (w : Nat) : Option Instr :=
  rd 10 w fun vc w => rd 10 w fun vb w => rd 10 w fun va w => rd 10 w fun vd w => rend w (.vfmaFp16 c ⟨vd, va, vb,
    vc⟩)

/-- Operands of VABS, opcode 0x89. -/
def decVabs (c : Ctl) (w : Nat) : Option Instr :=
  rk 3 0 w fun w => rb w fun sat w => rE ETy.ofCode w fun ty w => rk 1 0 w fun w => rb w fun pa w => rk 10 0 w fun w
    => rd 10 w fun va w => rd 10 w fun vd w => rend w (.vabs c ⟨vd, va, pa⟩ ty sat)

/-- Operands of VNEG, opcode 0x8a. -/
def decVneg (c : Ctl) (w : Nat) : Option Instr :=
  rk 3 0 w fun w => rb w fun sat w => rE ETy.ofCode w fun ty w => rk 1 0 w fun w => rb w fun pa w => rk 10 0 w fun w
    => rd 10 w fun va w => rd 10 w fun vd w => rend w (.vneg c ⟨vd, va, pa⟩ ty sat)

/-- Operands of VAND, opcode 0x8b. -/
def decVand (c : Ctl) (w : Nat) : Option Instr :=
  rk 8 0 w fun w => rb w fun pb w => rb w fun pa w => rd 10 w fun vb w => rd 10 w fun va w => rd 10 w fun vd w => rend
    w (.vand c ⟨vd, va, vb, pa, pb⟩)

/-- Operands of VOR, opcode 0x8c. -/
def decVor (c : Ctl) (w : Nat) : Option Instr :=
  rk 8 0 w fun w => rb w fun pb w => rb w fun pa w => rd 10 w fun vb w => rd 10 w fun va w => rd 10 w fun vd w => rend
    w (.vor c ⟨vd, va, vb, pa, pb⟩)

/-- Operands of VXOR, opcode 0x8d. -/
def decVxor (c : Ctl) (w : Nat) : Option Instr :=
  rk 8 0 w fun w => rb w fun pb w => rb w fun pa w => rd 10 w fun vb w => rd 10 w fun va w => rd 10 w fun vd w => rend
    w (.vxor c ⟨vd, va, vb, pa, pb⟩)

/-- Operands of VSHL, opcode 0x8e. -/
def decVshl (c : Ctl) (w : Nat) : Option Instr :=
  rk 4 0 w fun w => rE ETy.ofCode w fun ty w => rb w fun pb w => rb w fun pa w => rd 10 w fun vb w => rd 10 w fun va w
    => rd 10 w fun vd w => rend w (.vshl c ⟨vd, va, vb, pa, pb⟩ ty)

/-- Operands of VSHR, opcode 0x8f. -/
def decVshr (c : Ctl) (w : Nat) : Option Instr :=
  rb w fun arith w => rk 3 0 w fun w => rE ETy.ofCode w fun ty w => rb w fun pb w => rb w fun pa w => rd 10 w fun vb w
    => rd 10 w fun va w => rd 10 w fun vd w => rend w (.vshr c ⟨vd, va, vb, pa, pb⟩ ty arith)

/-- Operands of VADDI, opcode 0x90. -/
def decVaddi (c : Ctl) (w : Nat) : Option Instr :=
  rd 15 w fun imm w => rE ETy.ofCode w fun ty w => rb w fun pa w => rd 10 w fun va w => rd 10 w fun vd w => rend w
    (.vaddi c ⟨vd, va, pa⟩ ty imm)

/-- Operands of VMULI, opcode 0x91. -/
def decVmuli (c : Ctl) (w : Nat) : Option Instr :=
  rd 15 w fun imm w => rE ETy.ofCode w fun ty w => rb w fun pa w => rd 10 w fun va w => rd 10 w fun vd w => rend w
    (.vmuli c ⟨vd, va, pa⟩ ty imm)

/-- Operands of VSPLAT IMM, opcode 0x92. -/
def decVsplatImm (c : Ctl) (w : Nat) : Option Instr :=
  rd 15 w fun imm w => rE ETy.ofCode w fun ty w => rk 1 0 w fun w => rk 10 0 w fun w => rd 10 w fun vd w => rend w
    (.vsplatImm c vd ty imm)

/-- Operands of VSPLAT REG, opcode 0x92. -/
def decVsplatReg (c : Ctl) (w : Nat) : Option Instr :=
  rk 15 0 w fun w => rE ETy.ofCode w fun ty w => rk 1 1 w fun w => rd 6 w fun xa w => rk 4 0 w fun w => rd 10 w fun vd
    w => rend w (.vsplatReg c vd ty xa)

/-- Operands of VCVT, opcode 0x93. -/
def decVcvt (c : Ctl) (w : Nat) : Option Instr :=
  rE ETy.ofCode w fun dst w => rE RM.ofCode w fun rm w => rb w fun sat w => rk 7 0 w fun w => rE ETy.ofCode w fun src
    w => rb w fun pa w => rd 10 w fun va w => rd 10 w fun vd w => rend w (.vcvt c ⟨vd, va, pa⟩ src dst rm sat)

/-- Operands of VCMP, opcode 0x94. -/
def decVcmp (c : Ctl) (w : Nat) : Option Instr :=
  rE VCond.ofCode w fun cond w => rE ETy.ofCode w fun ty w => rb w fun pb w => rb w fun pa w => rd 10 w fun vb w => rd
    10 w fun va w => rd 10 w fun vd w => rend w (.vcmp c ⟨vd, va, vb, pa, pb⟩ ty cond)

/-- Operands of VSEL 32, opcode 0x95. -/
def decVsel32 (c : Ctl) (w : Nat) : Option Instr :=
  rd 10 w fun vc w => rd 10 w fun vb w => rd 10 w fun va w => rd 10 w fun vd w => rend w (.vsel32 c ⟨vd, va, vb, vc⟩)

/-- Operands of VSEL 16, opcode 0x96. -/
def decVsel16 (c : Ctl) (w : Nat) : Option Instr :=
  rd 10 w fun vc w => rd 10 w fun vb w => rd 10 w fun va w => rd 10 w fun vd w => rend w (.vsel16 c ⟨vd, va, vb, vc⟩)

/-- Operands of VSEL 8, opcode 0x97. -/
def decVsel8 (c : Ctl) (w : Nat) : Option Instr :=
  rd 10 w fun vc w => rd 10 w fun vb w => rd 10 w fun va w => rd 10 w fun vd w => rend w (.vsel8 c ⟨vd, va, vb, vc⟩)

/-- Operands of VREDS, opcode 0x98. -/
def decVreds (c : Ctl) (w : Nat) : Option Instr :=
  rE RM.ofCode w fun rm w => rb w fun sat w => rE ETy.ofCode w fun ty w => rb w fun pb w => rb w fun pa w => rd 10 w
    fun vb w => rd 10 w fun va w => rd 10 w fun vd w => rend w (.vreds c ⟨vd, va, vb, pa, pb⟩ ty ⟨sat, rm⟩)

/-- Operands of VREDM, opcode 0x99. -/
def decVredm (c : Ctl) (w : Nat) : Option Instr :=
  rE MaxK.ofCode w fun kind w => rE ETy.ofCode w fun ty w => rk 1 0 w fun w => rb w fun pa w => rk 10 0 w fun w => rd
    10 w fun va w => rd 10 w fun vd w => rend w (.vredm c ⟨vd, va, pa⟩ ty kind)

/-- Operands of VSCAN, opcode 0x9a. -/
def decVscan (c : Ctl) (w : Nat) : Option Instr :=
  rE RM.ofCode w fun rm w => rb w fun ex w => rE ETy.ofCode w fun ty w => rb w fun pb w => rb w fun pa w => rd 10 w
    fun vb w => rd 10 w fun va w => rd 10 w fun vd w => rend w (.vscan c ⟨vd, va, vb, pa, pb⟩ ty ex rm)

/-- Operands of VSORTC COUNT, opcode 0x9b. -/
def decVsortcCount (c : Ctl) (w : Nat) : Option Instr :=
  rk 2 0 w fun w => rd 2 w fun win w => rk 4 5 w fun w => rb w fun pb w => rb w fun pa w => rd 10 w fun vb w => rd 10
    w fun va w => rd 10 w fun vd w => rend w (.vsortcCount c ⟨vd, va, vb, pa, pb⟩ win)

/-- Operands of VSORTC ORDER, opcode 0x9b. -/
def decVsortcOrder (c : Ctl) (w : Nat) : Option Instr :=
  rk 2 1 w fun w => rk 2 0 w fun w => rk 4 5 w fun w => rk 1 0 w fun w => rb w fun pa w => rk 10 0 w fun w => rd 10 w
    fun va w => rd 10 w fun vd w => rend w (.vsortcOrder c ⟨vd, va, pa⟩)

/-- Operands of VSORTC SLOT, opcode 0x9b. -/
def decVsortcSlot (c : Ctl) (w : Nat) : Option Instr :=
  rk 2 2 w fun w => rd 2 w fun win w => rk 4 5 w fun w => rb w fun pb w => rb w fun pa w => rd 10 w fun vb w => rd 10
    w fun va w => rd 10 w fun vd w => rend w (.vsortcSlot c ⟨vd, va, vb, pa, pb⟩ win)

/-- Operands of VSPSEL MASK, opcode 0x9c. -/
def decVspselMask (c : Ctl) (w : Nat) : Option Instr :=
  rk 4 0 w fun w => rE ETy.ofCode w fun ty w => rk 1 0 w fun w => rb w fun pa w => rk 10 0 w fun w => rd 10 w fun va w
    => rd 10 w fun vd w => rend w (.vspselMask c ⟨vd, va, pa⟩ ty)

/-- Operands of VSPSEL META, opcode 0x9c. -/
def decVspselMeta (c : Ctl) (w : Nat) : Option Instr :=
  rk 4 1 w fun w => rE ETy.ofCode w fun ty w => rk 1 0 w fun w => rb w fun pa w => rk 10 0 w fun w => rd 10 w fun va w
    => rd 10 w fun vd w => rend w (.vspselMeta c ⟨vd, va, pa⟩ ty)

/-- Operands of VSPSEL PACK, opcode 0x9c. -/
def decVspselPack (c : Ctl) (w : Nat) : Option Instr :=
  rk 4 2 w fun w => rE ETy.ofCode w fun ty w => rk 1 0 w fun w => rb w fun pa w => rk 10 0 w fun w => rd 10 w fun va w
    => rd 10 w fun vd w => rend w (.vspselPack c ⟨vd, va, pa⟩ ty)

/-- Operands of VRMSN FP32, opcode 0x9d. -/
def decVrmsnFp32 (c : Ctl) (w : Nat) : Option Instr :=
  rd 10 w fun vc w => rd 10 w fun vb w => rd 10 w fun va w => rd 10 w fun vd w => rend w (.vrmsnFp32 c ⟨vd, va, vb,
    vc⟩)

/-- Operands of VRMSN BF16, opcode 0x9e. -/
def decVrmsnBf16 (c : Ctl) (w : Nat) : Option Instr :=
  rd 10 w fun vc w => rd 10 w fun vb w => rd 10 w fun va w => rd 10 w fun vd w => rend w (.vrmsnBf16 c ⟨vd, va, vb,
    vc⟩)

/-- Operands of VACT, opcode 0x9f. -/
def decVact (c : Ctl) (w : Nat) : Option Instr :=
  rE ActFn.ofCode w fun fn w => rE ETy.ofCode w fun ty w => rb w fun pb w => rb w fun pa w => rd 10 w fun vb w => rd
    10 w fun va w => rd 10 w fun vd w => rend w (.vact c ⟨vd, va, vb, pa, pb⟩ ty fn)

/-- Operands of VEXP, opcode 0xa0. -/
def decVexp (c : Ctl) (w : Nat) : Option Instr :=
  rk 4 0 w fun w => rE ETy.ofCode w fun ty w => rk 1 0 w fun w => rb w fun pa w => rk 10 0 w fun w => rd 10 w fun va w
    => rd 10 w fun vd w => rend w (.vexp c ⟨vd, va, pa⟩ ty)

/-- Operands of VEXP2, opcode 0xa0. -/
def decVexp2 (c : Ctl) (w : Nat) : Option Instr :=
  rk 4 1 w fun w => rE ETy.ofCode w fun ty w => rk 1 0 w fun w => rb w fun pa w => rk 10 0 w fun w => rd 10 w fun va w
    => rd 10 w fun vd w => rend w (.vexp2 c ⟨vd, va, pa⟩ ty)

/-- Operands of VRCP, opcode 0xa1. -/
def decVrcp (c : Ctl) (w : Nat) : Option Instr :=
  rk 4 0 w fun w => rE ETy.ofCode w fun ty w => rk 1 0 w fun w => rb w fun pa w => rk 10 0 w fun w => rd 10 w fun va w
    => rd 10 w fun vd w => rend w (.vrcp c ⟨vd, va, pa⟩ ty)

/-- Operands of VRSQ, opcode 0xa2. -/
def decVrsq (c : Ctl) (w : Nat) : Option Instr :=
  rk 4 0 w fun w => rE ETy.ofCode w fun ty w => rk 1 0 w fun w => rb w fun pa w => rk 10 0 w fun w => rd 10 w fun va w
    => rd 10 w fun vd w => rend w (.vrsq c ⟨vd, va, pa⟩ ty)

/-- Operands of VPERM, opcode 0xa3. -/
def decVperm (c : Ctl) (w : Nat) : Option Instr :=
  rb w fun hi w => rk 3 0 w fun w => rE ETy.ofCode w fun ty w => rb w fun pb w => rb w fun pa w => rd 10 w fun vb w =>
    rd 10 w fun va w => rd 10 w fun vd w => rend w (.vperm c ⟨vd, va, vb, pa, pb⟩ ty hi)

/-- Operands of VLDS, opcode 0xa4. -/
def decVlds (c : Ctl) (w : Nat) : Option Instr :=
  rd 15 w fun imm w => rk 4 0 w fun w => rk 1 0 w fun w => rd 6 w fun xa w => rk 4 0 w fun w => rd 10 w fun vd w =>
    rend w (.vlds c vd xa imm)

/-- Operands of VSTS, opcode 0xa5. -/
def decVsts (c : Ctl) (w : Nat) : Option Instr :=
  rd 15 w fun imm w => rk 4 0 w fun w => rb w fun pa w => rd 10 w fun va w => rd 6 w fun xa w => rk 4 0 w fun w =>
    rend w (.vsts c va pa xa imm)

/-- Operands of VQST, opcode 0xa6. -/
def decVqst (c : Ctl) (w : Nat) : Option Instr :=
  rk 20 0 w fun w => rd 10 w fun vn w => rd 6 w fun xd w => rk 4 0 w fun w => rend w (.vqst c xd vn)

/-- Operands of VMOV, opcode 0xa7. -/
def decVmov (c : Ctl) (w : Nat) : Option Instr :=
  rk 8 0 w fun w => rk 1 0 w fun w => rb w fun pa w => rk 10 0 w fun w => rd 10 w fun va w => rd 10 w fun vd w => rend
    w (.vmov c ⟨vd, va, pa⟩)

/-- Operands of EXADD, opcode 0xa8. -/
def decExadd (c : Ctl) (w : Nat) : Option Instr :=
  rk 4 0 w fun w => rE ETy.ofCode w fun ty w => rk 1 0 w fun w => rb w fun pa w => rk 10 0 w fun w => rd 10 w fun va w
    => rd 6 w fun d w => rk 4 0 w fun w => rend w (.exadd c d va pa ty)

/-- Operands of EXADD L, opcode 0xa8. -/
def decExaddL (c : Ctl) (w : Nat) : Option Instr :=
  rk 4 1 w fun w => rE ETy.ofCode w fun ty w => rk 1 0 w fun w => rb w fun pa w => rd 6 w fun len1 w => rk 4 0 w fun w
    => rd 10 w fun va w => rd 6 w fun d w => rk 4 0 w fun w => rend w (.exaddL c d va len1 pa ty)

/-- Operands of EXRD, opcode 0xa9. -/
def decExrd (c : Ctl) (w : Nat) : Option Instr :=
  rb w fun clr w => rk 3 0 w fun w => rk 4 0 w fun w => rk 2 0 w fun w => rd 6 w fun len1 w => rk 4 0 w fun w => rd 6
    w fun a w => rk 4 0 w fun w => rd 10 w fun vd w => rend w (.exrd c vd a len1 clr)

/-- Operands of EXCLR, opcode 0xaa. -/
def decExclr (c : Ctl) (w : Nat) : Option Instr :=
  rd 6 w fun len1 w => rk 9 0 w fun w => rk 4 0 w fun w => rk 1 0 w fun w => rd 6 w fun a w => rk 4 0 w fun w => rk 10
    0 w fun w => rend w (.exclr c a len1)

/-- Operands of FQPUSH, opcode 0xc0. -/
def decFqpush (c : Ctl) (w : Nat) : Option Instr :=
  rk 28 0 w fun w => rd 6 w fun xa w => rk 6 0 w fun w => rend w (.fqpush c xa)

/-- Operands of FQMODE, opcode 0xc1. -/
def decFqmode (c : Ctl) (w : Nat) : Option Instr :=
  rE RM.ofCode w fun rm w => rk 25 0 w fun w => rk 12 0 w fun w => rend w (.fqmode c rm)

/-- Operands of SCW, opcode 0xc2. -/
def decScw (c : Ctl) (w : Nat) : Option Instr :=
  rd 16 w fun imm w => rd 4 w fun sc w => rk 2 0 w fun w => rk 6 0 w fun w => rd 6 w fun xa w => rk 6 0 w fun w =>
    rend w (.scw c sc xa imm)

/-- Operands of CTWR, opcode 0xc3. -/
def decCtwr (c : Ctl) (w : Nat) : Option Instr :=
  rd 16 w fun imm w => rd 4 w fun entry w => rb w fun bank w => rk 1 0 w fun w => rk 6 0 w fun w => rd 6 w fun xa w =>
    rk 6 0 w fun w => rend w (.ctwr c bank entry xa imm)

/-- Operands of NESTW, opcode 0xc4. -/
def decNestw (c : Ctl) (w : Nat) : Option Instr :=
  rd 16 w fun imm w => rd 3 w fun nest w => rk 3 0 w fun w => rk 6 0 w fun w => rd 6 w fun xa w => rk 6 0 w fun w =>
    rend w (.nestw c nest xa imm)

/-- Operands of TGO, opcode 0xc8. -/
def decTgo (c : Ctl) (w : Nat) : Option Instr :=
  rb w fun accum w => rb w fun adv w => rk 2 0 w fun w => rd 3 w fun gang w => rd 6 w fun xk w => rd 6 w fun xn w =>
    rd 6 w fun xm w => rd 8 w fun profile w => rd 3 w fun nest w => rd 4 w fun acc w => rend w (.tgo c ⟨acc, nest,
    profile, xm, xn, xk, gang, adv, accum⟩)

/-- Operands of TGO G, opcode 0xc9. -/
def decTgoG (c : Ctl) (w : Nat) : Option Instr :=
  rb w fun accum w => rb w fun adv w => rk 2 0 w fun w => rd 3 w fun gang w => rd 6 w fun xk w => rd 6 w fun xn w =>
    rd 6 w fun xm w => rd 8 w fun profile w => rd 3 w fun nest w => rd 4 w fun acc w => rend w (.tgoG c ⟨acc, nest,
    profile, xm, xn, xk, gang, adv, accum⟩)

/-- Operands of TGO SP, opcode 0xca. -/
def decTgoSp (c : Ctl) (w : Nat) : Option Instr :=
  rb w fun accum w => rb w fun adv w => rk 2 0 w fun w => rd 3 w fun gang w => rd 6 w fun xk w => rd 6 w fun xn w =>
    rd 6 w fun xm w => rd 8 w fun profile w => rd 3 w fun nest w => rd 4 w fun acc w => rend w (.tgoSp c ⟨acc, nest,
    profile, xm, xn, xk, gang, adv, accum⟩)

/-- Operands of ACCZ, opcode 0xd0. -/
def decAccz (c : Ctl) (w : Nat) : Option Instr :=
  rk 36 0 w fun w => rd 4 w fun acc w => rend w (.accz c acc)

/-- Operands of ACCRD, opcode 0xd1. -/
def decAccrd (c : Ctl) (w : Nat) : Option Instr :=
  rd 7 w fun row w => rk 1 0 w fun w => rd 6 w fun xa w => rk 1 0 w fun w => rE AccTy.ofCode w fun ty w => rk 1 0 w
    fun w => rd 4 w fun acc w => rk 6 0 w fun w => rd 10 w fun vd w => rend w (.accrd c vd acc ty xa row)

/-- Operands of ACCMOV, opcode 0xd2. -/
def decAccmov (c : Ctl) (w : Nat) : Option Instr :=
  rk 4 0 w fun w => rb w fun add w => rk 2 0 w fun w => rd 4 w fun accS w => rk 2 0 w fun w => rk 12 0 w fun w => rk 8
    0 w fun w => rk 3 0 w fun w => rd 4 w fun accD w => rend w (.accmov c accD accS add)

/-- Operands of ACCST, opcode 0xd3. -/
def decAccst (c : Ctl) (w : Nat) : Option Instr :=
  rk 1 0 w fun w => rb w fun adv w => rk 2 0 w fun w => rk 3 0 w fun w => rk 6 0 w fun w => rd 6 w fun xn w => rd 6 w
    fun xm w => rk 8 0 w fun w => rd 3 w fun nest w => rd 4 w fun acc w => rend w (.accst c ⟨acc, nest, xm, xn,
    adv⟩)

/-- Operands of ACCLD, opcode 0xd4. -/
def decAccld (c : Ctl) (w : Nat) : Option Instr :=
  rk 1 0 w fun w => rb w fun adv w => rk 2 0 w fun w => rk 3 0 w fun w => rk 6 0 w fun w => rd 6 w fun xn w => rd 6 w
    fun xm w => rk 8 0 w fun w => rd 3 w fun nest w => rd 4 w fun acc w => rend w (.accld c ⟨acc, nest, xm, xn,
    adv⟩)

/-- Operands of LAPP, opcode 0xd8. -/
def decLapp (c : Ctl) (w : Nat) : Option Instr :=
  rb w fun bf w => rk 3 0 w fun w => rk 10 0 w fun w => rd 10 w fun qb w => rd 10 w fun qa w => rd 6 w fun slot w =>
    rend w (.lapp c slot qa qb bf)

/-- Operands of LAPPB, opcode 0xd9. -/
def decLappb (c : Ctl) (w : Nat) : Option Instr :=
  rb w fun bf w => rk 3 0 w fun w => rd 4 w fun j w => rk 6 0 w fun w => rd 10 w fun qb w => rd 10 w fun qa w => rd 6
    w fun slot w => rend w (.lappb c slot qa qb j bf)

/-- Operands of LREAD ORD, opcode 0xda. -/
def decLreadOrd (c : Ctl) (w : Nat) : Option Instr :=
  rk 2 0 w fun w => rb w fun div w => rb w fun bf w => rd 10 w fun qc w => rd 10 w fun qb w => rd 10 w fun qa w => rd
    6 w fun slot w => rend w (.lreadOrd c slot qa qb qc bf div)

/-- Operands of LREAD EXA, opcode 0xda. -/
def decLreadExa (c : Ctl) (w : Nat) : Option Instr :=
  rk 2 1 w fun w => rb w fun div w => rb w fun bf w => rd 10 w fun qc w => rd 10 w fun qb w => rd 10 w fun qa w => rd
    6 w fun slot w => rend w (.lreadExa c slot qa qb qc bf div)

/-- Operands of LREAD RUNGS, opcode 0xda. -/
def decLreadRungs (c : Ctl) (w : Nat) : Option Instr :=
  rk 2 2 w fun w => rk 1 0 w fun w => rb w fun bf w => rd 10 w fun qc w => rd 10 w fun qb w => rd 10 w fun qa w => rd
    6 w fun slot w => rend w (.lreadRungs c slot qa qb qc bf)

/-- Operands of LFORK, opcode 0xdb. -/
def decLfork (c : Ctl) (w : Nat) : Option Instr :=
  rk 24 0 w fun w => rd 6 w fun slotS w => rk 4 0 w fun w => rd 6 w fun slotD w => rend w (.lfork c slotD slotS)

/-- Operands of LTRUNC LOW, opcode 0xdc. -/
def decLtruncLow (c : Ctl) (w : Nat) : Option Instr :=
  rk 4 0 w fun w => rk 20 0 w fun w => rd 6 w fun xm w => rk 4 0 w fun w => rd 6 w fun slot w => rend w (.ltruncLow c
    slot xm)

/-- Operands of LTRUNC CKPT, opcode 0xdc. -/
def decLtruncCkpt (c : Ctl) (w : Nat) : Option Instr :=
  rk 4 1 w fun w => rk 20 0 w fun w => rd 6 w fun slotC w => rk 4 0 w fun w => rd 6 w fun slot w => rend w
    (.ltruncCkpt c slot slotC)

/-- Operands of LDROP, opcode 0xdd. -/
def decLdrop (c : Ctl) (w : Nat) : Option Instr :=
  rk 34 0 w fun w => rd 6 w fun slot w => rend w (.ldrop c slot)

/-- Operands of LSTAT, opcode 0xde. -/
def decLstat (c : Ctl) (w : Nat) : Option Instr :=
  rk 4 0 w fun w => rd 10 w fun qc w => rk 20 0 w fun w => rd 6 w fun slot w => rend w (.lstat c slot qc)

/-- Operands of TAPCHK, opcode 0xe0. -/
def decTapchk (c : Ctl) (w : Nat) : Option Instr :=
  rd 6 w fun first w => rd 4 w fun cnt1 w => rk 2 0 w fun w => rk 4 0 w fun w => rk 6 0 w fun w => rd 6 w fun xb w =>
    rk 12 0 w fun w => rend w (.tapchk c xb first cnt1)

/-- Operands of TAPCHK BIND, opcode 0xe0. -/
def decTapchkBind (c : Ctl) (w : Nat) : Option Instr :=
  rk 6 0 w fun w => rk 4 0 w fun w => rk 2 0 w fun w => rk 4 1 w fun w => rk 12 0 w fun w => rd 6 w fun xa w => rk 6 0
    w fun w => rend w (.tapchkBind c xa)

/-- Operands of TAPCHK MASK, opcode 0xe0. -/
def decTapchkMask (c : Ctl) (w : Nat) : Option Instr :=
  rd 2 w fun wd w => rk 10 0 w fun w => rk 4 2 w fun w => rk 18 0 w fun w => rd 6 w fun xd w => rend w (.tapchkMask c
    xd wd)

/-- Operands of VSHORT, opcode 0xe1. -/
def decVshort (c : Ctl) (w : Nat) : Option Instr :=
  rk 4 0 w fun w => rb w fun bf w => rk 3 0 w fun w => rb w fun pb w => rb w fun pa w => rd 10 w fun vb w => rd 10 w
    fun va w => rd 10 w fun vd w => rend w (.vshort c ⟨vd, va, vb, pa, pb⟩ bf)

/-- Operands of VSORT, opcode 0xe2. -/
def decVsort (c : Ctl) (w : Nat) : Option Instr :=
  rk 4 0 w fun w => rk 4 0 w fun w => rb w fun pb w => rb w fun pa w => rd 10 w fun vb w => rd 10 w fun va w => rd 10
    w fun vd w => rend w (.vsort c ⟨vd, va, vb, pa, pb⟩)

/-- Operands of VSORT MERGE, opcode 0xe2. -/
def decVsortMerge (c : Ctl) (w : Nat) : Option Instr :=
  rk 4 1 w fun w => rk 4 0 w fun w => rb w fun pb w => rb w fun pa w => rd 10 w fun vb w => rd 10 w fun va w => rd 10
    w fun vd w => rend w (.vsortMerge c ⟨vd, va, vb, pa, pb⟩)

/-- Operands of VSAMP, opcode 0xe3. -/
def decVsamp (c : Ctl) (w : Nat) : Option Instr :=
  rk 1 0 w fun w => rb w fun f w => rk 2 0 w fun w => rk 4 0 w fun w => rb w fun pb w => rb w fun pa w => rd 10 w fun
    vb w => rd 10 w fun va w => rd 10 w fun vd w => rend w (.vsamp c ⟨vd, va, vb, pa, pb⟩ f)

/-- Operands of VSAMP U, opcode 0xe3. -/
def decVsampU (c : Ctl) (w : Nat) : Option Instr :=
  rk 4 1 w fun w => rk 4 0 w fun w => rb w fun pb w => rb w fun pa w => rd 10 w fun vb w => rk 10 1023 w fun w => rd
    10 w fun vd w => rend w (.vsampU c vd vb pa pb)

/-- Operands of RNGGET, opcode 0xe4. -/
def decRngget (c : Ctl) (w : Nat) : Option Instr :=
  rk 16 0 w fun w => rk 6 0 w fun w => rk 6 0 w fun w => rd 6 w fun xa w => rd 6 w fun xd w => rend w (.rngget c xd
    xa)

/-- Operands of RNGGET PEEK, opcode 0xe4. -/
def decRnggetPeek (c : Ctl) (w : Nat) : Option Instr :=
  rk 16 0 w fun w => rk 6 1 w fun w => rk 6 0 w fun w => rd 6 w fun xa w => rd 6 w fun xd w => rend w (.rnggetPeek c
    xd xa)

/-- Operands of RNGJMP, opcode 0xe5. -/
def decRngjmp (c : Ctl) (w : Nat) : Option Instr :=
  rk 22 0 w fun w => rd 6 w fun xb w => rd 6 w fun xa w => rk 6 0 w fun w => rend w (.rngjmp c xa xb)

/-- Operands of GSTEP, opcode 0xe6. -/
def decGstep (c : Ctl) (w : Nat) : Option Instr :=
  rk 4 0 w fun w => rk 4 5 w fun w => rk 1 0 w fun w => rb w fun pa w => rk 10 0 w fun w => rd 10 w fun va w => rd 10
    w fun vd w => rend w (.gstep c ⟨vd, va, pa⟩)

/-- Operands of VGMASK, opcode 0xe7. -/
def decVgmask (c : Ctl) (w : Nat) : Option Instr :=
  rk 4 0 w fun w => rb w fun bf w => rk 3 0 w fun w => rb w fun pb w => rb w fun pa w => rd 10 w fun vb w => rd 10 w
    fun va w => rd 10 w fun vd w => rend w (.vgmask c ⟨vd, va, vb, pa, pb⟩ bf)

/-- Operands of GSAVE, opcode 0xe8. -/
def decGsave (c : Ctl) (w : Nat) : Option Instr :=
  rk 28 0 w fun w => rd 6 w fun xa w => rd 6 w fun xd w => rend w (.gsave c xd xa)

/-- Operands of GREST, opcode 0xe9. -/
def decGrest (c : Ctl) (w : Nat) : Option Instr :=
  rk 22 0 w fun w => rd 6 w fun xb w => rd 6 w fun xa w => rk 6 0 w fun w => rend w (.grest c xa xb)

/-- Operands of TOKOUT, opcode 0xea. -/
def decTokout (c : Ctl) (w : Nat) : Option Instr :=
  rk 4 0 w fun w => rk 4 5 w fun w => rk 1 0 w fun w => rb w fun pa w => rk 10 0 w fun w => rd 10 w fun va w => rd 10
    w fun vd w => rend w (.tokout c ⟨vd, va, pa⟩)

/-- Operands of WSW, opcode 0xf0. -/
def decWsw (c : Ctl) (w : Nat) : Option Instr :=
  rk 16 0 w fun w => rd 6 w fun xc w => rd 6 w fun xb w => rd 6 w fun xa w => rk 6 0 w fun w => rend w (.wsw c xa xb
    xc)

/-- Operands of PTBW, opcode 0xf1. -/
def decPtbw (c : Ctl) (w : Nat) : Option Instr :=
  rd 6 w fun idx w => rk 6 0 w fun w => rk 4 0 w fun w => rk 12 0 w fun w => rd 6 w fun xa w => rk 6 0 w fun w => rend
    w (.ptbw c xa idx)

/-- Operands of PTBW H, opcode 0xf1. -/
def decPtbwH (c : Ctl) (w : Nat) : Option Instr :=
  rk 6 0 w fun w => rk 6 0 w fun w => rk 4 1 w fun w => rk 12 0 w fun w => rd 6 w fun xa w => rk 6 0 w fun w => rend w
    (.ptbwH c xa)

/-- Operands of TLBI PG, opcode 0xf2. -/
def decTlbiPg (c : Ctl) (w : Nat) : Option Instr :=
  rk 12 0 w fun w => rk 4 0 w fun w => rk 12 0 w fun w => rd 6 w fun xa w => rk 6 0 w fun w => rend w (.tlbiPg c xa)

/-- Operands of TLBI BLK, opcode 0xf2. -/
def decTlbiBlk (c : Ctl) (w : Nat) : Option Instr :=
  rk 12 0 w fun w => rk 4 1 w fun w => rk 12 0 w fun w => rd 6 w fun xa w => rk 6 0 w fun w => rend w (.tlbiBlk c xa)

/-- Operands of TLBI ALL, opcode 0xf2. -/
def decTlbiAll (c : Ctl) (w : Nat) : Option Instr :=
  rk 12 0 w fun w => rk 4 2 w fun w => rk 24 0 w fun w => rend w (.tlbiAll c)

/-- Operands of QUAR, opcode 0xf3. -/
def decQuar (c : Ctl) (w : Nat) : Option Instr :=
  rd 2 w fun wd w => rk 10 0 w fun w => rk 4 0 w fun w => rk 6 0 w fun w => rd 6 w fun xb w => rd 6 w fun xa w => rk 6
    0 w fun w => rend w (.quar c xa xb wd)

/-- Operands of SLOTW, opcode 0xf4. -/
def decSlotw (c : Ctl) (w : Nat) : Option Instr :=
  rd 6 w fun n w => rk 6 0 w fun w => rk 4 0 w fun w => rk 12 0 w fun w => rd 6 w fun xa w => rk 6 0 w fun w => rend w
    (.slotw c xa n)

/-- Operands of BMAPW FREE, opcode 0xf5. -/
def decBmapwFree (c : Ctl) (w : Nat) : Option Instr :=
  rk 12 0 w fun w => rk 4 0 w fun w => rk 12 0 w fun w => rd 6 w fun xa w => rk 6 0 w fun w => rend w (.bmapwFree c
    xa)

/-- Operands of BMAPW SET, opcode 0xf5. -/
def decBmapwSet (c : Ctl) (w : Nat) : Option Instr :=
  rk 12 0 w fun w => rk 4 1 w fun w => rk 6 0 w fun w => rd 6 w fun xb w => rd 6 w fun xa w => rk 6 0 w fun w => rend
    w (.bmapwSet c xa xb)

/-- Operands of HALT, opcode 0xf6. -/
def decHalt (c : Ctl) (w : Nat) : Option Instr :=
  rk 28 0 w fun w => rd 6 w fun xa w => rk 6 0 w fun w => rend w (.halt c xa)

/-- Operands of RESUME, opcode 0xf7. -/
def decResume (c : Ctl) (w : Nat) : Option Instr :=
  rk 28 0 w fun w => rd 6 w fun xa w => rk 6 0 w fun w => rend w (.resume c xa)

/-- Operands of ERET, opcode 0xf8. -/
def decEret (c : Ctl) (w : Nat) : Option Instr :=
  rk 40 0 w fun w => rend w (.eret c)

/-- Operands of IPI, opcode 0xf9. -/
def decIpi (c : Ctl) (w : Nat) : Option Instr :=
  rd 12 w fun code w => rk 4 0 w fun w => rk 12 0 w fun w => rd 6 w fun xa w => rk 6 0 w fun w => rend w (.ipi c xa
    code)

/-- Operands of PARTW, opcode 0xfa. -/
def decPartw (c : Ctl) (w : Nat) : Option Instr :=
  rd 5 w fun sel w => rk 7 0 w fun w => rk 4 0 w fun w => rk 6 0 w fun w => rd 6 w fun xb w => rd 6 w fun xa w => rk 6
    0 w fun w => rend w (.partw c xa xb sel)

/-- Operands of ISLW, opcode 0xfb. -/
def decIslw (c : Ctl) (w : Nat) : Option Instr :=
  rk 22 0 w fun w => rd 6 w fun xb w => rd 6 w fun xa w => rk 6 0 w fun w => rend w (.islw c xa xb)

/-- The operands of a word with opcode `op` (R100). -/
def decodeOperands (op : Nat) (c : Ctl) (w : Nat) : Option Instr :=
  match op with
  | 0x00 => decNop c w
  | 0x01 => decAdd c w
  | 0x02 => decSub c w
  | 0x03 => decMul c w
  | 0x04 => decMulh c w
  | 0x05 => decDiv c w
  | 0x06 => decRem c w
  | 0x07 => decAddi c w
  | 0x08 => decAnd c w
  | 0x09 => decOr c w
  | 0x0a => decXor c w
  | 0x0b => decAndi c w
  | 0x0c => decOri c w
  | 0x0d => decXori c w
  | 0x0e => decShl c w
  | 0x0f => decShr c w
  | 0x10 => decSar c w
  | 0x11 => decRol c w
  | 0x12 => decMin c w
  | 0x13 => decMax c w
  | 0x14 => decCmp c w
  | 0x15 => decCmpi c w
  | 0x16 => decCsel c w
  | 0x17 => decLimm c w
  | 0x18 => decClz c w
  | 0x19 => decPopc c w
  | 0x1a => decExtr c w
  | 0x1b => decInsr c w
  | 0x1c => decBswap c w
  | 0x1d => decMuli c w
  | 0x20 => decBr c w
  | 0x21 => decJmpr c w
  | 0x22 => (decLoop c w).orElse fun _ => decLoopN c w
  | 0x23 => decLoopi c w
  | 0x28 => decCqput c w
  | 0x29 => decCqget c w
  | 0x2a => decCqbr c w
  | 0x2c => decTkinc c w
  | 0x2d => decTkchk c w
  | 0x30 => decMode c w
  | 0x31 => decLeave c w
  | 0x32 => decCapr c w
  | 0x33 => decMfs c w
  | 0x34 => decMts c w
  | 0x38 => decExit c w
  | 0x39 => decBrk c w
  | 0x3a => decSysc c w
  | 0x40 => decLdb c w
  | 0x41 => decLdh c w
  | 0x42 => decLdw c w
  | 0x43 => decLdd c w
  | 0x44 => decStb c w
  | 0x45 => decSth c w
  | 0x46 => decStw c w
  | 0x47 => decStd c w
  | 0x48 => decVld c w
  | 0x49 => decSpld c w
  | 0x4a => decSpst c w
  | 0x4b => decGath c w
  | 0x4c => decScat c w
  | 0x4d => decLdt c w
  | 0x50 => (decFerry c w).orElse fun _ => (decFerryTier c w).orElse fun _ => decFerryQ c w
  | 0x52 => decMark c w
  | 0x53 => decFence c w
  | 0x54 => decAmo c w
  | 0x55 => decRed c w
  | 0x58 => (decRclaimCfg c w).orElse fun _ => decRclaim c w
  | 0x59 => decRfill c w
  | 0x5a => decRwaitf c w
  | 0x5b => decRwaite c w
  | 0x5c => decRtake c w
  | 0x5d => decRfree c w
  | 0x60 => decMsend c w
  | 0x61 => (decMrecvCfg c w).orElse fun _ => (decMrecv c w).orElse fun _ => decMrecvNb c w
  | 0x62 => decMqcred c w
  | 0x64 => (decStn c w).orElse fun _ => decStnS c w
  | 0x65 => decBaddr c w
  | 0x66 => decBshare c w
  | 0x67 => decRlq c w
  | 0x68 => decLbind c w
  | 0x69 => decLunbind c w
  | 0x6a => decTspawn c w
  | 0x6b => decTgraph c w
  | 0x6c => (decTyieldFront c w).orElse fun _ => decTyieldPast c w
  | 0x6d => (decCollAllred c w).orElse fun _ => (decCollRed c w).orElse fun _ => (decCollBcast c w).orElse fun _ => decCollBar c w
  | 0x80 => decVadd c w
  | 0x81 => decVsub c w
  | 0x82 => decVmul c w
  | 0x83 => decVdiv c w
  | 0x84 => decVmin c w
  | 0x85 => decVmax c w
  | 0x86 => decVfmaFp32 c w
  | 0x87 => decVfmaBf16 c w
  | 0x88 => decVfmaFp16 c w
  | 0x89 => decVabs c w
  | 0x8a => decVneg c w
  | 0x8b => decVand c w
  | 0x8c => decVor c w
  | 0x8d => decVxor c w
  | 0x8e => decVshl c w
  | 0x8f => decVshr c w
  | 0x90 => decVaddi c w
  | 0x91 => decVmuli c w
  | 0x92 => (decVsplatImm c w).orElse fun _ => decVsplatReg c w
  | 0x93 => decVcvt c w
  | 0x94 => decVcmp c w
  | 0x95 => decVsel32 c w
  | 0x96 => decVsel16 c w
  | 0x97 => decVsel8 c w
  | 0x98 => decVreds c w
  | 0x99 => decVredm c w
  | 0x9a => decVscan c w
  | 0x9b => (decVsortcCount c w).orElse fun _ => (decVsortcOrder c w).orElse fun _ => decVsortcSlot c w
  | 0x9c => (decVspselMask c w).orElse fun _ => (decVspselMeta c w).orElse fun _ => decVspselPack c w
  | 0x9d => decVrmsnFp32 c w
  | 0x9e => decVrmsnBf16 c w
  | 0x9f => decVact c w
  | 0xa0 => (decVexp c w).orElse fun _ => decVexp2 c w
  | 0xa1 => decVrcp c w
  | 0xa2 => decVrsq c w
  | 0xa3 => decVperm c w
  | 0xa4 => decVlds c w
  | 0xa5 => decVsts c w
  | 0xa6 => decVqst c w
  | 0xa7 => decVmov c w
  | 0xa8 => (decExadd c w).orElse fun _ => decExaddL c w
  | 0xa9 => decExrd c w
  | 0xaa => decExclr c w
  | 0xc0 => decFqpush c w
  | 0xc1 => decFqmode c w
  | 0xc2 => decScw c w
  | 0xc3 => decCtwr c w
  | 0xc4 => decNestw c w
  | 0xc8 => decTgo c w
  | 0xc9 => decTgoG c w
  | 0xca => decTgoSp c w
  | 0xd0 => decAccz c w
  | 0xd1 => decAccrd c w
  | 0xd2 => decAccmov c w
  | 0xd3 => decAccst c w
  | 0xd4 => decAccld c w
  | 0xd8 => decLapp c w
  | 0xd9 => decLappb c w
  | 0xda => (decLreadOrd c w).orElse fun _ => (decLreadExa c w).orElse fun _ => decLreadRungs c w
  | 0xdb => decLfork c w
  | 0xdc => (decLtruncLow c w).orElse fun _ => decLtruncCkpt c w
  | 0xdd => decLdrop c w
  | 0xde => decLstat c w
  | 0xe0 => (decTapchk c w).orElse fun _ => (decTapchkBind c w).orElse fun _ => decTapchkMask c w
  | 0xe1 => decVshort c w
  | 0xe2 => (decVsort c w).orElse fun _ => decVsortMerge c w
  | 0xe3 => (decVsamp c w).orElse fun _ => decVsampU c w
  | 0xe4 => (decRngget c w).orElse fun _ => decRnggetPeek c w
  | 0xe5 => decRngjmp c w
  | 0xe6 => decGstep c w
  | 0xe7 => decVgmask c w
  | 0xe8 => decGsave c w
  | 0xe9 => decGrest c w
  | 0xea => decTokout c w
  | 0xf0 => decWsw c w
  | 0xf1 => (decPtbw c w).orElse fun _ => decPtbwH c w
  | 0xf2 => (decTlbiPg c w).orElse fun _ => (decTlbiBlk c w).orElse fun _ => decTlbiAll c w
  | 0xf3 => decQuar c w
  | 0xf4 => decSlotw c w
  | 0xf5 => (decBmapwFree c w).orElse fun _ => decBmapwSet c w
  | 0xf6 => decHalt c w
  | 0xf7 => decResume c w
  | 0xf8 => decEret c w
  | 0xf9 => decIpi c w
  | 0xfa => decPartw c w
  | 0xfb => decIslw c w
  | _ => none

/-- The opcode is allocated in the opcode map (R100). -/
def opAllocated (op : Nat) : Bool :=
  (decide (0x00 ≤ op) && decide (op ≤ 0x1d)) || (decide (0x20 ≤ op) && decide (op ≤ 0x23)) || (decide (0x28 ≤ op) &&
    decide (op ≤ 0x2a)) || (decide (0x2c ≤ op) && decide (op ≤ 0x2d)) || (decide (0x30 ≤ op) && decide (op ≤ 0x34))
    || (decide (0x38 ≤ op) && decide (op ≤ 0x3a)) || (decide (0x40 ≤ op) && decide (op ≤ 0x4d)) || op == 0x50 ||
    (decide (0x52 ≤ op) && decide (op ≤ 0x55)) || (decide (0x58 ≤ op) && decide (op ≤ 0x5d)) || (decide (0x60 ≤ op)
    && decide (op ≤ 0x62)) || (decide (0x64 ≤ op) && decide (op ≤ 0x6d)) || (decide (0x80 ≤ op) && decide (op ≤
    0xaa)) || (decide (0xc0 ≤ op) && decide (op ≤ 0xc4)) || (decide (0xc8 ≤ op) && decide (op ≤ 0xca)) || (decide
    (0xd0 ≤ op) && decide (op ≤ 0xd4)) || (decide (0xd8 ≤ op) && decide (op ≤ 0xde)) || (decide (0xe0 ≤ op) &&
    decide (op ≤ 0xea)) || (decide (0xf0 ≤ op) && decide (op ≤ 0xfb))

/-- The control half, read from bits 63:49 (R82). -/
def decodeCtl (h : Nat) : Ctl :=
  { stk := BitVec.ofNat 5 h, pushn := h / 2 ^ 5 % 2 == 1, pushp := h / 2 ^ 6 % 2 == 1, wtk := BitVec.ofNat 5 (h / 2 ^ 7),
    popn := h / 2 ^ 12 % 2 == 1, popp := h / 2 ^ 13 % 2 == 1, stop := h / 2 ^ 14 % 2 == 1 }

/-- Decode a word. The order of the errors is that of R87, steps 1, 2 and 5; steps 3 and 4 depend on the issuing
context and level and stand in the machine. -/
def decode (w : Word) : Except DecodeError Instr :=
  let n := w.toNat
  if n = 2 ^ 64 - 1 then .error .allOnes
  else if !opAllocated (n / 2 ^ 40 % 256) then .error .unallocated
  else if n / 2 ^ 48 % 2 = 1 then .error .bit48
  else
    match decodeOperands (n / 2 ^ 40 % 256) (decodeCtl (n / 2 ^ 49)) (n % 2 ^ 40) with
    | some i => if i.wf then .ok i else .error .badField
    | none => .error .badField

/-- The number that bytes hold, the byte at the lowest address in bits 7:0 (R2). -/
def bytesToNat : List Byte → Nat
  | [] => 0
  | b :: bs => b.toNat + 256 * bytesToNat bs

/-- Decode the instruction at the head of a list of bytes, and give the rest. -/
def decodeBytes (bs : List Byte) : Except DecodeError (Instr × List Byte) :=
  if bs.length < 8 then .error .truncated
  else
    match decode (BitVec.ofNat 64 (bytesToNat (bs.take 8))) with
    | .ok i => .ok (i, bs.drop 8)
    | .error e => .error e

/-- The instruction the decoder reads from the bits `w` of a row of the opcode table. Every word is 64 bits long, and
bit 0 of the table is bit 0 of the word. -/
def decodeTableWord (nbits w : Nat) : Option Instr :=
  match decode (BitVec.ofNat 64 (w % 2 ^ nbits)) with
  | .ok i => some i
  | .error _ => none

/-- Bits 63:49 of a control half (R82). -/
def encodeCtl (c : Ctl) : Nat :=
  put 5 c.stk.toNat <| put 1 c.pushn.toNat <| put 1 c.pushp.toNat <| put 5 c.wtk.toNat <| put 1 c.popn.toNat <|
    put 1 c.popp.toNat c.stop.toNat

/-- The opcode of an instruction (R100); `none` for an event. -/
def opcodeOf : Instr → Option Nat
  | .nop _ => some 0x00
  | .add _ _ _ _ => some 0x01
  | .sub _ _ _ _ => some 0x02
  | .mul _ _ _ _ => some 0x03
  | .mulh _ _ _ _ _ => some 0x04
  | .div _ _ _ _ _ => some 0x05
  | .rem _ _ _ _ _ => some 0x06
  | .addi _ _ _ _ => some 0x07
  | .and _ _ _ _ => some 0x08
  | .or _ _ _ _ => some 0x09
  | .xor _ _ _ _ => some 0x0a
  | .andi _ _ _ _ => some 0x0b
  | .ori _ _ _ _ => some 0x0c
  | .xori _ _ _ _ => some 0x0d
  | .shl _ _ _ _ _ => some 0x0e
  | .shr _ _ _ _ _ => some 0x0f
  | .sar _ _ _ _ _ => some 0x10
  | .rol _ _ _ _ _ => some 0x11
  | .min _ _ _ _ _ => some 0x12
  | .max _ _ _ _ _ => some 0x13
  | .cmp _ _ _ _ _ => some 0x14
  | .cmpi _ _ _ _ _ => some 0x15
  | .csel _ _ _ _ _ => some 0x16
  | .limm _ _ _ _ => some 0x17
  | .clz _ _ _ => some 0x18
  | .popc _ _ _ => some 0x19
  | .extr _ _ _ _ _ _ => some 0x1a
  | .insr _ _ _ _ _ => some 0x1b
  | .bswap _ _ _ => some 0x1c
  | .muli _ _ _ _ => some 0x1d
  | .br _ _ _ _ _ => some 0x20
  | .jmpr _ _ _ _ => some 0x21
  | .loop _ _ _ => some 0x22
  | .loopN _ _ _ => some 0x22
  | .loopi _ _ _ => some 0x23
  | .cqput _ _ _ => some 0x28
  | .cqget _ _ _ => some 0x29
  | .cqbr _ _ _ _ => some 0x2a
  | .tkinc _ _ _ _ => some 0x2c
  | .tkchk _ _ _ => some 0x2d
  | .mode _ _ _ => some 0x30
  | .leave _ _ _ => some 0x31
  | .capr _ _ _ _ => some 0x32
  | .mfs _ _ _ => some 0x33
  | .mts _ _ _ => some 0x34
  | .exit _ => some 0x38
  | .brk _ _ => some 0x39
  | .sysc _ _ => some 0x3a
  | .ldb _ _ _ _ => some 0x40
  | .ldh _ _ _ _ => some 0x41
  | .ldw _ _ _ _ => some 0x42
  | .ldd _ _ _ _ => some 0x43
  | .stb _ _ _ _ => some 0x44
  | .sth _ _ _ _ => some 0x45
  | .stw _ _ _ _ => some 0x46
  | .std _ _ _ _ => some 0x47
  | .vld _ _ _ _ => some 0x48
  | .loadComplete _ _ => none
  | .spld _ _ => some 0x49
  | .spst _ _ => some 0x4a
  | .gath _ _ => some 0x4b
  | .scat _ _ => some 0x4c
  | .ldt _ _ => some 0x4d
  | .ferry _ _ => some 0x50
  | .ferryTier _ _ => some 0x50
  | .ferryQ _ _ => some 0x50
  | .engineCmdComplete _ _ _ => none
  | .mark _ _ => some 0x52
  | .fence _ _ _ => some 0x53
  | .amo _ _ _ _ _ _ _ => some 0x54
  | .red _ _ _ => some 0x55
  | .redApply _ _ _ => none
  | .rclaimCfg _ _ _ => some 0x58
  | .rclaim _ _ _ => some 0x58
  | .rfill _ _ => some 0x59
  | .rwaitf _ _ _ _ => some 0x5a
  | .rwaite _ _ _ _ => some 0x5b
  | .rtake _ _ _ => some 0x5c
  | .rfree _ _ => some 0x5d
  | .msend _ _ => some 0x60
  | .msendGrant _ _ _ => none
  | .mrecvCfg _ _ _ => some 0x61
  | .mrecv _ _ _ => some 0x61
  | .mrecvNb _ _ _ => some 0x61
  | .mqcred _ _ _ => some 0x62
  | .stn _ _ => some 0x64
  | .stnS _ _ => some 0x64
  | .stnNameReturn _ _ _ => none
  | .baddr _ _ _ _ _ => some 0x65
  | .bshare _ _ => some 0x66
  | .rlq _ _ => some 0x67
  | .lbind _ _ _ _ => some 0x68
  | .lunbind _ _ => some 0x69
  | .tspawn _ _ => some 0x6a
  | .tgraph _ _ => some 0x6b
  | .tyieldFront _ => some 0x6c
  | .tyieldPast _ _ => some 0x6c
  | .collAllred _ _ => some 0x6d
  | .collRed _ _ => some 0x6d
  | .collBcast _ _ => some 0x6d
  | .collBar _ _ => some 0x6d
  | .collContribution _ _ _ => none
  | .collDeadlineExpire _ _ _ => none
  | .collMemberTimeout _ _ _ => none
  | .vadd _ _ _ _ => some 0x80
  | .vsub _ _ _ _ => some 0x81
  | .vmul _ _ _ _ => some 0x82
  | .vdiv _ _ _ _ => some 0x83
  | .vmin _ _ _ => some 0x84
  | .vmax _ _ _ => some 0x85
  | .vfmaFp32 _ _ => some 0x86
  | .vfmaBf16 _ _ => some 0x87
  | .vfmaFp16 _ _ => some 0x88
  | .vabs _ _ _ _ => some 0x89
  | .vneg _ _ _ _ => some 0x8a
  | .vand _ _ => some 0x8b
  | .vor _ _ => some 0x8c
  | .vxor _ _ => some 0x8d
  | .vshl _ _ _ => some 0x8e
  | .vshr _ _ _ _ => some 0x8f
  | .vaddi _ _ _ _ => some 0x90
  | .vmuli _ _ _ _ => some 0x91
  | .vsplatImm _ _ _ _ => some 0x92
  | .vsplatReg _ _ _ _ => some 0x92
  | .vcvt _ _ _ _ _ _ => some 0x93
  | .vcmp _ _ _ _ => some 0x94
  | .vsel32 _ _ => some 0x95
  | .vsel16 _ _ => some 0x96
  | .vsel8 _ _ => some 0x97
  | .vreds _ _ _ _ => some 0x98
  | .vredm _ _ _ _ => some 0x99
  | .vscan _ _ _ _ _ => some 0x9a
  | .vsortcCount _ _ _ => some 0x9b
  | .vsortcOrder _ _ => some 0x9b
  | .vsortcSlot _ _ _ => some 0x9b
  | .vspselMask _ _ _ => some 0x9c
  | .vspselMeta _ _ _ => some 0x9c
  | .vspselPack _ _ _ => some 0x9c
  | .vrmsnFp32 _ _ => some 0x9d
  | .vrmsnBf16 _ _ => some 0x9e
  | .vact _ _ _ _ => some 0x9f
  | .vexp _ _ _ => some 0xa0
  | .vexp2 _ _ _ => some 0xa0
  | .vrcp _ _ _ => some 0xa1
  | .vrsq _ _ _ => some 0xa2
  | .vperm _ _ _ _ => some 0xa3
  | .vlds _ _ _ _ => some 0xa4
  | .vsts _ _ _ _ _ => some 0xa5
  | .vqst _ _ _ => some 0xa6
  | .vmov _ _ => some 0xa7
  | .exadd _ _ _ _ _ => some 0xa8
  | .exaddL _ _ _ _ _ _ => some 0xa8
  | .exrd _ _ _ _ _ => some 0xa9
  | .exclr _ _ _ => some 0xaa
  | .fqpush _ _ => some 0xc0
  | .fqmode _ _ => some 0xc1
  | .scw _ _ _ _ => some 0xc2
  | .ctwr _ _ _ _ _ => some 0xc3
  | .nestw _ _ _ _ => some 0xc4
  | .tgo _ _ => some 0xc8
  | .tgoG _ _ => some 0xc9
  | .tgoSp _ _ => some 0xca
  | .tileCmdHead _ => none
  | .tileCmdAccept _ => none
  | .tileCmdComplete _ _ => none
  | .accz _ _ => some 0xd0
  | .accrd _ _ _ _ _ _ => some 0xd1
  | .accmov _ _ _ _ => some 0xd2
  | .accst _ _ => some 0xd3
  | .accld _ _ => some 0xd4
  | .lapp _ _ _ _ _ => some 0xd8
  | .lappb _ _ _ _ _ _ => some 0xd9
  | .lreadOrd _ _ _ _ _ _ _ => some 0xda
  | .lreadExa _ _ _ _ _ _ _ => some 0xda
  | .lreadRungs _ _ _ _ _ _ => some 0xda
  | .lfork _ _ _ => some 0xdb
  | .ltruncLow _ _ _ => some 0xdc
  | .ltruncCkpt _ _ _ => some 0xdc
  | .ldrop _ _ => some 0xdd
  | .lstat _ _ _ => some 0xde
  | .ladderCmdComplete _ _ => none
  | .tapchk _ _ _ _ => some 0xe0
  | .tapchkBind _ _ => some 0xe0
  | .tapchkMask _ _ _ => some 0xe0
  | .vshort _ _ _ => some 0xe1
  | .vsort _ _ => some 0xe2
  | .vsortMerge _ _ => some 0xe2
  | .vsamp _ _ _ => some 0xe3
  | .vsampU _ _ _ _ _ => some 0xe3
  | .rngget _ _ _ => some 0xe4
  | .rnggetPeek _ _ _ => some 0xe4
  | .rngjmp _ _ _ => some 0xe5
  | .gstep _ _ => some 0xe6
  | .vgmask _ _ _ => some 0xe7
  | .gsave _ _ _ => some 0xe8
  | .grest _ _ _ => some 0xe9
  | .tokout _ _ => some 0xea
  | .wsw _ _ _ _ => some 0xf0
  | .ptbw _ _ _ => some 0xf1
  | .ptbwH _ _ => some 0xf1
  | .tlbiPg _ _ => some 0xf2
  | .tlbiBlk _ _ => some 0xf2
  | .tlbiAll _ => some 0xf2
  | .quar _ _ _ _ => some 0xf3
  | .slotw _ _ _ => some 0xf4
  | .bmapwFree _ _ => some 0xf5
  | .bmapwSet _ _ _ => some 0xf5
  | .halt _ _ => some 0xf6
  | .resume _ _ => some 0xf7
  | .eret _ => some 0xf8
  | .ipi _ _ _ => some 0xf9
  | .partw _ _ _ _ => some 0xfa
  | .islw _ _ _ => some 0xfb
  | .forcedStopPoint _ _ => none
  | .deadlk _ => none
  | .tlbWalk _ _ => none
  | .xlateService _ _ _ _ => none
  | .pageMove _ _ _ _ => none
  | .pageSupplyAnswer _ _ _ _ => none
  | .holdWindowExpire _ _ => none
  | .migrationGo _ _ _ => none
  | .hostDeviceWrite _ _ => none
  | .taskSelect _ => none
  | .reservationRequest _ _ => none
  | .coreRelease _ => none
  | .raggedDistribute _ => none
  | .coreStart _ => none
  | .coreDrainDone _ => none
  | .taskCommit _ => none
  | .supervisorResume _ _ _ _ => none
  | .supervisorReflect _ _ => none
  | .supervisorEndFault _ => none
  | .preemptSave _ _ => none
  | .scrubError _ _ _ => none
  | .specdepthWrite _ _ => none
  | .vbquotaWrite _ _ => none
  | .reddlWrite _ _ => none
  | .ptbaseWrite _ _ => none
  | .tqspareWrite _ _ => none
  | .schctlPre _ => none
  | .schctlHold _ _ => none
  | .registerWrite _ _ => none
  | .queueEnable _ _ => none
  | .kick _ _ => none
  | .entryFetch _ => none
  | .frameBoundary => none
  | .wsRefreshWindow _ => none
  | .leaveGrant _ => none
  | .linkFlitRetry _ => none
  | .powerOn => none
  | .pcieFundamentalReset => none
  | .bootctlCold => none
  | .bootctlWarm => none
  | .stageTimeout => none
  | .icarnColdReset => none
  | .writeInFlightCompletes _ _ _ => none
  | .postedStorePerformed _ _ _ _ => none
  | .hostPortDown _ _ => none
  | .linkStateChange _ _ _ => none
  | .islandPowerGating _ _ => none
  | .landingProcessorWrite _ _ => none

/-- The control half of an instruction; zeros for an event. -/
def ctlOf : Instr → Ctl
  | .nop c => c
  | .add c _ _ _ => c
  | .sub c _ _ _ => c
  | .mul c _ _ _ => c
  | .mulh c _ _ _ _ => c
  | .div c _ _ _ _ => c
  | .rem c _ _ _ _ => c
  | .addi c _ _ _ => c
  | .and c _ _ _ => c
  | .or c _ _ _ => c
  | .xor c _ _ _ => c
  | .andi c _ _ _ => c
  | .ori c _ _ _ => c
  | .xori c _ _ _ => c
  | .shl c _ _ _ _ => c
  | .shr c _ _ _ _ => c
  | .sar c _ _ _ _ => c
  | .rol c _ _ _ _ => c
  | .min c _ _ _ _ => c
  | .max c _ _ _ _ => c
  | .cmp c _ _ _ _ => c
  | .cmpi c _ _ _ _ => c
  | .csel c _ _ _ _ => c
  | .limm c _ _ _ => c
  | .clz c _ _ => c
  | .popc c _ _ => c
  | .extr c _ _ _ _ _ => c
  | .insr c _ _ _ _ => c
  | .bswap c _ _ => c
  | .muli c _ _ _ => c
  | .br c _ _ _ _ => c
  | .jmpr c _ _ _ => c
  | .loop c _ _ => c
  | .loopN c _ _ => c
  | .loopi c _ _ => c
  | .cqput c _ _ => c
  | .cqget c _ _ => c
  | .cqbr c _ _ _ => c
  | .tkinc c _ _ _ => c
  | .tkchk c _ _ => c
  | .mode c _ _ => c
  | .leave c _ _ => c
  | .capr c _ _ _ => c
  | .mfs c _ _ => c
  | .mts c _ _ => c
  | .exit c => c
  | .brk c _ => c
  | .sysc c _ => c
  | .ldb c _ _ _ => c
  | .ldh c _ _ _ => c
  | .ldw c _ _ _ => c
  | .ldd c _ _ _ => c
  | .stb c _ _ _ => c
  | .sth c _ _ _ => c
  | .stw c _ _ _ => c
  | .std c _ _ _ => c
  | .vld c _ _ _ => c
  | .loadComplete _ _ => .none
  | .spld c _ => c
  | .spst c _ => c
  | .gath c _ => c
  | .scat c _ => c
  | .ldt c _ => c
  | .ferry c _ => c
  | .ferryTier c _ => c
  | .ferryQ c _ => c
  | .engineCmdComplete _ _ _ => .none
  | .mark c _ => c
  | .fence c _ _ => c
  | .amo c _ _ _ _ _ _ => c
  | .red c _ _ => c
  | .redApply _ _ _ => .none
  | .rclaimCfg c _ _ => c
  | .rclaim c _ _ => c
  | .rfill c _ => c
  | .rwaitf c _ _ _ => c
  | .rwaite c _ _ _ => c
  | .rtake c _ _ => c
  | .rfree c _ => c
  | .msend c _ => c
  | .msendGrant _ _ _ => .none
  | .mrecvCfg c _ _ => c
  | .mrecv c _ _ => c
  | .mrecvNb c _ _ => c
  | .mqcred c _ _ => c
  | .stn c _ => c
  | .stnS c _ => c
  | .stnNameReturn _ _ _ => .none
  | .baddr c _ _ _ _ => c
  | .bshare c _ => c
  | .rlq c _ => c
  | .lbind c _ _ _ => c
  | .lunbind c _ => c
  | .tspawn c _ => c
  | .tgraph c _ => c
  | .tyieldFront c => c
  | .tyieldPast c _ => c
  | .collAllred c _ => c
  | .collRed c _ => c
  | .collBcast c _ => c
  | .collBar c _ => c
  | .collContribution _ _ _ => .none
  | .collDeadlineExpire _ _ _ => .none
  | .collMemberTimeout _ _ _ => .none
  | .vadd c _ _ _ => c
  | .vsub c _ _ _ => c
  | .vmul c _ _ _ => c
  | .vdiv c _ _ _ => c
  | .vmin c _ _ => c
  | .vmax c _ _ => c
  | .vfmaFp32 c _ => c
  | .vfmaBf16 c _ => c
  | .vfmaFp16 c _ => c
  | .vabs c _ _ _ => c
  | .vneg c _ _ _ => c
  | .vand c _ => c
  | .vor c _ => c
  | .vxor c _ => c
  | .vshl c _ _ => c
  | .vshr c _ _ _ => c
  | .vaddi c _ _ _ => c
  | .vmuli c _ _ _ => c
  | .vsplatImm c _ _ _ => c
  | .vsplatReg c _ _ _ => c
  | .vcvt c _ _ _ _ _ => c
  | .vcmp c _ _ _ => c
  | .vsel32 c _ => c
  | .vsel16 c _ => c
  | .vsel8 c _ => c
  | .vreds c _ _ _ => c
  | .vredm c _ _ _ => c
  | .vscan c _ _ _ _ => c
  | .vsortcCount c _ _ => c
  | .vsortcOrder c _ => c
  | .vsortcSlot c _ _ => c
  | .vspselMask c _ _ => c
  | .vspselMeta c _ _ => c
  | .vspselPack c _ _ => c
  | .vrmsnFp32 c _ => c
  | .vrmsnBf16 c _ => c
  | .vact c _ _ _ => c
  | .vexp c _ _ => c
  | .vexp2 c _ _ => c
  | .vrcp c _ _ => c
  | .vrsq c _ _ => c
  | .vperm c _ _ _ => c
  | .vlds c _ _ _ => c
  | .vsts c _ _ _ _ => c
  | .vqst c _ _ => c
  | .vmov c _ => c
  | .exadd c _ _ _ _ => c
  | .exaddL c _ _ _ _ _ => c
  | .exrd c _ _ _ _ => c
  | .exclr c _ _ => c
  | .fqpush c _ => c
  | .fqmode c _ => c
  | .scw c _ _ _ => c
  | .ctwr c _ _ _ _ => c
  | .nestw c _ _ _ => c
  | .tgo c _ => c
  | .tgoG c _ => c
  | .tgoSp c _ => c
  | .tileCmdHead _ => .none
  | .tileCmdAccept _ => .none
  | .tileCmdComplete _ _ => .none
  | .accz c _ => c
  | .accrd c _ _ _ _ _ => c
  | .accmov c _ _ _ => c
  | .accst c _ => c
  | .accld c _ => c
  | .lapp c _ _ _ _ => c
  | .lappb c _ _ _ _ _ => c
  | .lreadOrd c _ _ _ _ _ _ => c
  | .lreadExa c _ _ _ _ _ _ => c
  | .lreadRungs c _ _ _ _ _ => c
  | .lfork c _ _ => c
  | .ltruncLow c _ _ => c
  | .ltruncCkpt c _ _ => c
  | .ldrop c _ => c
  | .lstat c _ _ => c
  | .ladderCmdComplete _ _ => .none
  | .tapchk c _ _ _ => c
  | .tapchkBind c _ => c
  | .tapchkMask c _ _ => c
  | .vshort c _ _ => c
  | .vsort c _ => c
  | .vsortMerge c _ => c
  | .vsamp c _ _ => c
  | .vsampU c _ _ _ _ => c
  | .rngget c _ _ => c
  | .rnggetPeek c _ _ => c
  | .rngjmp c _ _ => c
  | .gstep c _ => c
  | .vgmask c _ _ => c
  | .gsave c _ _ => c
  | .grest c _ _ => c
  | .tokout c _ => c
  | .wsw c _ _ _ => c
  | .ptbw c _ _ => c
  | .ptbwH c _ => c
  | .tlbiPg c _ => c
  | .tlbiBlk c _ => c
  | .tlbiAll c => c
  | .quar c _ _ _ => c
  | .slotw c _ _ => c
  | .bmapwFree c _ => c
  | .bmapwSet c _ _ => c
  | .halt c _ => c
  | .resume c _ => c
  | .eret c => c
  | .ipi c _ _ => c
  | .partw c _ _ _ => c
  | .islw c _ _ => c
  | .forcedStopPoint _ _ => .none
  | .deadlk _ => .none
  | .tlbWalk _ _ => .none
  | .xlateService _ _ _ _ => .none
  | .pageMove _ _ _ _ => .none
  | .pageSupplyAnswer _ _ _ _ => .none
  | .holdWindowExpire _ _ => .none
  | .migrationGo _ _ _ => .none
  | .hostDeviceWrite _ _ => .none
  | .taskSelect _ => .none
  | .reservationRequest _ _ => .none
  | .coreRelease _ => .none
  | .raggedDistribute _ => .none
  | .coreStart _ => .none
  | .coreDrainDone _ => .none
  | .taskCommit _ => .none
  | .supervisorResume _ _ _ _ => .none
  | .supervisorReflect _ _ => .none
  | .supervisorEndFault _ => .none
  | .preemptSave _ _ => .none
  | .scrubError _ _ _ => .none
  | .specdepthWrite _ _ => .none
  | .vbquotaWrite _ _ => .none
  | .reddlWrite _ _ => .none
  | .ptbaseWrite _ _ => .none
  | .tqspareWrite _ _ => .none
  | .schctlPre _ => .none
  | .schctlHold _ _ => .none
  | .registerWrite _ _ => .none
  | .queueEnable _ _ => .none
  | .kick _ _ => .none
  | .entryFetch _ => .none
  | .frameBoundary => .none
  | .wsRefreshWindow _ => .none
  | .leaveGrant _ => .none
  | .linkFlitRetry _ => .none
  | .powerOn => .none
  | .pcieFundamentalReset => .none
  | .bootctlCold => .none
  | .bootctlWarm => .none
  | .stageTimeout => .none
  | .icarnColdReset => .none
  | .writeInFlightCompletes _ _ _ => .none
  | .postedStorePerformed _ _ _ _ => .none
  | .hostPortDown _ _ => .none
  | .linkStateChange _ _ _ => .none
  | .islandPowerGating _ _ => .none
  | .landingProcessorWrite _ _ => .none

/-- Bits 39:0 of an instruction, in the format of its opcode (R89); 0 for an event. -/
def operandsOf : Instr → Nat
  | .nop _ =>
    put 40 0 <| 0
  | .add _ xd xa xb =>
    put 22 0 <| put 6 xb.toNat <| put 6 xa.toNat <| put 6 xd.toNat <| 0
  | .sub _ xd xa xb =>
    put 22 0 <| put 6 xb.toNat <| put 6 xa.toNat <| put 6 xd.toNat <| 0
  | .mul _ xd xa xb =>
    put 22 0 <| put 6 xb.toNat <| put 6 xa.toNat <| put 6 xd.toNat <| 0
  | .mulh _ xd xa xb m =>
    put 16 0 <| put 6 m.code.toNat <| put 6 xb.toNat <| put 6 xa.toNat <| put 6 xd.toNat <| 0
  | .div _ xd xa xb uns =>
    put 16 0 <| put 1 uns.toNat <| put 5 0 <| put 6 xb.toNat <| put 6 xa.toNat <| put 6 xd.toNat <| 0
  | .rem _ xd xa xb uns =>
    put 16 0 <| put 1 uns.toNat <| put 5 0 <| put 6 xb.toNat <| put 6 xa.toNat <| put 6 xd.toNat <| 0
  | .addi _ xd xa imm =>
    put 28 imm.toNat <| put 6 xa.toNat <| put 6 xd.toNat <| 0
  | .and _ xd xa xb =>
    put 22 0 <| put 6 xb.toNat <| put 6 xa.toNat <| put 6 xd.toNat <| 0
  | .or _ xd xa xb =>
    put 22 0 <| put 6 xb.toNat <| put 6 xa.toNat <| put 6 xd.toNat <| 0
  | .xor _ xd xa xb =>
    put 22 0 <| put 6 xb.toNat <| put 6 xa.toNat <| put 6 xd.toNat <| 0
  | .andi _ xd xa imm =>
    put 28 imm.toNat <| put 6 xa.toNat <| put 6 xd.toNat <| 0
  | .ori _ xd xa imm =>
    put 28 imm.toNat <| put 6 xa.toNat <| put 6 xd.toNat <| 0
  | .xori _ xd xa imm =>
    put 28 imm.toNat <| put 6 xa.toNat <| put 6 xd.toNat <| 0
  | .shl _ xd xa xb imm =>
    put 6 imm.toNat <| put 10 0 <| put 6 0 <| put 6 xb.toNat <| put 6 xa.toNat <| put 6 xd.toNat <| 0
  | .shr _ xd xa xb imm =>
    put 6 imm.toNat <| put 10 0 <| put 6 0 <| put 6 xb.toNat <| put 6 xa.toNat <| put 6 xd.toNat <| 0
  | .sar _ xd xa xb imm =>
    put 6 imm.toNat <| put 10 0 <| put 6 0 <| put 6 xb.toNat <| put 6 xa.toNat <| put 6 xd.toNat <| 0
  | .rol _ xd xa xb imm =>
    put 6 imm.toNat <| put 10 0 <| put 6 0 <| put 6 xb.toNat <| put 6 xa.toNat <| put 6 xd.toNat <| 0
  | .min _ xd xa xb uns =>
    put 16 0 <| put 1 uns.toNat <| put 5 0 <| put 6 xb.toNat <| put 6 xa.toNat <| put 6 xd.toNat <| 0
  | .max _ xd xa xb uns =>
    put 16 0 <| put 1 uns.toNat <| put 5 0 <| put 6 xb.toNat <| put 6 xa.toNat <| put 6 xd.toNat <| 0
  | .cmp _ cond xd xa xb =>
    put 16 0 <| put 4 cond.code.toNat <| put 2 0 <| put 6 xb.toNat <| put 6 xa.toNat <| put 6 xd.toNat <| 0
  | .cmpi _ cond xd xa imm =>
    put 24 imm.toNat <| put 4 cond.code.toNat <| put 6 xa.toNat <| put 6 xd.toNat <| 0
  | .csel _ xd xs xa xb =>
    put 16 0 <| put 6 xs.toNat <| put 6 xb.toNat <| put 6 xa.toNat <| put 6 xd.toNat <| 0
  | .limm _ xd part imm =>
    put 32 imm.toNat <| put 2 part.code.toNat <| put 6 xd.toNat <| 0
  | .clz _ xd xa =>
    put 28 0 <| put 6 xa.toNat <| put 6 xd.toNat <| 0
  | .popc _ xd xa =>
    put 28 0 <| put 6 xa.toNat <| put 6 xd.toNat <| 0
  | .extr _ xd xa sgn len1 pos =>
    put 6 pos.toNat <| put 6 len1.toNat <| put 1 sgn.toNat <| put 3 0 <| put 6 0 <| put 6 0 <| put 6 xa.toNat <| put 6
      xd.toNat <| 0
  | .insr _ xd xa len1 pos =>
    put 6 pos.toNat <| put 6 len1.toNat <| put 4 0 <| put 6 0 <| put 6 0 <| put 6 xa.toNat <| put 6 xd.toNat <| 0
  | .bswap _ xd xa =>
    put 28 0 <| put 6 xa.toNat <| put 6 xd.toNat <| 0
  | .muli _ xd xa imm =>
    put 28 imm.toNat <| put 6 xa.toNat <| put 6 xd.toNat <| 0
  | .br _ cond xa xb disp =>
    put 24 disp.toNat <| put 4 cond.code.toNat <| put 6 xb.toNat <| put 6 xa.toNat <| 0
  | .jmpr _ xd xa imm =>
    put 16 imm.toNat <| put 12 0 <| put 6 xa.toNat <| put 6 xd.toNat <| 0
  | .loop _ xa body =>
    put 16 body.toNat <| put 3 0 <| put 3 0 <| put 6 0 <| put 6 xa.toNat <| put 6 0 <| 0
  | .loopN _ level body =>
    put 16 body.toNat <| put 3 level.toNat <| put 3 1 <| put 6 0 <| put 6 0 <| put 6 0 <| 0
  | .loopi _ count body =>
    put 12 body.toNat <| put 16 count.toNat <| put 12 0 <| 0
  | .cqput _ dir xa =>
    put 16 0 <| put 6 dir.code.toNat <| put 6 0 <| put 6 xa.toNat <| put 6 0 <| 0
  | .cqget _ xd dir =>
    put 16 0 <| put 6 dir.code.toNat <| put 6 0 <| put 6 0 <| put 6 xd.toNat <| 0
  | .cqbr _ cond dir disp =>
    put 24 disp.toNat <| put 4 cond.code.toNat <| put 6 0 <| put 6 dir.code.toNat <| 0
  | .tkinc _ n xa imm =>
    put 16 imm.toNat <| put 5 n.toNat <| put 1 0 <| put 6 0 <| put 6 xa.toNat <| put 6 0 <| 0
  | .tkchk _ xd n =>
    put 16 0 <| put 5 n.toNat <| put 1 0 <| put 12 0 <| put 6 xd.toNat <| 0
  | .mode _ exposed slack =>
    put 1 exposed.toNat <| put 3 0 <| put 4 slack.toNat <| put 20 0 <| put 12 0 <| 0
  | .leave _ n mask =>
    put 3 mask.toNat <| put 5 0 <| put 8 n.toNat <| put 12 0 <| put 12 0 <| 0
  | .capr _ xd xa imm =>
    put 16 imm.toNat <| put 12 0 <| put 6 xa.toNat <| put 6 xd.toNat <| 0
  | .mfs _ xd sel =>
    put 16 sel.toNat <| put 18 0 <| put 6 xd.toNat <| 0
  | .mts _ sel xa =>
    put 16 sel.toNat <| put 12 0 <| put 6 xa.toNat <| put 6 0 <| 0
  | .exit _ =>
    put 40 0 <| 0
  | .brk _ code =>
    put 28 code.toNat <| put 12 0 <| 0
  | .sysc _ service =>
    put 28 service.toNat <| put 12 0 <| 0
  | .ldb _ xd xb imm =>
    put 24 imm.toNat <| put 6 xd.toNat <| put 4 0 <| put 6 xb.toNat <| 0
  | .ldh _ xd xb imm =>
    put 24 imm.toNat <| put 6 xd.toNat <| put 4 0 <| put 6 xb.toNat <| 0
  | .ldw _ xd xb imm =>
    put 24 imm.toNat <| put 6 xd.toNat <| put 4 0 <| put 6 xb.toNat <| 0
  | .ldd _ xd xb imm =>
    put 24 imm.toNat <| put 6 xd.toNat <| put 4 0 <| put 6 xb.toNat <| 0
  | .stb _ xs xb imm =>
    put 24 imm.toNat <| put 6 xs.toNat <| put 4 0 <| put 6 xb.toNat <| 0
  | .sth _ xs xb imm =>
    put 24 imm.toNat <| put 6 xs.toNat <| put 4 0 <| put 6 xb.toNat <| 0
  | .stw _ xs xb imm =>
    put 24 imm.toNat <| put 6 xs.toNat <| put 4 0 <| put 6 xb.toNat <| 0
  | .std _ xs xb imm =>
    put 24 imm.toNat <| put 6 xs.toNat <| put 4 0 <| put 6 xb.toNat <| 0
  | .vld _ vq xb imm =>
    put 24 imm.toNat <| put 10 vq.toNat <| put 6 xb.toNat <| 0
  | .loadComplete _ _ => 0
  | .spld _ e =>
    put 16 e.rcd.toNat <| put 4 0 <| put 5 e.tki2.toNat <| put 5 e.tki1.toNat <| put 5 e.tki0.toNat <| put 5 e.tko.toNat
      <| 0
  | .spst _ e =>
    put 16 e.rcd.toNat <| put 4 0 <| put 5 e.tki2.toNat <| put 5 e.tki1.toNat <| put 5 e.tki0.toNat <| put 5 e.tko.toNat
      <| 0
  | .gath _ e =>
    put 16 e.rcd.toNat <| put 4 0 <| put 5 e.tki2.toNat <| put 5 e.tki1.toNat <| put 5 e.tki0.toNat <| put 5 e.tko.toNat
      <| 0
  | .scat _ e =>
    put 16 e.rcd.toNat <| put 4 0 <| put 5 e.tki2.toNat <| put 5 e.tki1.toNat <| put 5 e.tki0.toNat <| put 5 e.tko.toNat
      <| 0
  | .ldt _ e =>
    put 16 e.rcd.toNat <| put 4 0 <| put 5 e.tki2.toNat <| put 5 e.tki1.toNat <| put 5 e.tki0.toNat <| put 5 e.tko.toNat
      <| 0
  | .ferry _ e =>
    put 16 e.rcd.toNat <| put 4 0 <| put 5 e.tki2.toNat <| put 5 e.tki1.toNat <| put 5 e.tki0.toNat <| put 5 e.tko.toNat
      <| 0
  | .ferryTier _ e =>
    put 16 e.rcd.toNat <| put 4 1 <| put 5 e.tki2.toNat <| put 5 e.tki1.toNat <| put 5 e.tki0.toNat <| put 5 e.tko.toNat
      <| 0
  | .ferryQ _ e =>
    put 16 e.rcd.toNat <| put 4 2 <| put 5 e.tki2.toNat <| put 5 e.tki1.toNat <| put 5 e.tki0.toNat <| put 5 e.tko.toNat
      <| 0
  | .engineCmdComplete _ _ _ => 0
  | .mark _ id =>
    put 8 id.toNat <| put 20 0 <| put 12 0 <| 0
  | .fence _ e scope =>
    put 2 scope.toNat <| put 1 e.toNat <| put 25 0 <| put 12 0 <| 0
  | .amo _ op dbl xd xa xb imm =>
    put 16 imm.toNat <| put 4 op.code.toNat <| put 1 dbl.toNat <| put 1 0 <| put 6 xb.toNat <| put 6 xa.toNat <| put 6
      xd.toNat <| 0
  | .red _ op e =>
    put 16 e.rcd.toNat <| put 4 op.code.toNat <| put 5 e.tki2.toNat <| put 5 e.tki1.toNat <| put 5 e.tki0.toNat <| put 5
      e.tko.toNat <| 0
  | .redApply _ _ _ => 0
  | .rclaimCfg _ ring xa =>
    put 16 0 <| put 4 ring.toNat <| put 2 1 <| put 6 0 <| put 6 xa.toNat <| put 6 0 <| 0
  | .rclaim _ xd ring =>
    put 16 0 <| put 4 ring.toNat <| put 2 0 <| put 12 0 <| put 6 xd.toNat <| 0
  | .rfill _ ring =>
    put 16 0 <| put 4 ring.toNat <| put 2 0 <| put 18 0 <| 0
  | .rwaitf _ xd ring n =>
    put 16 n.toNat <| put 4 ring.toNat <| put 2 0 <| put 12 0 <| put 6 xd.toNat <| 0
  | .rwaite _ xd ring n =>
    put 16 n.toNat <| put 4 ring.toNat <| put 2 0 <| put 12 0 <| put 6 xd.toNat <| 0
  | .rtake _ xd ring =>
    put 16 0 <| put 4 ring.toNat <| put 2 0 <| put 12 0 <| put 6 xd.toNat <| 0
  | .rfree _ ring =>
    put 16 0 <| put 4 ring.toNat <| put 2 0 <| put 18 0 <| 0
  | .msend _ e =>
    put 16 e.rcd.toNat <| put 4 0 <| put 5 e.tki2.toNat <| put 5 e.tki1.toNat <| put 5 e.tki0.toNat <| put 5 e.tko.toNat
      <| 0
  | .msendGrant _ _ _ => 0
  | .mrecvCfg _ mq xa =>
    put 16 0 <| put 2 mq.toNat <| put 2 1 <| put 2 0 <| put 6 0 <| put 6 xa.toNat <| put 6 0 <| 0
  | .mrecv _ xd mq =>
    put 16 0 <| put 2 mq.toNat <| put 2 0 <| put 2 0 <| put 12 0 <| put 6 xd.toNat <| 0
  | .mrecvNb _ xd mq =>
    put 16 0 <| put 2 mq.toNat <| put 2 2 <| put 2 0 <| put 12 0 <| put 6 xd.toNat <| 0
  | .mqcred _ mq n =>
    put 16 n.toNat <| put 2 mq.toNat <| put 4 0 <| put 18 0 <| 0
  | .stn _ e =>
    put 16 e.rcd.toNat <| put 4 0 <| put 5 e.tki2.toNat <| put 5 e.tki1.toNat <| put 5 e.tki0.toNat <| put 5 e.tko.toNat
      <| 0
  | .stnS _ e =>
    put 16 e.rcd.toNat <| put 4 1 <| put 5 e.tki2.toNat <| put 5 e.tki1.toNat <| put 5 e.tki0.toNat <| put 5 e.tko.toNat
      <| 0
  | .stnNameReturn _ _ _ => 0
  | .baddr _ xd xa xb imm =>
    put 16 imm.toNat <| put 6 0 <| put 6 xb.toNat <| put 6 xa.toNat <| put 6 xd.toNat <| 0
  | .bshare _ xa =>
    put 28 0 <| put 6 xa.toNat <| put 6 0 <| 0
  | .rlq _ xa =>
    put 28 0 <| put 6 xa.toNat <| put 6 0 <| 0
  | .lbind _ slot xa shr =>
    put 1 shr.toNat <| put 15 0 <| put 6 slot.toNat <| put 6 0 <| put 6 xa.toNat <| put 6 0 <| 0
  | .lunbind _ slot =>
    put 16 0 <| put 6 slot.toNat <| put 18 0 <| 0
  | .tspawn _ e =>
    put 16 e.rcd.toNat <| put 4 0 <| put 5 e.tki2.toNat <| put 5 e.tki1.toNat <| put 5 e.tki0.toNat <| put 5 e.tko.toNat
      <| 0
  | .tgraph _ e =>
    put 16 e.rcd.toNat <| put 4 0 <| put 5 e.tki2.toNat <| put 5 e.tki1.toNat <| put 5 e.tki0.toNat <| put 5 e.tko.toNat
      <| 0
  | .tyieldFront _ =>
    put 16 0 <| put 6 0 <| put 6 0 <| put 6 0 <| put 6 0 <| 0
  | .tyieldPast _ xa =>
    put 16 0 <| put 6 1 <| put 6 0 <| put 6 xa.toNat <| put 6 0 <| 0
  | .collAllred _ e =>
    put 16 e.rcd.toNat <| put 4 0 <| put 5 e.tki2.toNat <| put 5 e.tki1.toNat <| put 5 e.tki0.toNat <| put 5 e.tko.toNat
      <| 0
  | .collRed _ e =>
    put 16 e.rcd.toNat <| put 4 1 <| put 5 e.tki2.toNat <| put 5 e.tki1.toNat <| put 5 e.tki0.toNat <| put 5 e.tko.toNat
      <| 0
  | .collBcast _ e =>
    put 16 e.rcd.toNat <| put 4 2 <| put 5 e.tki2.toNat <| put 5 e.tki1.toNat <| put 5 e.tki0.toNat <| put 5 e.tko.toNat
      <| 0
  | .collBar _ e =>
    put 16 e.rcd.toNat <| put 4 3 <| put 5 e.tki2.toNat <| put 5 e.tki1.toNat <| put 5 e.tki0.toNat <| put 5 e.tko.toNat
      <| 0
  | .collContribution _ _ _ => 0
  | .collDeadlineExpire _ _ _ => 0
  | .collMemberTimeout _ _ _ => 0
  | .vadd _ v ty md =>
    put 3 md.rm.code.toNat <| put 1 md.sat.toNat <| put 4 ty.code.toNat <| put 1 v.pb.toNat <| put 1 v.pa.toNat <| put
      10 v.vb.toNat <| put 10 v.va.toNat <| put 10 v.vd.toNat <| 0
  | .vsub _ v ty md =>
    put 3 md.rm.code.toNat <| put 1 md.sat.toNat <| put 4 ty.code.toNat <| put 1 v.pb.toNat <| put 1 v.pa.toNat <| put
      10 v.vb.toNat <| put 10 v.va.toNat <| put 10 v.vd.toNat <| 0
  | .vmul _ v ty md =>
    put 3 md.rm.code.toNat <| put 1 md.sat.toNat <| put 4 ty.code.toNat <| put 1 v.pb.toNat <| put 1 v.pa.toNat <| put
      10 v.vb.toNat <| put 10 v.va.toNat <| put 10 v.vd.toNat <| 0
  | .vdiv _ v ty md =>
    put 3 md.rm.code.toNat <| put 1 md.sat.toNat <| put 4 ty.code.toNat <| put 1 v.pb.toNat <| put 1 v.pa.toNat <| put
      10 v.vb.toNat <| put 10 v.va.toNat <| put 10 v.vd.toNat <| 0
  | .vmin _ v ty =>
    put 4 0 <| put 4 ty.code.toNat <| put 1 v.pb.toNat <| put 1 v.pa.toNat <| put 10 v.vb.toNat <| put 10 v.va.toNat <|
      put 10 v.vd.toNat <| 0
  | .vmax _ v ty =>
    put 4 0 <| put 4 ty.code.toNat <| put 1 v.pb.toNat <| put 1 v.pa.toNat <| put 10 v.vb.toNat <| put 10 v.va.toNat <|
      put 10 v.vd.toNat <| 0
  | .vfmaFp32 _ v =>
    put 10 v.vc.toNat <| put 10 v.vb.toNat <| put 10 v.va.toNat <| put 10 v.vd.toNat <| 0
  | .vfmaBf16 _ v =>
    put 10 v.vc.toNat <| put 10 v.vb.toNat <| put 10 v.va.toNat <| put 10 v.vd.toNat <| 0
  | .vfmaFp16 _ v =>
    put 10 v.vc.toNat <| put 10 v.vb.toNat <| put 10 v.va.toNat <| put 10 v.vd.toNat <| 0
  | .vabs _ v ty sat =>
    put 3 0 <| put 1 sat.toNat <| put 4 ty.code.toNat <| put 1 0 <| put 1 v.pa.toNat <| put 10 0 <| put 10 v.va.toNat <|
      put 10 v.vd.toNat <| 0
  | .vneg _ v ty sat =>
    put 3 0 <| put 1 sat.toNat <| put 4 ty.code.toNat <| put 1 0 <| put 1 v.pa.toNat <| put 10 0 <| put 10 v.va.toNat <|
      put 10 v.vd.toNat <| 0
  | .vand _ v =>
    put 8 0 <| put 1 v.pb.toNat <| put 1 v.pa.toNat <| put 10 v.vb.toNat <| put 10 v.va.toNat <| put 10 v.vd.toNat <| 0
  | .vor _ v =>
    put 8 0 <| put 1 v.pb.toNat <| put 1 v.pa.toNat <| put 10 v.vb.toNat <| put 10 v.va.toNat <| put 10 v.vd.toNat <| 0
  | .vxor _ v =>
    put 8 0 <| put 1 v.pb.toNat <| put 1 v.pa.toNat <| put 10 v.vb.toNat <| put 10 v.va.toNat <| put 10 v.vd.toNat <| 0
  | .vshl _ v ty =>
    put 4 0 <| put 4 ty.code.toNat <| put 1 v.pb.toNat <| put 1 v.pa.toNat <| put 10 v.vb.toNat <| put 10 v.va.toNat <|
      put 10 v.vd.toNat <| 0
  | .vshr _ v ty arith =>
    put 1 arith.toNat <| put 3 0 <| put 4 ty.code.toNat <| put 1 v.pb.toNat <| put 1 v.pa.toNat <| put 10 v.vb.toNat <|
      put 10 v.va.toNat <| put 10 v.vd.toNat <| 0
  | .vaddi _ v ty imm =>
    put 15 imm.toNat <| put 4 ty.code.toNat <| put 1 v.pa.toNat <| put 10 v.va.toNat <| put 10 v.vd.toNat <| 0
  | .vmuli _ v ty imm =>
    put 15 imm.toNat <| put 4 ty.code.toNat <| put 1 v.pa.toNat <| put 10 v.va.toNat <| put 10 v.vd.toNat <| 0
  | .vsplatImm _ vd ty imm =>
    put 15 imm.toNat <| put 4 ty.code.toNat <| put 1 0 <| put 10 0 <| put 10 vd.toNat <| 0
  | .vsplatReg _ vd ty xa =>
    put 15 0 <| put 4 ty.code.toNat <| put 1 1 <| put 6 xa.toNat <| put 4 0 <| put 10 vd.toNat <| 0
  | .vcvt _ v src dst rm sat =>
    put 4 dst.code.toNat <| put 3 rm.code.toNat <| put 1 sat.toNat <| put 7 0 <| put 4 src.code.toNat <| put 1
      v.pa.toNat <| put 10 v.va.toNat <| put 10 v.vd.toNat <| 0
  | .vcmp _ v ty cond =>
    put 4 cond.code.toNat <| put 4 ty.code.toNat <| put 1 v.pb.toNat <| put 1 v.pa.toNat <| put 10 v.vb.toNat <| put 10
      v.va.toNat <| put 10 v.vd.toNat <| 0
  | .vsel32 _ v =>
    put 10 v.vc.toNat <| put 10 v.vb.toNat <| put 10 v.va.toNat <| put 10 v.vd.toNat <| 0
  | .vsel16 _ v =>
    put 10 v.vc.toNat <| put 10 v.vb.toNat <| put 10 v.va.toNat <| put 10 v.vd.toNat <| 0
  | .vsel8 _ v =>
    put 10 v.vc.toNat <| put 10 v.vb.toNat <| put 10 v.va.toNat <| put 10 v.vd.toNat <| 0
  | .vreds _ v ty md =>
    put 3 md.rm.code.toNat <| put 1 md.sat.toNat <| put 4 ty.code.toNat <| put 1 v.pb.toNat <| put 1 v.pa.toNat <| put
      10 v.vb.toNat <| put 10 v.va.toNat <| put 10 v.vd.toNat <| 0
  | .vredm _ v ty kind =>
    put 4 kind.code.toNat <| put 4 ty.code.toNat <| put 1 0 <| put 1 v.pa.toNat <| put 10 0 <| put 10 v.va.toNat <| put
      10 v.vd.toNat <| 0
  | .vscan _ v ty ex rm =>
    put 3 rm.code.toNat <| put 1 ex.toNat <| put 4 ty.code.toNat <| put 1 v.pb.toNat <| put 1 v.pa.toNat <| put 10
      v.vb.toNat <| put 10 v.va.toNat <| put 10 v.vd.toNat <| 0
  | .vsortcCount _ v win =>
    put 2 0 <| put 2 win.toNat <| put 4 5 <| put 1 v.pb.toNat <| put 1 v.pa.toNat <| put 10 v.vb.toNat <| put 10
      v.va.toNat <| put 10 v.vd.toNat <| 0
  | .vsortcOrder _ v =>
    put 2 1 <| put 2 0 <| put 4 5 <| put 1 0 <| put 1 v.pa.toNat <| put 10 0 <| put 10 v.va.toNat <| put 10 v.vd.toNat
      <| 0
  | .vsortcSlot _ v win =>
    put 2 2 <| put 2 win.toNat <| put 4 5 <| put 1 v.pb.toNat <| put 1 v.pa.toNat <| put 10 v.vb.toNat <| put 10
      v.va.toNat <| put 10 v.vd.toNat <| 0
  | .vspselMask _ v ty =>
    put 4 0 <| put 4 ty.code.toNat <| put 1 0 <| put 1 v.pa.toNat <| put 10 0 <| put 10 v.va.toNat <| put 10 v.vd.toNat
      <| 0
  | .vspselMeta _ v ty =>
    put 4 1 <| put 4 ty.code.toNat <| put 1 0 <| put 1 v.pa.toNat <| put 10 0 <| put 10 v.va.toNat <| put 10 v.vd.toNat
      <| 0
  | .vspselPack _ v ty =>
    put 4 2 <| put 4 ty.code.toNat <| put 1 0 <| put 1 v.pa.toNat <| put 10 0 <| put 10 v.va.toNat <| put 10 v.vd.toNat
      <| 0
  | .vrmsnFp32 _ v =>
    put 10 v.vc.toNat <| put 10 v.vb.toNat <| put 10 v.va.toNat <| put 10 v.vd.toNat <| 0
  | .vrmsnBf16 _ v =>
    put 10 v.vc.toNat <| put 10 v.vb.toNat <| put 10 v.va.toNat <| put 10 v.vd.toNat <| 0
  | .vact _ v ty fn =>
    put 4 fn.code.toNat <| put 4 ty.code.toNat <| put 1 v.pb.toNat <| put 1 v.pa.toNat <| put 10 v.vb.toNat <| put 10
      v.va.toNat <| put 10 v.vd.toNat <| 0
  | .vexp _ v ty =>
    put 4 0 <| put 4 ty.code.toNat <| put 1 0 <| put 1 v.pa.toNat <| put 10 0 <| put 10 v.va.toNat <| put 10 v.vd.toNat
      <| 0
  | .vexp2 _ v ty =>
    put 4 1 <| put 4 ty.code.toNat <| put 1 0 <| put 1 v.pa.toNat <| put 10 0 <| put 10 v.va.toNat <| put 10 v.vd.toNat
      <| 0
  | .vrcp _ v ty =>
    put 4 0 <| put 4 ty.code.toNat <| put 1 0 <| put 1 v.pa.toNat <| put 10 0 <| put 10 v.va.toNat <| put 10 v.vd.toNat
      <| 0
  | .vrsq _ v ty =>
    put 4 0 <| put 4 ty.code.toNat <| put 1 0 <| put 1 v.pa.toNat <| put 10 0 <| put 10 v.va.toNat <| put 10 v.vd.toNat
      <| 0
  | .vperm _ v ty hi =>
    put 1 hi.toNat <| put 3 0 <| put 4 ty.code.toNat <| put 1 v.pb.toNat <| put 1 v.pa.toNat <| put 10 v.vb.toNat <| put
      10 v.va.toNat <| put 10 v.vd.toNat <| 0
  | .vlds _ vd xa imm =>
    put 15 imm.toNat <| put 4 0 <| put 1 0 <| put 6 xa.toNat <| put 4 0 <| put 10 vd.toNat <| 0
  | .vsts _ va pa xa imm =>
    put 15 imm.toNat <| put 4 0 <| put 1 pa.toNat <| put 10 va.toNat <| put 6 xa.toNat <| put 4 0 <| 0
  | .vqst _ xd vn =>
    put 20 0 <| put 10 vn.toNat <| put 6 xd.toNat <| put 4 0 <| 0
  | .vmov _ v =>
    put 8 0 <| put 1 0 <| put 1 v.pa.toNat <| put 10 0 <| put 10 v.va.toNat <| put 10 v.vd.toNat <| 0
  | .exadd _ d va pa ty =>
    put 4 0 <| put 4 ty.code.toNat <| put 1 0 <| put 1 pa.toNat <| put 10 0 <| put 10 va.toNat <| put 6 d.toNat <| put 4
      0 <| 0
  | .exaddL _ d va len1 pa ty =>
    put 4 1 <| put 4 ty.code.toNat <| put 1 0 <| put 1 pa.toNat <| put 6 len1.toNat <| put 4 0 <| put 10 va.toNat <| put
      6 d.toNat <| put 4 0 <| 0
  | .exrd _ vd a len1 clr =>
    put 1 clr.toNat <| put 3 0 <| put 4 0 <| put 2 0 <| put 6 len1.toNat <| put 4 0 <| put 6 a.toNat <| put 4 0 <| put
      10 vd.toNat <| 0
  | .exclr _ a len1 =>
    put 6 len1.toNat <| put 9 0 <| put 4 0 <| put 1 0 <| put 6 a.toNat <| put 4 0 <| put 10 0 <| 0
  | .fqpush _ xa =>
    put 28 0 <| put 6 xa.toNat <| put 6 0 <| 0
  | .fqmode _ rm =>
    put 3 rm.code.toNat <| put 25 0 <| put 12 0 <| 0
  | .scw _ sc xa imm =>
    put 16 imm.toNat <| put 4 sc.toNat <| put 2 0 <| put 6 0 <| put 6 xa.toNat <| put 6 0 <| 0
  | .ctwr _ bank entry xa imm =>
    put 16 imm.toNat <| put 4 entry.toNat <| put 1 bank.toNat <| put 1 0 <| put 6 0 <| put 6 xa.toNat <| put 6 0 <| 0
  | .nestw _ nest xa imm =>
    put 16 imm.toNat <| put 3 nest.toNat <| put 3 0 <| put 6 0 <| put 6 xa.toNat <| put 6 0 <| 0
  | .tgo _ t =>
    put 1 t.accum.toNat <| put 1 t.adv.toNat <| put 2 0 <| put 3 t.gang.toNat <| put 6 t.xk.toNat <| put 6 t.xn.toNat <|
      put 6 t.xm.toNat <| put 8 t.profile.toNat <| put 3 t.nest.toNat <| put 4 t.acc.toNat <| 0
  | .tgoG _ t =>
    put 1 t.accum.toNat <| put 1 t.adv.toNat <| put 2 0 <| put 3 t.gang.toNat <| put 6 t.xk.toNat <| put 6 t.xn.toNat <|
      put 6 t.xm.toNat <| put 8 t.profile.toNat <| put 3 t.nest.toNat <| put 4 t.acc.toNat <| 0
  | .tgoSp _ t =>
    put 1 t.accum.toNat <| put 1 t.adv.toNat <| put 2 0 <| put 3 t.gang.toNat <| put 6 t.xk.toNat <| put 6 t.xn.toNat <|
      put 6 t.xm.toNat <| put 8 t.profile.toNat <| put 3 t.nest.toNat <| put 4 t.acc.toNat <| 0
  | .tileCmdHead _ => 0
  | .tileCmdAccept _ => 0
  | .tileCmdComplete _ _ => 0
  | .accz _ acc =>
    put 36 0 <| put 4 acc.toNat <| 0
  | .accrd _ vd acc ty xa row =>
    put 7 row.toNat <| put 1 0 <| put 6 xa.toNat <| put 1 0 <| put 4 ty.code.toNat <| put 1 0 <| put 4 acc.toNat <| put
      6 0 <| put 10 vd.toNat <| 0
  | .accmov _ accD accS add =>
    put 4 0 <| put 1 add.toNat <| put 2 0 <| put 4 accS.toNat <| put 2 0 <| put 12 0 <| put 8 0 <| put 3 0 <| put 4
      accD.toNat <| 0
  | .accst _ w =>
    put 1 0 <| put 1 w.adv.toNat <| put 2 0 <| put 3 0 <| put 6 0 <| put 6 w.xn.toNat <| put 6 w.xm.toNat <| put 8 0 <|
      put 3 w.nest.toNat <| put 4 w.acc.toNat <| 0
  | .accld _ w =>
    put 1 0 <| put 1 w.adv.toNat <| put 2 0 <| put 3 0 <| put 6 0 <| put 6 w.xn.toNat <| put 6 w.xm.toNat <| put 8 0 <|
      put 3 w.nest.toNat <| put 4 w.acc.toNat <| 0
  | .lapp _ slot qa qb bf =>
    put 1 bf.toNat <| put 3 0 <| put 10 0 <| put 10 qb.toNat <| put 10 qa.toNat <| put 6 slot.toNat <| 0
  | .lappb _ slot qa qb j bf =>
    put 1 bf.toNat <| put 3 0 <| put 4 j.toNat <| put 6 0 <| put 10 qb.toNat <| put 10 qa.toNat <| put 6 slot.toNat <| 0
  | .lreadOrd _ slot qa qb qc bf div =>
    put 2 0 <| put 1 div.toNat <| put 1 bf.toNat <| put 10 qc.toNat <| put 10 qb.toNat <| put 10 qa.toNat <| put 6
      slot.toNat <| 0
  | .lreadExa _ slot qa qb qc bf div =>
    put 2 1 <| put 1 div.toNat <| put 1 bf.toNat <| put 10 qc.toNat <| put 10 qb.toNat <| put 10 qa.toNat <| put 6
      slot.toNat <| 0
  | .lreadRungs _ slot qa qb qc bf =>
    put 2 2 <| put 1 0 <| put 1 bf.toNat <| put 10 qc.toNat <| put 10 qb.toNat <| put 10 qa.toNat <| put 6 slot.toNat <|
      0
  | .lfork _ slotD slotS =>
    put 24 0 <| put 6 slotS.toNat <| put 4 0 <| put 6 slotD.toNat <| 0
  | .ltruncLow _ slot xm =>
    put 4 0 <| put 20 0 <| put 6 xm.toNat <| put 4 0 <| put 6 slot.toNat <| 0
  | .ltruncCkpt _ slot slotC =>
    put 4 1 <| put 20 0 <| put 6 slotC.toNat <| put 4 0 <| put 6 slot.toNat <| 0
  | .ldrop _ slot =>
    put 34 0 <| put 6 slot.toNat <| 0
  | .lstat _ slot qc =>
    put 4 0 <| put 10 qc.toNat <| put 20 0 <| put 6 slot.toNat <| 0
  | .ladderCmdComplete _ _ => 0
  | .tapchk _ xb first cnt1 =>
    put 6 first.toNat <| put 4 cnt1.toNat <| put 2 0 <| put 4 0 <| put 6 0 <| put 6 xb.toNat <| put 12 0 <| 0
  | .tapchkBind _ xa =>
    put 6 0 <| put 4 0 <| put 2 0 <| put 4 1 <| put 12 0 <| put 6 xa.toNat <| put 6 0 <| 0
  | .tapchkMask _ xd wd =>
    put 2 wd.toNat <| put 10 0 <| put 4 2 <| put 18 0 <| put 6 xd.toNat <| 0
  | .vshort _ v bf =>
    put 4 0 <| put 1 bf.toNat <| put 3 0 <| put 1 v.pb.toNat <| put 1 v.pa.toNat <| put 10 v.vb.toNat <| put 10
      v.va.toNat <| put 10 v.vd.toNat <| 0
  | .vsort _ v =>
    put 4 0 <| put 4 0 <| put 1 v.pb.toNat <| put 1 v.pa.toNat <| put 10 v.vb.toNat <| put 10 v.va.toNat <| put 10
      v.vd.toNat <| 0
  | .vsortMerge _ v =>
    put 4 1 <| put 4 0 <| put 1 v.pb.toNat <| put 1 v.pa.toNat <| put 10 v.vb.toNat <| put 10 v.va.toNat <| put 10
      v.vd.toNat <| 0
  | .vsamp _ v f =>
    put 1 0 <| put 1 f.toNat <| put 2 0 <| put 4 0 <| put 1 v.pb.toNat <| put 1 v.pa.toNat <| put 10 v.vb.toNat <| put
      10 v.va.toNat <| put 10 v.vd.toNat <| 0
  | .vsampU _ vd vb pa pb =>
    put 4 1 <| put 4 0 <| put 1 pb.toNat <| put 1 pa.toNat <| put 10 vb.toNat <| put 10 1023 <| put 10 vd.toNat <| 0
  | .rngget _ xd xa =>
    put 16 0 <| put 6 0 <| put 6 0 <| put 6 xa.toNat <| put 6 xd.toNat <| 0
  | .rnggetPeek _ xd xa =>
    put 16 0 <| put 6 1 <| put 6 0 <| put 6 xa.toNat <| put 6 xd.toNat <| 0
  | .rngjmp _ xa xb =>
    put 22 0 <| put 6 xb.toNat <| put 6 xa.toNat <| put 6 0 <| 0
  | .gstep _ v =>
    put 4 0 <| put 4 5 <| put 1 0 <| put 1 v.pa.toNat <| put 10 0 <| put 10 v.va.toNat <| put 10 v.vd.toNat <| 0
  | .vgmask _ v bf =>
    put 4 0 <| put 1 bf.toNat <| put 3 0 <| put 1 v.pb.toNat <| put 1 v.pa.toNat <| put 10 v.vb.toNat <| put 10
      v.va.toNat <| put 10 v.vd.toNat <| 0
  | .gsave _ xd xa =>
    put 28 0 <| put 6 xa.toNat <| put 6 xd.toNat <| 0
  | .grest _ xa xb =>
    put 22 0 <| put 6 xb.toNat <| put 6 xa.toNat <| put 6 0 <| 0
  | .tokout _ v =>
    put 4 0 <| put 4 5 <| put 1 0 <| put 1 v.pa.toNat <| put 10 0 <| put 10 v.va.toNat <| put 10 v.vd.toNat <| 0
  | .wsw _ xa xb xc =>
    put 16 0 <| put 6 xc.toNat <| put 6 xb.toNat <| put 6 xa.toNat <| put 6 0 <| 0
  | .ptbw _ xa idx =>
    put 6 idx.toNat <| put 6 0 <| put 4 0 <| put 12 0 <| put 6 xa.toNat <| put 6 0 <| 0
  | .ptbwH _ xa =>
    put 6 0 <| put 6 0 <| put 4 1 <| put 12 0 <| put 6 xa.toNat <| put 6 0 <| 0
  | .tlbiPg _ xa =>
    put 12 0 <| put 4 0 <| put 12 0 <| put 6 xa.toNat <| put 6 0 <| 0
  | .tlbiBlk _ xa =>
    put 12 0 <| put 4 1 <| put 12 0 <| put 6 xa.toNat <| put 6 0 <| 0
  | .tlbiAll _ =>
    put 12 0 <| put 4 2 <| put 24 0 <| 0
  | .quar _ xa xb wd =>
    put 2 wd.toNat <| put 10 0 <| put 4 0 <| put 6 0 <| put 6 xb.toNat <| put 6 xa.toNat <| put 6 0 <| 0
  | .slotw _ xa n =>
    put 6 n.toNat <| put 6 0 <| put 4 0 <| put 12 0 <| put 6 xa.toNat <| put 6 0 <| 0
  | .bmapwFree _ xa =>
    put 12 0 <| put 4 0 <| put 12 0 <| put 6 xa.toNat <| put 6 0 <| 0
  | .bmapwSet _ xa xb =>
    put 12 0 <| put 4 1 <| put 6 0 <| put 6 xb.toNat <| put 6 xa.toNat <| put 6 0 <| 0
  | .halt _ xa =>
    put 28 0 <| put 6 xa.toNat <| put 6 0 <| 0
  | .resume _ xa =>
    put 28 0 <| put 6 xa.toNat <| put 6 0 <| 0
  | .eret _ =>
    put 40 0 <| 0
  | .ipi _ xa code =>
    put 12 code.toNat <| put 4 0 <| put 12 0 <| put 6 xa.toNat <| put 6 0 <| 0
  | .partw _ xa xb sel =>
    put 5 sel.toNat <| put 7 0 <| put 4 0 <| put 6 0 <| put 6 xb.toNat <| put 6 xa.toNat <| put 6 0 <| 0
  | .islw _ xa xb =>
    put 22 0 <| put 6 xb.toNat <| put 6 xa.toNat <| put 6 0 <| 0
  | .forcedStopPoint _ _ => 0
  | .deadlk _ => 0
  | .tlbWalk _ _ => 0
  | .xlateService _ _ _ _ => 0
  | .pageMove _ _ _ _ => 0
  | .pageSupplyAnswer _ _ _ _ => 0
  | .holdWindowExpire _ _ => 0
  | .migrationGo _ _ _ => 0
  | .hostDeviceWrite _ _ => 0
  | .taskSelect _ => 0
  | .reservationRequest _ _ => 0
  | .coreRelease _ => 0
  | .raggedDistribute _ => 0
  | .coreStart _ => 0
  | .coreDrainDone _ => 0
  | .taskCommit _ => 0
  | .supervisorResume _ _ _ _ => 0
  | .supervisorReflect _ _ => 0
  | .supervisorEndFault _ => 0
  | .preemptSave _ _ => 0
  | .scrubError _ _ _ => 0
  | .specdepthWrite _ _ => 0
  | .vbquotaWrite _ _ => 0
  | .reddlWrite _ _ => 0
  | .ptbaseWrite _ _ => 0
  | .tqspareWrite _ _ => 0
  | .schctlPre _ => 0
  | .schctlHold _ _ => 0
  | .registerWrite _ _ => 0
  | .queueEnable _ _ => 0
  | .kick _ _ => 0
  | .entryFetch _ => 0
  | .frameBoundary => 0
  | .wsRefreshWindow _ => 0
  | .leaveGrant _ => 0
  | .linkFlitRetry _ => 0
  | .powerOn => 0
  | .pcieFundamentalReset => 0
  | .bootctlCold => 0
  | .bootctlWarm => 0
  | .stageTimeout => 0
  | .icarnColdReset => 0
  | .writeInFlightCompletes _ _ _ => 0
  | .postedStorePerformed _ _ _ _ => 0
  | .hostPortDown _ _ => 0
  | .linkStateChange _ _ _ => 0
  | .islandPowerGating _ _ => 0
  | .landingProcessorWrite _ _ => 0

/-- The 64-bit word of an instruction, from the encoding tables of its entry; `none` for an event. -/
def encode (i : Instr) : Option Word :=
  match opcodeOf i with
  | some op => some (BitVec.ofNat 64 (put 40 (operandsOf i) (put 8 op (put 1 0 (encodeCtl (ctlOf i))))))
  | none => none

end Sys2Proof
end

