-- ==== Sys2Proof/Machine/Bits.lean ====
section
/-! DEFINITION. Bit fields, byte order and sign extension (R1, R2). -/

namespace Sys2Proof.Machine

open Sys2Proof

/-- Bits `lo + len - 1` to `lo` of a vector, as a number (R1). -/
def field {n : Nat} (w : BitVec n) (lo len : Nat) : Nat := w.toNat / 2 ^ lo % 2 ^ len

/-- Bit `i` of a vector. -/
def bitOf {n : Nat} (w : BitVec n) (i : Nat) : Bool := w.toNat / 2 ^ i % 2 == 1

/-- A number read as a signed number of `n` bits. -/
def signedNat (n v : Nat) : Int := if v < 2 ^ (n - 1) then (v : Int) else (v : Int) - (2 ^ n : Nat)

/-- A signed field. -/
def sfield {n : Nat} (w : BitVec n) (lo len : Nat) : Int := signedNat len (field w lo len)

/-- An integer reduced modulo `2 ^ n`. -/
def wrapInt (n : Nat) (i : Int) : Nat := (i % ((2 ^ n : Nat) : Int)).toNat

/-- Sign extension to 64 bits. -/
def sext {n : Nat} (b : BitVec n) : Word := b.signExtend 64

/-- Zero extension to 64 bits. -/
def zext {n : Nat} (b : BitVec n) : Word := b.setWidth 64

/-- A number as a word. -/
def w64 (n : Nat) : Word := BitVec.ofNat 64 n

/-- A Boolean as 0 or 1. -/
def b2n (b : Bool) : Nat := if b then 1 else 0

/-- The `n` low bytes of a number, least significant first (R2). -/
def leBytes : Nat → Nat → List Byte
  | 0, _ => []
  | n + 1, v => BitVec.ofNat 8 v :: leBytes n (v / 256)

/-- `n` bytes of a memory as a number (R2). -/
def Memory.num (m : Memory) (a n : Nat) : Nat := bytesToNat (m.bytes a n)

/-- Write a number as `n` bytes (R2). -/
def Memory.setNum (m : Memory) (a n v : Nat) : Memory := m.setBytes a (leBytes n v)

/-- Byte `i` of an element. -/
def elemByte (e : Elem) (i : Nat) : Byte := BitVec.ofNat 8 (e.toNat / 2 ^ (8 * i))

/-- The bytes of an element. -/
def elemBytes (e : Elem) : List Byte := leBytes 512 e.toNat

/-- An element from its bytes. -/
def elemOfBytes (bs : List Byte) : Elem := BitVec.ofNat 4096 (bytesToNat bs)

/-- Lane `i` of width `w` (R161). -/
def lane (w : Nat) (e : Elem) (i : Nat) : Nat := e.toNat / 2 ^ (w * i) % 2 ^ w

/-- Put lanes together, lane 0 lowest (R161). -/
def packLanes (w : Nat) : List Nat → Nat
  | [] => 0
  | v :: vs => v % 2 ^ w + 2 ^ w * packLanes w vs

/-- An element from the values of its lanes; missing lanes are 0. -/
def ofLanes (w : Nat) (vs : List Nat) : Elem := BitVec.ofNat 4096 (packLanes w vs)

/-- The number of one bits among the low `n` bits. -/
def popCount : Nat → Nat → Nat
  | 0, _ => 0
  | n + 1, v => v % 2 + popCount n (v / 2)

/-- The positions of the one bits among the low `n` bits, ascending. -/
def onesOf (n v : Nat) : List Nat := (List.range n).filter fun i => v / 2 ^ i % 2 == 1

/-- Round up to a multiple. -/
def roundUp (v m : Nat) : Nat := (v + m - 1) / m * m

/-- The quotient rounded up. -/
def ceilDiv (v m : Nat) : Nat := (v + m - 1) / m

/-- The ranges `[a, a + n)` and `[b, b + m)` share an address. -/
def meets (a n b m : Nat) : Bool := decide (0 < n) && decide (0 < m) && decide (a < b + m) && decide (b < a + n)

/-- Replace the first element that satisfies a test. -/
def updFirst {α : Type} (p : α → Bool) (f : α → α) : List α → List α
  | [] => []
  | a :: r => if p a then f a :: r else a :: updFirst p f r

/-- Take out the first element that satisfies a test. -/
def delFirst {α : Type} (p : α → Bool) : List α → List α
  | [] => []
  | a :: r => if p a then r else a :: delFirst p r

end Sys2Proof.Machine
end

