-- ==== Sys2Proof/Machine/Num.lean ====
section
/-! DEFINITION. Numbers: the floating-point formats (R104), exact values, rounding (R113, R114), conversions (R115), the
exact operations of R169 to R172, and the functions of R177 by bounds on both sides. -/

namespace Sys2Proof.Machine

open Sys2Proof

/-- The floating-point element formats (R104). -/
inductive FFmt where
  | fp32 | bf16 | fp16 | e4m3 | e5m2
  deriving DecidableEq, Repr

/-- Width in bits. -/
def FFmt.width : FFmt → Nat
  | .fp32 => 32 | .bf16 => 16 | .fp16 => 16 | .e4m3 => 8 | .e5m2 => 8

/-- Width of the exponent field. -/
def FFmt.eb : FFmt → Nat
  | .fp32 => 8 | .bf16 => 8 | .fp16 => 5 | .e4m3 => 4 | .e5m2 => 5

/-- Width of the fraction field. -/
def FFmt.mb : FFmt → Nat
  | .fp32 => 23 | .bf16 => 7 | .fp16 => 10 | .e4m3 => 3 | .e5m2 => 2

/-- Bias. -/
def FFmt.bias : FFmt → Nat
  | .fp32 => 127 | .bf16 => 127 | .fp16 => 15 | .e4m3 => 7 | .e5m2 => 15

/-- The pattern of the largest finite value. -/
def FFmt.maxFin : FFmt → Nat
  | .fp32 => 0x7F7FFFFF | .bf16 => 0x7F7F | .fp16 => 0x7BFF | .e4m3 => 0x7E | .e5m2 => 0x7B

/-- The canonical NaN (R106). -/
def FFmt.nan : FFmt → Nat
  | .fp32 => 0x7FC00000 | .bf16 => 0x7FC0 | .fp16 => 0x7E00 | .e4m3 => 0x7F | .e5m2 => 0x7E

/-- The pattern of +infinity; E4M3 has none and never asks. -/
def FFmt.inf : FFmt → Nat
  | .fp32 => 0x7F800000 | .bf16 => 0x7F80 | .fp16 => 0x7C00 | .e4m3 => 0x7E | .e5m2 => 0x7C

/-- The exponent of the unit of the smallest subnormal. -/
def FFmt.qmin (f : FFmt) : Int := 1 - (f.bias : Int) - f.mb

/-- The sign bit as a number. -/
def FFmt.signBit (f : FFmt) (neg : Bool) : Nat := if neg then 2 ^ (f.width - 1) else 0

/-- An exact value: NaN, an infinity, or plus or minus `m * 2 ^ e`. -/
inductive FV where
  | nan
  | inf (neg : Bool)
  | fin (neg : Bool) (m : Nat) (e : Int)
  deriving DecidableEq, Repr

/-- The value of a pattern (R104). -/
def FFmt.dec (f : FFmt) (b : Nat) : FV :=
  let neg := b / 2 ^ (f.width - 1) % 2 == 1
  let ex := b / 2 ^ f.mb % 2 ^ f.eb
  let fr := b % 2 ^ f.mb
  if f = .e4m3 then
    if ex = 15 ∧ fr = 7 then .nan
    else if ex = 0 then .fin neg fr f.qmin else .fin neg (2 ^ f.mb + fr) (f.qmin + (ex - 1 : Nat))
  else if ex = 2 ^ f.eb - 1 then if fr = 0 then .inf neg else .nan
  else if ex = 0 then .fin neg fr f.qmin
  else .fin neg (2 ^ f.mb + fr) (f.qmin + (ex - 1 : Nat))

/-- `m * 2 ^ e` in units of `2 ^ q`, rounded by the mode (R113). -/
def roundUnits (rm : RM) (neg : Bool) (m : Nat) (e q : Int) : Nat :=
  if q ≤ e then m * 2 ^ (e - q).toNat
  else
    let d := 2 ^ (q - e).toNat
    let n := m / d
    let r := m % d
    match rm with
    | .rne => if 2 * r > d ∨ (2 * r = d ∧ n % 2 = 1) then n + 1 else n
    | .rna => if 2 * r ≥ d then n + 1 else n
    | .rtz => n
    | .rdn => if neg ∧ r ≠ 0 then n + 1 else n
    | .rup => if ¬neg ∧ r ≠ 0 then n + 1 else n

/-- `a * 2 ^ e` is above `b * 2 ^ f`. -/
def above (a : Nat) (e : Int) (b : Nat) (f : Int) : Bool :=
  if f ≤ e then decide (b < a * 2 ^ (e - f).toNat) else decide (b * 2 ^ (f - e).toNat < a)

/-- The largest finite value, as a significand and an exponent. -/
def FFmt.maxVal (f : FFmt) : Nat × Int :=
  match f.dec f.maxFin with
  | .fin _ m e => (m, e)
  | _ => (0, 0)

/-- Round an exact value into a format (R113, R114): the pattern, and whether it saturated. E4M3 always saturates. -/
def FFmt.round (f : FFmt) (rm : RM) (sat : Bool) (v : FV) : Nat × Bool :=
  match v with
  | .nan => (f.nan, false)
  | .inf neg => if sat || f == .e4m3 then (f.signBit neg + f.maxFin, true) else (f.signBit neg + f.inf, false)
  | .fin neg m e =>
    if m = 0 then (f.signBit neg, false)
    else
      let q := max (e + m.log2 - f.mb) f.qmin
      let code := (q - f.qmin).toNat * 2 ^ f.mb + roundUnits rm neg m e q
      let big := above m e f.maxVal.1 f.maxVal.2
      if sat || f == .e4m3 then
        if big then (f.signBit neg + f.maxFin, true) else (f.signBit neg + code, false)
      else if f.maxFin < code then
        let toInf := match rm with
          | .rne => true
          | .rna => true
          | .rtz => false
          | .rdn => neg
          | .rup => !neg
        (f.signBit neg + (if toInf then f.inf else f.maxFin), false)
      else (f.signBit neg + code, false)

/-- Round to nearest even without saturation, the pattern only. -/
def FFmt.rne (f : FFmt) (v : FV) : Nat := (f.round .rne false v).1

/-! ### Exact operations -/

/-- Change the sign. -/
def FV.neg : FV → FV
  | .nan => .nan
  | .inf n => .inf !n
  | .fin n m e => .fin (!n) m e

/-- The magnitude. -/
def FV.abs : FV → FV
  | .nan => .nan
  | .inf _ => .inf false
  | .fin _ m e => .fin false m e

/-- A signed significand. -/
def signedOf (neg : Bool) (m : Nat) : Int := if neg then -(m : Int) else m

/-- An exact sum; the sign of an exact zero by R169, `down` under RDN. -/
def FV.add (down : Bool) : FV → FV → FV
  | .nan, _ => .nan
  | _, .nan => .nan
  | .inf a, .inf b => if a = b then .inf a else .nan
  | .inf a, .fin _ _ _ => .inf a
  | .fin _ _ _, .inf b => .inf b
  | .fin a m e, .fin b n f =>
    let g := min e f
    let t := signedOf a (m * 2 ^ (e - g).toNat) + signedOf b (n * 2 ^ (f - g).toNat)
    if t = 0 then .fin (if a = b then a else down) 0 0 else .fin (decide (t < 0)) t.natAbs g

/-- An exact product (R169). -/
def FV.mul : FV → FV → FV
  | .nan, _ => .nan
  | _, .nan => .nan
  | .inf a, .inf b => .inf (a != b)
  | .inf a, .fin b n _ => if n = 0 then .nan else .inf (a != b)
  | .fin a m _, .inf b => if m = 0 then .nan else .inf (a != b)
  | .fin a m e, .fin b n f => .fin (a != b) (m * n) (e + f)

/-- A quotient to at least 64 significant bits, inexact ones marked by an odd last bit, so that every rounding to fewer
bits is the rounding of the exact quotient (R169). -/
def FV.div : FV → FV → FV
  | .nan, _ => .nan
  | _, .nan => .nan
  | .inf _, .inf _ => .nan
  | .inf a, .fin b _ _ => .inf (a != b)
  | .fin a _ _, .inf b => .fin (a != b) 0 0
  | .fin a m e, .fin b n f =>
    if n = 0 then if m = 0 then .nan else .inf (a != b)
    else if m = 0 then .fin (a != b) 0 0
    else
      let k := 70 + n.log2
      let q := m * 2 ^ k / n
      let r := m * 2 ^ k % n
      .fin (a != b) (2 * q + (if r = 0 then 0 else 1)) (e - f - k - 1)

/-- `1 / sqrt v`, in the same way (R177): NaN below -0, infinities at zeros, +0 at +infinity. -/
def FV.rsqrt : FV → FV
  | .nan => .nan
  | .inf neg => if neg then .nan else .fin false 0 0
  | .fin neg m e =>
    if m = 0 then .inf neg
    else if neg then .nan
    else
      let m' := if e % 2 = 0 then m else 2 * m
      let h := (if e % 2 = 0 then e else e - 1) / 2
      let p := 70 + m'.log2
      let q := Nat.sqrt (2 ^ (2 * p) / m')
      .fin false (2 * q + (if q * q * m' = 2 ^ (2 * p) then 0 else 1)) (-h - p - 1)

/-- One value is below another; NaN is below nothing; zeros are equal. -/
def FV.lt : FV → FV → Bool
  | .nan, _ => false
  | _, .nan => false
  | .inf a, .inf b => a && !b
  | .inf a, .fin _ _ _ => a
  | .fin _ _ _, .inf b => !b
  | .fin a m e, .fin b n f =>
    let g := min e f
    decide (signedOf a (m * 2 ^ (e - g).toNat) < signedOf b (n * 2 ^ (f - g).toNat))

/-- A value is NaN. -/
def FV.isNaN : FV → Bool
  | .nan => true
  | _ => false

/-- A value is a zero. -/
def FV.isZero : FV → Bool
  | .fin _ m _ => m == 0
  | _ => false

/-- A value is an infinity. -/
def FV.isInf : FV → Bool
  | .inf _ => true
  | _ => false

/-- The sign of a value; false for NaN. -/
def FV.isNeg : FV → Bool
  | .nan => false
  | .inf n => n
  | .fin n _ _ => n

/-- Order with -0 below +0 (R169, R179). -/
def FV.ltz (a b : FV) : Bool := a.lt b || (a.isZero && b.isZero && a.isNeg && !b.isNeg)

/-- An integer as an exact value; 0 is +0. -/
def FV.ofInt (i : Int) : FV := .fin (decide (i < 0)) i.natAbs 0

/-- The exact value rounded to an integer by the mode; infinities and NaN have none (R115). -/
def FV.toInt (rm : RM) : FV → Option Int
  | .fin neg m e => some (signedOf neg (roundUnits rm neg m e 0))
  | _ => none

/-! ### The functions of R177 -/

/-- A real that is not held exactly: plus or minus a value between `lo * 2 ^ e` and `hi * 2 ^ e`; or an exact value. -/
inductive Approx where
  | exact (v : FV)
  | near (neg : Bool) (lo hi : Nat) (e : Int)
  deriving DecidableEq, Repr

/-- Round to nearest even. Where the bounds round apart, the value is free (assumption 15). -/
def Approx.rne (f : FFmt) (fn arg : Nat) : Approx → Nat
  | .exact v => f.rne v
  | .near neg lo hi e =>
    let a := f.rne (.fin neg lo e)
    if a = f.rne (.fin neg hi e) then a else Config.undecided fn f.width arg % 2 ^ f.width

/-- Multiply by an exact value. -/
def Approx.mul : Approx → FV → Approx
  | .exact v, b => .exact (v.mul b)
  | .near _ _ _ _, .nan => .exact .nan
  | .near a _ _ _, .inf b => .exact (.inf (a != b))
  | .near a lo hi e, .fin b n f => if n = 0 then .exact (.fin (a != b) 0 0) else .near (a != b) (lo * n) (hi * n) (e + f)

/-- Fraction bits of the fixed-point work. -/
abbrev fxP : Nat := 512

/-- ln 2 in units of `2 ^ -512`, rounded down. -/
def fxLn2 : Nat :=
  0xb17217f7d1cf79abc9e3b39803f2f6af40f343267298b62d8a0d175b8baafa2be7b876206debac98559552fb4afa1b10ed2eae35c138214427573b291169b825

/-- Pi in units of `2 ^ -512`, rounded down. -/
def fxPi : Nat :=
  0x3243f6a8885a308d313198a2e03707344a4093822299f31d0082efa98ec4e6c89452821e638d01377be5466cf34e90c6cc0ac29b7c97c50dd3f84d5b5b5470917

/-- `m * 2 ^ e` in units of `2 ^ -512`, rounded down. -/
def fxOf (m : Nat) (e : Int) : Nat :=
  if 0 ≤ e + fxP then m * 2 ^ (e + fxP).toNat else m / 2 ^ (-(e + fxP)).toNat

/-- The Taylor sum of the exponential, in units of `2 ^ -512`: `n` more terms, the next one being `t * r / i`. -/
def fxTaylor (r : Nat) : Nat → Nat → Nat → Nat → Nat
  | 0, _, _, acc => acc
  | n + 1, i, t, acc => let t' := t * r / 2 ^ fxP / i; fxTaylor r n (i + 1) t' (acc + t')

/-- `e ^ r` for r in 0 to 1, in units of `2 ^ -512`, to within `2 ^ 20` units. -/
def fxExp (r : Nat) : Nat := fxTaylor r 130 1 (2 ^ fxP) (2 ^ fxP)

/-- `e ^ a` for a signed fixed-point `a`: significand and exponent. The significand is within `2 ^ 24` of the exact. -/
def expFx (a : Int) : Nat × Int :=
  let k := a / (fxLn2 : Int)
  (fxExp (a - k * fxLn2).toNat, k - fxP)

/-- Bounds around a significand that is within `2 ^ 40` of the exact one. -/
def nearOf (neg : Bool) (m : Nat) (e : Int) : Approx := .near neg (m - 2 ^ 40) (m + 2 ^ 40) e

/-- A positive value smaller than any that a format holds. -/
def tinyOf (neg : Bool) : Approx := .exact (.fin neg 1 (-4000))

/-- A value below an exact one by less than any rounding can tell from it: no boundary between two roundings of a product of
two lanes lies nearer to that product than `2 ^ -60` of it, so that every value so close below rounds as this one does. -/
def justBelow (neg : Bool) (m : Nat) (e : Int) : Approx := .exact (.fin neg (m * (2 ^ 600 - 1)) (e - 600))

/-- A value larger than any that a format holds. -/
def hugeOf (neg : Bool) : Approx := .exact (.fin neg 1 4000)

/-- A finite operand is of magnitude at least `n`. -/
def atLeast (m : Nat) (e : Int) (n : Nat) : Bool := !above n 0 m e

/-- `e ^ a` (R177). -/
def expOf : FV → Approx
  | .nan => .exact .nan
  | .inf neg => .exact (if neg then .fin false 0 0 else .inf false)
  | .fin neg m e =>
    if m = 0 then .exact (.fin false 1 0)
    else if atLeast m e 1000 then if neg then tinyOf false else hugeOf false
    else
      let (s, x) := expFx (signedOf neg (fxOf m e))
      nearOf false s x

/-- `2 ^ a` (R177). -/
def exp2Of : FV → Approx
  | .nan => .exact .nan
  | .inf neg => .exact (if neg then .fin false 0 0 else .inf false)
  | .fin neg m e =>
    if m = 0 then .exact (.fin false 1 0)
    else if atLeast m e 1000 then if neg then tinyOf false else hugeOf false
    else
      let a := signedOf neg (fxOf m e)
      let k := a / (2 ^ fxP : Nat)
      let fr := (a - k * (2 ^ fxP : Nat)).toNat
      if fr = 0 then .exact (.fin false 1 k) else nearOf false (fxExp (fr * fxLn2 / 2 ^ fxP)) (k - fxP)

/-- `1 / (1 + e ^ -a)` for finite nonzero `a`, as significand and exponent (R177). -/
def sigmParts (neg : Bool) (m : Nat) (e : Int) : Nat × Int :=
  let (s, x) := expFx (-(fxOf m e : Int))
  -- E = s * 2 ^ x with x at most -512, E at most 1
  let sh := (-(x + fxP)).toNat
  let den := 2 ^ (fxP + sh) + s
  if neg then (s * 2 ^ (fxP + sh) / den, x) else (2 ^ (2 * fxP + sh) / den, -fxP)

/-- The logistic function (R177). -/
def sigmOf : FV → Approx
  | .nan => .exact .nan
  | .inf neg => .exact (if neg then .fin false 0 0 else .fin false 1 0)
  | .fin neg m e =>
    if m = 0 then .exact (.fin false 1 (-1))
    else if atLeast m e 1000 && neg then tinyOf false
    else if atLeast m e 100 && !neg then justBelow false 1 0
    else let (s, x) := sigmParts neg m e; nearOf false s x

/-- `a / (1 + e ^ -a)` (R177). -/
def siluOf : FV → Approx
  | .nan => .exact .nan
  | .inf neg => .exact (if neg then .fin true 0 0 else .inf false)
  | .fin neg m e =>
    if m = 0 then .exact (.fin neg 0 0)
    else if atLeast m e 1000 && neg then tinyOf true
    else (sigmOf (.fin neg m e)).mul (.fin neg m e)

/-- `tanh a = (1 - E) / (1 + E)` with `E = e ^ -2a` (R177). -/
def tanhOf : FV → Approx
  | .nan => .exact .nan
  | .inf neg => .exact (.fin neg 1 0)
  | .fin neg m e =>
    if m = 0 then .exact (.fin neg 0 0)
    else if atLeast m e 300 then justBelow neg 1 0
    else
      let (s, x) := expFx (-(2 * fxOf m e : Int))
      let sh := (-(x + fxP)).toNat
      let one := 2 ^ (fxP + sh)
      let q := (one - s) * 2 ^ fxP / (one + s)
      .near neg (q - 2 ^ 40) (q + 2 ^ 40) (-fxP)

/-- The sum of `x ^ (2n+1) / (1 * 3 * ... * (2n+1))`, in units of `2 ^ -512`: `n` more terms after `t`. -/
def fxPhiSum (x2 : Nat) : Nat → Nat → Nat → Nat → Nat
  | 0, _, _, acc => acc
  | n + 1, i, t, acc => let t' := t * x2 / 2 ^ fxP / i; fxPhiSum x2 n (i + 2) t' (acc + t')

/-- `phi(x) * sum` for x below 40, in units of `2 ^ -512`: the distance of the distribution function from one half. -/
def fxPhiHalf (x : Nat) : Nat :=
  let x2 := x * x / 2 ^ fxP
  let (s, e) := expFx (-(x2 / 2 : Int))
  let root := Nat.sqrt (2 * fxPi * 2 ^ fxP)
  let sum := fxPhiSum x2 3000 3 x x
  sum * s / 2 ^ (-e).toNat * 2 ^ fxP / root

/-- `a * Phi(a)` (R177). From 16 up Phi is below 1 by less than `2 ^ -190`; from -20 down its product with any lane is
smaller than half the least subnormal. -/
def geluOf : FV → Approx
  | .nan => .exact .nan
  | .inf neg => .exact (if neg then .fin true 0 0 else .inf false)
  | .fin neg m e =>
    if m = 0 then .exact (.fin neg 0 0)
    else if atLeast m e 16 && !neg then justBelow false m e
    else if atLeast m e 20 then tinyOf true
    else
      let h := fxPhiHalf (fxOf m e)
      let p := if neg then 2 ^ (fxP - 1) - h else 2 ^ (fxP - 1) + h
      (Approx.near false (p - 2 ^ 60) (p + 2 ^ 60) (-fxP)).mul (.fin neg m e)

end Sys2Proof.Machine
end

