-- ==== Sys2Proof/Machine/DevTypes.lean ====
section
/-! DEFINITION. The state that lies outside the cores: tasks and the scheduler (R288, R418 to R429), the Version Buffers
(R293), memories and berth granules (R249, R381), partitions (R365 to R367), launch queues (R433), links, governors,
collectives and the start (R441 to R453), as plain data. -/

namespace Sys2Proof.Machine

open Sys2Proof

/-- The states of a task (R288). ABORTED and COMMITTED last no longer than the step that enters them. -/
inductive TaskSt where
  | waiting | reserving | placed | running | parked | done
  deriving DecidableEq, Repr

/-- Where a task comes from (R286): a launch entry of queue `q` with its tag and IRQ bit, a TSPAWN, or node `n` of a
task graph (R308) whose table stands at `tab`, with the instance's generation and base timestamp. -/
inductive Origin where
  | host (q : Nat) (tag : Word) (irq : Bool)
  | spawn
  | node (tab n igen tsbase : Nat)
  deriving DecidableEq, Repr

/-- An entry of a read set (R295): the line by virtual address, the physical line it stood for, whether bytes came from
memory, and the tasks that bytes were forwarded from. -/
structure ReadEnt where
  line  : Nat
  space : Nat
  pline : Nat
  mem   : Bool
  srcs  : List Nat
  deriving DecidableEq, Repr

/-- A binding of a ladder descriptor (R254): its physical address, the core and slot, the mode and the task. -/
structure Bind where
  desc : Nat
  core : Nat
  slot : Nat
  shr  : Bool
  task : Nat
  deriving DecidableEq, Repr

/-- A task (R285 to R288). `prov` says that it was placed speculative: its berths, relinquishes and bindings keep their
provisional treatment until it commits (R256, R292). -/
structure Task where
  /-- Sequence number (R287). -/
  seq      : Nat
  /-- Timestamp (R285). -/
  ts       : Nat
  /-- Partition, which is its commit domain (R285). -/
  part     : Nat
  /-- Sequence number of the parent; 0 for none (R286, R298). -/
  parent   : Nat
  /-- Its level (R364). -/
  level    : Nat
  /-- The launch asked for no speculation (R286). -/
  nspec    : Bool
  /-- Image address (R46). -/
  kimg     : Word
  /-- Argument address (R51). -/
  args     : Word
  /-- Completion word address (R307). -/
  cwa      : Nat
  /-- Where it comes from (R286). -/
  origin   : Origin
  /-- The kernel header as read at its creation (log 59) (R47). -/
  hdr      : BitVec 2048
  /-- WAITING (QUEUED), RESERVING, PLACED, RUNNING, PARKED or DONE (R288). -/
  st       : TaskSt
  /-- It runs speculatively (R289, R97). -/
  spec     : Bool
  /-- It was placed speculative: berths, relinquishes and bindings are provisional (R256, R292). -/
  prov     : Bool
  /-- Cores chosen for its gang, by rank (R425). -/
  target   : List Nat
  /-- Cores reserved (R426). -/
  got      : List Nat
  /-- Cores whose request is under way (R426). -/
  reqs     : List Nat
  /-- The ragged lists by rank (R52, R53). -/
  lists    : Sparse (List Byte)
  /-- The distributor has run (R52). -/
  ragged   : Bool
  /-- Ranks that have left the gang (R80). -/
  left     : List Nat
  /-- The read set (R295). -/
  reads    : List ReadEnt
  /-- Tasks whose bytes it has read (R294, R298). -/
  deps     : List Nat
  /-- Names of its provisional berths (R256). -/
  berths   : List Word
  /-- Names of its provisional shares (R256). -/
  shares   : List Word
  /-- Its deferred relinquishes (R256, R303). -/
  rlqs     : List (Nat × Word)
  /-- The deferred cause it parks with (R301). -/
  parked   : Option FaultRecord
  /-- It has been restarted without speculation (R302, R405). -/
  rst      : Bool
  /-- It was ended with FAULT (R407). -/
  failed   : Bool
  /-- The gang drains after FAULT end (R407). -/
  draining : Bool
  /-- Cores as saved by pre-emption, by rank (log 41) (R412, R413). -/
  saved    : Sparse CoreSt
  /-- Addresses of the save areas, by rank (R412). -/
  areas    : Sparse Nat
  /-- The slot table when it was placed, for CAPR (R455, R456). -/
  caps     : Sparse (BitVec 16)
  /-- When it began to wait (R424). -/
  since    : Nat
  deriving DecidableEq, Repr

/-- A version line (R293): partition, task, line by virtual address, bytes, mask, and the die whose Version Buffer
holds it. -/
structure VLine where
  /-- Partition (R293). -/
  part : Nat
  /-- Task (R293). -/
  task : Nat
  /-- Line by virtual address (R293). -/
  line : Nat
  /-- Bytes (R293). -/
  data : BitVec 512
  /-- Byte mask (R293). -/
  mask : BitVec 64
  /-- The die whose Version Buffer holds it (R293). -/
  die  : Nat
  /-- ECC has lost it (R417). -/
  bad  : Bool
  deriving DecidableEq, Repr

/-- The berth map's record of a physical granule (R249): generation and share count. -/
structure Gran where
  gen   : Nat
  share : Nat
  deriving DecidableEq, Repr

/-- A segment of a scheduler queue (R421): its queue, its physical address and the entries that hold a task. -/
structure Seg where
  q    : Nat
  pa   : Nat
  used : List Nat
  deriving DecidableEq, Repr

/-- A creation that waits for a queue segment (R422): the task, and the TSPAWN or TGRAPH that asked for it. -/
structure Creation where
  task : Task
  core : Nat
  ctx  : Ctx
  id   : Nat
  deriving DecidableEq, Repr

/-- The instance of a task graph that was replayed last on a node table (R308, R311): partition and table, generation and base
timestamp, and the task that issued TGRAPH with its level. -/
structure Instance where
  part   : Nat
  tab    : Nat
  igen   : Nat
  tsbase : Nat
  parent : Nat
  level  : Nat
  deriving DecidableEq, Repr

/-- What is still to be done for a node task that has reached DONE (R310): the task, its instance, the node whose RGEN is to be
tested, the successors still to be counted down, and the node, with its instance, whose task is to be created. -/
structure Release where
  task  : Nat
  inst  : Instance
  test  : Option Nat
  succs : List Nat
  make  : Option (Nat × Instance)
  deriving DecidableEq, Repr

/-- One partition: its registers by PARTW selector (R366, R367, R382, R406, R442), the special registers of R366 and
R429, and counters of the scheduler and the ladder engines. -/
structure Part where
  /-- The registers by PARTW selector 0 to 31: CORES, BERTHVA, WSVA, page table root, fault log,
  collective buffer, QTAB, BPOOL, WSMAP (R366, R367, R382, R406, R442, R316). -/
  regs      : Sparse Word
  /-- SPECDEPTH (R366, R291). -/
  specdepth : Word
  /-- VBQUOTA (R366, R297). -/
  vbquota   : Word
  /-- REDDL (R366, R445). -/
  reddl     : Word
  /-- PTBASE (R366, R317). -/
  ptbase    : Word
  /-- TQSPARE: the head of the spare chain (R422, R429). -/
  tqhead    : Word
  /-- TQFULL has been raised and not answered (R422, R429). -/
  tqfull    : Bool
  /-- SCHCTL.HOLD (R429). -/
  hold      : Bool
  /-- SCHCTL.PRE (R429). -/
  pre       : Bool
  /-- The fault log's producer count (R406). -/
  flogp     : BitVec 32
  /-- Lineages given out (R260). -/
  lineage   : Nat
  /-- Creations that wait for a queue segment (R422). -/
  waiting   : List Creation
  /-- The scheduler queues' segments (R421). -/
  segs      : List Seg
  /-- The latest committed timestamp (R286, R289). -/
  lastTs    : Nat
  deriving DecidableEq, Repr

/-- A launch-queue block (R433), its words as the host reads them, and the fetch in progress (R435). -/
structure LaunchQ where
  /-- EBASE (R433). -/
  ebase : Word
  /-- CBASE (R433). -/
  cbase : Word
  /-- The control word (R433). -/
  ctl   : Word
  /-- KTAIL (R433). -/
  ktail : BitVec 32
  /-- LHEAD (R433). -/
  lhead : BitVec 32
  /-- CHEAD (R433). -/
  chead : BitVec 32
  /-- CTAIL (R433). -/
  ctail : BitVec 32
  /-- Index of the entry being fetched (R435). -/
  kidx  : BitVec 32
  /-- STATE (R433). -/
  state : Nat
  /-- Reads of the entry under way that found the wrong phase (R435). -/
  tries : Nat
  deriving DecidableEq, Repr

/-- A start (R448, R449): the fields of BOOTSTAT (R450) and the kind and stage of the attempt under way. -/
structure Boot where
  /-- SAFE (R450). -/
  safe    : Bool
  /-- READY (R450). -/
  ready   : Bool
  /-- ATTEMPT (R450). -/
  attempt : Nat
  /-- The attempt is a warm start (R449). -/
  warm    : Bool
  /-- FSTAGE (R450). -/
  fstage  : Nat
  /-- FCODE (R450). -/
  fcode   : Nat
  /-- The running stage (R448, R450). -/
  stage   : Nat
  /-- The capability list has been built (R448, R455). -/
  listed  : Bool
  /-- Bytes of second-tier memory that stage 7 has found (R448, R456). -/
  tier    : Nat
  /-- The trained-value record that the Icarn controller holds (R447). -/
  trained : Option Trained
  deriving DecidableEq, Repr

/-- A page of a berth window that a mover has moved, and where its bytes stand (R361, R395, R396). -/
structure MovedPage where
  part : Nat
  page : Nat
  loc  : Loc
  deriving DecidableEq, Repr

/-- A write of a partition register by the monitor firmware that waits for the partition to empty (R379). -/
structure PortPart where
  part  : Nat
  sel   : Nat
  value : Word
  deriving DecidableEq, Repr

/-- The migration mailbox (R439): its fields, and the page, direction and partition of the request that GO has submitted. -/
structure Mailbox where
  /-- MVA (R439). -/
  mva   : Word
  /-- DIR and MPART (R439). -/
  ctl   : Word
  /-- RES (R439). -/
  res   : Nat
  /-- MVA of the request (R439). -/
  rva   : Word
  /-- DIR and MPART of the request (R439). -/
  rctl  : Word
  deriving DecidableEq, Repr

/-- A page inside a hold window (R398), by its number; `device` says which side the window keeps the page for, `since` when
it began. -/
structure HoldWin where
  part   : Nat
  page   : Nat
  device : Bool
  since  : Nat
  deriving DecidableEq, Repr

/-- A Preherax link's status word (R441). -/
structure Link where
  peer  : Nat
  retry : Nat
  state : Nat
  deriving DecidableEq, Repr

/-- A request to an island governor (R452): a core's LEAVE for `n` operations of a kind, or one operation's own. -/
structure LeaveReq where
  core : Nat
  kind : Nat
  n    : Nat
  op   : Option Nat
  deriving DecidableEq, Repr

/-- A contribution to a collective (R445): rank, data, and the issuing core, context and command when it is local. -/
structure Contrib where
  rank : Nat
  data : List Byte
  core : Nat
  ctx  : Ctx
  id   : Nat
  loc  : Bool
  deriving DecidableEq, Repr

/-- A slot-table write that waits for its frame boundary (R374): slot and entry, and the SLOTW that made it; `core` is
384 for a write through a landing processor's register port. -/
structure SlotNew where
  slot  : Nat
  entry : BitVec 16
  core  : Nat
  ctx   : Ctx
  wid   : Nat
  deriving DecidableEq, Repr

/-- A collective under way at its reduction point (R443 to R445): `since` is when its first contribution came; `state` 0
is open, 1 failed because its members disagree, 2 timed out; `limit` is REDDL in core cycles, as its first contributor issued it
(R368). -/
structure Coll where
  part  : Nat
  group : Nat
  cnum  : Nat
  sub   : Nat
  len   : Nat
  op    : Nat
  root  : Nat
  n     : Nat
  got   : List Contrib
  since : Nat
  state : Nat
  limit : Nat
  deriving DecidableEq, Repr

/-- An update of a replicated page in the sequencer's order (R353): its place by the first replica, its bytes, the dies whose
replica has not applied it, its writer, and the partition and address through which it was translated; partition 16 marks a
writer outside every partition. -/
structure RepUpd where
  addr  : Nat
  data  : List Byte
  dies  : List Nat
  core  : Nat
  ctx   : Ctx
  wid   : Nat
  part  : Nat
  va    : Nat
  deriving DecidableEq, Repr

end Sys2Proof.Machine
end

