-- ==== Sys2Proof/Machine/State.lean ====
section
/-! DEFINITION. The state of the device: everything the spec gives the machine, as plain data. -/

namespace Sys2Proof.Machine

open Sys2Proof

/-- Why the machine stops. -/
inductive Fault where
  /-- An event names a core above 383, which the device does not have (R11). Raised by the event rows that name a core.
  Safe: the device has no such event. -/
  | noSuchCore
  deriving DecidableEq, Repr

/-- Why a step has no meaning. -/
inductive Refusal where
  /-- The instruction has no meaning yet. Raised by `exec`. Safe. -/
  | notModelled (mnemonic : String)
  deriving DecidableEq, Repr

/-- The device. -/
structure State where
  /-- Which turn comes next. -/
  turn     : Turn
  /-- The context that an issue turn serves. -/
  who      : Who
  /-- Count of steps: the argument of every free value. -/
  ticks    : Nat
  /-- Core cycles since reset (R96, R398). -/
  now      : Nat
  /-- The 384 cores by number; an unlisted core is at CoreSt.reset (R11, R12). -/
  cores    : Sparse CoreSt
  /-- HBM by device physical address (R16, R381). -/
  hbm      : Memory
  /-- Host memory by host address (R384, R438). -/
  host     : Memory
  /-- Pooled memory of the second tier (R384, R440). -/
  tier     : Memory
  /-- Weight Store by die × 2^30 + offset (R14, R370). -/
  ws       : Memory
  /-- Memory bytes that ECC cannot correct, by space and 64-byte line (R416, R417). -/
  bad      : Sparse Nat
  /-- Partitions whose queue segments hold bytes that the end-to-end check will find (R421). -/
  tampered : List Nat
  /-- Errors that ECC has corrected, counted for the monitor (R416). -/
  corrected : Nat
  /-- The berth map by physical granule (R247, R249). -/
  grans    : Sparse Gran
  /-- The second-level TLB of each die (R388). -/
  tlb2     : Sparse (List TlbEntry)
  /-- The pointers and directory entries that each die's walker keeps (R388). -/
  walks    : Sparse (List WalkEntry)
  /-- Pages of berth windows that a mover has moved, and where they stand (R361, R387, R395, R396). -/
  moved    : List MovedPage
  /-- The 16 partitions by number (R418). -/
  parts    : Sparse Part
  /-- The tasks that have not been removed, by sequence number (R285, R288). -/
  tasks    : Sparse Task
  /-- The next sequence number (R287). -/
  nextSeq  : Nat
  /-- The last instance of each task graph (R308, R311). -/
  graphs   : List Instance
  /-- Releases by node tasks that are under way, oldest first (R310). -/
  releases : List Release
  /-- The device-wide count has been found at 2,048, and no place has become free since (R424). -/
  crowded  : Bool
  /-- Free places that became free at that count and have not been given (R424). -/
  freed    : Nat
  /-- Writes of partition registers through the register port that wait for a partition to empty, oldest first (R379). -/
  portParts : List PortPart
  /-- The Version Buffers' lines (R293, R14). -/
  vlines   : List VLine
  /-- Bindings of ladder descriptors over the whole device (R254). -/
  binds    : List Bind
  /-- The slot table by slot, as the sequencer applies it (R366, R367, R374). -/
  slotTab  : Sparse (BitVec 16)
  /-- SLOTW writes that wait for a frame boundary (R374). -/
  slotNew  : List SlotNew
  /-- Island limits that ISLW has written; an unlisted island reads its record (R366, R367, R380). -/
  isl      : Sparse Word
  /-- Each island governor's requests, oldest first (R451, R452). -/
  gov      : Sparse (List LeaveReq)
  /-- Islands that are power-gated (R400). -/
  gated    : List Nat
  /-- The Preherax links' status words (R441). -/
  links    : Sparse Link
  /-- Host ports that are up (R390). -/
  ports    : List Nat
  /-- The launch-queue blocks (R433). -/
  queues   : Sparse LaunchQ
  /-- BOOTSTAT and the start under way (R450). -/
  boot     : Boot
  /-- The migration mailbox (R439). -/
  mbox     : Mailbox
  /-- Pages inside a hold window (R398). -/
  holds    : List HoldWin
  /-- Pages whose migration the device has asked for: partition and page (R393, R398). -/
  devMig   : List (Nat × Nat)
  /-- Collectives under way at their reduction points (R445). -/
  colls    : List Coll
  /-- Updates of replicated pages in the sequencer's order that some die has not applied (R353). -/
  seqLog   : List RepUpd
  /-- Bank sets whose refresh window is open (R14, R97). -/
  refresh  : Sparse Nat
  /-- When a bank set's next refresh window begins, where one has begun before (R14, R97). -/
  windows  : Sparse Nat
  /-- MSI-X interrupts raised: vector and port (R378, R433, R437). -/
  msix     : List (Nat × Nat)
  /-- Interrupts raised at landing processors: die and code (R378, R422, R406). -/
  lpInts   : List (Nat × Nat)
  deriving DecidableEq, Repr

/-- The state of a context before any task starts it: registers and counters zero (assumption 1). -/
def CtxSt.reset : CtxSt :=
  { regs := [], pc := 0, run := .idle, ended := false, level := 0, wbase := 0, wwords := 0, exposed := false, slack := 0, nonStop := 0,
    spaceovr := 0, sflags := 0, newFlags := 0, loops := [], icycle := 0, pair := none, flights := [], sigs := [], pend := [],
    blocked := false, forced := false, attached := [], accq := [], accHalt := none, marks := [], marked := [],
    engq := [], fifoP := 0, fifoN := 0, cqP := [], cqN := [], frame := none }

/-- A core before any task starts on it. -/
def CoreSt.reset : CoreSt :=
  { status := .free, task := 0, rank := 0, cL := .reset, cX := .reset, cS := .reset, tks := [], qs := [], tiles := [],
    ex := [], fq := [], claimed := 0, fqOut := 0, emode := .rne, sc := [], ct := [], nests := [], rings := [], mqs := [],
    slots := [], batch := none, qmask := 0, lsup := 0, sp := [], spBad := [], posted := [], matq := [], matHold := false, ladq := [],
    ferry := [], genq := [], nextId := 0, cycle := 0, tlb := [], halted := false, haltReq := false, haltBy := [],
    preReq := false, starved := [], still := 0, msgs := [], keptT := 0, keptF := 0, keptL := 0, det := false, extrap := false, nest := [],
    hfl := 0, hfx := 0, hfs := 0, htap := 0, args := 0, landed := false, patches := [] }

/-- A partition at reset: its registers 0, SPECDEPTH 1, VBQUOTA 4,096, REDDL 500 (R366, R367). -/
def Part.reset : Part :=
  { regs := [], specdepth := 1, vbquota := 4096, reddl := 500, ptbase := 0, tqhead := 0, tqfull := false,
    hold := false, pre := false, flogp := 0, lineage := 0, waiting := [], segs := [], lastTs := 0 }

/-- A launch queue at reset: STATE IDLE, every field 0 (R433). -/
def LaunchQ.reset : LaunchQ :=
  { ebase := 0, cbase := 0, ctl := 0, ktail := 0, lhead := 0, chead := 0, ctail := 0, kidx := 0, state := 0, tries := 0 }

/-- BOOTSTAT at reset: every field 0 (R450). -/
def Boot.reset : Boot :=
  { safe := false, ready := false, attempt := 0, warm := false, fstage := 0, fcode := 0, stage := 0, listed := false, tier := 0, trained := none }

/-- A link at reset: down (R441). -/
def Link.reset : Link := { peer := 0, retry := 0, state := 0 }

/-- The device right after reset, before any start has run (R449): nothing is ready, every core is free, every memory
is empty. The choice of the first turn is the model's (assumption 9). -/
def State.reset : State :=
  { turn := .issue, who := ⟨0, .L⟩, ticks := 0, now := 0, cores := [], hbm := [], host := [], tier := [], ws := [],
    bad := [], grans := [], tlb2 := [], walks := [], moved := [], corrected := 0, tampered := [], parts := [], tasks := [], nextSeq := 1, graphs := [], releases := [], crowded := false, freed := 0, portParts := [], vlines := [], binds := [],
    slotTab := [], slotNew := [], isl := [], gov := [], gated := [], links := [], ports := [0, 1], queues := [],
    boot := .reset, mbox := ⟨0, 0, 7, 0, 0⟩, holds := [], devMig := [], colls := [], seqLog := [], refresh := [], windows := [],
    msix := [], lpInts := [] }

end Sys2Proof.Machine
end

