-- ==== Sys2Proof/Machine/Ops.lean ====
section
/-! DEFINITION. The named operations over the state: cores, contexts and registers; tasks, their order and the
frontier (R285, R289); outside writes and aborts (R295 to R299); the fault log (R406); taking a cause (R401 to R408)
and returning from one (R409). -/

namespace Sys2Proof.Machine

open Sys2Proof

/-! ### Cores, contexts and registers -/

/-- Core `k`. -/
def State.core (s : State) (k : Nat) : CoreSt := Sparse.get .reset s.cores k

/-- Replace core `k`. -/
def State.setCore (s : State) (k : Nat) (c : CoreSt) : State := { s with cores := Sparse.put s.cores k c }

/-- Change core `k`. -/
def State.updCore (s : State) (k : Nat) (f : CoreSt → CoreSt) : State := s.setCore k (f (s.core k))

/-- A context of a core. -/
def CoreSt.ctx (c : CoreSt) : Ctx → CtxSt
  | .L => c.cL
  | .X => c.cX
  | .S => c.cS

/-- Replace a context of a core. -/
def CoreSt.setCtx (c : CoreSt) (x : Ctx) (v : CtxSt) : CoreSt :=
  match x with
  | .L => { c with cL := v }
  | .X => { c with cX := v }
  | .S => { c with cS := v }

/-- Change a context of a core. -/
def CoreSt.updCtx (c : CoreSt) (x : Ctx) (f : CtxSt → CtxSt) : CoreSt := c.setCtx x (f (c.ctx x))

/-- A context of core `k`. -/
def State.ctxOf (s : State) (k : Nat) (x : Ctx) : CtxSt := (s.core k).ctx x

/-- Change a context of core `k`. -/
def State.updCtx (s : State) (k : Nat) (x : Ctx) (f : CtxSt → CtxSt) : State := s.updCore k fun c => c.updCtx x f

/-- The number of the issuing core. -/
def State.k (s : State) : Nat := s.who.core.val

/-- The issuing core. -/
def State.cur (s : State) : CoreSt := s.core s.k

/-- The issuing context. -/
def State.me (s : State) : CtxSt := s.cur.ctx s.who.ctx

/-- Change the issuing core. -/
def State.updCur (s : State) (f : CoreSt → CoreSt) : State := s.updCore s.k f

/-- Change the issuing context. -/
def State.updMe (s : State) (f : CtxSt → CtxSt) : State := s.updCtx s.k s.who.ctx f

/-- Reading x0 gives 0 (R90). -/
def CtxSt.reg (c : CtxSt) (x : Reg) : Word := if x = 0 then 0 else Sparse.get 0 c.regs x.toNat

/-- A write to x0 is discarded (R90). -/
def CtxSt.setReg (c : CtxSt) (x : Reg) (v : Word) : CtxSt :=
  if x = 0 then c else { c with regs := Sparse.set 0 c.regs x.toNat v }

/-- A register of the issuing context. -/
def State.reg (s : State) (x : Reg) : Word := s.me.reg x

/-- The number under which the sequencer reads memory where no core does; it lies on D1 (R15, R419). -/
abbrev sequencer : Nat := 384

/-- The die of a core (R11). -/
def dieOf (k : Nat) : Nat := if k < 384 then k / 64 else 1

/-- The quadrant of a core, 0 to 23 over the device (R11). -/
def quadOf (k : Nat) : Nat := k / 16

/-- A free value for a place in this step. -/
def State.freeVal (s : State) (place : Nat) : Nat := Config.free s.ticks place

/-- A token counter (R67). -/
def CoreSt.tk (c : CoreSt) (n : Nat) : Tk := Sparse.get ⟨0, false⟩ c.tks n

/-- Write a token counter. -/
def CoreSt.setTk (c : CoreSt) (n : Nat) (t : Tk) : CoreSt :=
  { c with tks := Sparse.set ⟨0, false⟩ c.tks n t, starved := [] }

/-- Start and length in bytes of a context's stream window (R47, R57). -/
def CtxSt.window (c : CtxSt) : Nat × Nat := (c.wbase, 8 * c.wwords)

/-- A range of the core's scratchpad meets one of its stream windows (R58). -/
def CoreSt.meetsWindow (c : CoreSt) (off n : Nat) : Bool :=
  meets off n c.cL.wbase (8 * c.cL.wwords) || meets off n c.cX.wbase (8 * c.cX.wwords) ||
    meets off n c.cS.wbase (8 * c.cS.wwords)

/-- The size of a scratchpad (R12). -/
abbrev spSize : Nat := 0x400000

/-- SPBASE (R221). -/
abbrev spBase : Nat := 0xFFF0000000000000

/-- A word index reduced modulo the window (R57). -/
def CtxSt.wrap (c : CtxSt) (i : Int) : Nat := (i % (c.wwords : Int)).toNat

/-- The word at the PC of the issuing context (R57). -/
def State.wordAtPc (s : State) : Word :=
  BitVec.ofNat 64 (bytesToNat (s.cur.sp.bytes (s.me.wbase + 8 * s.me.pc) 8))

/-! ### Partitions and tasks -/

/-- Partition `p`. -/
def State.part (s : State) (p : Nat) : Part := Sparse.get .reset s.parts p

/-- Change partition `p`. -/
def State.updPart (s : State) (p : Nat) (f : Part → Part) : State :=
  { s with parts := Sparse.put s.parts p (f (s.part p)) }

/-- A partition register by PARTW selector. -/
def Part.reg (p : Part) (sel : Nat) : Word := Sparse.get 0 p.regs sel

/-- The task with sequence number `q`. -/
def State.task? (s : State) (q : Nat) : Option Task := Sparse.find s.tasks q

/-- Replace a task. -/
def State.setTask (s : State) (t : Task) : State := { s with tasks := Sparse.put s.tasks t.seq t }

/-- Change the task with sequence number `q`, if there is one. -/
def State.updTask (s : State) (q : Nat) (f : Task → Task) : State :=
  match s.task? q with
  | some t => s.setTask (f t)
  | none => s

/-- The task that a core works for. -/
def State.taskOf (s : State) (k : Nat) : Option Task := s.task? (s.core k).task

/-- The partition of a core's task; 0 when it has none. -/
def State.partOf (s : State) (k : Nat) : Nat :=
  match s.taskOf k with
  | some t => t.part
  | none => 0

/-- One task is earlier than another (R285). -/
def Task.before (a b : Task) : Bool := decide (a.ts < b.ts) || (a.ts == b.ts && decide (a.seq < b.seq))

/-- All tasks. -/
def State.allTasks (s : State) : List Task := s.tasks.map Prod.snd

/-- The tasks of a partition, which is a commit domain (R418). -/
def State.domain (s : State) (p : Nat) : List Task := s.allTasks.filter fun t => t.part == p

/-- The earlier of two tasks. -/
def Task.least (a b : Task) : Task := if b.before a then b else a

/-- The earliest of a list of tasks. -/
def earliest : List Task → Option Task
  | [] => none
  | t :: r =>
    match earliest r with
    | some u => some (Task.least t u)
    | none => some t

/-- The frontier task of a domain (R289). -/
def State.front (s : State) (p : Nat) : Option Task := earliest (s.domain p)

/-- The task is the frontier of its domain (R289). -/
def State.isFront (s : State) (t : Task) : Bool :=
  match s.front t.part with
  | some f => f.seq == t.seq
  | none => false

/-- The task of core `k` runs speculatively (TASKF.SPEC, R97). -/
def State.isSpec (s : State) (k : Nat) : Bool :=
  match s.taskOf k with
  | some t => t.spec
  | none => false

/-- The cores that work for a task, in ascending number. -/
def State.coresOf (s : State) (q : Nat) : List Nat := (s.cores.filter fun e => e.2.task == q && q != 0).map Prod.fst

/-- A core that no task holds: cleared, but for its TLB and what HALT has asked of it (R80, R299, R376). -/
def CoreSt.cleared (c : CoreSt) : CoreSt :=
  { CoreSt.reset with tlb := c.tlb, halted := c.halted, haltReq := c.haltReq, haltBy := c.haltBy }

/-- Apply a change to each core of a list. -/
def State.forCores (s : State) (ks : List Nat) (f : CoreSt → CoreSt) : State :=
  ks.foldl (fun s k => s.updCore k f) s

/-- Stop a context for good or for a while: it issues no word. -/
def CtxSt.stop (c : CtxSt) (r : RunSt) : CtxSt :=
  match c.run with
  | .idle => c
  | .exited => c
  | _ => { c with run := r }

/-- Stop every context of a core. -/
def CoreSt.stopAll (c : CoreSt) (r : RunSt) : CoreSt :=
  { c with cL := c.cL.stop r, cX := c.cX.stop r, cS := c.cS.stop r }

/-! ### Berth granules (R247 to R253) -/

/-- The record of a physical granule: stack and 4 KiB index within the stack. -/
def State.gran (s : State) (stack g : Nat) : Gran := Sparse.get ⟨0, 0⟩ s.grans (stack * 2 ^ 25 + g)

/-- Write the record of a granule. -/
def State.setGran (s : State) (stack g : Nat) (v : Gran) : State :=
  { s with grans := Sparse.set ⟨0, 0⟩ s.grans (stack * 2 ^ 25 + g) v }

/-- The fields of a berth name (R247). -/
structure Berth where
  gen   : Nat
  stack : Nat
  gran  : Nat
  count : Nat
  part  : Nat
  deriving DecidableEq, Repr

/-- Read a name; `none` when a reserved bit is set. -/
def berthOf (w : Word) : Option Berth :=
  if field w 48 5 = 0 then
    some ⟨field w 56 8, field w 53 3, field w 24 24, field w 8 16 + 1, field w 0 8⟩
  else none

/-- The physical granules of a run of a partition's pool: FIRST + GRAN + i (R381). -/
def State.granule (s : State) (b : Berth) (i : Nat) : Nat :=
  field ((s.part b.part).reg (16 + b.stack)) 24 24 + b.gran + i

/-- The checks of a word that takes a name (R248). A granule at or above the pool's COUNT, which no pool granule is, counts as one
that the berth map holds free (assumption 86). DESIGN CHOICE -/
def State.checkBerth (s : State) (p : Nat) (w : Word) : Except Trap Berth :=
  match berthOf w with
  | none => .error { cause := .prot, addr := w }
  | some b =>
    if b.part ≠ p then .error { cause := .prot, addr := w }
    else if (List.range b.count).all (fun i =>
        let g := s.gran b.stack (s.granule b i)
        decide (g.share ≠ 0) && g.gen == b.gen &&
          decide (b.gran + i < field ((s.part p).reg (16 + b.stack)) 0 24)) then .ok b
    else .error { cause := .staleb, addr := w }

/-- Change the share count of every granule of a run. -/
def State.shareRun (s : State) (b : Berth) (f : Nat → Nat) : State :=
  (List.range b.count).foldl (fun s i =>
    let g := s.gran b.stack (s.granule b i)
    s.setGran b.stack (s.granule b i) { g with share := f g.share }) s

/-- Increment the share count of a named run (R253). -/
def State.shareName (s : State) (w : Word) : State :=
  match berthOf w with
  | some b => s.shareRun b (· + 1)
  | none => s

/-- Decrement the share count of a named run; a granule at 0 is free (R253). -/
def State.relinquish (s : State) (w : Word) : State :=
  match berthOf w with
  | some b => s.shareRun b (· - 1)
  | none => s

/-- Free every granule of a named run (R299). -/
def State.freeName (s : State) (w : Word) : State :=
  match berthOf w with
  | some b => s.shareRun b fun _ => 0
  | none => s

/-! ### The memories -/

/-- The 64-byte lines that a range of bytes meets. -/
def linesOf (a n : Nat) : List Nat := if n = 0 then [] else (List.range ((a + n - 1) / 64 - a / 64 + 1)).map (a / 64 + ·)

/-- The lines that a write of `n` bytes covers whole. -/
def wholeLines (a n : Nat) : List Nat := (linesOf a n).filter fun l => decide (a ≤ 64 * l) && decide (64 * l + 64 ≤ a + n)

/-- Put bytes into one of the memories: 0 HBM, 1 host, 2 second tier, 3 Weight Store. A write of a whole line mends it
if ECC had lost it. -/
def State.putBytes (s : State) (space a : Nat) (bs : List Byte) : State :=
  let bad := (wholeLines a bs.length).foldl (fun m l => Sparse.erase m (space * 2 ^ 60 + l)) s.bad
  match space with
  | 0 => { s with hbm := s.hbm.setBytes a bs, bad := bad }
  | 1 => { s with host := s.host.setBytes a bs, bad := bad }
  | 2 => { s with tier := s.tier.setBytes a bs, bad := bad }
  | _ => { s with ws := s.ws.setBytes a bs, bad := bad }

/-- Partitions that have a scheduler segment in use where a range of HBM lies (R421). -/
def State.segmentsHit (s : State) (a n : Nat) : List Nat :=
  (s.parts.filter fun (e : Nat × Part) => e.2.segs.any fun g => meets g.pa 65536 a n).map Prod.fst

/-- A write by an agent to one of the memories: 0 HBM, 1 host, 2 second tier, 3 Weight Store. A store into a segment in use
leaves the scheduler's queue with bytes that its end-to-end check finds (R421). -/
def State.poke (s : State) (space a : Nat) (bs : List Byte) : State :=
  let hit := if space = 0 then s.segmentsHit a bs.length else []
  let s := s.putBytes space a bs
  if hit.isEmpty then s else { s with tampered := (s.tampered ++ hit).eraseDups }

/-- Read bytes of one of the memories. -/
def State.peek (s : State) (space a n : Nat) : List Byte :=
  match space with
  | 0 => s.hbm.bytes a n
  | 1 => s.host.bytes a n
  | 2 => s.tier.bytes a n
  | _ => s.ws.bytes a n

/-! ### The scheduler's queue segments (R421, R422) -/

/-- The scheduler writes a word of a segment header. Segments are supervisor-only and the scheduler's own, so that the write is in
no task's read set (assumption 26). -/
def State.segWord (s : State) (pa v : Nat) : State := s.putBytes 0 pa (leBytes 8 v)

/-- A pointer of the chain to a segment. -/
def segLink (pa : Nat) (v : Bool) : Nat := if v then pa + 1 else 0

/-- Segments of a queue. -/
def Part.segsOf (p : Part) (q : Nat) : List Seg := p.segs.filter fun g => g.q == q

/-- Write NEXT, NV and USED of every segment of a queue. -/
def State.writeChain (s : State) : List Seg → State
  | [] => s
  | g :: r =>
    let s := s.segWord g.pa (match r with | h :: _ => segLink h.pa true | [] => 0)
    (s.segWord (g.pa + 8) g.used.length).writeChain r

/-- TQSPARE.V and HEAD. -/
def Part.spare (p : Part) : Option Nat := if bitOf p.tqhead 0 then some (field p.tqhead 16 30 * 2 ^ 16) else none

/-- TQSPARE for a head: HEAD and V. -/
def spareWord (head : Nat) (v : Bool) : Word := w64 (head / 2 ^ 16 % 2 ^ 30 * 2 ^ 16 + b2n v)

/-- A segment that its queue has emptied is pushed onto the head of the spare chain, unless it is the queue's only one (R422). -/
def State.reclaim (s : State) (p : Nat) (g : Seg) : State :=
  if !g.used.isEmpty || ((s.part p).segsOf g.q).length ≤ 1 then s
  else
    let next := (s.part p).spare
    let s := s.updPart p fun v => { v with segs := delFirst (fun x => x.pa == g.pa) v.segs, tqhead := spareWord g.pa true }
    let s := (s.segWord g.pa (segLink (next.getD 0) next.isSome)).segWord (g.pa + 8) 0
    s.writeChain ((s.part p).segsOf g.q)

/-- The queue loses its entry for a task: USED counts it no longer, and a segment that this empties goes to the spare chain
(R421, R422). -/
def State.dropEntry (s : State) (p q : Nat) : State :=
  match (s.part p).segs.find? fun g => g.used.contains q with
  | none => s
  | some g =>
    let g' := { g with used := g.used.filter (· != q) }
    let s := s.updPart p fun v => { v with segs := updFirst (fun x => x.pa == g.pa) (fun _ => g') v.segs }
    (s.segWord (g.pa + 8) g'.used.length).reclaim p g'

/-! ### Aborts (R298, R299) -/

/-- The tasks that an abort of the listed tasks reaches in one step: dependants and children. -/
def cascadeOnce (ts : List Task) (a : List Nat) : List Nat :=
  a ++ ((ts.filter fun t => !a.contains t.seq && (t.deps.any a.contains || a.contains t.parent)).map (·.seq))

/-- The cascade of an abort (R298); `fuel` bounds the number of steps by the number of tasks. -/
def cascade (ts : List Task) : Nat → List Nat → List Nat
  | 0, a => a
  | fuel + 1, a => cascade ts fuel (cascadeOnce ts a)

/-- Discard the effects of a task (R299): version lines, cores, provisional berths, share increments, deferred
relinquishes, bindings. Its cores are released, which ends a pre-emption that PRE asked for (R429). What R299 lists as standing
stays. -/
def State.discard (s : State) (t : Task) : State :=
  let s := { s with
    vlines := s.vlines.filter fun (v : VLine) => v.task != t.seq
    binds := s.binds.filter fun (b : Bind) => b.task != t.seq
    gov := s.gov.map fun (e : Nat × List LeaveReq) => (e.1, e.2.filter fun (r : LeaveReq) => !(s.coresOf t.seq).contains r.core) }
  let s := t.berths.foldl (fun s w => s.freeName w) s
  let s := t.shares.foldl (fun s w => s.relinquish w) s
  let s := if s.isFront t then s.updPart t.part fun p => { p with pre := false } else s
  s.forCores (s.coresOf t.seq) CoreSt.cleared

/-- A task back in the state it was created in: WAITING, or gone (R288). -/
def State.requeue (s : State) (t : Task) (remove : Bool) : State :=
  if remove then
    { s.dropEntry t.part t.seq with tasks := Sparse.erase s.tasks t.seq }
  else
    s.setTask { t with
      st := .waiting, spec := false, prov := false, target := [], got := [], reqs := [], lists := [], ragged := false, left := [],
      reads := [], deps := [], berths := [], shares := [], rlqs := [], parked := none,
      rst := false, draining := false, since := s.now }

/-- Abort one task of a cascade: one whose parent is aborted with it is removed, every other one is requeued; a task that
was only waiting and whose parent stands is untouched. -/
def State.abortOne (s : State) (a : List Nat) (q : Nat) : State :=
  match s.task? q with
  | none => s
  | some t => (s.discard t).requeue t (a.contains t.parent)

/-- Abort a task and its cascade (R298, R299). -/
def State.abort (s : State) (q : Nat) : State :=
  let a := cascade s.allTasks s.tasks.length [q]
  let s := a.foldl (fun s i => s.abortOne a i) s
  { s with parts := s.parts.map fun (e : Nat × Part) =>
      (e.1, { e.2 with waiting := e.2.waiting.filter fun (w : Creation) => !a.contains w.task.parent }) }

/-- Abort each task of a list that is still there and still running. -/
def State.abortAll (s : State) (qs : List Nat) : State := qs.foldl (fun s q => s.abort q) s

/-- A task can hold a read set: a core of it may have started, and it has not committed. -/
def Task.started (t : Task) : Bool := t.st == .placed || t.st == .running || t.st == .parked || t.st == .done

/-- The read of a line qualifies against a writer `a` (R295): some byte came from memory or from a task earlier
than `a`. One that came from `a`'s own line qualifies too: R295 lets the device abort more tasks than it names, and without this
abort the reader would commit a value that the serial run does not give (R304). DEDUCED -/
def State.readQualifies (s : State) (a : Task) (r : ReadEnt) : Bool :=
  r.mem || r.srcs.any fun q =>
    q == a.seq ||
      match s.task? q with
      | some u => u.before a
      | none => true

/-- The tasks that a write of line `line` by task `a` aborts (R295). A signature may match falsely. -/
def State.conflicts (s : State) (a : Task) (line : Nat) : List Nat :=
  ((s.domain a.part).filter fun b =>
    a.before b && b.started && !s.isFront b &&
      (b.reads.any (fun r => r.line == line && s.readQualifies a r) || Config.falseMatch s.ticks b.seq line)).map
    (·.seq)

/-- The uncommitted tasks among those that `who` selects which have a physical line in their read set, the frontiers apart (R296). A
signature may match falsely for the tasks that `loose` selects. -/
def State.lineReaders (s : State) (who loose : Task → Bool) (space pline : Nat) : List Nat :=
  (s.allTasks.filter fun b =>
    who b && b.started && !s.isFront b &&
      (b.reads.any (fun r => r.space == space && r.pline == pline) ||
        (loose b && Config.falseMatch s.ticks b.seq pline))).map (·.seq)

/-- The tasks of the partitions other than `p` that a write of a physical line aborts (R296). A write by a task never aborts a task of
another partition that has not read the line, so no signature matches falsely there (R418). -/
def State.outsideConflicts (s : State) (p : Option Nat) (space pline : Nat) : List Nat :=
  s.lineReaders (fun b => some b.part != p) (fun _ => p.isNone) space pline

/-- ECC has lost a line that the range meets (R417). -/
def State.lost (s : State) (space a n : Nat) : Bool :=
  (linesOf a n).any fun l => (Sparse.find s.bad (space * 2 ^ 60 + l)).isSome

/-- A write to device memory by an agent outside every domain's uncommitted tasks (R296). -/
def State.outsideWrite (s : State) (space a : Nat) (bs : List Byte) : State :=
  let hit := (linesOf a bs.length).flatMap fun l => s.outsideConflicts none space l
  (s.poke space a bs).abortAll hit

/-- A write to device memory by an agent outside the uncommitted tasks that works for partition `p`: its scheduler, its fault log, its
landing processors (R296, R406, R418). -/
def State.partWrite (s : State) (p space a : Nat) (bs : List Byte) : State :=
  let hit := (linesOf a bs.length).flatMap fun l => s.lineReaders (fun _ => true) (fun b => b.part == p) space l
  (s.poke space a bs).abortAll hit

/-- ECC has lost a scratchpad block that the range meets (R417). -/
def CoreSt.spLost (c : CoreSt) (off n : Nat) : Bool := (linesOf off n).any c.spBad.contains

/-! ### The fault log (R404 to R406) -/

/-- The eight words of a fault record (R405). -/
def FaultRecord.words (r : FaultRecord) : List Word :=
  [ w64 (r.cause.code * 2 ^ 56 + r.ctx * 2 ^ 54 + b2n r.eng * 2 ^ 53 + b2n r.malf * 2 ^ 52 + b2n r.rst * 2 ^ 51 +
      r.level * 2 ^ 49 + r.core * 2 ^ 40 + r.part * 2 ^ 36 + r.resume * 2 ^ 18 + r.pos),
    r.addr, r.word, r.info, r.taskt, r.tasks, r.cyc, 0 ]

/-- The 64 bytes of a fault record. -/
def FaultRecord.bytes (r : FaultRecord) : List Byte := r.words.flatMap fun w => leBytes 8 w.toNat

/-- An interrupt code by which this model marks a fault record at a landing processor; IPI codes lie below it (R378). -/
abbrev logInterrupt : Nat := 0x1000

/-- Append a record to its partition's fault log and interrupt a die's landing processor (R406). -/
def State.logAt (s : State) (die : Nat) (r : FaultRecord) : State :=
  let p := s.part r.part
  let base := field (p.reg 11) 16 30 * 2 ^ 16
  let n := p.flogp.toNat % (2 ^ field (p.reg 11) 0 4 * 1024)
  let s := if base = 0 then s else s.partWrite r.part 0 (base + 64 * n) r.bytes
  let s := s.updPart r.part fun p => { p with flogp := p.flogp + (if base = 0 then 0 else 1) }
  { s with lpInts := s.lpInts ++ [(die, logInterrupt)] }

/-- The landing processor that a record interrupts: that of its core's die; for a record that concerns no core D1's, where the scheduler
runs (R406, R419). -/
def FaultRecord.die (r : FaultRecord) : Nat := if r.core < 384 then dieOf r.core else 1

/-- Append a record to its partition's fault log and interrupt the landing processor of its core's die (R406). -/
def State.log (s : State) (r : FaultRecord) : State := s.logAt r.die r

/-- The record of a cause on core `k` (R405). -/
def State.record (s : State) (k : Nat) (ctx : Nat) (t : Trap) (eng : Bool) (level pos resume : Nat) (w : Word) :
    FaultRecord :=
  let task := s.taskOf k
  { cause := t.cause, ctx := ctx, eng := eng, malf := t.malf
    rst := match task with | some u => u.rst | none => false
    level := level, core := k, part := s.partOf k, resume := resume, pos := pos, addr := t.addr, word := w
    info := t.info
    taskt := match task with | some u => w64 u.ts | none => 0
    tasks := match task with | some u => w64 u.seq | none => 0
    cyc := w64 (s.now - (s.core k).cycle) }

/-! ### Retirement of writes in flight -/

/-- The queue shape of a name that no run covers (R37). -/
def defaultShape (q : Nat) : QState := { depth := if q < 512 then 3 else 4, kind := 0, els := [] }

/-- Vector queue `q`. -/
def CoreSt.queue (c : CoreSt) (q : Nat) : QState :=
  match Sparse.find c.qs q with
  | some v => v
  | none => defaultShape q

/-- Replace a vector queue. -/
def CoreSt.setQueue (c : CoreSt) (q : Nat) (v : QState) : CoreSt :=
  { c with qs := Sparse.put c.qs q v, starved := [] }

/-- The visible elements: the landed ones that no earlier element still in flight hides (R163). -/
def QState.visible (q : QState) : List QEl := q.els.takeWhile (·.landed)

/-- An accumulator tile; at task start it is zero and full (R55). -/
def CoreSt.tile (c : CoreSt) (n : Nat) : TileSt :=
  Sparse.get { els := [], cfmt := 0, ofmt := 0, osat := false, mode := .rne, pend := 0, ovf := none, sat := false, bad := false }
    c.tiles n

/-- Replace a tile. -/
def CoreSt.setTile (c : CoreSt) (n : Nat) (t : TileSt) : CoreSt := { c with tiles := Sparse.put c.tiles n t }

/-- An exact accumulator; zero at task start (R128). -/
def CoreSt.exa (c : CoreSt) (n : Nat) : ExAcc := Sparse.get ⟨0, .finite, false, false⟩ c.ex n

/-- Replace an exact accumulator. -/
def CoreSt.setExa (c : CoreSt) (n : Nat) (a : ExAcc) : CoreSt :=
  { c with ex := Sparse.set ⟨0, .finite, false, false⟩ c.ex n a }

end Sys2Proof.Machine
end

