-- ==== Sys2Proof/Machine/Exact.lean ====
section
/-! DEFINITION. Exact accumulators (R128 to R131): adding FP32 values and clearing. -/

namespace Sys2Proof.Machine

open Sys2Proof

/-- An FP32 pattern is a NaN (R106). -/
def f32NaN (b : BitVec 32) : Bool := field b 23 8 == 255 && field b 0 23 != 0

/-- An FP32 pattern is an infinity. -/
def f32Inf (b : BitVec 32) : Bool := field b 23 8 == 255 && field b 0 23 == 0

/-- A finite FP32 value times 2^149, an exact integer (R128). -/
def f32Int (b : BitVec 32) : Int :=
  let m : Nat := if field b 23 8 = 0 then field b 0 23 else (2 ^ 23 + field b 0 23) * 2 ^ (field b 23 8 - 1)
  if bitOf b 31 then -(m : Int) else m

/-- Adding an FP32 value (R130). -/
def ExAcc.add (a : ExAcc) (x : BitVec 32) : ExAcc :=
  if a.cls = .nan || f32NaN x then { a with cls := .nan }
  else if f32Inf x then
    let c : ExClass := if bitOf x 31 then .ninf else .pinf
    if a.cls = .finite then { a with cls := c } else if a.cls = c then a else { a with cls := .nan }
  else if a.sat then a
  else
    let t := a.n + f32Int x
    if t > 2 ^ 319 - 1 then { a with n := 2 ^ 319 - 1, sat := true }
    else if t < -(2 ^ 319) then { a with n := -(2 ^ 319), sat := true }
    else { a with n := t }

/-- Adding values in order. -/
def ExAcc.addAll (a : ExAcc) (xs : List (BitVec 32)) : ExAcc := xs.foldl ExAcc.add a

/-- Clear accumulators `a` to `a + n - 1` (R128). -/
def CoreSt.exClear (c : CoreSt) (a n : Nat) : CoreSt :=
  (List.range n).foldl (fun c i => c.setExa (a + i) ⟨0, .finite, false, false⟩) c

/-- Add to accumulators, and report the lowest-numbered one that saturates now (R132). -/
def CoreSt.exAddAll (c : CoreSt) : List (Nat × List (BitVec 32)) → CoreSt × Option Nat
  | [] => (c, none)
  | (d, xs) :: r =>
    let a := (c.exa d).addAll xs
    let hit := a.sat && !(c.exa d).sat
    let (c', o) := CoreSt.exAddAll (c.setExa d a) r
    (c', if hit then match o with | some e => some (min d e) | none => some d else o)

end Sys2Proof.Machine
end

