-- ==== Sys2Proof/Machine/Issue.lean ====
section
/-! DEFINITION. Taking a cause (R401 to R404), writes in flight and retirement (R66, R73 to R76, R196, R348), and the
issue of a word: its checks, waits, tokens, effect and signals (R65 to R72, R84, R87, R145 to R147). -/

namespace Sys2Proof.Machine

open Sys2Proof

/-! ### Writes in flight -/

/-- Mark the element with number `id` landed. -/
def QState.land (q : QState) (id : Nat) : QState :=
  { q with els := q.els.map fun e => if e.id = id then { e with landed := true } else e }

/-- An increment would take a counter past 65,535 (R68). -/
def CoreSt.passes (c : CoreSt) (n amount : Nat) : Bool := decide (65535 < (c.tk n).count + amount)

/-- Raise a counter; one that would pass 65,535 takes that value, and its error flag is set (R66, R68). `flag` sets the
flag too: a failed operation (R67). -/
def CoreSt.incTk (c : CoreSt) (n amount : Nat) (flag : Bool := false) : CoreSt :=
  let t := c.tk n
  c.setTk n { count := min (t.count + amount) 65535, flag := t.flag || flag || c.passes n amount }

/-- An increment of counter `n` of core `k` by a word of a core of die `die`. One that would pass 65,535 also logs TKOVF with record
`r`, and interrupts that die's landing processor (R68, R406). -/
def State.incTkFrom (s : State) (die k n amount : Nat) (flag : Bool) (r : FaultRecord) : State :=
  let past := (s.core k).passes n amount
  let s := s.updCore k fun c => c.incTk n amount flag
  if past then s.logAt die r else s

/-- An increment of counter `n` of core `k` by a word of that core (R68). -/
def State.incTk (s : State) (k n amount : Nat) (flag : Bool) (r : FaultRecord) : State := s.incTkFrom r.die k n amount flag r

/-- The record of TKOVF for an increment that cannot be refused (R68, R405): CORE holds the counter, INFO is its number, and
POS and RESUME are the word whose increment it is. -/
def State.tkovf (s : State) (k n : Nat) (x : Ctx) (eng : Bool) (pos : Nat) (w : Word) (addr : Word) : FaultRecord :=
  s.record k x.code { cause := .tkovf, info := w64 n, addr := addr } eng (s.ctxOf k x).level pos pos w

/-- Attach an A-class cause to a context (R401); its resume point is filled in when it is taken. -/
def State.attach (s : State) (k : Nat) (x : Ctx) (t : Trap) (eng : Bool) (pos : Nat) (w : Word) : State :=
  s.updCtx k x fun c =>
    { c with attached := c.attached ++ [s.record k x.code t eng c.level pos 0 w] }

/-- A write in flight lands. -/
def State.landOne (s : State) (k : Nat) (x : Ctx) (f : Flight) : State :=
  match f.land with
  | .reg r v => s.updCtx k x fun c => c.setReg r v
  | .push q id => s.updCore k fun c => c.setQueue q ((c.queue q).land id)
  | .exAdd adds =>
    let (c, hit) := (s.core k).exAddAll adds
    let s := s.setCore k c
    match hit with
    | none => s
    | some d =>
      let s := s.updCtx k .X fun c => { c with sflags := c.sflags ||| 1 }
      if (s.core k).extrap then s.attach k .X { cause := .accovf, info := w64 d } false f.pos f.word else s
  | .exClr a n => s.updCore k fun c => c.exClear a n
  | .scratch off e => s.updCore k fun c =>
      { c with sp := c.sp.setBytes off (elemBytes e), spBad := c.spBad.filter fun b => b < off / 64 || off / 64 + 8 ≤ b }
  | .cq succ v =>
    (s.updCtx k x fun c => if succ then { c with cqN := c.cqN ++ [v] } else { c with cqP := c.cqP ++ [v] }).updCore k
      fun c => { c with starved := [] }
  | .tk n a => s.incTk k n a false (s.tkovf k n x false f.pos f.word 0)
  | .flags f => s.updCtx k x fun c => { c with sflags := c.sflags ||| f }

/-- Place a write in flight before the later ones of a list that lands in the order of the issue cycles. -/
def insertDue (f : Flight) : List Flight → List Flight
  | [] => [f]
  | g :: r => if f.due ≤ g.due then f :: g :: r else g :: insertDue f r

/-- Writes in flight in the order in which they land: by issue cycle in exposed mode (R73), by program order in
interlocked mode. -/
def landingOrder (exposed : Bool) (fs : List Flight) : List Flight := if exposed then fs.foldr insertDue [] else fs

/-- Land the writes in flight that satisfy a test, in their order. -/
def State.landWhere (s : State) (k : Nat) (x : Ctx) (p : Flight → Bool) : State :=
  let c := s.ctxOf k x
  let s := s.updCtx k x fun c => { c with flights := c.flights.filter fun f => !p f }
  (landingOrder c.exposed (c.flights.filter p)).foldl (fun s f => s.landOne k x f) s

/-- The context completes every write in flight in its pipelines (R72, R76). -/
def State.drain (s : State) (k : Nat) (x : Ctx) : State := s.landWhere k x fun _ => true

/-- Every access and fence before a signal has been performed (R348). MARK holds loads only (R238). -/
def CtxSt.performedTo (c : CtxSt) (wid : Nat) : Bool :=
  c.accq.all fun a => decide (wid < a.wid) || match a.op with | .mark _ _ => true | _ => false

/-- An earlier word of X owes a token to the same FIFO (R196). L and S have no such order (R348). -/
def CtxSt.tokenBefore (c : CtxSt) (x : Ctx) (g : Sig) : Bool :=
  x == .X && c.sigs.any fun h => decide (h.wid < g.wid) && ((g.pushp && h.pushp) || (g.pushn && h.pushn))

/-- A signal may leave: its word has retired, the accesses before it have been performed (R348), and earlier words' tokens
for the same FIFO have left (R196). -/
def CtxSt.releasable (c : CtxSt) (x : Ctx) (g : Sig) : Bool :=
  !g.hold && (g.free || (c.flights.all (fun f => f.wid != g.wid) && c.performedTo g.wid)) && !c.tokenBefore x g

/-- A signal leaves: its token enters the FIFO, or its counter goes up (R66). -/
def State.release (s : State) (k : Nat) (x : Ctx) (g : Sig) : State :=
  let s := s.updCtx k x fun c =>
    { c with sigs := c.sigs.filter (· != g), fifoP := c.fifoP + b2n g.pushp, fifoN := c.fifoN + b2n g.pushn }
  if g.stk = 0 then s.updCore k fun c => { c with starved := [] }
  else s.incTk k g.stk.toNat 1 false (s.tkovf k g.stk.toNat x false g.pos g.word 0)

/-- The signals of word `wid` leave, each as soon as R196 and R348 let it. -/
def State.releaseWid (s : State) (k : Nat) (x : Ctx) (wid : Nat) : State :=
  ((s.ctxOf k x).sigs.filter (·.wid == wid)).foldl
    (fun s g => if (s.ctxOf k x).releasable x g then s.release k x g else s) s

/-- An engine has accepted or completed the command of a word: the word retires (R85, R192), and its signals leave as soon
as R196 and R348 let them. -/
def State.unhold (s : State) (k : Nat) (x : Ctx) (wid : Nat) : State :=
  (s.updCtx k x fun c => { c with sigs := c.sigs.map fun g => if g.wid = wid then { g with hold := false } else g }).releaseWid
    k x wid

/-! ### Causes -/

/-- A speculative task's fault is deferred: every context stops, and the task parks with the cause (R301). -/
def State.park (s : State) (t : Task) (r : FaultRecord) : State :=
  let s := s.setTask { t with st := .parked, parked := some r }
  s.forCores (s.coresOf t.seq) fun c => c.stopAll .held

/-- A context takes a cause: it completes its writes in flight and stops with its record (R401, R404, R407), or its
speculative task parks (R301). -/
def State.takeCause (s : State) (k : Nat) (x : Ctx) (r : FaultRecord) (deferrable : Bool) : State :=
  let s := s.drain k x
  match s.taskOf k with
  | some t =>
    if t.spec && deferrable then s.park t r
    else (s.log r).updCtx k x fun c => { c with run := .trapped r, blocked := false, pair := none }
  | none => (s.log r).updCtx k x fun c => { c with run := .trapped r, blocked := false, pair := none }

/-- The issuing context takes a cause of class P at its word: no effect of the word takes place (R6, R87). -/
def State.trap (s : State) (w : Word) (t : Trap) : State :=
  s.takeCause s.k s.who.ctx (s.record s.k s.who.ctx.code t false s.me.level s.me.pc s.me.pc w) true

/-- The context takes the oldest cause attached to it before its next word (R401, R402). -/
def State.takeAttached (s : State) (r : FaultRecord) (rest : List FaultRecord) : State :=
  let pc := s.me.pc
  (s.updMe fun c => { c with attached := rest }).takeCause s.k s.who.ctx
    { r with resume := pc, cyc := w64 (s.now - s.cur.cycle) } true

/-- The oldest cause that falls on a word which a context would issue (R401, R402): one attached to it, or the ACCOVF that the word, as a
reader, takes. `s` has the writes due before the word landed. -/
def State.oldestCause (s : State) (pre : Option (FaultRecord × State)) : Option State :=
  let reader := fun (p : FaultRecord × State) =>
    p.2.takeCause s.k s.who.ctx { p.1 with resume := s.me.pc, cyc := w64 (s.now - s.cur.cycle) } true
  match s.me.attached, pre with
  | r :: rest, some p => some (if p.1.cyc.toNat < r.cyc.toNat then reader p else s.takeAttached r rest)
  | r :: rest, none => some (s.takeAttached r rest)
  | [], some p => some (reader p)
  | [], none => none

/-- A return from a reflection (R409): the saved registers come back, the context continues at x59 in interlocked mode
with slack 0. -/
def CtxSt.reflectReturn (c : CtxSt) (f : Frame) : CtxSt :=
  let resume := c.wrap (c.reg 59).toNat
  let c := (((c.setReg 56 f.x56).setReg 57 f.x57).setReg 58 f.x58).setReg 59 f.x59
  { c with frame := none, pc := resume, exposed := false, slack := 0, pair := none }

/-- A stopped context continues at its resume point. -/
def CtxSt.resumeAt (c : CtxSt) (pc : Nat) : CtxSt :=
  { c with run := if c.ended then .exited else .running, pc := pc, blocked := false, pair := none }

/-! ### The next word (R57, R145 to R147) -/

/-- The back edges and pops at a closing word (R146). -/
def closeLoops (pc next : Nat) : List LoopEntry → List LoopEntry × Nat
  | [] => ([], next)
  | e :: r =>
    if e.close = pc then
      if e.count - 1 ≠ 0 then ({ e with count := e.count - 1 } :: r, e.start) else closeLoops pc next r
    else (e :: r, next)

/-- The word at the PC closes the innermost body. -/
def CtxSt.closing (c : CtxSt) : Bool :=
  match c.loops with
  | e :: _ => e.close == c.pc
  | [] => false

/-- The context goes on to the next word in program order (R57, R146). -/
def CtxSt.advance (c : CtxSt) : CtxSt :=
  let (ls, pc) := closeLoops c.pc (c.wrap (c.pc + 1)) c.loops
  { c with loops := ls, pc := pc }

/-- A word lies in a body, start and closing words reduced modulo the window (R145). -/
def CtxSt.inBody (c : CtxSt) (e : LoopEntry) (pc : Nat) : Bool :=
  decide (c.wrap ((pc : Int) - e.start) ≤ c.wrap ((e.close : Int) - e.start))

/-- A taken branch pops the bodies that its target leaves (R147). -/
def CtxSt.jump (c : CtxSt) (target : Nat) : CtxSt :=
  { c with pc := target, loops := c.loops.dropWhile fun e => !c.inBody e target }

/-! ### Issue -/

/-- The contexts an opcode is allowed in (R99). -/
inductive Allowed where
  | all | ls | onlyL | onlyX
  deriving DecidableEq, Repr

/-- The context may issue the opcode. -/
def Allowed.ok : Allowed → Ctx → Bool
  | .all, _ => true
  | .ls, x => x != .X
  | .onlyL, x => x == .L
  | .onlyX, x => x == .X

/-- The stronger of two waits. -/
def Wait.and : Wait → Wait → Wait
  | .block, _ => .block
  | _, .block => .block
  | .starve, _ => .starve
  | _, .starve => .starve
  | .hold, _ => .hold
  | _, .hold => .hold
  | .go, .go => .go

/-- Blocked unless a condition holds. -/
def Wait.need (b : Bool) : Wait := if b then .go else .block

/-- Blocked, in a way that R69 counts, unless a condition holds. -/
def Wait.feed (b : Bool) : Wait := if b then .go else .starve

/-- What the issue of a word needs to know of its instruction. `unit` names the issue slot that X shares (R59, R164,
R194, R323): 0 none. `branch` marks the branches, which set the PC
themselves, `goes` the other words that do. `hold` marks the words that
retire later than their issue lets them, `holdIf` whether such a word has not retired with its effect; `engine` marks the
E-format words, whose own STK waits for no access (R348). `uses` lists the scalar registers the word reads
or writes; `queue` marks a word that uses the context's access queue. `tki` lists the token inputs of an E-format word.
`reads` and `pops` are the registers and queues it reads, `writes` and `pushes` those it writes, as a pair of X sees them
(R59). `pre` finds an ACCOVF that falls on the first reader (R132,
R273), with the state in which it has been found. `check` is step 6 of R87; `ordered` its checks of what a token edge orders
before the word (R201, R207, R218, R227), made once the word's tokens are there; `wait` the conditions of the
entry; `late` the checks that an entry makes once its waits are met; `effect` the effect, given the word's number. -/
structure Issue where
  allowed : Allowed
  priv    : Bool := false
  unit    : Nat := 0
  branch  : Bool := false
  goes    : Bool := false
  hold    : Bool := false
  holdIf  : State → Bool := fun _ => true
  engine  : Bool := false
  uses    : List Reg := []
  queue   : Bool := false
  tki     : List (BitVec 5) := []
  reads   : List Reg := []
  writes  : List Reg := []
  pops    : List Nat := []
  pushes  : List Nat := []
  pre     : State → Option (FaultRecord × State) := fun _ => none
  check   : State → Option Trap := fun _ => none
  ordered : State → Option Trap := fun _ => none
  wait    : State → Wait := fun _ => .go
  late    : State → Option Trap := fun _ => none
  effect  : Nat → State → State

/-- The counters that the word consumes, each with how often (R65, R85). -/
def ctlCounts (c : Ctl) (tki : List (BitVec 5)) : List Nat :=
  ((c.wtk :: tki).filter (· != 0)).map (·.toNat)

/-- The FIFO that POPP pops holds this many tokens: that of the predecessor toward its successor (R83). -/
def CoreSt.fromPred (c : CoreSt) (x : Ctx) : Nat := (c.ctx x.pred).fifoN

/-- The FIFO that POPN pops. -/
def CoreSt.fromSucc (c : CoreSt) (x : Ctx) : Nat := (c.ctx x.succ).fifoP

/-- Every token the word waits for is there (R65, R85). -/
def CoreSt.tokensMet (c : CoreSt) (x : Ctx) (ctl : Ctl) (tki : List (BitVec 5)) : Bool :=
  (!ctl.popp || decide (0 < c.fromPred x)) && (!ctl.popn || decide (0 < c.fromSucc x)) &&
    (ctlCounts ctl tki).all fun n => decide ((ctlCounts ctl tki).count n ≤ (c.tk n).count)

/-- The first consumed counter whose error flag is set (R67). -/
def CoreSt.flagged (c : CoreSt) (ctl : Ctl) (tki : List (BitVec 5)) : Option Nat :=
  (ctlCounts ctl tki).find? fun n => (c.tk n).flag

/-- Take the tokens (R65). -/
def CoreSt.takeTokens (c : CoreSt) (x : Ctx) (ctl : Ctl) (tki : List (BitVec 5)) : CoreSt :=
  let c := c.updCtx x.pred fun p => { p with fifoN := p.fifoN - b2n ctl.popp }
  let c := c.updCtx x.succ fun p => { p with fifoP := p.fifoP - b2n ctl.popn }
  (ctlCounts ctl tki).foldl (fun c n => let t := c.tk n; c.setTk n { t with count := t.count - 1 }) c

/-- The increments in flight to a counter: signals of words that have not retired, and TKINCs (R66, R151). -/
def CtxSt.inFlightTk (c : CtxSt) (n : Nat) : Nat :=
  (c.sigs.filter fun g => g.stk.toNat == n).length +
    (c.flights.map fun f => match f.land with | .tk m a => if m = n then a else 0 | _ => 0).sum

/-- The increments in flight from all contexts. -/
def CoreSt.inFlightTk (c : CoreSt) (n : Nat) : Nat := c.cL.inFlightTk n + c.cX.inFlightTk n + c.cS.inFlightTk n

/-- The word's FIFOs have a free place, counting places reserved (R66); a FIFO is 64 deep (R12). -/
def CtxSt.placesFree (c : CtxSt) (ctl : Ctl) : Bool :=
  (!ctl.pushp || decide (c.fifoP + (c.sigs.filter (·.pushp)).length < 64)) &&
    (!ctl.pushn || decide (c.fifoN + (c.sigs.filter (·.pushn)).length < 64))

/-- The matrix engine's commands that X waits for: those not accepted. While the handler of a head fault is still to return,
those behind it do not hold X, since R211 carries them out only after that return (assumption 92). DESIGN CHOICE -/
def CoreSt.unaccepted (c : CoreSt) : List MatCmd := if c.matHold then [] else c.matq.filter fun m => decide (m.stage < 2)

/-- The context's commands in an elastic buffer exceed its slack (R77). -/
def CoreSt.overSlack (c : CoreSt) (x : Ctx) : Bool :=
  let slack := (c.ctx x).slack
  match x with
  | .X => decide (slack < c.unaccepted.length)
  | _ => decide (slack < (c.ferry.filter fun e => e.ctx == x && !e.taken).length)

/-- No register of the list awaits a load, a name or a status (R222). -/
def CtxSt.regsReady (c : CtxSt) (rs : List Reg) : Bool := rs.all fun r => r == 0 || !c.pend.contains r

/-- In exposed mode the word joins the issue cycle of the X word before it (R59, R164, R194, R323). -/
def CtxSt.joins (c : CtxSt) (ctl : Ctl) (unit : Nat) : Bool :=
  match c.pair with
  | some p => c.exposed && !p.single && !ctl.stop && (unit == 0 || unit != p.unit)
  | none => false

/-- The word is the second of a pair: it shares no slot with the first, and in interlocked mode it neither reads a result of it
nor writes one of its registers (R59, R133). -/
def CtxSt.seconds (c : CtxSt) (ctl : Ctl) (j : Issue) : Bool :=
  match c.pair with
  | some p =>
    !p.single && !ctl.stop && (j.unit == 0 || j.unit != p.unit) &&
      (c.exposed || (!((j.reads ++ j.writes).any fun r => r != 0 && p.regs.contains r) && !j.pops.any p.queues.contains))
  | none => false

/-- The issue cycle of the context's next word (R74). -/
def CtxSt.nextCycle (c : CtxSt) (ctl : Ctl) (unit : Nat) : Nat :=
  if c.joins ctl unit then c.icycle else c.icycle + 1

/-- The flags that the device sets in issue cycle `n` (R98): those of the writes in flight due in it, and EXOVF of the
additions due in it (R132). -/
def State.flagsAt (s : State) (n : Nat) : BitVec 3 :=
  ((((s.landWhere s.k s.who.ctx fun f => decide (f.due < n)).updMe fun c => { c with sflags := 0 }).landWhere s.k s.who.ctx
    fun f => decide (f.due ≤ n))).me.sflags

/-- What the word of the next issue cycle sees: in exposed mode, the writes due by then have landed (R73). -/
def State.atCycle (s : State) (n : Nat) : State :=
  if s.me.exposed then
    (s.landWhere s.k s.who.ctx fun f => decide (f.due ≤ n)).updMe fun c =>
      { c with newFlags := if n = s.me.icycle then c.newFlags else s.flagsAt n }
  else s

/-- The word can be judged: its registers have arrived (R222), and the access queue that it uses is not halted (R391). -/
def State.operandsReady (s : State) (j : Issue) : Bool := s.me.regsReady j.uses && (!j.queue || s.me.accHalt.isNone)

/-- The waits common to every word (R65, R66, R77). -/
def State.commonWait (s : State) (ctl : Ctl) (j : Issue) : Wait :=
  (Wait.feed (s.cur.tokensMet s.who.ctx ctl j.tki && s.me.placesFree ctl)).and
    (.need (!s.cur.overSlack s.who.ctx))

/-- The context is blocked before this word, which makes the word a STOP point (R70, R72). -/
def State.block (s : State) : State := s.updMe fun c => { c with blocked := true, nonStop := 0 }

/-- The context is blocked on a token, a control queue or a data queue fed by L, and nothing of the core has moved since
(R69). -/
def State.starve (s : State) : State :=
  s.block.updCur fun c => { c with starved := if c.starved.contains s.who.ctx then c.starved else c.starved ++ [s.who.ctx] }

/-- A generation word of X is performed, and the matrix engine has accepted every command of X (R195, R323): nothing of X
but what a drain completes is in flight. -/
def CoreSt.accepted (c : CoreSt) : Bool := c.genq.isEmpty && c.unaccepted.isEmpty

/-- Writes that a forced STOP point completes by waiting: loads, VLDs, names, generation words, matrix commands not
accepted (R72, R195, R222). -/
def CoreSt.settled (c : CoreSt) (x : Ctx) : Bool :=
  (c.ctx x).pend.isEmpty &&
    (c.ctx x).accq.all (fun a => match a.op with | .load _ _ | .vld _ _ | .amo _ _ _ _ _ => false | _ => true) &&
    (x != .X || c.accepted)

/-- A forced STOP point (R72): in-flight writes complete, SPACEOVR counts and saturates, the count starts again. -/
def State.forceStop (s : State) (k : Nat) (x : Ctx) : State :=
  (s.drain k x).updCtx k x fun c =>
    { c with nonStop := 0, forced := true
             spaceovr := if c.spaceovr = BitVec.allOnes 32 then c.spaceovr else c.spaceovr + 1 }

/-- A word issues: its tokens are taken, it gets its number and issue cycle, and the STOP count goes on (R59, R65, R72). -/
def State.pay (s : State) (ctl : Ctl) (j : Issue) (n : Nat) : State :=
  let x := s.who.ctx
  let single := ctl.stop || j.branch || s.me.closing
  let s := s.updCur fun c => { c.takeTokens x ctl j.tki with nextId := s.cur.nextId + 1, starved := [] }
  s.updMe fun c =>
    { c with icycle := n
             pair := if x = .X && !c.seconds ctl j then some ⟨j.unit, single, j.writes, j.pushes, .go⟩ else none
             nonStop := if ctl.stop then 0 else c.nonStop + 1, blocked := false, forced := false }

/-- The signals that word `wid` at position `pos` with bits `w` owes at its retirement (R66): `held` until an engine lets it
retire, and with `engine` an STK that waits for no access (R348). -/
def owed (c : Ctl) (wid pos : Nat) (w : Word) (held engine : Bool) : List Sig :=
  (if c.pushp then [⟨wid, true, false, 0, held, false, pos, w⟩] else []) ++
    (if c.pushn then [⟨wid, false, true, 0, held, false, pos, w⟩] else []) ++
    (if c.stk != 0 then [⟨wid, false, false, c.stk, held, engine, pos, w⟩] else [])

/-- The effect of an issuing word with everything that belongs to every word: tokens taken, the STOP count, the effect,
the next word, and the signals owed. -/
def State.commit (s : State) (ctl : Ctl) (j : Issue) (n : Nat) : State :=
  let wid := s.cur.nextId
  let pos := s.me.pc
  let word := s.wordAtPc
  let s := j.effect wid (s.pay ctl j n)
  let s := if j.branch || j.goes then s else s.updMe CtxSt.advance
  s.updMe fun c => { c with sigs := c.sigs ++ owed ctl wid pos word (j.hold && j.holdIf s) j.engine }

/-- The word's own increment would pass 65,535 (R66). -/
def State.overflows (s : State) (ctl : Ctl) (j : Issue) : Bool :=
  let c := s.cur.takeTokens s.who.ctx ctl j.tki
  ctl.stk != 0 && decide (65535 < (c.tk ctl.stk.toNat).count + c.inFlightTk ctl.stk.toNat + 1)

/-- The 64 bits of an instruction. -/
def wordOf (i : Instr) : Word := (encode i).getD 0

/-- A word does not issue: its context is blocked, or just waits (R70). The second word of a pair only notes what holds it
(R59). -/
def State.stall (s : State) (ctl : Ctl) (j : Issue) (w : Wait) : State :=
  if s.me.seconds ctl j then s.updMe fun c => { c with pair := c.pair.map fun p => { p with held := w } }
  else
    match w with
    | .block => s.block
    | .starve => s.starve
    | _ => s

/-! ### Halts and pre-emption (R70, R72, R411, R412, R415) -/

/-- Every context of the core that the task started has stopped: it has exited, is held, or waits for the supervisor. -/
def CtxSt.stopped (c : CtxSt) : Bool :=
  match c.run with
  | .running => false
  | _ => true

/-- Every context of the core has stopped. -/
def CoreSt.stopped (c : CoreSt) : Bool := c.cL.stopped && c.cX.stopped && c.cS.stopped

/-- The word at the PC of a context. -/
def CoreSt.nextWord (c : CoreSt) (x : Ctx) : Word :=
  BitVec.ofNat 64 (bytesToNat (c.sp.bytes ((c.ctx x).wbase + 8 * (c.ctx x).pc) 8))

/-- The context whose next word a record of the whole core names: the first of L, X and S that has not ended (assumption
19). DESIGN CHOICE -/
def CoreSt.speaker (c : CoreSt) : Ctx := if !c.cL.ended then .L else if !c.cX.ended then .X else if !c.cS.ended then .S else .L

/-- A record of a cause of class C (R401, R405): CTX 3; POS and RESUME are the next word of a stopped context, WORD is that
word. -/
def State.coreRecord (s : State) (k : Nat) (cause : Cause) (info : Word) : FaultRecord :=
  let c := s.core k
  let m := c.ctx c.speaker
  s.record k 3 { cause := cause, info := info } false m.level m.pc m.pc (c.nextWord c.speaker)

/-- When every context of a core that HALT asked to stop has stopped, the core is halted and takes DEBUG, and the HALTs
retire (R369, R376, R415). -/
def State.haltDone (s : State) (k : Nat) : State :=
  if (s.core k).haltReq && (s.core k).stopped then
    let by' := (s.core k).haltBy
    let s := (s.log (s.coreRecord k .debug 0)).updCore k fun c => { c with haltReq := false, halted := true, haltBy := [] }
    by'.foldl (fun s m => s.unhold m.core m.ctx m.id) s
  else s

/-- HALT or a pre-emption waits for the context. -/
def CoreSt.mustStop (c : CoreSt) : Bool := c.haltReq || c.preReq

/-- The context stands at a STOP point and must stop there (R70, R402, R412). -/
def State.stopsHere (s : State) (stop : Bool) : Bool := s.cur.mustStop && (s.me.blocked || s.me.forced || stop)

/-- A context stops at its STOP point; its pipelines complete first, and X waits until its generation words are performed and
its matrix commands are accepted (R72, R195, R323, R412). A cause that the completion attaches is taken first (R402). -/
def State.stopHere (s : State) : State :=
  if s.who.ctx = .X && !s.cur.accepted then s
  else
    let t := s.drain s.k s.who.ctx
    match t.me.attached with
    | r :: rest => t.takeAttached r rest
    | [] => (t.updMe fun c => { c with run := .held, nonStop := 0 }).haltDone s.k

/-- The word before which a context stands is a forced STOP point that the context has not taken (R72). A word that is marked STOP is a
STOP point of its own and needs no forced one (assumption 91). A cause that is attached already comes first (R402). DEDUCED -/
def CtxSt.forcedDue (c : CtxSt) (stop : Bool) : Bool := c.nonStop == 48 && !stop && c.attached.isEmpty

/-- The issue of a word by the context whose turn it is (R87, R402): forced STOP points, attached causes, DEBUG and PREEMPT,
then the checks in the order of R87, the waits, and the effect. -/
def State.issue (s : State) (i : Instr) (j : Issue) : Host.Outcome State Fault Refusal :=
  let w := wordOf i
  let ctl := ctlOf i
  if s.me.run ≠ .running then .next s
  else if s.me.forcedDue ctl.stop then
    if s.cur.settled s.who.ctx then .next (s.forceStop s.k s.who.ctx) else .next s
  else
    let n := s.me.nextCycle ctl j.unit
    let t := s.atCycle n
    match t.oldestCause (if j.allowed.ok s.who.ctx then j.pre t else none) with
    | some u => .next u
    | none =>
    if s.stopsHere ctl.stop then .next s.stopHere
    else if !j.allowed.ok s.who.ctx then .next (s.trap w { cause := .ctxop })
    else if j.priv && s.me.level == 0 then .next (s.trap w { cause := .priv })
    else if j.branch && t.me.closing then .next (s.trap w { cause := .illop })
    else if !t.operandsReady j then .next (s.stall ctl j .block)
    else
      match j.check t with
      | some tr => .next (s.trap w tr)
      | none =>
        let tokens := t.cur.tokensMet t.who.ctx ctl j.tki
        if tokens && (t.cur.flagged ctl j.tki).isSome then
          .next (s.trap w { cause := .tkerr, info := w64 ((t.cur.flagged ctl j.tki).getD 0) })
        else
          match (if tokens then j.ordered t else none) with
          | some tr => .next (s.trap w tr)
          | none =>
          match (t.commonWait ctl j).and (j.wait t) with
          | .go =>
            match j.late t with
            | some tr => .next (s.trap w tr)
            | none =>
              if t.overflows ctl j then .next (s.trap w { cause := .tkovf, info := w64 ctl.stk.toNat })
              else .next (t.commit ctl j n)
          | v => .next (s.stall ctl j v)

end Sys2Proof.Machine
end

