-- ==== Sys2Proof/Machine/Flags.lean ====
section
/-! DEFINITION. Conditions (R93), the results of the scalar words (R134 to R141), and the sticky flags (R97, R167). -/

namespace Sys2Proof.Machine

open Sys2Proof

/-- A condition holds of two 64-bit values (R93). -/
def condHolds (c : Cond) (a b : Word) : Bool :=
  match c with
  | .eq => a == b
  | .ne => a != b
  | .lt => BitVec.slt a b
  | .ge => !BitVec.slt a b
  | .ltu => BitVec.ult a b
  | .geu => !BitVec.ult a b
  | .al => true

/-- Bits 127:64 of the exact product (R134). -/
def mulhOf (m : Mulh) (a b : Word) : Word :=
  match m with
  | .ss => BitVec.ofInt 64 (a.toInt * b.toInt / 2 ^ 64)
  | .uu => BitVec.ofInt 64 ((a.toNat : Int) * b.toNat / 2 ^ 64)
  | .su => BitVec.ofInt 64 (a.toInt * (b.toNat : Int) / 2 ^ 64)

/-- Quotient truncated toward zero; the corners of R135. -/
def divOf (uns : Bool) (a b : Word) : Word :=
  if b = 0 then BitVec.allOnes 64
  else if uns then BitVec.ofNat 64 (a.toNat / b.toNat)
  else BitVec.ofInt 64 (a.toInt.tdiv b.toInt)

/-- Remainder with the sign of the dividend; the corners of R135. -/
def remOf (uns : Bool) (a b : Word) : Word :=
  if b = 0 then a
  else if uns then BitVec.ofNat 64 (a.toNat % b.toNat)
  else BitVec.ofInt 64 (a.toInt.tmod b.toInt)

/-- The shift amount of the shifts and ROL (R134). -/
def shiftOf (b : Word) (imm : BitVec 6) : Nat := (b.toNat + imm.toNat) % 64

/-- Lesser of two values (R134). -/
def minOf (uns : Bool) (a b : Word) : Word :=
  if uns then if BitVec.ult b a then b else a else if BitVec.slt b a then b else a

/-- Greater of two values (R134). -/
def maxOf (uns : Bool) (a b : Word) : Word :=
  if uns then if BitVec.ult a b then b else a else if BitVec.slt a b then b else a

/-- LIMM's new value of xd (R139). -/
def limmOf (p : LPart) (imm : BitVec 32) (old : Word) : Word :=
  match p with
  | .lo => old &&& 0xFFFFFFFF00000000 ||| zext imm
  | .hi => old &&& 0xFFFFFFFF ||| (zext imm <<< 32)
  | .s => sext imm
  | .z => zext imm

/-- Leading zero bits; 64 for 0 (R140). -/
def clzOf (a : Word) : Word := w64 (if a.toNat = 0 then 64 else 63 - a.toNat.log2)

/-- One bits (R140). -/
def popcOf (a : Word) : Word := w64 (popCount 64 a.toNat)

/-- The eight bytes in reverse order (R140). -/
def bswapOf (a : Word) : Word := w64 (bytesToNat (leBytes 8 a.toNat).reverse)

/-- EXTR's result; `len` counts from 1 (R141). -/
def extrOf (sgn : Bool) (pos len : Nat) (a : Word) : Word :=
  if sgn then BitVec.ofInt 64 (sfield a pos len) else w64 (field a pos len)

/-- INSR's new value of xd (R141). -/
def insrOf (pos len : Nat) (a old : Word) : Word :=
  w64 (old.toNat - field old pos len * 2 ^ pos + field a 0 len * 2 ^ pos)

/-- Bits of SFLAGS (R97). -/
abbrev flagEXOVF : BitVec 3 := 1
/-- CVSAT (R97). -/
abbrev flagCVSAT : BitVec 3 := 2
/-- CVNAN (R97). -/
abbrev flagCVNAN : BitVec 3 := 4

/-- The flags of a conversion or vector word (R167). -/
def convFlags (nan sat : Bool) : BitVec 3 := (if nan then flagCVNAN else 0) ||| (if sat then flagCVSAT else 0)

end Sys2Proof.Machine
end

