-- ==== Sys2Proof/Machine/Operands.lean ====
section
/-! DEFINITION. Operand forms: scalar results with their latency (R133), special registers (R95 to R98, R366, R429), and
the capability list (R454 to R456). -/

namespace Sys2Proof.Machine

open Sys2Proof

/-- Put a write in flight: it lands `lat` issue cycles after the word (R73). -/
def State.inFlight (s : State) (wid lat : Nat) (l : Landing) : State :=
  s.updMe fun c => { c with flights := c.flights ++ [⟨wid, c.icycle + lat, c.pc, s.wordAtPc, l⟩] }

/-- A word writes a scalar register with latency `lat`: in exposed mode at its issue cycle plus the latency (R73,
R133), in interlocked mode at once, since no reader can tell (R75; assumption 5). DEDUCED -/
def State.result (s : State) (wid lat : Nat) (x : Reg) (v : Word) : State :=
  if s.me.exposed then s.inFlight wid lat (.reg x v) else s.updMe fun c => c.setReg x v

/-! ### The capability list -/

/-- The words of a record after its header, by ID (R456); `tier` is what stage 7 has found of second-tier memory. -/
def capBody (slots : Sparse (BitVec 16)) (tier : Nat) : Nat → List Nat
  | 1 => [Config.deviceNumber.toNat + 6 * 2 ^ 16 + 384 * 2 ^ 32 + 6 * 2 ^ 48, 2500]
  | 2 => [0xFF9F, 0x1FF]
  | 3 => [0x1E]
  | 4 => [48 + 48 * 2 ^ 8 + 64 * 2 ^ 16, 0x808080808080808B]
  | 5 => [Config.berthLimit]
  | 6 => [8192 + 2048 * 2 ^ 16 + 16 * 2 ^ 32]
  | 7 => [64 + 16 * 2 ^ 8 + 256 * 2 ^ 16]
  | 8 => [tier]
  | 9 => [18 + 200 * 2 ^ 16]
  | 10 => [16]
  | 11 => [64 + 2 ^ 20 * 2 ^ 32, 4096 + 255 * 2 ^ 56]
  | 12 => (List.range 16).map fun i =>
      ((List.range 4).map fun j => (Sparse.get 0 slots (4 * i + j)).toNat * 2 ^ (16 * j)).sum
  | _ => []

/-- A record with its header, at offset `off` (R454). -/
def capRecord (slots : Sparse (BitVec 16)) (tier off id : Nat) : List Nat :=
  let body := capBody slots tier id
  let len := 8 * (body.length + 1)
  (id + 1 * 2 ^ 16 + len * 2 ^ 32 + (if id = 12 then 0 else off + len) * 2 ^ 48) :: body

/-- The list, record by record (R456). -/
def capList (slots : Sparse (BitVec 16)) (tier : Nat) : List Nat :=
  (List.range 12).foldl (fun l i => l ++ capRecord slots tier (8 * l.length) (i + 1)) []

/-- The 8 bytes at offset `off` of the list; 0 past its end (R155). -/
def capWord (slots : Sparse (BitVec 16)) (tier off : Nat) : Word :=
  if off < 0x1000 then w64 ((capList slots tier).getD (off / 8) 0) else 0

/-- The list that a task reads: as it stood when the task was placed (R455). -/
def State.capsOf (s : State) (k : Nat) : Sparse (BitVec 16) :=
  match s.taskOf k with
  | some t => t.caps
  | none => s.slotTab

/-! ### Special registers -/

/-- FRONT of the domain of core `k` as timestamp and sequence number (R289). -/
def State.frontKey (s : State) (k : Nat) : Nat × Nat :=
  match s.front (s.partOf k) with
  | some t => (t.ts, t.seq)
  | none => (2 ^ 64 - 1, 2 ^ 64 - 1)

/-- CTXST (R97). -/
def State.ctxst (s : State) : Word :=
  w64 (b2n s.cur.extrap * 2 ^ 17 + b2n s.cur.det * 2 ^ 16 + s.me.slack * 2 ^ 8 + b2n s.me.exposed * 2 ^ 4 +
    s.who.ctx.code)

/-- TASKF (R97). -/
def State.taskf (s : State) : Word := w64 (s.partOf s.k * 2 ^ 8 + b2n (s.isSpec s.k))

/-- TKERRS (R96). -/
def CoreSt.tkerrs (c : CoreSt) : Word :=
  w64 (((List.range 31).map fun i => b2n (c.tk (i + 1)).flag * 2 ^ (i + 1)).sum)

/-- Core cycles from one refresh window of a bank set to its next: 32 µs (R10, R14). -/
abbrev refreshPeriod : Nat := 80000

/-- When the next refresh window of a bank set begins (R14); the first one's time is the device's own (assumption 17). -/
def State.nextWindow (s : State) (bank : Nat) : Nat := Sparse.get (Config.firstWindow bank % refreshPeriod) s.windows bank

/-- WSREF of a bank set (R97): the cycles left of an open window, else the cycles until the next one begins. -/
def State.wsref (s : State) (bank : Nat) : Word :=
  match Sparse.find s.refresh bank with
  | some start => w64 ((1000 - min 999 (s.now - start)) * 2 ^ 32)
  | none => w64 (s.nextWindow bank - s.now)

/-- The state of a partition's scheduler as SCHST shows it (R429). -/
def State.schst (s : State) (p : Nat) : Word :=
  let ts := s.domain p
  let cores := (List.range 384).filter fun c => bitOf ((s.part p).reg (c / 64)) (c % 64)
  let free := cores.filter fun c => (s.core c).status == .free && !ts.any fun t => t.got.contains c
  let spec := ts.filter fun t => t.st != .waiting
  w64 ((ts.filter fun t => t.st == .reserving).length * 2 ^ 48 + free.length * 2 ^ 32 + spec.length * 2 ^ 16 +
    s.tasks.length)

/-- The status word of a link (R441). -/
def State.linkWord (s : State) (l : Nat) : Word :=
  let v := Sparse.get Link.reset s.links l
  w64 (v.peer * 2 ^ 48 + v.retry * 2 ^ 32 + v.state)

/-- A value clamped to the record's limits; reserved bits read 0 (R3, R380). -/
def clampIsland (limit v : Word) : Word :=
  w64 (((List.range 3).map fun i => min (field v (16 * i) 16) (field limit (16 * i) 16) * 2 ^ (16 * i)).sum)

/-- Island limits; until an ISLW, those of the configuration record (R367). -/
def State.island (s : State) (n : Nat) : Word :=
  match Sparse.find s.isl n with
  | some w => w
  | none => clampIsland (Config.islRecord n) (Config.islRecord n)

/-- The value MFS reads (R95, R96, R366, R429); `none` traps ILLOP. The level has been checked. -/
def State.special (s : State) (sel : Nat) : Option Word :=
  let p := s.partOf s.k
  let task := s.taskOf s.k
  if sel = 0x0000 then some (w64 (s.now - s.cur.cycle))
  else if sel = 0x0001 then some (zext s.me.spaceovr)
  else if sel = 0x0002 then some (zext s.me.sflags)
  else if sel = 0x0003 then some s.ctxst
  else if sel = 0x0004 then some s.cur.tkerrs
  else if sel = 0x0005 then some (w64 s.cur.fq.length)
  else if sel = 0x0008 then some (w64 (s.frontKey s.k).1)
  else if sel = 0x0009 then some (w64 (s.frontKey s.k).2)
  else if sel = 0x000A then some (match task with | some t => w64 t.ts | none => 0)
  else if sel = 0x000B then some (match task with | some t => w64 t.seq | none => 0)
  else if sel = 0x000C then some s.taskf
  else if sel = 0x0010 then some ((s.part p).reg 8)
  else if 0x0400 ≤ sel ∧ sel ≤ 0x057F then some (s.wsref (sel - 0x0400))
  else if sel = 0x8000 then some (w64 s.me.level)
  else if sel = 0x8001 then some (w64 p)
  else if sel = 0x8002 then some (s.part p).specdepth
  else if sel = 0x8003 then some (s.part p).vbquota
  else if sel = 0x8004 then some (s.part p).reddl
  else if sel = 0x8005 then some (s.part p).ptbase
  else if 0x8008 ≤ sel ∧ sel ≤ 0x800B then some (w64 (field s.cur.qmask (64 * (sel - 0x8008)) 64))
  else if sel = 0x800C then some s.cur.lsup
  else if sel = 0x8010 then some (s.part p).tqhead
  else if sel = 0x8011 then some (s.schst p)
  else if sel = 0x8012 then some (w64 (b2n (s.part p).pre * 2 + b2n (s.part p).hold))
  else if 0x8040 ≤ sel ∧ sel ≤ 0x807F then some (zext (Sparse.get 0 s.slotTab (sel - 0x8040)))
  else if 0x8080 ≤ sel ∧ sel ≤ 0x809F then some (s.island (sel - 0x8080))
  else if 0x8100 ≤ sel ∧ sel ≤ 0x811F then
    some (if sel = 0x810C then zext (s.part p).flogp else (s.part p).reg (sel - 0x8100))
  else if 0x8200 ≤ sel ∧ sel ≤ 0x8211 then some (s.linkWord (sel - 0x8200))
  else none

/-- The value is legal for a writable special register (R98, R367, R368, R429); `none` when the selector cannot be
written. HEAD of TQSPARE must lie in HBM when V is 1; with V = 0 it names nothing, and is not judged (assumption 75).
DESIGN CHOICE -/
def specialOk (sel : Nat) (v : Word) : Option Bool :=
  if sel = 0x0001 then some (decide (v.toNat < 2 ^ 32))
  else if sel = 0x0002 then some (decide (v.toNat < 8))
  else if sel = 0x8002 then some (decide (1 ≤ v.toNat) && decide (v.toNat ≤ 2048))
  else if sel = 0x8003 then some (decide (v.toNat ≤ 2 ^ 20))
  else if sel = 0x8004 then some (decide (1 ≤ v.toNat) && decide (v.toNat < 65536))
  else if sel = 0x8005 then some (decide (v.toNat < 2 ^ 52) && decide (v.toNat % 64 = 0))
  else if sel = 0x8010 then
    some (decide (v.toNat < 2 ^ 46) && decide (field v 2 14 = 0) &&
      (!bitOf v 0 || (decide (field v 40 6 = 0) && decide (field v 16 21 * 2 ^ 16 < 48000000000))))
  else if sel = 0x8012 then some (decide (v.toNat < 4))
  else none

/-- Refuse or carry on the creations that wait for a queue segment stands with the scheduler; here the register itself
takes its value (R422, R429). FAIL reads 0. -/
def Part.setTqspare (p : Part) (v : Word) : Part := { p with tqhead := v &&& ~~~(2 : Word), tqfull := false }

/-- MTS to a user register (R98); a flag that the device sets in the same cycle is set after it. -/
def State.setSpecial (s : State) (sel : Nat) (v : Word) : State :=
  if sel = 0x0001 then s.updMe fun c => { c with spaceovr := BitVec.ofNat 32 v.toNat }
  else if sel = 0x0002 then
    s.updMe fun c =>
      { c with sflags := (BitVec.ofNat 3 v.toNat &&& (if s.who.ctx = .X then 7 else 6)) ||| (if c.exposed then c.newFlags else 0) }
  else s

end Sys2Proof.Machine
end

