-- ==== Sys2Proof/Machine/Queues.lean ====
section
/-! DEFINITION. Vector-queue operands of X's words (R61 to R64, R91, R161 to R163): reads in operand order, pops before the
push, and pushes in flight; and the frame that the pipeline words share. -/

namespace Sys2Proof.Machine

open Sys2Proof

/-- A source operand: its queue, whether it is peeked, how many elements it takes (R62, R174). -/
structure VSrc where
  q    : QName
  peek : Bool := false
  n    : Nat := 1
  deriving DecidableEq, Repr

/-- For each operand its queue and how many elements the queue must hold up to and with it (R62). `used` counts the
elements that earlier operands of the same name consumed. -/
def needs : List VSrc → Sparse Nat → List (Nat × Nat)
  | [], _ => []
  | v :: r, u =>
    if v.q = vz then needs r u
    else
      let k := Sparse.get 0 u v.q.toNat + v.n
      (v.q.toNat, k) :: needs r (if v.peek then u else Sparse.put u v.q.toNat k)

/-- How many elements the operands pop of each queue. -/
def popsOf : List VSrc → Sparse Nat → Sparse Nat
  | [], u => u
  | v :: r, u =>
    if v.q = vz || v.peek then popsOf r u else popsOf r (Sparse.put u v.q.toNat (Sparse.get 0 u v.q.toNat + v.n))

/-- An element of zeros (R91). -/
def zeroEl : QEl := ⟨0, 0, true, false, none⟩

/-- The elements of each operand (R62). -/
def CoreSt.takeSrcs (c : CoreSt) : List VSrc → Sparse Nat → List (List QEl)
  | [], _ => []
  | v :: r, u =>
    if v.q = vz then List.replicate v.n zeroEl :: CoreSt.takeSrcs c r u
    else
      let k := Sparse.get 0 u v.q.toNat
      (((c.queue v.q.toNat).els.drop k).take v.n) ::
        CoreSt.takeSrcs c r (if v.peek then u else Sparse.put u v.q.toNat (k + v.n))

/-- An element that has not landed and that no write in flight of X will land: a VLD's or a generation word's, which a
reader stalls for in both modes (R222, R323). -/
def CoreSt.awaits (c : CoreSt) (q : Nat) (e : QEl) : Bool :=
  !e.landed && c.cX.flights.all fun f => f.land != .push q e.id

/-- The elements that a read may count on: in exposed mode the visible ones and those that it stalls for, in interlocked
mode those in flight too (R163, R323). -/
def CoreSt.countable (c : CoreSt) (q : Nat) (exposed : Bool) : Nat :=
  if exposed then ((c.queue q).els.takeWhile fun e => e.landed || c.awaits q e).length else (c.queue q).els.length

/-- QUNF at the first operand that a register queue cannot supply (R63, R163). -/
def State.srcTrap (s : State) (vs : List VSrc) : Option Trap :=
  match (needs vs []).find? fun e =>
      (s.cur.queue e.1).kind == 0 && decide (s.cur.countable e.1 s.me.exposed < e.2) with
  | some e => some { cause := .qunf, info := w64 e.1 }
  | none => none

/-- A LAPPB still pops elements of the queue: X words that read it stall (R270). -/
def CoreSt.popping (c : CoreSt) (q : Nat) : Bool :=
  c.ladq.any fun m =>
    match m.op with
    | .lappb qa qb j _ => (qa.toNat == q || qb.toNat == q) && decide (m.els.length < 2 * 2 ^ j) && m.fail.isNone
    | _ => false

/-- A data queue stalls X until it holds what the word needs (R64); a register queue in interlocked mode holds it until
the elements have landed (R75). -/
def State.srcWait (s : State) (vs : List VSrc) : Wait :=
  (needs vs []).foldl (fun w e =>
    let q := s.cur.queue e.1
    w.and (
      if s.cur.popping e.1 then .block
      else if e.2 ≤ q.visible.length then .go
      else if q.kind = 0 && !(q.els.take e.2).any (s.cur.awaits e.1) then .hold
      else if q.kind = 1 then .starve
      else .block)) .go

/-- ECCU when an element that the word reads is lost (R417). -/
def State.srcLost (s : State) (vs : List VSrc) : Option Trap :=
  if (s.cur.takeSrcs vs []).any fun l => l.any (·.bad) then some { cause := .eccu, info := 4 } else none

/-- The record of an ACCOVF that falls on a reading word (R132, R273, R401); CYC is the mark's until the cause is taken. -/
def State.satRecord (s : State) (m : SatMark) (info : Nat) : FaultRecord :=
  { s.record s.k s.who.ctx.code { cause := .accovf, info := w64 info } true s.me.level m.pos s.me.pc m.word with cyc := m.cyc }

/-- Take the ACCOVF mark off element `id` of a queue. -/
def QState.clearOvf (q : QState) (id : Nat) : QState :=
  { q with els := q.els.map fun e => if e.id = id then { e with ovf := none } else e }

/-- The saturated elements that a word pops, each with its queue (R273). -/
def State.poppedMarks (s : State) (vs : List VSrc) : List (Nat × Nat × SatMark) :=
  (popsOf vs []).flatMap fun p =>
    ((s.cur.queue p.1).visible.take p.2).filterMap fun e => e.ovf.map fun m => (p.1, e.id, m)

/-- The oldest of some marks. -/
def oldestMark : List (Nat × Nat × SatMark) → Option (Nat × Nat × SatMark)
  | [] => none
  | a :: r =>
    match oldestMark r with
    | some b => some (if b.2.2.cyc.toNat < a.2.2.cyc.toNat then b else a)
    | none => some a

/-- ACCOVF falls on the first X word that pops a saturated element; when it pops several, one at a time, the oldest first (R273, R402). -/
def State.srcOvf (s : State) (vs : List VSrc) : Option (FaultRecord × State) :=
  match oldestMark (s.poppedMarks vs) with
  | none => none
  | some (q, id, m) => some (s.satRecord m 64, s.updCur fun c => c.setQueue q ((c.queue q).clearOvf id))

/-- The checks of a destination: a data queue is ILLOP (R61), a full queue QOVF (R63, R163). -/
def State.dstTrap (s : State) (vd : QName) (pushes : Nat) (vs : List VSrc) : Option Trap :=
  if vd = vnull then none
  else
    let q := s.cur.queue vd.toNat
    if q.kind ≠ 0 then some { cause := .illop }
    else if q.depth < q.els.length - Sparse.get 0 (popsOf vs []) vd.toNat + pushes then
      some { cause := .qovf, info := w64 vd.toNat }
    else none

/-- Pop what the operands consume. -/
def State.popSrcs (s : State) (vs : List VSrc) : State :=
  (popsOf vs []).foldl (fun s e => s.updCur fun c =>
    let q := c.queue e.1
    c.setQueue e.1 { q with els := q.els.drop e.2 }) s

/-- Push one element in flight: element `j` of the word (R163, R165). -/
def State.pushOne (s : State) (wid lat j : Nat) (vd : QName) (e : Elem) : State :=
  if vd = vnull then s
  else
    let id := wid * 64 + j
    (s.updCur fun c =>
      let q := c.queue vd.toNat
      c.setQueue vd.toNat { q with els := q.els ++ [⟨e, id, false, false, none⟩] }).inFlight wid (lat + j)
        (.push vd.toNat id)

/-- Push the elements of a word, the first at latency `lat`, each later one a cycle later (R165). -/
def State.pushAll (s : State) (wid lat : Nat) (vd : QName) (es : List Elem) : State :=
  (es.zip (List.range es.length)).foldl (fun s e => s.pushOne wid lat e.2 vd e.1) s

/-- The flags that a word sets at retirement (R167). -/
def State.owe (s : State) (wid lat : Nat) (f : BitVec 3) : State :=
  if f = 0 then s else s.inFlight wid lat (.flags f)

/-- The operands of a word, one element each; an operand that takes several gives them all. -/
def State.srcElems (s : State) (vs : List VSrc) : List (List Elem) := (s.cur.takeSrcs vs []).map fun l => l.map (·.e)

/-- The queues that operands name. -/
def vsrcNames (vs : List VSrc) : List Nat := (vs.filter fun v => v.q != vz).map fun v => v.q.toNat

/-- A word that reads operands, computes elements and flags, and pushes the elements. -/
def vword (lat : Nat) (vs : List VSrc) (vd : QName) (pushes : Nat) (f : State → List (List Elem) → List Elem × BitVec 3) :
    Issue :=
  { allowed := .onlyX
    unit := 1
    pops := vsrcNames vs
    pushes := if vd = vnull then [] else [vd.toNat]
    pre := fun s => s.srcOvf vs
    check := fun s => (s.srcTrap vs).or (s.dstTrap vd pushes vs)
    wait := fun s => s.srcWait vs
    late := fun s => s.srcLost vs
    effect := fun wid s =>
      let r := f s (s.srcElems vs)
      ((s.popSrcs vs).pushAll wid lat vd r.1).owe wid (lat + (pushes - 1)) r.2 }

/-- The operands of a V3 word. -/
def v3srcs (v : V3) : List VSrc := [{ q := v.va, peek := v.pa }, { q := v.vb, peek := v.pb }]

/-- The operand of a word with one source. -/
def v2srcs (v : V2) : List VSrc := [{ q := v.va, peek := v.pa }]

/-- The operands of a V4 word. -/
def v4srcs (v : V4) : List VSrc := [{ q := v.va }, { q := v.vb }, { q := v.vc }]

/-- Element `j` of operand `i`. -/
def opElem (es : List (List Elem)) (i j : Nat) : Elem := ((es.getD i []).getD j 0)

/-- The output queue of a ladder command. -/
def LadOp.out : LadOp → Option QName
  | .lread _ qc _ _ => some qc
  | .lstat qc => some qc
  | _ => none

/-! ### Scratch moves -/

/-- The core with the scratch writes that X has in flight performed: what a later scratch move of X reads (R187). -/
def CoreSt.withScratch (c : CoreSt) : CoreSt :=
  c.cX.flights.foldl (fun c f =>
    match f.land with
    | .scratch off e =>
      { c with sp := c.sp.setBytes off (elemBytes e), spBad := c.spBad.filter fun b => b < off / 64 || off / 64 + 8 ≤ b }
    | _ => c) c

end Sys2Proof.Machine
end

