-- ==== Sys2Proof/Machine/Xlate.lean ====
section
/-! DEFINITION. Translation (R221, R381 to R390): windows, page-table walks, TLBs, permissions and residence. -/

namespace Sys2Proof.Machine

open Sys2Proof

/-- The outcome of a translation: a place, a wait for a moving page (R395), or a fault, with MALF. -/
inductive Xl where
  | ok (l : Loc)
  | wait
  | bad (cause : Cause) (malf : Bool)
  deriving DecidableEq, Repr

/-- The outcome of a walk (R385): a leaf, whether it maps a block; or nothing. -/
inductive Walk where
  | leaf (w : Word) (block : Bool)
  | invalid
  | malformed
  deriving DecidableEq, Repr

/-- A physical address of HBM (R381). -/
def hbmOk (pa : Nat) : Bool := decide (pa < 2 ^ 40) && decide (pa % 2 ^ 37 < 48000000000)

/-- TYPE of an entry (R383). -/
abbrev entryType (w : Word) : Nat := field w 0 2

/-- The next node that a pointer names. -/
abbrev entryNode (w : Word) : Nat := field w 16 30 * 2 ^ 16

/-- A pointer is well formed; `align` is the alignment of the node (R383, R386). -/
def pointerOk (w : Word) (align : Nat) : Bool :=
  field w 2 14 == 0 && field w 46 18 == 0 && entryNode w % align == 0 && hbmOk (entryNode w)

/-- Bits of a leaf (R384). -/
abbrev leafAddr (w : Word) : Nat := field w 16 44 * 2 ^ 16
/-- MIG. -/
abbrev leafMig (w : Word) : Bool := bitOf w 10
/-- REP. -/
abbrev leafRep (w : Word) : Bool := bitOf w 9
/-- SUP. -/
abbrev leafSup (w : Word) : Bool := bitOf w 6
/-- HOST. -/
abbrev leafHost (w : Word) : Bool := bitOf w 5
/-- TIER. -/
abbrev leafTier (w : Word) : Bool := bitOf w 4
/-- W. -/
abbrev leafW (w : Word) : Bool := bitOf w 3
/-- R. -/
abbrev leafR (w : Word) : Bool := bitOf w 2

/-- A leaf is well formed (R384, R386). -/
def leafOk (w : Word) (block : Bool) : Bool :=
  field w 60 4 == 0 && field w 12 4 == 0 && field w 7 2 == 0 && (!block || field w 16 18 == 0) &&
    !(leafHost w && leafTier w) && !(leafRep w && (block || leafHost w || leafTier w)) &&
    (leafHost w || leafTier w || hbmOk (leafAddr w))

/-- A leaf found at an entry of TYPE 3. -/
def leafOf (w : Word) (block : Bool) : Walk := if leafOk w block then .leaf w block else .malformed

/-- An entry of the page table as memory holds it at the channel port (R385, R389). -/
def State.entry (s : State) (pa : Nat) : Word := w64 (s.hbm.num pa 8)

/-- How a walk reads an entry at a physical address that stands for the addresses with one `va / 2 ^ shift`: shifts 47 and 29 for
directory entries of the levels, 34 for entries of level 1, 16 for leaves of level 2. -/
abbrev EntryReader := Nat → Nat → Word

/-- The last step of a walk: the entry of level 2. -/
def walkLeaf (rd : EntryReader) (pa : Nat) : Walk :=
  let e := rd 16 pa
  match entryType e with
  | 0 => .invalid
  | 3 => leafOf e false
  | _ => .malformed

/-- The address of an entry through a directory (R383, R385); an error with the reason when there is none. -/
def throughDir (rd : EntryReader) (shift dir i : Nat) : Except Walk Nat :=
  let d := rd shift (dir + 8 * (i / 2 ^ 13))
  match entryType d with
  | 0 => .error .invalid
  | 1 => if pointerOk d (2 ^ 16) then .ok (entryNode d + 8 * (i % 2 ^ 13)) else .error .malformed
  | _ => .error .malformed

/-- A walk from the entry of level 1. -/
def walkFrom (rd : EntryReader) (e : Word) (i2 : Nat) : Walk :=
  match entryType e with
  | 0 => .invalid
  | 3 => leafOf e true
  | 1 => if pointerOk e (2 ^ 21) then walkLeaf rd (entryNode e + 8 * i2) else .malformed
  | _ =>
    if pointerOk e (2 ^ 16) then
      match throughDir rd 29 (entryNode e) i2 with
      | .ok a => walkLeaf rd a
      | .error w => w
    else .malformed

/-- A walk of partition `p`'s table that reads its entries with `rd` (R385). -/
def State.walkBy (s : State) (rd : EntryReader) (p va : Nat) : Walk :=
  let root := (s.part p).reg 10
  let i1 := va / 2 ^ 34 % 2 ^ 18
  let i2 := va / 2 ^ 16 % 2 ^ 18
  if !bitOf root 63 then .invalid
  else if !bitOf root 0 then walkFrom rd (rd 34 (entryNode root + 8 * i1)) i2
  else
    match throughDir rd 47 (entryNode root) i1 with
    | .ok a => walkFrom rd (rd 34 a) i2
    | .error w => w

/-- A walk that reads every entry from memory. -/
def State.walk (s : State) (p va : Nat) : Walk := s.walkBy (fun _ pa => s.entry pa) p va

/-- The pointer or directory entry that a die's walker has kept for an address (R388). -/
def State.kept (s : State) (die p va shift : Nat) : Option Word :=
  ((Sparse.get [] s.walks die).find? fun w => w.part == p && w.shift == shift && w.key == va / 2 ^ shift).map (·.word)

/-- A walk by a die's walker: entries that it has kept are not read again (R388). -/
def State.walkOn (s : State) (die p va : Nat) : Walk :=
  s.walkBy (fun shift pa => (s.kept die p va shift).getD (s.entry pa)) p va

/-- An entry of a TLB serves an address (R388). -/
def TlbEntry.serves (t : TlbEntry) (p va : Nat) : Bool :=
  t.part == p && !t.win && t.vpn == va / (if t.block then 2 ^ 34 else 2 ^ 16)

/-- An entry of a first-level TLB holds the window's translation of an address (R387). -/
def TlbEntry.shows (t : TlbEntry) (p va : Nat) : Bool := t.part == p && t.win && t.vpn == va / 4096

/-- The translation of an address through TLBs or a walk (R388). -/
def State.lookup (s : State) (k p va : Nat) : Walk :=
  match ((s.core k).tlb ++ Sparse.get [] s.tlb2 (dieOf k)).find? fun t => t.serves p va with
  | some t => .leaf t.leaf t.block
  | none => s.walkOn (dieOf k) p va

/-- Some slot of the frame serves partitions at the HBM channel ports (R430). -/
def State.hbmServed (s : State) : Bool := s.slotTab.any fun e => bitOf e.2 7

/-- A place can be read or written now: an HBM port serves partitions only in slots whose entry bit is set (R430), and a
Weight Store bank set serves no read inside its refresh window (R14, R223). -/
def State.portOpen (s : State) (l : Loc) : Bool :=
  if l.space = 0 ∨ l.space = 5 then s.hbmServed
  else if l.space = 3 then (Sparse.find s.refresh (l.addr / 2 ^ 24)).isNone
  else true

/-- A TLB that serves the core holds a translation of the address (R388). -/
def State.tlbHit (s : State) (k p va : Nat) : Bool :=
  ((s.core k).tlb ++ Sparse.get [] s.tlb2 (dieOf k)).any fun t => t.serves p va

/-- The kind of an access, for permissions (R384). -/
structure Acc where
  write  : Bool
  kernel : Bool
  deriving DecidableEq, Repr

/-- What a leaf says of an access (R384, R386, R390, R395). -/
def leafPlace (w : Word) (block : Bool) (a : Acc) (va : Nat) : Xl :=
  let addr := leafAddr w + va % (if block then 2 ^ 34 else 2 ^ 16)
  if leafMig w then .wait
  else if (leafSup w && a.kernel) || !leafR w || (a.write && !leafW w) then .bad .prot false
  else if leafHost w then .ok ⟨1, addr⟩
  else if leafTier w then .ok ⟨2, addr⟩
  else if leafRep w then .ok ⟨5, addr⟩
  else .ok ⟨0, addr⟩

/-- The berth window of a partition holds an address (R387). -/
def Part.inBerths (p : Part) (va : Nat) : Bool :=
  (p.reg 8).toNat != 0 && decide ((p.reg 8).toNat ≤ va) && decide (va < (p.reg 8).toNat + 2 ^ 39)

/-- The Weight Store window of a partition holds an address (R387). -/
def Part.inWs (p : Part) (va : Nat) : Bool :=
  (p.reg 9).toNat != 0 && decide ((p.reg 9).toNat ≤ va) && decide (va < (p.reg 9).toNat + 6 * 2 ^ 30)

/-- Where a mover has put the page of a berth window (R361, R395). -/
def State.movedTo (s : State) (p va : Nat) : Option Loc :=
  (s.moved.find? fun m => m.part == p && m.page == va / 2 ^ 16).map (·.loc)

/-- Where a window's translation puts a granule (R223, R252, R367, R387); PROT where the pool or the map has none. -/
def State.windowPlace (s : State) (p va : Nat) : Except Cause Loc :=
  if (s.part p).inBerths va then
    let o := va - ((s.part p).reg 8).toNat
    let pool := (s.part p).reg (16 + o / 2 ^ 36)
    let g := o / 2 ^ 12 % 2 ^ 24
    if field pool 0 24 ≤ g then .error .prot
    else .ok ⟨0, o / 2 ^ 36 * 2 ^ 37 + (field pool 24 24 + g) * 4096 + o % 4096⟩
  else
    let o := va - ((s.part p).reg 9).toNat
    if bitOf ((s.part p).reg (24 + o / 2 ^ 30)) (o / 2 ^ 24 % 64) then .ok ⟨3, o⟩ else .error .prot

/-- The window translation that the core's first-level TLB holds (R387). -/
def State.shown (s : State) (k p va : Nat) : Option Loc :=
  ((s.core k).tlb.find? fun t => t.shows p va).map fun t =>
    ⟨t.leaf.toNat / 2 ^ 60, t.leaf.toNat % 2 ^ 60 + va % 4096⟩

/-- A berth granule that the map holds free faults STALEB (R252). -/
def State.berthFree (s : State) (l : Loc) : Bool := (s.gran (l.addr / 2 ^ 37) (l.addr % 2 ^ 37 / 4096)).share == 0

/-- An access at a window's place (R223, R252, R367): the Weight Store is not written, and a free granule faults STALEB. -/
def State.windowXl (s : State) (a : Acc) : Except Cause Loc → Xl
  | .error c => .bad c false
  | .ok l =>
    if l.space = 3 then if a.write then .bad .prot false else .ok l
    else if s.berthFree l then .bad .staleb false
    else .ok l

/-- An address of a window (R252, R387). The page table is never used for it. The bytes of a berth page that a mover has moved stand
where the mover has put them (R271, R361, R363; assumption 30). DEDUCED -/
def State.windowAt (s : State) (k p : Nat) (a : Acc) (va : Nat) : Xl :=
  match s.windowXl a (match s.shown k p va with | some l => .ok l | none => s.windowPlace p va) with
  | .ok l =>
    match if l.space = 0 then s.movedTo p va else none with
    | some m => .ok ⟨m.space, m.addr + va % 2 ^ 16⟩
    | none => .ok l
  | r => r

/-- A place in host memory or the second tier is reached while a host port is up; with both ports down its accesses fail
with XLATE (R390, R440). -/
def State.reach (s : State) (x : Xl) : Xl :=
  match x with
  | .ok l => if (l.space == 1 || l.space == 2) && s.ports.isEmpty then .bad .xlate false else x
  | _ => x

/-- A window of a partition holds an address (R387). -/
def Part.inWindow (p : Part) (va : Nat) : Bool := p.inBerths va || p.inWs va

/-- A virtual address of partition `p` is translated for an access of core `k` (R385 to R389). -/
def State.resolve (s : State) (k p : Nat) (a : Acc) (va : Nat) : Xl :=
  if 2 ^ 52 ≤ va then .bad .xlate false
  else if (s.shown k p va).isSome || (s.part p).inWindow va then s.windowAt k p a va
  else if k < 384 && !s.tlbHit k p va && !s.hbmServed then .wait
  else
    match s.lookup k p va with
    | .leaf w block => leafPlace w block a va
    | .invalid => .bad .xlate false
    | .malformed => .bad .xlate true

/-- The translation of a virtual address of partition `p` for an access of core `k` (R385 to R390). -/
def State.translateIn (s : State) (k p : Nat) (a : Acc) (va : Nat) : Xl := s.reach (s.resolve k p a va)

/-- The translation of a virtual address for core `k`'s task. -/
def State.translate (s : State) (k : Nat) (a : Acc) (va : Nat) : Xl := s.translateIn k (s.partOf k) a va

/-- The class of an effective address (R221). -/
inductive AddrClass where
  | virt (va : Nat)
  | scratch (off : Nat)
  | beyond
  | third
  deriving DecidableEq, Repr

/-- The class of an effective address; `beyond` is scratchpad space with bits 51:22 not 0. -/
def classOfAddr (ea : Word) : AddrClass :=
  if field ea 52 12 = 0 then .virt (field ea 0 52)
  else if field ea 52 12 = 0xFFF then if field ea 22 30 = 0 then .scratch (field ea 0 22) else .beyond
  else .third

/-- A range of bytes cut at 64-byte boundaries. -/
def pieces (a n : Nat) : List (Nat × Nat) :=
  (linesOf a n).map fun l => let lo := max a (64 * l); (lo, min (a + n) (64 * l + 64) - lo)

end Sys2Proof.Machine
end

