-- ==== Sys2Proof/Machine/Mem.lean ====
section
/-! DEFINITION. Reads and writes of memory by a core: what a load returns (R344 to R347, R352, R353), version lines,
forwarding and read sets (R293 to R297), and writes performed at device scope. -/

namespace Sys2Proof.Machine

open Sys2Proof

/-! ### Reads -/

/-- The byte of the latest of a list of stores that covers an address. -/
def postedByte (ps : List Posted) (space a : Nat) : Option Byte :=
  ps.foldl (fun r p =>
    if p.space = space ∧ p.addr ≤ a ∧ a < p.addr + p.data.length then p.data[a - p.addr]? else r) none

/-- A byte of a replicated page as core `k` sees it: its own update that its die has not applied yet, else its die's
replica (R344, R353). -/
def State.replicaByte (s : State) (k a : Nat) : Byte :=
  let mine := s.seqLog.foldl (fun r u =>
    if u.core = k ∧ u.dies.contains (dieOf k) ∧ u.addr ≤ a ∧ a < u.addr + u.data.length then u.data[a - u.addr]? else r)
    (none : Option Byte)
  match mine with
  | some b => b
  | none => s.hbm.byte (a + dieOf k * 2 ^ 16)

/-- A byte of memory as core `k` sees it: a store performed at core scope only, else memory (R344). -/
def State.coreByte (s : State) (k : Nat) (l : Loc) : Byte :=
  match postedByte (s.core k).posted l.space l.addr with
  | some b => b
  | none => if l.space = 5 then s.replicaByte k l.addr else (s.peek l.space l.addr 1).headD 0

/-- The version line of a task for a line (R293). -/
def State.vlineOf (s : State) (p task line : Nat) : Option VLine :=
  s.vlines.find? fun v => v.part == p && v.task == task && v.line == line

/-- A version line holds byte `i` of its line. -/
def VLine.holds (v : VLine) (i : Nat) : Bool := bitOf v.mask i

/-- Byte `i` of a version line. -/
def VLine.byte (v : VLine) (i : Nat) : Byte := BitVec.ofNat 8 (field v.data (8 * i) 8)

/-- The later of two tasks. -/
def Task.latest (a : Option Task) (b : Task) : Option Task :=
  match a with
  | none => some b
  | some x => if x.before b then some b else some x

/-- The version line that a byte is forwarded from: the task's own, else that of the latest earlier uncommitted task
that holds the byte (R294). -/
def State.source (s : State) (t : Task) (va : Nat) : Option VLine :=
  let holders := s.vlines.filter fun v => v.part == t.part && v.line == va / 64 && v.holds (va % 64)
  match holders.find? fun v => v.task == t.seq with
  | some v => some v
  | none =>
    let earlier := (holders.filterMap fun v => s.task? v.task).filter fun u => u.before t
    match earlier.foldl Task.latest none with
    | none => none
    | some u => holders.find? fun v => v.task == u.seq

/-- INFO of ECCU for a memory (R417). -/
def lostInfo : Nat → Nat
  | 0 => 1
  | 5 => 1
  | 3 => 3
  | _ => 2

/-- What a read of a piece of a line found. -/
structure Got where
  bytes : List Byte
  note  : Option ReadEnt
  lost  : Option Nat
  deriving DecidableEq, Repr

/-- ECC has lost the line of memory at a place. -/
def State.lostAt (s : State) (k : Nat) (l : Loc) (n : Nat) : Bool :=
  if l.space = 5 then s.lost 0 (l.addr + dieOf k * 2 ^ 16) n else s.lost l.space l.addr n

/-- ECC has lost memory bytes that core `k` would read there: those that none of its own stores, performed at core scope only, holds
(R344, R417). -/
def State.readsLost (s : State) (k : Nat) (l : Loc) (n : Nat) : Bool :=
  s.lostAt k l n && (List.range n).any fun i => (postedByte (s.core k).posted l.space (l.addr + i)).isNone

/-- Read `n` bytes of one line (R294, R295, R417). -/
def State.readPiece (s : State) (k : Nat) (l : Loc) (va n : Nat) : Got :=
  let plain : Got :=
    { bytes := (List.range n).map fun i => s.coreByte k ⟨l.space, l.addr + i⟩
      note := none
      lost := if s.readsLost k l n then some (lostInfo l.space) else none }
  match s.taskOf k with
  | none => plain
  | some t =>
    if !t.spec || l.space == 1 then plain
    else
      let srcs := (List.range n).map fun i => s.source t (va + i)
      let bytes := (srcs.zip (List.range n)).map fun p =>
        match p.1 with
        | some v => v.byte ((va + p.2) % 64)
        | none => s.coreByte k ⟨l.space, l.addr + p.2⟩
      let mem := srcs.any (·.isNone)
      let others := ((srcs.filterMap id).filter fun v => v.task != t.seq).map (·.task)
      { bytes := bytes
        note := if mem || !others.isEmpty then some ⟨va / 64, l.space, l.addr / 64, mem, others.eraseDups⟩ else none
        lost := if (srcs.filterMap id).any (·.bad) then some 8
          else if mem && s.readsLost k l n then some (lostInfo l.space) else none }

/-- The outcome of a read: bytes and the notes for the read set; a wait; or a fault. -/
inductive Rd where
  | ok (bytes : List Byte) (notes : List ReadEnt)
  | wait
  | bad (va : Nat) (cause : Cause) (malf : Bool)
  | lost (va info : Nat)
  deriving DecidableEq, Repr

/-- One read after another. -/
def Rd.append (a b : Rd) : Rd :=
  match a with
  | .ok x m =>
    match b with
    | .ok y n => .ok (x ++ y) (m ++ n)
    | r => r
  | r => r

/-- Read one piece at the place that its translation has given. The sequencer's HBM ports serve it in every slot (R430); a refresh
window of the Weight Store holds every reader back (R14). -/
def State.readAt (s : State) (k va n : Nat) : Xl → Rd
  | .wait => .wait
  | .bad c m => .bad va c m
  | .ok l =>
    if (decide (k < 384) || l.space == 3) && !s.portOpen l then .wait
    else
      let g := s.readPiece k l va n
      match g.lost with
      | some i => .lost va i
      | none => .ok g.bytes g.note.toList

/-- Read one piece. -/
def State.readOne (s : State) (k p : Nat) (a : Acc) (va n : Nat) : Rd := s.readAt k va n (s.translateIn k p a va)

/-- Read virtual bytes of a partition for core `k`. -/
def State.readIn (s : State) (k p : Nat) (a : Acc) (va n : Nat) : Rd :=
  (pieces va n).foldl (fun r e => r.append (s.readOne k p a e.1 e.2)) (.ok [] [])

/-- Read virtual bytes for core `k`'s task. -/
def State.readVirt (s : State) (k : Nat) (a : Acc) (va n : Nat) : Rd := s.readIn k (s.partOf k) a va n

/-- Read scratchpad bytes. -/
def State.readScratch (s : State) (k off n : Nat) : Rd :=
  if (s.core k).spLost off n then .lost off 5 else .ok ((s.core k).sp.bytes off n) []

/-- A read of a task enters its read set and records its dependences (R294, R295). -/
def State.note (s : State) (k : Nat) (ns : List ReadEnt) : State :=
  if ns.isEmpty then s
  else s.updTask (s.core k).task fun t =>
    { t with reads := (t.reads ++ ns).eraseDups, deps := (t.deps ++ ns.flatMap (·.srcs)).eraseDups }

/-! ### Writes at device scope -/

/-- A write of a replicated page goes to the sequencer (R353). -/
def State.sequence (s : State) (a : Nat) (bs : List Byte) (k : Nat) (x : Ctx) (wid p va : Nat) : State :=
  { s with seqLog := s.seqLog ++ [⟨a, bs, [0, 1, 2, 3, 4, 5], k, x, wid, p, va⟩] }

/-- The bytes of a replicated page after every update that the sequencer has ordered (R352, R353). -/
def State.sequenced (s : State) (a n : Nat) : List Byte :=
  (List.range n).map fun i =>
    s.seqLog.foldl (fun b u =>
      if u.dies.contains 0 ∧ u.addr ≤ a + i ∧ a + i < u.addr + u.data.length then u.data.getD (a + i - u.addr) b else b)
      (s.hbm.byte (a + i))

/-- The value at the port of a place (R352). -/
def State.portBytes (s : State) (l : Loc) (n : Nat) : List Byte :=
  if l.space = 5 then s.sequenced l.addr n else s.peek l.space l.addr n

/-- Die `d` applies the oldest update that it has not applied (R353); the write is one by an agent outside the
uncommitted tasks (R296). An update that every die has applied leaves the list, and with its last one a system word retires
(R369). -/
def State.replicaApply (s : State) (d : Nat) : State :=
  match s.seqLog.find? fun u => u.dies.contains d with
  | none => s
  | some u =>
    let log := (updFirst (fun (v : RepUpd) => v.dies.contains d) (fun v => { v with dies := v.dies.erase d }) s.seqLog).filter
      fun v => !v.dies.isEmpty
    let hit := (linesOf u.addr u.data.length).flatMap fun l => s.lineReaders (fun _ => true) (fun b => b.part == u.part) 5 l
    let t := (({ s with seqLog := log } : State).poke 0 (u.addr + d * 2 ^ 16) u.data).abortAll hit
    if u.core < 384 ∧ log.all (fun v => v.core != u.core || v.ctx != u.ctx || v.wid != u.wid) then t.unhold u.core u.ctx u.wid else t

/-- Every update of replicated pages is applied on every die. -/
def State.drainReplicas (s : State) : State :=
  (List.range s.seqLog.length).foldl (fun s _ => (List.range 6).foldl (fun s d => s.replicaApply d) s) s

/-- A write by core `k`'s task is performed in memory at device scope: later readers of its domain abort by R295, those
of other domains by R296. `own` is false where the bytes were version lines, whose readers R295 has dealt with. -/
def State.devWrite (s : State) (k : Nat) (x : Ctx) (wid : Nat) (own : Bool) (l : Loc) (va : Nat) (bs : List Byte) : State :=
  if l.space = 5 then s.sequence l.addr bs k x wid (s.partOf k) va
  else
    let inner := match s.taskOf k with
      | some t => if own && l.space != 1 then (linesOf va bs.length).flatMap fun n => s.conflicts t n else []
      | none => []
    let outer := (linesOf l.addr bs.length).flatMap fun n => s.outsideConflicts (some (s.partOf k)) l.space n
    (s.poke l.space l.addr bs).abortAll (inner ++ outer)

/-! ### Version lines -/

/-- Overwrite bytes of a line's data and mask. -/
def VLine.write (v : VLine) (off : Nat) (bs : List Byte) : VLine :=
  (bs.zip (List.range bs.length)).foldl (fun v p =>
    let i := off + p.2
    { v with
      data := (v.data &&& ~~~(BitVec.ofNat 512 (255 * 2 ^ (8 * i)))) ||| BitVec.ofNat 512 (p.1.toNat * 2 ^ (8 * i))
      mask := v.mask ||| BitVec.ofNat 64 (2 ^ i) }) v

/-- Lines of a range that the task holds no version line for. -/
def State.newLines (s : State) (t : Task) (va n : Nat) : List Nat :=
  (linesOf va n).filter fun l => (s.vlineOf t.part t.seq l).isNone

/-- The task may hold the version lines that a write needs (R297); a Version Buffer holds 2^20 lines (R456). -/
def State.vroom (s : State) (k : Nat) (t : Task) (va n : Nat) : Bool :=
  let new := (s.newLines t va n).length
  new == 0 ||
    (decide ((s.vlines.filter fun v => v.task == t.seq).length + new ≤ (s.part t.part).vbquota.toNat) &&
      decide ((s.vlines.filter fun v => v.die == dieOf k).length + new ≤ 2 ^ 20))

/-- Write bytes of one line into the task's version line, and abort the readers that R295 names. -/
def State.vput (s : State) (k : Nat) (t : Task) (va : Nat) (bs : List Byte) : State :=
  let line := va / 64
  let mine := fun (v : VLine) => v.part == t.part && v.task == t.seq && v.line == line
  let fresh : VLine := ⟨t.part, t.seq, line, 0, 0, dieOf k, false⟩
  let ls := if s.vlines.any mine then updFirst mine (fun v => v.write (va % 64) bs) s.vlines
    else s.vlines ++ [fresh.write (va % 64) bs]
  let s := { s with vlines := ls }
  s.abortAll (s.conflicts t line)

/-- The outcome of a write: done, a wait (a moving page, an older store of the core to the same bytes, a frontier or
quota wait), or a fault. -/
inductive Wr where
  | ok (s : State)
  | wait
  | bad (va : Nat) (cause : Cause) (malf : Bool)

/-- The places of the pieces of a range, or what stands in the way. -/
def State.places (s : State) (k p : Nat) (a : Acc) (va n : Nat) : Except Xl (List (Nat × Nat × Loc)) :=
  (pieces va n).foldl (fun r e =>
    match r with
    | .error x => .error x
    | .ok ls =>
      match s.translateIn k p a e.1 with
      | .ok l => .ok (ls ++ [(e.1, e.2, l)])
      | .wait => .error .wait
      | .bad c m => .error (.bad c m)) (.ok [])

/-- The address at which a range stops being translatable, for ADDR. -/
def State.badVa (s : State) (k p : Nat) (a : Acc) (va n : Nat) : Nat :=
  match (pieces va n).find? fun e => match s.translateIn k p a e.1 with | .ok _ => false | _ => true with
  | some e => e.1
  | none => va

/-- A store of the core performed at core scope only meets a range; a write of its engines there waits (R345, R350). -/
def CoreSt.postedMeets (c : CoreSt) (l : Loc) (n : Nat) : Bool :=
  c.posted.any fun p => p.space == l.space && meets p.addr p.data.length l.addr n

/-- A write by an engine of core `k` at the places of its pieces: a version line in a speculative task, else memory at device
scope (R229, R256, R292, R293). A write to host memory by a speculative task waits for the frontier (R300). -/
def State.engineWriteAt (s : State) (k : Nat) (x : Ctx) (wid va : Nat) (bs : List Byte) (ls : List (Nat × Nat × Loc)) : Wr :=
  let spec := match s.taskOf k with | some t => if t.spec then some t else none | none => none
  match spec with
  | some t =>
    if ls.any (fun e => e.2.2.space == 1) || !s.vroom k t va bs.length then .wait
    else .ok (ls.foldl (fun s e => s.vput k t e.1 ((bs.drop (e.1 - va)).take e.2.1)) s)
  | none =>
    if ls.any fun e => (s.core k).postedMeets e.2.2 e.2.1 || !s.portOpen e.2.2 then .wait
    else .ok (ls.foldl (fun s e => s.devWrite k x wid true e.2.2 e.1 ((bs.drop (e.1 - va)).take e.2.1)) s)

/-- A write by an engine of core `k`, translated as it is made. -/
def State.engineWrite (s : State) (k : Nat) (x : Ctx) (wid : Nat) (a : Acc) (va : Nat) (bs : List Byte) : Wr :=
  let p := s.partOf k
  match s.places k p a va bs.length with
  | .error .wait => .wait
  | .error (.bad c m) => .bad (s.badVa k p a va bs.length) c m
  | .error (.ok _) => .wait
  | .ok ls => s.engineWriteAt k x wid va bs ls

/-- Write the masked bytes of a version line to memory through a fresh translation (R292, R303, R397); the line stays
where it cannot be translated. -/
def State.flushLine (s : State) (k : Nat) (v : VLine) : State :=
  match s.translateIn k v.part ⟨true, false⟩ (64 * v.line) with
  | .ok l =>
    let s := if l.space = 5 then
        ((List.range 64).filter v.holds).foldl (fun s i =>
          (List.range 6).foldl (fun s d => s.poke 0 (l.addr + d * 2 ^ 16 + i) [v.byte i]) s) s.drainReplicas
      else ((List.range 64).filter v.holds).foldl (fun s i => s.poke l.space (l.addr + i) [v.byte i]) s
    let s := { s with vlines := s.vlines.filter fun w => !(w.part == v.part && w.task == v.task && w.line == v.line) }
    s.abortAll (s.outsideConflicts (some v.part) l.space (l.addr / 64))
  | _ => s

/-- Order of version lines by line address. -/
def insertLine (v : VLine) : List VLine → List VLine
  | [] => [v]
  | w :: r => if v.line ≤ w.line then v :: w :: r else w :: insertLine v r

/-- The version lines of a task in ascending line address. -/
def State.linesByAddress (s : State) (t : Task) : List VLine :=
  (s.vlines.filter fun v => v.part == t.part && v.task == t.seq).foldr insertLine []

/-- A task writes its version lines out (R292, R303 step 1), lines with lost data excepted (R417). -/
def State.flushTask (s : State) (t : Task) : State :=
  (s.linesByAddress t).foldl (fun s v => if v.bad then s else s.flushLine ((s.coresOf t.seq).headD sequencer) v) s

end Sys2Proof.Machine
end

