-- ==== Sys2Proof/Machine/Access.lean ====
section
/-! DEFINITION. The access words of L and S: loads, stores, VLD, MARK, FENCE, AMO, rings, message queues and berth names
(R221 to R226, R238 to R240, R242 to R248, R252, R253), and how their accesses are performed (R343 to R347, R391 to
R394). -/

namespace Sys2Proof.Machine

open Sys2Proof

/-! ### Issue -/

/-- Effective address: base plus a sign-extended displacement, modulo 2^64 (R225, R240). -/
def State.ea {n : Nat} (s : State) (xb : Reg) (imm : BitVec n) : Word := s.reg xb + sext imm

/-- PROT or STALEB that the translation finds as the word issues (R225, R394): of the first piece that is not reached. A
page that cannot be translated, or that moves, is met by the access unit later (R391, R395). -/
def State.pageTrap (s : State) (a : Acc) : List (Nat × Nat) → Option Trap
  | [] => none
  | (va, _) :: r =>
    match s.translate s.k a va with
    | .ok _ => s.pageTrap a r
    | .wait => none
    | .bad c m => if c = .xlate then none else some { cause := c, addr := w64 va, malf := m }

/-- The checks of an access at its word (R58, R221, R225, R394): alignment, class, scratchpad range, stream windows, and
what its translation finds at once. -/
def State.accTrap (s : State) (ea : Word) (n align : Nat) (write : Bool) : Option Trap :=
  if ea.toNat % align ≠ 0 then some { cause := .align, addr := ea }
  else
    match classOfAddr ea with
    | .third => some { cause := .xlate, addr := ea }
    | .beyond => some { cause := .sprng, addr := ea }
    | .scratch off =>
      if spSize < off + n then some { cause := .sprng, addr := ea }
      else if write && s.cur.meetsWindow off n then some { cause := .prot, addr := ea }
      else none
    | .virt va => s.pageTrap ⟨write, s.me.level == 0⟩ (pieces va n)

/-- What a read at an effective address finds. -/
def State.readEa (s : State) (k : Nat) (a : Acc) (ea : Word) (n : Nat) : Rd :=
  match classOfAddr ea with
  | .virt va => s.readVirt k a va n
  | .scratch off => s.readScratch k off n
  | .beyond => .bad ea.toNat .sprng false
  | .third => .bad ea.toNat .xlate false

/-- Earlier stores of an access queue hold every byte of a range, so that a load of it consumes nothing of memory (R346). -/
def coveredBy (ea : Word) (n : Nat) (before : List Access) : Bool :=
  (List.range n).all fun i => before.any fun b =>
    match b.op with
    | .store m _ => decide (b.ea.toNat ≤ ea.toNat + i) && decide (ea.toNat + i < b.ea.toNat + m)
    | _ => false

/-- ECCU of a load, VLD or AMO that would read bytes which ECC has lost, of class P at its word (R417): bytes that version lines or
earlier stores forward are not lost (R294, R346). Bytes lost after the word has issued are found by its access (assumption 63). -/
def State.lostTrap (s : State) (ea : Word) (n : Nat) : Option Trap :=
  match s.readEa s.k ⟨false, s.me.level == 0⟩ ea n with
  | .lost _ i => if coveredBy ea n s.me.accq then none else some { cause := .eccu, addr := ea, info := w64 i }
  | _ => none

/-- An address of the virtual class lies on a page of host memory. -/
def State.onHost (s : State) (k : Nat) (a : Acc) (ea : Word) : Bool :=
  match classOfAddr ea with
  | .virt va =>
    match s.translate k a va with
    | .ok l => l.space == 1
    | _ => false
  | _ => false

/-- The rights of the issuing context's accesses (R384): at kernel level, supervisor-only pages fault. -/
def CtxSt.acc (c : CtxSt) (write : Bool) : Acc := ⟨write, c.level == 0⟩

/-- An access enters the queue. -/
def State.enqueue (s : State) (wid : Nat) (op : AccOp) (ea : Word) : State :=
  s.updMe fun c => { c with accq := c.accq ++ [⟨wid, c.pc, s.wordAtPc, op, ea⟩] }

/-- A register awaits its value (R222); x0 never does. -/
def CtxSt.await (c : CtxSt) (x : Reg) : CtxSt := if x = 0 then c else { c with pend := c.pend ++ [x] }

/-- LDB, LDH, LDW, LDD. -/
def loadIssue (xd xb : Reg) (imm : BitVec 24) (n : Nat) : Issue :=
  { allowed := .ls
    uses := [xd, xb]
    check := fun s => s.accTrap (s.ea xb imm) n n false
    queue := true
    late := fun s => s.lostTrap (s.ea xb imm) n
    effect := fun wid s => (s.enqueue wid (.load xd n) (s.ea xb imm)).updMe fun c => c.await xd }

/-- Virtual lines that stores waiting in the access queues of a core will write. -/
def CoreSt.storeLines (c : CoreSt) : List Nat :=
  (c.cL.accq ++ c.cS.accq).flatMap fun a =>
    match a.op, classOfAddr a.ea with
    | .store n _, .virt va => linesOf va n
    | _, _ => []

/-- Version lines that the task will need once the stores that its cores have issued are performed (R297). -/
def State.owedLines (s : State) (t : Task) : List Nat :=
  ((s.coresOf t.seq).flatMap fun k => (s.core k).storeLines).eraseDups.filter fun l => (s.vlineOf t.part t.seq l).isNone

/-- A speculative task's store has room for the version lines it would need, beside those of the stores issued before
it (R297). -/
def State.quotaOk (s : State) (t : Task) (ea : Word) (n : Nat) : Bool :=
  match classOfAddr ea with
  | .virt va =>
    let owed := s.owedLines t
    let new := (s.newLines t va n).filter fun l => !owed.contains l
    new.isEmpty ||
      (decide ((s.vlines.filter fun v => v.task == t.seq).length + owed.length + new.length ≤ (s.part t.part).vbquota.toNat) &&
        decide ((s.vlines.filter fun v => v.die == dieOf s.k).length + owed.length + new.length ≤ 2 ^ 20))
  | _ => true

/-- A store of a speculative task waits for the frontier when it goes to host memory (R256, R300), or when it would need
a version line too many (R297). -/
def State.mayStore (s : State) (ea : Word) (n : Nat) : Bool :=
  match s.taskOf s.k with
  | some t => !t.spec || (!s.onHost s.k (s.me.acc true) ea && s.quotaOk t ea n)
  | none => true

/-- STB, STH, STW, STD. -/
def storeIssue (xs xb : Reg) (imm : BitVec 24) (n : Nat) : Issue :=
  { allowed := .ls
    uses := [xs, xb]
    check := fun s => s.accTrap (s.ea xb imm) n n true
    queue := true
    wait := fun s => .need (s.mayStore (s.ea xb imm) n)
    effect := fun wid s => s.enqueue wid (.store n (s.reg xs)) (s.ea xb imm) }

/-- LDB (R225). -/
def execLdb (c : Ctl) (xd xb : Reg) (imm : BitVec 24) (s : State) : Host.Outcome State Fault Refusal :=
  s.issue (.ldb c xd xb imm) (loadIssue xd xb imm 1)

/-- LDH (R225). -/
def execLdh (c : Ctl) (xd xb : Reg) (imm : BitVec 24) (s : State) : Host.Outcome State Fault Refusal :=
  s.issue (.ldh c xd xb imm) (loadIssue xd xb imm 2)

/-- LDW (R225). -/
def execLdw (c : Ctl) (xd xb : Reg) (imm : BitVec 24) (s : State) : Host.Outcome State Fault Refusal :=
  s.issue (.ldw c xd xb imm) (loadIssue xd xb imm 4)

/-- LDD (R225). -/
def execLdd (c : Ctl) (xd xb : Reg) (imm : BitVec 24) (s : State) : Host.Outcome State Fault Refusal :=
  s.issue (.ldd c xd xb imm) (loadIssue xd xb imm 8)

/-- STB (R225). -/
def execStb (c : Ctl) (xs xb : Reg) (imm : BitVec 24) (s : State) : Host.Outcome State Fault Refusal :=
  s.issue (.stb c xs xb imm) (storeIssue xs xb imm 1)

/-- STH (R225). -/
def execSth (c : Ctl) (xs xb : Reg) (imm : BitVec 24) (s : State) : Host.Outcome State Fault Refusal :=
  s.issue (.sth c xs xb imm) (storeIssue xs xb imm 2)

/-- STW (R225). -/
def execStw (c : Ctl) (xs xb : Reg) (imm : BitVec 24) (s : State) : Host.Outcome State Fault Refusal :=
  s.issue (.stw c xs xb imm) (storeIssue xs xb imm 4)

/-- STD (R225). -/
def execStd (c : Ctl) (xs xb : Reg) (imm : BitVec 24) (s : State) : Host.Outcome State Fault Refusal :=
  s.issue (.std c xs xb imm) (storeIssue xs xb imm 8)

/-- VLD (R226): its place in the queue is taken at issue. -/
def execVld (c : Ctl) (vq : QName) (xb : Reg) (imm : BitVec 24) (s : State) : Host.Outcome State Fault Refusal :=
  s.issue (.vld c vq xb imm)
    { allowed := .onlyL
      uses := [xb]
      check := fun s =>
        (if (s.cur.queue vq.toNat).kind ≠ 1 then some { cause := .illop } else none).or
          (s.accTrap (s.ea xb imm) 512 64 false)
      queue := true
      wait := fun s =>
        (.feed (decide ((s.cur.queue vq.toNat).els.length < (s.cur.queue vq.toNat).depth)))
      late := fun s => s.lostTrap (s.ea xb imm) 512
      effect := fun wid s =>
        (s.enqueue wid (.vld vq.toNat wid) (s.ea xb imm)).updCur fun k =>
          let q := k.queue vq.toNat
          k.setQueue vq.toNat { q with els := q.els ++ [⟨0, wid, false, false, none⟩] } }

/-- MARK (R238): the n-th MARK of an id. -/
def execMark (c : Ctl) (id : BitVec 8) (s : State) : Host.Outcome State Fault Refusal :=
  s.issue (.mark c id)
    { allowed := .ls
      queue := true
      effect := fun wid s =>
        let n := Sparse.get 0 s.me.marks id.toNat + 1
        (s.enqueue wid (.mark id.toNat n) 0).updMe fun c => { c with marks := Sparse.set 0 c.marks id.toNat n } }

/-- FENCE (R239). -/
def execFence (c : Ctl) (e : Bool) (scope : BitVec 2) (s : State) : Host.Outcome State Fault Refusal :=
  s.issue (.fence c e scope)
    { allowed := .ls
      queue := true
      effect := fun wid s => s.enqueue wid (.fence scope.toNat e) 0 }

/-- The effective address is virtual. -/
def isVirt (ea : Word) : Bool := field ea 52 12 == 0

/-- The operations that a host or second-tier page takes (R240). -/
def amoRemote : AmoOp → Bool
  | .swap | .add | .cas => true
  | _ => false

/-- PROT of an operation that pages of host memory and of the second tier do not allow (R240). -/
def State.amoTrap (s : State) (op : AmoOp) (ea : Word) : Option Trap :=
  match classOfAddr ea with
  | .virt va =>
    match s.translate s.k (s.me.acc true) va with
    | .ok l => if (l.space == 1 || l.space == 2) && !amoRemote op then some { cause := .prot, addr := ea } else none
    | _ => none
  | _ => none

/-- AMO (R240); to a virtual address it is irrevocable (R256). -/
def execAmo (c : Ctl) (op : AmoOp) (dbl : Bool) (xd xa xb : Reg) (imm : BitVec 16) (s : State) :
    Host.Outcome State Fault Refusal :=
  s.issue (.amo c op dbl xd xa xb imm)
    { allowed := .ls
      uses := [xd, xa, xb]
      check := fun s =>
        (s.accTrap (s.ea xa imm) (if dbl then 8 else 4) (if dbl then 8 else 4) true).or (s.amoTrap op (s.ea xa imm))
      queue := true
      wait := fun s => .need (!(s.isSpec s.k && isVirt (s.ea xa imm)))
      late := fun s => s.lostTrap (s.ea xa imm) (if dbl then 8 else 4)
      effect := fun wid s =>
        (s.enqueue wid (.amo op dbl xd (s.reg xb) (s.reg xd)) (s.ea xa imm)).updMe fun c => c.await xd }

/-! ### Rings (R242 to R244) -/

/-- The configuration word of a ring or message queue (R242, R245). -/
def ringOf (w : Word) : Ring :=
  { base := field w 0 22, size := 64 * (field w 22 10 + 1), slots := field w 32 8 + 1
    prod := if bitOf w 40 then .S else .L, cons := if bitOf w 41 then .S else .L
    st := [], claim := 0, fill := 0, take := 0, free := 0 }

/-- The faults of a configuration (R242): `keep` is the ring that stands there. -/
def CoreSt.ringTrap (c : CoreSt) (w : Word) (reserved : Nat) (keep : Option Ring) : Option Trap :=
  let r := ringOf w
  if field w reserved (64 - reserved) ≠ 0 ∨ r.base % 64 ≠ 0 then some { cause := .illop }
  else if keep.any fun q => !q.st.isEmpty then some { cause := .illop }
  else if spSize < r.base + r.size * r.slots then some { cause := .sprng, addr := w64 r.base }
  else if c.meetsWindow r.base (r.size * r.slots) then some { cause := .prot, addr := w64 r.base }
  else none

/-- A ring. -/
def CoreSt.ring (c : CoreSt) (n : Nat) : Option Ring := Sparse.find c.rings n

/-- A message queue. -/
def CoreSt.mq (c : CoreSt) (n : Nat) : Option Ring := Sparse.find c.mqs n

/-- The state of slot `i` in order: slots come round. -/
def Ring.slot (r : Ring) (i : Nat) : SlotSt := Sparse.get .empty r.st (i % r.slots)

/-- Set the state of slot `i` in order. -/
def Ring.setSlot (r : Ring) (i : Nat) (v : SlotSt) : Ring := { r with st := Sparse.set .empty r.st (i % r.slots) v }

/-- Slots in a state other than EMPTY. -/
def Ring.count (r : Ring) (v : SlotSt) : Nat := (r.st.filter fun e => e.2 == v).length

/-- EMPTY slots. -/
def Ring.empties (r : Ring) : Nat := r.slots - r.st.length

/-- The effective address of slot `i` in order. -/
def Ring.slotEa (r : Ring) (i : Nat) : Word := w64 (spBase + r.base + i % r.slots * r.size)

/-- The ring stands in configuration and the issuing context is on the given side (R243). -/
def State.sideTrap (s : State) (r : Option Ring) (producer : Bool) : Option Trap :=
  match r with
  | none => some { cause := .illop }
  | some r => if s.who.ctx = (if producer then r.prod else r.cons) then none else some { cause := .ctxop }

/-- A condition on a ring that stands in configuration; true when there is none. -/
def ringIs (r : Option Ring) (p : Ring → Bool) : Bool :=
  match r with
  | some r => p r
  | none => true

/-- Change a ring. -/
def CoreSt.updRing (c : CoreSt) (n : Nat) (f : Ring → Ring) : CoreSt :=
  match c.ring n with
  | some r => { c with rings := Sparse.put c.rings n (f r) }
  | none => c

/-- Change a message queue. -/
def CoreSt.updMq (c : CoreSt) (n : Nat) (f : Ring → Ring) : CoreSt :=
  match c.mq n with
  | some r => { c with mqs := Sparse.put c.mqs n (f r) }
  | none => c

/-- A register receives a value computed from a ring; the entries of ring words state no latency, and 1 is taken
(assumption 24). DEDUCED -/
def State.ringResult (s : State) (wid : Nat) (xd : Reg) (r : Option Ring) (f : Ring → Word) : State :=
  match r with
  | some r => s.result wid 1 xd (f r)
  | none => s

/-- RCLAIM.CFG (R242). -/
def execRclaimCfg (c : Ctl) (ring : BitVec 4) (xa : Reg) (s : State) : Host.Outcome State Fault Refusal :=
  s.issue (.rclaimCfg c ring xa)
    { allowed := .ls
      uses := [xa]
      check := fun s => s.cur.ringTrap (s.reg xa) 42 (s.cur.ring ring.toNat)
      effect := fun _ s => s.updCur fun k => { k with rings := Sparse.put k.rings ring.toNat (ringOf (s.reg xa)) } }

/-- RCLAIM (R243). -/
def execRclaim (c : Ctl) (xd : Reg) (ring : BitVec 4) (s : State) : Host.Outcome State Fault Refusal :=
  s.issue (.rclaim c xd ring)
    { allowed := .ls
      uses := [xd]
      check := fun s => s.sideTrap (s.cur.ring ring.toNat) true
      wait := fun s => .need (ringIs (s.cur.ring ring.toNat) fun r => r.slot r.claim == .empty)
      effect := fun wid s =>
        (s.ringResult wid xd (s.cur.ring ring.toNat) fun r => r.slotEa r.claim).updCur fun k =>
          k.updRing ring.toNat fun r => { r.setSlot r.claim .claimed with claim := r.claim + 1 } }

/-- RFILL (R243, R244): the slot becomes FULL when the context's earlier stores are performed at core scope. -/
def execRfill (c : Ctl) (ring : BitVec 4) (s : State) : Host.Outcome State Fault Refusal :=
  s.issue (.rfill c ring)
    { allowed := .ls
      check := fun s =>
        (s.sideTrap (s.cur.ring ring.toNat) true).or
          (if ringIs (s.cur.ring ring.toNat) fun r => decide (r.fill < r.claim) then none else some { cause := .illop })
      queue := true
      effect := fun wid s =>
        (s.enqueue wid (.rfill ring.toNat) 0).updCur fun k => k.updRing ring.toNat fun r => { r with fill := r.fill + 1 } }

/-- RWAITF (R243). -/
def execRwaitf (c : Ctl) (xd : Reg) (ring : BitVec 4) (n : BitVec 16) (s : State) : Host.Outcome State Fault Refusal :=
  s.issue (.rwaitf c xd ring n)
    { allowed := .ls
      uses := [xd]
      check := fun s =>
        (s.sideTrap (s.cur.ring ring.toNat) false).or
          (if ringIs (s.cur.ring ring.toNat) fun r => decide (n.toNat ≤ r.slots) then none else some { cause := .illop })
      wait := fun s => .need (ringIs (s.cur.ring ring.toNat) fun r => decide (n.toNat ≤ r.count .full))
      effect := fun wid s => s.ringResult wid xd (s.cur.ring ring.toNat) fun r => w64 (r.count .full) }

/-- RWAITE (R243). -/
def execRwaite (c : Ctl) (xd : Reg) (ring : BitVec 4) (n : BitVec 16) (s : State) : Host.Outcome State Fault Refusal :=
  s.issue (.rwaite c xd ring n)
    { allowed := .ls
      uses := [xd]
      check := fun s =>
        (s.sideTrap (s.cur.ring ring.toNat) true).or
          (if ringIs (s.cur.ring ring.toNat) fun r => decide (n.toNat ≤ r.slots) then none else some { cause := .illop })
      wait := fun s => .need (ringIs (s.cur.ring ring.toNat) fun r => decide (n.toNat ≤ r.empties))
      effect := fun wid s => s.ringResult wid xd (s.cur.ring ring.toNat) fun r => w64 r.empties }

/-- RTAKE (R243). -/
def execRtake (c : Ctl) (xd : Reg) (ring : BitVec 4) (s : State) : Host.Outcome State Fault Refusal :=
  s.issue (.rtake c xd ring)
    { allowed := .ls
      uses := [xd]
      check := fun s => s.sideTrap (s.cur.ring ring.toNat) false
      wait := fun s => .need (ringIs (s.cur.ring ring.toNat) fun r => r.slot r.take == .full)
      effect := fun wid s =>
        (s.ringResult wid xd (s.cur.ring ring.toNat) fun r => r.slotEa r.take).updCur fun k =>
          k.updRing ring.toNat fun r => { r.setSlot r.take .taken with take := r.take + 1 } }

/-- RFREE (R243, R244): the slot becomes EMPTY when the context's earlier loads are performed. -/
def execRfree (c : Ctl) (ring : BitVec 4) (s : State) : Host.Outcome State Fault Refusal :=
  s.issue (.rfree c ring)
    { allowed := .ls
      check := fun s =>
        (s.sideTrap (s.cur.ring ring.toNat) false).or
          (if ringIs (s.cur.ring ring.toNat) fun r => decide (r.free < r.take) then none else some { cause := .illop })
      queue := true
      effect := fun wid s =>
        (s.enqueue wid (.rfree ring.toNat) 0).updCur fun k => k.updRing ring.toNat fun r => { r with free := r.free + 1 } }

/-! ### Message queues (R245) -/

/-- A word on a message queue: configured, and issued by the receiving context. -/
def State.mqTrap (s : State) (mq : BitVec 2) : Option Trap := s.sideTrap (s.cur.mq mq.toNat) false

/-- MRECV.CFG (R245): the receiving context is the configuring one. -/
def execMrecvCfg (c : Ctl) (mq : BitVec 2) (xa : Reg) (s : State) : Host.Outcome State Fault Refusal :=
  s.issue (.mrecvCfg c mq xa)
    { allowed := .ls
      uses := [xa]
      check := fun s => s.cur.ringTrap (s.reg xa) 40 (s.cur.mq mq.toNat)
      effect := fun _ s => s.updCur fun k =>
        { k with mqs := Sparse.put k.mqs mq.toNat { ringOf (s.reg xa) with prod := s.who.ctx, cons := s.who.ctx } } }

/-- The effect of taking the oldest FULL slot. -/
def State.mqTake (s : State) (wid : Nat) (xd : Reg) (mq : BitVec 2) : State :=
  (s.ringResult wid xd (s.cur.mq mq.toNat) fun r => r.slotEa r.take).updCur fun k =>
    k.updMq mq.toNat fun r => { r.setSlot r.take .taken with take := r.take + 1 }

/-- The oldest untaken slot is FULL. -/
def State.mqReady (s : State) (mq : BitVec 2) : Bool := ringIs (s.cur.mq mq.toNat) fun r => r.slot r.take == .full

/-- MRECV (R245). -/
def execMrecv (c : Ctl) (xd : Reg) (mq : BitVec 2) (s : State) : Host.Outcome State Fault Refusal :=
  s.issue (.mrecv c xd mq)
    { allowed := .ls
      uses := [xd]
      check := fun s => s.mqTrap mq
      wait := fun s => .need (s.mqReady mq)
      effect := fun wid s => s.mqTake wid xd mq }

/-- MRECV.NB (R245). -/
def execMrecvNb (c : Ctl) (xd : Reg) (mq : BitVec 2) (s : State) : Host.Outcome State Fault Refusal :=
  s.issue (.mrecvNb c xd mq)
    { allowed := .ls
      uses := [xd]
      check := fun s => s.mqTrap mq
      effect := fun wid s => if s.mqReady mq then s.mqTake wid xd mq else s.result wid 1 xd (BitVec.allOnes 64) }

/-- MQCRED (R245): slots are freed when the context's earlier loads are performed (R357). -/
def execMqcred (c : Ctl) (mq : BitVec 2) (n : BitVec 16) (s : State) : Host.Outcome State Fault Refusal :=
  s.issue (.mqcred c mq n)
    { allowed := .ls
      check := fun s =>
        (s.mqTrap mq).or
          (if ringIs (s.cur.mq mq.toNat) fun r => decide (r.free + n.toNat ≤ r.take) then none else some { cause := .illop })
      queue := true
      effect := fun wid s =>
        (s.enqueue wid (.mqcred mq.toNat n.toNat) 0).updCur fun k =>
          k.updMq mq.toNat fun r => { r with free := r.free + n.toNat } }

/-! ### Berth names (R248, R252, R253) -/

/-- The check of a name at issue, as a trap. -/
def State.nameTrap (s : State) (w : Word) : Option Trap :=
  match s.checkBerth (s.partOf s.k) w with
  | .error t => some t
  | .ok _ => none

/-- The offset of BADDR within the named run, an exact sum (R5, R252). -/
def baddrOff (s : State) (xb : Reg) (imm : BitVec 16) : Nat := (s.reg xb).toNat + imm.toNat

/-- BADDR (R252); without a berth window it faults PROT (R387). -/
def execBaddr (c : Ctl) (xd xa xb : Reg) (imm : BitVec 16) (s : State) : Host.Outcome State Fault Refusal :=
  s.issue (.baddr c xd xa xb imm)
    { allowed := .ls
      uses := [xd, xa, xb]
      check := fun s =>
        (s.nameTrap (s.reg xa)).or
          (if (field (s.reg xa) 8 16 + 1) * 4096 ≤ baddrOff s xb imm ∨ (s.part (s.partOf s.k)).reg 8 = 0 then
            some { cause := .prot, addr := s.reg xa } else none)
      effect := fun _ s =>
        let w := s.reg xa
        let va := ((s.part (s.partOf s.k)).reg 8).toNat + (field w 53 3 * 2 ^ 24 + field w 24 24) * 4096 + baddrOff s xb imm
        s.updMe fun c => c.setReg xd (w64 va) }

/-- BSHARE (R253): immediate, undone at abort (R256). -/
def execBshare (c : Ctl) (xa : Reg) (s : State) : Host.Outcome State Fault Refusal :=
  s.issue (.bshare c xa)
    { allowed := .ls
      uses := [xa]
      check := fun s =>
        match s.checkBerth (s.partOf s.k) (s.reg xa) with
        | .error t => some t
        | .ok b =>
          if (List.range b.count).any fun i => decide (65535 ≤ (s.gran b.stack (s.granule b i)).share) then
            some { cause := .bpool, addr := s.reg xa } else none
      effect := fun _ s =>
        let w := s.reg xa
        let s := s.shareName w
        if s.isSpec s.k then s.updTask s.cur.task fun t => { t with shares := t.shares ++ [w] } else s }

/-- RLQ (R253): it takes effect in its place in the access queue. -/
def execRlq (c : Ctl) (xa : Reg) (s : State) : Host.Outcome State Fault Refusal :=
  s.issue (.rlq c xa)
    { allowed := .ls
      uses := [xa]
      check := fun s => s.nameTrap (s.reg xa)
      queue := true
      effect := fun wid s => s.enqueue wid (.rlq (s.reg xa)) 0 }

/-! ### Accesses performed (R343 to R347) -/

/-- An access reads memory. -/
def AccOp.isLoad : AccOp → Bool
  | .load _ _ | .vld _ _ | .amo _ _ _ _ _ => true
  | _ => false

/-- An access writes memory. -/
def AccOp.isStore : AccOp → Bool
  | .store _ _ | .amo _ _ _ _ _ => true
  | _ => false

/-- Bytes that an access moves. -/
def AccOp.size : AccOp → Nat
  | .load _ n => n
  | .vld _ _ => 512
  | .store n _ => n
  | .amo _ dbl _ _ _ => if dbl then 8 else 4
  | _ => 0

/-- The halted access and every later one are not performed (R391). -/
def CtxSt.passesHalt (c : CtxSt) (a : Access) : Bool :=
  match c.accHalt with
  | some h => decide (a.wid < h.wid)
  | none => true

/-- The accesses before an access in its queue. -/
def CtxSt.before (c : CtxSt) (a : Access) : List Access := c.accq.takeWhile fun b => b.wid != a.wid

/-- Two accesses touch a common byte by their effective addresses. -/
def Access.meets (a b : Access) : Bool := Machine.meets a.ea.toNat a.op.size b.ea.toNat b.op.size

/-- Two virtual accesses touch a common byte of memory through different addresses. -/
def State.aliases (s : State) (k : Nat) (a b : Access) : Bool :=
  match classOfAddr a.ea, classOfAddr b.ea with
  | .virt x, .virt y =>
    (pieces x a.op.size).any fun p => (pieces y b.op.size).any fun q =>
      match s.translate k ⟨false, false⟩ p.1, s.translate k ⟨false, false⟩ q.1 with
      | .ok l, .ok m => l.space == m.space && Machine.meets l.addr p.2 m.addr q.2
      | _, _ => false
  | _, _ => false

/-- A load may be performed now: no earlier load, AMO, FENCE, or unpaired MARK of L stands before it, and no earlier
store reaches its bytes under another address (R238, R239, R346). -/
def State.loadReady (s : State) (k : Nat) (x : Ctx) (a : Access) : Bool :=
  let c := s.ctxOf k x
  let isAmo := match a.op with | .amo _ _ _ _ _ => true | _ => false
  c.passesHalt a && (c.before a).all fun b =>
    match b.op with
    | .fence _ _ => false
    | .mark _ _ => x != .L
    | .store _ _ => !isAmo && (a.meets b || !s.aliases k a b)
    | o => !o.isLoad

/-- A store may be performed at core scope now: stores go in program order, behind every FENCE, and not before an
earlier load of the same bytes (R239, R346; assumption 25). -/
def State.storeReady (s : State) (k : Nat) (x : Ctx) (a : Access) : Bool :=
  let c := s.ctxOf k x
  c.passesHalt a && (c.before a).all fun b =>
    match b.op with
    | .fence _ _ => false
    | o => !o.isStore && !(o.isLoad && (a.meets b || s.aliases k a b))

/-- An access leaves its queue. -/
def CtxSt.dropAccess (c : CtxSt) (wid : Nat) : CtxSt := { c with accq := delFirst (fun a => a.wid == wid) c.accq }

/-- Bytes of earlier stores of the context that are not performed yet replace what a load found (R346). -/
def overlayStores (bs : List Byte) (a : Access) (before : List Access) : List Byte :=
  (bs.zip (List.range bs.length)).map fun p =>
    before.foldl (fun v b =>
      match b.op with
      | .store n w =>
        let at' := a.ea.toNat + p.2
        if b.ea.toNat ≤ at' ∧ at' < b.ea.toNat + n then BitVec.ofNat 8 (field w (8 * (at' - b.ea.toNat)) 8) else v
      | _ => v) p.1

/-- An access halts at a page that needs service (R391). -/
def State.haltAccess (s : State) (k : Nat) (x : Ctx) (a : Access) (va : Nat) (malf : Bool) (failed : Option Cause) : State :=
  s.updCtx k x fun c => { c with accHalt := some ⟨a.wid, va, malf, failed⟩ }

/-- An access has failed: its queue halts and the cause is attached (R393, R394). -/
def State.failAccess (s : State) (k : Nat) (x : Ctx) (a : Access) (t : Trap) : State :=
  (s.haltAccess k x a t.addr.toNat t.malf (some t.cause)).attach k x t false a.pos a.word

/-- A fault found in translation: XLATE waits for service, every other cause fails the access (R391, R394). -/
def State.badAccess (s : State) (k : Nat) (x : Ctx) (a : Access) (va : Nat) (c : Cause) (malf : Bool) : State :=
  if c = .xlate then s.haltAccess k x a va malf none
  else s.failAccess k x a { cause := c, addr := a.ea, malf := malf }

/-- A register receives the value that it awaited (R222). -/
def CtxSt.arrive (c : CtxSt) (xd : Reg) (v : Word) : CtxSt := { c.setReg xd v with pend := c.pend.erase xd }

/-- The bytes of a load arrive. -/
def State.finishLoad (s : State) (k : Nat) (x : Ctx) (a : Access) (bs : List Byte) : State :=
  let s := s.updCtx k x fun c => c.dropAccess a.wid
  match a.op with
  | .load xd _ => s.updCtx k x fun c => c.arrive xd (w64 (bytesToNat bs))
  | .vld q id => s.updCore k fun c =>
      let v := c.queue q
      c.setQueue q { v with els := v.els.map fun e => if e.id = id then { e with e := elemOfBytes bs, landed := true } else e }
  | _ => s

/-- The new memory value of an AMO (R240); `w` bits. -/
def amoNew (op : AmoOp) (w m b old : Nat) : Nat :=
  match op with
  | .swap => b
  | .add => (m + b) % 2 ^ w
  | .and => m &&& b
  | .or => m ||| b
  | .xor => m ^^^ b
  | .min => if signedNat w b < signedNat w m then b else m
  | .max => if signedNat w m < signedNat w b then b else m
  | .minu => if b < m then b else m
  | .maxu => if m < b then b else m
  | .cas => if m = old then b else m

/-- The indivisible step of an AMO (R240): from the value at the port to the new value there and the old one in xd. -/
def State.doAmo (s : State) (k : Nat) (x : Ctx) (a : Access) (op : AmoOp) (dbl : Bool) (xd : Reg) (b old : Word) : State :=
  let n := if dbl then 8 else 4
  let new := fun (m : Nat) => leBytes n (amoNew op (8 * n) m (b.toNat % 2 ^ (8 * n)) (old.toNat % 2 ^ (8 * n)))
  let done := fun (s : State) (m : Nat) => s.updCtx k x fun c => (c.dropAccess a.wid).arrive xd (w64 m)
  match classOfAddr a.ea with
  | .scratch off =>
    if (s.core k).spLost off n then s.failAccess k x a { cause := .eccu, addr := a.ea, info := 5 }
    else
      let m := (s.core k).sp.num off n
      done (s.updCore k fun c => { c with sp := c.sp.setBytes off (new m) }) m
  | .virt va =>
    match s.translate k ((s.ctxOf k x).acc true) va with
    | .wait => s
    | .bad c malf => s.badAccess k x a va c malf
    | .ok l =>
      if (l.space = 1 ∨ l.space = 2) ∧ !amoRemote op then s.failAccess k x a { cause := .prot, addr := a.ea }
      else if s.lostAt k l n then s.failAccess k x a { cause := .eccu, addr := a.ea, info := w64 (lostInfo l.space) }
      else if (s.core k).postedMeets l n || s.isSpec k || !s.portOpen l then s
      else
        let m := bytesToNat (s.portBytes l n)
        done (s.devWrite k x a.wid true l va (new m)) m
  | _ => s

/-- Perform a load, VLD or AMO (R344). -/
def State.doLoad (s : State) (k : Nat) (x : Ctx) (a : Access) : State :=
  match a.op with
  | .amo op dbl xd b old => s.doAmo k x a op dbl xd b old
  | _ =>
    match s.readEa k ((s.ctxOf k x).acc false) a.ea a.op.size with
    | .wait => s
    | .bad va c malf => s.badAccess k x a va c malf
    | .lost _ i =>
      let before := (s.ctxOf k x).before a
      if coveredBy a.ea a.op.size before then
        s.finishLoad k x a (overlayStores (List.replicate a.op.size 0) a before)
      else s.failAccess k x a { cause := .eccu, addr := a.ea, info := w64 i }
    | .ok bs notes => (s.note k notes).finishLoad k x a (overlayStores bs a ((s.ctxOf k x).before a))

/-- LOAD_COMPLETE (R222, R346): the oldest load, VLD or AMO of the context's queue is performed. -/
def execLoadComplete (k : Nat) (ctx : Ctx) (s : State) : Host.Outcome State Fault Refusal :=
  if 384 ≤ k then .fault .noSuchCore
  else
    match (s.ctxOf k ctx).accq.find? fun a => a.op.isLoad with
    | some a => if s.loadReady k ctx a then .next (s.doLoad k ctx a) else .next s
    | none => .next s

/-- The oldest store is performed at core scope (R343, R346): in scratchpad, in a version line, or in the access unit. -/
def State.doStore (s : State) (k : Nat) (x : Ctx) (a : Access) (n : Nat) (v : Word) : State :=
  let bs := leBytes n v.toNat
  let done := fun (s : State) => s.updCtx k x fun c => c.dropAccess a.wid
  match classOfAddr a.ea with
  | .scratch off => done (s.updCore k fun c => { c with sp := c.sp.setBytes off bs })
  | .virt va =>
    match s.translate k ((s.ctxOf k x).acc true) va with
    | .wait => s
    | .bad c malf => s.badAccess k x a va c malf
    | .ok l =>
      match s.taskOf k with
      | some t =>
        if t.spec then
          if l.space = 1 || !s.vroom k t va n then s else (done s).vput k t va bs
        else done (s.updCore k fun c => { c with posted := c.posted ++ [⟨x, a.wid, l.space, l.addr, va, bs⟩] })
      | none => done (s.updCore k fun c => { c with posted := c.posted ++ [⟨x, a.wid, l.space, l.addr, va, bs⟩] })
  | _ => s

/-- A store performed at core scope is performed at device scope, behind older stores to the same bytes (R344 to
R346). -/
def State.doPosted (s : State) (k n : Nat) : State :=
  match (s.core k).posted[n]? with
  | none => s
  | some p =>
    if !s.portOpen ⟨p.space, p.addr⟩ ||
        ((s.core k).posted.take n).any fun q => q.space == p.space && meets q.addr q.data.length p.addr p.data.length then s
    else
      (s.updCore k fun c => { c with posted := c.posted.eraseIdx n }).devWrite k p.ctx p.wid true ⟨p.space, p.addr⟩ p.va
        p.data

/-- POSTED_STORE_PERFORMED (R343, R344, R353): number 0 is the oldest store of the context's queue, which is performed
at core scope; number n + 1 the n-th of the core's stores performed at core scope only; past them, die `die` applies its
next update of a replicated page. -/
def execPostedStorePerformed (k : Nat) (ctx : Ctx) (idx die : Nat) (s : State) : Host.Outcome State Fault Refusal :=
  if 384 ≤ k then .fault .noSuchCore
  else
    match idx with
    | 0 =>
      match (s.ctxOf k ctx).accq.find? fun a => match a.op with | .store _ _ => true | _ => false with
      | some a =>
        match a.op with
        | .store n v => if s.storeReady k ctx a then .next (s.doStore k ctx a n v) else .next s
        | _ => .next s
      | none => .next s
    | n + 1 => if n < (s.core k).posted.length then .next (s.doPosted k n) else .next (s.replicaApply die)

/-! ### MARK, FENCE, rings, RLQ in their place of the queue -/

/-- No store of the queue stands before an access. -/
def CtxSt.storesDone (c : CtxSt) (a : Access) : Bool := (c.before a).all fun b => !b.op.isStore

/-- No load of the queue stands before an access. -/
def CtxSt.loadsDone (c : CtxSt) (a : Access) : Bool := (c.before a).all fun b => !b.op.isLoad

/-- Stores before a FENCE are performed at its scope (R239, R343). -/
def State.fenceDone (s : State) (k : Nat) (x : Ctx) (wid scope : Nat) : Bool :=
  scope == 0 ||
    ((s.core k).posted.all (fun p => p.ctx != x || decide (wid < p.wid)) &&
      s.seqLog.all fun u => u.core != k || u.ctx != x || decide (wid < u.wid) || (scope == 1 && !u.dies.contains (dieOf k)))

/-- Every engine command that the context issued before a word has completed. -/
def CoreSt.enginesDone (c : CoreSt) (x : Ctx) (wid : Nat) : Bool :=
  (c.ctx x).engq.all (fun e => decide (wid < e.id)) && c.ferry.all fun e => e.ctx != x || decide (wid < e.id)

/-- An STN that has returned a name has not completed (R253). -/
def State.stnOpen (s : State) (w : Word) : Bool :=
  s.cores.any fun c => (c.2.cL.engq ++ c.2.cS.engq).any fun e =>
    match e.op with | .stn _ => decide (4 ≤ e.stage) && e.name == w | _ => false

/-- An access goes through the berth window of the core's partition. -/
def State.berthAccess (s : State) (k : Nat) (ea : Word) : Bool :=
  match classOfAddr ea with
  | .virt va => (s.part (s.partOf k)).inBerths va
  | _ => false

/-- An entry of the queue that is no load and no store may take its effect (R238, R239, R244, R253). -/
def State.entryReady (s : State) (k : Nat) (x : Ctx) (a : Access) : Bool :=
  let c := s.ctxOf k x
  c.passesHalt a &&
    match a.op with
    | .mark id n =>
      if x = .L then decide (n ≤ Sparse.get 0 (s.ctxOf k .S).marked id) else c.storesDone a
    | .fence scope e => c.storesDone a && s.fenceDone k x a.wid scope && (!e || (s.core k).enginesDone x a.wid)
    | .rfill _ => c.storesDone a
    | .rfree _ | .mqcred _ _ => c.loadsDone a
    | .rlq w => !s.stnOpen w &&
      (c.before a).all (fun b => !((b.op.isLoad || b.op.isStore) && s.berthAccess k b.ea)) &&
        (s.core k).posted.all (fun p => p.ctx != x || decide (a.wid < p.wid) || !(s.part (s.partOf k)).inBerths p.va) &&
        (s.core k).enginesDone x a.wid
    | _ => false

/-- How many entries of a kind are still to take effect. -/
def CtxSt.still (c : CtxSt) (p : AccOp → Nat) : Nat := (c.accq.map fun a => p a.op).sum

/-- The effect of such an entry, once it has left the queue. -/
def State.entryEffect (s : State) (k : Nat) (x : Ctx) (op : AccOp) : State :=
  let c := s.ctxOf k x
  match op with
  | .mark id n => s.updCtx k x fun c => { c with marked := Sparse.set 0 c.marked id n }
  | .rfill g =>
    let later := c.still fun o => match o with | .rfill h => if h = g then 1 else 0 | _ => 0
    s.updCore k fun c => c.updRing g fun r => r.setSlot (r.fill - later - 1) .full
  | .rfree g =>
    let later := c.still fun o => match o with | .rfree h => if h = g then 1 else 0 | _ => 0
    s.updCore k fun c => c.updRing g fun r => r.setSlot (r.free - later - 1) .empty
  | .mqcred g n =>
    let later := c.still fun o => match o with | .mqcred h m => if h = g then m else 0 | _ => 0
    s.updCore k fun c => c.updMq g fun r =>
      (List.range n).foldl (fun r i => r.setSlot (r.free - later - n + i) .empty) r
  | .rlq w =>
    match s.taskOf k with
    | some t => if t.prov then s.setTask { t with rlqs := t.rlqs ++ [(3 * k + x.code, w)] } else s.relinquish w
    | none => s.relinquish w
  | _ => s

/-- An entry that is no load and no store takes its effect. -/
def State.accessStep (s : State) (k : Nat) (x : Ctx) : State :=
  match (s.ctxOf k x).accq.find? fun a => s.entryReady k x a with
  | some a => (s.updCtx k x fun c => c.dropAccess a.wid).entryEffect k x a.op
  | none => s

end Sys2Proof.Machine
end

