-- ==== Sys2Proof/Machine/Lanes.lean ====
section
/-! DEFINITION. What the vector words compute: lanes of a type, elementwise results with their flags, conversions,
reductions, scans, sorting and selection (R166 to R184). -/

namespace Sys2Proof.Machine

open Sys2Proof

/-- The floating-point format of an element type; `none` for the integers. -/
def fmtOf : ETy → Option FFmt
  | .fp32 => some .fp32 | .bf16 => some .bf16 | .fp16 => some .fp16 | .e4m3 => some .e4m3 | .e5m2 => some .e5m2
  | .int32 => none | .int16 => none | .int8 => none | .uint8 => none

/-- An integer type is signed. -/
def isSigned (t : ETy) : Bool := t != .uint8

/-- The integer that a lane of an integer type holds (R107). -/
def intLane (t : ETy) (b : Nat) : Int := if isSigned t then signedNat t.bits b else (b : Int)

/-- The lanes of an element (R161). -/
def lanesOf (t : ETy) : Nat := 4096 / t.bits

/-- Lanes as a list, lane 0 first. -/
def unpack (w : Nat) (e : Elem) : List Nat := (List.range (4096 / w)).map (lane w e)

/-- The result of a lane: bits, a NaN made from lanes that are not NaN, and saturation (R167). -/
structure Lane where
  v   : Nat
  nan : Bool := false
  sat : Bool := false
  deriving DecidableEq, Repr

/-- An element and the flags of its lanes. -/
def ofLaneList (w : Nat) (ls : List Lane) : Elem × BitVec 3 :=
  (ofLanes w (ls.map (·.v)), convFlags (ls.any (·.nan)) (ls.any (·.sat)))

/-- A computed floating-point lane. -/
def fpLane (f : FFmt) (rm : RM) (sat : Bool) (fromNaN : Bool) (v : FV) : Lane :=
  let r := f.round rm sat v
  { v := r.1, nan := v.isNaN && !fromNaN, sat := r.2 }

/-- A lane of an integer type from an exact integer: clamped or wrapped (R166, R170). -/
def intResult (t : ETy) (clamp : Bool) (i : Int) : Lane :=
  let lo : Int := if isSigned t then -(2 ^ (t.bits - 1) : Nat) else 0
  let hi : Int := if isSigned t then (2 ^ (t.bits - 1) : Nat) - 1 else (2 ^ t.bits : Nat) - 1
  if clamp then
    if i < lo then { v := wrapInt t.bits lo, sat := true }
    else if hi < i then { v := wrapInt t.bits hi, sat := true }
    else { v := wrapInt t.bits i }
  else { v := wrapInt t.bits i }

/-- The operations of VADD, VSUB, VMUL, VDIV. -/
inductive Arith where
  | add | sub | mul | div
  deriving DecidableEq, Repr

/-- On exact values (R169). -/
def Arith.fv (o : Arith) (down : Bool) (a b : FV) : FV :=
  match o with
  | .add => a.add down b
  | .sub => a.add down b.neg
  | .mul => a.mul b
  | .div => a.div b

/-- On exact integers (R170); VDIV takes no integers. -/
def Arith.int (o : Arith) (a b : Int) : Int :=
  match o with
  | .add => a + b
  | .sub => a - b
  | .mul => a * b
  | .div => a

/-- One lane of VADD, VSUB, VMUL or VDIV. -/
def arithLane (o : Arith) (t : ETy) (md : VMode) (a b : Nat) : Lane :=
  match fmtOf t with
  | some f =>
    let x := f.dec a
    let y := f.dec b
    fpLane f md.rm md.sat (x.isNaN || y.isNaN) (o.fv (md.rm == .rdn) x y)
  | none => intResult t md.sat (o.int (intLane t a) (intLane t b))

/-- One lane of VMIN or VMAX (R169): bits of the chosen operand. -/
def pickLane (greater : Bool) (t : ETy) (a b : Nat) : Lane :=
  match fmtOf t with
  | some f =>
    let x := f.dec a
    let y := f.dec b
    if x.isNaN || y.isNaN then { v := f.nan }
    else if greater then { v := if x.ltz y then b else a } else { v := if y.ltz x then b else a }
  | none =>
    if greater then { v := if intLane t a < intLane t b then b else a }
    else { v := if intLane t b < intLane t a then b else a }

/-- One lane of VABS or VNEG (R169, R170). -/
def signLane (neg : Bool) (t : ETy) (sat : Bool) (a : Nat) : Lane :=
  match fmtOf t with
  | some f =>
    let half := 2 ^ (f.width - 1)
    if (f.dec a).isNaN then { v := f.nan } else { v := if neg then (a + half) % (2 * half) else a % half }
  | none => intResult t sat (if neg then -(intLane t a) else (intLane t a).natAbs)

/-- Apply a function to each pair of lanes. -/
def zipLanes (w : Nat) (f : Nat → Nat → Lane) (a b : Elem) : Elem × BitVec 3 :=
  ofLaneList w (((unpack w a).zip (unpack w b)).map fun p => f p.1 p.2)

/-- Apply a function to each lane. -/
def mapLanes (w : Nat) (f : Nat → Lane) (a : Elem) : Elem × BitVec 3 := ofLaneList w ((unpack w a).map f)

/-- One lane of VFMA (R172). -/
def fmaLane (f : FFmt) (a b c : Nat) : Lane :=
  let x := f.dec a
  let y := f.dec b
  let z := f.dec c
  fpLane f .rne false (x.isNaN || y.isNaN || z.isNaN) ((x.mul y).add false z)

/-- Three operands lane by lane. -/
def zip3Lanes (w : Nat) (f : Nat → Nat → Nat → Lane) (a b c : Elem) : Elem × BitVec 3 :=
  ofLaneList w (((unpack w a).zip ((unpack w b).zip (unpack w c))).map fun p => f p.1 p.2.1 p.2.2)

/-- One lane of VSHL or VSHR (R171). -/
def shiftLane (right arith : Bool) (t : ETy) (a n : Nat) : Lane :=
  if right then
    if arith then { v := wrapInt t.bits (intLane t a / (2 ^ min n t.bits : Nat)) }
    else { v := if t.bits ≤ n then 0 else a / 2 ^ n }
  else { v := if t.bits ≤ n then 0 else a * 2 ^ n % 2 ^ t.bits }

/-- The immediate of VADDI, VMULI and VSPLAT as a BF16 value (R173). -/
def immFv (imm : BitVec 15) : FV := FFmt.bf16.dec (imm.toNat * 2)

/-- One lane of VADDI or VMULI (R173). R167 speaks of a NaN that comes from lanes that are not NaN: a NaN immediate counts as an operand
that is NaN, and its lanes set no CVNAN (assumption 93). DESIGN CHOICE -/
def immLane (o : Arith) (t : ETy) (imm : BitVec 15) (a : Nat) : Lane :=
  match fmtOf t with
  | some f =>
    let x := f.dec a
    fpLane f .rne false (x.isNaN || (immFv imm).isNaN) (o.fv false x (immFv imm))
  | none => intResult t false (o.int (intLane t a) (signedNat 15 imm.toNat))

/-- The lane of VSPLAT's immediate form (R173); a NaN immediate sets no CVNAN (R167; assumption 93). DESIGN CHOICE -/
def splatLane (t : ETy) (imm : BitVec 15) : Lane :=
  match fmtOf t with
  | some f => fpLane f .rne false (immFv imm).isNaN (immFv imm)
  | none => { v := wrapInt t.bits (signedNat 15 imm.toNat) }

/-- One lane of VCVT (R115, R174). -/
def cvtLane (src dst : ETy) (rm : RM) (sat : Bool) (a : Nat) : Lane :=
  match fmtOf src, fmtOf dst with
  | some f, some g => fpLane g rm sat (f.dec a).isNaN (f.dec a)
  | some f, none =>
    match (f.dec a).toInt rm with
    | some i => intResult dst true i
    | none =>
      if (f.dec a).isNaN then { v := 0, sat := true }
      else intResult dst true (if (f.dec a).isNeg then -(2 ^ 40 : Int) else 2 ^ 40)
  | none, some g => fpLane g rm sat false (FV.ofInt (intLane src a))
  | none, none => intResult dst sat (intLane src a)

/-- A condition of VCMP holds (R175). -/
def cmpHolds (t : ETy) (c : VCond) (a b : Nat) : Bool :=
  let r : Bool × Bool × Bool := match fmtOf t with -- below, equal, unordered
    | some f =>
      let x := f.dec a
      let y := f.dec b
      (x.lt y, !x.lt y && !y.lt x && !x.isNaN && !y.isNaN, x.isNaN || y.isNaN)
    | none => (decide (intLane t a < intLane t b), decide (intLane t a = intLane t b), false)
  match c with
  | .eq => r.2.1
  | .ne => !r.2.1
  | .lt => r.1
  | .le => r.1 || r.2.1
  | .gt => !r.2.2 && !r.1 && !r.2.1
  | .ge => !r.2.2 && !r.1

/-- One lane of VCMP. -/
def cmpLane (t : ETy) (c : VCond) (a b : Nat) : Lane := { v := if cmpHolds t c a b then 2 ^ t.bits - 1 else 0 }

/-- The functions of R177, numbered for `Config.undecided`. -/
inductive Fn1 where
  | exp | exp2 | rcp | rsq | relu | gelu | silu | sigm | tanh
  deriving DecidableEq, Repr

/-- The function's number. -/
def Fn1.code : Fn1 → Nat
  | .exp => 0 | .exp2 => 1 | .rcp => 2 | .rsq => 3 | .relu => 4 | .gelu => 5 | .silu => 6 | .sigm => 7 | .tanh => 8

/-- RELU of a value (R177). -/
def reluOf (v : FV) : FV := if v.isNaN then .nan else if (FV.fin false 0 0).lt v then v else .fin false 0 0

/-- The function (R177). -/
def Fn1.apply (fn : Fn1) (v : FV) : Approx :=
  match fn with
  | .exp => expOf v
  | .exp2 => exp2Of v
  | .rcp => .exact ((FV.fin false 1 0).div v)
  | .rsq => .exact v.rsqrt
  | .relu => .exact (reluOf v)
  | .gelu => geluOf v
  | .silu => siluOf v
  | .sigm => sigmOf v
  | .tanh => tanhOf v

/-- One lane of the words with one operand (R177). -/
def fnLane (fn : Fn1) (f : FFmt) (a : Nat) : Lane :=
  let v := (fn.apply (f.dec a)).rne f fn.code a
  { v := v, nan := (f.dec v).isNaN && !(f.dec a).isNaN }

/-- One lane of SWIGLU or GEGLU (R177): the exact product, rounded once. -/
def gluLane (fn : Fn1) (f : FFmt) (a b : Nat) : Lane :=
  let v := ((fn.apply (f.dec a)).mul (f.dec b)).rne f (fn.code + 16) (a * 2 ^ f.width + b)
  { v := v, nan := (f.dec v).isNaN && !(f.dec a).isNaN && !(f.dec b).isNaN }

/-- The format that a type of R177 names; the types with other codes do not reach here. -/
def fpOf (t : ETy) : FFmt := (fmtOf t).getD .fp32

/-! ### Reductions and scans -/

/-- Combine neighbours. -/
def pairUp {α : Type} (f : α → α → α) : List α → List α
  | a :: b :: r => f a b :: pairUp f r
  | l => l

/-- Halve the list `n` times (R178). -/
def foldPairs {α : Type} (f : α → α → α) : Nat → List α → List α
  | 0, l => l
  | n + 1, l => foldPairs f n (pairUp f l)

/-- A sum rounded to FP32, with saturation carried along. A NaN that a pair makes from operands that are not NaN counts for
CVNAN whatever other lanes hold (assumption 80). DESIGN CHOICE -/
def sum32 (md : VMode) (a b : Lane) : Lane :=
  let x := FFmt.fp32.dec a.v
  let y := FFmt.fp32.dec b.v
  let r := fpLane .fp32 md.rm md.sat (x.isNaN || y.isNaN) (x.add (md.rm == .rdn) y)
  { r with nan := a.nan || b.nan || r.nan, sat := a.sat || b.sat || r.sat }

/-- A lane widened exactly to FP32. -/
def widen32 (f : FFmt) (b : Nat) : Nat := FFmt.fp32.rne (f.dec b)

/-- VREDS (R178): an element with the sum in lane 0. -/
def reds (t : ETy) (md : VMode) (a b : Elem) : Elem × BitVec 3 :=
  match fmtOf t with
  | some f =>
    let l := (unpack t.bits a).map fun v => ({ v := widen32 f v } : Lane)
    let s := (foldPairs (sum32 md) 9 l).headD { v := 0 }
    let r := sum32 md s { v := lane 32 b 0 }
    (ofLanes 32 [r.v], convFlags r.nan r.sat)
  | none =>
    let s := ((unpack t.bits a).map (intLane t)).sum + intLane .int32 (lane 32 b 0)
    ofLaneList 32 [intResult .int32 md.sat s]

/-- Lane value `a` is below lane value `b` in the order of R179. -/
def belowLane (t : ETy) (a b : Nat) : Bool :=
  match fmtOf t with
  | some f => (f.dec a).ltz (f.dec b)
  | none => decide (intLane t a < intLane t b)

/-- A lane holds a NaN. -/
def nanLane (t : ETy) (a : Nat) : Bool :=
  match fmtOf t with
  | some f => (f.dec a).isNaN
  | none => false

/-- The index of the greatest or least lane; the lowest index wins a tie; a NaN wins over all (R179). -/
def bestIndex (t : ETy) (greatest : Bool) (ls : List Nat) : Nat :=
  match ls.findIdx? (nanLane t) with
  | some i => i
  | none =>
    ((ls.zip (List.range ls.length)).foldl (fun (best : Nat × Nat) p =>
      if (if greatest then belowLane t best.1 p.1 else belowLane t p.1 best.1) then p else best) (ls.headD 0, 0)).2

/-- VREDM (R179). -/
def redm (t : ETy) (k : MaxK) (a : Elem) : Elem :=
  let ls := unpack t.bits a
  let i := bestIndex t (k == .max || k == .amax) ls
  let v := ls.getD i 0
  match k with
  | .max | .min => ofLanes t.bits [if nanLane t v then ((fmtOf t).getD .fp32).nan else v]
  | .amax | .amin => ofLanes 32 [i, v]

/-- One step of VSCAN: running value, whether a NaN has gone in, lanes so far (R180). Once a NaN has gone in, later NaN lanes
come from it and set no flag (assumption 80). DEDUCED -/
def scanStep (t : ETy) (ex : Bool) (rm : RM) (st : Nat × Bool × List Lane) (v : Nat) : Nat × Bool × List Lane :=
  let (c, nan, out) := st
  let nan' := nan || nanLane t v
  match fmtOf t with
  | some f =>
    let u := f.round rm false ((f.dec c).add (rm == .rdn) (f.dec v))
    let l : Lane := if ex then { v := if nanLane t c then f.nan else c, nan := nanLane t c && !nan }
      else { v := u.1, nan := nanLane t u.1 && !nan' }
    (u.1, nan', l :: out)
  | none =>
    let u := (c + v) % 2 ^ t.bits
    (u, nan', { v := if ex then c else u } :: out)

/-- VSCAN (R180). -/
def scan (t : ETy) (ex : Bool) (rm : RM) (a b : Elem) : Elem × BitVec 3 :=
  let c := lane t.bits b 0
  ofLaneList t.bits ((unpack t.bits a).foldl (scanStep t ex rm) (c, nanLane t c, [])).2.2.reverse

/-! ### Sorting by expert, sparsity, permutation -/

/-- VSORTC.COUNT (R181). -/
def sortcCount (win : Nat) (a b : Elem) : Elem :=
  let ks := unpack 32 a
  ofLanes 32 ((List.range 128).map fun i => lane 32 b i + ks.count (128 * win + i))

/-- VSORTC.ORDER (R181): stable by key, ignored lanes last. -/
def sortcOrder (a : Elem) : Elem :=
  let ks := (unpack 32 a).zip (List.range 128)
  ofLanes 32 (((List.range 512).flatMap fun k => ks.filter fun p => p.1 == k) ++
    ks.filter (fun p => decide (512 ≤ p.1)) |>.map Prod.snd)

/-- VSORTC.SLOT (R181). -/
def sortcSlot (win : Nat) (a b : Elem) : Elem :=
  let ks := unpack 32 a
  ofLanes 32 ((List.range 128).map fun i =>
    let k := ks.getD i 0
    if 128 * win ≤ k ∧ k < 128 * win + 128 then lane 32 b (k - 128 * win) + (ks.take i).count k else 2 ^ 32 - 1)

/-- The magnitude of a lane, NaN above every number (R182). -/
def magLane (t : ETy) (v : Nat) : Nat :=
  match fmtOf t with
  | some f => if (f.dec v).isNaN then 2 ^ t.bits else v % 2 ^ (t.bits - 1)
  | none => (intLane t v).natAbs

/-- The lane at index `i` of a group of four is kept (R182). -/
def keptLane (ms : List Nat) (i : Nat) : Bool :=
  decide (((List.range 4).filter fun j =>
    decide (ms.getD i 0 < ms.getD j 0) || (ms.getD i 0 == ms.getD j 0 && decide (j < i))).length < 2)

/-- The kept positions of group `g`, ascending. -/
def keptOf (t : ETy) (ls : List Nat) (g : Nat) : List Nat :=
  (List.range 4).filter (keptLane (((ls.drop (4 * g)).take 4).map (magLane t)))

/-- VSPSEL.MASK (R182). -/
def spselMask (t : ETy) (a : Elem) : Elem :=
  let ls := unpack t.bits a
  ofLanes t.bits ((List.range (lanesOf t)).map fun i => if (keptOf t ls (i / 4)).contains (i % 4) then ls.getD i 0 else 0)

/-- VSPSEL.META (R182). -/
def spselMeta (t : ETy) (a : Elem) : Elem :=
  let ls := unpack t.bits a
  ofLanes 4 ((List.range (lanesOf t / 4)).map fun g => let k := keptOf t ls g; k.getD 0 0 + 4 * k.getD 1 0)

/-- VSPSEL.PACK (R182). -/
def spselPack (t : ETy) (a : Elem) : Elem :=
  let ls := unpack t.bits a
  ofLanes t.bits ((List.range (lanesOf t / 4)).flatMap fun g => (keptOf t ls g).map fun i => ls.getD (4 * g + i) 0)

/-- VRMSN (R183). The rule gives no r for t = -0; the model takes that of VRSQ, -infinity (assumption 79). DESIGN CHOICE -/
def rmsn (f : FFmt) (x g c : Elem) : Elem × BitVec 3 :=
  let f32 := fun i => FFmt.fp32.dec (lane 32 c i)
  let cNaN := (f32 0).isNaN || (f32 1).isNaN || (f32 2).isNaN
  let t := FFmt.fp32.dec (FFmt.fp32.rne (((f32 0).mul (f32 1)).add false (f32 2)))
  let r := FFmt.fp32.dec (FFmt.fp32.rne t.rsqrt)
  zipLanes f.width (fun a b =>
    let x := f.dec a
    let y := f.dec b
    fpLane f .rne false (x.isNaN || y.isNaN || cNaN) ((x.mul y).mul r)) x g

/-- VPERM (R184). -/
def perm (t : ETy) (hi : Bool) (a b : Elem) : Elem :=
  ofLanes t.bits ((unpack t.bits b).map fun v =>
    let j := v + (if t.bits = 8 ∧ hi then 256 else 0)
    if j < lanesOf t then lane t.bits a j else 0)

end Sys2Proof.Machine
end

