-- ==== Sys2Proof/Machine/MatOps.lean ====
section
/-! DEFINITION. What the matrix engine computes: nest records (R201), format words (R117 to R122), operand positions and
footprints (R204 to R208), the numerics profiles (R123 to R127), and the narrowing of ACCST (R215). -/

namespace Sys2Proof.Machine

open Sys2Proof

/-! ### Nest records (R201) -/

/-- A field of word `i` of a nest record. -/
def nestField (r : BitVec 512) (i lo len : Nat) : Nat := field r (64 * i + lo) len

/-- A reserved field of the record is nonzero. -/
def nestReserved (r : BitVec 512) : Bool :=
  nestField r 0 62 2 != 0 || nestField r 1 63 1 != 0 || nestField r 2 62 2 != 0 || nestField r 3 62 2 != 0 ||
    nestField r 4 44 20 != 0 || nestField r 5 15 49 != 0 || nestField r 5 7 1 != 0 || nestField r 6 0 64 != 0 ||
    nestField r 7 0 64 != 0

/-- Replace the base of word `i` by base plus the signed step, modulo 2^22 (ADV). -/
def nestAdv (r : BitVec 512) (i : Nat) : BitVec 512 :=
  let b := nestField r i 0 22
  let v := wrapInt 22 ((b : Int) + sfield r (64 * i + 38) 24)
  BitVec.ofNat 512 (r.toNat - b * 2 ^ (64 * i) + v * 2 ^ (64 * i))

/-- Nest slot `n`; zero at task start (R201). -/
def CoreSt.nestSlot (c : CoreSt) (n : Nat) : BitVec 512 := Sparse.get 0 c.nests n

/-- Write a nest slot. -/
def CoreSt.setNest (c : CoreSt) (n : Nat) (r : BitVec 512) : CoreSt := { c with nests := Sparse.set 0 c.nests n r }

/-- TROW and TCOL. -/
abbrev nestTrow (r : BitVec 512) : Nat := nestField r 5 0 7
/-- First tile column. -/
abbrev nestTcol (r : BitVec 512) : Nat := nestField r 5 8 7
/-- ABASE. -/
abbrev nestA (r : BitVec 512) : Nat := nestField r 0 0 22
/-- ARS. -/
abbrev nestArs (r : BitVec 512) : Nat := nestField r 0 22 16
/-- BBASE. -/
abbrev nestB (r : BitVec 512) : Nat := nestField r 1 0 22
/-- BRS. -/
abbrev nestBrs (r : BitVec 512) : Nat := nestField r 1 22 16
/-- BT. -/
abbrev nestBt (r : BitVec 512) : Bool := nestField r 1 62 1 == 1
/-- CBASE. -/
abbrev nestC (r : BitVec 512) : Nat := nestField r 2 0 22
/-- CRS. -/
abbrev nestCrs (r : BitVec 512) : Nat := nestField r 2 22 16
/-- MBASE. -/
abbrev nestM (r : BitVec 512) : Nat := nestField r 3 0 22
/-- MRS. -/
abbrev nestMrs (r : BitVec 512) : Nat := nestField r 3 22 16
/-- GTAB. -/
abbrev nestGtab (r : BitVec 512) : Nat := nestField r 4 0 22
/-- BGS. -/
abbrev nestBgs (r : BitVec 512) : Nat := nestField r 4 22 22

/-! ### Format words (R117, R120, R122) -/

/-- AFMT. -/
abbrev fwA (w : Word) : Nat := field w 60 4
/-- BFMT. -/
abbrev fwB (w : Word) : Nat := field w 56 4
/-- CFMT. -/
abbrev fwC (w : Word) : Nat := field w 52 4
/-- OFMT. -/
abbrev fwO (w : Word) : Nat := field w 48 4
/-- OSAT. -/
abbrev fwOsat (w : Word) : Bool := bitOf w 47
/-- CTB. -/
abbrev fwCtb (w : Word) : Nat := field w 46 1
/-- ASRC. -/
abbrev fwAsrc (w : Word) : Nat := field w 44 2
/-- BSRC. -/
abbrev fwBsrc (w : Word) : Nat := field w 42 2
/-- ASC. -/
abbrev fwAsc (w : Word) : Nat := field w 38 4
/-- BSC. -/
abbrev fwBsc (w : Word) : Nat := field w 34 4
/-- AMXO. -/
abbrev fwAmx (w : Word) : Nat := field w 16 16
/-- BMXO. -/
abbrev fwBmx (w : Word) : Nat := field w 0 16

/-- The checks of R120. -/
def fwBad (w : Word) : Bool :=
  field w 32 2 != 0 || fwA w == 5 || fwA w == 6 || fwB w == 5 || fwB w == 6 || !(fwC w == 0 || fwC w == 5) ||
    decide (8 < fwO w) || fwAsrc w == 3 || fwBsrc w == 3

/-- The bits of an operand element by format code (R104, R107, R109, R111); `none` for codes 5 and 6. -/
def operandBits : Nat → Option Nat
  | 0 => some 32
  | 1 => some 16
  | 2 => some 16
  | 3 => some 8
  | 4 => some 8
  | 7 => some 8
  | 8 => some 8
  | 9 => some 8
  | 10 => some 8
  | 11 => some 4
  | 12 => some 8
  | 13 => some 6
  | 14 => some 4
  | 15 => some 4
  | _ => none

/-- The profile accepts the word's formats (R122). -/
def profileAccepts (p : Nat) (w : Word) : Bool :=
  let fpCode := fun c => decide (c ≤ 4) || decide (9 ≤ c)
  if p = 4 then
    (fwA w == 7 || fwA w == 8) && (fwB w == 7 || fwB w == 8) && fwC w == 5 && fwAsrc w == 0 && fwBsrc w == 0
  else fpCode (fwA w) && fpCode (fwB w) && fwC w == 0

/-- The gang code that a pair of formats needs (R209). -/
def gangFor (a b : Nat) : Nat :=
  if a = 0 ∨ b = 0 then 4
  else if a = 1 ∨ a = 2 ∨ b = 1 ∨ b = 2 then 3
  else
    let four := fun c => c == 11 || c == 14 || c == 15
    if four a && four b then 1 else 2

/-! ### Jobs: the parts of a command -/

/-- A TGO, or one group of a TGO.G (R206, R207). -/
structure Job where
  rows : Nat
  trow : Nat
  aOff : Nat
  bOff : Nat
  aRow : Nat
  bRow : Nat
  deriving DecidableEq, Repr

/-- The parts of a command from its nest record, M and groups. -/
def jobsOf (op : MatOp) (nest : BitVec 512) (m : Nat) (gs : List Group) : List Job :=
  match op with
  | .tgoG => gs.map fun g =>
      ⟨g.rows, g.grow, nestA nest + g.arow * nestArs nest, nestB nest + g.bidx * nestBgs nest, g.arow, g.bidx * 128⟩
  | _ => [⟨m, nestTrow nest, nestA nest, nestB nest, 0, 0⟩]

/-- The parts of a command. -/
def MatCmd.jobs (c : MatCmd) : List Job := jobsOf c.op c.nest c.m c.groups

/-- A byte range `[start, stop)`. -/
abbrev Span := Nat × Nat

/-- The footprint of A of a part (R204); of TGO.SP the packed values (R208). -/
def aSpan (sp : Bool) (nest : BitVec 512) (bits : Nat) (j : Job) (kk : Nat) : Option Span :=
  if j.rows = 0 ∨ kk = 0 then none
  else
    let kp := if sp then 8 * ceilDiv kk 16 else 16 * ceilDiv kk 16
    some (j.aOff, j.aOff + (16 * ceilDiv j.rows 16 - 1) * nestArs nest + ceilDiv (kp * bits) 8)

/-- The footprint of B of a part (R204). -/
def bSpan (nest : BitVec 512) (bits : Nat) (j : Job) (n kk : Nat) : Option Span :=
  if n = 0 ∨ kk = 0 then none
  else
    let kp := 16 * ceilDiv kk 16
    let np := 16 * ceilDiv n 16
    some (j.bOff, if nestBt nest then j.bOff + (np - 1) * nestBrs nest + ceilDiv (kp * bits) 8
      else j.bOff + (kp - 1) * nestBrs nest + ceilDiv (np * bits) 8)

/-- The scale bytes of a part (R204). -/
def scaleSpans (fw : Word) (j : Job) (n kk : Nat) : List Span :=
  let kb := ceilDiv kk 32
  (if fwAsrc fw = 2 ∧ j.rows ≠ 0 ∧ kk ≠ 0 then
    [(fwAmx fw * 64 + j.aRow * kb, fwAmx fw * 64 + (j.aRow + j.rows) * kb)] else []) ++
  (if fwBsrc fw = 2 ∧ n ≠ 0 ∧ kk ≠ 0 then
    [(fwBmx fw * 64 + j.bRow * kb, fwBmx fw * 64 + (j.bRow + n) * kb)] else [])

/-- The metadata of a TGO.SP (R208): M rows of ceil(K/4) fields, not padded as the operands are, since the rule pads the
operands only (assumption 82). DESIGN CHOICE -/
def metaSpans (sp : Bool) (nest : BitVec 512) (j : Job) (kk : Nat) : List Span :=
  if sp ∧ j.rows ≠ 0 ∧ kk ≠ 0 then
    [(nestM nest, nestM nest + (j.rows - 1) * nestMrs nest + ceilDiv (ceilDiv kk 4) 2)]
  else []

/-- All scratchpad bytes that a command of the TGO family reads under a format word. -/
def tgoSpans (op : MatOp) (nest : BitVec 512) (m n kk : Nat) (gs : List Group) (fw : Word) : List Span :=
  (jobsOf op nest m gs).flatMap fun j =>
    ((operandBits (fwA fw)).bind fun b => aSpan (op == .tgoSp) nest b j kk).toList ++
      ((operandBits (fwB fw)).bind fun b => bSpan nest b j n kk).toList ++ scaleSpans fw j n kk ++
      metaSpans (op == .tgoSp) nest j kk

/-- Bank groups of a footprint (R205). -/
def spanBanks (s : Span) : Nat × Nat := (s.1 / 2 ^ 20, (s.2 - 1) / 2 ^ 20)

/-- BANKC for a part (R205). -/
def bankClash (a b : Option Span) : Bool :=
  let split := fun (s : Span) => (spanBanks s).1 != (spanBanks s).2
  a.any split || b.any split ||
    match a, b with
    | some x, some y => (spanBanks x).1 == (spanBanks y).1
    | _, _ => false

/-- The checks of R205 under the claimed format word. A reserved format code (R120) gives its operand no footprint; its
alignment is checked all the same. -/
def tgoChecks (op : MatOp) (nest : BitVec 512) (m n kk : Nat) (gs : List Group) (fw : Word) : Option Trap :=
  let js := jobsOf op nest m gs
  let as := js.map fun j => (operandBits (fwA fw)).bind fun b => aSpan (op == .tgoSp) nest b j kk
  let bs := js.map fun j => (operandBits (fwB fw)).bind fun b => bSpan nest b j n kk
  if js.any (fun j => (aSpan (op == .tgoSp) nest 8 j kk).isSome) && (nestA nest % 64 != 0 || nestArs nest % 8 != 0) then
    some { cause := .align, addr := w64 (nestA nest) }
  else if js.any (fun j => (bSpan nest 8 j n kk).isSome) && (nestB nest % 64 != 0 || nestBrs nest % 8 != 0) then
    some { cause := .align, addr := w64 (nestB nest) }
  else
    match (tgoSpans op nest m n kk gs fw).find? fun s => decide (spSize < s.2) with
    | some s => some { cause := .sprng, addr := w64 s.1 }
    | none => if (as.zip bs).any fun p => bankClash p.1 p.2 then some { cause := .bankc } else none

/-- The atoms of a command (R191, R207, R208). -/
def MatCmd.atoms (c : MatCmd) : Nat :=
  (c.jobs.map fun j => ceilDiv j.rows 16 * ceilDiv c.n 16 * ceilDiv c.kk (if c.op = .tgoSp then 32 else 16)).sum

/-! ### Elements -/

/-- `b` bits at bit offset `bit` from byte `a` (R110). -/
def bitsAt (m : Memory) (a bit b : Nat) : Nat :=
  m.num (a + bit / 8) (ceilDiv (bit % 8 + b) 8) / 2 ^ (bit % 8) % 2 ^ b

/-- The magnitude of an E2M1 element in halves (R109). -/
def e2m1Half : Nat → Nat
  | 0 => 0 | 1 => 1 | 2 => 2 | 3 => 3 | 4 => 4 | 5 => 6 | 6 => 8 | _ => 12

/-- An integer times a power of two. -/
def FV.ofScaled (i : Int) (e : Int) : FV := .fin (decide (i < 0)) i.natAbs e

/-- The value of an operand element before its scale (R104, R107, R109, R111). -/
def operandVal (code : Nat) (ct : Nat → BitVec 16) (b : Nat) : FV :=
  match code with
  | 0 => FFmt.fp32.dec b
  | 1 => FFmt.bf16.dec b
  | 2 => FFmt.fp16.dec b
  | 3 => FFmt.e4m3.dec b
  | 4 => FFmt.e5m2.dec b
  | 7 => FV.ofInt (signedNat 8 b)
  | 8 => FV.ofInt b
  | 9 => FFmt.e4m3.dec b
  | 10 => FFmt.e5m2.dec b
  | 11 => .fin (decide (8 ≤ b)) (e2m1Half (b % 8)) (-1)
  | 12 => FV.ofScaled (signedNat 8 b) (-6)
  | 13 => FV.ofScaled (signedNat 6 b) (-4)
  | 14 => FV.ofScaled (signedNat 4 b) (-2)
  | _ => FFmt.bf16.dec (ct b).toNat

/-- An element with its E8M0 scale (R108, R109, R118); code 127 is 1. -/
def scaled (v : FV) (code : Nat) : FV := if code = 255 then .nan else v.mul (.fin false 1 ((code : Int) - 127))

/-- The scale code of A at row `i` and depth `k` (R117, R204). -/
def MatCmd.aScale (c : MatCmd) (j : Job) (i k : Nat) : Nat :=
  match fwAsrc c.fw with
  | 1 => (Sparse.get 0 c.sc (fwAsc c.fw)).toNat
  | 2 => (c.snap.byte (fwAmx c.fw * 64 + (j.aRow + i) * ceilDiv c.kk 32 + k / 32)).toNat
  | _ => 127

/-- The scale code of B at column `col` and depth `k`. -/
def MatCmd.bScale (c : MatCmd) (j : Job) (col k : Nat) : Nat :=
  match fwBsrc c.fw with
  | 1 => (Sparse.get 0 c.sc (fwBsc c.fw)).toNat
  | 2 => (c.snap.byte (fwBmx c.fw * 64 + (j.bRow + col) * ceilDiv c.kk 32 + k / 32)).toNat
  | _ => 127

/-- The entries of the code-table bank that the format word names. -/
def MatCmd.table (c : MatCmd) (i : Nat) : BitVec 16 := Sparse.get 0 c.ct (16 * fwCtb c.fw + i)

/-- Value `p` of row `i` of A as stored: A[i][p], or packed value p of a TGO.SP. -/
def MatCmd.aStored (c : MatCmd) (j : Job) (i p : Nat) : FV :=
  let b := (operandBits (fwA c.fw)).getD 8
  operandVal (fwA c.fw) c.table (bitsAt c.snap (j.aOff + i * nestArs c.nest) (p * b) b)

/-- B[k][col] with its scale. -/
def MatCmd.bVal (c : MatCmd) (j : Job) (k col : Nat) : FV :=
  let b := (operandBits (fwB c.fw)).getD 8
  let v := if nestBt c.nest then bitsAt c.snap (j.bOff + col * nestBrs c.nest) (k * b) b
    else bitsAt c.snap (j.bOff + k * nestBrs c.nest) (col * b) b
  scaled (operandVal (fwB c.fw) c.table v) (c.bScale j col k)

/-- The depth indices of row `i` and the packed or plain position of A's value for each: all of them, or those that the
metadata of a TGO.SP keeps (R208). -/
def MatCmd.depths (c : MatCmd) (i : Nat) : List (Nat × Nat) :=
  if c.op = .tgoSp then
    (List.range (ceilDiv c.kk 4)).flatMap fun g =>
      let f := bitsAt c.snap (nestM c.nest + i * nestMrs c.nest) (4 * g) 4
      [(4 * g + f % 4, 2 * g), (4 * g + f / 4, 2 * g + 1)].filter fun p => decide (p.1 < c.kk)
  else (List.range c.kk).map fun k => (k, k)

/-- The products of element (i, col) of a part with their depth indices (R123). -/
def MatCmd.products (c : MatCmd) (j : Job) (i col : Nat) : List (Nat × FV) :=
  (c.depths i).map fun d => (d.1, (scaled (c.aStored j i d.2) (c.aScale j i d.1)).mul (c.bVal j d.1 col))

/-- The special values of R124; `none` when the profile's own computation decides. -/
def specialOf (acc : FV) (ps : List FV) : Option FV :=
  let pos := ps.any fun p => p == .inf false
  let neg := ps.any fun p => p == .inf true
  if acc.isNaN || ps.any (·.isNaN) || (pos && neg) || (acc == .inf false && neg) || (acc == .inf true && pos) then
    some .nan
  else if pos || acc == .inf false then some (.inf false)
  else if neg || acc == .inf true then some (.inf true)
  else none

/-- The exponent of a finite nonzero value: floor(log2 |p|). -/
def expOfFV : FV → Option Int
  | .fin _ m e => if m = 0 then none else some (e + m.log2)
  | _ => none

/-- sign(p) * floor(|p| / 2^q). -/
def truncAt (q : Int) : FV → Int
  | .fin neg m e => signedOf neg (if q ≤ e then m * 2 ^ (e - q).toNat else m / 2 ^ (q - e).toNat)
  | _ => 0

/-- The greatest of a list of integers. -/
def maxInt : List Int → Option Int
  | [] => none
  | a :: r => some (match maxInt r with | some b => max a b | none => a)

/-- One group of NP1 or NP2 (R125): window W, products of the group. -/
def npGroup (win : Nat) (acc : Nat) (ps : List FV) : Nat :=
  match maxInt (ps.filterMap expOfFV) with
  | none => acc
  | some e =>
    let q := e - ((win : Int) - 1)
    let s := (ps.map (truncAt q)).sum
    if s = 0 then acc else FFmt.fp32.rne ((FFmt.fp32.dec acc).add false (.fin (decide (s < 0)) s.natAbs q))

/-- NP1 and NP2 (R125): FP32 bits. -/
def np12 (g win kk acc : Nat) (ps : List (Nat × FV)) : Nat :=
  (List.range (ceilDiv kk g)).foldl (fun acc i =>
    npGroup win acc ((ps.filter fun p => p.1 / g == i).map Prod.snd)) acc

/-- The exact accumulator of NP3 (R126). -/
def np3Acc (acc : Nat) (ps : List FV) : ExAcc :=
  ((⟨0, .finite, false, false⟩ : ExAcc).add (BitVec.ofNat 32 acc)).addAll (ps.map fun p => BitVec.ofNat 32 (FFmt.fp32.rne p))

/-- An FP32 pattern of a read of an exact accumulator (R131). -/
def ExAcc.read (a : ExAcc) : Nat :=
  match a.cls with
  | .nan => 0x7FC00000
  | .pinf => 0x7F800000
  | .ninf => 0xFF800000
  | .finite =>
    if a.sat then if a.n < 0 then 0xFF800000 else 0x7F800000
    else if a.n = 0 then 0 else FFmt.fp32.rne (.fin (decide (a.n < 0)) a.n.natAbs (-149))

/-- The integer of an NP4 product. -/
def intOfFV : FV → Int
  | .fin neg m e => signedOf neg (m * 2 ^ e.toNat)
  | _ => 0

/-- One element of a tile command from its prior content (R124 to R127), and whether NP3's accumulator saturated. With
no depth index it is the prior content (R206). -/
def MatCmd.element (c : MatCmd) (acc : Nat) (ps : List (Nat × FV)) : Nat × Bool :=
  if c.profile = 4 then
    let s := signedNat 32 acc + (ps.map fun p => intOfFV p.2).sum
    ((intResult .int32 true s).v, false)
  else
    match specialOf (FFmt.fp32.dec acc) (ps.map Prod.snd) with
    | some v => (FFmt.fp32.rne v, false)
    | none =>
      if c.kk = 0 then (acc, false)
      else if c.profile = 1 then (np12 16 40 c.kk acc ps, false)
      else if c.profile = 2 then (np12 32 28 c.kk acc ps, false)
      else let a := np3Acc acc (ps.map Prod.snd); (a.read, a.sat)

/-- Tile row `t` holds a quarantined batch row (R322). -/
def MatCmd.rowMasked (c : MatCmd) (t : Nat) : Bool := bitOf c.qmask (c.rbase + t) && decide (c.rbase + t < 256)

/-- Element (i, j) of a tile. -/
def TileSt.at (t : TileSt) (i j : Nat) : BitVec 32 := Sparse.get 0 t.els (128 * i + j)

/-- Write element (i, j). -/
def TileSt.put (t : TileSt) (i j : Nat) (v : BitVec 32) : TileSt := { t with els := Sparse.set 0 t.els (128 * i + j) v }

/-- The elements of a command's window, row by row. -/
def windowOf (rows cols : Nat) : List (Nat × Nat) := (List.range rows).flatMap fun i => (List.range cols).map fun j => (i, j)

/-- A tile command's result in its tile, and whether some element saturated (R206, R132). -/
def MatCmd.apply (c : MatCmd) (t : TileSt) : TileSt × Bool :=
  c.jobs.foldl (fun r j =>
    (windowOf j.rows c.n).foldl (fun (r : TileSt × Bool) p =>
      let row := j.trow + p.1
      let col := nestTcol c.nest + p.2
      if c.rowMasked row then r
      else
        let e := c.element (if c.accum then (t.at row col).toNat else 0) (c.products j p.1 p.2)
        (r.1.put row col (BitVec.ofNat 32 e.1), r.2 || e.2)) r) (t, false)

/-- A scale that the command reads is NaN (R115), whatever the format of its operand, since a scale applies to every element
(R118). A scale counts as read where an element of the window is formed from it: none is with M or N at 0, and none in a row that
is quarantined (assumption 81). DEDUCED -/
def MatCmd.scaleNaN (c : MatCmd) : Bool :=
  c.jobs.any fun j => (List.range j.rows).any fun i =>
    !c.rowMasked (j.trow + i) && decide (c.n ≠ 0) && (c.depths i).any fun d =>
      c.aScale j i d.1 == 255 || (List.range c.n).any fun col => c.bScale j col d.1 == 255

/-! ### ACCST (R215) -/

/-- Element types by the code of OFMT. -/
def etyOf (code : Nat) : ETy := (ETy.ofCode (BitVec.ofNat 4 code)).getD .fp32

/-- The narrowing of one element, by the tile's record. -/
def TileSt.narrow (t : TileSt) (v : BitVec 32) : Lane :=
  if t.ofmt = t.cfmt then { v := v.toNat }
  else if t.cfmt = 0 then cvtLane .fp32 (etyOf t.ofmt) t.mode t.osat v.toNat
  else cvtLane .int32 (etyOf t.ofmt) t.mode t.osat v.toNat

/-- Bytes of one narrowed element. -/
def TileSt.size (t : TileSt) : Nat := (etyOf t.ofmt).bits / 8

/-- The byte ranges that ACCST writes: one per row. -/
def accstSpans (nest : BitVec 512) (m n s : Nat) : List Span :=
  if n = 0 then [] else (List.range m).map fun i => (nestC nest + i * nestCrs nest, nestC nest + i * nestCrs nest + n * s)

/-- The scratchpad with ACCST's bytes written. -/
def MatCmd.store (c : MatCmd) (t : TileSt) (sp : Memory) : Memory :=
  (List.range c.m).foldl (fun sp i =>
    if c.rowMasked (nestTrow c.nest + i) then sp
    else
      sp.setBytes (nestC c.nest + i * nestCrs c.nest) ((List.range c.n).flatMap fun j =>
        leBytes t.size (t.narrow (t.at (nestTrow c.nest + i) (nestTcol c.nest + j))).v)) sp

/-- The flags of ACCST's conversion, once per command. -/
def MatCmd.storeFlags (c : MatCmd) (t : TileSt) : BitVec 3 :=
  let ls := (windowOf c.m c.n).filterMap fun p =>
    if c.rowMasked (nestTrow c.nest + p.1) then none
    else some (t.narrow (t.at (nestTrow c.nest + p.1) (nestTcol c.nest + p.2)))
  convFlags (ls.any (·.nan)) (ls.any (·.sat))

/-- ACCLD's elements written to the tile (R214). -/
def MatCmd.load (c : MatCmd) (t : TileSt) : TileSt :=
  (windowOf c.m c.n).foldl (fun t p =>
    if c.rowMasked (nestTrow c.nest + p.1) then t
    else t.put (nestTrow c.nest + p.1) (nestTcol c.nest + p.2)
      (BitVec.ofNat 32 (c.snap.num (nestC c.nest + p.1 * nestCrs c.nest + 4 * p.2) 4))) t

/-- ACCMOV's result (R213), in the format that D's record held when the command started. -/
def MatCmd.move (c : MatCmd) (d s : TileSt) (add : Bool) : TileSt :=
  (windowOf 128 128).foldl (fun t p =>
    if c.rowMasked p.1 then t
    else
      let a := (d.at p.1 p.2).toNat
      let b := (s.at p.1 p.2).toNat
      let v := if !add then b
        else if c.cfmt = 0 then FFmt.fp32.rne ((FFmt.fp32.dec a).add false (FFmt.fp32.dec b))
        else (intResult .int32 true (signedNat 32 a + signedNat 32 b)).v
      t.put p.1 p.2 (BitVec.ofNat 32 v)) d

/-- ACCZ's result (R212). -/
def MatCmd.zero (c : MatCmd) (t : TileSt) : TileSt :=
  { t with els := t.els.filter fun e => c.rowMasked (e.1 / 128) }

/-! ### The scratchpad ranges of a command, for R218 -/

/-- Ranges that a pending matrix command reads or writes, with a flag for writing. -/
def MatCmd.ranges (c : MatCmd) (fw : Option Word) (size : Nat) : List (Span × Bool) :=
  match c.op with
  | .tgo | .tgoG | .tgoSp =>
    match fw with
    | some w => (tgoSpans c.op c.nest c.m c.n c.kk c.groups w).map fun s => (s, false)
    | none => []
  | .accst => (accstSpans c.nest c.m c.n size).map fun s => (s, true)
  | .accld => (accstSpans c.nest c.m c.n 4).map fun s => (s, false)
  | .accz | .accmov _ _ => []

/-- Two lists of ranges overlap where one of them writes. -/
def rangesClash (a b : List (Span × Bool)) : Bool :=
  a.any fun x => b.any fun y => (x.2 || y.2) && decide (x.1.1 < y.1.2) && decide (y.1.1 < x.1.2)

end Sys2Proof.Machine
end

