-- ==== Sys2Proof/Machine/EngOps.lean ====
section
/-! DEFINITION. Engine records (R227, R228), the rows of a transfer (R231), the checks at issue (R230 to R234), and the
scratchpad ranges that the DET overlap check compares (R218, R237). -/

namespace Sys2Proof.Machine

open Sys2Proof

/-! ### Record fields (R228) -/

/-- Word `i` of a record. -/
abbrev rcdWord (r : BitVec 512) (i : Nat) : Word := w64 (field r (64 * i) 64)
/-- SRC. -/
abbrev rcdSrc (r : BitVec 512) : Nat := field r 0 64
/-- DST. -/
abbrev rcdDst (r : BitVec 512) : Nat := field r 64 64
/-- SS1. -/
abbrev rcdSs1 (r : BitVec 512) : Int := sfield r 160 32
/-- SS2. -/
abbrev rcdSs2 (r : BitVec 512) : Int := sfield r 128 32
/-- DS1. -/
abbrev rcdDs1 (r : BitVec 512) : Int := sfield r 224 32
/-- DS2. -/
abbrev rcdDs2 (r : BitVec 512) : Int := sfield r 192 32
/-- N2. -/
abbrev rcdN2 (r : BitVec 512) : Nat := field r 304 16
/-- N1. -/
abbrev rcdN1 (r : BitVec 512) : Nat := field r 288 16
/-- LEN. -/
abbrev rcdLen (r : BitVec 512) : Nat := field r 256 32
/-- MISO. -/
abbrev rcdMiso (r : BitVec 512) : Nat := field r 352 22
/-- IDXO. -/
abbrev rcdIdxo (r : BitVec 512) : Nat := field r 320 22
/-- PHYS. -/
abbrev rcdPhys (r : BitVec 512) : Bool := bitOf r 479
/-- TMQ. -/
abbrev rcdTmq (r : BitVec 512) : Nat := field r 477 2
/-- TTK. -/
abbrev rcdTtk (r : BitVec 512) : Nat := field r 472 5
/-- XS, also of a spawn record. -/
abbrev rcdXs (r : BitVec 512) : Reg := BitVec.ofNat 6 (field r 466 6)
/-- DQ. -/
abbrev rcdDq (r : BitVec 512) : Nat := field r 460 10
/-- TGT. -/
abbrev rcdTgt (r : BitVec 512) : Nat := field r 460 9
/-- XD, also of a spawn record. -/
abbrev rcdXd (r : BitVec 512) : Reg := BitVec.ofNat 6 (field r 460 6)
/-- CH. -/
abbrev rcdCh (r : BitVec 512) : Nat := field r 456 4
/-- KIND. -/
abbrev rcdKind (r : BitVec 512) : Nat := field r 448 4

/-- The kind-4 DST: scratchpad offset at the target. -/
abbrev rcdOffset (r : BitVec 512) : Nat := field r 64 22
/-- CNUM of a record. -/
abbrev collNum (r : BitVec 512) : Nat := field r 160 32
/-- LEN. -/
abbrev collLen (r : BitVec 512) : Nat := field r 128 32
/-- GROUP. -/
abbrev collGroup (r : BitVec 512) : Nat := field r 192 12
/-- ROOT. -/
abbrev collRoot (r : BitVec 512) : Nat := field r 464 9
/-- OP. -/
abbrev collOp (r : BitVec 512) : Nat := field r 448 3

/-- The record kind of an engine word; 0 for the words whose record is not a kind record. -/
def kindOf : EngOp → Nat
  | .spld | .spst | .gath | .scat | .ldt | .ferry | .ferryTier | .ferryQ => 1
  | .stn _ => 3
  | .red _ | .msend => 4
  | .tspawn | .tgraph | .coll _ => 0

/-- The bits that the table of R228 names for a kind. -/
def namedBits (kind : Nat) : Nat :=
  match kind with
  | 1 => (2 ^ 320 - 1) + (2 ^ 22 - 1) * 2 ^ 320 + (2 ^ 22 - 1) * 2 ^ 352 + (2 ^ 32 - 1) * 2 ^ 384 + 2 ^ 447 +
      (2 ^ 4 - 1) * 2 ^ 448 + (2 ^ 14 - 1) * 2 ^ 456
  | 3 => (2 ^ 64 - 1) + (2 ^ 32 - 1) * 2 ^ 256 + (2 ^ 4 - 1) * 2 ^ 448 + (2 ^ 12 - 1) * 2 ^ 460
  | _ => (2 ^ 64 - 1) + (2 ^ 22 - 1) * 2 ^ 64 + (2 ^ 32 - 1) * 2 ^ 256 + (2 ^ 4 - 1) * 2 ^ 448 +
      (2 ^ 9 - 1) * 2 ^ 460 + (2 ^ 8 - 1) * 2 ^ 472

/-- The checks of R227: the kind, reserved bits, ranges. -/
def rcdBad (op : EngOp) (r : BitVec 512) : Bool :=
  let kind := kindOf op
  rcdKind r != kind || (r &&& ~~~(BitVec.ofNat 512 (namedBits kind))) != 0 ||
    match op with
    | .stn _ => decide (65535 < rcdLen r) || (rcdXs r == rcdXd r && rcdXs r != 0)
    | .red _ => rcdLen r % 4 != 0
    | .msend => rcdLen r % 64 != 0
    | _ => decide (2 ^ 30 < rcdLen r)

/-! ### Rows (R231) -/

/-- Rows of a transfer; none when LEN is 0. -/
def rcdRows (r : BitVec 512) : Nat := if rcdLen r = 0 then 0 else rcdN1 r * rcdN2 r

/-- The 32-bit index of row `i`. -/
def idxAt (sp : Memory) (r : BitVec 512) (i : Nat) : Nat := sp.num (rcdIdxo r + 4 * i) 4

/-- The address of a row: base, plane stride, row stride, plane, and row or index. -/
def rowAddr (base : Nat) (s2 s1 : Int) (p j : Nat) : Nat := wrapInt 64 ((base : Int) + p * s2 + j * s1)

/-- The source address of row `i`; `idx` is its index for GATH. -/
def srcRow (op : EngOp) (r : BitVec 512) (i idx : Nat) : Nat :=
  rowAddr (rcdSrc r) (rcdSs2 r) (rcdSs1 r) (i / rcdN1 r) (if op = .gath then idx else i % rcdN1 r)

/-- The destination address of row `i`; `idx` is its index for SCAT. -/
def dstRow (op : EngOp) (r : BitVec 512) (i idx : Nat) : Nat :=
  rowAddr (rcdDst r) (rcdDs2 r) (rcdDs1 r) (i / rcdN1 r) (if op = .scat then idx else i % rcdN1 r)

/-- An address in scratchpad space. -/
def isScratch (a : Nat) : Bool := a / 2 ^ 52 == 0xFFF

/-- An address of the virtual class. -/
def isVirtual (a : Nat) : Bool := decide (a < 2 ^ 52)

/-- An address of the third class (R221). -/
def isThird (a : Nat) : Bool := !isScratch a && !isVirtual a

/-- A row of some bytes in scratchpad space passes 0x3F_FFFF (R221, R232). -/
def rowPasses (a len : Nat) : Bool := decide (0 < len) && isScratch a && decide (spSize < a % 2 ^ 52 + len)

/-- The source rows whose address the record fixes. -/
def fixedSrc (op : EngOp) (r : BitVec 512) : List Nat :=
  if op = .gath then [] else (List.range (rcdRows r)).map fun i => srcRow op r i 0

/-- The destination rows whose address the record fixes. -/
def fixedDst (op : EngOp) (r : BitVec 512) : List Nat :=
  match op with
  | .scat | .ferryTier | .ferryQ => []
  | _ => (List.range (rcdRows r)).map fun i => dstRow op r i 0

/-- What a word requires of an address: any class, scratchpad space, virtual, zero, nothing. -/
inductive Need where
  | any | sp | va | zero | none
  deriving DecidableEq, Repr

/-- The class that the table of transfers asks of SRC. -/
def srcNeed : EngOp → Need
  | .spst | .red _ | .msend => .sp
  | .ldt | .ferryTier => .va
  | .tspawn | .tgraph | .coll _ => .none
  | _ => .any

/-- The class that the table of transfers asks of DST. -/
def dstNeed : EngOp → Need
  | .spld | .ldt => .sp
  | .spst | .gath | .scat | .ferry => .any
  | .ferryTier => .zero
  | _ => .none

/-- An address is what a word requires. -/
def Need.ok : Need → Nat → Bool
  | .sp, a => isScratch a
  | .va, a => isVirtual a
  | .zero, a => a == 0
  | .any, _ => true
  | .none, _ => true

/-- The index array or the miss bitmap: offset and length. -/
def sideArray (op : EngOp) (r : BitVec 512) : Option (Nat × Nat) :=
  match op with
  | .gath | .scat => some (rcdIdxo r, 4 * rcdRows r)
  | .ldt => some (rcdMiso r, ceilDiv (rcdN1 r * rcdN2 r) 8)
  | _ => Option.none

/-- Misalignment of IDXO or MISO. -/
def sideMisaligned (op : EngOp) (r : BitVec 512) : Bool :=
  match op with
  | .gath | .scat => rcdIdxo r % 4 != 0
  | .ldt => rcdMiso r % 8 != 0
  | _ => false

/-- Bytes that a kind-1 record moves. -/
def rcdTotal (r : BitVec 512) : Nat := rcdN1 r * rcdN2 r * rcdLen r

/-- The source range of STN, RED and MSEND in scratchpad space: it must not pass 0x3F_FFFF (R221). -/
def plainSrcLen (op : EngOp) (r : BitVec 512) : Nat :=
  match op with
  | .stn _ => (rcdLen r + 1) * 4096
  | .red _ | .msend => rcdLen r
  | _ => 0

/-- The first of the addresses that a record holds which is of the third class: SRC, and DST of a kind-1 record (R232). -/
def thirdOf (op : EngOp) (r : BitVec 512) : Option Nat :=
  ([rcdSrc r] ++ if kindOf op = 1 then [rcdDst r] else []).find? isThird

/-- The checks of R232's table after the first, in its order, for a kind-1 record. -/
def CoreSt.rowsTrap (c : CoreSt) (op : EngOp) (r : BitVec 512) (off : Nat) : Option Trap :=
  let len := rcdLen r
  let srcs := (fixedSrc op r).filter isScratch
  let dsts := (fixedDst op r).filter isScratch
  let side := sideArray op r
  let sideWin := op == .ldt && (side.any (fun e => c.meetsWindow e.1 e.2) || c.meetsWindow (off + 48) 8)
  match (srcs ++ dsts).find? fun a => rowPasses a len, side.filter fun e => decide (0 < e.2) && decide (spSize < e.1 + e.2),
      dsts.find? fun a => c.meetsWindow (a % 2 ^ 52) len with
  | some a, _, _ => some { cause := .sprng, addr := w64 a }
  | none, some e, _ => some { cause := .sprng, addr := w64 e.1 }
  | none, none, some a => some { cause := .prot, addr := w64 a }
  | none, none, none =>
    if sideWin then some { cause := .prot, addr := w64 ((side.getD (0, 0)).1) }
    else if sideMisaligned op r then some { cause := .align, addr := w64 ((side.getD (0, 0)).1) }
    else if op = .ferryQ ∧ rcdTotal r % 512 ≠ 0 then some { cause := .illop }
    else if op = .ferryTier ∧ (rcdSrc r % 2 ^ 16 ≠ 0 ∨ rcdTotal r % 2 ^ 16 ≠ 0) then some { cause := .align, addr := rcdWord r 0 }
    else none

/-- The checks at issue of a word with a kind record (R221, R227, R232): the record's fields, then the classes of its addresses,
then the rows. The order is that in which the rules name them (assumption 6). -/
def CoreSt.rcdTrap (c : CoreSt) (op : EngOp) (r : BitVec 512) (off : Nat) : Option Trap :=
  if rcdBad op r then some { cause := .illop }
  else
    match thirdOf op r with
    | some a => some { cause := .xlate, addr := w64 a }
    | none =>
      if !(srcNeed op).ok (rcdSrc r) || !(dstNeed op).ok (rcdDst r) then some { cause := .illop }
      else if kindOf op = 1 then c.rowsTrap op r off
      else if rowPasses (rcdSrc r) (plainSrcLen op r) then some { cause := .sprng, addr := rcdWord r 0 }
      else none

/-! ### The overlap check under DET (R218, R237) -/

/-- Word `i` of a group's table (R442). -/
def State.groupWord (s : State) (p g i : Nat) : Nat := s.hbm.num (((s.part p).reg 13).toNat * 4096 + 4096 * g + 8 * i) 8

/-- n of a group. -/
def State.groupSize (s : State) (p g : Nat) : Nat := s.groupWord p g 0

/-- A member's word names core `k` of this device. -/
def isMember (w k : Nat) : Bool := w / 2 ^ 48 == Config.deviceNumber.toNat && w % 2 ^ 9 == k

/-- The rank of a core in a group. -/
def State.collRank (s : State) (p g k : Nat) : Option Nat :=
  (List.range (min 511 (s.groupSize p g))).find? fun r => isMember (s.groupWord p g (r + 1)) k

/-- The core that a gang rank names, while it is of the gang. -/
def State.coreOfRank (s : State) (task rank : Nat) : Option Nat :=
  (s.coresOf task).find? fun k => (s.core k).rank == rank && (s.core k).status != .free

/-- The core that a command names, by rank or by number (R241). -/
def State.targetCore (s : State) (k : Nat) (r : BitVec 512) : Option Nat :=
  if rcdPhys r then some (rcdTgt r) else s.coreOfRank (s.core k).task (rcdTgt r)

/-- DST of a command lies in its own core: that of a RED that targets it, and of COLL.RED at the root (R241, R444). -/
def State.ownDst (s : State) (k : Nat) (op : EngOp) (r : BitVec 512) : Bool :=
  match op with
  | .red _ => s.targetCore k r == some k
  | .coll 1 => s.collRank (s.partOf k) (collGroup r) k == some (collRoot r)
  | _ => true

/-- A range in scratchpad from an effective address, where it has bytes there. -/
def spRange (a n : Nat) (write : Bool) : List (Span × Bool) :=
  if isScratch a ∧ n ≠ 0 then [((a % 2 ^ 52, a % 2 ^ 52 + n), write)] else []

/-- Ranges in its core's scratchpad that a command reads (false) or writes (true), as far as the record fixes them: of RED, MSEND
and STN the source, of RED and COLL the destination too where it is `own`, of a transfer its fixed rows, index array, bitmap and
record word (R218, R237). Indexed rows, which R232 says cannot be known at issue, are not compared (assumption 85).
DESIGN CHOICE -/
def engRanges (own : Bool) (op : EngOp) (r : BitVec 512) (off : Nat) : List (Span × Bool) :=
  let len := rcdLen r
  match op with
  | .coll 3 => []
  | .coll _ => spRange (rcdSrc r) (collLen r) false ++ if own then spRange (rcdDst r) (collLen r) true else []
  | .red _ => spRange (rcdSrc r) len false ++ if own then [((rcdOffset r, rcdOffset r + len), true)] else []
  | .msend | .stn _ => spRange (rcdSrc r) (plainSrcLen op r) false
  | .tspawn | .tgraph => []
  | _ =>
    (if isScratch (rcdSrc r) then (fixedSrc op r).flatMap fun a => spRange a len false else []) ++
    (if isScratch (rcdDst r) then (fixedDst op r).flatMap fun a => spRange a len true else []) ++
    ((sideArray op r).toList.map fun e => ((e.1, e.1 + e.2), op == .ldt)) ++
    (if op = .ldt then [((off + 48, off + 56), true)] else [])

/-- The agent that carries a transfer: its context's access-unit queue, or a Ferry channel (R343). -/
def agentOf (op : EngOp) (ctx : Ctx) (r : BitVec 512) : Nat :=
  match op with
  | .ferry | .ferryTier | .ferryQ => 16 + rcdCh r
  | _ => ctx.code

/-- The pending transfers of a core. -/
def CoreSt.transfers (c : CoreSt) : List EngCmd := c.cL.engq ++ c.cS.engq ++ c.ferry

/-- The ranges of the pending commands of the agents of core `k` other than `me`. -/
def State.otherTransfers (s : State) (k me : Nat) : List (Span × Bool) :=
  ((s.core k).transfers.filter fun e => agentOf e.op e.ctx e.rcd != me).flatMap fun e =>
    engRanges (s.ownDst k e.op e.rcd) e.op e.rcd e.off

/-- The format word that the `n`-th format entry of fq holds. -/
def CoreSt.fqWord (c : CoreSt) (n : Nat) : Option Word :=
  (c.fq.filterMap fun e => match e with | .fmt w => some w | .mode _ => none)[n]?

/-- The ranges of the pending matrix commands: issued and not accepted. A command that is not at the head yet stands
under the format word that it claims (R205). -/
def CoreSt.matRanges (c : CoreSt) : List (Span × Bool) :=
  let unheaded := c.matq.filter fun m => m.stage == 0
  ((unheaded.zip (List.range unheaded.length)).flatMap fun p =>
    p.1.ranges (if p.1.claim then c.fqWord ((unheaded.take p.2).filter (·.claim)).length else none) (c.tile p.1.acc).size) ++
  ((c.matq.filter fun m => m.stage == 1).flatMap fun m => m.ranges (some m.fw) (c.tile m.acc).size)

end Sys2Proof.Machine
end

