-- ==== Sys2Proof/Machine/Matrix.lean ====
section
/-! DEFINITION. The matrix words, opcodes 0xC0 to 0xD4, and the three moments of a matrix engine command (R191 to
R220, R458). -/

namespace Sys2Proof.Machine

open Sys2Proof

/-! ### Engine-state words (R197 to R201) -/

/-- fq is full (R198, R12). -/
def CoreSt.fqFull (c : CoreSt) : Bool := decide (32 ≤ c.fq.length)

/-- A tile command that X has issued has not reached the head of the engine queue (R198). -/
def CoreSt.tilesWait (c : CoreSt) : Bool :=
  c.matq.any fun m => m.stage == 0 && (m.op == .tgo || m.op == .tgoG || m.op == .tgoSp)

/-- FQPUSH and FQMODE: a full fq blocks while a tile command is on its way to the head, else QOVF (R198). INFO has no
queue name to give and is free (assumption 19). -/
def fqIssue (uses : List Reg) (f : State → FqEntry) : Issue :=
  { allowed := .onlyX
    unit := 2
    uses := uses
    reads := uses
    check := fun s => if s.cur.fqFull && !s.cur.tilesWait then some { cause := .qovf, info := w64 (s.freeVal 4) } else none
    wait := fun s => .need (!s.cur.fqFull)
    effect := fun _ s => s.updCur fun c => { c with fq := c.fq ++ [f s] } }

/-- FQPUSH (R198). -/
def execFqpush (c : Ctl) (xa : Reg) (s : State) : Host.Outcome State Fault Refusal :=
  s.issue (.fqpush c xa) (fqIssue [xa] fun s => .fmt (s.reg xa))

/-- FQMODE (R198). -/
def execFqmode (c : Ctl) (rm : RM) (s : State) : Host.Outcome State Fault Refusal :=
  s.issue (.fqmode c rm) (fqIssue [] fun _ => .mode rm)

/-- SCW (R199). -/
def execScw (c : Ctl) (sc : BitVec 4) (xa : Reg) (imm : BitVec 16) (s : State) : Host.Outcome State Fault Refusal :=
  s.issue (.scw c sc xa imm)
    { allowed := .onlyX, unit := 2, uses := [xa], reads := [xa]
      effect := fun _ s => s.updCur fun k =>
        { k with sc := Sparse.set 0 k.sc sc.toNat (BitVec.ofNat 8 (s.reg xa + zext imm).toNat) } }

/-- CTWR (R199). -/
def execCtwr (c : Ctl) (bank : Bool) (entry : BitVec 4) (xa : Reg) (imm : BitVec 16) (s : State) :
    Host.Outcome State Fault Refusal :=
  s.issue (.ctwr c bank entry xa imm)
    { allowed := .onlyX, unit := 2, uses := [xa], reads := [xa]
      effect := fun _ s => s.updCur fun k =>
        { k with ct := Sparse.set 0 k.ct (16 * b2n bank + entry.toNat) (BitVec.ofNat 16 (s.reg xa + zext imm).toNat) } }

/-- The offset of NESTW (R201), exact. -/
def nestwOff (s : State) (xa : Reg) (imm : BitVec 16) : Nat := (s.reg xa).toNat + imm.toNat * 64

/-- 64 bytes of scratchpad as X sees them, as a record (R187, R201, R207). -/
def State.xRecord (s : State) (off : Nat) : BitVec 512 := BitVec.ofNat 512 (s.cur.withScratch.sp.num off 64)

/-- NESTW (R201). The record is ordered against other agents' writes by token edges, so that it is judged once the word's tokens
are there. -/
def execNestw (c : Ctl) (nest : BitVec 3) (xa : Reg) (imm : BitVec 16) (s : State) : Host.Outcome State Fault Refusal :=
  s.issue (.nestw c nest xa imm)
    { allowed := .onlyX, unit := 2, uses := [xa], reads := [xa]
      check := fun s =>
        let off := nestwOff s xa imm
        if off % 64 ≠ 0 then some { cause := .align, addr := w64 off }
        else if spSize < off + 64 then some { cause := .sprng, addr := w64 off }
        else none
      ordered := fun s => if nestReserved (s.xRecord (nestwOff s xa imm)) then some { cause := .illop } else none
      late := fun s =>
        if s.cur.withScratch.spLost (nestwOff s xa imm) 64 then some { cause := .eccu, addr := w64 (nestwOff s xa imm), info := 5 } else none
      effect := fun _ s => s.updCur fun k => k.setNest nest.toNat (s.xRecord (nestwOff s xa imm)) }

/-! ### Issue of a command -/

/-- The target tile is empty from now on (R193). -/
def CoreSt.markTile (c : CoreSt) (n : Nat) : CoreSt := let t := c.tile n; c.setTile n { t with pend := t.pend + 1 }

/-- The tile is full. -/
def CoreSt.tileFull (c : CoreSt) (n : Nat) : Bool := (c.tile n).pend == 0

/-- The batch row in tile row 0 of the bound table (R313, R322); with no table bound no tile row holds a batch row, so
no row is masked (assumption 23). -/
def CoreSt.rbase (c : CoreSt) : Nat :=
  match c.batch with
  | some off => c.sp.num off 8 / 2 ^ 24 % 256
  | none => 256

/-- A command as X issues it. -/
def State.matCmd (s : State) (wid : Nat) (op : MatOp) (acc : Nat) : MatCmd :=
  { id := wid, wid := wid, pos := s.me.pc, word := s.wordAtPc, op := op, acc := acc, profile := 0, gang := 0
    accum := false, m := 0, n := 0, kk := 0, groups := [], nest := 0, sc := s.cur.sc, ct := s.cur.ct
    qmask := s.cur.qmask, rbase := s.cur.rbase, stage := 0, claim := false, fqEnd := s.cur.fqOut + s.cur.fq.length, cfmt := 0, fw := 0, mode := .rne, asked := false, leave := false
    snap := [] }

/-- OVLAP of a matrix command under DET (R218). -/
def State.matOverlap (s : State) (rs : List (Span × Bool)) : Option Trap :=
  if s.cur.det && rangesClash rs (s.otherTransfers s.k Ctx.X.code) then some { cause := .ovlap } else none

/-! ### Tile commands (R202 to R208) -/

/-- Group record `g` (R207), as a number. -/
def State.groupRaw (s : State) (nest : BitVec 512) (g : Nat) : Nat := s.cur.withScratch.sp.num (nestGtab nest + 8 * g) 8

/-- A group record. -/
def groupOf (v : Nat) : Group :=
  ⟨v / 2 ^ 56, v / 2 ^ 48 % 256, v / 2 ^ 24 % 2 ^ 24, v % 2 ^ 16⟩

/-- The groups of a TGO.G. -/
def State.groups (s : State) (nest : BitVec 512) (n : Nat) : List Group :=
  (List.range n).map fun g => groupOf (s.groupRaw nest g)

/-- Two groups' row ranges overlap. -/
def groupsOverlap : List Group → Bool
  | [] => false
  | g :: r => r.any (fun h => meets g.grow g.rows h.grow h.rows) || groupsOverlap r

/-- The checks of TGO.G's group count and table place (R203, R207). -/
def tableTrap16 (nest : BitVec 512) (n : Nat) : Option Trap :=
  if nestGtab nest % 8 ≠ 0 then some { cause := .align, addr := w64 (nestGtab nest) }
  else if spSize < nestGtab nest + 8 * n then some { cause := .sprng, addr := w64 (nestGtab nest) }
  else none

/-- The checks of TGO.G's group records (R207). -/
def State.groupTrap (s : State) (nest : BitVec 512) (n : Nat) : Option Trap :=
  let gs := s.groups nest n
  if (List.range n).any (fun g => s.groupRaw nest g / 2 ^ 16 % 256 != 0) ||
      gs.any (fun g => decide (128 < g.rows) || decide (128 < g.grow + g.rows)) || groupsOverlap gs then
    some { cause := .illop }
  else none

/-- Groups that a command captures at issue. -/
def State.tgoGroups (s : State) (op : MatOp) (t : Tile) : List Group :=
  match op with
  | .tgoG => s.groups (s.cur.nestSlot t.nest.toNat) (s.reg t.xm).toNat
  | _ => []

/-- R205's checks of a tile command under the format word that it claims; with none they are skipped. -/
def State.tgoFoot (s : State) (op : MatOp) (t : Tile) : Option Trap :=
  match s.cur.fqWord s.cur.claimed with
  | none => none
  | some fw =>
    tgoChecks op (s.cur.nestSlot t.nest.toNat) (s.reg t.xm).toNat (s.reg t.xn).toNat (s.reg t.xk).toNat (s.tgoGroups op t) fw

/-- OVLAP of a tile command (R218). -/
def State.tgoOvlap (s : State) (op : MatOp) (t : Tile) : Option Trap :=
  match s.cur.fqWord s.cur.claimed with
  | none => none
  | some fw =>
    s.matOverlap ((tgoSpans op (s.cur.nestSlot t.nest.toNat) (s.reg t.xm).toNat (s.reg t.xn).toNat (s.reg t.xk).toNat
      (s.tgoGroups op t) fw).map fun r => (r, false))

/-- The checks at issue of a tile command that read no scratchpad (R203, R205, R207, R219). The spec does not rank the causes
of step 6: the limits come first, then the profile, then R207 and R205 (assumption 83). DESIGN CHOICE -/
def State.tgoTrap (s : State) (op : MatOp) (t : Tile) : Option Trap :=
  let nest := s.cur.nestSlot t.nest.toNat
  let m := (s.reg t.xm).toNat
  let n := (s.reg t.xn).toNat
  let kk := (s.reg t.xk).toNat
  if 128 < n || 4096 < kk || 128 < nestTcol nest + n ||
      (if op = .tgoG then decide (16 < m) else decide (128 < m) || decide (128 < nestTrow nest + m)) then
    some { cause := .illop }
  else if t.profile.toNat = 0 ∨ 5 ≤ t.profile.toNat then some { cause := .profile, info := w64 t.profile.toNat }
  else if op = .tgoG then tableTrap16 nest m
  else s.tgoFoot op t

/-- The checks at issue of a tile command that a token edge can order a write before: those of TGO.G's table and of the groups
in it, and OVLAP, which compares no pair that a token edge orders (R207, R218). -/
def State.tgoOrdered (s : State) (op : MatOp) (t : Tile) : Option Trap :=
  (if op = .tgoG then (s.groupTrap (s.cur.nestSlot t.nest.toNat) (s.reg t.xm).toNat).or (s.tgoFoot op t) else none).or
    (s.tgoOvlap op t)

/-- ADV of a tile command (R206, R208). -/
def tgoAdv (op : MatOp) (nest : BitVec 512) : BitVec 512 :=
  let r := nestAdv (nestAdv nest 0) 1
  if op = .tgoSp then nestAdv r 3 else r

/-- The ACCOVF that falls on the first X word that reads a tile (R132). -/
def State.tileOvf (s : State) (n : Nat) : Option (FaultRecord × State) :=
  let t := s.cur.tile n
  match t.ovf with
  | some m =>
    if t.pend = 0 then
      some (s.satRecord m (64 + n), s.updCur fun c => c.setTile n { t with ovf := none })
    else none
  | none => none

/-- TGO, TGO.G and TGO.SP at issue (R206). With ACC the command reads the tile (R132). -/
def tgoIssue (op : MatOp) (t : Tile) : Issue :=
  { allowed := .onlyX
    unit := 2
    hold := true
    uses := [t.xm, t.xn, t.xk]
    reads := [t.xm, t.xn, t.xk]
    pre := fun s => if t.accum && s.reg t.xm != 0 && s.reg t.xn != 0 then s.tileOvf t.acc.toNat else none
    check := fun s => s.tgoTrap op t
    ordered := fun s => s.tgoOrdered op t
    late := fun s =>
      let nest := s.cur.nestSlot t.nest.toNat
      if op == .tgoG && s.cur.withScratch.spLost (nestGtab nest) (8 * (s.reg t.xm).toNat) then
        some { cause := .eccu, addr := w64 (nestGtab nest), info := 5 } else none
    effect := fun wid s =>
      let nest := s.cur.nestSlot t.nest.toNat
      let cmd := { s.matCmd wid op t.acc.toNat with
        profile := t.profile.toNat, gang := t.gang.toNat, accum := t.accum, claim := (s.cur.fqWord s.cur.claimed).isSome
        m := if op = .tgoG then 0 else (s.reg t.xm).toNat
        n := (s.reg t.xn).toNat, kk := (s.reg t.xk).toNat, groups := s.tgoGroups op t, nest := nest }
      s.updCur fun c =>
        let c := c.markTile t.acc.toNat
        let c := if t.adv then c.setNest t.nest.toNat (tgoAdv op nest) else c
        { c with matq := c.matq ++ [cmd], claimed := c.claimed + b2n cmd.claim } }

/-- TGO (R206). -/
def execTgo (c : Ctl) (t : Tile) (s : State) : Host.Outcome State Fault Refusal := s.issue (.tgo c t) (tgoIssue .tgo t)

/-- TGO.G (R207). -/
def execTgoG (c : Ctl) (t : Tile) (s : State) : Host.Outcome State Fault Refusal :=
  s.issue (.tgoG c t) (tgoIssue .tgoG t)

/-- TGO.SP (R208). -/
def execTgoSp (c : Ctl) (t : Tile) (s : State) : Host.Outcome State Fault Refusal :=
  s.issue (.tgoSp c t) (tgoIssue .tgoSp t)

/-! ### Tile moves (R212 to R216) -/

/-- ECCU of a word that reads a tile (R417). -/
def State.tileLost (s : State) (n : Nat) : Option Trap :=
  if (s.cur.tile n).bad then some { cause := .eccu, info := 7 } else none

/-- ACCZ (R212). -/
def execAccz (c : Ctl) (acc : BitVec 4) (s : State) : Host.Outcome State Fault Refusal :=
  s.issue (.accz c acc)
    { allowed := .onlyX, unit := 2, hold := true
      effect := fun wid s =>
        let cmd := s.matCmd wid .accz acc.toNat
        s.updCur fun k => let k := k.markTile acc.toNat; { k with matq := k.matq ++ [cmd] } }

/-- ACCMOV (R213): X waits for the source tile. -/
def execAccmov (c : Ctl) (accD accS : BitVec 4) (add : Bool) (s : State) : Host.Outcome State Fault Refusal :=
  s.issue (.accmov c accD accS add)
    { allowed := .onlyX, unit := 2, hold := true
      pre := fun s => (s.tileOvf accS.toNat).or (if add then s.tileOvf accD.toNat else none)
      wait := fun s => .need (s.cur.tileFull accS.toNat)
      late := fun s => s.tileLost accS.toNat
      effect := fun wid s =>
        let cmd := s.matCmd wid (.accmov accS.toNat add) accD.toNat
        s.updCur fun k => let k := k.markTile accD.toNat; { k with matq := k.matq ++ [cmd] } }

/-- The window limits of ACCLD and ACCST (R203). -/
def State.winBad (s : State) (w : Win) : Bool :=
  let nest := s.cur.nestSlot w.nest.toNat
  decide (128 < (s.reg w.xm).toNat) || decide (128 < (s.reg w.xn).toNat) ||
    decide (128 < nestTrow nest + (s.reg w.xm).toNat) || decide (128 < nestTcol nest + (s.reg w.xn).toNat)

/-- ALIGN, SPRNG and PROT of ACCLD and ACCST, elements of `sz` bytes (R214, R215). -/
def State.winTrap (s : State) (w : Win) (sz : Nat) (store : Bool) : Option Trap :=
  let nest := s.cur.nestSlot w.nest.toNat
  let rows := accstSpans nest (s.reg w.xm).toNat (s.reg w.xn).toNat sz
  if nestC nest % sz ≠ 0 ∨ nestCrs nest % sz ≠ 0 then some { cause := .align, addr := w64 (nestC nest) }
  else if rows.any fun r => decide (spSize < r.2) then some { cause := .sprng, addr := w64 (nestC nest) }
  else
    if store && rows.any (fun r => s.cur.meetsWindow r.1 (r.2 - r.1)) then some { cause := .prot, addr := w64 (nestC nest) }
    else none

/-- OVLAP of ACCLD and ACCST (R218). -/
def State.winOvlap (s : State) (w : Win) (sz : Nat) (store : Bool) : Option Trap :=
  s.matOverlap ((accstSpans (s.cur.nestSlot w.nest.toNat) (s.reg w.xm).toNat (s.reg w.xn).toNat sz).map fun r => (r, store))

/-- A window command with its counts and nest record; ADV adds CSTEP to CBASE (R215). -/
def State.winPush (s : State) (wid : Nat) (op : MatOp) (w : Win) : State :=
  let nest := s.cur.nestSlot w.nest.toNat
  let cmd := { s.matCmd wid op w.acc.toNat with m := (s.reg w.xm).toNat, n := (s.reg w.xn).toNat, nest := nest }
  s.updCur fun k =>
    let k := if op = .accld then k.markTile w.acc.toNat else k
    let k := if w.adv then k.setNest w.nest.toNat (nestAdv nest 2) else k
    { k with matq := k.matq ++ [cmd] }

/-- ACCST (R215): X waits for the tile; the checks that need its record are made once it is full. -/
def execAccst (c : Ctl) (w : Win) (s : State) : Host.Outcome State Fault Refusal :=
  s.issue (.accst c w)
    { allowed := .onlyX, unit := 2, hold := true, uses := [w.xm, w.xn], reads := [w.xm, w.xn]
      pre := fun s => s.tileOvf w.acc.toNat
      check := fun s => if s.winBad w then some { cause := .illop } else none
      wait := fun s => .need (s.cur.tileFull w.acc.toNat)
      late := fun s =>
        ((s.winTrap w (s.cur.tile w.acc.toNat).size true).or (s.winOvlap w (s.cur.tile w.acc.toNat).size true)).or
          (s.tileLost w.acc.toNat)
      effect := fun wid s => s.winPush wid .accst w }

/-- ACCLD (R214). -/
def execAccld (c : Ctl) (w : Win) (s : State) : Host.Outcome State Fault Refusal :=
  s.issue (.accld c w)
    { allowed := .onlyX, unit := 2, hold := true, uses := [w.xm, w.xn], reads := [w.xm, w.xn]
      check := fun s => if s.winBad w then some { cause := .illop } else s.winTrap w 4 false
      ordered := fun s => s.winOvlap w 4 false
      effect := fun wid s => s.winPush wid .accld w }

/-- Row `r` of a tile as an element. -/
def TileSt.row (t : TileSt) (r : Nat) : Elem := ofLanes 32 ((List.range 128).map fun j => (t.at r j).toNat)

/-- ACCRD (R216): X waits for the tile and reads the row in its issue cycle. -/
def execAccrd (c : Ctl) (vd : QName) (acc : BitVec 4) (ty : AccTy) (xa : Reg) (row : BitVec 7) (s : State) :
    Host.Outcome State Fault Refusal :=
  s.issue (.accrd c vd acc ty xa row)
    { allowed := .onlyX, unit := 2, uses := [xa], reads := [xa], pushes := [vd.toNat]
      pre := fun s => s.tileOvf acc.toNat
      check := fun s => s.dstTrap vd 1 []
      wait := fun s => .need (s.cur.tileFull acc.toNat)
      late := fun s => s.tileLost acc.toNat
      effect := fun wid s => s.pushOne wid 4 0 vd ((s.cur.tile acc.toNat).row (((s.reg xa).toNat + row.toNat) % 128)) }

/-! ### The head of the engine queue (R119, R206, R209 to R211) -/

/-- Heavy operations by kind (R154). -/
inductive Heavy where
  | tile | ferry | ladder
  deriving DecidableEq, Repr

/-- The code of a kind: its bit in LEAVE's mask. -/
def Heavy.code : Heavy → Nat
  | .tile => 0
  | .ferry => 1
  | .ladder => 2

/-- The island whose governor is asked: the core's quadrant island, or the uncore island of its die (R154, R451). -/
def islandOf (k : Nat) (h : Heavy) : Nat := if h = .ferry then 24 + dieOf k else quadOf k

/-- Leave of a kind that the core holds. -/
def CoreSt.kept (c : CoreSt) (h : Heavy) : Nat :=
  match h with
  | .tile => c.keptT
  | .ferry => c.keptF
  | .ladder => c.keptL

/-- Change the leave that the core holds. -/
def CoreSt.setKept (c : CoreSt) (h : Heavy) (n : Nat) : CoreSt :=
  match h with
  | .tile => { c with keptT := n }
  | .ferry => { c with keptF := n }
  | .ladder => { c with keptL := n }

/-- Ask for leave for a heavy operation (R210, R452): leave granted in advance is used first. -/
def State.askLeave (s : State) (k : Nat) (h : Heavy) (op : Nat) : State × Bool :=
  if 0 < (s.core k).kept h then (s.updCore k fun c => c.setKept h (c.kept h - 1), true)
  else
    let i := islandOf k h
    ({ s with gov := Sparse.put s.gov i (Sparse.get [] s.gov i ++ [⟨k, h.code, 1, some op⟩]) }, false)

/-- Change a matrix command. -/
def CoreSt.updMat (c : CoreSt) (id : Nat) (f : MatCmd → MatCmd) : CoreSt :=
  { c with matq := updFirst (fun m => m.id == id) f c.matq }

/-- Take a matrix command out. -/
def CoreSt.dropMat (c : CoreSt) (id : Nat) : CoreSt := { c with matq := delFirst (fun m => m.id == id) c.matq }

/-- One command fewer writes the tile. When the tile becomes full, a saturation sets EXOVF, and the trap stays for the
first reader only with EXTRAP (R132, R193). -/
def State.tileDone (s : State) (k n : Nat) : State :=
  let t := (s.core k).tile n
  let full := t.pend - 1 == 0
  let ovf := if full && !(s.core k).extrap then none else t.ovf
  let s := s.updCore k fun c => c.setTile n { t with pend := t.pend - 1, ovf := ovf, sat := t.sat && !full }
  if full && t.sat then s.updCtx k .X fun c => { c with sflags := c.sflags ||| flagEXOVF } else s

/-- A fault found at the head (R211): the command leaves without effect and counts as accepted; the cause is attached, and the
engine carries out later commands once the handler has returned. -/
def State.headFault (s : State) (k : Nat) (m : MatCmd) (t : Trap) : State :=
  let s := s.updCore k fun c => { c.dropMat m.id with matHold := true }
  let s := if m.op = .accst then s else s.tileDone k m.acc
  (s.attach k .X t true m.pos m.word).unhold k .X m.wid

/-- Mode entries at the head of fq. -/
def leadModes : List FqEntry → RM → RM × List FqEntry
  | .mode r :: l, _ => leadModes l r
  | l, m => (m, l)

/-- The checks of the format word at the head, in R206's order: R120, R122, then R208 and the gang (R209). -/
def MatCmd.headTrap (m : MatCmd) (w : Word) : Option Trap :=
  if fwBad w then some { cause := .illop }
  else if !profileAccepts m.profile w then some { cause := .profile, info := w64 m.profile }
  else if m.op = .tgoSp ∧ ¬(fwA w ≤ 4 ∨ fwA w = 7) then some { cause := .illop }
  else if m.gang ≠ gangFor (fwA w) (fwB w) then some { cause := .illop }
  else none

/-- The command at the head may use the engine: every earlier one has been accepted, and no handler of a head fault is still to
return (R211). -/
def CoreSt.headMat (c : CoreSt) : Option MatCmd :=
  if c.matHold then none
  else match c.matq.find? fun m => decide (m.stage < 2) with
  | some m => if m.stage = 0 then some m else none
  | none => none

/-- The core works: its contexts run or its operations finish. -/
def CoreSt.live (c : CoreSt) : Bool := c.status == .active || c.status == .draining

/-- The task of a core is running, or its other cores still start, so that its engines work (R55, R56). -/
def State.engines (s : State) (k : Nat) : Bool :=
  (s.core k).live &&
    match s.taskOf k with
    | some t => t.st == .running || t.st == .placed
    | none => false

/-- What a command of the TGO family finds in fq at the head (R119, R197): the engine mode after the mode entries before it,
how many of them there are, and the format word. It sees no entry that came after its issue. -/
def CoreSt.fqHead (c : CoreSt) (m : MatCmd) : RM × Nat × Option Word :=
  let mine := c.fq.take (m.fqEnd - c.fqOut)
  let r := leadModes mine c.emode
  (r.1, mine.length - r.2.length, match r.2 with | .fmt w :: _ => some w | _ => none)

/-- The fault of a command of the TGO family at the head, with its format word (R211, R417). -/
def CoreSt.headTrap (c : CoreSt) (m : MatCmd) (w : Word) : Option Trap :=
  (m.headTrap w).or (if m.accum && (c.tile m.acc).bad then some { cause := .eccu, info := 7 } else none)

/-- The mode entries before a command at the head are applied and leave fq, with its format word where it pops one (R119). -/
def CoreSt.fqLeave (c : CoreSt) (m : MatCmd) (mode : RM) (gone : Nat) : CoreSt :=
  { c with emode := mode, fq := c.fq.drop gone, fqOut := c.fqOut + gone, claimed := c.claimed - b2n m.claim }

/-- A command of the TGO family reaches the head (R119, R206, R210, R211). One that faults pops no format word (R119, R120,
R122). -/
def State.tgoHead (s : State) (k : Nat) (m : MatCmd) : State :=
  let (mode, modes, word) := (s.core k).fqHead m
  let failed (t : Trap) : State := (s.updCore k fun c => c.fqLeave m mode modes).headFault k m t
  match word with
  | some w =>
    match (s.core k).headTrap m w with
    | some t => failed t
    | none =>
      let m' := { m with fw := w, mode := mode, stage := 1 }
      let s := s.updCore k fun c =>
        let c := c.fqLeave m mode (modes + 1)
        let t := c.tile m.acc
        (c.setTile m.acc { t with cfmt := fwC w, ofmt := fwO w, osat := fwOsat w, mode := mode }).updMat m.id fun _ => m'
      if 64 < m'.atoms then
        let a := s.askLeave k .tile m.id
        a.1.updCore k fun c => c.updMat m.id fun x => { x with asked := true, leave := a.2 }
      else s
  | none => failed { cause := .fqunf }

/-- ACCMOV in its add mode. -/
def MatCmd.adds (m : MatCmd) : Bool :=
  match m.op with
  | .accmov _ add => add
  | _ => false

/-- ACCZ and ACCMOV are accepted when they start; a copy takes the source's record, and an add notes D's CFMT (R192, R199,
R213). An add to a tile that ECC has lost is a head fault (R417). -/
def State.moveStart (s : State) (k : Nat) (m : MatCmd) : State :=
  if m.adds && ((s.core k).tile m.acc).bad then s.headFault k m { cause := .eccu, info := 7 }
  else
    let s := s.updCore k fun c => c.updMat m.id fun x => { x with stage := 2, cfmt := (c.tile m.acc).cfmt }
    let s := match m.op with
      | .accmov src false => s.updCore k fun c =>
          let a := c.tile src
          let t := c.tile m.acc
          c.setTile m.acc { t with cfmt := a.cfmt, ofmt := a.ofmt, osat := a.osat, mode := a.mode }
      | _ => s
    s.unhold k .X m.wid

/-- TILE_CMD_HEAD (R119, R209, R458). -/
def execTileCmdHead (k : Nat) (s : State) : Host.Outcome State Fault Refusal :=
  if 384 ≤ k then .fault .noSuchCore
  else if !s.engines k then .next s
  else
    match (s.core k).headMat with
    | none => .next s
    | some m =>
      match m.op with
      | .tgo | .tgoG | .tgoSp => .next (s.tgoHead k m)
      | .accz | .accmov _ _ => .next (s.moveStart k m)
      | .accst | .accld => .next (s.updCore k fun c => c.updMat m.id fun x => { x with stage := 1 })

/-! ### Acceptance and completion (R192, R458) -/

/-- The first 64-byte block of some ranges that ECC has lost. -/
def CoreSt.lostBlock (c : CoreSt) (spans : List Span) : Option Nat :=
  (spans.flatMap fun r => linesOf r.1 (r.2 - r.1)).find? c.spBad.contains

/-- The operand bytes are read at acceptance, whole (assumption 14). ADDR of an ECCU is the lost block (R403). -/
def State.matRead (s : State) (k : Nat) (m : MatCmd) (spans : List Span) : State :=
  match (s.core k).lostBlock spans with
  | some b => s.headFault k m { cause := .eccu, info := 5, addr := w64 (64 * b) }
  | none =>
    let m' := { m with snap := (s.core k).sp, stage := 2 }
    let s := s.updCore k fun c => c.updMat m.id fun _ => m'
    let s := if m.op != .accld && m'.scaleNaN then
        s.updCtx k .X fun c => { c with sflags := c.sflags ||| flagCVNAN } else s
    s.unhold k .X m.wid

/-- ACCST's bytes are performed and the command is accepted and complete (R215, R458). -/
def State.accstDone (s : State) (k : Nat) (m : MatCmd) : State :=
  let t := (s.core k).tile m.acc
  let s := s.updCore k fun c => { c with sp := m.store t c.sp }
  let s := s.updCtx k .X fun c => { c with sflags := c.sflags ||| m.storeFlags t }
  (s.updCore k fun c => c.dropMat m.id).unhold k .X m.wid

/-- TILE_CMD_ACCEPT (R192): the started command whose leave has come. -/
def execTileCmdAccept (k : Nat) (s : State) : Host.Outcome State Fault Refusal :=
  if 384 ≤ k then .fault .noSuchCore
  else if !s.engines k then .next s
  else
    match if (s.core k).matHold then none else (s.core k).matq.find? fun m => m.stage == 1 && (!m.asked || m.leave) with
    | none => .next s
    | some m =>
      match m.op with
      | .tgo | .tgoG | .tgoSp => .next (s.matRead k m (tgoSpans m.op m.nest m.m m.n m.kk m.groups m.fw))
      | .accld => .next (s.matRead k m (accstSpans m.nest m.m m.n 4))
      | .accst => .next (s.accstDone k m)
      | .accz | .accmov _ _ => .next s

/-- The tile that a command writes. -/
def MatCmd.writes (m : MatCmd) : List Nat := if m.op = .accst then [] else [m.acc]

/-- The tiles that a command reads or writes. -/
def MatCmd.touches (m : MatCmd) : List Nat :=
  match m.op with
  | .accmov src _ => [m.acc, src]
  | _ => [m.acc]

/-- No earlier command stands in the way of the command's result (R193). -/
def CoreSt.mayComplete (c : CoreSt) (m : MatCmd) : Bool :=
  (c.matq.takeWhile fun x => x.id != m.id).all fun x =>
    !(x.writes.any m.touches.contains || x.touches.any m.writes.contains)

/-- The command's result in its tile (R206, R212 to R214). -/
def State.matResult (s : State) (k : Nat) (m : MatCmd) : State :=
  s.updCore k fun c =>
    let t := c.tile m.acc
    match m.op with
    | .tgo | .tgoG | .tgoSp =>
      let r := m.apply t
      c.setTile m.acc { r.1 with sat := t.sat || r.2, ovf := if r.2 then some ⟨m.pos, m.word, w64 (s.now - c.cycle)⟩ else t.ovf }
    | .accz => c.setTile m.acc { m.zero t with bad := false }
    | .accmov src add => c.setTile m.acc { m.move t (c.tile src) add with bad := t.bad && add }
    | .accld => c.setTile m.acc (m.load t)
    | .accst => c

/-- TILE_CMD_COMPLETE (R192). -/
def execTileCmdComplete (k id : Nat) (s : State) : Host.Outcome State Fault Refusal :=
  if 384 ≤ k then .fault .noSuchCore
  else if !s.engines k then .next s
  else
    match (s.core k).matq.find? fun m => m.id == id && m.stage == 2 with
    | none => .next s
    | some m =>
      if (s.core k).mayComplete m then
        .next (((s.matResult k m).updCore k fun c => c.dropMat id).tileDone k m.acc)
      else .next s

end Sys2Proof.Machine
end

