-- ==== Sys2Proof/Machine/Fetch.lean ====
section
/-! DEFINITION. What happens before a word issues: attached causes are taken, halts and pre-emption stop the context at
STOP points, and the word is fetched and decoded (R57, R70, R72, R87, R401, R402, R412, R415). -/

namespace Sys2Proof.Machine

open Sys2Proof

/-- The contexts of a word's class, by opcode (R99); a word whose opcode is unallocated never asks. -/
def classOf (op : Nat) : Allowed :=
  if op < 0x40 then .all
  else if op < 0x70 then
    if op = 0x48 ∨ op = 0x68 ∨ op = 0x69 ∨ op = 0x6A ∨ op = 0x6B then .onlyL else .ls
  else if op < 0xF0 then .onlyX
  else .all

/-- The word is privileged by its opcode, or is an MFS or MTS that names a privileged selector (R87 step 4, R95). -/
def privileged (w : Word) : Bool :=
  decide (0xF0 ≤ field w 40 8) || ((field w 40 8 == 0x33 || field w 40 8 == 0x34) && bitOf w 15)

/-- The trap of a word that does not decode (R87, steps 1 to 5). -/
def State.decodeTrap (s : State) (w : Word) (e : DecodeError) : Trap :=
  match e with
  | .badField =>
    if !(classOf (field w 40 8)).ok s.who.ctx then { cause := .ctxop }
    else if privileged w && s.me.level == 0 then { cause := .priv }
    else { cause := .illop }
  | _ => { cause := .illop }

/-- What comes of a context's turn: a new state, or a word to execute. -/
inductive Fetched where
  | done (s : State)
  | word (i : Instr)
  deriving DecidableEq, Repr

/-- A word that does not decode: a forced STOP point, attached causes, and HALT or pre-emption where it is a STOP point come first, and
then its trap (R72, R402). -/
def State.undecoded (s : State) (w : Word) (e : DecodeError) : State :=
  if s.me.forcedDue (bitOf w 63) then if s.cur.settled s.who.ctx then s.forceStop s.k s.who.ctx else s
  else
    match (s.atCycle (s.me.icycle + 1)).oldestCause none with
    | some t => t
    | none => if s.stopsHere (bitOf w 63) then s.stopHere else s.trap w (s.decodeTrap w e)

/-- The turn of a context: its word, which the issue takes up, or which does not decode. -/
def State.fetch (s : State) : Fetched :=
  if s.me.run ≠ .running then .done (s.haltDone s.k)
  else
    match decode s.wordAtPc with
    | .ok i => .word i
    | .error e => .done (s.undecoded s.wordAtPc e)

/-- Fields of the contexts that let the next word issue: it is the second of its issue cycle, so that no other word issues
with it. -/
def CtxSt.ready (c : CtxSt) : CtxSt :=
  { c with run := .running, pc := 0, wwords := max 1 c.wwords, nonStop := 0, attached := [], pair := some ⟨0, false, [], [], .go⟩ }

/-- The context that an opcode is allowed in: X for the X-only ones, else L (R99). -/
def contextFor (w : Nat) : Ctx := if 0x80 ≤ w / 2 ^ 40 % 256 ∧ w / 2 ^ 40 % 256 < 0xF0 then .X else .L

/-- Store a word at word 0 of the stream window of a context of core 0, and let that context issue next. -/
def State.placeWord (s : State) (w : Nat) : State :=
  let x := contextFor w
  let s := { s with turn := .issue, who := ⟨0, x⟩ }
  let s := s.updCore 0 fun c => { c with haltReq := false, preReq := false }
  let s := s.updCtx 0 x CtxSt.ready
  s.updCore 0 fun c => { c with sp := c.sp.setNum (c.ctx x).wbase 8 (w % 2 ^ 64) }

end Sys2Proof.Machine
end

