-- ==== Sys2Proof/Machine/Tasks.lean ====
section
/-! DEFINITION. Kernel images and their checks (R42, R45 to R49), the scheduler's queues and the creation of tasks (R287,
R420 to R423), completion words and completion records (R307, R437), and the release of graph nodes (R310). -/

namespace Sys2Proof.Machine

open Sys2Proof

/-! ### The kernel header (R47) -/

/-- A kernel header: 256 bytes. -/
abbrev Hdr := BitVec 2048

/-- Word `i` of a header. -/
def hdrWord (h : Hdr) (i : Nat) : Nat := field h (64 * i) 64
/-- GMAX. -/
def hdrGmax (h : Hdr) : Nat := field h 41 9
/-- GMIN. -/
def hdrGmin (h : Hdr) : Nat := field h 32 9
/-- PRIO. -/
def hdrPrio (h : Hdr) : Nat := field h 10 2
/-- EXTRAP. -/
def hdrExtrap (h : Hdr) : Bool := bitOf h 9
/-- DET. -/
def hdrDet (h : Hdr) : Bool := bitOf h 8
/-- LLEN, XLEN, SLEN. -/
def hdrLen (h : Hdr) (x : Ctx) : Nat := field h (64 + 16 * x.code) 14
/-- LWIN, XWIN, SWIN: offset and size in bytes. -/
def hdrWindow (h : Hdr) (x : Ctx) : Nat × Nat :=
  (4096 * field h (128 + 16 * x.code) 10, 4096 * (field h (128 + 16 * x.code + 10) 4 + 1))
/-- HFL, HFX, HFS and, as number 3, HTAP: the 16 bits of the entry. -/
def hdrHandler (h : Hdr) (i : Nat) : Nat := field h (192 + 16 * i) 16
/-- CLOFF in bytes. -/
def hdrCloff (h : Hdr) : Nat := 1024 * field h (256 + 52) 12
/-- CHUNK in rows. -/
def hdrChunk (h : Hdr) : Nat := 16 * (field h (256 + 44) 8 + 1)
/-- Groups. -/
def hdrGroups (h : Hdr) : Nat := field h (256 + 32) 12 + 1
/-- GOFF. -/
def hdrGoff (h : Hdr) : Nat := field h 256 32
/-- Entry `i` of the launch nest. -/
def hdrLevel (h : Hdr) (i : Nat) : Nat := field h (320 + 32 * i) 32
/-- Shape run `i`. -/
def hdrRun (h : Hdr) (i : Nat) : Nat := field h (512 + 64 * i) 64
/-- SPSZ. -/
def hdrSpsz (h : Hdr) : Nat := field h (64 * 24) 32

/-- A level of the launch nest (R48). -/
def levelOf (w : Nat) : NestLevel := ⟨w / 2 ^ 16 % 4, w % 2 ^ 16, w / 2 ^ 18 % 2 == 1⟩

/-- The launch nest (R48). -/
def hdrNest (h : Hdr) : List NestLevel := (List.range 6).map fun i => levelOf (hdrLevel h i)

/-- The extents of the present levels of a kind, multiplied. -/
def extentOf (n : List NestLevel) (kind : Nat) : Nat :=
  ((n.filter fun l => l.extent != 0 && l.kind == kind).map (·.extent)).prod

/-- C of R45. -/
def hdrCores (h : Hdr) : Nat := extentOf (hdrNest h) 1

/-- D of R45. -/
def hdrDies (h : Hdr) : Nat := extentOf (hdrNest h) 2

/-- G (R44). -/
def hdrGang (h : Hdr) : Nat := hdrCores h * hdrDies h

/-- A level has the kind spatial over dies. -/
def hdrOnDies (h : Hdr) : Bool := (hdrNest h).any fun l => l.extent != 0 && l.kind == 2

/-- The ragged level, if there is one: its place and extent. -/
def hdrRagged (h : Hdr) : Option (Nat × Nat) :=
  ((List.range 6).find? fun i => let l := levelOf (hdrLevel h i); l.extent != 0 && l.ragged).map fun i =>
    (i, (levelOf (hdrLevel h i)).extent)

/-- A shape run as first name, last name, depth and kind (R49). -/
structure ShapeRun where
  first : Nat
  last  : Nat
  depth : Nat
  kind  : Nat
  deriving DecidableEq, Repr

/-- Read a shape run. -/
def runOf (w : Nat) : ShapeRun := ⟨w % 2 ^ 10, w / 2 ^ 10 % 2 ^ 10, w / 2 ^ 20 % 16, w / 2 ^ 24 % 32⟩

/-- The valid shape runs. -/
def hdrRuns (h : Hdr) : List ShapeRun :=
  ((List.range 16).filter fun i => hdrRun h i / 2 ^ 63 == 1).map fun i => runOf (hdrRun h i)

/-- A run that R46 accepts by itself. -/
def ShapeRun.ok (r : ShapeRun) : Bool :=
  decide (1 ≤ r.depth) && decide (r.depth ≤ 8) && decide (r.first ≤ r.last) && decide (r.last ≤ 639) &&
    (decide (r.kind ≤ 2) || decide (16 ≤ r.kind))

/-- Two runs name a common queue. -/
def ShapeRun.overlaps (a b : ShapeRun) : Bool := decide (a.first ≤ b.last) && decide (b.first ≤ a.last)

/-- No two entries of a list stand in a relation. -/
def pairwiseNot {α : Type} (p : α → α → Bool) : List α → Bool
  | [] => true
  | a :: r => r.all (fun b => !p a b) && pairwiseNot p r

/-- The depth that the header gives queue `q` (R37, R49). -/
def shapeOf (h : Hdr) (q : Nat) : QState :=
  match (hdrRuns h).find? fun r => decide (r.first ≤ q) && decide (q ≤ r.last) with
  | some r => ⟨r.depth, r.kind, []⟩
  | none => defaultShape q

/-- Reserved header bits that are 1, and levels marked absent that are not zero (R46 to R49). -/
def hdrReserved (h : Hdr) : Bool :=
  let named : List (Nat × Nat) :=
    [(0, 12), (32, 18), (64, 14), (80, 14), (96, 14), (128, 14), (144, 14), (160, 14), (192, 14), (207, 1), (208, 14),
      (223, 1), (224, 14), (239, 1), (240, 14), (255, 1), (256, 64), (1536, 32), (1600, 64)] ++
    ((List.range 6).map fun i => (320 + 32 * i, 19)) ++
    ((List.range 16).flatMap fun i => [(512 + 64 * i, 29), (512 + 64 * i + 63, 1)])
  let rest := named.foldl (fun w f => w - field h f.1 f.2 * 2 ^ f.1) h.toNat
  rest != 0 || (List.range 6).any fun i => hdrLevel h i != 0 && (levelOf (hdrLevel h i)).extent == 0

/-- The windows as a list. -/
def hdrWindows (h : Hdr) : List (Nat × Nat) := [hdrWindow h .L, hdrWindow h .X, hdrWindow h .S]

/-- A check of R46 fails; `cores` is the number of cores of the partition. -/
def hdrBad (h : Hdr) (cores : Nat) : Bool :=
  let nest := (hdrNest h).filter fun l => l.extent != 0
  let g := hdrGang h
  field h 0 8 != 1 || hdrReserved h ||
  hdrGmin h == 0 || decide (hdrGmax h < hdrGmin h) || decide (384 < hdrGmax h) || decide (g < hdrGmin h) ||
  decide (hdrGmax h < g) || decide (cores < g) || (decide (1 < hdrDies h) && (decide (64 < hdrCores h) || decide (6 < hdrDies h))) ||
  (hdrWindows h).any (fun w => decide (spSize < w.1 + w.2)) ||
  !pairwiseNot (fun a b => meets a.1 a.2 b.1 b.2) (hdrWindows h) ||
  [Ctx.L, .X, .S].any (fun x => decide ((hdrWindow h x).2 / 8 < hdrLen h x)) ||
  nest.any (fun l => l.kind == 3 || (l.ragged && l.kind != 1)) || decide (1 < (nest.filter (·.ragged)).length) ||
  !(hdrRuns h).all ShapeRun.ok || !pairwiseNot ShapeRun.overlaps (hdrRuns h) ||
  decide (2048 < ((List.range 640).map fun q => (shapeOf h q).depth).sum) ||
  [(0, Ctx.L), (1, .X), (2, .S), (3, .X)].any fun e =>
    hdrHandler h e.1 / 2 ^ 15 == 1 && decide (hdrLen h e.2 ≤ hdrHandler h e.1 % 2 ^ 14)

/-! ### The scratchpad image (R42) -/

/-- The offset of the scratchpad image part from the start of the image. -/
def spOffset (h : Hdr) : Nat := 256 + ((hdrWindows h).map (·.2)).sum

/-- The records of a scratchpad image: offsets and bytes; `none` when they do not end exactly at its size. `fuel` bounds
the number of records. -/
def imageRecords : Nat → List Byte → Option (List (Nat × List Byte))
  | _, [] => some []
  | 0, _ => none
  | fuel + 1, bs =>
    let n := bytesToNat ((bs.drop 8).take 8)
    if bs.length < 16 + n then none
    else (imageRecords fuel (bs.drop (16 + n))).map fun r => (bytesToNat (bs.take 8), (bs.drop 16).take n) :: r

/-- Records of a scratchpad image. -/
def recordsOf (bs : List Byte) : Option (List (Nat × List Byte)) := imageRecords (bs.length / 16 + 1) bs

/-- Records in ascending offset, without overlap. -/
def recordsRise : List (Nat × List Byte) → Bool
  | a :: b :: r => decide (a.1 ≤ b.1) && decide (a.1 + a.2.length ≤ b.1 || a.2.isEmpty || b.2.isEmpty) && recordsRise (b :: r)
  | _ => true

/-- The scratchpad image fails R46. -/
def imageBad (h : Hdr) (bs : List Byte) : Bool :=
  match recordsOf bs with
  | none => true
  | some rs =>
    rs.any (fun r => decide (spSize < r.1 + r.2.length)) || !recordsRise rs ||
      !pairwiseNot (fun (a b : Nat × List Byte) => meets a.1 a.2.length b.1 b.2.length) rs ||
      rs.any fun r => (hdrWindows h).any fun w => meets r.1 r.2.length w.1 w.2

/-- A header as read. -/
def hdrOfBytes (bs : List Byte) : Hdr := BitVec.ofNat 2048 (bytesToNat bs)

/-- The number of cores of a partition. -/
def State.coreCount (s : State) (p : Nat) : Nat := ((List.range 6).map fun d => popCount 64 ((s.part p).reg d).toNat).sum

/-- What the check of an image gives: its header; a status BADHDR; or what stood in the way of reading it. `notes` are the reads that
the outcome rests on (R294, R295). -/
inductive Image where
  | ok (h : Hdr) (notes : List ReadEnt)
  | bad (notes : List ReadEnt)
  | stuck (r : Rd) (notes : List ReadEnt)
  deriving DecidableEq, Repr

/-- Read and check the image at `kimg` of partition `p` for core `k` (R46, R306, R436). -/
def State.image (s : State) (k p : Nat) (a : Acc) (kimg : Nat) : Image :=
  match s.readIn k p a kimg 256 with
  | .ok bs n =>
    let h := hdrOfBytes bs
    if hdrBad h (s.coreCount p) then .bad n
    else
      match s.readIn k p a (kimg + spOffset h) (hdrSpsz h) with
      | .ok sp m => if imageBad h sp then .bad (n ++ m) else .ok h (n ++ m)
      | r => .stuck r n
  | r => .stuck r []

/-! ### Queues and creation (R287, R420 to R423) -/

/-- The queue of a task. -/
def Task.queue (t : Task) : Nat := 4 * t.part + hdrPrio t.hdr

/-- Enter a task into the last segment of its queue, and give it the next sequence number (R287). The layout of the
64-byte entry is the scheduler's own, and its bytes are free (assumption 26). -/
def State.enterQueue (s : State) (t : Task) : State :=
  let t := { t with seq := s.nextSeq, since := s.now }
  let segs := (s.part t.part).segsOf t.queue
  match segs.getLast? with
  | none => s
  | some g =>
    let s := s.updPart t.part fun v =>
      { v with segs := updFirst (fun x => x.pa == g.pa) (fun x => { x with used := x.used ++ [t.seq] }) v.segs }
    let s := { s with nextSeq := s.nextSeq + 1, tasks := Sparse.put s.tasks t.seq t }
    let s := s.segWord (g.pa + 8) (g.used.length + 1)
    s.putBytes 0 (g.pa + 64 + 64 * (g.used.length % 1023)) ((List.range 64).map fun i => BitVec.ofNat 8 (s.freeVal i))

/-- Unlink the head of the spare chain and append it to a queue: TQSPARE takes the segment's NEXT and NV (R422). -/
def State.takeSpare (s : State) (p q pa : Nat) : State :=
  let next := s.hbm.num pa 8
  let s := s.updPart p fun v =>
    { v with tqhead := spareWord (next / 2 ^ 16 % 2 ^ 30 * 2 ^ 16) (next % 2 == 1),
             segs := v.segs ++ [⟨q, pa, []⟩] }
  s.writeChain ((s.part p).segsOf q)

/-- The queue's last segment has a free entry. -/
def Part.hasRoom (p : Part) (q : Nat) : Bool :=
  match (p.segsOf q).getLast? with
  | some g => decide (g.used.length < 1023)
  | none => false

/-- The interrupt code by which this model marks TQFULL of a queue at the landing processor of D1. -/
abbrev tqfullInterrupt : Nat := 0x2000

/-- The outcome of a creation. -/
inductive Made where
  | done (s : State)
  | wait (s : State)
  | refused
  deriving DecidableEq, Repr

/-- Create a task for the command `id` of a context, or for launch queue `id` when `core` is the sequencer (R422,
R423). -/
def State.create (s : State) (t : Task) (core : Nat) (ctx : Ctx) (id : Nat) : Made :=
  if 8192 ≤ s.tasks.length then .refused
  else
    if (s.part t.part).hasRoom t.queue then .done (s.enterQueue t)
    else
      match (s.part t.part).spare with
      | some pa => .done ((s.takeSpare t.part t.queue pa).enterQueue t)
      | none =>
        let s := if (s.part t.part).tqfull then s else { s with lpInts := s.lpInts ++ [(1, tqfullInterrupt + t.queue)] }
        .wait (s.updPart t.part fun v => { v with waiting := v.waiting ++ [⟨t, core, ctx, id⟩], tqfull := true })

/-- A task that has just been described, WAITING. -/
def newTask (ts part parent level : Nat) (nspec : Bool) (kimg args : Word) (cwa : Nat) (origin : Origin) (h : Hdr) : Task :=
  { seq := 0, ts := ts, part := part, parent := parent, level := level, nspec := nspec, kimg := kimg, args := args
    cwa := cwa, origin := origin, hdr := h, st := .waiting, spec := false, prov := false, target := [], got := []
    reqs := [], lists := [], ragged := false, left := [], reads := [], deps := [], berths := [], shares := [], rlqs := []
    parked := none, rst := false, failed := false, draining := false, saved := [], areas := []
    caps := [], since := 0 }

/-- A RESERVING task is revoked whole (R426). -/
def State.revoke (s : State) (t : Task) : State :=
  s.setTask { t with st := .waiting, target := [], got := [], reqs := [], since := s.now }

/-! ### Completion (R307, R437) -/

/-- A write on behalf of a task that is performed in memory as the task commits (R295, R296, R307). -/
def State.taskWrite (s : State) (t : Task) (l : Loc) (va : Nat) (bs : List Byte) : State :=
  if l.space = 5 then s.sequence l.addr bs sequencer .L 0 t.part va
  else
    let inner := if l.space = 1 then [] else (linesOf va bs.length).flatMap fun n => s.conflicts t n
    let outer := (linesOf l.addr bs.length).flatMap fun n => s.outsideConflicts (some t.part) l.space n
    (s.poke l.space l.addr bs).abortAll (inner ++ outer)

/-- A record that concerns no core (R307, R417, R435). -/
def looseRecord (part level : Nat) (cause : Cause) (addr info taskt tasks : Word) : FaultRecord :=
  { cause := cause, ctx := 3, eng := false, malf := false, rst := false, level := level, core := 511, part := part
    resume := 0, pos := 0, addr := addr, word := 0, info := info, taskt := taskt, tasks := tasks, cyc := 0 }

/-- The completion word of a task can be written or dropped now: its page is not moving. R307 does not say whether an unmapped page of
CWA is serviced first, at a commit and at an end with FAULT: a free value holds the word back or lets it be dropped with XLATE
(assumption 39). DESIGN CHOICE -/
def State.wordReady (s : State) (t : Task) : Bool :=
  t.cwa == 0 ||
    match s.translateIn sequencer t.part ⟨true, t.level == 0⟩ t.cwa with
    | .wait => false
    | .bad .xlate _ => s.freeVal 5 % 2 == 0
    | _ => true

/-- Write a completion word, or log that it could not be written (R307). -/
def State.completionWord (s : State) (t : Task) (v : Nat) : State :=
  if t.cwa = 0 then s
  else
    match s.translateIn sequencer t.part ⟨true, t.level == 0⟩ t.cwa with
    | .ok l => s.taskWrite t l t.cwa (leBytes 8 v)
    | .bad c m =>
      s.log { looseRecord t.part t.level c (w64 t.cwa) (w64 v) (w64 t.ts) (w64 t.seq) with
        malf := m, cyc := w64 (s.freeVal 6) }
    | .wait => s

/-- A launch queue. -/
def State.queue? (s : State) (q : Nat) : LaunchQ := Sparse.get .reset s.queues q

/-- Change a launch queue. -/
def State.updQueue (s : State) (q : Nat) (f : LaunchQ → LaunchQ) : State :=
  { s with queues := Sparse.put s.queues q (f (s.queue? q)) }

/-- VEC of a queue, by the port that carries it: port 0 unless it is down (R17, R433). -/
def State.raiseVec (s : State) (q : Nat) : State :=
  { s with msix := s.msix ++ [(if s.ports.contains 0 then 0 else 1, field (s.queue? q).ctl 32 11)] }

/-- The bytes of a completion record. -/
def completionBytes (n csz q : Nat) (tag : Word) (seq status : Nat) : List Byte :=
  leBytes 8 tag.toNat ++ leBytes 8 seq ++ leBytes 8 status ++ leBytes 8 ((1 - n / 2 ^ csz % 2) * 2 ^ 63 + q)

/-- Write the completion record of a launch (R437). -/
def State.completionRecord (s : State) (q : Nat) (tag : Word) (irq : Bool) (seq status : Nat) : State :=
  let b := s.queue? q
  let csz := field b.ctl 0 4
  let n := b.ctail.toNat
  let s := s.poke 1 (field b.cbase 6 58 * 64 + 32 * (n % 2 ^ csz)) (completionBytes n csz q tag seq status)
  let s := s.updQueue q fun b => { b with ctail := b.ctail + 1 }
  if irq then s.raiseVec q else s

/-- The completion record that a task's origin asks for. -/
def State.complete (s : State) (t : Task) (status : Nat) : State :=
  match t.origin with
  | .host q tag irq => s.completionRecord q tag irq t.seq status
  | _ => s

/-! ### Task graphs (R308 to R310) -/

/-- What a read of a node at its port finds: its place and its 64 bytes; a wait; a fault found in translation; or bytes that ECC has
lost, with INFO. -/
inductive NodeRead where
  | ok (l : Loc) (r : BitVec 512)
  | wait
  | bad (va : Nat) (cause : Cause) (malf : Bool)
  | lost (va info : Nat)
  deriving DecidableEq, Repr

/-- Node `n` of a table read as 64 bytes at the HBM port; of a replicated page, as the sequencer has ordered it (R310, R353). A node
that is then updated is translated for a write, so that no table is updated in a read-only window (R223). Its walk and its port are
traffic of the partition (R430). -/
def State.nodeAt (s : State) (p tab n : Nat) (write : Bool) : NodeRead :=
  let va := tab + 64 * n
  if !s.hbmServed then .wait
  else
    match s.translateIn sequencer p ⟨write, false⟩ va with
    | .ok l =>
      if !s.portOpen l then .wait
      else if s.lostAt sequencer l 64 then .lost va (lostInfo l.space)
      else .ok l (BitVec.ofNat 512 (bytesToNat (s.portBytes l 64)))
    | .wait => .wait
    | .bad c m => .bad va c m

/-- TSOFF of a node. -/
abbrev nodeTsoff (r : BitVec 512) : Nat := field r 128 64
/-- GEN. -/
abbrev nodeGen (r : BitVec 512) : Nat := field r 248 8
/-- RGEN. -/
abbrev nodeRgen (r : BitVec 512) : Nat := field r 240 8
/-- NPRED. -/
abbrev nodeNpred (r : BitVec 512) : Nat := field r 224 16
/-- CNT. -/
abbrev nodeCnt (r : BitVec 512) : Nat := field r 208 16
/-- NSUCC. -/
abbrev nodeNsucc (r : BitVec 512) : Nat := field r 192 5
/-- SUCCi. -/
abbrev nodeSucc (r : BitVec 512) (i : Nat) : Nat := field r (256 + 16 * i) 16

/-- The successors of a node. -/
def nodeSuccs (r : BitVec 512) : List Nat := (List.range (nodeNsucc r)).map fun i => nodeSucc r i

/-- Word 0x18 of a node with new GEN, RGEN and CNT. -/
def nodeWord (r : BitVec 512) (gen rgen cnt : Nat) : Nat :=
  gen * 2 ^ 56 + rgen * 2 ^ 48 + nodeNpred r * 2 ^ 32 + cnt * 2 ^ 16 + field r 192 16

/-- Update a node's counters at its port (R310): by the sequencer on a replicated page (R353), else in memory. -/
def State.putNode (s : State) (p va : Nat) (l : Loc) (r : BitVec 512) (gen rgen cnt : Nat) : State :=
  let bs := leBytes 8 (nodeWord r gen rgen cnt)
  if l.space = 5 then s.sequence (l.addr + 24) bs sequencer .L 0 p (va + 24) else s.partWrite p l.space (l.addr + 24) bs

/-- What the image of a node's kernel gives: it can be read, it cannot be read yet, or it gives no task. -/
def State.nodeImage (s : State) (i : Instance) (r : BitVec 512) : Image := s.image sequencer i.part ⟨false, i.level == 0⟩ (field r 0 64)

/-- Create the task of node `n` of an instance from its record and header (R286, R310). A creation that is refused gives no task; no
rule says more (assumption 27). -/
def State.nodeTask (s : State) (i : Instance) (n : Nat) (r : BitVec 512) (h : Hdr) (core : Nat) (ctx : Ctx) (id : Nat) : Made :=
  let word := fun (j : Nat) => w64 (field r (64 * j) 64)
  if field r 0 6 ≠ 0 then .done s
  else
    match s.create (newTask (i.tsbase + nodeTsoff r) i.part i.parent i.level false (word 0) (word 1) 0
        (.node i.tab n i.igen i.tsbase) h) core ctx id with
    | .refused => .done s
    | m => m

/-- The state after a creation that may wait. -/
def Made.state (m : Made) (s : State) : State :=
  match m with
  | .done t => t
  | .wait t => t
  | .refused => s

/-- The instance that was replayed last on a table (R311). -/
def State.instanceOf (s : State) (p tab : Nat) : Option Instance := s.graphs.find? fun i => i.part == p && i.tab == tab

/-- TGRAPH begins an instance. -/
def State.newInstance (s : State) (i : Instance) : State :=
  { s with graphs := (s.graphs.filter fun j => !(j.part == i.part && j.tab == i.tab)) ++ [i] }

/-- The outcome of a part of a release: it is done, or it cannot be done yet. -/
inductive Released where
  | done (s : State) (r : Release)
  | later
  deriving DecidableEq, Repr

/-- One successor is counted down (R310): a node that its instance has not armed is armed, and a release by an older instance
counts against the counters of the newer one that has armed the node (R311). -/
def State.countDown (s : State) (d : Release) (n : Nat) (rest : List Nat) : Released :=
  let i := d.inst
  match s.nodeAt i.part i.tab n true with
  | .wait => .later
  | .bad _ .xlate _ => .later
  | .bad _ _ _ => .done s { d with succs := rest }
  | .lost _ _ => .done s { d with succs := rest }
  | .ok l r =>
    let newer := (s.instanceOf i.part i.tab).filter fun j => j.igen != i.igen && nodeGen r == j.igen
    let armed := nodeGen r == i.igen || newer.isSome
    let cnt := ((if armed then nodeCnt r else nodeNpred r) + 65535) % 65536
    let s := s.putNode i.part (i.tab + 64 * n) l r (if armed then nodeGen r else i.igen) (nodeRgen r) cnt
    .done s { d with succs := rest, make := if cnt = 0 then some (n, newer.getD i) else none }

/-- The task of a node whose count has come to 0 is created from the node's record as it is read now (R310). What cannot be read at
all gives no task, and a creation that waits for a queue segment (R422) does not hold the commit of the node that has released it
(assumption 27). DESIGN CHOICE -/
def State.makeNode (s : State) (d : Release) (n : Nat) (i : Instance) : Released :=
  let done := { d with make := none }
  match s.nodeAt i.part i.tab n false with
  | .wait => .later
  | .bad _ .xlate _ => .later
  | .bad _ _ _ => .done s done
  | .lost _ _ => .done s done
  | .ok _ r =>
    match s.nodeImage i r with
    | .ok h _ => .done ((s.nodeTask i n r h sequencer .L 32).state s) done
    | .stuck .wait _ => .later
    | .stuck (.bad _ .xlate _) _ => .later
    | _ => .done s done

/-- The node that has finished has not released its successors in this instance: RGEN takes the generation (R310). -/
def State.testRgen (s : State) (d : Release) (n : Nat) : Released :=
  let i := d.inst
  match s.nodeAt i.part i.tab n true with
  | .wait => .later
  | .bad _ .xlate _ => .later
  | .bad _ _ _ => .done s { d with test := none }
  | .lost _ _ => .done s { d with test := none }
  | .ok l r =>
    if nodeRgen r = i.igen then .done s { d with test := none }
    else .done (s.putNode i.part (i.tab + 64 * n) l r (nodeGen r) i.igen (nodeCnt r)) { d with test := none, succs := nodeSuccs r }

/-- The next part of a release; `none` when nothing is left. -/
def State.releasePart (s : State) (d : Release) : Option Released :=
  match d.test, d.make, d.succs with
  | some n, _, _ => some (s.testRgen d n)
  | none, some (n, i), _ => some (s.makeNode d n i)
  | none, none, n :: rest => some (s.countDown d n rest)
  | none, none, [] => none

/-- A release goes on as far as it can: the parts left, or nothing. A page that cannot be translated is mapped by the landing
processor's writes, and the release waits for it. `fuel` bounds the number of parts. -/
def State.releaseOn (s : State) : Nat → Release → State × Option Release
  | 0, d => (s, some d)
  | fuel + 1, d =>
    match s.releasePart d with
    | none => (s, none)
    | some .later => (s, some d)
    | some (.done t e) => t.releaseOn fuel e

/-- The parts that a release may have: one test, and a count and a creation for each of 16 successors. -/
abbrev releaseParts : Nat := 40

/-- A node task that has reached DONE releases its successors, once per instance (R310). -/
def State.releaseNode (s : State) (t : Task) : State :=
  match t.origin with
  | .node tab n igen tsbase =>
    let (s, left) := s.releaseOn releaseParts ⟨t.seq, ⟨t.part, tab, igen, tsbase, t.parent, t.level⟩, some n, [], none⟩
    { s with releases := s.releases ++ left.toList }
  | _ => s

/-- A release that could not go on is tried again; the oldest comes first. -/
def State.releaseStep (s : State) : State :=
  match s.releases with
  | [] => s
  | d :: rest =>
    let (s, left) := ({ s with releases := [] } : State).releaseOn releaseParts d
    { s with releases := left.toList ++ rest ++ s.releases }

/-- The task's releases have all been made. -/
def State.released (s : State) (t : Task) : Bool := s.releases.all fun d => d.task != t.seq

end Sys2Proof.Machine
end

