-- ==== Sys2Proof/Machine/Paging.lean ====
section
/-! DEFINITION. Shoot-downs and page moves (R372, R388, R395 to R399). -/

namespace Sys2Proof.Machine

open Sys2Proof

/-- What a shoot-down names: a 64 KiB page, a 16 GiB block, or everything (R372). -/
inductive Shoot where
  | page (va : Nat)
  | block (va : Nat)
  | all
  deriving DecidableEq, Repr

/-- A range of addresses, those with `a / 2 ^ shift = key`, shares an address with what the shoot-down names. -/
def Shoot.covers (d : Shoot) (shift key : Nat) : Bool :=
  match d with
  | .page va => if shift < 16 then key / 2 ^ (16 - shift) == va / 2 ^ 16 else key == va / 2 ^ shift
  | .block va => if shift < 34 then key / 2 ^ (34 - shift) == va / 2 ^ 34 else key == va / 2 ^ shift
  | .all => true

/-- The size of what a TLB entry translates, as a power of two. -/
def TlbEntry.shift (t : TlbEntry) : Nat := if t.win then 12 else if t.block then 34 else 16

/-- An entry of a TLB is dropped by a shoot-down in partition `p` (R372, R387). -/
def Shoot.drops (d : Shoot) (p : Nat) (t : TlbEntry) : Bool := t.part == p && d.covers t.shift t.vpn

/-- An entry that a walker has kept is dropped by a shoot-down in partition `p` (R388). -/
def Shoot.forgets (d : Shoot) (p : Nat) (w : WalkEntry) : Bool := w.part == p && d.covers w.shift w.key

/-- An engine translates a page afresh after a shoot-down that names the page (R389, R400). -/
def EngCmd.retranslate (d : Shoot) (e : EngCmd) : EngCmd :=
  { e with srcTr := e.srcTr.filter fun t => !d.covers 16 t.1, dstTr := e.dstTr.filter fun t => !d.covers 16 t.1 }

/-- A core's TLB and engines drop the named translations. -/
def CoreSt.shoot (c : CoreSt) (p : Nat) (mine : Bool) (d : Shoot) : CoreSt :=
  let g := fun (l : List EngCmd) => if mine then l.map (EngCmd.retranslate d) else l
  { c with tlb := c.tlb.filter fun t => !d.drops p t
           cL := { c.cL with engq := g c.cL.engq }, cS := { c.cS with engq := g c.cS.engq }, ferry := g c.ferry }

/-- Every TLB and walker drops the named translations (R399). -/
def State.shoot (s : State) (p : Nat) (d : Shoot) : State :=
  { s with
    cores := s.cores.map fun (e : Nat × CoreSt) => (e.1, e.2.shoot p (s.partOf e.1 == p) d)
    tlb2 := s.tlb2.map fun (e : Nat × List TlbEntry) => (e.1, e.2.filter fun t => !d.drops p t)
    walks := s.walks.map fun (e : Nat × List WalkEntry) => (e.1, e.2.filter fun w => !d.forgets p w) }

/-- A ladder command's swap is under way on a page that the shoot-down names (R266). -/
def LadCmd.swaps (m : LadCmd) (d : Shoot) : Bool :=
  decide (4 ≤ m.stage) && m.fail.isNone && m.held.any fun t => d.covers 16 t.1

/-- A write already translated, and not yet performed at device scope, reaches an address that the shoot-down names: a posted
store, an update of a replicated page that some die has not applied, or the rest of a ladder command's swap (R353, R399, R400). The
swap of a speculative task goes to version lines, which are translated at commit (R397). -/
def State.translated (s : State) (p : Nat) (d : Shoot) : Bool :=
  s.cores.any (fun e => s.partOf e.1 == p &&
    (e.2.posted.any (fun q => d.covers 0 q.va) || (!s.isSpec e.1 && e.2.ladq.any fun m => m.swaps d))) ||
    s.seqLog.any fun u => u.part == p && d.covers 0 u.va

/-- The address of the leaf of a page at level 2, through pointers and directories (R385); `none` when there is none. -/
def State.leafEntry (s : State) (p va : Nat) : Option Nat :=
  let root := (s.part p).reg 10
  let i1 := va / 2 ^ 34 % 2 ^ 18
  let i2 := va / 2 ^ 16 % 2 ^ 18
  let first : Option Nat :=
    if !bitOf root 63 then none
    else if !bitOf root 0 then some (entryNode root + 8 * i1)
    else
      match throughDir (fun _ pa => s.entry pa) 47 (entryNode root) i1 with
      | .ok a => some a
      | .error _ => none
  match first with
  | none => none
  | some a =>
    let e := s.entry a
    match entryType e with
    | 1 => if pointerOk e (2 ^ 21) then some (entryNode e + 8 * i2) else none
    | 2 =>
      if pointerOk e (2 ^ 16) then
        match throughDir (fun _ pa => s.entry pa) 29 (entryNode e) i2 with
        | .ok a => some a
        | .error _ => none
      else none
    | _ => none

/-- The bits of a leaf with a new address and residence, MIG clear: 0 HBM, 1 host, 2 second tier (R384, R395). -/
def leafMoved (w : Word) (space addr : Nat) (hold : Bool) : Word :=
  w64 (addr / 2 ^ 16 * 2 ^ 16 + b2n hold * 2 ^ 11 + field w 6 4 * 2 ^ 6 + (if space = 1 then 2 ^ 5 else 0) +
    (if space = 2 then 2 ^ 4 else 0) + field w 0 4)

/-- Write an entry of partition `p`'s page table, performed at device scope. -/
def State.setEntry (s : State) (p pa : Nat) (w : Word) : State := s.partWrite p 0 pa (leBytes 8 w.toNat)

/-- Read sets follow a page to its new place, so that a later outside write there is found (R296, R397). -/
def State.moveReads (s : State) (p va : Nat) (l : Loc) : State :=
  { s with tasks := s.tasks.map fun (e : Nat × Task) =>
      if e.2.part = p then
        (e.1, { e.2 with reads := e.2.reads.map fun r =>
          if r.line / 2 ^ 10 = va / 2 ^ 16 then { r with space := l.space, pline := l.addr / 64 + r.line % 2 ^ 10 } else r })
      else e }

/-- Bindings of the descriptors of a page follow it (R254). -/
def State.moveBinds (s : State) (a : Nat) (l : Loc) : State :=
  { s with binds := s.binds.map fun (b : Bind) =>
      if b.desc / 2 ^ 16 = a / 2 ^ 16 then { b with desc := l.addr + b.desc % 2 ^ 16 } else b }

/-- A page as a mover finds it: one whose leaf `w` stands at an entry of the page table, or one of a berth window (R387, R395). -/
inductive PageAt where
  | leaf (entry : Nat) (w : Word)
  | berth (l : Loc)
  deriving DecidableEq, Repr

/-- The residence that a leaf gives: 0 HBM, 1 host memory, 2 second tier (R384). -/
def leafSpace (w : Word) : Nat := if leafHost w then 1 else if leafTier w then 2 else 0

/-- Where the page's bytes stand. -/
def PageAt.loc : PageAt → Loc
  | .leaf _ w => ⟨leafSpace w, leafAddr w⟩
  | .berth l => l

/-- The page lies in the second tier. -/
def PageAt.out (h : PageAt) : Bool := h.loc.space == 2

/-- Where a page of a berth window stands: where the window puts it, until a mover has moved it (R387; assumption 30). -/
def State.berthHome (s : State) (p va : Nat) : Except Cause Loc :=
  match s.movedTo p va with
  | some l => .ok l
  | none => s.windowPlace p (va / 2 ^ 16 * 2 ^ 16)

/-- A mover has put a page of a berth window at `l`. -/
def State.setMoved (s : State) (p va : Nat) (l : Loc) : State :=
  { s with moved := (s.moved.filter fun m => !(m.part == p && m.page == va / 2 ^ 16)) ++ [⟨p, va / 2 ^ 16, l⟩] }

/-- Lines of a page that ECC has lost are lost at its new place too (assumption 71). -/
def State.carryLoss (s : State) (a l : Loc) : State :=
  { s with bad := (List.range 1024).foldl (fun (m : Sparse Nat) i =>
      if (Sparse.find s.bad (a.space * 2 ^ 60 + (a.addr / 64 + i))).isSome then Sparse.put m (l.space * 2 ^ 60 + (l.addr / 64 + i)) 1
      else m) s.bad }

/-- Step 4 of R395: the page's new place is known. -/
def State.setPlace (s : State) (p va : Nat) (h : PageAt) (l : Loc) (hold : Bool) : State :=
  match h with
  | .leaf entry w => s.setEntry p entry (leafMoved w l.space l.addr hold)
  | .berth _ => s.setMoved p va l

/-- Steps 1 to 4 of R395, taken together (assumption 28): the TLBs drop the page, 64 KiB are copied, and the page's entry takes its new
address and residence. -/
def State.movePage (s : State) (p va : Nat) (h : PageAt) (l : Loc) (hold : Bool) : State :=
  let from' := h.loc
  let bytes := s.peek from'.space from'.addr 65536
  let s := (s.shoot p (.page va)).moveReads p va l
  let s := if from'.space = 0 then s.moveBinds from'.addr l else s
  let s := (s.poke l.space l.addr bytes).carryLoss from' l
  let s := s.abortAll ((linesOf l.addr 65536).flatMap fun n => s.outsideConflicts (some p) l.space n)
  s.setPlace p va h l hold

/-- The page that a mover can move now, with no store on its way: one of a berth window, or one with a leaf of level 2 that is well
formed, neither moving nor replicated. The page table is not used for an address of a window (R387). -/
def State.movable (s : State) (p va : Nat) : Option PageAt :=
  if s.translated p (.page va) then none
  else if (s.part p).inBerths va then
    match s.berthHome p va with
    | .ok l => some (.berth l)
    | .error _ => none
  else if (s.part p).inWs va then none
  else
    match s.leafEntry p va with
    | none => none
    | some a =>
      let w := s.entry a
      if entryType w = 3 ∧ leafOk w false ∧ !leafMig w ∧ !leafRep w then some (.leaf a w) else none

end Sys2Proof.Machine
end

