-- ==== Sys2Proof/Machine/Transfer.lean ====
section
/-! DEFINITION. The engine words that move bulk data and the steps of their commands: SPLD, SPST, GATH, SCAT, LDT, FERRY,
FERRY.TIER, FERRY.Q (R227 to R237), and the end of a command (R68, R229, R230). -/

namespace Sys2Proof.Machine

open Sys2Proof

/-! ### Commands -/

/-- The scratchpad offset of an E-format word's record (R89). -/
def rcdOff (e : EArgs) : Nat := e.rcd.toNat * 64

/-- The record, copied at issue (R227). -/
def State.rcdAt (s : State) (e : EArgs) : BitVec 512 := BitVec.ofNat 512 (s.cur.sp.num (rcdOff e) 64)

/-- The token inputs of an E-format word. -/
def tkis (e : EArgs) : List (BitVec 5) := [e.tki0, e.tki1, e.tki2]

/-- A command as its context issues it. -/
def State.engCmd (s : State) (wid : Nat) (op : EngOp) (e : EArgs) : EngCmd :=
  { id := wid, ctx := s.who.ctx, op := op, rcd := s.rcdAt e, off := rcdOff e, tko := e.tko, pos := s.me.pc
    word := s.wordAtPc, taken := false, stage := 0, row := 0, buf := [], done := 0, aux := 0, idx := none, srcTr := []
    dstTr := [], pages := [], after := [], limit := 0, name := 0, halt := none, fail := none, fin := false }

/-- Depth of an engine queue (R229). -/
abbrev engDepth : Nat := 16

/-- The engine queue has a free place. -/
def State.engFree (s : State) : Bool := decide (s.me.engq.length < engDepth)

/-- A command enters its context's engine queue. -/
def State.pushEng (s : State) (c : EngCmd) : State := s.updMe fun x => { x with engq := x.engq ++ [c] }

/-- ECC has lost the record; the word that copies it consumes it (R417). -/
def State.rcdLost (s : State) (e : EArgs) : Option Trap :=
  if s.cur.spLost (rcdOff e) 64 then some { cause := .eccu, addr := w64 (rcdOff e), info := 5 } else none

/-- The 64 KiB pages that a range meets, by an address in each. -/
def pagesOf (a n : Nat) : List Nat :=
  if n = 0 then [] else (List.range ((a + n - 1) / 2 ^ 16 - a / 2 ^ 16 + 1)).map fun i => max a ((a / 2 ^ 16 + i) * 2 ^ 16)

/-- A virtual range meets a page of host memory. -/
def State.rangeOnHost (s : State) (k : Nat) (a : Acc) (va n : Nat) : Bool :=
  (pagesOf va n).any fun p =>
    match s.translate k a p with
    | .ok l => l.space == 1
    | _ => false

/-- A transfer writes host memory, as far as its record fixes its rows: irrevocable (R256, R300). -/
def State.writesHost (s : State) (op : EngOp) (r : BitVec 512) : Bool :=
  kindOf op == 1 && (fixedDst op r).any fun d => isVirtual d && s.rangeOnHost s.k (s.me.acc true) d (rcdLen r)

/-- OVLAP of a transfer under DET (R218, R237). -/
def State.engOverlap (s : State) (op : EngOp) (r : BitVec 512) (off : Nat) : Option Trap :=
  if s.cur.det &&
      rangesClash (engRanges (s.ownDst s.k op r) op r off)
        (s.otherTransfers s.k (agentOf op s.who.ctx r) ++ s.cur.matRanges) then
    some { cause := .ovlap }
  else none

/-- The checks of R232 and R237 at issue, of the record as the word's token edges let it be read (R218, R227; assumption 88).
DEDUCED -/
def State.transferTrap (s : State) (op : EngOp) (e : EArgs) : Option Trap :=
  ((s.rcdLost e).or (s.cur.rcdTrap op (s.rcdAt e) (rcdOff e))).or (s.engOverlap op (s.rcdAt e) (rcdOff e))

/-- A speculative task waits for the frontier. -/
def State.frontWait (s : State) (irrevocable : Bool) : Wait := .need (!(irrevocable && s.isSpec s.k))

/-- SPLD, SPST, GATH, SCAT and LDT (R229, R231). -/
def transferIssue (op : EngOp) (e : EArgs) : Issue :=
  { allowed := .ls
    engine := true
    tki := tkis e
    ordered := fun s => s.transferTrap op e
    wait := fun s => (Wait.need s.engFree).and (s.frontWait (s.writesHost op (s.rcdAt e)))
    effect := fun wid s => s.pushEng (s.engCmd wid op e) }

/-- The FERRY words: the command enters the elastic buffer of the Ferry path (R77, R229). -/
def ferryIssue (op : EngOp) (e : EArgs) : Issue :=
  { allowed := .ls
    hold := true
    engine := true
    tki := tkis e
    ordered := fun s => s.transferTrap op e
    wait := fun s => s.frontWait (s.writesHost op (s.rcdAt e))
    effect := fun wid s => s.updCur fun k => { k with ferry := k.ferry ++ [s.engCmd wid op e] } }

/-- SPLD (R231). -/
def execSpld (c : Ctl) (e : EArgs) (s : State) : Host.Outcome State Fault Refusal :=
  s.issue (.spld c e) (transferIssue .spld e)

/-- SPST (R231). -/
def execSpst (c : Ctl) (e : EArgs) (s : State) : Host.Outcome State Fault Refusal :=
  s.issue (.spst c e) (transferIssue .spst e)

/-- GATH (R231). -/
def execGath (c : Ctl) (e : EArgs) (s : State) : Host.Outcome State Fault Refusal :=
  s.issue (.gath c e) (transferIssue .gath e)

/-- SCAT (R231). -/
def execScat (c : Ctl) (e : EArgs) (s : State) : Host.Outcome State Fault Refusal :=
  s.issue (.scat c e) (transferIssue .scat e)

/-- LDT (R236). -/
def execLdt (c : Ctl) (e : EArgs) (s : State) : Host.Outcome State Fault Refusal :=
  s.issue (.ldt c e) (transferIssue .ldt e)

/-- FERRY (R233). -/
def execFerry (c : Ctl) (e : EArgs) (s : State) : Host.Outcome State Fault Refusal :=
  s.issue (.ferry c e) (ferryIssue .ferry e)

/-- FERRY.TIER (R235). -/
def execFerryTier (c : Ctl) (e : EArgs) (s : State) : Host.Outcome State Fault Refusal :=
  s.issue (.ferryTier c e) (ferryIssue .ferryTier e)

/-- FERRY.Q (R234). -/
def execFerryQ (c : Ctl) (e : EArgs) (s : State) : Host.Outcome State Fault Refusal :=
  s.issue (.ferryQ c e) (ferryIssue .ferryQ e)

/-! ### Finding and changing commands -/

/-- An engine command of the core, wherever it stands. -/
def CoreSt.eng? (c : CoreSt) (id : Nat) : Option EngCmd := c.transfers.find? fun e => e.id == id

/-- Change an engine command. -/
def CoreSt.updEng (c : CoreSt) (id : Nat) (f : EngCmd → EngCmd) : CoreSt :=
  let g := updFirst (fun (e : EngCmd) => e.id == id) f
  { c with cL := { c.cL with engq := g c.cL.engq }, cS := { c.cS with engq := g c.cS.engq }, ferry := g c.ferry }

/-- Take an engine command out. -/
def CoreSt.dropEng (c : CoreSt) (id : Nat) : CoreSt :=
  let g := delFirst fun (e : EngCmd) => e.id == id
  { c with cL := { c.cL with engq := g c.cL.engq }, cS := { c.cS with engq := g c.cS.engq }, ferry := g c.ferry }

/-- Change an engine command of core `k`. -/
def State.updEng (s : State) (k id : Nat) (f : EngCmd → EngCmd) : State := s.updCore k fun c => c.updEng id f

/-- A command fails with a cause (R230). -/
def State.failEng (s : State) (k id : Nat) (t : Trap) : State := s.updEng k id fun e => { e with fail := some t }

/-- A command halts at a page that needs service (R391); it holds no translation then (R400). -/
def State.haltEng (s : State) (k id va : Nat) (malf : Bool) : State :=
  s.updEng k id fun e => { e with halt := some ⟨id, va, malf, none⟩, srcTr := [], dstTr := [] }

/-- A translation fault found for a command: XLATE halts, every other cause is a failure (R391, R394). -/
def State.badEng (s : State) (k id va : Nat) (c : Cause) (malf : Bool) : State :=
  if c = .xlate then s.haltEng k id va malf else s.failEng k id { cause := c, addr := w64 va, malf := malf }

/-- The rights of a command's accesses. -/
def State.engAcc (s : State) (k : Nat) (e : EngCmd) (write : Bool) : Acc := (s.ctxOf k e.ctx).acc write

/-- A command can go on: neither halted, failed nor finished. -/
def EngCmd.open (e : EngCmd) : Bool := e.halt.isNone && e.fail.isNone && !e.fin

/-! ### Rows (R231, R232) -/

/-- What a command does with the bytes that a read gave: append them, or halt or fail. -/
def State.takeRead (s : State) (k : Nat) (e : EngCmd) (va : Nat) (r : Rd) (f : List Byte → EngCmd → EngCmd) : State :=
  match r with
  | .ok bs notes => (s.note k notes).updEng k e.id (f bs)
  | .wait => s
  | .bad a c m => s.badEng k e.id a c m
  | .lost _ i => s.failEng k e.id { cause := .eccu, addr := w64 va, info := w64 i }

/-- The bytes of one 64-byte block from address `a`, at most `n`. -/
def blockLen (a n : Nat) : Nat := min (64 - a % 64) n

/-- The pages whose addresses the engine translates once, as it reaches them: those of the page table. A window's translation is
its own (R387, R389). -/
def State.keeps (s : State) (k va : Nat) : Bool := decide (va < 2 ^ 52) && !(s.part (s.partOf k)).inWindow va

/-- The place of an address, by the translation that the engine holds of its page or by a new one (R389). -/
def State.engPlace (s : State) (k : Nat) (held : List (Nat × Loc)) (a : Acc) (va : Nat) : Xl :=
  match held.find? fun t => t.1 == va / 2 ^ 16 with
  | some t => s.reach (.ok ⟨t.2.space, t.2.addr + va % 2 ^ 16⟩)
  | none => s.translate k a va

/-- The translations that an engine holds once it has reached an address. -/
def State.engHeld (s : State) (k : Nat) (held : List (Nat × Loc)) (va : Nat) : Xl → List (Nat × Loc)
  | .ok l =>
    if s.keeps k va && !(held.any fun t => t.1 == va / 2 ^ 16) then held ++ [(va / 2 ^ 16, ⟨l.space, l.addr - va % 2 ^ 16⟩)]
    else held
  | _ => held

/-- Read the next piece of a row, or of a plain source, at `a` (R231). -/
def State.rowRead (s : State) (k : Nat) (e : EngCmd) (a n : Nat) : State :=
  let m := blockLen a n
  if isScratch a then s.takeRead k e a (s.readScratch k (a % 2 ^ 52) m) fun bs x => { x with buf := x.buf ++ bs }
  else
    let l := s.engPlace k e.srcTr (s.engAcc k e false) a
    s.takeRead k e a (s.readAt k a m l) fun bs x => { x with buf := x.buf ++ bs, srcTr := s.engHeld k x.srcTr a l }

/-- Write bytes of a row into scratchpad; blocks written whole are mended (R417). -/
def CoreSt.spWrite (c : CoreSt) (off : Nat) (bs : List Byte) : CoreSt :=
  { c with sp := c.sp.setBytes off bs, spBad := c.spBad.filter fun b => !(wholeLines off bs.length).contains b }

/-- The class of a row differs from that of the record's address, or a row in scratchpad space leaves it or meets a
window (R232). -/
def CoreSt.rowTrap (c : CoreSt) (base a len : Nat) (write indexed : Bool) : Option Trap :=
  if isScratch base && isScratch a then
    if spSize < a % 2 ^ 52 + len then some { cause := .sprng, addr := w64 a }
    else if write && indexed && c.meetsWindow (a % 2 ^ 52) len then some { cause := .prot, addr := w64 a }
    else none
  else if isVirtual base && isVirtual a then none
  else some { cause := .xlate, addr := w64 a }

/-- Go on to the next row. -/
def EngCmd.nextRow (e : EngCmd) : EngCmd := { e with row := e.row + 1, buf := [], done := 0, idx := none, stage := 1 }

/-- The bytes of the next piece to write at `a`. -/
def EngCmd.piece (e : EngCmd) (a len : Nat) : List Byte := (e.buf.drop e.done).take (blockLen a (len - e.done))

/-- Progress after `n` bytes of a row of `len` have been written. -/
def EngCmd.wrote (len n : Nat) (e : EngCmd) : EngCmd :=
  if len ≤ e.done + n then e.nextRow else { e with done := e.done + n }

/-- Write the next piece of a row (R231). -/
def State.rowWrite (s : State) (k : Nat) (e : EngCmd) (d len : Nat) : State :=
  let bs := e.piece d len
  if isScratch d then (s.updCore k fun c => c.spWrite (d % 2 ^ 52) bs).updEng k e.id (EngCmd.wrote len bs.length)
  else
    match s.engPlace k e.dstTr (s.engAcc k e true) d with
    | .wait => s
    | .bad c m => s.badEng k e.id d c m
    | .ok l =>
      match s.engineWriteAt k e.ctx e.id d bs [(d, bs.length, l)] with
      | .ok t => t.updEng k e.id fun x => { EngCmd.wrote len bs.length x with dstTr := s.engHeld k x.dstTr d (.ok l) }
      | .wait => s
      | .bad va c m => s.badEng k e.id va c m

/-- Bit `i` of LDT's bitmap (R236). -/
def CoreSt.setMiss (c : CoreSt) (off i : Nat) (b : Bool) : CoreSt :=
  let a := off + i / 8
  let v := (c.sp.byte a).toNat
  c.spWrite a [BitVec.ofNat 8 (v - v / 2 ^ (i % 8) % 2 * 2 ^ (i % 8) + b2n b * 2 ^ (i % 8))]

/-- The pages of a row, each with its place, by the translations that the command holds or by new ones. -/
def State.rowPages (s : State) (k : Nat) (e : EngCmd) (va n : Nat) : List (Nat × Xl) :=
  (pagesOf va n).map fun p => (p, s.engPlace k e.srcTr (s.engAcc k e false) p)

/-- The first page of a row that does not translate, with what was found. -/
def rowTrouble (ps : List (Nat × Xl)) : Option (Nat × Xl) := ps.find? fun e => match e.2 with | .ok _ => false | _ => true

/-- The residence check of a row of LDT before it is copied (R236). `stage` 2 marks a row that has passed it. The pages that it
translates are the ones that the row is then read through (R389). -/
def State.ldtCheck (s : State) (k : Nat) (e : EngCmd) (a : Nat) : State :=
  let ps := s.rowPages k e a (rcdLen e.rcd)
  match rowTrouble ps with
  | some (va, .bad c m) => s.badEng k e.id va c m
  | some _ => s
  | none =>
    let miss := ps.any fun p => match p.2 with | .ok l => l.space == 2 | _ => false
    let held := ps.foldl (fun h p => s.engHeld k h p.1 p.2) e.srcTr
    let s := s.updCore k fun c => c.setMiss (rcdMiso e.rcd) e.row miss
    if miss then s.updEng k e.id fun x => { x.nextRow with aux := x.aux + 1, srcTr := held }
    else s.updEng k e.id fun x => { x with stage := 2, srcTr := held }

/-- LDT's record word at completion: TIERM and MISSED (R236). -/
def ldtWord (missed : Nat) : Nat := b2n (missed != 0) * 2 ^ 63 + missed % 2 ^ 32

/-- The bits of LDT's bitmap that no row of bytes has set or cleared: those of an empty transfer of LEN 0 (R236). -/
def CoreSt.clearMisses (c : CoreSt) (r : BitVec 512) : CoreSt :=
  if rcdLen r = 0 then (List.range (rcdN1 r * rcdN2 r)).foldl (fun c i => c.setMiss (rcdMiso r) i false) c else c

/-- All rows of a transfer are done. -/
def State.rowsDone (s : State) (k : Nat) (e : EngCmd) : State :=
  let s := if e.op = .ldt then
      s.updCore k fun c => (c.clearMisses e.rcd).spWrite (e.off + 48) (leBytes 8 (ldtWord e.aux))
    else s
  s.updEng k e.id fun x => { x with fin := true }

/-- One elementary step of a row at source `a` and destination `d`. -/
def State.rowMove (s : State) (k : Nat) (e : EngCmd) (a d : Nat) : State :=
  let len := rcdLen e.rcd
  let c := s.core k
  match (c.rowTrap (rcdSrc e.rcd) a len false (e.op == .gath)).or
      (c.rowTrap (rcdDst e.rcd) d len true (e.op == .scat)) with
  | some t => s.failEng k e.id t
  | none =>
    if e.op = .ldt ∧ e.stage ≠ 2 then s.ldtCheck k e a
    else if e.buf.length < len then s.rowRead k e (a + e.buf.length) (len - e.buf.length)
    else s.rowWrite k e (d + e.done) len

/-- One elementary step of a transfer (R231). An indexed row's index is read once, when the row is reached. -/
def State.transferStep (s : State) (k : Nat) (e : EngCmd) : State :=
  if rcdRows e.rcd ≤ e.row then s.rowsDone k e
  else if e.op = .gath ∨ e.op = .scat then
    match e.idx with
    | none =>
      if (s.core k).spLost (rcdIdxo e.rcd + 4 * e.row) 4 then
        s.failEng k e.id { cause := .eccu, addr := w64 (rcdIdxo e.rcd + 4 * e.row), info := 5 }
      else
        let i := idxAt (s.core k).sp e.rcd e.row
        if i = 0xFFFFFFFF then s.updEng k e.id EngCmd.nextRow else s.updEng k e.id fun x => { x with idx := some i }
    | some i => s.rowMove k e (srcRow e.op e.rcd e.row i) (dstRow e.op e.rcd e.row i)
  else s.rowMove k e (srcRow e.op e.rcd e.row 0) (dstRow e.op e.rcd e.row 0)

/-! ### The Ferry path (R229, R233 to R235) -/

/-- Some slot of the frame serves the partition on the Ferry engines (R430, R432). -/
def State.ferryServed (s : State) (p : Nat) : Bool := s.slotTab.any fun e => bitOf e.2 15 && field e.2 8 4 == p

/-- The Ferry path accepts the oldest command of its buffer that it has not taken: the word retires, and a transfer of
more than 1 MiB asks for leave (R77, R229, R233). `stage` 0 waits for leave, 1 moves. -/
def State.ferryAccept (s : State) (k id : Nat) : State :=
  if !s.engines k then s
  else
    match (s.core k).ferry.find? fun e => !e.taken with
    | none => s
    | some e =>
      if e.id ≠ id then s
      else
        let s := (s.updEng k id fun x => { x with taken := true, stage := 1 }).unhold k e.ctx id
        if 2 ^ 20 < rcdTotal e.rcd then
          let a := s.askLeave k .ferry id
          if a.2 then a.1 else a.1.updEng k id fun x => { x with stage := 0 }
        else s

/-- The command is at the head of its channel (R233). -/
def CoreSt.channelHead (c : CoreSt) (e : EngCmd) : Bool :=
  match c.ferry.find? fun x => rcdCh x.rcd == rcdCh e.rcd with
  | some x => x.id == e.id
  | none => false

/-- One step of FERRY.Q: a read of the next piece, or a push of the next element (R234). -/
def State.ferryQStep (s : State) (k : Nat) (e : EngCmd) : State :=
  let q := rcdDq e.rcd
  let v := (s.core k).queue q
  if 640 ≤ q ∨ v.kind ≠ 16 + rcdCh e.rcd then s.failEng k e.id { cause := .illop, addr := w64 e.off }
  else if 512 ≤ e.buf.length then
    if v.depth ≤ v.els.length then s
    else
      (s.updCore k fun c => c.setQueue q { v with els := v.els ++ [⟨elemOfBytes (e.buf.take 512), e.id, true, false, none⟩] }).updEng
        k e.id fun x => { x with buf := x.buf.drop 512 }
  else if rcdRows e.rcd ≤ e.row then s.updEng k e.id fun x => { x with fin := true }
  else
    let len := rcdLen e.rcd
    let a := srcRow e.op e.rcd e.row 0
    match (s.core k).rowTrap (rcdSrc e.rcd) a len false false with
    | some t => s.failEng k e.id t
    | none =>
      let m := blockLen (a + e.done) (len - e.done)
      let at' := a + e.done
      let l := if isScratch a then .wait else s.engPlace k e.srcTr (s.engAcc k e false) at'
      let r := if isScratch a then s.readScratch k (at' % 2 ^ 52) m else s.readAt k at' m l
      s.takeRead k e at' r fun bs x =>
        let x := { x with srcTr := if isScratch a then x.srcTr else s.engHeld k x.srcTr at' l }
        if len ≤ x.done + bs.length then { x with buf := x.buf ++ bs, done := 0, row := x.row + 1 }
        else { x with buf := x.buf ++ bs, done := x.done + bs.length }

/-- The page that FERRY.TIER has reached. -/
def EngCmd.tierPage (e : EngCmd) : Nat := (srcRow e.op e.rcd e.row 0 + e.done) / 2 ^ 16 * 2 ^ 16

/-- FERRY.TIER goes on to the next page of its row, or to the next row. -/
def EngCmd.nextPage (e : EngCmd) : EngCmd :=
  let a := srcRow e.op e.rcd e.row 0
  let n := e.tierPage + 2 ^ 16 - a
  if rcdLen e.rcd ≤ n then e.nextRow else { e with done := n, stage := 1 }

/-- The FERRY.TIER commands of a core, each with its task and rank, by which it is known wherever the task stands. -/
def CoreSt.tierCmds (c : CoreSt) : List (Nat × Nat × EngCmd) :=
  (c.ferry.filter fun e => e.op == .ferryTier).map fun e => (c.task, c.rank, e)

/-- The FERRY.TIER commands that run on a partition's cores. -/
def State.tierOn (s : State) (p : Nat) : List (Nat × Nat × EngCmd) :=
  s.cores.flatMap fun c => if s.partOf c.1 = p then c.2.tierCmds else []

/-- The ranks of a task whose cores a pre-emption saved and no core has taken up again (R412, R414). -/
def State.savedRanks (s : State) (t : Task) : List (Nat × CoreSt) :=
  t.saved.filter fun r => s.cores.all fun c =>
    !(c.2.task == t.seq && c.2.rank == r.1 && (c.2.status == .active || c.2.status == .draining))

/-- The unfinished FERRY.TIER commands of a partition, those that a pre-emption has saved among them. -/
def State.tierCmds (s : State) (p : Nat) : List (Nat × Nat × EngCmd) :=
  s.tierOn p ++ (s.tasks.filter fun t => t.2.part == p).flatMap fun t => (s.savedRanks t.2).flatMap fun r => r.2.tierCmds

/-- The commands that complete before those of a list, and so on, up to `fuel` steps (R361). -/
def tierBefore (cs : List (Nat × Nat × EngCmd)) : Nat → List (Nat × Nat × Nat) → List (Nat × Nat × Nat)
  | 0, l => l
  | n + 1, l =>
    tierBefore cs n
      ((l ++ (cs.filter fun c => l.contains (c.1, c.2.1, c.2.2.id)).flatMap fun c => c.2.2.after).eraseDups)

/-- The commands that have moved a page and that a command which skips it must let complete first (R361): those that do not
themselves wait for it. -/
def State.tierEarlier (s : State) (p k : Nat) (e : EngCmd) (page : Nat) : List (Nat × Nat × Nat) :=
  let cs := s.tierCmds p
  let me := ((s.core k).task, (s.core k).rank, e.id)
  ((cs.filter fun c => c.2.2.pages.contains (page / 2 ^ 16)).map fun c => (c.1, c.2.1, c.2.2.id)).filter fun c =>
    c != me && !(tierBefore cs cs.length [c]).contains me

/-- FERRY.TIER skips a page that lies outside the second tier. -/
def State.tierSkip (s : State) (k : Nat) (e : EngCmd) : State :=
  let before := s.tierEarlier (s.partOf k) k e e.tierPage
  s.updEng k e.id fun x => { x.nextPage with after := (x.after ++ before).eraseDups }

/-- Every FERRY.TIER that must complete before a command has completed (R361). -/
def State.tierClear (s : State) (p : Nat) (e : EngCmd) : Bool :=
  e.after.isEmpty || (s.tierCmds p).all fun c => !e.after.contains (c.1, c.2.1, c.2.2.id)

/-- Another FERRY.TIER is moving the page: two movers take it one at a time (R361, R395). -/
def State.tierTaken (s : State) (p : Nat) (e : EngCmd) : Bool :=
  (s.tierOn p).any fun c => c.2.2.stage == 2 && c.2.2.tierPage == e.tierPage

/-- A page that lies in the second tier: the channel asks for an HBM page, unless another FERRY.TIER moves it. With both host ports
down it cannot be reached (R440). -/
def State.tierAsk (s : State) (k : Nat) (e : EngCmd) : State :=
  if s.ports.isEmpty then s.haltEng k e.id e.tierPage false
  else if s.tierTaken (s.partOf k) e then s
  else s.updEng k e.id fun x => { x with stage := 2 }

/-- One step of FERRY.TIER: a page outside the second tier is skipped, and for a page in it the channel asks the
supervisor for an HBM page (R235, R395, R396). `stage` 2 waits for the answer. A page of a window is found without a walk (R387). -/
def State.ferryTierStep (s : State) (k : Nat) (e : EngCmd) : State :=
  if rcdRows e.rcd ≤ e.row then s.updEng k e.id fun x => { x with fin := true }
  else if e.stage = 2 ∨ !s.hbmServed then s
  else
    let p := s.partOf k
    if !isVirtual (srcRow e.op e.rcd e.row 0 + e.done) then
      s.failEng k e.id { cause := .xlate, addr := w64 (srcRow e.op e.rcd e.row 0 + e.done) }
    else if (s.part p).inBerths e.tierPage then
      match s.berthHome p e.tierPage with
      | .ok l => if l.space = 2 then s.tierAsk k e else s.tierSkip k e
      | .error c => s.failEng k e.id { cause := c, addr := w64 e.tierPage }
    else if (s.part p).inWs e.tierPage then s.tierSkip k e
    else
      match s.walk p e.tierPage with
      | .leaf w block =>
        if leafMig w then s else if leafTier w && !block then s.tierAsk k e else s.tierSkip k e
      | r => s.haltEng k e.id e.tierPage (r == .malformed)

/-- A Ferry command's next elementary step. -/
def State.ferryStep (s : State) (k id : Nat) : State :=
  if !s.engines k || !s.ferryServed (s.partOf k) then s
  else
    match (s.core k).ferry.find? fun e => e.id == id with
    | none => s
    | some e =>
      if !e.taken || !e.open || e.stage == 0 || !(s.core k).channelHead e then s
      else
        match e.op with
        | .ferryTier => s.ferryTierStep k e
        | .ferryQ => s.ferryQStep k e
        | _ => s.transferStep k e

/-- PAGE_SUPPLY_ANSWER (R235, R396): the supervisor names a page, or none, and the page moves. -/
def execPageSupplyAnswer (k : Nat) (_ctx : Ctx) (id : Nat) (page : Option Nat) (s : State) :
    Host.Outcome State Fault Refusal :=
  if 384 ≤ k then .fault .noSuchCore
  else if !s.engines k then .next s
  else
    match (s.core k).ferry.find? fun e => e.id == id && e.op == .ferryTier && e.stage == 2 && e.open with
    | none => .next s
    | some e =>
      let p := s.partOf k
      if !s.ferryServed p || !s.hbmServed then .next s
      else
        match s.movable p e.tierPage with
        | none => .next s
        | some h =>
          if !h.out then .next (s.tierSkip k e)
          else if s.ports.isEmpty then
            .next ((s.haltEng k id e.tierPage false).updEng k id fun x => { x with stage := 1 })
          else
            match page.filter fun pa => pa % 2 ^ 16 == 0 && hbmOk pa with
            | none => .next (s.failEng k id { cause := .xlate, addr := w64 e.tierPage })
            | some pa =>
              if s.lost 2 h.loc.addr 65536 then
                .next (s.failEng k id { cause := .eccu, addr := w64 e.tierPage, info := 2 })
              else
                .next ((s.movePage p e.tierPage h ⟨0, pa⟩ false).updEng k id fun x =>
                  { x.nextPage with pages := x.pages ++ [x.tierPage / 2 ^ 16] })

/-! ### The end of a command (R68, R229, R230, R393, R404) -/

/-- The token of a command that has ended: `flag` marks that of a failed one (R67, R230). An increment that would pass 65,535 logs
TKOVF with the command's word and record (R68, R401, R403). -/
def State.engToken (s : State) (k : Nat) (x : Ctx) (n : BitVec 5) (flag : Bool) (pos : Nat) (w addr : Word) : State :=
  if n = 0 then s else s.incTk k n.toNat 1 flag (s.tkovf k n.toNat x true pos w addr)

/-- A fault that is logged on a DRAINING core holds the core until the supervisor has answered it (R81). -/
def State.holdDraining (s : State) (k : Nat) (x : Ctx) (r : FaultRecord) : State :=
  if (s.core k).status = .draining then
    match (s.ctxOf k x).run with
    | .trapped _ => s
    | _ => s.updCtx k x fun c => { c with run := .trapped r }
  else s

/-- A DRAINING core delivers one fault at a time: a failed command completes once the fault before it has been serviced (R81). -/
def State.mayFail (s : State) (k : Nat) (x : Ctx) : Bool :=
  (s.core k).status != .draining || match (s.ctxOf k x).run with | .trapped _ => false | _ => true

/-- A failed command reports its cause: in the fault log with its flagged token, or, without a token out, attached to its
context (R230, R404). In a speculative task the fault is deferred (R301), and on a DRAINING core it is serviced before the core
leaves (R81). -/
def State.reportFail (s : State) (k : Nat) (x : Ctx) (t : Trap) (tko : BitVec 5) (pos : Nat) (w : Word) : State :=
  if tko = 0 then s.attach k x t true pos w
  else
    let r := s.record k x.code t true (s.ctxOf k x).level pos pos w
    match s.taskOf k with
    | some u =>
      if u.spec then (s.engToken k x tko true pos w t.addr).park u r
      else ((s.log r).engToken k x tko true pos w t.addr).holdDraining k x r
    | none => (s.log r).engToken k x tko true pos w t.addr

/-- Everything that the command wrote is performed at the scope its destination needs: its updates of replicated pages
have reached every die (R229, R353). -/
def State.writesDone (s : State) (k id : Nat) : Bool := s.seqLog.all fun u => u.core != k || u.wid != id

/-- Earlier commands that must complete first: those of the same Ferry channel (R233), and for TSPAWN the context's
earlier TSPAWNs (R306). -/
def CoreSt.completesNow (c : CoreSt) (e : EngCmd) : Bool :=
  match e.op with
  | .ferry | .ferryTier | .ferryQ => c.channelHead e
  | .tspawn =>
    (((c.ctx e.ctx).engq.takeWhile fun x => x.id != e.id).all fun x => x.op != .tspawn)
  | .stn _ => decide (4 ≤ e.stage)
  | _ => true

/-- The registers that a TSPAWN writes (R306): the child's sequence number and the status; 2 when the header could not be
read. -/
def State.spawnResults (s : State) (k : Nat) (e : EngCmd) : State :=
  match e.op with
  | .tspawn =>
    let st := if e.fail.isSome then 2 else e.aux
    s.updCtx k e.ctx fun c =>
      (c.arrive (rcdXd e.rcd) (if st = 0 then e.name else 0)).arrive (rcdXs e.rcd) (w64 st)
  | _ => s

/-- ENGINE_CMD_COMPLETE (R229, R230). -/
def execEngineCmdComplete (k : Nat) (_ctx : Ctx) (id : Nat) (s : State) : Host.Outcome State Fault Refusal :=
  if 384 ≤ k then .fault .noSuchCore
  else if !s.engines k then .next s
  else
    match (s.core k).eng? id with
    | none => .next s
    | some e =>
      if !(e.fin || e.fail.isSome) || !(s.core k).completesNow e || !s.tierClear (s.partOf k) e || !s.writesDone k id ||
          (e.fail.isSome && !s.mayFail k e.ctx) then .next s
      else
        let s := (s.spawnResults k e).updCore k fun c => c.dropEng id
        match e.fail with
        | none => .next (s.engToken k e.ctx e.tko false e.pos e.word (w64 e.off))
        | some t =>
          if t.cause = .rtimeout ∧ e.stage = 9 then
            let r := s.record k e.ctx.code t true (s.ctxOf k e.ctx).level e.pos e.pos e.word
            .next ((s.engToken k e.ctx e.tko true e.pos e.word t.addr).holdDraining k e.ctx r)
          else .next (s.reportFail k e.ctx t e.tko e.pos e.word)

end Sys2Proof.Machine
end

