-- ==== Sys2Proof/Machine/Area.lean ====
section
/-! DEFINITION. The save area of a core (R412 to R415): the bytes that the layout of R413 gives a core's state, and the core's state
as such bytes give it. R413 places the contents; how a field stands in its place, where the table does not say, is the model's
choice (assumption 41). DESIGN CHOICE -/

namespace Sys2Proof.Machine

open Sys2Proof

/-! ### What a core's state is in a save area (R413) -/

/-- A loop-stack entry: its two words and a valid bit in the first doubleword, its count in the second. -/
def loopWord (l : List LoopEntry) (i : Nat) (count : Bool) : Nat :=
  match l.drop i with
  | e :: _ => if count then e.count.toNat else e.start + e.close * 2 ^ 16 + 2 ^ 63
  | [] => 0

/-- A saved register of the reflection frame, and after the four its valid bit. -/
def frameWord (f : Option Frame) (i : Nat) : Nat :=
  match f with
  | some f => [f.x56.toNat, f.x57.toNat, f.x58.toNat, f.x59.toNat, 2 ^ 63].getD i 0
  | none => 0

/-- The value that an access stores or combines, and the one that AMO.CAS compares with. -/
def AccOp.values : AccOp → Word × Word
  | .store _ v => (v, 0)
  | .amo _ _ _ b old => (b, old)
  | _ => (0, 0)

/-- The replay pointer: the position of the halted access within its queue (R392). -/
def CtxSt.replayAt (c : CtxSt) (h : Halt) : Nat := c.accq.findIdx fun a => a.wid == h.wid

/-- The place of the halted access: the address that it halted at; a valid bit, the mark of a malformed entry, the cause found, and
the replay pointer; then the access itself: its effective address, its word, its position and its two values. -/
def CtxSt.haltWord (c : CtxSt) (i : Nat) : Nat :=
  match c.accHalt with
  | none => 0
  | some h =>
    if i = 0 then h.va
    else if i = 1 then
      b2n h.malf + (match h.failed with | some f => f.code | none => 0) * 2 ^ 8 + c.replayAt h % 2 ^ 32 * 2 ^ 16 + 2 ^ 63
    else
      match c.accq.drop (c.replayAt h) with
      | a :: _ => [a.ea.toNat, a.word.toNat, a.pos, a.op.values.1.toNat, a.op.values.2.toNat].getD (i - 2) 0
      | [] => 0

/-- The doubleword at offset `o` of a context's KiB, or none where the layout has nothing. -/
def CtxSt.areaWord (c : CtxSt) (o : Nat) : Option Nat :=
  if o < 0x200 then some (c.reg (BitVec.ofNat 6 (o / 8))).toNat
  else if o = 0x200 then some (c.pc % 2 ^ 16 + b2n c.exposed * 2 ^ 16 + c.slack * 2 ^ 32 + c.level * 2 ^ 48)
  else if o = 0x208 then some (c.spaceovr.toNat + c.sflags.toNat * 2 ^ 32)
  else if o < 0x250 then some (loopWord c.loops ((o - 0x210) / 16) (o % 16 == 8))
  else if o < 0x290 then some (c.haltWord ((o - 0x250) / 8))
  else if 0x290 ≤ o ∧ o < 0x2B8 then some (frameWord c.frame ((o - 0x290) / 8))
  else none

/-- A configuration word as it gives a ring (R242); bit 63 says that the ring stands in configuration. -/
def Ring.cfgWord (r : Ring) : Nat :=
  r.base + (r.size / 64 - 1) * 2 ^ 22 + (r.slots - 1) * 2 ^ 32 + b2n (r.prod == .S) * 2 ^ 40 + b2n (r.cons == .S) * 2 ^ 41 + 2 ^ 63

/-- The claim, fill, take and free positions of a ring, 16 bits each. -/
def Ring.posWord (r : Ring) : Nat :=
  r.claim % r.slots + r.fill % r.slots * 2 ^ 16 + r.take % r.slots * 2 ^ 32 + r.free % r.slots * 2 ^ 48

/-- The two doublewords of a ring's or message queue's place. -/
def ringWord (r : Option Ring) (pos : Bool) : Nat :=
  match r with
  | some r => if pos then r.posWord else r.cfgWord
  | none => 0

/-- An entry of the format queue: a format word, or a mode with a mark. -/
def fqPlace (l : List FqEntry) (i : Nat) (mark : Bool) : Nat :=
  match l.drop i with
  | .fmt w :: _ => if mark then 0 else w.toNat
  | .mode m :: _ => if mark then 1 else m.code.toNat
  | [] => 0

/-- A control queue's place: its count, then its entries. -/
def cqWord (l : List Word) (i : Nat) : Nat := if i = 0 then l.length else (l.getD (i - 1) 0).toNat

/-- The class of an exact accumulator in two bits. -/
def ExClass.code : ExClass → Nat
  | .finite => 0
  | .pinf => 1
  | .ninf => 2
  | .nan => 3

/-- An exact accumulator's place: N in 40 bytes, then class and saturated bit. -/
def ExAcc.areaWord (a : ExAcc) (i : Nat) : Nat :=
  if i < 5 then wrapInt 320 a.n / 2 ^ (64 * i) % 2 ^ 64 else a.cls.code + b2n a.sat * 2 ^ 2

/-- A tile's record (R199). -/
def TileSt.areaWord (t : TileSt) : Nat := t.cfmt + t.ofmt * 2 ^ 8 + b2n t.osat * 2 ^ 16 + t.mode.code.toNat * 2 ^ 24

/-- The batch-table offset with a valid bit, QMASK in four doublewords, and LSUP. -/
def CoreSt.maskWord (c : CoreSt) (i : Nat) : Nat :=
  match i with
  | 0 => match c.batch with | some b => b + 2 ^ 63 | none => 0
  | 5 => c.lsup.toNat
  | _ => c.qmask.toNat / 2 ^ (64 * (i - 1)) % 2 ^ 64

/-- The elements of the queue file in the order of the queues' names, oldest first. -/
def CoreSt.fileEls (c : CoreSt) : List QEl := (List.range 640).flatMap fun q => (c.queue q).els

/-- Where a queue's first element stands among them. -/
def CoreSt.firstEl (c : CoreSt) (q : Nat) : Nat := ((List.range q).map fun i => (c.queue i).els.length).sum

/-- The ladder commands by the queue they push to, and for one queue in order. -/
def CoreSt.overflowing (c : CoreSt) : List LadCmd :=
  (List.range 640).flatMap fun q => c.ladq.filter fun m => m.op.out.map BitVec.toNat == some q

/-- The elements that a full queue does not take, by queue and in push order (R412). -/
def CoreSt.overflow (c : CoreSt) : List Elem := c.overflowing.flatMap fun m => m.outs.map Prod.fst

/-- What a matrix command copied at issue that its word does not hold: the named words of its nest record, and M, N and K in
doubleword 7 (R200, R201, R206). -/
def MatCmd.copied (m : MatCmd) : BitVec 512 :=
  BitVec.ofNat 512 (field m.nest 0 384 + (m.m % 2 ^ 16 + m.n % 2 ^ 16 * 2 ^ 16 + m.kk % 2 ^ 16 * 2 ^ 32) * 2 ^ 448)

/-- What a ladder command copied at issue: LTRUNC.LOW's number of tokens (R276). -/
def LadCmd.copied (m : LadCmd) : BitVec 512 :=
  match m.op with
  | .ltruncLow v => BitVec.ofNat 512 v.toNat
  | _ => 0

/-- An engine command that has not started: its number, its word and its record, or what stands in the record's place. -/
structure Unstarted where
  id   : Nat
  word : Word
  rcd  : BitVec 512
  deriving DecidableEq, Repr

/-- Insert a command by its number. -/
def insertUnstarted (u : Unstarted) : List Unstarted → List Unstarted
  | [] => [u]
  | v :: r => if u.id ≤ v.id then u :: v :: r else v :: insertUnstarted u r

/-- The engine commands that have not started, in issue order. -/
def CoreSt.unstarted (c : CoreSt) : List Unstarted :=
  let ts : List Unstarted := (c.transfers.filter fun e => !e.taken).map fun e => ⟨e.id, e.word, e.rcd⟩
  let ms : List Unstarted := (c.matq.filter fun m => m.stage != 2).map fun m => ⟨m.id, m.word, m.copied⟩
  let ls : List Unstarted := (c.ladq.filter fun m => m.stage == 0).map fun m => ⟨m.id, m.word, m.copied⟩
  (ts ++ ms ++ ls).foldr insertUnstarted []

/-- A command's place of 64 bytes: its word, which names its engine, and the doublewords of its record but the one at 0x30, which
the engine writes (R228). -/
def unstartedWord (u : Unstarted) (i : Nat) : Nat :=
  if i = 0 then u.word.toNat else u.rcd.toNat / 2 ^ (64 * (if i = 7 then 7 else i - 1)) % 2 ^ 64

/-- The doubleword at offset `o` of a save area, below 0x1_0000. -/
def CoreSt.areaWord (c : CoreSt) (o : Nat) : Option Nat :=
  if o < 0xC00 then (c.ctx (if o < 0x400 then .L else if o < 0x800 then .X else .S)).areaWord (o % 0x400)
  else if o < 0xC30 then
    some ([c.cL.fifoP, c.cL.fifoN, c.cX.fifoP, c.cX.fifoN, c.cS.fifoP, c.cS.fifoN].getD ((o - 0xC00) / 8) 0)
  else if 0xC40 ≤ o ∧ o < 0xD38 then
    let t := c.tk ((o - 0xC40) / 8 + 1)
    some (t.count + b2n t.flag * 2 ^ 16)
  else if 0xE00 ≤ o ∧ o < 0x1460 then
    let q := [c.cL.cqP, c.cL.cqN, c.cX.cqP, c.cX.cqN, c.cS.cqP, c.cS.cqN].getD ((o - 0xE00) / 0x110) []
    some (cqWord q ((o - 0xE00) % 0x110 / 8))
  else if 0x1800 ≤ o ∧ o < 0x1900 then some (ringWord (c.ring ((o - 0x1800) / 16)) (o % 16 == 8))
  else if 0x1900 ≤ o ∧ o < 0x1940 then some (ringWord (c.mq ((o - 0x1900) / 16)) (o % 16 == 8))
  else if 0x1A00 ≤ o ∧ o < 0x1C00 then some (fqPlace c.fq ((o - 0x1A00) / 16) (o % 16 == 8))
  else if o = 0x1C00 then some c.fq.length
  else if o = 0x1C08 then some c.emode.code.toNat
  else if 0x1C40 ≤ o ∧ o < 0x1C50 then
    some (bytesToNat ((List.range 8).map fun i => Sparse.get 0 c.sc (o - 0x1C40 + i)))
  else if 0x1C50 ≤ o ∧ o < 0x1C90 then
    some (((List.range 4).map fun i => (Sparse.get 0 c.ct ((o - 0x1C50) / 2 + i)).toNat * 2 ^ (16 * i)).sum)
  else if 0x1D00 ≤ o ∧ o < 0x1E80 then some ((c.nestSlot ((o - 0x1D00) / 64)).toNat / 2 ^ (8 * (o % 64)) % 2 ^ 64)
  else if 0x2000 ≤ o ∧ o < 0x2400 then
    some (match Sparse.find c.slots ((o - 0x2000) / 16) with
      | some b => if o % 16 = 0 then b.desc else 2 ^ 63 + b2n b.shr
      | none => 0)
  else if 0x2400 ≤ o ∧ o < 0x3000 then some ((c.exa ((o - 0x2400) / 48)).areaWord ((o - 0x2400) % 48 / 8))
  else if 0x3000 ≤ o ∧ o < 0x3080 then some (c.tile ((o - 0x3000) / 8)).areaWord
  else if 0x3080 ≤ o ∧ o < 0x30B0 then some (c.maskWord ((o - 0x3080) / 8))
  else if 0x4000 ≤ o ∧ o < 0x5400 then
    let q := (o - 0x4000) / 8
    some ((c.queue q).els.length + c.firstEl q * 2 ^ 32)
  else if 0x6000 ≤ o then
    some (match c.unstarted.drop ((o - 0x6000) / 64) with
      | u :: _ => unstartedWord u ((o - 0x6000) % 64 / 8)
      | [] => 0)
  else none

/-- Byte `o` of an array of elements. -/
def elemsByte (es : List Elem) (o : Nat) : Byte := elemByte (es.getD (o / 512) 0) (o % 512)

/-- The byte at offset `o` of a core's save area (R413), or none where the layout has nothing. -/
def saveByte (c : CoreSt) (o : Nat) : Option Byte :=
  if o < 0x10000 then (c.areaWord (o / 8 * 8)).map fun v => BitVec.ofNat 8 (v / 2 ^ (8 * (o % 8)))
  else if o < 0x110000 then some (elemsByte (c.fileEls.map (·.e)) (o - 0x10000))
  else if o < 0x190000 then some (elemsByte c.overflow (o - 0x110000))
  else if o < 0x290000 then
    let i := o - 0x190000
    some (BitVec.ofNat 8 (((c.tile (i / 65536)).at (i / 512 % 128) (i / 4 % 128)).toNat / 2 ^ (8 * (o % 4))))
  else some (c.sp.byte (o - 0x290000))

/-- Size of a save area in bytes (R412). -/
abbrev saveSize : Nat := 6720 * 1024

/-- The bytes of a core's save area; those that the layout gives no contents are free. -/
def saveBytes (c : CoreSt) (free : Nat → Nat) : List Byte :=
  (List.range saveSize).map fun o => (saveByte c o).getD (BitVec.ofNat 8 (free o))

/-! ### A core's state out of a save area (R414)

What has no place in the layout comes back as it was saved. -/

/-- The rounding mode of a code. -/
def modeOf (v : Nat) : RM := (RM.ofCode (BitVec.ofNat 3 v)).getD .rne

/-- The loop stack. -/
def areaLoops (w : Nat → Nat) : List LoopEntry :=
  ((List.range 4).filter fun i => w (16 * i) / 2 ^ 63 == 1).map fun i =>
    ⟨w (16 * i) % 2 ^ 16, w (16 * i) / 2 ^ 16 % 2 ^ 16, w64 (w (16 * i + 8))⟩

/-! #### The halted access (R393, R414) -/

/-- The register that an access awaits. -/
def AccOp.awaited : AccOp → Reg
  | .load xd _ => xd
  | .amo _ _ xd _ _ => xd
  | _ => 0

/-- An access as its word names it, of the kind that it is of. -/
def AccOp.become (o : AccOp) (i : Instr) (v old : Word) : AccOp :=
  match o, i with
  | .load _ _, .ldb _ xd _ _ => .load xd 1
  | .load _ _, .ldh _ xd _ _ => .load xd 2
  | .load _ _, .ldw _ xd _ _ => .load xd 4
  | .load _ _, .ldd _ xd _ _ => .load xd 8
  | .store _ _, .stb _ _ _ _ => .store 1 v
  | .store _ _, .sth _ _ _ _ => .store 2 v
  | .store _ _, .stw _ _ _ _ => .store 4 v
  | .store _ _, .std _ _ _ _ => .store 8 v
  | .amo _ _ _ _ _, .amo _ op dbl xd _ _ _ => .amo op dbl xd v old
  | .store n _, _ => .store n v
  | .amo op dbl xd _ _, _ => .amo op dbl xd v old
  | o, _ => o

/-- The instruction of a word, where it has one. -/
def instrOf (w : Word) : Option Instr :=
  match decode w with
  | .ok i => some i
  | .error _ => none

/-- The halted access out of its place. -/
def Access.fromPlace (a : Access) (w : Nat → Nat) : Access :=
  { a with
    ea := w64 (w 0x10), word := w64 (w 0x18), pos := w 0x20 % 2 ^ 16
    op := a.op.become ((instrOf (w64 (w 0x18))).getD (.nop (decodeCtl 0))) (w64 (w 0x28)) (w64 (w 0x30)) }

/-- A cause of a code. -/
def causeOf (v : Nat) : Option Cause := [Cause.xlate, .prot, .staleb, .eccu].find? fun c => c.code == v

/-- A context awaits the register of an access as rewritten in place of the one before. -/
def CtxSt.awaitInstead (c : CtxSt) (old new : AccOp) : CtxSt :=
  if old.awaited = new.awaited then c
  else { c with pend := c.pend.erase old.awaited ++ (if new.awaited = 0 then [] else [new.awaited]) }

/-- An access is a VLD. -/
def AccOp.isVld : AccOp → Bool
  | .vld _ _ => true
  | _ => false

/-- The accesses from the saved replay pointer `p` up to a later one, `n`, count as performed: they leave the queue, and the registers
that they awaited keep the values of the save area. A VLD, whose element has not landed, is not passed over. -/
def CtxSt.passOver (c : CtxSt) (p n : Nat) : CtxSt :=
  let gone := ((c.accq.take n).drop p).takeWhile fun a => !a.op.isVld
  { c with accq := c.accq.take p ++ c.accq.drop (p + gone.length)
           pend := gone.foldl (fun (l : List Reg) a => l.erase a.op.awaited) c.pend }

/-- The access queue of a context with the place of its halted access, whose doublewords `w` gives: accesses replay from the pointer
that stands there. -/
def CtxSt.haltFrom (c : CtxSt) (w : Nat → Nat) : CtxSt :=
  match c.accHalt with
  | none => c
  | some h =>
    if w 8 / 2 ^ 63 = 0 then { c with accHalt := none }
    else
      let p := c.replayAt h
      let c := c.passOver p (w 8 / 2 ^ 16 % 2 ^ 32)
      match c.accq.drop p with
      | [] => { c with accHalt := none }
      | a :: r =>
        let b := a.fromPlace w
        { c.awaitInstead a.op b.op with
          accq := c.accq.take p ++ b :: r
          accHalt := some ⟨b.wid, w 0, w 8 % 2 == 1, causeOf (w 8 / 2 ^ 8 % 2 ^ 8)⟩ }

/-- A context out of its KiB, whose doublewords `w` gives (R414). -/
def CtxSt.fromArea (c : CtxSt) (w : Nat → Nat) : CtxSt :=
  let c := (List.range 64).foldl (fun (c : CtxSt) i => c.setReg (BitVec.ofNat 6 i) (w64 (w (8 * i)))) c
  let m := w 0x200
  let c := c.haltFrom fun i => w (0x250 + i)
  { c with pc := m % 2 ^ 16 % c.wwords, exposed := m / 2 ^ 16 % 2 == 1, slack := m / 2 ^ 32 % 16, level := m / 2 ^ 48 % 3
           spaceovr := BitVec.ofNat 32 (w 0x208), sflags := BitVec.ofNat 3 (w 0x208 / 2 ^ 32)
           loops := areaLoops fun i => w (0x210 + i)
           frame := if w 0x2B0 / 2 ^ 63 = 1 then some ⟨w64 (w 0x290), w64 (w 0x298), w64 (w 0x2A0), w64 (w 0x2A8)⟩ else none }

/-- A position of a ring, out of its 16 bits: its rounds are kept. -/
def ringPos (p slots v : Nat) : Nat := p - p % slots + v % 2 ^ 16 % slots

/-- A ring or message queue out of its place; the states of its slots are those of the ring as saved. -/
def areaRing (old : Option Ring) (cfg pos : Nat) : Option Ring :=
  if cfg / 2 ^ 63 = 0 then none
  else
    let n := ringOf (w64 cfg)
    let r := old.getD n
    some { n with
      st := r.st, claim := ringPos r.claim n.slots pos, fill := ringPos r.fill n.slots (pos / 2 ^ 16)
      take := ringPos r.take n.slots (pos / 2 ^ 32), free := ringPos r.free n.slots (pos / 2 ^ 48) }

/-- Rings or message queues, `n` of them. -/
def areaRings (old : Sparse Ring) (n : Nat) (w : Nat → Nat) : Sparse Ring :=
  (List.range n).foldl (fun (m : Sparse Ring) i =>
    match areaRing (Sparse.find old i) (w (16 * i)) (w (16 * i + 8)) with
    | some r => Sparse.put m i r
    | none => m) []

/-- The format queue. -/
def areaFq (w : Nat → Nat) (n : Nat) : List FqEntry :=
  (List.range (min n 32)).map fun i => if w (16 * i + 8) % 2 = 1 then .mode (modeOf (w (16 * i))) else .fmt (w64 (w (16 * i)))

/-- A control queue. -/
def areaCq (w : Nat → Nat) : List Word := (List.range (min (w 0) 32)).map fun i => w64 (w (8 * i + 8))

/-- An exact accumulator. -/
def ExAcc.fromArea (a : ExAcc) (w : Nat → Nat) : ExAcc :=
  { a with n := signedNat 320 (((List.range 5).map fun i => w (8 * i) * 2 ^ (64 * i)).sum)
           cls := [ExClass.finite, .pinf, .ninf, .nan].getD (w 40 % 4) .finite, sat := w 40 / 2 ^ 2 % 2 == 1 }

/-- A tile's record. -/
def TileSt.fromArea (t : TileSt) (v : Nat) : TileSt :=
  { t with cfmt := v % 2 ^ 8, ofmt := v / 2 ^ 8 % 2 ^ 8, osat := v / 2 ^ 16 % 2 == 1, mode := modeOf (v / 2 ^ 24) }

/-- A bound ladder slot. -/
def areaSlots (w : Nat → Nat) : Sparse Bound :=
  (List.range 64).foldl (fun (m : Sparse Bound) i =>
    if w (16 * i + 8) / 2 ^ 63 = 1 then Sparse.put m i ⟨w (16 * i), w (16 * i + 8) % 2 == 1⟩ else m) []


/-- The queues out of their directory. -/
def CoreSt.areaQueues (c : CoreSt) (file : List QEl) (dir : Nat → Nat) : CoreSt :=
  let new := (List.range 640).map fun q => (q, { c.queue q with
    els := (file.drop (dir q / 2 ^ 32)).take (min (dir q % 2 ^ 32) (c.queue q).depth) })
  new.foldl (fun (c : CoreSt) e => if (c.queue e.1).els == e.2.els then c else c.setQueue e.1 e.2) c

/-- The queue file's elements, `at` giving their bits; places beyond the saved elements hold landed ones. -/
def CoreSt.areaFile (c : CoreSt) (at' : Nat → Elem) : List QEl :=
  let old := c.fileEls
  (List.range 2048).map fun i =>
    match old.drop i with
    | e :: _ => if e.landed then { e with e := at' i } else e
    | [] => ⟨at' i, c.nextId, true, false, none⟩

/-- Overflow elements go back to the commands that push them, in the order of their places. -/
def dealOut (ms : List LadCmd) (at' : Nat → Elem) (from' : Nat) : List (Nat × List (Elem × Bool)) :=
  match ms with
  | [] => []
  | m :: r => (m.id, (m.outs.zip (List.range m.outs.length)).map fun e => (at' (from' + e.2), e.1.2)) :: dealOut r at' (from' + m.outs.length)

/-- The ladder commands with the overflow elements of a save area. -/
def CoreSt.areaOverflow (c : CoreSt) (at' : Nat → Elem) : List LadCmd :=
  let dealt := dealOut c.overflowing at' 0
  c.ladq.map fun m =>
    match dealt.find? fun e => e.1 == m.id with
    | some e => { m with outs := e.2 }
    | none => m

/-! #### Unstarted engine commands (R414, R415)

A command is what its word says, of the engine that it is queued for. -/

/-- The operation of an engine word. -/
def engOpOf : Instr → Option EngOp
  | .spld _ _ => some .spld
  | .spst _ _ => some .spst
  | .gath _ _ => some .gath
  | .scat _ _ => some .scat
  | .ldt _ _ => some .ldt
  | .ferry _ _ => some .ferry
  | .ferryTier _ _ => some .ferryTier
  | .ferryQ _ _ => some .ferryQ
  | .red _ op _ => some (.red op)
  | .msend _ _ => some .msend
  | .stn _ _ => some (.stn false)
  | .stnS _ _ => some (.stn true)
  | .tspawn _ _ => some .tspawn
  | .tgraph _ _ => some .tgraph
  | .collAllred _ _ => some (.coll 0)
  | .collRed _ _ => some (.coll 1)
  | .collBcast _ _ => some (.coll 2)
  | .collBar _ _ => some (.coll 3)
  | _ => none

/-- The operation goes through the elastic buffer to a Ferry channel (R233). -/
def EngOp.onFerry : EngOp → Bool
  | .ferry | .ferryTier | .ferryQ => true
  | _ => false

/-- An unstarted command of an engine queue or of the Ferry path out of its place, but for the doubleword of its record that the
engine writes. -/
def EngCmd.rewrite (e : EngCmd) (word : Word) (rcd : BitVec 512) : EngCmd :=
  match (instrOf word).bind engOpOf with
  | some op =>
    if op.onFerry = e.op.onFerry then
      { e with op := op, word := word, tko := BitVec.ofNat 5 (field word 35 5)
               rcd := BitVec.ofNat 512 (field rcd 0 384 + field e.rcd 384 64 * 2 ^ 384 + field rcd 448 64 * 2 ^ 448) }
    else e
  | none => e

/-- A tile command: it pops a format word (R206). -/
def MatOp.popsFormat : MatOp → Bool
  | .tgo | .tgoG | .tgoSp => true
  | _ => false

/-- A matrix command with the operands of a tile word (R202). -/
def MatCmd.asTile (m : MatCmd) (op : MatOp) (t : Tile) : MatCmd :=
  { m with op := op, acc := t.acc.toNat, profile := t.profile.toNat, gang := t.gang.toNat, accum := t.accum }

/-- A matrix command as a word names it. -/
def MatCmd.become (m : MatCmd) : Instr → Option MatCmd
  | .tgo _ t => some (m.asTile .tgo t)
  | .tgoG _ t => some (m.asTile .tgoG t)
  | .tgoSp _ t => some (m.asTile .tgoSp t)
  | .accz _ acc => some { m with op := .accz, acc := acc.toNat }
  | .accmov _ d s' add => some { m with op := .accmov s'.toNat add, acc := d.toNat }
  | .accst _ w => some { m with op := .accst, acc := w.acc.toNat }
  | .accld _ w => some { m with op := .accld, acc := w.acc.toNat }
  | _ => none

/-- An unstarted matrix command out of its place; its counts keep within the limits of R203, and it pops a format word as it did. -/
def MatCmd.rewrite (m : MatCmd) (word : Word) (rcd : BitVec 512) : MatCmd :=
  match (instrOf word).bind m.become with
  | some n =>
    if n.op.popsFormat = m.op.popsFormat then
      { n with word := word, nest := BitVec.ofNat 512 (field rcd 0 384), m := min (field rcd 448 16) 128
               n := min (field rcd 464 16) 128, kk := min (field rcd 480 16) 4096 }
    else m
  | none => m

/-- The sources that a ladder word pops at issue (R263). -/
def LadOp.popped : LadOp → Nat
  | .lapp _ | .lread _ _ _ _ => 2
  | _ => 0

/-- The operation and slot of a ladder word; `v` is LTRUNC.LOW's number. -/
def ladOpOf (v : Word) : Instr → Option (LadOp × Nat)
  | .lapp _ slot _ _ bf => some (.lapp bf, slot.toNat)
  | .lappb _ slot qa qb j bf => some (.lappb qa qb j.toNat bf, slot.toNat)
  | .lreadOrd _ slot _ _ qc bf div => some (.lread 0 qc bf div, slot.toNat)
  | .lreadExa _ slot _ _ qc bf div => some (.lread 1 qc bf div, slot.toNat)
  | .lreadRungs _ slot _ _ qc bf => some (.lread 2 qc bf false, slot.toNat)
  | .lfork _ d src => some (.lfork src.toNat, d.toNat)
  | .ltruncLow _ slot _ => some (.ltruncLow v, slot.toNat)
  | .ltruncCkpt _ slot c => some (.ltruncCkpt c.toNat, slot.toNat)
  | .ldrop _ slot => some (.ldrop, slot.toNat)
  | .lstat _ slot qc => some (.lstat qc, slot.toNat)
  | _ => none

/-- An unstarted ladder command out of its place; the elements that it popped at issue stay. -/
def LadCmd.rewrite (m : LadCmd) (word : Word) (rcd : BitVec 512) : LadCmd :=
  match (instrOf word).bind (ladOpOf (w64 (field rcd 0 64))) with
  | some n => if n.1.popped = m.op.popped then { m with op := n.1, slot := n.2, word := word } else m
  | none => m

/-- A command writes its tile (R191). -/
def MatCmd.marks (m : MatCmd) : Bool := m.op != .accst

/-- The tiles are empty as the commands that write them say (R191, R193). -/
def CoreSt.recount (c : CoreSt) : CoreSt :=
  (List.range 16).foldl (fun (c : CoreSt) n =>
    let t := c.tile n
    c.setTile n { t with pend := (c.matq.filter fun m => m.marks && m.acc == n).length }) c

/-- The record of a command's place, of which doublewords 0 to 5 and 7 stand there. -/
def placeRcd (w : Nat → Nat) : BitVec 512 :=
  BitVec.ofNat 512 (((List.range 6).map fun i => w (8 * i + 8) * 2 ^ (64 * i)).sum + w 56 * 2 ^ 448)

/-- Every engine command that has not started, out of the place that `at'` gives for its number: a word and a record. -/
def CoreSt.rewriteCmds (c : CoreSt) (at' : Nat → Option (Word × BitVec 512)) : CoreSt :=
  let f := fun (l : List EngCmd) => l.map fun e =>
    match at' e.id with | some p => if e.taken then e else e.rewrite p.1 p.2 | none => e
  CoreSt.recount
    { c with
      cL := { c.cL with engq := f c.cL.engq }, cS := { c.cS with engq := f c.cS.engq }, ferry := f c.ferry
      matq := c.matq.map fun m => match at' m.id with | some p => if m.stage = 2 then m else m.rewrite p.1 p.2 | none => m
      ladq := c.ladq.map fun m => match at' m.id with | some p => if m.stage = 0 then m.rewrite p.1 p.2 else m | none => m }

/-- One unstarted engine command is rewritten. -/
def CoreSt.rewriteCmd (c : CoreSt) (id : Nat) (word : Word) (rcd : BitVec 512) : CoreSt :=
  c.rewriteCmds fun n => if n = id then some (word, rcd) else none

/-- Where an unstarted command stands among those of a save area. -/
def CoreSt.unstartedAt (c : CoreSt) (id : Nat) : Option Nat := c.unstarted.findIdx? fun u => u.id == id

/-- The commands that have not started, each out of its place among those whose doublewords `w` gives. -/
def CoreSt.areaCmds (c : CoreSt) (w : Nat → Nat) : CoreSt :=
  c.rewriteCmds fun id => (c.unstartedAt id).map fun i => (w64 (w (64 * i)), placeRcd fun o => w (64 * i + o))

/-- A core out of the first 0x1_0000 bytes of a save area, whose doublewords `w` gives, with the elements that `at'` gives. -/
def CoreSt.fromArea (c : CoreSt) (w : Nat → Nat) (at' : Nat → Elem) : CoreSt :=
  let ctx := fun (d : CtxSt) (o fp fn qp qn : Nat) =>
    { d.fromArea (fun i => w (o + i)) with
      fifoP := w (0xC00 + 8 * fp), fifoN := w (0xC00 + 8 * fn), cqP := areaCq fun i => w (0xE00 + 0x110 * qp + i)
      cqN := areaCq fun i => w (0xE00 + 0x110 * qn + i) }
  let c := c.areaCmds fun i => w (0x6000 + i)
  let d := c.areaQueues (c.areaFile at') fun q => w (0x4000 + 8 * q)
  let d := { d with
    cL := ctx c.cL 0 0 1 0 1, cX := ctx c.cX 0x400 2 3 2 3
    cS := ctx c.cS 0x800 4 5 4 5
    rings := areaRings c.rings 16 fun i => w (0x1800 + i), mqs := areaRings c.mqs 4 fun i => w (0x1900 + i)
    fq := areaFq (fun i => w (0x1A00 + i)) (w 0x1C00), emode := modeOf (w 0x1C08), slots := areaSlots fun i => w (0x2000 + i)
    batch := if w 0x3080 / 2 ^ 63 = 1 then some (w 0x3080 % 2 ^ 63) else none
    qmask := BitVec.ofNat 256 (((List.range 4).map fun i => w (0x3088 + 8 * i) * 2 ^ (64 * i)).sum), lsup := w64 (w 0x30A8) }
  let d := (List.range 31).foldl (fun (c : CoreSt) i =>
    let v := w (0xC40 + 8 * i)
    c.setTk (i + 1) ⟨v % 2 ^ 16, v / 2 ^ 16 % 2 == 1⟩) d
  let d := (List.range 16).foldl (fun (c : CoreSt) i =>
    { c with sc := Sparse.set 0 c.sc i (BitVec.ofNat 8 (w (0x1C40 + i / 8 * 8) / 2 ^ (8 * (i % 8)))) }) d
  let d := (List.range 32).foldl (fun (c : CoreSt) i =>
    { c with ct := Sparse.set 0 c.ct i (BitVec.ofNat 16 (w (0x1C50 + i / 4 * 8) / 2 ^ (16 * (i % 4)))) }) d
  let d := (List.range 6).foldl (fun (c : CoreSt) i =>
    c.setNest i (BitVec.ofNat 512 (((List.range 8).map fun j => w (0x1D00 + 64 * i + 8 * j) * 2 ^ (64 * j)).sum))) d
  let d := (List.range 64).foldl (fun (c : CoreSt) i => c.setExa i ((c.exa i).fromArea fun j => w (0x2400 + 48 * i + j))) d
  (List.range 16).foldl (fun (c : CoreSt) i => c.setTile i ((c.tile i).fromArea (w (0x3000 + 8 * i)))) d

/-- A number in a save area. -/
def State.areaNum (s : State) (base o n : Nat) : Nat := s.hbm.num (base + o) n

/-- A tile from a save area. -/
def State.areaTile (s : State) (base n : Nat) (t : TileSt) : TileSt :=
  { t with els := (List.range 16384).foldl (fun m i =>
      Sparse.set 0 m i (BitVec.ofNat 32 (s.areaNum base (0x190000 + 65536 * n + 4 * i) 4))) [] }

/-- The state of a saved core as its save area holds it now (R414). -/
def State.areaCore (s : State) (base : Nat) (d : CoreSt) : CoreSt :=
  let elem := fun (o i : Nat) => elemOfBytes (s.hbm.bytes (base + o + 512 * i) 512)
  let d := d.fromArea (fun o => s.areaNum base o 8) (elem 0x10000)
  let d := { d with ladq := d.areaOverflow (elem 0x110000), sp := Memory.setBytes [] 0 (s.hbm.bytes (base + 0x290000) spSize) }
  (List.range 16).foldl (fun (c : CoreSt) n => c.setTile n (s.areaTile base n (c.tile n))) d

end Sys2Proof.Machine
end

