-- ==== Sys2Proof/Machine/Remote.lean ====
section
/-! DEFINITION. RED and MSEND (R241, R245, R246, R351, R352) and the nameless stores (R249 to R251). -/

namespace Sys2Proof.Machine

open Sys2Proof

/-! ### Issue -/

/-- The record names by PHYS a core outside the sender's gang (R241, R256). -/
def State.foreign (s : State) (r : BitVec 512) : Bool :=
  rcdPhys r && !((s.core (rcdTgt r)).task == s.cur.task && (s.core (rcdTgt r)).status != .free)

/-- RED and MSEND (R229, R241, R246, R256). -/
def remoteIssue (op : EngOp) (e : EArgs) : Issue :=
  { allowed := .ls
    engine := true
    tki := tkis e
    ordered := fun s => s.transferTrap op e
    wait := fun s => (Wait.need s.engFree).and (s.frontWait (s.foreign (s.rcdAt e)))
    effect := fun wid s => s.pushEng (s.engCmd wid op e) }

/-- RED (R241). -/
def execRed (c : Ctl) (op : RedOp) (e : EArgs) (s : State) : Host.Outcome State Fault Refusal :=
  s.issue (.red c op e) (remoteIssue (.red op) e)

/-- MSEND (R246). -/
def execMsend (c : Ctl) (e : EArgs) (s : State) : Host.Outcome State Fault Refusal :=
  s.issue (.msend c e) (remoteIssue .msend e)

/-- The registers that STN's record names: XD, and XS for STN.S. -/
def stnRegs (status : Bool) (r : BitVec 512) : List Reg := rcdXd r :: if status then [rcdXs r] else []

/-- STN and STN.S (R249 to R251): the registers are pending from issue. -/
def stnIssue (status : Bool) (e : EArgs) : Issue :=
  { allowed := .ls
    engine := true
    tki := tkis e
    ordered := fun s => s.transferTrap (.stn status) e
    wait := fun s => .need (s.engFree && s.me.regsReady (stnRegs status (s.rcdAt e)))
    effect := fun wid s =>
      let cmd := s.engCmd wid (.stn status) e
      (s.pushEng cmd).updMe fun c => (stnRegs status cmd.rcd).foldl CtxSt.await c }

/-- STN (R249). -/
def execStn (c : Ctl) (e : EArgs) (s : State) : Host.Outcome State Fault Refusal := s.issue (.stn c e) (stnIssue false e)

/-- STN.S (R251). -/
def execStnS (c : Ctl) (e : EArgs) (s : State) : Host.Outcome State Fault Refusal := s.issue (.stnS c e) (stnIssue true e)

/-! ### RED -/

/-- One element at the target's port (R241). -/
def redLane (op : RedOp) (t v : Nat) : Nat :=
  match op with
  | .addF32 => FFmt.fp32.rne (FV.add false (FFmt.fp32.dec t) (FFmt.fp32.dec v))
  | .addI32 => (t + v) % 2 ^ 32
  | .maxF32 => (pickLane true .fp32 t v).v
  | .minF32 => (pickLane false .fp32 t v).v
  | .maxI32 => (pickLane true .int32 t v).v
  | .minI32 => (pickLane false .int32 t v).v

/-- Consecutive 4-byte values of a list of bytes. -/
def words32 (bs : List Byte) : List Nat := (List.range (bs.length / 4)).map fun i => bytesToNat ((bs.drop (4 * i)).take 4)

/-- The elements of a RED applied to the target's scratchpad in ascending offset. -/
def applyRed (op : RedOp) (sp : Memory) (dst : Nat) (vs : List Nat) : Memory :=
  (vs.zip (List.range vs.length)).foldl (fun m p => m.setNum (dst + 4 * p.2) 4 (redLane op (m.num (dst + 4 * p.2) 4) p.1)) sp

/-- What a RED or MSEND finds of its target (R56, R241). -/
inductive Target where
  | at (k : Nat)
  | later (k : Nat)
  | none
  deriving DecidableEq, Repr

/-- The task of core `t`, seen by a sender of task `mine`, is being pre-empted (R412). -/
def State.preempting (s : State) (t mine : Nat) : Bool := (s.core t).preReq && (s.core t).task != mine

/-- The target of a command of core `k` (R241). -/
def State.target (s : State) (k : Nat) (r : BitVec 512) : Target :=
  let mine := (s.core k).task
  match (if rcdPhys r then some (rcdTgt r) else s.coreOfRank mine (rcdTgt r)) with
  | none => .none
  | some t =>
    let c := s.core t
    if 384 ≤ t then .none
    else if c.status = .placed ∧ c.task = mine then .later t
    else if c.live && s.partOf t == s.partOf k && !s.preempting t mine then .at t
    else .none

/-- PROT of a command whose target is not valid. -/
def protAt (a : Nat) : Trap := { cause := .prot, addr := w64 a }

/-- The increment of the target's counter by a RED or MSEND of core `k` (R68, R241, R246): the TKOVF record of one that would pass
65,535 names the core that holds the counter and the sender's word and record, and interrupts the sender's die (R405, R406). -/
def State.targetToken (s : State) (k : Nat) (e : EngCmd) (t : Nat) : State :=
  let n := rcdTtk e.rcd
  if n = 0 then s
  else
    s.incTkFrom (dieOf k) t n 1 false
      { s.record t e.ctx.code { cause := .tkovf, info := w64 n, addr := w64 e.off } true (s.ctxOf k e.ctx).level e.pos e.pos e.word with
        taskt := (s.record k 0 { cause := .tkovf } true 0 0 0 0).taskt, tasks := w64 (s.core k).task }

/-- A RED of core `k` is applied at core `t` (R241, R351). -/
def State.redAt (s : State) (k : Nat) (e : EngCmd) (op : RedOp) (t : Nat) : State :=
  let off := rcdOffset e.rcd
  let n := rcdLen e.rcd
  if spSize < off + n ∨ (s.core t).meetsWindow off n then s.failEng k e.id (protAt off)
  else
    match (s.core t).lostBlock [(off, off + n)] with
    | some b => s.failEng k e.id { cause := .eccu, addr := w64 (64 * b), info := 5 }
    | none =>
    let s := s.updCore t fun c => { c with sp := applyRed op c.sp off (words32 e.buf) }
    (s.targetToken k e t).updEng k e.id fun x => { x with fin := true }

/-- A core that has not started holds the message (R56). `stage` 3 marks a command held at its target. -/
def State.holdMsg (s : State) (k : Nat) (e : EngCmd) (t : Nat) : State :=
  (s.updCore t fun c => { c with msgs := c.msgs ++ [⟨k, e.ctx, e.id⟩] }).updEng k e.id fun x => { x with stage := 3 }

/-- RED_APPLY (R241): the source has been read, and the elements reach the target's port. -/
def execRedApply (k : Nat) (_ctx : Ctx) (id : Nat) (s : State) : Host.Outcome State Fault Refusal :=
  if 384 ≤ k then .fault .noSuchCore
  else if !s.engines k then .next s
  else
    match (s.core k).eng? id with
    | none => .next s
    | some e =>
      match e.op with
      | .red op =>
        if e.stage = 2 ∧ e.open then
          match s.target k e.rcd with
          | .at t => .next (s.redAt k e op t)
          | .later t => .next (s.holdMsg k e t)
          | .none => .next (s.failEng k id (protAt (rcdOffset e.rcd)))
        else .next s
      | _ => .next s

/-! ### MSEND -/

/-- The header of a message slot (R245). -/
def msgHeader (len core rank : Nat) : List Byte := leBytes 8 (len + core * 2 ^ 16 + rank * 2 ^ 32) ++ List.replicate 56 0

/-- An MSEND of core `k` meets its queue at core `t` (R246): it fails, waits for its slot, or is delivered. -/
def State.msendAt (s : State) (k : Nat) (e : EngCmd) (t : Nat) : State :=
  match (s.core t).mq (rcdTmq e.rcd) with
  | none => s.failEng k e.id (protAt e.off)
  | some r =>
    if r.size < rcdLen e.rcd + 64 then s.failEng k e.id (protAt e.off)
    else if r.slot r.claim != .empty then s
    else
      let off := r.base + r.claim % r.slots * r.size
      let bytes := msgHeader (rcdLen e.rcd) k (s.core k).rank ++ e.buf
      let s := s.updCore t fun c =>
        (c.spWrite off bytes).updMq (rcdTmq e.rcd) fun q => { q.setSlot q.claim .full with claim := q.claim + 1 }
      (s.targetToken k e t).updEng k e.id fun x => { x with fin := true }

/-- No earlier message of the context to the same queue of the same core waits (R246). -/
def State.firstMessage (s : State) (k : Nat) (e : EngCmd) : Bool :=
  ((s.ctxOf k e.ctx).engq.takeWhile fun x => x.id != e.id).all fun x =>
    !(x.op == .msend && !x.fin && x.fail.isNone && rcdTmq x.rcd == rcdTmq e.rcd &&
      s.targetCore k x.rcd == s.targetCore k e.rcd)

/-- MSEND_GRANT (R246). -/
def execMsendGrant (k : Nat) (_ctx : Ctx) (id : Nat) (s : State) : Host.Outcome State Fault Refusal :=
  if 384 ≤ k then .fault .noSuchCore
  else if !s.engines k then .next s
  else
    match (s.core k).eng? id with
    | none => .next s
    | some e =>
      if e.op = .msend ∧ e.stage = 2 ∧ e.open ∧ s.firstMessage k e then
        match s.target k e.rcd with
        | .at t => .next (s.msendAt k e t)
        | .later t => .next (s.holdMsg k e t)
        | .none => .next (s.failEng k id (protAt e.off))
      else .next s

/-- A message held at core `t` is applied when its start state is in place (R56). -/
def State.applyHeld (s : State) (t : Nat) (m : HeldMsg) : State :=
  match (s.core m.core).eng? m.id with
  | none => s
  | some e =>
    match e.op with
    | .red op => s.redAt m.core e op t
    | _ => (s.updEng m.core m.id fun x => { x with stage := 2 }).msendAt m.core e t

/-- Read the source of a command in 64-byte pieces, and then move it to stage 2. -/
def State.readSource (s : State) (k : Nat) (e : EngCmd) (src n : Nat) : State :=
  if n ≤ e.buf.length then s.updEng k e.id fun x => { x with stage := 2 }
  else s.rowRead k e (src + e.buf.length) (n - e.buf.length)

/-! ### Nameless stores (R249 to R251) -/

/-- The run of `n` granules from `g` of a stack's pool is free. -/
def State.runFree (s : State) (p stack g n : Nat) : Bool :=
  let pool := (s.part p).reg (16 + stack)
  decide (g + n ≤ field pool 0 24) &&
    (List.range n).all fun i => (s.gran stack (field pool 24 24 + g + i)).share == 0

/-- Granules of an STN. -/
abbrev stnCount (r : BitVec 512) : Nat := rcdLen r + 1

/-- The greatest previous generation of a run. -/
def State.greatestGen (s : State) (stack first n : Nat) : Nat :=
  (List.range n).foldl (fun m i => max m (s.gran stack (first + i)).gen) 0

/-- A berth name (R247). -/
def berthName (gen stack g n part : Nat) : Word :=
  w64 (gen * 2 ^ 56 + stack * 2 ^ 53 + g * 2 ^ 24 + (n - 1) * 2 ^ 8 + part)

/-- Take a run: one generation for all of it, share count 1 (R249 step 3). -/
def State.takeRun (s : State) (p stack g n : Nat) : State × Word :=
  let first := field ((s.part p).reg (16 + stack)) 24 24 + g
  let gen := s.greatestGen stack first n % 255 + 1
  ((List.range n).foldl (fun s i => s.setGran stack (first + i) ⟨gen, 1⟩) s, berthName gen stack g n p)

/-- A provisional berth belongs to its task until commit (R256, R292). -/
def State.ownBerth (s : State) (k : Nat) (w : Word) : State :=
  s.updTask (s.core k).task fun t => if t.prov then { t with berths := t.berths ++ [w] } else t

/-- The stacks of a pool that hold a free run, with the run that channel and bank load would take there. -/
def State.stnStacks (s : State) (p n : Nat) : List (Nat × Nat) :=
  (List.range 8).filterMap fun st =>
    let gs := ((List.range (field ((s.part p).reg (16 + st)) 0 24)).filter fun g => s.runFree p st g n)
    (gs[s.freeVal 7 % max 1 gs.length]?).map fun g => (st, g)

/-- The first of a list of stacks with the lowest occupancy: a tie goes to the lower number (R249 step 1). -/
def leastStack (occ : Nat → Nat) : List (Nat × Nat) → Option (Nat × Nat)
  | [] => none
  | a :: r =>
    match leastStack occ r with
    | some b => some (if occ b.1 < occ a.1 then b else a)
    | none => some a

/-- The run that an allocation takes: on the stack with the lowest queue occupancy, by channel and bank load. Occupancy and load are
the device's own, and their values are free (R249; assumption 11). -/
def State.pickRun (s : State) (p n : Nat) : Option (Nat × Nat) := leastStack (fun st => s.freeVal (30 + st)) (s.stnStacks p n)

/-- The allocation (R249, R251). Stage 2: the data is to be written. Stage 3: nothing more to write. -/
def State.stnAllocate (s : State) (k : Nat) (e : EngCmd) (status : Bool) : State :=
  let p := s.partOf k
  let n := stnCount e.rcd
  match s.pickRun p n with
  | some (st, g) =>
    let a := s.takeRun p st g n
    (a.1.ownBerth k a.2).updEng k e.id fun x => { x with stage := 2, name := a.2 }
  | none =>
    if status then s.updEng k e.id fun x => { x with stage := 3, name := 0, aux := 1, row := n * 64 }
    else
      s.updEng k e.id fun x => { x with stage := 3, name := 0, fail := some { cause := .bpool, addr := w64 e.off } }

/-- Write 64 bytes at offset `o` of a named run: through the berth window, so that a speculative task's bytes become
version lines (R256, R293), or, where the partition has no window, at the granule itself (assumption 29). -/
def State.stnWrite (s : State) (k : Nat) (e : EngCmd) (o : Nat) (bs : List Byte) : Wr :=
  let p := s.partOf k
  match berthOf e.name with
  | none => .ok s
  | some b =>
    let base := ((s.part p).reg 8).toNat
    if base = 0 then
      if !s.hbmServed then .wait
      else .ok (s.devWrite k e.ctx e.id false ⟨0, b.stack * 2 ^ 37 + s.granule b 0 * 4096 + o⟩ 0 bs)
    else s.engineWrite k e.ctx e.id ⟨true, false⟩ (base + (b.stack * 2 ^ 24 + b.gran) * 4096 + o) bs

/-- The data of an STN: 64 bytes read and written at a time; `row` counts them. -/
def State.stnData (s : State) (k : Nat) (e : EngCmd) : State :=
  let n := stnCount e.rcd * 4096
  let src := rcdSrc e.rcd
  if n ≤ 64 * e.row then s.updEng k e.id fun x => { x with fin := true }
  else if e.buf.length < 64 then
    match (s.core k).rowTrap src (src + 64 * e.row) 64 false false with
    | some t => s.failEng k e.id t
    | none => s.rowRead k e (src + 64 * e.row + e.buf.length) (64 - e.buf.length)
  else
    match s.stnWrite k e (64 * e.row) e.buf with
    | .ok s => s.updEng k e.id fun x => { x with row := x.row + 1, buf := [] }
    | .wait => s
    | .bad va c m => s.badEng k e.id va c m

/-- One elementary step of an STN. A stage of 4 or more says that the name has been returned as well. -/
def State.stnStep (s : State) (k : Nat) (e : EngCmd) (status : Bool) : State :=
  if e.stage = 1 then s.stnAllocate k e status else s.stnData k e

/-- STN_NAME_RETURN (R250, R251): names are returned in program order. -/
def execStnNameReturn (k : Nat) (_ctx : Ctx) (id : Nat) (s : State) : Host.Outcome State Fault Refusal :=
  if 384 ≤ k then .fault .noSuchCore
  else if !s.engines k then .next s
  else
    match (s.core k).eng? id with
    | none => .next s
    | some e =>
      match e.op with
      | .stn status =>
        let earlier := ((s.ctxOf k e.ctx).engq.takeWhile fun x => x.id != id).filter fun x =>
          match x.op with | .stn _ => decide (x.stage < 4) | _ => false
        if (e.stage = 2 ∨ e.stage = 3) ∧ earlier = [] then
          .next ((s.updCtx k e.ctx fun c =>
            let c := c.arrive (rcdXd e.rcd) e.name
            if status then c.arrive (rcdXs e.rcd) (w64 e.aux) else c).updEng k id fun x => { x with stage := 4 })
        else .next s
      | _ => .next s

end Sys2Proof.Machine
end

