-- ==== Sys2Proof/Machine/Spawn.lean ====
section
/-! DEFINITION. TSPAWN, TGRAPH and TYIELD (R305 to R312). -/

namespace Sys2Proof.Machine

open Sys2Proof

/-! ### TSPAWN (R305, R306) -/

/-- KIMG of a spawn record. -/
abbrev spawnKimg (r : BitVec 512) : Nat := field r 0 64
/-- ARGS. -/
abbrev spawnArgs (r : BitVec 512) : Nat := field r 64 64
/-- TSV. -/
abbrev spawnTsv (r : BitVec 512) : Nat := field r 128 64
/-- CWA. -/
abbrev spawnCwa (r : BitVec 512) : Nat := field r 192 64
/-- NSPEC. -/
abbrev spawnNspec (r : BitVec 512) : Bool := bitOf r 449
/-- REL. -/
abbrev spawnRel (r : BitVec 512) : Bool := bitOf r 448

/-- TASKT of the issuing task. -/
def State.taskt (s : State) : Nat :=
  match s.taskOf s.k with
  | some t => t.ts
  | none => 0

/-- The child's timestamp, exact. -/
def State.childTs (s : State) (r : BitVec 512) : Nat := if spawnRel r then spawnTsv r + s.taskt else spawnTsv r

/-- The checks of TSPAWN at issue. -/
def State.spawnTrap (s : State) (r : BitVec 512) : Option Trap :=
  if field r 256 192 ≠ 0 ∨ field r 472 40 ≠ 0 ∨ field r 450 10 ≠ 0 ∨ (rcdXs r = rcdXd r ∧ rcdXs r ≠ 0) ∨
      spawnKimg r % 64 ≠ 0 then some { cause := .illop }
  else if spawnCwa r % 8 ≠ 0 then some { cause := .align, addr := w64 (spawnCwa r) }
  else if 2 ^ 64 ≤ s.childTs r ∨ s.childTs r < s.taskt then some { cause := .tsord }
  else none

/-- TSPAWN (R305, R306): the registers are pending from issue. -/
def execTspawn (c : Ctl) (e : EArgs) (s : State) : Host.Outcome State Fault Refusal :=
  s.issue (.tspawn c e)
    { allowed := .onlyL
      engine := true
      tki := tkis e
      ordered := fun s => (s.rcdLost e).or (s.spawnTrap (s.rcdAt e))
      wait := fun s => .need (s.engFree && s.me.regsReady [rcdXd (s.rcdAt e), rcdXs (s.rcdAt e)])
      effect := fun wid s =>
        let cmd := { s.engCmd wid .tspawn e with aux := s.childTs (s.rcdAt e) }
        (s.pushEng cmd).updMe fun c => (c.await (rcdXd cmd.rcd)).await (rcdXs cmd.rcd) }

/-- A TSPAWN has its answer: status and sequence number (R306). -/
def State.spawned (s : State) (k id st : Nat) (seq : Nat) : State :=
  s.updEng k id fun x => { x with aux := st, name := w64 seq, fin := true }

/-- The engine's part of TSPAWN, in issue order (R306). Stage 1: nothing done. Stage 2: waiting for the scheduler's queue. `aux` holds the
timestamp until the answer is known. -/
def State.spawnStep (s : State) (k : Nat) (e : EngCmd) : State :=
  let earlier := ((s.ctxOf k e.ctx).engq.takeWhile fun x => x.id != e.id).any fun x =>
    x.op == .tspawn && !x.fin && x.fail.isNone
  if e.stage = 2 || earlier then s
  else
    match s.taskOf k with
    | none => s
    | some t =>
      match s.image k t.part (s.engAcc k e false) (spawnKimg e.rcd) with
      | .stuck .wait _ => s
      | .stuck (.bad va c m) notes => (s.note k notes).badEng k e.id va c m
      | .stuck (.lost va i) notes => (s.note k notes).failEng k e.id { cause := .eccu, addr := w64 va, info := w64 i }
      | .stuck (.ok _ _) _ => s
      | .bad notes => (s.note k notes).spawned k e.id 1 0
      | .ok h notes =>
        let s := s.note k notes
        let child := newTask e.aux t.part t.seq t.level (spawnNspec e.rcd) (w64 (spawnKimg e.rcd)) (w64 (spawnArgs e.rcd))
          (spawnCwa e.rcd) .spawn h
        match s.create child k e.ctx e.id with
        | .done u => u.spawned k e.id 0 (u.nextSeq - 1)
        | .wait u => u.updEng k e.id fun x => { x with stage := 2 }
        | .refused => s.spawned k e.id 3 0

/-! ### TGRAPH (R308, R309) -/

/-- TAB of a graph record. -/
abbrev graphTab (r : BitVec 512) : Nat := field r 0 64
/-- TSBASE. -/
abbrev graphTs (r : BitVec 512) : Nat := field r 64 64
/-- IGEN. -/
abbrev graphIgen (r : BitVec 512) : Nat := field r 184 8
/-- Nodes. -/
abbrev graphNodes (r : BitVec 512) : Nat := field r 128 16 + 1

/-- The checks of TGRAPH at issue, once it is the frontier (R309). -/
def State.graphTrap (s : State) (r : BitVec 512) : Option Trap :=
  if graphTs r < s.taskt then some { cause := .tsord }
  else if field r 144 40 ≠ 0 ∨ field r 192 320 ≠ 0 ∨ graphIgen r = 0 ∨ graphTab r % 64 ≠ 0 then some { cause := .illop }
  else none

/-- TGRAPH (R308): irrevocable. -/
def execTgraph (c : Ctl) (e : EArgs) (s : State) : Host.Outcome State Fault Refusal :=
  s.issue (.tgraph c e)
    { allowed := .onlyL
      engine := true
      tki := tkis e
      wait := fun s => (Wait.need s.engFree).and (s.frontWait true)
      late := fun s => (s.rcdLost e).or (s.graphTrap (s.rcdAt e))
      effect := fun wid s => s.pushEng (s.engCmd wid .tgraph e) }

/-- The nodes that a command has read. -/
def nodesOf (bs : List Byte) : List (BitVec 512) :=
  (List.range (bs.length / 64)).map fun i => BitVec.ofNat 512 (bytesToNat ((bs.drop (64 * i)).take 64))

/-- The fault of a table (R309). -/
def tableTrap (tsbase : Nat) (ns : List (BitVec 512)) : Option Cause :=
  let n := ns.length
  let succs := ns.flatMap nodeSuccs
  if ns.any (fun r => field r 197 11 != 0 || decide (16 < nodeNsucc r) || (nodeSuccs r).any (fun i => decide (n ≤ i)) ||
        decide (2 ^ 64 ≤ tsbase + nodeTsoff r)) ||
      (List.range n).any (fun i => nodeNpred (ns.getD i 0) != succs.count i) then some .illop
  else if ns.any fun r => (nodeSuccs r).any fun i => decide (nodeTsoff (ns.getD i 0) < nodeTsoff r) then some .tsord
  else none

/-- The next node at or after `i` without predecessors. -/
def nextRoot (ns : List (BitVec 512)) (i : Nat) : Option Nat :=
  (List.range ns.length).find? fun j => decide (i ≤ j) && nodeNpred (ns.getD j 0) == 0

/-- The instance that a TGRAPH of task `t` replays. -/
def graphInstance (t : Task) (r : BitVec 512) : Instance := ⟨t.part, graphTab r, graphIgen r, graphTs r, t.seq, t.level⟩

/-- Arm root `i` and create its task, from the node's record as it is read now (R309, R310). -/
def State.rootTask (s : State) (k : Nat) (e : EngCmd) (t : Task) (i : Nat) : State :=
  let inst := graphInstance t e.rcd
  let next := fun (x : EngCmd) => { x with row := i + 1 }
  match s.nodeAt t.part (graphTab e.rcd) i true with
  | .wait => s
  | .bad va c m => s.badEng k e.id va c m
  | .lost va i => s.failEng k e.id { cause := .eccu, addr := w64 va, info := w64 i }
  | .ok l v =>
    let armed := s.putNode t.part (graphTab e.rcd + 64 * i) l v (graphIgen e.rcd) (nodeRgen v) 0
    match s.nodeImage inst v with
    | .stuck .wait _ => s
    | .stuck (.bad va .xlate m) _ => s.haltEng k e.id va m
    | .ok h _ =>
      match armed.nodeTask inst i v h k e.ctx e.id with
      | .done u => u.updEng k e.id next
      | .wait u => u.updEng k e.id fun x => { x with row := i + 1, stage := 3 }
      | .refused => armed.updEng k e.id next
    | _ => armed.updEng k e.id next

/-- One elementary step of TGRAPH. Stage 1: the table is being read, 64 bytes at a time. Stage 2: `row` is the next node
to look at for a root. Stage 3: waiting for the scheduler's queue. -/
def State.graphStep (s : State) (k : Nat) (e : EngCmd) : State :=
  match s.taskOf k with
  | none => s
  | some t =>
    if e.stage = 3 then s
    else if e.stage = 1 then
      if e.buf.length < 64 * graphNodes e.rcd then
        let a := graphTab e.rcd + e.buf.length
        s.takeRead k e a (s.readVirt k (s.engAcc k e false) a 64) fun bs x => { x with buf := x.buf ++ bs }
      else
        match tableTrap (graphTs e.rcd) (nodesOf e.buf) with
        | some c => s.failEng k e.id { cause := c, addr := w64 e.off }
        | none => (s.newInstance (graphInstance t e.rcd)).updEng k e.id fun x => { x with stage := 2, row := 0 }
    else
      match nextRoot (nodesOf e.buf) e.row with
      | none => s.updEng k e.id fun x => { x with fin := true }
      | some i => s.rootTask k e t i

/-! ### Answers to creations that waited (R422) -/

/-- A waiting creation is answered: it has become task `seq`, or it is refused. Launch queues are answered with the
queue's own state. -/
def State.answer (s : State) (w : Creation) (seq : Option Nat) : State :=
  if w.core = sequencer then
    match w.task.origin with
    | .host q tag irq =>
      match seq with
      | some _ => s
      | none => s.completionRecord q tag irq 0 3
    | _ => s
  else
    match w.task.origin with
    | .spawn =>
      match seq with
      | some n => s.spawned w.core w.id 0 n
      | none => s.spawned w.core w.id 3 0
    | _ => s.updEng w.core w.id fun x => { x with stage := 2 }

/-- The command that asked for a waiting creation is still there. -/
def State.stillAsked (s : State) (w : Creation) : Bool :=
  w.core == sequencer || ((s.core w.core).eng? w.id).isSome

/-- Waiting creations proceed in the order they arrived, as far as segments reach (R422); `fuel` bounds their number. -/
def State.proceed (s : State) (p : Nat) : Nat → State
  | 0 => s
  | fuel + 1 =>
    match (s.part p).waiting with
    | [] => { s with parts := Sparse.put s.parts p { s.part p with tqfull := false } }
    | w :: rest =>
      let s0 := s.updPart p fun v => { v with waiting := rest, tqfull := false }
      if !s.stillAsked w then s0.proceed p fuel
      else
        match s0.create w.task w.core w.ctx w.id with
        | .done u => (u.answer w (some (u.nextSeq - 1))).proceed p fuel
        | .refused => (s0.answer w none).proceed p fuel
        | .wait u => u.updPart p fun v => { v with waiting := w :: rest }

/-- Every waiting creation is refused (R422). -/
def State.refuseWaiting (s : State) (p : Nat) : State :=
  let ws := (s.part p).waiting
  ws.foldl (fun s w => s.answer w none) (s.updPart p fun v => { v with waiting := [], tqfull := false })

/-! ### TYIELD (R312) -/

/-- TYIELD.FRONT: irrevocable. -/
def execTyieldFront (c : Ctl) (s : State) : Host.Outcome State Fault Refusal :=
  s.issue (.tyieldFront c)
    { allowed := .ls
      wait := fun s => s.frontWait true
      effect := fun _ s => s }

/-- TYIELD.PAST: it waits until FRONTT reaches a bound that may not exceed the task's own timestamp. -/
def execTyieldPast (c : Ctl) (xa : Reg) (s : State) : Host.Outcome State Fault Refusal :=
  s.issue (.tyieldPast c xa)
    { allowed := .ls
      uses := [xa]
      check := fun s => if s.taskt < (s.reg xa).toNat then some { cause := .illop } else none
      wait := fun s => .need (decide ((s.reg xa).toNat ≤ (s.frontKey s.k).1))
      effect := fun _ s => s }

end Sys2Proof.Machine
end

