-- ==== Sys2Proof/Machine/Coll.lean ====
section
/-! DEFINITION. Collectives (R442 to R446). -/

namespace Sys2Proof.Machine

open Sys2Proof

/-- Reserved bits of a record are set. -/
def collReserved (r : BitVec 512) : Bool :=
  field r 204 244 != 0 || field r 451 13 != 0 || field r 473 39 != 0

/-- The scratchpad checks of one of COLL's ranges (R232, R443). -/
def CoreSt.collRange (c : CoreSt) (a n : Nat) (write : Bool) : Option Trap :=
  if !isScratch a && !isVirtual a then some { cause := .xlate, addr := w64 a }
  else if !isScratch a then none
  else if spSize < a % 2 ^ 52 + n then some { cause := .sprng, addr := w64 a }
  else if write && c.meetsWindow (a % 2 ^ 52) n then some { cause := .prot, addr := w64 a }
  else none

/-- The checks of COLL at issue (R443); forms: 0 ALLRED, 1 RED, 2 BCAST, 3 BAR. -/
def State.collTrap (s : State) (form : Nat) (r : BitVec 512) : Option Trap :=
  let len := collLen r
  let lenOk := if form = 3 then len == 0 else len % 64 == 0 && decide (64 ≤ len) && decide (len ≤ 2 ^ 24)
  if collReserved r || !lenOk || decide (5 ≤ collOp r) ||
      decide (s.groupSize (s.partOf s.k) (collGroup r) ≤ collRoot r) then some { cause := .illop }
  else if rcdSrc r % 64 ≠ 0 then some { cause := .align, addr := rcdWord r 0 }
  else if rcdDst r % 64 ≠ 0 then some { cause := .align, addr := rcdWord r 1 }
  else (s.cur.collRange (rcdSrc r) len false).or (s.cur.collRange (rcdDst r) len true)

/-- REDDL of a partition in core cycles (R10, R367). -/
def State.deadline (s : State) (p : Nat) : Nat := (s.part p).reddl.toNat * 2500

/-- A command is an outstanding COLL of a group and number. -/
def EngCmd.collective (e : EngCmd) (g n : Nat) : Bool :=
  match e.op with
  | .coll _ => collGroup e.rcd == g && collNum e.rcd == n
  | _ => false

/-- A local member's command gets a verdict: its cause, and, for a timeout, stage 9: the one record of the collective
stands for it. -/
def State.collVerdict (s : State) (cause : Cause) (info : Nat) (x : Contrib) : State :=
  if x.loc then
    s.updEng x.core x.id fun e =>
      { e with fail := some { cause := cause, addr := w64 e.off, info := w64 info }, stage := if cause = .rtimeout then 9 else e.stage }
  else s

/-- Every outstanding local member of a collective that satisfies a test fails with ILLOP (R443). -/
def State.collFail (s : State) (p g n : Nat) (test : Nat → EngCmd → Bool) : State :=
  (s.cores.filter fun c => s.partOf c.1 == p).foldl (fun s c =>
    (c.2.transfers.filter fun e => e.collective g n && test c.1 e && !e.fin && e.fail.isNone).foldl
      (fun s e => s.collVerdict .illop 0 ⟨0, [], c.1, e.ctx, e.id, true⟩) s) s

/-- A contribution belongs to a collective. -/
def Coll.is (c : Coll) (p g n : Nat) : Bool := c.part == p && c.group == g && c.cnum == n

/-- How many ranks have contributed. -/
def Coll.ranks (c : Coll) : Nat := ((c.got.map (·.rank)).eraseDups).length

/-- The reduction point keeps a collective, until every rank has had the verdict of one that has failed. -/
def State.putColl (s : State) (d : Coll) : State :=
  let same := fun (c : Coll) => c.is d.part d.group d.cnum
  { s with colls :=
      if d.state ≠ 0 ∧ d.n ≤ d.ranks then delFirst same s.colls
      else if s.colls.any same then updFirst same (fun _ => d) s.colls
      else s.colls ++ [d] }

/-- Core `k` has issued COLL `e` while its `first` for the same CNUM is outstanding: every member fails with ILLOP, those that have
contributed now and the others as they contribute (R443). Where the first has its result already, nobody else is left to
fail. -/
def State.collDouble (s : State) (k : Nat) (first e : EngCmd) (form : Nat) : State :=
  let p := s.partOf k
  let g := collGroup e.rcd
  let n := collNum e.rcd
  match s.collRank p g k with
  | none => s
  | some r =>
    let me : Contrib := ⟨r, [], k, e.ctx, e.id, true⟩
    let s := s.collFail p g n fun j x => j == k || decide (4 ≤ x.stage)
    match s.colls.find? fun c => c.is p g n with
    | some c => s.putColl { c with got := c.got ++ [me], state := if c.state = 0 then 1 else c.state }
    | none =>
      if 5 ≤ first.stage then s
      else
        s.putColl ⟨p, g, n, form, collLen e.rcd, collOp e.rcd, collRoot e.rcd, s.groupSize p g, [me], s.now, 1, e.limit⟩

/-- COLL (R443): irrevocable. `aux` holds the time of issue, `limit` REDDL of then (R368, R445). -/
def collIssue (form : Nat) (e : EArgs) : Issue :=
  { allowed := .ls
    engine := true
    tki := tkis e
    ordered := fun s =>
      ((s.rcdLost e).or (s.collTrap form (s.rcdAt e))).or (s.engOverlap (.coll form) (s.rcdAt e) (rcdOff e))
    wait := fun s => (Wait.need s.engFree).and (s.frontWait true)
    effect := fun wid s =>
      let cmd := { s.engCmd wid (.coll form) e with aux := s.now, limit := s.deadline (s.partOf s.k) }
      match s.cur.transfers.find? fun x => x.collective (collGroup cmd.rcd) (collNum cmd.rcd) with
      | some first => (s.pushEng cmd).collDouble s.k first cmd form
      | none => s.pushEng cmd }

/-- COLL.ALLRED (R443). -/
def execCollAllred (c : Ctl) (e : EArgs) (s : State) : Host.Outcome State Fault Refusal :=
  s.issue (.collAllred c e) (collIssue 0 e)

/-- COLL.RED (R443). -/
def execCollRed (c : Ctl) (e : EArgs) (s : State) : Host.Outcome State Fault Refusal :=
  s.issue (.collRed c e) (collIssue 1 e)

/-- COLL.BCAST (R443). -/
def execCollBcast (c : Ctl) (e : EArgs) (s : State) : Host.Outcome State Fault Refusal :=
  s.issue (.collBcast c e) (collIssue 2 e)

/-- COLL.BAR (R443). -/
def execCollBar (c : Ctl) (e : EArgs) (s : State) : Host.Outcome State Fault Refusal :=
  s.issue (.collBar c e) (collIssue 3 e)

/-! ### The result (R444) -/

/-- One element of the result, over the members' values in ascending rank. -/
def collLane (op : Nat) (vs : List Nat) : Nat :=
  match vs with
  | [] => 0
  | v :: r =>
    match op with
    | 0 => r.foldl (redLane .addF32) v
    | 1 => ((vs.foldl (fun (a : ExAcc) x => a.add (BitVec.ofNat 32 x)) ⟨0, .finite, false, false⟩).read)
    | 2 => r.foldl (redLane .maxF32) v
    | 3 => r.foldl (redLane .minF32) v
    | _ => r.foldl (redLane .addI32) v

/-- The contribution of a rank. -/
def Coll.data (c : Coll) (r : Nat) : List Byte :=
  match c.got.find? fun x => x.rank == r with
  | some x => x.data
  | none => []

/-- The result of a complete collective. -/
def Coll.result (c : Coll) : List Byte :=
  match c.sub with
  | 3 => []
  | 2 => c.data c.root
  | _ =>
    let vs := (List.range c.n).map fun r => words32 (c.data r)
    (List.range (c.len / 4)).flatMap fun j => leBytes 4 (collLane c.op (vs.map fun v => v.getD j 0))

/-! ### Contributions (R443, R445) -/

/-- Every member so far gets a verdict. -/
def State.collEnd (s : State) (c : Coll) (cause : Cause) (info : Nat) : State :=
  c.got.foldl (fun s x => s.collVerdict cause info x) s

/-- A contribution reaches the reduction point: it opens the collective, joins it, disagrees with it, or is late. -/
def State.contribute (s : State) (p g num n limit : Nat) (x : Contrib) (sub len op root : Nat) : State :=
  match s.colls.find? fun c => c.is p g num with
  | none => s.putColl ⟨p, g, num, sub, len, op, root, n, [x], s.now, 0, limit⟩
  | some c =>
    let d := { c with got := c.got ++ [x] }
    if c.state = 2 then (s.collVerdict .rtimeout num x).putColl d
    else if c.state = 1 then (s.collVerdict .illop 0 x).putColl d
    else if c.sub ≠ sub ∨ c.len ≠ len ∨ c.op ≠ op ∨ c.root ≠ root ∨ c.got.any (fun y => y.rank == x.rank) then
      (s.collEnd d .illop 0).putColl { d with state := 1 }
    else s.putColl d

/-- COLL_CONTRIBUTION (R444, R445): the source has been read, and goes to the reduction point. Stage 4: contributed. -/
def execCollContribution (k : Nat) (_ctx : Ctx) (id : Nat) (s : State) : Host.Outcome State Fault Refusal :=
  if 384 ≤ k then .fault .noSuchCore
  else if !s.engines k then .next s
  else
    match (s.core k).eng? id with
    | none => .next s
    | some e =>
      match e.op with
      | .coll form =>
        if e.stage = 2 ∧ e.open then
          let p := s.partOf k
          let r := e.rcd
          match s.collRank p (collGroup r) k with
          | none => .next (s.failEng k id { cause := .prot, addr := w64 e.off })
          | some rank =>
            .next ((s.updEng k id fun x => { x with stage := 4, row := rank }).contribute p (collGroup r) (collNum r)
              (s.groupSize p (collGroup r)) e.limit ⟨rank, e.buf, k, e.ctx, id, true⟩ form (collLen r) (collOp r) (collRoot r))
        else .next s
      | _ => .next s

/-- A contribution of a core of another device (R445); none arrives in the safe state (R449). -/
def State.remoteContribution (s : State) (p g num rank sub op : Nat) (data : List Byte) : State :=
  let n := s.groupSize p g
  if !s.boot.safe ∧ rank < n ∧ s.groupWord p g (rank + 1) / 2 ^ 48 ≠ Config.deviceNumber.toNat then
    s.contribute p g num n (s.deadline p) ⟨rank, data, 0, .L, 0, false⟩ sub data.length (op % 8) (op / 8)
  else s

/-- A complete collective gives every local member its result: stage 5, with the bytes to write at DST (R444, R445). -/
def State.collDeliver (s : State) (idx : Nat) : State :=
  match s.colls[idx]? with
  | none => s
  | some c =>
    if c.state ≠ 0 ∨ c.got.length ≠ c.n then s
    else
      let res := c.result
      c.got.foldl (fun s x =>
        if x.loc then
          s.updEng x.core x.id fun e =>
            { e with stage := 5, done := 0, buf := if c.sub = 1 ∧ x.rank ≠ c.root then [] else res }
        else s) { s with colls := s.colls.eraseIdx idx }

/-- The one record of a collective that has timed out (R405, R445). -/
def State.timeoutRecord (s : State) (c : Coll) : State :=
  s.log (looseRecord c.part (s.freeVal 1 % 4) .rtimeout 0 (w64 c.cnum) (w64 (s.freeVal 2)) (w64 (s.freeVal 3)))

/-- The collective has timed out: every member is flagged, and no DST is written (R445). -/
def State.collTimeout (s : State) (c : Coll) : State :=
  let s := (s.timeoutRecord c).collEnd c .rtimeout c.cnum
  { s with colls := updFirst (fun d => d.is c.part c.group c.cnum) (fun d => { d with state := 2 }) s.colls }

/-- COLL_DEADLINE_EXPIRE (R445): a contribution is missing REDDL µs after the first one. -/
def execCollDeadlineExpire (part group cnum : Nat) (s : State) : Host.Outcome State Fault Refusal :=
  match s.colls.find? fun c => c.is part group cnum with
  | none => .next s
  | some c =>
    if !s.boot.safe ∧ c.state = 0 ∧ c.got.length < c.n ∧ c.limit ≤ s.now - c.since then .next (s.collTimeout c) else .next s

/-- COLL_MEMBER_TIMEOUT (R445): neither a result nor a verdict within 2 × REDDL of the member's own issue. Where the
member's contribution has been accepted, the whole collective has timed out by then. -/
def execCollMemberTimeout (k : Nat) (_ctx : Ctx) (id : Nat) (s : State) : Host.Outcome State Fault Refusal :=
  if 384 ≤ k then .fault .noSuchCore
  else if !s.engines k then .next s
  else
    match (s.core k).eng? id with
    | none => .next s
    | some e =>
      match e.op with
      | .coll _ =>
        if e.stage < 5 ∧ e.fail.isNone ∧ 2 * e.limit ≤ s.now - e.aux then
          match s.colls.find? fun c => c.is (s.partOf k) (collGroup e.rcd) (collNum e.rcd) with
          | some c =>
            if e.stage = 4 ∧ c.state = 0 then .next (s.collTimeout c)
            else .next (s.failEng k id { cause := .rtimeout, addr := w64 e.off, info := w64 (collNum e.rcd) })
          | none => .next (s.failEng k id { cause := .rtimeout, addr := w64 e.off, info := w64 (collNum e.rcd) })
        else .next s
      | _ => .next s

/-- Write the result at DST, 64 bytes at a time (R446). -/
def State.collWrite (s : State) (k : Nat) (e : EngCmd) : State :=
  let len := e.buf.length
  if len ≤ e.done then s.updEng k e.id fun x => { x with fin := true }
  else
    let d := rcdDst e.rcd + e.done
    let bs := e.piece d len
    let next := fun (s : State) => s.updEng k e.id fun x => { x with done := x.done + bs.length }
    if isScratch d then next (s.updCore k fun c => c.spWrite (d % 2 ^ 52) bs)
    else
      match s.engineWrite k e.ctx e.id (s.engAcc k e true) d bs with
      | .ok s => next s
      | .wait => s
      | .bad va c m => s.badEng k e.id va c m

/-! ### The next elementary step of a command of an engine queue -/

/-- Every earlier command of the queue has started (R229). -/
def CoreSt.mayStart (c : CoreSt) (e : EngCmd) : Bool :=
  ((c.ctx e.ctx).engq.takeWhile fun x => x.id != e.id).all fun x => x.stage != 0

/-- The step of a started command. -/
def State.cmdStep (s : State) (k : Nat) (e : EngCmd) : State :=
  match e.op with
  | .spld | .spst | .gath | .scat | .ldt => s.transferStep k e
  | .ferry | .ferryTier | .ferryQ => s
  | .red _ | .msend => if e.stage = 1 then s.readSource k e (rcdSrc e.rcd) (rcdLen e.rcd) else s
  | .stn status => s.stnStep k e status
  | .tspawn => s.spawnStep k e
  | .tgraph => s.graphStep k e
  | .coll form =>
    if e.stage = 1 then s.readSource k e (rcdSrc e.rcd) (if form = 3 then 0 else collLen e.rcd)
    else if e.stage = 5 then s.collWrite k e
    else s

/-- The command `id` of a context's engine queue starts, or performs its next elementary step. -/
def State.engineStep (s : State) (k : Nat) (x : Ctx) (id : Nat) : State :=
  if !s.engines k then s
  else
    match (s.ctxOf k x).engq.find? fun e => e.id == id with
    | none => s
    | some e =>
      if !e.open then s
      else if e.stage = 0 then
        if (s.core k).mayStart e then s.updEng k id fun c => { c with stage := 1 } else s
      else s.cmdStep k e

end Sys2Proof.Machine
end

