-- ==== Sys2Proof/Machine/Rungs.lean ====
section
/-! DEFINITION. Ladder descriptors and rung arithmetic (R257 to R261, R272, R273), as functions of data alone. -/

namespace Sys2Proof.Machine

open Sys2Proof

/-! ### The descriptor (R257) -/

/-- A descriptor: 1,024 bytes. -/
abbrev Desc := BitVec 8192

/-- A descriptor from its bytes. -/
def descOf (bs : List Byte) : Desc := BitVec.ofNat 8192 (bytesToNat bs)

/-- VER. -/
abbrev descVer (d : Desc) : Nat := field d 0 64
/-- LIN. -/
abbrev descLin (d : Desc) : Nat := field d 64 64
/-- COUNT. -/
abbrev descCount (d : Desc) : Nat := field d 128 48
/-- GAMMA. -/
abbrev descGamma (d : Desc) : Nat := field d 224 32
/-- NORM. -/
abbrev descNorm (d : Desc) : Bool := bitOf d 209
/-- RFMT: true BF16. -/
abbrev descBf (d : Desc) : Bool := bitOf d 208
/-- DV. -/
abbrev descDv (d : Desc) : Nat := field d 200 8
/-- DK. -/
abbrev descDk (d : Desc) : Nat := field d 192 8
/-- NAME of entry `k`. -/
abbrev descName (d : Desc) (k : Nat) : Word := w64 (field d (2048 + 128 * k) 64)
/-- The second word of entry `k`. -/
abbrev descEntry (d : Desc) (k : Nat) : Nat := field d (2112 + 128 * k) 64

/-- The software fields that two descriptors of a fork must share: DK, DV, RFMT, NORM, GAMMA. -/
def descShape (d : Desc) : Nat := field d 192 64

/-- The accepted values of DK and DV (R258). -/
def dimOk (v : Nat) : Bool := [2, 4, 8, 16, 32, 48, 64, 80, 96, 112, 128].contains v

/-- The second word of a valid entry of level `k` in a ladder of `n` tokens (R258): START is `n` with bits `k` to 0
cleared. -/
def entryWord (n k : Nat) : Nat := 2 ^ 63 + k * 2 ^ 48 + n / 2 ^ (k + 1) * 2 ^ (k + 1)

/-- Bit `k` of a number. -/
def hasBit (n k : Nat) : Bool := n / 2 ^ k % 2 == 1

/-- The levels of the present rungs of a ladder of `n` tokens, ascending. -/
def levelsOf (n : Nat) : List Nat := (List.range 48).filter fun k => hasBit n k

/-- The descriptor fails R258. -/
def descBad (d : Desc) : Bool :=
  field d 176 16 != 0 || field d 210 14 != 0 || field d 256 1792 != 0 ||
    !dimOk (descDk d) || !dimOk (descDv d) || descGamma d / 2 ^ 23 % 256 == 255 || descVer d % 2 == 1 ||
    (List.range 48).any fun k =>
      if hasBit (descCount d) k then descEntry d k != entryWord (descCount d) k || descName d k == 0
      else descEntry d k != 0 || descName d k != 0

/-- The names of the present rungs, ascending. -/
def descNames (d : Desc) : List Word := (levelsOf (descCount d)).map (descName d)

/-- The words of entries 0 to 47 for a ladder of `n` tokens with given names. -/
def entryWords (n : Nat) (name : Nat → Word) : List Word :=
  (List.range 48).flatMap fun k => if hasBit n k then [name k, w64 (entryWord n k)] else [0, 0]

/-- The bytes of a descriptor with new LIN, COUNT and names, and VER raised by 2 (R266, R269). -/
def descNew (d : Desc) (lin n : Nat) (name : Nat → Word) : List Byte :=
  leBytes 8 (descVer d + 2) ++ leBytes 8 lin ++ leBytes 8 n ++ leBytes 232 (d.toNat / 2 ^ 192) ++
    (entryWords n name).flatMap fun w => leBytes 8 w.toNat

/-! ### Rungs (R259, R261) -/

/-- A rung: the matrix row by row, and the normaliser (empty without one), as codes of the rung format. -/
structure Rung where
  m : List Nat
  z : List Nat
  deriving DecidableEq, Repr

/-- The rung format. -/
def rungFmt (d : Desc) : FFmt := if descBf d then .bf16 else .fp32

/-- Bytes of an element. -/
def rungElem (d : Desc) : Nat := if descBf d then 2 else 4

/-- ZOFF (R259). -/
def rungZoff (d : Desc) : Nat := roundUp (descDk d * descDv d * rungElem d) 64

/-- Bytes of a rung. -/
def rungBytes (d : Desc) : Nat := rungZoff d + b2n (descNorm d) * descDk d * rungElem d

/-- Granules of a rung's berth (R259). -/
def rungGranules (d : Desc) : Nat := ceilDiv (rungBytes d) 4096

/-- Values of `e` bytes in a list of bytes. -/
def valuesOf (e : Nat) (bs : List Byte) (n : Nat) : List Nat :=
  (List.range n).map fun i => bytesToNat ((bs.drop (e * i)).take e)

/-- A rung from the bytes of its berth. -/
def rungOf (d : Desc) (bs : List Byte) : Rung :=
  ⟨valuesOf (rungElem d) bs (descDk d * descDv d),
    if descNorm d then valuesOf (rungElem d) (bs.drop (rungZoff d)) (descDk d) else []⟩

/-- The bytes of a rung. -/
def Rung.bytes (r : Rung) (d : Desc) : List Byte :=
  let m := r.m.flatMap fun v => leBytes (rungElem d) v
  if descNorm d then m ++ List.replicate (rungZoff d - m.length) 0 ++ r.z.flatMap (fun v => leBytes (rungElem d) v) else m

/-- Round to FP32 and then to the rung format (R261). -/
def rungRound (d : Desc) (v : FV) : Nat := (rungFmt d).rne (FFmt.fp32.dec (FFmt.fp32.rne v))

/-- The type of a ladder word's lanes. -/
def ladFmt (bf : Bool) : FFmt := if bf then .bf16 else .fp32

/-- Lane `i` of an element as a value. -/
def ladLane (bf : Bool) (e : Elem) (i : Nat) : FV := (ladFmt bf).dec (lane (ladFmt bf).width e i)

/-- Rung 0 of a token (R261). -/
def rung0 (d : Desc) (bf : Bool) (key val : Elem) : Rung :=
  ⟨(windowOf (descDk d) (descDv d)).map fun p => rungRound d ((ladLane bf key p.1).mul (ladLane bf val p.2)),
    if descNorm d then (List.range (descDk d)).map fun i => (rungFmt d).rne (ladLane bf key i) else []⟩

/-- The decay power of level `c` (R261), FP32 bits. -/
def decay (d : Desc) : Nat → Nat
  | 0 => descGamma d
  | c + 1 => FFmt.fp32.rne ((FFmt.fp32.dec (decay d c)).mul (FFmt.fp32.dec (decay d c)))

/-- One value of a merge: the older value decayed, the newer added, one rounding to FP32 and one to the format (R172,
R261). -/
def mergeValue (d : Desc) (dc o w : Nat) : Nat :=
  rungRound d (((FFmt.fp32.dec dc).mul ((rungFmt d).dec o)).add false ((rungFmt d).dec w))

/-- The merge of two rungs of level `c`, the older first (R261). -/
def mergeRungs (d : Desc) (c : Nat) (o w : Rung) : Rung :=
  let f := fun (p : Nat × Nat) => mergeValue d (decay d c) p.1 p.2
  ⟨(o.m.zip w.m).map f, (o.z.zip w.z).map f⟩

/-- Merge neighbours of level `c`, oldest first. -/
def mergePairs (d : Desc) (c : Nat) : List Rung → List Rung
  | a :: b :: r => mergeRungs d c a b :: mergePairs d c r
  | r => r

/-- The rung of level `j` over 2^j tokens' rungs. -/
def mergeTokens (d : Desc) (j : Nat) (rs : List Rung) : Rung :=
  ((List.range j).foldl (fun l c => mergePairs d c l) rs).headD ⟨[], []⟩

/-- The carry: merge with the present rungs from level `j` up, given in ascending level (R269). -/
def carry (d : Desc) (j : Nat) (w : Rung) (olds : List Rung) : Rung :=
  (olds.foldl (fun (p : Nat × Rung) o => (p.1 + 1, mergeRungs d p.1 o p.2)) (j, w)).2

/-- The levels that a carry from level `j` consumes: the run of one bits of the count. -/
def carryLevels (n j : Nat) : List Nat := ((List.range 48).filter fun k => decide (j ≤ k)).takeWhile fun k => hasBit n k

/-- The key and value elements of tokens, as they were popped. -/
def tokensOf (d : Desc) (bf : Bool) : List Elem → List Rung
  | k :: v :: r => rung0 d bf k v :: tokensOf d bf r
  | _ => []

/-! ### Reads (R271 to R274) -/

/-- The exact sum of products, each with the factor w, in one rounding to FP32, specials by R124 (R272). -/
def ladTerm (w : FV) (q : List FV) (col : List FV) : Nat :=
  let ps := (q.zip col).map fun p => (w.mul p.1).mul p.2
  match specialOf (.fin false 0 0) ps with
  | some v => FFmt.fp32.rne v
  | none =>
    match ps with
    | [] => 0
    | p :: r => FFmt.fp32.rne (r.foldl (FV.add false) p)

/-- Terms added in order, rounding at each step (R273, ORD); none gives +0. -/
def ordSum : List Nat → Nat
  | [] => 0
  | t :: r => r.foldl (fun a b => FFmt.fp32.rne ((FFmt.fp32.dec a).add false (FFmt.fp32.dec b))) t

/-- The exact accumulator of EXA (R273). -/
def exaAcc (ts : List Nat) : ExAcc := (⟨0, .finite, false, false⟩ : ExAcc).addAll (ts.map fun t => BitVec.ofNat 32 t)

/-- One rung that has been read: its level, t and u. -/
structure Term where
  level : Nat
  t     : List Nat
  u     : Nat
  deriving DecidableEq, Repr

/-- The terms of a rung (R272). -/
def termOf (d : Desc) (bf : Bool) (q w : Elem) (k : Nat) (r : Rung) : Term :=
  let wk := FFmt.fp32.dec (lane 32 w k)
  let qs := (List.range (descDk d)).map (ladLane bf q)
  let f := rungFmt d
  ⟨k, (List.range (descDv d)).map fun j =>
      ladTerm wk qs ((List.range (descDk d)).map fun i => f.dec (r.m.getD (i * descDv d + j) 0)),
    if descNorm d then ladTerm wk qs ((List.range (descDk d)).map fun i => f.dec (r.z.getD i 0)) else 0⟩

/-- The rung mask of a weight element (R271). -/
def maskOf (w : Elem) : Nat := lane 32 w 64 + lane 32 w 65 % 2 ^ 16 * 2 ^ 32

/-- The status element (R274). -/
def statusElem (read missed count den : Nat) (us : List (Nat × Nat)) : Elem :=
  let base := [read % 2 ^ 32, read / 2 ^ 32, missed % 2 ^ 32, missed / 2 ^ 32, b2n (missed != 0), count % 2 ^ 32,
    count / 2 ^ 32, den]
  ofLanes 32 ((List.range 128).map fun i =>
    if i < 8 then base.getD i 0 else (us.find? fun u => 64 + u.1 == i).elim 0 Prod.snd)

/-- The numerator or denominator of a form from its terms in descending level: ORD or EXA. -/
def combine (exact : Bool) (ts : List Nat) : Nat := if exact then (exaAcc ts).read else ordSum ts

/-- A column's terms saturate EXA's accumulator. -/
def saturates (exact : Bool) (ts : List Nat) : Bool := exact && (exaAcc ts).sat

/-- The elements that LREAD pushes (R273, R274): form 0 ORD, 1 EXA, 2 RUNGS; terms in descending level; the mark of the
first says whether an accumulator saturated. -/
def readElems (d : Desc) (form : Nat) (div : Bool) (w : Elem) (terms : List Term) (missed : Nat) : List (Elem × Bool) :=
  let read := (terms.map fun t => 2 ^ t.level).sum
  if form = 2 then
    (terms.map fun t => (ofLanes 32 t.t, false)) ++
      [(statusElem read missed (descCount d) 0 (terms.map fun t => (t.level, t.u)), false)]
  else
    let exact := form == 1
    let den := combine exact (terms.map (·.u))
    let cols := (List.range (descDv d)).map fun j => terms.map fun t => t.t.getD j 0
    let eps := FFmt.fp32.dec (lane 32 w 66)
    let dd := FFmt.fp32.dec (FFmt.fp32.rne ((FFmt.fp32.dec den).add false eps))
    let out := cols.map fun c =>
      if div then FFmt.fp32.rne ((FFmt.fp32.dec (combine exact c)).div dd) else combine exact c
    [(ofLanes 32 out, cols.any (saturates exact) || saturates exact (terms.map (·.u))),
      (statusElem read missed (descCount d) den [], false)]

/-- The element of LSTAT (R278). -/
def lstatElem (d : Desc) : Elem :=
  ofLanes 32 [descCount d % 2 ^ 32, descCount d / 2 ^ 32, descVer d % 2 ^ 32, descVer d / 2 ^ 32, descLin d % 2 ^ 32,
    descLin d / 2 ^ 32]

end Sys2Proof.Machine
end

