-- ==== Sys2Proof/Machine/Ladder.lean ====
section
/-! DEFINITION. Ladder binding (R254, R255), the ladder words and the ladder engine's commands (R257 to R280, R322). -/

namespace Sys2Proof.Machine

open Sys2Proof

/-! ### Binding (R254, R255) -/

/-- A ladder slot of the core. -/
def CoreSt.slot (c : CoreSt) (n : Nat) : Option Bound := Sparse.find c.slots n

/-- The slots that a ladder command names (R264). -/
def LadOp.slots (op : LadOp) (slot : Nat) : List Nat :=
  match op with
  | .lfork src => [slot, src]
  | .ltruncCkpt c => [slot, c]
  | _ => [slot]

/-- A ladder command that has not completed names a slot. -/
def CoreSt.ladderOn (c : CoreSt) (n : Nat) : Bool := c.ladq.any fun m => (m.op.slots m.slot).contains n

/-- The physical address of a descriptor: both of its ends lie in HBM pages, replicated ones among them (R254, R390). -/
def State.descPlace (s : State) (va : Nat) : Xl :=
  match s.translate s.k (s.me.acc false) va, s.translate s.k (s.me.acc false) (va + 1023) with
  | .bad c m, _ => .bad c m
  | _, .bad c m => .bad c m
  | .wait, _ => .wait
  | _, .wait => .wait
  | .ok l, .ok m => if (l.space = 0 ∨ l.space = 5) ∧ (m.space = 0 ∨ m.space = 5) then .ok l else .bad .prot false

/-- A bind in a mode meets the bindings that stand (R254). -/
def State.bindBusy (s : State) (pa : Nat) (shr : Bool) : Bool :=
  s.binds.any fun b => b.desc == pa && (!b.shr || !shr)

/-- LBIND's checks (R254): an address that does not translate lies in no HBM page of the partition. -/
def State.lbindTrap (s : State) (slot : Nat) (va : Word) (shr : Bool) : Option Trap :=
  if va.toNat % 64 ≠ 0 then some { cause := .align, addr := va }
  else if !isVirtual va.toNat then some { cause := .prot, addr := va }
  else
    match s.descPlace va.toNat with
    | .bad _ _ => some { cause := .prot, addr := va }
    | .wait => none
    | .ok l =>
      if (s.cur.slot slot).isSome then some { cause := .illop }
      else if s.bindBusy l.addr shr then some { cause := .lbusy, addr := va, info := w64 slot }
      else none

/-- LBIND (R254). -/
def execLbind (c : Ctl) (slot : BitVec 6) (xa : Reg) (shr : Bool) (s : State) : Host.Outcome State Fault Refusal :=
  s.issue (.lbind c slot xa shr)
    { allowed := .onlyL
      uses := [xa]
      check := fun s => s.lbindTrap slot.toNat (s.reg xa) shr
      wait := fun s => .need (s.descPlace (s.reg xa).toNat != .wait)
      effect := fun _ s =>
        match s.descPlace (s.reg xa).toNat with
        | .ok l =>
          let va := (s.reg xa).toNat
          ({ s with binds := s.binds ++ [⟨l.addr, s.k, slot.toNat, shr, s.cur.task⟩] } : State).updCur fun k =>
            { k with slots := Sparse.put k.slots slot.toNat ⟨va, shr⟩ }
        | _ => s }

/-- LUNBIND (R255): it waits for every command on the slot that has passed its issue checks. -/
def execLunbind (c : Ctl) (slot : BitVec 6) (s : State) : Host.Outcome State Fault Refusal :=
  s.issue (.lunbind c slot)
    { allowed := .onlyL
      check := fun s => if (s.cur.slot slot.toNat).isNone then some { cause := .illop } else none
      wait := fun s => .need (!s.cur.ladderOn slot.toNat)
      effect := fun _ s =>
        let k := s.k
        ({ s with binds := s.binds.filter fun (b : Bind) => !(b.core == k && b.slot == slot.toNat) } : State).updCur fun c =>
          { c with slots := Sparse.erase c.slots slot.toNat } }

/-! ### Issue (R263) -/

/-- Steps 1 to 3 of R263. -/
def CoreSt.ladTrap (c : CoreSt) (op : LadOp) (slot : Nat) : Option Trap :=
  let writes := match op with | .lread _ _ _ _ | .lstat _ => false | _ => true
  if (op.slots slot).any fun n => (c.slot n).isNone then some { cause := .illop }
  else if (match op with | .lfork src => src == slot | _ => false) then some { cause := .illop }
  else if writes && (match c.slot slot with | some b => b.shr | none => false) then
    some { cause := .lbusy, info := w64 slot }
  else none

/-- A source queue that LAPPB accepts (R263 step 4). -/
def CoreSt.batchSource (c : CoreSt) (q : QName) : Bool :=
  q == vz || ((c.queue q.toNat).kind == 1 || decide (16 ≤ (c.queue q.toNat).kind))

/-- The source queues of LAPPB. -/
def LadOp.batchTrap (op : LadOp) (c : CoreSt) : Option Trap :=
  match op with
  | .lappb qa qb j _ =>
    if 12 < j || !c.batchSource qa || !c.batchSource qb then some { cause := .illop } else none
  | _ => none

/-- LAPPB reads queues from which an earlier one still pops (R270). -/
def LadOp.batchWait (op : LadOp) (c : CoreSt) : Bool :=
  match op with
  | .lappb qa qb _ _ => c.popping qa.toNat || c.popping qb.toNat
  | _ => false

/-- The ladder slots are suppressed (R315, R322). -/
def CoreSt.suppressed (c : CoreSt) (op : LadOp) (slot : Nat) : Bool := (op.slots slot).any fun n => bitOf c.lsup n

/-- A command as X issues it. -/
def State.ladCmd (s : State) (wid : Nat) (op : LadOp) (slot : Nat) (els : List Elem) : LadCmd :=
  { id := wid, wid := wid, pos := s.me.pc, word := s.wordAtPc, op := op, slot := slot
    masked := s.cur.suppressed op slot, els := els, outs := [], stage := 0, asked := false, leave := false
    old := [], new := [], rung := [], name := 0, rel := [], held := [], halt := none, fail := none }

/-- A ladder word: its sources are popped at issue (R263), then the command enters the queue (R101). -/
def ladIssue (op : State → LadOp) (slot : Nat) (vs : List VSrc) (uses : List Reg) : Issue :=
  { allowed := .onlyX
    hold := true
    uses := uses
    pre := fun s => s.srcOvf vs
    check := fun s => ((s.cur.ladTrap (op s) slot).or ((op s).batchTrap s.cur)).or (s.srcTrap vs)
    wait := fun s =>
      (s.srcWait vs).and (.need (decide (s.cur.ladq.length < 16) && !(op s).batchWait s.cur))
    late := fun s => s.srcLost vs
    effect := fun wid s =>
      let m := s.ladCmd wid (op s) slot ((s.srcElems vs).map fun l => l.headD 0)
      (s.popSrcs vs).updCur fun c => { c with ladq := c.ladq ++ [m] } }

/-- The two source queues of LAPP and LREAD. -/
def ladSrcs (qa qb : QName) : List VSrc := [{ q := qa }, { q := qb }]

/-- LAPP (R269). -/
def execLapp (c : Ctl) (slot : BitVec 6) (qa qb : QName) (bf : Bool) (s : State) : Host.Outcome State Fault Refusal :=
  s.issue (.lapp c slot qa qb bf) (ladIssue (fun _ => .lapp bf) slot.toNat (ladSrcs qa qb) [])

/-- LAPPB (R270): the engine pops its queues as it runs. -/
def execLappb (c : Ctl) (slot : BitVec 6) (qa qb : QName) (j : BitVec 4) (bf : Bool) (s : State) :
    Host.Outcome State Fault Refusal :=
  s.issue (.lappb c slot qa qb j bf) (ladIssue (fun _ => .lappb qa qb j.toNat bf) slot.toNat [] [])

/-- LREAD.ORD (R271 to R274). -/
def execLreadOrd (c : Ctl) (slot : BitVec 6) (qa qb qc : QName) (bf div : Bool) (s : State) :
    Host.Outcome State Fault Refusal :=
  s.issue (.lreadOrd c slot qa qb qc bf div) (ladIssue (fun _ => .lread 0 qc bf div) slot.toNat (ladSrcs qa qb) [])

/-- LREAD.EXA (R271 to R274). -/
def execLreadExa (c : Ctl) (slot : BitVec 6) (qa qb qc : QName) (bf div : Bool) (s : State) :
    Host.Outcome State Fault Refusal :=
  s.issue (.lreadExa c slot qa qb qc bf div) (ladIssue (fun _ => .lread 1 qc bf div) slot.toNat (ladSrcs qa qb) [])

/-- LREAD.RUNGS (R271 to R274). -/
def execLreadRungs (c : Ctl) (slot : BitVec 6) (qa qb qc : QName) (bf : Bool) (s : State) :
    Host.Outcome State Fault Refusal :=
  s.issue (.lreadRungs c slot qa qb qc bf) (ladIssue (fun _ => .lread 2 qc bf false) slot.toNat (ladSrcs qa qb) [])

/-- LFORK (R275). -/
def execLfork (c : Ctl) (slotD slotS : BitVec 6) (s : State) : Host.Outcome State Fault Refusal :=
  s.issue (.lfork c slotD slotS) (ladIssue (fun _ => .lfork slotS.toNat) slotD.toNat [] [])

/-- LTRUNC.LOW (R276). -/
def execLtruncLow (c : Ctl) (slot : BitVec 6) (xm : Reg) (s : State) : Host.Outcome State Fault Refusal :=
  s.issue (.ltruncLow c slot xm) (ladIssue (fun s => .ltruncLow (s.reg xm)) slot.toNat [] [xm])

/-- LTRUNC.CKPT (R276). -/
def execLtruncCkpt (c : Ctl) (slot slotC : BitVec 6) (s : State) : Host.Outcome State Fault Refusal :=
  s.issue (.ltruncCkpt c slot slotC) (ladIssue (fun _ => .ltruncCkpt slotC.toNat) slot.toNat [] [])

/-- LDROP (R277). -/
def execLdrop (c : Ctl) (slot : BitVec 6) (s : State) : Host.Outcome State Fault Refusal :=
  s.issue (.ldrop c slot) (ladIssue (fun _ => .ldrop) slot.toNat [] [])

/-- LSTAT (R278). -/
def execLstat (c : Ctl) (slot : BitVec 6) (qc : QName) (s : State) : Host.Outcome State Fault Refusal :=
  s.issue (.lstat c slot qc) (ladIssue (fun _ => .lstat qc) slot.toNat [] [])

/-! ### What a command finds -/

/-- The outcome of a part of a command's work: a value; a wait; a page that needs service or a fault found in translation; a
failure. `notes` are the reads that it has made, which a failure rests on too (R280). -/
inductive Lk (α : Type) where
  | ok (a : α) (notes : List ReadEnt)
  | wait
  | bad (va : Nat) (cause : Cause) (malf : Bool) (notes : List ReadEnt)
  | fail (t : Trap) (notes : List ReadEnt)

/-- What comes after some reads. -/
def Lk.after {α : Type} (n : List ReadEnt) : Lk α → Lk α
  | .ok b m => .ok b (n ++ m)
  | .wait => .wait
  | .bad va c malf m => .bad va c malf (n ++ m)
  | .fail t m => .fail t (n ++ m)

/-- One part after another. -/
def Lk.andThen {α β : Type} (x : Lk α) (f : α → Lk β) : Lk β :=
  match x with
  | .ok a n => (f a).after n
  | .wait => .wait
  | .bad va c m n => .bad va c m n
  | .fail t n => .fail t n

/-- A value, or a failure when a condition holds. -/
def failIf {α : Type} (b : Bool) (t : Trap) (x : Lk α) : Lk α := if b then .fail t [] else x

/-- A read as part of a command (R265); ADDR of an ECCU is the lost piece (R403). -/
def Rd.part : Rd → Lk (List Byte)
  | .ok bs n => .ok bs n
  | .wait => .wait
  | .bad a c m => .bad a c m []
  | .lost va i => .fail { cause := .eccu, addr := w64 va, info := w64 i } []

/-- The rights of the ladder engine's accesses, those of X (R259). -/
def State.ladAcc (s : State) (k : Nat) (write : Bool) : Acc := (s.ctxOf k .X).acc write

/-- The address of the descriptor bound to a slot. -/
def CoreSt.descVa (c : CoreSt) (slot : Nat) : Nat :=
  match c.slot slot with
  | some b => b.desc
  | none => 0

/-- Read a descriptor and check it (R258). -/
def State.readDesc (s : State) (k slot : Nat) : Lk Desc :=
  let va := (s.core k).descVa slot
  (s.readVirt k (s.ladAcc k false) va 1024).part.andThen fun bs =>
    failIf (descBad (descOf bs)) { cause := .illop } (.ok (descOf bs) [])

/-- The check of a rung's name: a name that fails R248 is STALEB (R265). -/
def State.rungCheck (s : State) (k : Nat) (w : Word) : Lk Berth :=
  match s.checkBerth (s.partOf k) w with
  | .ok b => .ok b []
  | .error _ => .fail { cause := .staleb, addr := w } []

/-- The checks of a list of names. -/
def State.rungChecks (s : State) (k : Nat) (ws : List Word) : Lk Unit :=
  ws.foldl (fun r w => r.andThen fun _ => (s.rungCheck k w).andThen fun _ => .ok () []) (.ok () [])

/-- The address of a run in the berth window (R252). -/
def State.berthVa (s : State) (k : Nat) (b : Berth) : Nat :=
  ((s.part (s.partOf k)).reg 8).toNat + (b.stack * 2 ^ 24 + b.gran) * 4096

/-- The partition has a berth window (R387). -/
def State.hasWindow (s : State) (k : Nat) : Bool := (s.part (s.partOf k)).reg 8 != 0

/-- Read the rung that a name names (R259, R280). -/
def State.readRung (s : State) (k : Nat) (d : Desc) (w : Word) : Lk Rung :=
  (s.rungCheck k w).andThen fun b =>
    failIf (!s.hasWindow k) { cause := .prot, addr := w }
      ((s.readVirt k (s.ladAcc k false) (s.berthVa k b) (rungBytes d)).part.andThen fun bs =>
        .ok (rungOf d bs) [])

/-- A page of a rung's berth lies in host memory or in the second tier, whether or not a host port is up (R271, R361). A page that
moves is not resident. -/
def State.rungMisses (s : State) (k : Nat) (d : Desc) (b : Berth) : Bool :=
  (pagesOf (s.berthVa k b) (rungGranules d * 4096)).any fun p =>
    match s.resolve k (s.partOf k) (s.ladAcc k false) p with
    | .ok l => l.space == 1 || l.space == 2
    | .wait => true
    | .bad _ _ => false

/-- The rungs of a list of levels, oldest levels as they come. -/
def State.readRungs (s : State) (k : Nat) (d : Desc) (ls : List Nat) : Lk (List Rung) :=
  ls.foldl (fun r l => r.andThen fun rs => (s.readRung k d (descName d l)).andThen fun w => .ok (rs ++ [w]) []) (.ok [] [])

/-- What a command will do: bytes of a new rung, the descriptor after the swap for the name of that rung (empty: no swap),
names to share and to relinquish, results to push, and merges. -/
structure LadPlan where
  rung   : Option Rung
  desc   : Desc
  new    : Word → List Byte
  share  : List Word
  rel    : List Word
  outs   : List (Elem × Bool)
  merges : Nat

/-- A plan that changes nothing. -/
def noPlan (d : Desc) : LadPlan := ⟨none, d, fun _ => [], [], [], [], 0⟩

/-- The next lineage of the partition (R260). -/
def State.freshLin (s : State) (k : Nat) : Nat := 2 ^ 63 + (s.part (s.partOf k)).lineage

/-- LAPP and LAPPB from the rungs of their 2^j tokens (R269, R270). -/
def State.appendPlan (s : State) (k : Nat) (d : Desc) (j : Nat) (bf : Bool) (els : List Elem) : Lk LadPlan :=
  let n := descCount d
  failIf (n % 2 ^ j != 0) { cause := .illop } <| failIf (decide (2 ^ 48 - 1 < n + 2 ^ j)) { cause := .lcap } <|
    let ls := carryLevels n j
    (s.readRungs k d ls).andThen fun olds =>
      let w := carry d j (mergeTokens d j (tokensOf d bf els)) olds
      let lin := if n = 0 then s.freshLin k else descLin d
      let c := j + ls.length
      .ok ⟨some w, d, fun nm => descNew d lin (n + 2 ^ j) (fun l => if l = c then nm else descName d l), [],
        ls.map (descName d), [], ls.length + (2 ^ j - 1)⟩ []

/-- One rung of LREAD: its term, or a miss (R271). -/
def State.readTerm (s : State) (k : Nat) (d : Desc) (bf : Bool) (q w : Elem) (l : Nat) : Lk (Option Term) :=
  (s.rungCheck k (descName d l)).andThen fun b =>
    if s.hasWindow k && s.rungMisses k d b then .ok none []
    else (s.readRung k d (descName d l)).andThen fun r => .ok (some (termOf d bf q w l r)) []

/-- LREAD (R271 to R274). -/
def State.readPlan (s : State) (k : Nat) (d : Desc) (form : Nat) (bf div : Bool) (q w : Elem) : Lk LadPlan :=
  failIf (div && !descNorm d) { cause := .illop } <|
    let ls := ((levelsOf (descCount d)).filter fun l => hasBit (maskOf w) l).reverse
    let step := fun (r : Lk (List Term × Nat)) (l : Nat) => r.andThen fun p =>
      (s.readTerm k d bf q w l).andThen fun t =>
        match t with
        | some t => .ok (p.1 ++ [t], p.2) []
        | none => .ok (p.1, p.2 + 2 ^ l) []
    (ls.foldl step (.ok ([], 0) [])).andThen fun p =>
      .ok { noPlan d with outs := readElems d form div w p.1 p.2 } []

/-- A swap that gives a descriptor another's count and entries (R275, R276). -/
def State.copyPlan (s : State) (k : Nat) (d e : Desc) (lin : Nat) (rel : List Word) : Lk LadPlan :=
  (s.rungChecks k (descNames e ++ rel)).andThen fun _ =>
    .ok { noPlan d with new := fun _ => descNew d lin (descCount e) (descName e), share := descNames e, rel := rel } []

/-- LTRUNC.LOW's count is exact (R276). -/
def truncExact (n : Nat) (m : Word) : Bool :=
  (List.range 49).any fun j => m.toNat == n / 2 ^ j * 2 ^ j

/-- An output queue that is not of kind 2 and not `vnull` (R265). -/
def CoreSt.outBad (c : CoreSt) (op : LadOp) : Bool :=
  match op.out with
  | some q => q != vnull && (c.queue q.toNat).kind != 2
  | none => false

/-- The plan of a command. -/
def State.ladPlan (s : State) (k : Nat) (m : LadCmd) : Lk LadPlan :=
  (s.readDesc k m.slot).andThen fun d =>
    failIf ((s.core k).outBad m.op) { cause := .illop } <|
    match m.op with
    | .lapp bf => s.appendPlan k d 0 bf m.els
    | .lappb _ _ j bf => s.appendPlan k d j bf m.els
    | .lread form _ bf div => s.readPlan k d form bf div (m.els.getD 0 0) (m.els.getD 1 0)
    | .lfork src =>
      (s.readDesc k src).andThen fun e =>
        failIf (descShape d != descShape e || descCount d != 0) { cause := .illop } (s.copyPlan k d e (descLin e) [])
    | .ltruncLow n =>
      failIf (!truncExact (descCount d) n) { cause := .truncx } <|
        if n.toNat = descCount d then .ok (noPlan d) []
        else
          let rel := ((levelsOf (descCount d)).filter fun l => !hasBit n.toNat l).map (descName d)
          (s.rungChecks k rel).andThen fun _ =>
            .ok { noPlan d with new := fun _ => descNew d (s.freshLin k) n.toNat (descName d), rel := rel } []
    | .ltruncCkpt c =>
      (s.readDesc k c).andThen fun e =>
        failIf (descShape d != descShape e) { cause := .illop } <|
        failIf (descLin d != descLin e || decide (descCount d < descCount e)) { cause := .truncx } <|
          if descCount e = descCount d then .ok (noPlan d) [] else s.copyPlan k d e (s.freshLin k) (descNames d)
    | .ldrop =>
      (s.rungChecks k (descNames d)).andThen fun _ =>
        .ok { noPlan d with new := fun _ => descNew d (s.freshLin k) 0 (fun _ => 0), rel := descNames d } []
    | .lstat _ => .ok { noPlan d with outs := [(lstatElem d, false)] } []

/-! ### The steps of a command -/

/-- Change a ladder command. -/
def CoreSt.updLad (c : CoreSt) (id : Nat) (f : LadCmd → LadCmd) : CoreSt :=
  { c with ladq := updFirst (fun m => m.id == id) f c.ladq }

/-- Change a ladder command of core `k`. -/
def State.updLad (s : State) (k id : Nat) (f : LadCmd → LadCmd) : State := s.updCore k fun c => c.updLad id f

/-- A command fails with a cause. -/
def State.failLad (s : State) (k id : Nat) (t : Trap) : State := s.updLad k id fun m => { m with fail := some t }

/-- What was found in translation: XLATE waits for service (R259, R391), every other cause is a failure. -/
def State.badLad (s : State) (k id va : Nat) (c : Cause) (malf : Bool) : State :=
  if c = .xlate then s.updLad k id fun m => { m with halt := some ⟨id, va, malf, none⟩ }
  else s.failLad k id { cause := c, addr := w64 va, malf := malf }

/-- Earlier commands of the queue. -/
def CoreSt.earlierLad (c : CoreSt) (id : Nat) : List LadCmd := c.ladq.takeWhile fun m => m.id != id

/-- The command is first among those that name one of its slots (R264). -/
def CoreSt.ladFirst (c : CoreSt) (m : LadCmd) : Bool :=
  (c.earlierLad m.id).all fun e => (e.op.slots e.slot).all fun n => !(m.op.slots m.slot).contains n

/-- Pop the next element of a LAPPB: key and value queues in turn (R270). A suppressed one uses no bits of it, and does not fail
(R322). -/
def State.ladPop (s : State) (k : Nat) (m : LadCmd) (q : QName) : State :=
  if q = vz then s.updLad k m.id fun m => { m with els := m.els ++ [0] }
  else
    let v := (s.core k).queue q.toNat
    match v.visible with
    | [] => s
    | e :: _ =>
      let s := s.updCore k fun c => c.setQueue q.toNat { v with els := v.els.drop 1 }
      if e.bad && !m.masked then s.failLad k m.id { cause := .eccu, info := 4 }
      else s.updLad k m.id fun m => { m with els := m.els ++ [e.e] }

/-- The results of a masked command: zeros, as many as with no rung read (R322). -/
def maskedOuts : LadOp → List (Elem × Bool)
  | .lread form _ _ _ => List.replicate (if form = 2 then 1 else 2) (0, false)
  | .lstat _ => [(0, false)]
  | _ => []

/-- The bytes of a new rung. Those between the elements and the normaliser, which no rule gives, are free; bytes of the berth after
the last element are not written, and stay as they were (R259; assumption 31). DESIGN CHOICE -/
def State.gapBytes (s : State) (d : Desc) (r : Rung) : List Byte :=
  let n := descDk d * descDv d * rungElem d
  if descNorm d then
    (r.bytes d).take n ++ ((List.range (rungZoff d - n)).map fun i => BitVec.ofNat 8 (s.freeVal (100 + i))) ++
      (r.bytes d).drop (rungZoff d)
  else r.bytes d

/-- Increment the share counts of names one after another; `none` when a count stands at 65,535 (R265, R275). -/
def State.shareAll (s : State) : List Word → Option State
  | [] => some s
  | w :: r =>
    match berthOf w with
    | none => none
    | some b =>
      if (List.range b.count).any fun i => decide (65535 ≤ (s.gran b.stack (s.granule b i)).share) then none
      else (s.shareName w).shareAll r

/-- Share increments of a speculative task are undone at its abort (R280). -/
def State.ownShares (s : State) (k : Nat) (ws : List Word) : State :=
  s.updTask (s.core k).task fun t => if t.prov then { t with shares := t.shares ++ ws } else t

/-- A lineage that the plan took is never handed out again (R260). -/
def State.useLin (s : State) (k : Nat) : State := s.updPart (s.partOf k) fun p => { p with lineage := p.lineage + 1 }

/-- Carry a plan out up to its first write: allocate, share, and record what is to be written. -/
def State.ladBegin (s : State) (k : Nat) (m : LadCmd) (p : LadPlan) (old : List Byte) : State :=
  let bpool : Trap := { cause := .bpool }
  match s.shareAll p.share with
  | none => s.failLad k m.id bpool
  | some s =>
    let s := (s.ownShares k p.share).useLin k
    match p.rung with
    | none =>
      s.updLad k m.id fun m =>
        { m with old := old, new := p.new 0, rel := p.rel, outs := p.outs, stage := if (p.new 0).isEmpty then 7 else 4 }
    | some r =>
      let n := rungGranules p.desc
      let pn := s.partOf k
      if !s.hasWindow k then s.failLad k m.id { cause := .prot }
      else
        match s.pickRun pn n with
        | none => s.failLad k m.id bpool
        | some (st, g) =>
          let a := s.takeRun pn st g n
          (a.1.ownBerth k a.2).updLad k m.id fun m =>
            { m with old := old, new := p.new a.2, rel := p.rel, name := a.2, rung := s.gapBytes p.desc r, stage := 3 }

/-- A command asks for leave before its first merge (R267). -/
def needsLeave (p : LadPlan) : Bool := decide (4096 ≤ descDk p.desc * descDv p.desc) && decide (0 < p.merges)

/-- The places of the pages that a range of 1,024 bytes meets: page number, and where the page lies. -/
def heldPages (ls : List (Nat × Nat × Loc)) : List (Nat × Loc) :=
  (ls.map fun e => (e.1 / 2 ^ 16, (⟨e.2.2.space, e.2.2.addr - e.1 % 2 ^ 16⟩ : Loc))).eraseDups

/-- The command reads, checks and plans, in one step (R264, R266; assumption 13). A command that swaps translates its descriptor's
pages here, once, and holds them until the swap is over, so that no fault can fall inside the swap (R265). The reads of one that
fails are in the task's read set too (R280). -/
def State.ladRun (s : State) (k : Nat) (m : LadCmd) : State :=
  match s.ladPlan k m with
  | .wait => s
  | .bad va c malf notes => (s.note k notes).badLad k m.id va c malf
  | .fail t notes => (s.note k notes).failLad k m.id t
  | .ok p notes =>
    let va := (s.core k).descVa m.slot
    if needsLeave p && !m.leave then
      if m.asked then s
      else
        let a := s.askLeave k .ladder m.id
        a.1.updLad k m.id fun m => { m with asked := true, leave := a.2 }
    else
      let old := match s.readVirt k (s.ladAcc k false) va 1024 with | .ok bs _ => bs | _ => []
      if (p.new 0).isEmpty then (s.note k notes).ladBegin k m p old
      else
        match s.places k (s.partOf k) (s.ladAcc k true) va 1024 with
        | .error (.bad c malf) => (s.note k notes).badLad k m.id (s.badVa k (s.partOf k) (s.ladAcc k true) va 1024) c malf
        | .error _ => s
        | .ok ls => ((s.note k notes).ladBegin k m p old).updLad k m.id fun m => { m with held := heldPages ls }

/-- Write bytes and go on. -/
def State.ladWrite (s : State) (k : Nat) (m : LadCmd) (va : Nat) (bs : List Byte) (f : LadCmd → LadCmd) : State :=
  match s.engineWrite k .X m.wid (s.ladAcc k true) va bs with
  | .ok s => s.updLad k m.id f
  | .wait => s
  | .bad va c malf => s.badLad k m.id va c malf

/-- The places of a write of the swap, on the pages that the command holds. -/
def LadCmd.places (m : LadCmd) (va n : Nat) : List (Nat × Nat × Loc) :=
  (pieces va n).filterMap fun e =>
    (m.held.find? fun t => t.1 == e.1 / 2 ^ 16).map fun t => (e.1, e.2, ⟨t.2.space, t.2.addr + e.1 % 2 ^ 16⟩)

/-- Write bytes of the descriptor in the swap and go on. -/
def State.swapWrite (s : State) (k : Nat) (m : LadCmd) (va : Nat) (bs : List Byte) (f : LadCmd → LadCmd) : State :=
  match s.engineWriteAt k .X m.wid va bs (m.places va bs.length) with
  | .ok s => s.updLad k m.id f
  | _ => s

/-- The first run of bytes from offset `o` in which two descriptors differ, with its place. -/
def firstDiff (old new : List Byte) (o : Nat) : Option (Nat × List Byte) :=
  let ps := ((old.zip new).zip (List.range old.length)).drop o
  let rest := ps.dropWhile fun p => p.1.1 == p.1.2
  match rest with
  | [] => none
  | p :: _ => some (p.2, (rest.takeWhile fun p => p.1.1 != p.1.2).map fun p => p.1.2)

/-- After the swap, the names are relinquished (R264, R280). -/
def State.relAll (s : State) (k : Nat) (ws : List Word) : State :=
  match s.taskOf k with
  | some t =>
    if t.prov then s.setTask { t with rlqs := t.rlqs ++ ws.map fun w => (3 * k + 1, w) }
    else ws.foldl (fun s w => s.relinquish w) s
  | none => ws.foldl (fun s w => s.relinquish w) s

/-- The swap (R266): VER + 1, then the changed fields, then VER + 2, each performed before the next. `stage` counts them;
the length of `old` that is behind stands in `rung` while stage 5 lasts. -/
def State.ladSwap (s : State) (k : Nat) (m : LadCmd) : State :=
  let va := (s.core k).descVa m.slot
  let ver := bytesToNat (m.old.take 8)
  if !s.writesDone k m.wid then s
  else if m.stage = 4 then s.swapWrite k m va (leBytes 8 (ver + 1)) fun m => { m with stage := 5, rung := [] }
  else if m.stage = 5 then
    match firstDiff m.old m.new (8 + m.rung.length) with
    | some (o, bs) =>
      s.swapWrite k m (va + o) bs fun m => { m with rung := List.replicate (o + bs.length - 8) 0 }
    | none => s.updLad k m.id fun m => { m with stage := 6 }
  else s.swapWrite k m va (leBytes 8 (ver + 2)) fun m => { m with stage := 7, name := 0, held := [] }

/-- A command's results have all been pushed, or it has none (R264). -/
def LadCmd.pushed (m : LadCmd) : Bool := decide (7 < m.stage) || m.fail.isSome

/-- Push the next result (R264, R273). A full queue stalls the command, and with it those that R264 orders behind it; other commands
go on (assumption 94). DESIGN CHOICE -/
def State.ladPush (s : State) (k : Nat) (m : LadCmd) : State :=
  match m.outs, m.op.out with
  | (e, sat) :: rest, some q =>
    if ((s.core k).earlierLad m.id).any fun x => x.op.out == some q && !x.pushed then s
    else if q = vnull then s.updLad k m.id fun m => { m with outs := rest }
    else
      let v := (s.core k).queue q.toNat
      if v.depth ≤ v.els.length then s
      else
        let el : QEl := ⟨e, m.wid * 64 + rest.length % 64, true, false, if sat then some ⟨m.pos, m.word, w64 (s.now - (s.core k).cycle)⟩ else none⟩
        let s := if sat then s.updCtx k .X fun c => { c with sflags := c.sflags ||| 1 } else s
        let el := if (s.core k).extrap then el else { el with ovf := none }
        (s.updCore k fun c => c.setQueue q.toNat { v with els := v.els ++ [el] }).updLad k m.id fun m => { m with outs := rest }
  | _, _ => s.updLad k m.id fun m => { m with outs := [], stage := 8 }

/-- A suppressed command pushes its zeros and completes without an error flag; into a queue of the wrong kind it pushes nothing
(R61, R322). -/
def State.ladMasked (s : State) (k : Nat) (m : LadCmd) : State :=
  s.updLad k m.id fun x => { x with outs := if (s.core k).outBad m.op then [] else maskedOuts m.op, stage := 7 }

/-- A command starts: LAPPB checks its descriptor before it pops (R265, R270). -/
def State.ladStart (s : State) (k : Nat) (m : LadCmd) : State :=
  match m.op with
  | .lappb _ _ j _ =>
    if m.masked then s.updLad k m.id fun m => { m with stage := 1 }
    else
      match s.readDesc k m.slot with
      | .ok d notes =>
        let s := s.note k notes
        if descCount d % 2 ^ j ≠ 0 then s.failLad k m.id { cause := .illop }
        else if 2 ^ 48 - 1 < descCount d + 2 ^ j then s.failLad k m.id { cause := .lcap }
        else s.updLad k m.id fun m => { m with stage := 1 }
      | .wait => s
      | .bad va c malf notes => (s.note k notes).badLad k m.id va c malf
      | .fail t notes => (s.note k notes).failLad k m.id t
  | _ => s.updLad k m.id fun m => { m with stage := 2 }

/-- One elementary step of a ladder command. Stages: 0 waits for its slots, 1 pops, 2 plans, 3 stores its rung, 4 to 6
swap, 7 pushes, 8 is done. -/
def State.ladStep (s : State) (k : Nat) (m : LadCmd) : State :=
  match m.stage with
  | 0 => if (s.core k).ladFirst m then s.ladStart k m else s
  | 1 =>
    match m.op with
    | .lappb qa qb j _ =>
      if 2 * 2 ^ j ≤ m.els.length then s.updLad k m.id fun m => { m with stage := 2 }
      else s.ladPop k m (if m.els.length % 2 = 0 then qa else qb)
    | _ => s.updLad k m.id fun m => { m with stage := 2 }
  | 2 => if m.masked then s.ladMasked k m else s.ladRun k m
  | 3 =>
    match berthOf m.name with
    | some b => s.ladWrite k m (s.berthVa k b) m.rung fun m => { m with stage := 4 }
    | none => s
  | 7 =>
    if !s.writesDone k m.wid then s
    else ((s.relAll k m.rel).updLad k m.id fun m => { m with rel := [] }).ladPush k m
  | 8 => s
  | _ => s.ladSwap k m

/-- The ladder engine's next elementary step of a command. -/
def State.ladderStep (s : State) (k id : Nat) : State :=
  if !s.engines k then s
  else
    match (s.core k).ladq.find? fun m => m.id == id with
    | some m => if m.halt.isSome || m.fail.isSome then s else s.ladStep k m
    | none => s

/-- A failed command has no effect on share counts, and its berth is freed (R265). -/
def State.ladUndo (s : State) (k : Nat) (m : LadCmd) : State :=
  let shared := match m.op with
    | .lfork _ | .ltruncCkpt _ => if m.new.isEmpty then [] else descNames (descOf m.new)
    | _ => []
  let s := shared.foldl (fun s w => s.relinquish w) s
  let s := if m.name = 0 then s else s.freeName m.name
  s.updTask (s.core k).task fun t =>
    { t with berths := t.berths.filter (· != m.name), shares := shared.foldl (fun l w => l.erase w) t.shares }

/-- LADDER_CMD_COMPLETE (R264, R265): the command's STK counts. A command of STK 0 that fails attaches its cause. -/
def execLadderCmdComplete (k id : Nat) (s : State) : Host.Outcome State Fault Refusal :=
  if 384 ≤ k then .fault .noSuchCore
  else if !s.engines k then .next s
  else
    match (s.core k).ladq.find? fun m => m.id == id with
    | none => .next s
    | some m =>
      let drop := fun (s : State) => s.updCore k fun c => { c with ladq := delFirst (fun m => m.id == id) c.ladq }
      match m.fail with
      | none => if m.stage = 8 then .next ((drop s).unhold k .X m.wid) else .next s
      | some t =>
        if !s.mayFail k .X then .next s else
        let stk := (((s.ctxOf k .X).sigs.find? fun g => g.wid == m.wid && g.stk != 0).map (·.stk)).getD 0
        let s := (drop (s.ladUndo k m)).updCtx k .X fun c => { c with sigs := c.sigs.filter fun g => g.wid != m.wid || g.stk == 0 }
        .next ((s.reportFail k .X t stk m.pos m.word).unhold k .X m.wid)

end Sys2Proof.Machine
end

