-- ==== Sys2Proof/Machine/Samp.lean ====
section
/-! DEFINITION. The generation words' arithmetic as functions of data alone: pair elements and shortlists (R325, R326),
draws (R327, R328), and the token bytes and stop strings of TOKOUT (R334, R335). -/

namespace Sys2Proof.Machine

open Sys2Proof

/-! ### Pair elements (R325) -/

/-- An entry: a logit's FP32 bits and a token. -/
abbrev Pair := Nat × Nat

/-- FP32 minus infinity. -/
abbrev minusInf : Nat := 0xFF800000

/-- The empty entry. -/
abbrev emptyPair : Pair := (minusInf, 0xFFFFFFFF)

/-- An FP32 value. -/
abbrev f32 (b : Nat) : FV := FFmt.fp32.dec b

/-- An entry stands before another: empty entries last, logits descending, ties by token ascending. -/
def pairBefore (a b : Pair) : Bool :=
  if a == emptyPair then false
  else if b == emptyPair then true
  else if (f32 b.1).lt (f32 a.1) then true
  else if (f32 a.1).lt (f32 b.1) then false
  else decide (signedNat 32 a.2 < signedNat 32 b.2)

/-- Place an entry before the first that it stands before. -/
def insertPair (a : Pair) : List Pair → List Pair
  | [] => [a]
  | b :: r => if pairBefore a b then a :: b :: r else b :: insertPair a r

/-- Entries in pair order. -/
def sortPairs (l : List Pair) : List Pair := l.foldl (fun s p => insertPair p s) []

/-- The 64 entries of a pair element. -/
def pairsOf (e : Elem) : List Pair := (List.range 64).map fun j => (lane 32 e (2 * j), lane 32 e (2 * j + 1))

/-- A pair element of at most 64 entries, filled with empty ones. -/
def ofPairs (l : List Pair) : Elem :=
  ofLanes 32 (((l ++ List.replicate (64 - l.length) emptyPair).take 64).flatMap fun p => [p.1, p.2])

/-- The lanes of a logit chunk. -/
def chunkCap (bf : Bool) : Nat := if bf then 256 else 128

/-- Lane `i` of a chunk as FP32 bits. -/
def chunkLane (bf : Bool) (e : Elem) (i : Nat) : Nat :=
  if bf then FFmt.fp32.rne (FFmt.bf16.dec (lane 16 e i)) else lane 32 e i

/-- L of R325: the valid lanes of a chunk that hold no NaN, with their tokens. -/
def chunkPairs (bf : Bool) (e : Elem) (base n : Nat) : List Pair :=
  ((List.range n).map fun i => (chunkLane bf e i, (base + i) % 2 ^ 32)).filter fun p => !(f32 p.1).isNaN

/-- ex(l - m) of R325 as FP32 bits; a term that starts from minus infinity is +0. -/
def exTerm (invt l m : Nat) : Nat :=
  if l = minusInf ∨ m = minusInf then 0
  else
    (expOf (((f32 l).add false (f32 m).neg).mul (f32 invt))).rne .fp32 32 (l + m * 2 ^ 32 + invt * 2 ^ 64)

/-- The greater of two logits. -/
def maxLogit (a b : Nat) : Nat := if (f32 a).lt (f32 b) then b else a

/-- A running state of VSHORT: shortlist, SLM, SLZ. -/
structure Short where
  list : List Pair
  slm  : Nat
  slz  : Nat
  deriving DecidableEq, Repr

/-- Merge a chunk into a shortlist (R325). -/
def Short.merge (s : Short) (invt : Nat) (l : List Pair) : Short :=
  let m := l.foldl (fun m p => maxLogit m p.1) s.slm
  let terms := (l.map fun p => f32 (exTerm invt p.1 m)).foldl (FV.add false)
    ((f32 s.slz).mul (f32 (exTerm invt s.slm m)))
  ⟨(sortPairs (s.list ++ l)).take 64, m, FFmt.fp32.rne terms⟩

/-- The shortlist falls below TOPP (R325). -/
def Short.low (s : Short) (invt topp : Nat) : Bool :=
  let pm := FFmt.fp32.rne ((s.list.map fun p => f32 (exTerm invt p.1 s.slm)).foldl (FV.add false) (.fin false 0 0))
  (f32 pm).lt (f32 (FFmt.fp32.rne ((f32 topp).mul (f32 s.slz))))

/-- INVT positive and finite, TOPP in (0, 1] (R325). -/
def sampleOk (invt topp : Nat) : Bool :=
  let zero : FV := .fin false 0 0
  zero.lt (f32 invt) && !(f32 invt).isInf && zero.lt (f32 topp) && !(FV.fin false 1 0).lt (f32 topp)

/-- Running sums rounded to FP32, first to last (R327). -/
def runningSums : Nat → List Nat → List Nat
  | _, [] => []
  | c, w :: r => let c := FFmt.fp32.rne ((f32 c).add false (f32 w)); c :: runningSums c r

/-- The least index of a list that satisfies a test. -/
def leastIndex {α : Type} (p : α → Bool) (l : List α) : Option Nat := l.findIdx? p

/-- The random fraction of a draw: bits 63:40 in units of 2^-24 (R327). -/
def fracOf (out : Nat) : FV := .fin false (out / 2 ^ 40 % 2 ^ 24) (-24)

/-- The draw of VSAMP among nonempty entries (R327): the index and k; `none` where the comparisons find no index. -/
def drawIndex (invt topp out : Nat) (es : List Pair) : Option (Nat × Nat) :=
  let l0 := (es.headD emptyPair).1
  let c := runningSums 0 (es.map fun p => exTerm invt p.1 l0)
  let total := FFmt.fp32.rne ((f32 topp).mul (f32 (c.getLastD 0)))
  match leastIndex (fun v => !(f32 v).isNaN && !(f32 total).isNaN && !(f32 v).lt (f32 total)) c with
  | none => none
  | some k =>
    match leastIndex (fun v => ((fracOf out).mul (f32 (c.getD k 0))).lt (f32 v)) (c.take (k + 1)) with
    | none => none
    | some j => some (j, k)

/-! ### Random streams (R328, R329) -/

/-- The state of a stream after a draw. -/
def streamStep (s : Nat × Nat) : Nat × Nat :=
  let a := s.1
  let b := s.2
  let a := a ^^^ (a * 2 ^ 23 % 2 ^ 64)
  (b, a ^^^ (a / 2 ^ 17) ^^^ b ^^^ (b / 2 ^ 26))

/-- The output of a draw, from the state after it. -/
def streamOut (s : Nat × Nat) : Nat := (s.1 + s.2) % 2 ^ 64

/-- The state as 128 bits. -/
def streamStep128 (v : Nat) : Nat :=
  let s := streamStep (v % 2 ^ 64, v / 2 ^ 64 % 2 ^ 64)
  s.1 + s.2 * 2 ^ 64

/-- Apply a matrix over GF(2), given by its columns. -/
def matApply (m : List Nat) (v : Nat) : Nat :=
  (m.zip (List.range m.length)).foldl (fun a p => if v / 2 ^ p.2 % 2 = 1 then a ^^^ p.1 else a) 0

/-- The transition matrix. -/
def streamMat : List Nat := (List.range 128).map fun i => streamStep128 (2 ^ i)

/-- One step of the squaring: the matrix and the state. -/
def jumpBit (n : Nat) (p : List Nat × Nat) (i : Nat) : List Nat × Nat :=
  (p.1.map fun c => matApply p.1 c, if n / 2 ^ i % 2 = 1 then matApply p.1 p.2 else p.2)

/-- The state `n` draws later (R329). -/
def streamJump (n : Nat) (s : Nat × Nat) : Nat × Nat :=
  let v := ((List.range 64).foldl (jumpBit n) (streamMat, s.1 + s.2 * 2 ^ 64)).2
  (v % 2 ^ 64, v / 2 ^ 64)

/-- Bits needed to write a number. -/
def bitLength (n : Nat) : Nat := if n = 0 then 0 else n.log2 + 1

/-! ### Token output (R334, R335) -/

/-- The output of one row as TOKOUT forms it. -/
structure TokSt where
  tail    : List Byte
  hold    : Nat
  d       : List Byte
  retract : Nat
  stop    : Option Nat
  deriving DecidableEq, Repr

/-- The last `n` bytes of a list. -/
def lastBytes (n : Nat) (l : List Byte) : List Byte := l.drop (l.length - n)

/-- The bytes of `p` begin a string. -/
def beginsWith (p s : List Byte) : Bool := s.take p.length == p

/-- One byte of a token (R335); `strs` are the enabled strings with their indexes, in ascending index. -/
def TokSt.byte (strs : List (Nat × List Byte)) (st : TokSt) (c : Byte) : TokSt :=
  if st.stop.isSome then st
  else
    let tail := lastBytes 63 (st.tail ++ [c])
    let hold := st.hold + 1
    let held := lastBytes hold tail
    match strs.find? fun s => lastBytes s.2.length tail == s.2 && decide (s.2.length ≤ tail.length) with
    | some s =>
      let n := hold - s.2.length
      { tail := tail, hold := 0, d := st.d ++ held.take n, retract := s.2.length - hold, stop := some s.1 }
    | none =>
      let fits := fun (k : Nat) => decide (k ≤ tail.length) && (k == 0 || strs.any fun s => beginsWith (lastBytes k tail) s.2)
      let h := (((List.range (min hold 32 + 1)).filter fits).getLast?).getD 0
      { tail := tail, hold := h, d := st.d ++ held.take (hold - h), retract := 0, stop := none }

/-- The header of a record (R334). -/
def recHeader (kind row len : Nat) : List Byte := leBytes 8 (kind * 2 ^ 56 + row % 2 ^ 8 * 2 ^ 40 + len % 2 ^ 32)

/-- The records of a word, in order (R334, R335): bytes, retraction, then stop or end. -/
def tokRecords (row : Nat) (d : List Byte) (retract : Nat) (stop : Option Nat) (ended : Bool) : List Byte :=
  (if d.isEmpty then [] else recHeader 1 row d.length ++ d ++ List.replicate (roundUp d.length 8 - d.length) 0) ++
  (if retract = 0 then [] else recHeader 2 row retract) ++
  match stop with
  | some i => recHeader 3 row i
  | none => if ended then recHeader 4 row 0 else []

/-- A status element of INT32 lanes. -/
def statusOf (ls : List Nat) : Elem := ofLanes 32 ls

end Sys2Proof.Machine
end

