-- ==== Sys2Proof/Machine/Gen.lean ====
section
/-! DEFINITION. Taps, sampling and the generation loop: the batch table, quarantine, TAPCHK, and the generation words
(R313 to R335). -/

namespace Sys2Proof.Machine

open Sys2Proof

/-! ### The batch table (R313, R314) -/

/-- Word `o` of the header of the table at `t`. -/
def hdr8 (m : Memory) (t o : Nat) : Nat := m.num (t + o) 8
/-- BATCH. -/
def tabBatch (m : Memory) (t : Nat) : Nat := hdr8 m t 0 / 2 ^ 48 % 2 ^ 8
/-- DMODEL. -/
def tabDmodel (m : Memory) (t : Nat) : Nat := hdr8 m t 0 / 2 ^ 32 % 2 ^ 16
/-- RFMT. -/
def tabBf (m : Memory) (t : Nat) : Bool := hdr8 m t 0 / 2 ^ 16 % 2 == 1
/-- NROWS. -/
def tabRows (m : Memory) (t : Nat) : Nat := hdr8 m t 0 % 2 ^ 9
/-- RPITCH. -/
def tabPitch (m : Memory) (t : Nat) : Nat := hdr8 m t 8 / 2 ^ 32
/-- SLB. -/
def tabSlb (m : Memory) (t : Nat) : Nat := hdr8 m t 8 % 2 ^ 22
/-- OUTB. -/
def tabOutb (m : Memory) (t : Nat) : Nat := hdr8 m t 16 / 2 ^ 32 % 2 ^ 22
/-- OUTSZ. -/
def tabOutsz (m : Memory) (t : Nat) : Nat := hdr8 m t 16 % 2 ^ 32
/-- OUTP. -/
def tabOutp (m : Memory) (t : Nat) : Nat := hdr8 m t 24 % 2 ^ 32
/-- OUTC. -/
def tabOutc (m : Memory) (t : Nat) : Nat := hdr8 m t 32 % 2 ^ 32
/-- DTOK. -/
def tabDtok (m : Memory) (t : Nat) : Nat := hdr8 m t 40
/-- STOPVA. -/
def tabStopva (m : Memory) (t : Nat) : Nat := hdr8 m t 48

/-- The offset of a row entry. -/
def rowOff (t r : Nat) : Nat := t + 256 + 256 * r

/-- The header breaks R313; its reserved bits are those of the words that hold only software's fields
(assumption 32). DEDUCED -/
def tabBad (m : Memory) (t : Nat) : Bool :=
  let w0 := hdr8 m t 0
  let w8 := hdr8 m t 8
  let w10 := hdr8 m t 16
  w0 / 2 ^ 56 != 0 || w0 / 2 ^ 17 % 2 ^ 7 != 0 || w0 / 2 ^ 9 % 2 ^ 7 != 0 || w8 / 2 ^ 22 % 2 ^ 10 != 0 || w10 / 2 ^ 54 != 0 ||
    tabDmodel m t % 16 != 0 || decide (tabDmodel m t < 16) || decide (16384 < tabDmodel m t) ||
    tabRows m t == 0 || decide (256 < tabRows m t) || tabPitch m t % 64 != 0 || tabSlb m t % 64 != 0 ||
    tabOutb m t % 64 != 0 || tabOutsz m t % 64 != 0 || decide (tabOutsz m t < 1024)

/-- The areas that a table names: shortlists, output, row entries. -/
def tabAreas (m : Memory) (t : Nat) : List (Nat × Nat) :=
  [(tabSlb m t, 512 * tabRows m t), (tabOutb m t, tabOutsz m t), (rowOff t 0, 256 * tabRows m t)]

/-- The scratchpad as X's generation words see it, behind X's earlier scratch moves (R187, R323). -/
def State.xsp (s : State) : Memory := s.cur.withScratch.sp

/-- X's earlier scratch moves are performed (R323). -/
def State.settleScratch (s : State) : State :=
  s.landWhere s.k .X fun f => match f.land with | .scratch _ _ => true | _ => false

/-- ECCU of a scratchpad range that a generation word reads (R417). -/
def State.rangeLost (s : State) (off n : Nat) : Option Trap :=
  if s.cur.withScratch.spLost off n then some { cause := .eccu, addr := w64 off, info := 5 } else none

/-! ### Quarantine (R315, R316) -/

/-- The row is quarantined. -/
def CoreSt.rowQuar (c : CoreSt) (r : Nat) : Bool := bitOf c.qmask r && decide (r < 256)

/-- Rows 64w + i of a mask word, as a mask of 256 bits. -/
def rowsAt (w : Nat) (mask : Nat) : BitVec 256 := BitVec.ofNat 256 (mask % 2 ^ 64 * 2 ^ (64 * w))

/-- Quarantine rows: QMASK, and LSUP from the rows' LADM; rows that are quarantined already stand (R315, R373). -/
def CoreSt.quarantine (c : CoreSt) (rows : BitVec 256) : CoreSt :=
  let fresh := onesOf 256 (rows.toNat - (rows &&& c.qmask).toNat)
  let sup := match c.batch with
    | some t =>
      (fresh.filter fun r => decide (r < tabRows c.sp t)).foldl (fun v r => v ||| w64 (c.sp.num (rowOff t r + 0x58) 8)) c.lsup
    | none => c.lsup
  { c with qmask := c.qmask ||| rows, lsup := sup }

/-- QTAB's address; none when it is 0 (R316). -/
def State.qtab (s : State) (p : Nat) : Option Nat :=
  let v := field ((s.part p).reg 15) 6 46 * 64
  if v = 0 then none else some v

/-- The rights of supervisor level. -/
abbrev superRead : Acc := ⟨false, false⟩

/-! ### TAPCHK (R318 to R321) -/

/-- A TAPCHK waits for a page, or for the frontier; or it traps; or it goes. -/
def Lk.waits {α : Type} : Lk α → Bool
  | .wait => true
  | .bad _ c _ _ => c == .xlate
  | _ => false

/-- The trap of a part that cannot be waited out. -/
def Lk.trap {α : Type} : Lk α → Option Trap
  | .bad va c m _ => if c = .xlate then none else some { cause := c, addr := w64 va, malf := m }
  | .fail t _ => some t
  | _ => none

/-- Read memory with the rights of supervisor level (R316, R317; assumption 33). DEDUCED -/
def State.superRead (s : State) (va n : Nat) : Lk (List Byte) :=
  let va := va % 2 ^ 64
  if 2 ^ 52 ≤ va then .fail { cause := .xlate, addr := w64 va } [] else (s.readVirt s.k Machine.superRead va n).part

/-- Read memory for a TAPCHK or a generation word of core `k`, with X's rights, as the ladder engine reads rungs
(R259, R319). -/
def State.genRead (s : State) (k va n : Nat) : Lk (List Byte) :=
  let va := va % 2 ^ 64
  if 2 ^ 52 ≤ va then .fail { cause := .xlate, addr := w64 va } [] else (s.readVirt k (s.ladAcc k false) va n).part

/-- TAPCHK.BIND's checks of the offset (R318). -/
def offsetTrap (t : Nat) : Option Trap :=
  if t % 64 ≠ 0 then some { cause := .align, addr := w64 t }
  else if spSize < t + 256 then some { cause := .sprng, addr := w64 t }
  else none

/-- TAPCHK.BIND's checks of the header and of the areas that it names (R318). -/
def State.bindTrap (s : State) (t : Nat) : Option Trap :=
  let m := s.xsp
  let sprng : Nat → Trap := fun a => { cause := .sprng, addr := w64 a }
  if tabBad m t then some { cause := .illop }
  else
    match (tabAreas m t).find? fun a => decide (spSize < a.1 + a.2) with
    | some a => some (sprng a.1)
    | none =>
      match (tabAreas m t).find? fun a => s.cur.meetsWindow a.1 a.2 with
      | some a => some { cause := .prot, addr := w64 a.1 }
      | none => none

/-- The rows of the quarantine table for the table at `t` (R316). -/
def State.tableRows (s : State) (t : Nat) : Lk (BitVec 256) :=
  match s.qtab (s.partOf s.k) with
  | none => .ok 0 []
  | some q => (s.superRead (q + 32 * tabBatch s.xsp t) 32).andThen fun bs => .ok (BitVec.ofNat 256 (bytesToNat bs)) []

/-- TAPCHK.BIND (R316, R318). -/
def execTapchkBind (c : Ctl) (xa : Reg) (s : State) : Host.Outcome State Fault Refusal :=
  s.issue (.tapchkBind c xa)
    { allowed := .onlyX
      unit := 3
      uses := [xa]
      check := fun s => offsetTrap (s.reg xa).toNat
      ordered := fun s => (s.rangeLost (s.reg xa).toNat 256).or (s.bindTrap (s.reg xa).toNat)
      wait := fun s => .need (s.cur.genq.isEmpty && !(s.tableRows (s.reg xa).toNat).waits)
      late := fun s => (s.tableRows (s.reg xa).toNat).trap
      effect := fun _ s =>
        let t := (s.reg xa).toNat
        let s := s.settleScratch
        match s.tableRows t with
        | .ok rows notes => (s.note s.k notes).updCur fun k => ({ k with batch := some t } : CoreSt).quarantine rows
        | _ => s }

/-- The active-row mask (R315). -/
def CoreSt.activeMask (c : CoreSt) (m : Memory) (t : Nat) : Nat :=
  ((List.range (tabRows m t)).map fun r => if c.rowQuar r then 0 else 2 ^ r).sum

/-- A word of the bound table's core: ILLOP when no table is bound. -/
def State.tableTrap (s : State) : Option Trap := if s.cur.batch.isNone then some { cause := .illop } else none

/-- The bound table's offset. -/
def CoreSt.tab (c : CoreSt) : Nat := c.batch.getD 0

/-- TAPCHK.MASK (R318). Neither R133 nor R323 gives the latency of its register: the model takes 1 (assumption 24). DESIGN CHOICE -/
def execTapchkMask (c : Ctl) (xd : Reg) (w : BitVec 2) (s : State) : Host.Outcome State Fault Refusal :=
  s.issue (.tapchkMask c xd w)
    { allowed := .onlyX
      unit := 3
      uses := [xd]
      check := fun s => s.tableTrap
      wait := fun s => .need s.cur.genq.isEmpty
      late := fun s => s.rangeLost s.cur.tab 256
      effect := fun wid s =>
        s.result wid 1 xd (w64 (s.cur.activeMask s.xsp s.cur.tab / 2 ^ (64 * w.toNat) % 2 ^ 64)) }

/-- A probe (R317). -/
structure Probe where
  bias : Nat
  thr  : Nat
  dir  : Bool
  act  : Nat
  ws   : List Nat
  deriving DecidableEq, Repr

/-- The rows that TAPCHK examines, ascending. -/
def State.activeRows (s : State) : List Nat :=
  (List.range (tabRows s.xsp s.cur.tab)).filter fun r => !s.cur.rowQuar r

/-- Bytes of a residual row. -/
def tabRowBytes (m : Memory) (t : Nat) : Nat := tabDmodel m t * (if tabBf m t then 2 else 4)

/-- An active row's residual range passes the scratchpad (R319). -/
def State.residTrap (s : State) (res : Nat) : Option Trap :=
  let m := s.xsp
  let t := s.cur.tab
  match s.activeRows.find? fun r => decide (spSize < res + r * tabPitch m t + tabRowBytes m t) with
  | some r => some { cause := .sprng, addr := w64 (res + r * tabPitch m t) }
  | none => none

/-- Turn a check into a part. -/
def orTrap {α : Type} (t : Option Trap) (x : Lk α) : Lk α :=
  match t with
  | some t => .fail t []
  | none => x

/-- Word 0x10 of a row entry: STIDX, STALW, STSCALE. -/
def rowSteer (m : Memory) (t r : Nat) : Nat := m.num (rowOff t r + 0x10) 8

/-- One probe entry: 64 bytes read whole with the rights of supervisor level (R316, R371), and its weights, read as the ladder engine
reads rungs (R319). -/
def State.readProbe (s : State) (base i : Nat) : Lk Probe :=
  let dm := tabDmodel s.xsp s.cur.tab
  (s.superRead (base + 64 + 64 * i) 64).andThen fun bs =>
    let w := fun (o : Nat) => bytesToNat ((bs.drop o).take 8)
    failIf (w 16 / 2 ^ 63 == 0 || w 16 / 2 ^ 16 % 4 == 3 || w 16 % 2 ^ 16 != dm) { cause := .illop } <|
      (s.genRead s.k (w 0) (2 * dm)).andThen fun ps =>
        .ok ⟨w 8 / 2 ^ 32, w 8 % 2 ^ 32, w 16 / 2 ^ 18 % 2 == 1, w 16 / 2 ^ 16 % 4, valuesOf 2 ps dm⟩ []

/-- Parts one after another. -/
def Lk.each {α β : Type} (f : α → Lk β) (l : List α) : Lk (List β) :=
  l.foldl (fun r a => r.andThen fun bs => (f a).andThen fun b => .ok (bs ++ [b]) []) (.ok [] [])

/-- The value of a probe on a row, as FP32 bits (R319). -/
def Probe.value (p : Probe) (xs : List FV) : Nat :=
  let ps := (xs.zip p.ws).map fun e => e.1.mul (FFmt.bf16.dec e.2)
  let bias := f32 p.bias
  FFmt.fp32.rne ((specialOf bias ps).getD (ps.foldl (FV.add false) bias))

/-- A value crosses a probe (R319). -/
def Probe.crosses (p : Probe) (v : Nat) : Bool :=
  (f32 v).isNaN || (if p.dir then (f32 v).lt (f32 p.thr) else (f32 p.thr).lt (f32 v))

/-- What TAPCHK finds of one row: the positions of the count probes that it crosses, whether it is to be steered, and the
first trap probe's position with the value. -/
structure RowTap where
  row   : Nat
  hits  : List Nat
  steer : Bool
  trap  : Option (Nat × Nat)
  deriving DecidableEq, Repr

/-- The values of a residual row. -/
def residual (m : Memory) (t res r : Nat) : List FV :=
  let bf := tabBf m t
  let e := if bf then 2 else 4
  (List.range (tabDmodel m t)).map fun i => (ladFmt bf).dec (m.num (res + r * tabPitch m t + e * i) e)

/-- Evaluate the probes on the values of a row (R319). -/
def rowTap (xs : List FV) (always : Bool) (r : Nat) (ps : List Probe) : RowTap :=
  let found := ((ps.zip (List.range ps.length)).map fun e => (e.1, e.2, e.1.value xs)).filter fun e => e.1.crosses e.2.2
  { row := r
    hits := (found.filter fun e => e.1.act == 0).map fun e => e.2.1
    steer := always || found.any fun e => e.1.act == 1
    trap := ((found.filter fun e => e.1.act == 2).map fun e => (e.2.1, e.2.2)).head? }

/-- What a TAPCHK makes of the scratchpad, and the rows that trap, each with the position of its first trap probe (R319). -/
structure TapPlan where
  sp    : Memory
  traps : List (Nat × Nat)
  deriving DecidableEq, Repr

/-- The new bytes of a steered row (R319). -/
def steerBytes (f : FFmt) (scale : FV) (xs : List FV) (v : List Nat) : List Byte :=
  (xs.zip v).flatMap fun e => leBytes (f.width / 8) (f.rne (e.1.add false (scale.mul (FFmt.bf16.dec e.2))))

/-- A count probe's crossing is counted, up to 2^32 - 1 (R319). -/
def countHit (t : Nat) (m : Memory) (k : Nat) : Memory :=
  m.setNum (t + 0x80 + 4 * k) 4 (min (m.num (t + 0x80 + 4 * k) 4 + 1) (2 ^ 32 - 1))

/-- The counts and the trap value that a row leaves (R319). -/
def RowTap.mark (x : RowTap) (t : Nat) (m : Memory) : Memory :=
  let m := x.hits.foldl (countHit t) m
  match x.trap with
  | some e => m.setNum (rowOff t x.row + 0x50) 4 e.2
  | none => m

/-- One active row of R319's loop, on the scratchpad as the rows before it leave it: `va` is STEERVA. No rule names a cause for a
residual row that meets a stream window: R58 speaks of stores, Ferry and scratch moves, and the row is steered without a fault
(assumption 97). DESIGN CHOICE -/
def State.tapRow (s : State) (va res : Nat) (ps : List Probe) (p : TapPlan) (r : Nat) : Lk TapPlan :=
  let t := s.cur.tab
  let dm := tabDmodel p.sp t
  let xs := residual p.sp t res r
  let x := rowTap xs (rowSteer p.sp t r / 2 ^ 31 % 2 == 1) r ps
  let m := x.mark t p.sp
  let idx := rowSteer p.sp t r % 2 ^ 16
  match x.trap with
  | some e => .ok ⟨m, p.traps ++ [(r, e.1)]⟩ []
  | none =>
    if x.steer && idx != 0xFFFF then
      (s.genRead s.k (va + 2 * dm * idx) (2 * dm)).andThen fun bs =>
        let new := steerBytes (ladFmt (tabBf p.sp t)) (f32 (rowSteer p.sp t r / 2 ^ 32)) xs (valuesOf 2 bs dm)
        .ok ⟨m.setBytes (res + r * tabPitch p.sp t) new, p.traps⟩ []
    else .ok { p with sp := m } []

/-- The least of the positions at which rows trap. -/
def TapPlan.least (p : TapPlan) : Option Nat :=
  match p.traps with
  | [] => none
  | e :: r => some (r.foldl (fun v x => min v x.2) e.2)

/-- TRMASK and TRPROBE where a row traps (R319). -/
def TapPlan.report (p : TapPlan) (t first : Nat) : TapPlan :=
  match p.least with
  | none => p
  | some k =>
    let m := p.sp.setNum (t + 0x40) 32 ((p.traps.map fun x => 2 ^ x.1).sum)
    ⟨m.setNum (t + 0x60) 1 (p.sp.num (t + 0x60) 1 / 64 * 64 + (first + k) % 64), p.traps⟩

/-- TAPCHK of `n` probes from `first` at a residual offset: its checks, and then its rows in order (R319). -/
def State.tapPlan (s : State) (res first n : Nat) : Lk TapPlan :=
  let m := s.xsp
  let t := s.cur.tab
  let base := field (s.part (s.partOf s.k)).ptbase 6 46 * 64
  if base = 0 then orTrap (s.residTrap res) (.ok ⟨m, []⟩ [])
  else
    (s.superRead base 64).andThen fun hd =>
      let va := bytesToNat (hd.take 8)
      let nsteer := bytesToNat ((hd.drop 8).take 4)
      (Lk.each (fun i => s.readProbe base (first + i)) (List.range n)).andThen fun ps =>
        failIf (s.activeRows.any fun r =>
            let st := rowSteer m t r % 2 ^ 16
            st != 0xFFFF && decide (nsteer ≤ st)) { cause := .illop } <|
        orTrap (s.residTrap res) <|
          let step := fun (x : Lk TapPlan) (r : Nat) => x.andThen fun p => s.tapRow va res ps p r
          (s.activeRows.foldl step (.ok ⟨m, []⟩ [])).andThen fun p =>
            .ok (p.report t first) []

/-- A tap trap waits for the frontier (R321). -/
def State.tapWaits (s : State) (x : Lk TapPlan) : Bool :=
  x.waits ||
    match x with
    | .ok p _ => s.isSpec s.k && !p.traps.isEmpty
    | _ => false

/-- ECCU of what TAPCHK reads of the scratchpad: the table, and the residual of an active row (R417). -/
def State.tapLost (s : State) (res : Nat) : Option Trap :=
  (s.rangeLost s.cur.tab (256 + 256 * tabRows s.xsp s.cur.tab)).or
    (match s.activeRows.find? fun r => s.cur.spLost (res + r * tabPitch s.xsp s.cur.tab) (tabRowBytes s.xsp s.cur.tab) with
    | some r => some { cause := .eccu, addr := w64 (res + r * tabPitch s.xsp s.cur.tab), info := 5 }
    | none => none)

/-- TAPCHK (R319 to R321): the word completes, and where a row traps its context takes TAPSEQ and would resume at the
next word. Its checks of the table and of the probes come once its tokens are there, since a token edge orders what they read
(assumption 88). DEDUCED -/
def execTapchk (c : Ctl) (xb : Reg) (first : BitVec 6) (cnt1 : BitVec 4) (s : State) : Host.Outcome State Fault Refusal :=
  s.issue (.tapchk c xb first cnt1) (
    let plan := fun (s : State) => s.tapPlan (s.reg xb).toNat first.toNat (cnt1.toNat + 1)
    { allowed := .onlyX
      unit := 3
      uses := [xb]
      check := fun s =>
        s.tableTrap.or (if (s.reg xb).toNat % 64 ≠ 0 then some { cause := .align, addr := s.reg xb } else none)
      ordered := fun s => (s.rangeLost s.cur.tab 256).or (plan s).trap
      wait := fun s => .need (s.cur.genq.isEmpty && !s.tapWaits (plan s))
      late := fun s => s.tapLost (s.reg xb).toNat
      effect := fun _ s =>
        match plan s with
        | .ok p notes =>
          let s := ((s.note s.k notes).settleScratch).updCur fun k => { k with sp := p.sp }
          match p.least with
          | none => s
          | some i =>
            let m := s.me
            s.takeCause s.k .X
              (s.record s.k Ctx.X.code { cause := .tapseq, info := w64 (first.toNat + i) } false m.level m.pc m.advance.pc
                s.wordAtPc) true
        | _ => s })

/-! ### Common rules of the generation words (R323) -/

/-- The row of a control element. -/
def ctlRow (c : Elem) : Nat := lane 32 c 0
/-- Its token or base token. -/
def ctlTok (c : Elem) : Nat := lane 32 c 1
/-- Its flags. -/
def ctlFlags (c : Elem) : Nat := lane 32 c 2
/-- The count of valid lanes. -/
def ctlCount (c : Elem) : Nat := lane 32 c 3

/-- ILLOP of a row beyond the table (R323). -/
def State.rowTrap (s : State) (r : Nat) : Option Trap :=
  if tabRows s.xsp s.cur.tab ≤ r then some { cause := .illop } else none

/-- ECCU of what a row's word reads of the table. -/
def State.rowLost (s : State) (r : Nat) : Option Trap :=
  (s.rangeLost s.cur.tab 256).or (s.rangeLost (rowOff s.cur.tab r) 256)

/-- The elements of a word's sources are there to be judged. -/
def State.srcReady (s : State) (vs : List VSrc) : Bool := s.srcWait vs == .go

/-- The frame of a generation word with vector operands. `bad` says of its operands alone that they are illegal, `table` judges them
beside the batch table, whose contents a token edge orders before the word (assumption 88); `lost` is what ECC has lost of what it
reads; `pushes` says how many elements it pushes. DEDUCED -/
def genIssue (hold : Bool) (vs : List VSrc) (vd : QName) (busy : State → Bool) (pushes : State → Nat) (bad : List (List Elem) → Bool)
    (table lost : State → List (List Elem) → Option Trap) (effect : Nat → State → List (List Elem) → State) : Issue :=
  { allowed := .onlyX
    unit := 3
    hold := hold
    pre := fun s => s.srcOvf vs
    check := fun s =>
      ((s.tableTrap.or (s.srcTrap vs)).or (if s.srcReady vs && bad (s.srcElems vs) then some { cause := .illop } else none)).or
        (s.dstTrap vd (pushes s) vs)
    ordered := fun s => if s.srcReady vs then table s (s.srcElems vs) else none
    wait := fun s => (s.srcWait vs).and (.need (s.cur.genq.isEmpty && !busy s))
    late := fun s => (s.srcLost vs).or (lost s (s.srcElems vs))
    effect := fun wid s =>
      let es := s.srcElems vs
      effect wid ((s.popSrcs vs).settleScratch) es }

/-- A generation word that computes its elements and the new scratchpad at once. -/
def genWord (lat : Nat) (vs : List VSrc) (vd : QName) (pushes : State → Nat) (bad : List (List Elem) → Bool)
    (table lost : State → List (List Elem) → Option Trap) (f : State → List (List Elem) → List Elem × Memory) : Issue :=
  genIssue false vs vd (fun _ => false) pushes bad table lost fun wid s es =>
    let r := f s es
    (s.updCur fun c => { c with sp := r.2 }).pushAll wid lat vd r.1

/-! ### Sampling (R325 to R327) -/

/-- INVT of a row. -/
def rowInvt (m : Memory) (t r : Nat) : Nat := m.num (rowOff t r + 0x18) 4
/-- TOPP. -/
def rowTopp (m : Memory) (t r : Nat) : Nat := m.num (rowOff t r + 0x1C) 4

/-- The control element of a V3 generation word. -/
def v3ctl (es : List (List Elem)) : Elem := opElem es 1 0

/-- A chunk of more valid lanes than it has (R323). -/
def chunkBad (bf : Bool) (es : List (List Elem)) : Bool := decide (chunkCap bf < ctlCount (v3ctl es))

/-- Read a shortlist and its sums (R314, R325). -/
def shortAt (m : Memory) (t r : Nat) : Short :=
  ⟨pairsOf (elemOfBytes (m.bytes (tabSlb m t + 512 * r) 512)), m.num (rowOff t r + 0x40) 4, m.num (rowOff t r + 0x44) 4⟩

/-- The shortlist before a first chunk. -/
def shortFirst : Short := ⟨List.replicate 64 emptyPair, minusInf, 0⟩

/-- VSHORT on a row: the new scratchpad and the shortlist. -/
def vshortRow (m : Memory) (t : Nat) (bf : Bool) (chunk ctl : Elem) : Memory × Elem :=
  let r := ctlRow ctl
  let invt := rowInvt m t r
  let s := (if ctlFlags ctl % 2 = 1 then shortFirst else shortAt m t r).merge invt
    (chunkPairs bf chunk (ctlTok ctl) (ctlCount ctl))
  let e := ofPairs s.list
  let m := ((m.setBytes (tabSlb m t + 512 * r) (elemBytes e)).setNum (rowOff t r + 0x40) 4 s.slm).setNum (rowOff t r + 0x44) 4 s.slz
  let m := if ctlFlags ctl / 2 % 2 = 1 && s.low invt (rowTopp m t r) then
      let b := m.num (rowOff t r + 0x48) 1
      m.setNum (rowOff t r + 0x48) 1 (b / 2 * 2 + 1)
    else m
  (m, e)

/-- LAST of a V3 generation word's control element. -/
def State.lastFlag (s : State) (vs : List VSrc) : Bool := ctlFlags (v3ctl (s.srcElems vs)) / 2 % 2 == 1

/-- VSHORT (R325). -/
def execVshort (c : Ctl) (v : V3) (bf : Bool) (s : State) : Host.Outcome State Fault Refusal :=
  s.issue (.vshort c v bf) (
    genWord 24 (v3srcs v) v.vd (fun s => b2n (s.lastFlag (v3srcs v))) (chunkBad bf)
      (fun s es =>
        let r := ctlRow (v3ctl es)
        ((s.rowTrap r).or (s.rowLost r)).or
          (if !sampleOk (rowInvt s.xsp s.cur.tab r) (rowTopp s.xsp s.cur.tab r) then some { cause := .illop } else none))
      (fun s es =>
        let c := v3ctl es
        if ctlFlags c % 2 = 0 then s.rangeLost (tabSlb s.xsp s.cur.tab + 512 * ctlRow c) 512 else none)
      fun s es =>
        let c := v3ctl es
        let last := ctlFlags c / 2 % 2 == 1
        if s.cur.rowQuar (ctlRow c) then (if last then [0] else [], s.cur.sp)
        else
          let r := vshortRow s.cur.sp s.cur.tab bf (opElem es 0 0) c
          (if last then [r.2] else [], r.1))

/-- VSORT CHUNK (R326). -/
def execVsort (c : Ctl) (v : V3) (s : State) : Host.Outcome State Fault Refusal :=
  s.issue (.vsort c v) (
    genWord 16 (v3srcs v) v.vd (fun _ => 2) (chunkBad false) (fun s es => s.rowTrap (ctlRow (v3ctl es)))
      (fun s _ => s.rangeLost s.cur.tab 256)
      fun s es =>
        let c := v3ctl es
        if s.cur.rowQuar (ctlRow c) then ([0, 0], s.cur.sp)
        else
          let l := sortPairs (chunkPairs false (opElem es 0 0) (ctlTok c) (ctlCount c))
          ([ofPairs (l.take 64), ofPairs (l.drop 64)], s.cur.sp))

/-- A free element, for a result that no rule states. -/
def State.freeElem (s : State) (place : Nat) : Elem := BitVec.ofNat 4096 (s.freeVal place)

/-- VSORT.MERGE (R326). A NaN logit never enters a pair element (R325); where software made one, the order is free
(assumption 35). -/
def execVsortMerge (c : Ctl) (v : V3) (s : State) : Host.Outcome State Fault Refusal :=
  s.issue (.vsortMerge c v) (
    genWord 16 (v3srcs v) v.vd (fun _ => 2) (fun _ => false) (fun _ _ => none) (fun _ _ => none)
      fun s es =>
        let l := pairsOf (opElem es 0 0) ++ pairsOf (opElem es 1 0)
        if l.any fun p => (f32 p.1).isNaN then ([s.freeElem 40, s.freeElem 41], s.cur.sp)
        else ([ofPairs ((sortPairs l).take 64), ofPairs ((sortPairs l).drop 64)], s.cur.sp))

/-- The stream of a row (R328). -/
def rowStream (m : Memory) (t r : Nat) : Nat × Nat := (m.num (rowOff t r) 8, m.num (rowOff t r + 8) 8)

/-- Write a row's stream. -/
def putStream (m : Memory) (t r : Nat) (s : Nat × Nat) : Memory :=
  (m.setNum (rowOff t r) 8 s.1).setNum (rowOff t r + 8) 8 s.2

/-- VSAMP on a row (R327): the pushed element and the new scratchpad. Where the comparisons find no index, the drawn
lanes are free (assumption 35). -/
def vsampRow (free : Nat → Nat) (m : Memory) (t : Nat) (ignoreSlow : Bool) (list ctl : Elem) : Elem × Memory :=
  let r := ctlRow ctl
  let es := (pairsOf list).filter (· != emptyPair)
  let slow := m.num (rowOff t r + 0x48) 1 % 2 == 1
  if es.isEmpty || (slow && !ignoreSlow) then (statusOf [2 ^ 32 - 1, 2 ^ 32 - 1], m)
  else
    let st := streamStep (rowStream m t r)
    let m' := putStream m t r st
    match drawIndex (rowInvt m t r) (rowTopp m t r) (streamOut st) es with
    | some (j, k) => (statusOf [(es.getD j emptyPair).2, j, k + 1], m')
    | none => (statusOf [free 40, free 41, free 42], m')

/-- VSAMP and VSAMP.F (R327). -/
def execVsamp (c : Ctl) (v : V3) (f : Bool) (s : State) : Host.Outcome State Fault Refusal :=
  s.issue (.vsamp c v f) (
    genWord 20 (v3srcs v) v.vd (fun _ => 1) (fun _ => false) (fun s es => s.rowTrap (ctlRow (v3ctl es)))
      (fun s es => s.rowLost (ctlRow (v3ctl es)))
      fun s es =>
        let c := v3ctl es
        if s.cur.rowQuar (ctlRow c) then ([0], s.cur.sp)
        else
          let r := vsampRow s.freeVal s.cur.sp s.cur.tab f (opElem es 0 0) c
          ([r.1], r.2))

/-- VSAMP.U (R327). -/
def execVsampU (c : Ctl) (vd : QName) (vb : QName) (pa pb : Bool) (s : State) : Host.Outcome State Fault Refusal :=
  s.issue (.vsampU c vd vb pa pb) (
    let vs : List VSrc := [{ q := vz, peek := pa }, { q := vb, peek := pb }]
    genWord 20 vs vd (fun _ => 1) (fun _ => false) (fun s es => s.rowTrap (ctlRow (v3ctl es)))
      (fun s es => s.rowLost (ctlRow (v3ctl es)))
      fun s es =>
        let r := ctlRow (v3ctl es)
        if s.cur.rowQuar r then ([0], s.cur.sp)
        else
          let st := streamStep (rowStream s.cur.sp s.cur.tab r)
          ([ofLanes 32 [FFmt.fp32.rne (fracOf (streamOut st))]], putStream s.cur.sp s.cur.tab r st))

/-! ### Words that name a row in a register (R329, R333) -/

/-- The frame of a word that names row x[xa]; `bad` judges its registers alone, and `late` the row as the generation words before it
leave it (R323). -/
def rowIssue (uses : List Reg) (xa : Reg) (bad : State → Bool) (late : State → Option Trap) (effect : Nat → Nat → State → State) :
    Issue :=
  { allowed := .onlyX
    unit := 3
    uses := uses
    check := fun s => s.tableTrap.or (if bad s then some { cause := .illop } else none)
    ordered := fun s => s.rowTrap (s.reg xa).toNat
    wait := fun s => .need s.cur.genq.isEmpty
    late := fun s => (s.rowLost (s.reg xa).toNat).or (late s)
    effect := fun wid s => effect (s.reg xa).toNat wid s.settleScratch }

/-- RNGGET and RNGGET.PEEK (R329). -/
def rnggetIssue (peek : Bool) (xd xa : Reg) : Issue :=
  rowIssue [xd, xa] xa (fun _ => false) (fun _ => none) fun r wid s =>
    if s.cur.rowQuar r then s.result wid 6 xd 0
    else
      let st := streamStep (rowStream s.cur.sp s.cur.tab r)
      let s := s.result wid 6 xd (w64 (streamOut st))
      if peek then s else s.updCur fun c => { c with sp := putStream c.sp c.tab r st }

/-- RNGGET (R329). -/
def execRngget (c : Ctl) (xd xa : Reg) (s : State) : Host.Outcome State Fault Refusal :=
  s.issue (.rngget c xd xa) (rnggetIssue false xd xa)

/-- RNGGET.PEEK (R329). -/
def execRnggetPeek (c : Ctl) (xd xa : Reg) (s : State) : Host.Outcome State Fault Refusal :=
  s.issue (.rnggetPeek c xd xa) (rnggetIssue true xd xa)

/-- RNGJMP (R329). -/
def execRngjmp (c : Ctl) (xa xb : Reg) (s : State) : Host.Outcome State Fault Refusal :=
  s.issue (.rngjmp c xa xb)
    (rowIssue [xa, xb] xa (fun _ => false) (fun _ => none) fun r _ s =>
      if s.cur.rowQuar r then s
      else s.updCur fun c => { c with sp := putStream c.sp c.tab r (streamJump (s.reg xb).toNat (rowStream c.sp c.tab r)) })

/-- GSTATE of a row. -/
def rowGstate (m : Memory) (t r : Nat) : Nat := m.num (rowOff t r + 0x34) 2 % 2 ^ 15
/-- GTOP. -/
def rowGtop (m : Memory) (t r : Nat) : Nat := m.num (rowOff t r + 0x30) 4
/-- GNEXT. -/
def rowGnext (m : Memory) (t r : Nat) : Nat := m.num (rowOff t r + 0x38) 4

/-- Write GSTATE and GTOP, keeping the reserved bits of their word. -/
def putGrammar (m : Memory) (t r st top : Nat) : Memory :=
  let w := m.num (rowOff t r + 0x30) 8
  m.setNum (rowOff t r + 0x30) 8 (w / 2 ^ 47 * 2 ^ 47 + st % 2 ^ 15 * 2 ^ 32 + top % 2 ^ 32)

/-- GSAVE (R333). -/
def execGsave (c : Ctl) (xd xa : Reg) (s : State) : Host.Outcome State Fault Refusal :=
  s.issue (.gsave c xd xa)
    (rowIssue [xd, xa] xa (fun _ => false) (fun _ => none) fun r wid s =>
      let m := s.cur.sp
      let v := rowGstate m s.cur.tab r * 2 ^ 32 + rowGtop m s.cur.tab r
      s.result wid 2 xd (if s.cur.rowQuar r then 0 else w64 v))

/-- GREST (R333). -/
def execGrest (c : Ctl) (xa xb : Reg) (s : State) : Host.Outcome State Fault Refusal :=
  s.issue (.grest c xa xb)
    (rowIssue [xa, xb] xa
      (fun s => field (s.reg xb) 47 17 != 0)
      (fun s =>
        if rowGnext s.xsp s.cur.tab (s.reg xa).toNat ≤ field (s.reg xb) 0 32 then some { cause := .illop } else none)
      fun r _ s =>
        if s.cur.rowQuar r then s
        else s.updCur fun c => { c with sp := putGrammar c.sp c.tab r (field (s.reg xb) 32 15) (field (s.reg xb) 0 32) })

/-! ### Constrained decoding (R330 to R332) and token output (R334, R335): words that wait for memory -/

/-- A word that waits for memory enters the core's queue of them; its element is pending. -/
def State.pushGen (s : State) (wid : Nat) (op : GenOp) (vd : QName) (ctl chunk : Elem) : State :=
  let g : GenCmd :=
    { id := wid * 64, wid := wid, pos := s.me.pc, word := s.wordAtPc, op := op, vd := vd, ctl := ctl, chunk := chunk
      masked := s.cur.rowQuar (ctlRow ctl), seen := [], halt := none, fail := none }
  let s := s.updCur fun c => { c with genq := c.genq ++ [g] }
  if vd = vnull then s
  else
    s.updCur fun c =>
      let q := c.queue vd.toNat
      c.setQueue vd.toNat { q with els := q.els ++ [⟨0, wid * 64, false, false, none⟩] }

/-- GSTEP (R331). -/
def execGstep (c : Ctl) (v : V2) (s : State) : Host.Outcome State Fault Refusal :=
  s.issue (.gstep c v)
    (genIssue true (v2srcs v) v.vd (fun _ => false) (fun _ => 1) (fun _ => false)
      (fun s es => s.rowTrap (ctlRow (opElem es 0 0))) (fun s es => s.rowLost (ctlRow (opElem es 0 0)))
      fun wid s es => s.pushGen wid .gstep v.vd (opElem es 0 0) 0)

/-- VGMASK (R332). -/
def execVgmask (c : Ctl) (v : V3) (bf : Bool) (s : State) : Host.Outcome State Fault Refusal :=
  s.issue (.vgmask c v bf)
    (genIssue true (v3srcs v) v.vd (fun _ => false) (fun _ => 1) (chunkBad bf)
      (fun s es => s.rowTrap (ctlRow (v3ctl es))) (fun s es => s.rowLost (ctlRow (v3ctl es)))
      fun wid s es => s.pushGen wid (.vgmask bf) v.vd (v3ctl es) (opElem es 0 0))

/-- The output area has no room for a word's records (R335). -/
def State.outFull (s : State) : Bool :=
  let m := s.xsp
  let t := s.cur.tab
  decide ((tabOutsz m t : Int) - ((tabOutp m t + 2 ^ 32 - tabOutc m t) % 2 ^ 32 : Nat) < 256)

/-- TOKOUT (R335). -/
def execTokout (c : Ctl) (v : V2) (s : State) : Host.Outcome State Fault Refusal :=
  s.issue (.tokout c v)
    (genIssue true (v2srcs v) v.vd State.outFull (fun _ => 1) (fun _ => false)
      (fun s es => s.rowTrap (ctlRow (opElem es 0 0))) (fun s es => s.rowLost (ctlRow (opElem es 0 0)))
      fun wid s es => s.pushGen wid .tokout v.vd (opElem es 0 0) 0)

/-- What the grammar says of a token (R330, R331). -/
inductive GAct where
  /-- No grammar table. -/
  | keep
  | status (n : Nat)
  | goto (st : Nat)
  | push (st ret : Nat)
  | pop
  deriving DecidableEq, Repr

/-- GTAB of a row. -/
def rowGtab (m : Memory) (t r : Nat) : Nat := m.num (rowOff t r + 0x20) 8
/-- GBERTH. -/
def rowGberth (m : Memory) (t r : Nat) : Word := w64 (m.num (rowOff t r + 0x28) 8)

/-- What a generation word that waits for memory comes to, given the reads that it has performed: a value, its next read, or a
fault. -/
inductive Ask (α : Type) where
  | done (a : α)
  | read (va n : Nat)
  | fail (t : Trap)

/-- One part after another. -/
def Ask.andThen {α β : Type} (x : Ask α) (f : α → Ask β) : Ask β :=
  match x with
  | .done a => f a
  | .read va n => .read va n
  | .fail t => .fail t

/-- Parts one after another, their values in order. -/
def Ask.each {α β : Type} (f : α → Ask β) : List α → Ask (List β)
  | [] => .done []
  | a :: r => (f a).andThen fun b => (Ask.each f r).andThen fun bs => .done (b :: bs)

/-- The bytes of a read: those that the word has read, or the read still to be performed (R331, R393). The spec does not say what an
address sum into a table (R317, R330, R334) that passes 2^64 does: the model takes it modulo 2^64 (assumption 95). DESIGN CHOICE -/
def GenCmd.fetch (g : GenCmd) (va n : Nat) : Ask (List Byte) :=
  match g.seen.find? fun e => e.1 == va % 2 ^ 64 && e.2.1 == n with
  | some e => .done e.2.2
  | none => .read (va % 2 ^ 64) n

/-- The action of a token for a row's state (R331). -/
def CoreSt.judge (c : CoreSt) (g : GenCmd) (r tok : Nat) : Ask GAct :=
  let m := c.sp
  let t := c.tab
  let gt := rowGtab m t r
  let st := rowGstate m t r
  if gt = 0 then .done .keep
  else
    (g.fetch gt 24).andThen fun hd =>
      let w := fun (o : Nat) => bytesToNat ((hd.drop o).take 8)
      let vocab := w 0 / 2 ^ 32
      let nstate := w 0 / 2 ^ 16 % 2 ^ 16
      let nclass := w 0 % 2 ^ 16
      if vocab ≤ tok then .done (.status 1)
      else
        (g.fetch (gt + w 8 + 2 * tok) 2).andThen fun cb =>
          let cl := bytesToNat cb
          if nstate ≤ st ∨ nclass ≤ cl then .done (.status 3)
          else
            (g.fetch (gt + w 16 + 4 * (st * nclass + cl)) 4).andThen fun ab =>
              let a := bytesToNat ab
              let kind := a / 2 ^ 30
              let target := a / 2 ^ 15 % 2 ^ 15
              if (kind = 1 ∨ kind = 2) ∧ nstate ≤ target then .done (.status 3)
              else if kind = 1 then .done (.goto target)
              else if kind = 2 then
                if 512 * (field (rowGberth m t r) 8 16 + 1) ≤ rowGnext m t r then .done (.status 2)
                else .done (.push target (a % 2 ^ 15))
              else if kind = 3 ∧ rowGtop m t r ≠ 0 then .done .pop
              else .done (.status 1)

/-- A token is refused (R332). -/
def GAct.refuses : GAct → Bool
  | .status _ => true
  | _ => false

/-- The address of a stack node (R330, R331). -/
def State.nodeVa (s : State) (k r n : Nat) : Ask Nat :=
  let name := rowGberth (s.core k).sp (s.core k).tab r
  match s.checkBerth (s.partOf k) name with
  | .error t => .fail t
  | .ok b => if !s.hasWindow k then .fail { cause := .prot, addr := name } else .done (s.berthVa k b + 8 * n)

/-- A word is done: its element lands, it leaves the queue and retires (R323). -/
def State.genDone (s : State) (k : Nat) (g : GenCmd) (e : Elem) : State :=
  let s := s.updCore k fun c => { c with genq := delFirst (fun x => x.id == g.id) c.genq }
  let s := if g.vd = vnull then s
    else s.updCore k fun c =>
      let q := c.queue g.vd.toNat
      c.setQueue g.vd.toNat
        { q with els := q.els.map fun x => if x.id = g.id ∧ !x.landed then { x with e := e, landed := true } else x }
  s.unhold k .X g.wid

/-- A word ends in a fault (R331): nothing of its row changes, its element is free (assumption 34), and the cause is
attached. -/
def State.genFail (s : State) (k : Nat) (g : GenCmd) (t : Trap) : State :=
  (s.attach k .X t true g.pos g.word).genDone k g (s.freeElem 43)

/-- Change a waiting word. -/
def State.updGen (s : State) (k : Nat) (g : GenCmd) (f : GenCmd → GenCmd) : State :=
  s.updCore k fun c => { c with genq := updFirst (fun (x : GenCmd) => x.id == g.id) f c.genq }

/-- What stands in a word's way: a wait, a page that needs service (R331, R391), or a fault. -/
def State.genStop {α : Type} (s : State) (k : Nat) (g : GenCmd) (x : Lk α) : State :=
  match x with
  | .bad va c m _ =>
    if c = .xlate then s.updGen k g fun x => { x with halt := some ⟨g.wid, va, m, none⟩ }
    else s.genFail k g { cause := c, addr := w64 va, malf := m }
  | .fail t _ => s.genFail k g t
  | _ => s

/-- A word performs its next read, or ends in the fault that it has come to; a halt of the read is serviced, and the word continues
from it (R331). -/
def State.genAsk {α : Type} (s : State) (k : Nat) (g : GenCmd) (x : Ask α) : State :=
  match x with
  | .read va n =>
    match s.genRead k va n with
    | .ok bs notes => (s.note k notes).updGen k g fun x => { x with seen := x.seen ++ [(va, n, bs)] }
    | r => s.genStop k g r
  | .fail t => s.genFail k g t
  | .done _ => s

/-- GSTEP's status element for a row (R331). -/
def grammarStatus (m : Memory) (t r n : Nat) : Elem := statusOf [n, rowGstate m t r, rowGtop m t r]

/-- GSTEP ends with status 0 and a new state of its row. -/
def State.stepTo (s : State) (k : Nat) (g : GenCmd) (st top : Nat) : State :=
  let r := ctlRow g.ctl
  let s := s.updCore k fun c => { c with sp := putGrammar c.sp c.tab r st top }
  s.genDone k g (grammarStatus (s.core k).sp (s.core k).tab r 0)

/-- GSTEP pushes a node, and its row goes to it (R331). -/
def State.pushNode (s : State) (k : Nat) (g : GenCmd) (st ret : Nat) : State :=
  let r := ctlRow g.ctl
  let m := (s.core k).sp
  let t := (s.core k).tab
  let n := rowGnext m t r
  match s.nodeVa k r n with
  | .done va =>
    match s.engineWrite k .X g.wid (s.ladAcc k true) va (leBytes 8 (rowGtop m t r * 2 ^ 32 + ret)) with
    | .ok s => (s.updCore k fun c => { c with sp := c.sp.setNum (rowOff t r + 0x38) 4 (n + 1) }).stepTo k g st n
    | .wait => s
    | .bad va c m => s.genStop k g (Lk.bad va c m [] : Lk Unit)
  | x => s.genAsk k g x

/-- GSTEP (R331). -/
def State.gstepStep (s : State) (k : Nat) (g : GenCmd) : State :=
  let r := ctlRow g.ctl
  let m := (s.core k).sp
  let t := (s.core k).tab
  match (s.core k).judge g r (ctlTok g.ctl) with
  | .done act =>
    match act with
    | .keep => s.genDone k g (grammarStatus m t r 0)
    | .status n => s.genDone k g (grammarStatus m t r n)
    | .goto st => s.stepTo k g st (rowGtop m t r)
    | .push st ret => s.pushNode k g st ret
    | .pop =>
      match (s.nodeVa k r (rowGtop m t r)).andThen fun va => g.fetch va 8 with
      | .done bs => s.stepTo k g (bytesToNat bs % 2 ^ 15) (bytesToNat bs / 2 ^ 32)
      | x => s.genAsk k g x
  | x => s.genAsk k g x

/-- VGMASK (R332). -/
def State.vgmaskStep (s : State) (k : Nat) (g : GenCmd) (bf : Bool) : State :=
  let n := ctlCount g.ctl
  match Ask.each (fun i => (s.core k).judge g (ctlRow g.ctl) ((ctlTok g.ctl + i) % 2 ^ 32)) (List.range n) with
  | .done acts =>
    let w := if bf then 16 else 32
    let refused := fun (i : Nat) => decide (n ≤ i) || (acts.getD i .keep).refuses
    s.genDone k g
      (ofLanes w ((List.range (chunkCap bf)).map fun i =>
        if refused i then (if bf then 0xFF80 else minusInf) else lane w g.chunk i))
  | x => s.genAsk k g x

/-- STOPEN of a row. -/
def rowStopen (m : Memory) (t r : Nat) : Nat := m.num (rowOff t r + 0x49) 1
/-- HOLD. -/
def rowHold (m : Memory) (t r : Nat) : Nat := m.num (rowOff t r + 0x4B) 1 % 64
/-- TAILN. -/
def rowTailn (m : Memory) (t r : Nat) : Nat := m.num (rowOff t r + 0x4A) 1 % 64
/-- DONE. -/
def rowDone (m : Memory) (t r : Nat) : Bool := m.num (rowOff t r + 0x48) 1 / 2 % 2 == 1

/-- Write HOLD, TAILN, DONE and TAIL, keeping the reserved bits beside them. -/
def putOutput (m : Memory) (t r : Nat) (tail : List Byte) (hold : Nat) (done : Bool) : Memory :=
  let o := rowOff t r
  let keep := fun (a : Nat) => m.num a 1 / 64 * 64
  let flags := m.num (o + 0x48) 1
  (((m.setNum (o + 0x4B) 1 (keep (o + 0x4B) + hold % 64)).setNum (o + 0x4A) 1 (keep (o + 0x4A) + tail.length % 64)).setNum
    (o + 0x48) 1 (flags / 4 * 4 + b2n done * 2 + flags % 2)).setBytes (o + 0x80) tail

/-- The enabled stop strings of a row with their indexes (R334). -/
def CoreSt.stopStrings (c : CoreSt) (g : GenCmd) (r : Nat) : Ask (List (Nat × List Byte)) :=
  let va := tabStopva c.sp c.tab
  if va = 0 then .done []
  else
    (Ask.each (fun i => (g.fetch (va + 64 * i) 64).andThen fun bs =>
      .done (i, ((bs.drop 1).take (bytesToNat (bs.take 1))))) (onesOf 8 (rowStopen c.sp c.tab r))).andThen fun ss =>
      .done (ss.filter fun e => !e.2.isEmpty)

/-- The bytes of a token (R334). -/
def CoreSt.tokenBytes (c : CoreSt) (g : GenCmd) (tok : Nat) : Ask (List Byte) :=
  let dt := tabDtok c.sp c.tab
  (g.fetch (dt + 8 * tok) 8).andThen fun bs =>
    let e := bytesToNat bs
    g.fetch (dt + e % 2 ^ 48) (e / 2 ^ 56)

/-- Write the records of a word into the output area, with a pad record before the area's end, and advance OUTP (R334,
R335). -/
def putRecords (m : Memory) (t row : Nat) (recs : List Byte) : Memory :=
  if recs.isEmpty then m
  else
    let size := max 1 (tabOutsz m t)
    let at' := tabOutp m t % size
    let left := size - at'
    let pad := if left < 128 then left else 0
    let m := if pad = 0 then m else m.setBytes (tabOutb m t + at') (recHeader 0 row (left - 8))
    let start := (at' + pad) % size
    (m.setBytes (tabOutb m t + start) recs).setNum (t + 0x18) 4 ((tabOutp m t + pad + recs.length) % 2 ^ 32)

/-- TOKOUT (R335). -/
def State.tokoutStep (s : State) (k : Nat) (g : GenCmd) : State :=
  let r := ctlRow g.ctl
  let m := (s.core k).sp
  let t := (s.core k).tab
  if rowDone m t r then s.genDone k g (statusOf [0, rowHold m t r, 1, 0])
  else
    let c := s.core k
    match (c.tokenBytes g (ctlTok g.ctl)).andThen fun bs => (c.stopStrings g r).andThen fun ss => .done (bs, ss) with
    | .done (bs, ss) =>
      let st0 : TokSt := ⟨m.bytes (rowOff t r + 0x80) (rowTailn m t r), rowHold m t r, [], 0, none⟩
      let st := bs.foldl (TokSt.byte ss) st0
      let ends := ctlFlags g.ctl % 2 == 1 && st.stop.isNone
      let d := if ends then st.d ++ lastBytes st.hold st.tail else st.d
      let hold := if ends then 0 else st.hold
      let done := ends || st.stop.isSome
      let m := putOutput m t r st.tail hold done
      let m := putRecords m t r (tokRecords r d st.retract st.stop ends)
      (s.updCore k fun c => { c with sp := m }).genDone k g
        (statusOf [d.length, hold, b2n done + 2 * b2n st.stop.isSome, st.stop.getD 0])
    | x => s.genAsk k g x

/-- The oldest waiting generation word of a core is performed (R323). -/
def State.genStep (s : State) (k : Nat) : State :=
  if !s.engines k then s
  else
    match (s.core k).genq with
    | [] => s
    | g :: _ =>
      if g.halt.isSome then s
      else if g.masked then s.genDone k g 0
      else
        match g.op with
        | .gstep => s.gstepStep k g
        | .vgmask bf => s.vgmaskStep k g bf
        | .tokout => s.tokoutStep k g

end Sys2Proof.Machine
end

