-- ==== Sys2Proof/Machine/Select.lean ====
section
/-! DEFINITION. Which cores and which task the scheduler selects (R291, R418, R424, R425). -/

namespace Sys2Proof.Machine

open Sys2Proof

/-- A core belongs to a partition (R418). -/
def State.owns (s : State) (p k : Nat) : Bool := decide (k < 384) && bitOf ((s.part p).reg (k / 64)) (k % 64)

/-- The states that SPECDEPTH and the device-wide limit count (R291, R424). -/
def Task.counted (t : Task) : Bool := t.st != .waiting

/-- Cores of the partition. -/
def State.coresIn (s : State) (p : Nat) : List Nat := (List.range 384).filter (s.owns p)

/-- Cores of the partition that no task in PLACED or a later state holds. -/
def State.available (s : State) (p : Nat) : List Nat := (s.coresIn p).filter fun k => (s.core k).status == .free

/-- The RESERVING task that holds a core. -/
def State.reserver (s : State) (k : Nat) : Option Task := s.allTasks.find? fun t => t.st == .reserving && t.got.contains k

/-- The class of an available core for a task (R425): free, reserved by a later task, reserved by an earlier one. -/
def State.coreClass (s : State) (t : Task) (k : Nat) : Nat :=
  match s.reserver k with
  | none => 0
  | some u => if t.before u then 1 else 2

/-- The first `n` of a list of cores in ascending number, by class. -/
def State.pick (s : State) (t : Task) (n : Nat) (ks : List Nat) : List Nat :=
  ((List.range 3).flatMap fun c => ks.filter fun k => s.coreClass t k == c).take n

/-- Place a die in a list of dies with the most available cores first, the lower number first among equals. -/
def insertDie (count : Nat → Nat) (d : Nat) : List Nat → List Nat
  | [] => [d]
  | e :: r => if count e ≤ count d then d :: e :: r else e :: insertDie count d r

/-- The dies that a gang spatial over dies takes. -/
def State.pickDies (s : State) (t : Task) : List Nat :=
  let count := fun (d : Nat) => ((s.available t.part).filter fun k => dieOf k == d).length
  ((List.range 6).foldr (insertDie count) []).take (hdrDies t.hdr)

/-- Ascending order of core numbers. -/
def insertNat (n : Nat) : List Nat → List Nat
  | [] => [n]
  | m :: r => if n ≤ m then n :: m :: r else m :: insertNat n r

/-- The target set of a task, in ascending core number, which is the order of the gang ranks (R425); none when too few
cores are available. -/
def State.targetOf (s : State) (t : Task) : Option (List Nat) :=
  let av := s.available t.part
  let ks := if hdrOnDies t.hdr then
      (s.pickDies t).flatMap fun d => s.pick t (hdrCores t.hdr) (av.filter fun k => dieOf k == d)
    else s.pick t (hdrGang t.hdr) av
  if ks.length = hdrGang t.hdr then some (ks.foldr insertNat []) else none

/-- The count of R291. -/
def State.specCount (s : State) (p : Nat) : Nat := ((s.domain p).filter Task.counted).length

/-- The device-wide count of R424. -/
def State.deviceCount (s : State) : Nat := (s.allTasks.filter fun t => t.counted && !s.isFront t).length

/-- The RESERVING task with the smallest order key in a partition (R427). -/
def State.firstReserving (s : State) (p : Nat) : Option Task := earliest ((s.domain p).filter fun t => t.st == .reserving)

/-- A RESERVING task that counts on a core which is no longer its partition's (R418): its target set is fixed afresh, and it keeps the
reservations of that set; while none can be formed, it holds none and waits for cores. -/
def State.retarget (s : State) (t : Task) : State :=
  let ks := ((s.setTask { t with got := [] }).targetOf t).getD t.target
  let got := t.got.filter fun k => ks.contains k && s.owns t.part k
  s.setTask { t with target := ks, got := got, reqs := ks.filter fun k => !got.contains k }

end Sys2Proof.Machine
end

