-- ==== Sys2Proof/Machine/System.lean ====
section
/-! DEFINITION. LEAVE, MFS, MTS, EXIT and SYSC (R95 to R98, R154, R156, R157, R159), and the system words (R364 to R380,
R406, R429): the privileged state and who may change it. What a register write does stands in one operation, which the
word and the landing processor's register port share. -/

namespace Sys2Proof.Machine

open Sys2Proof

/-! ### LEAVE (R154, R453) -/

/-- The kinds that a mask of LEAVE names. -/
def kindsOf (mask : BitVec 3) : List Heavy := [Heavy.tile, .ferry, .ladder].filter fun h => bitOf mask h.code

/-- One request to an island's governor. -/
def State.requestLeave (s : State) (k n : Nat) (h : Heavy) : State :=
  let i := islandOf k h
  { s with gov := Sparse.put s.gov i (Sparse.get [] s.gov i ++ [⟨k, h.code, n, none⟩]) }

/-- LEAVE (R154): with n = 0, leave granted and not used goes back. -/
def execLeave (c : Ctl) (n : BitVec 8) (mask : BitVec 3) (s : State) : Host.Outcome State Fault Refusal :=
  s.issue (.leave c n mask)
    { allowed := .all
      check := fun _ => if mask = 0 then some { cause := .illop } else none
      effect := fun _ s =>
        if n = 0 then s.updCur fun c => (kindsOf mask).foldl (fun c h => c.setKept h 0) c
        else (kindsOf mask).foldl (fun s h => s.requestLeave s.k n.toNat h) s }

/-! ### The scheduler's registers (R412, R422, R429) -/

/-- A write of TQSPARE (R422): a new chain lets the waiting creations proceed; V = 0 with FAIL = 1 refuses them. -/
def State.writeTqspare (s : State) (p : Nat) (v : Word) : State :=
  let s := s.updPart p fun q => q.setTqspare v
  if bitOf v 0 then s.proceed p (s.part p).waiting.length
  else if bitOf v 1 then s.refuseWaiting p
  else s

/-- The order to pre-empt a task's gang: every core of it stops at its STOP points (R412). -/
def State.orderPreempt (s : State) (t : Task) : State :=
  s.forCores (s.coresOf t.seq) fun c => { c with preReq := true }

/-- A write of 1 to SCHCTL.PRE (R429): the frontier's gang is pre-empted when it is RUNNING. -/
def State.writePre (s : State) (p : Nat) : State :=
  match s.front p with
  | some t => if t.st = .running then (s.orderPreempt t).updPart p fun q => { q with pre := true } else s
  | none => s

/-- A write of SCHCTL (R429). -/
def State.writeSchctl (s : State) (p : Nat) (v : Word) : State :=
  let s := s.updPart p fun q => { q with hold := bitOf v 0 }
  if bitOf v 1 then s.writePre p else s

/-- A legal value written to a special register of partition `p` (R367, R368, R429). -/
def State.writePartSpecial (s : State) (p sel : Nat) (v : Word) : State :=
  if sel = 0x8002 then s.updPart p fun q => { q with specdepth := v }
  else if sel = 0x8003 then s.updPart p fun q => { q with vbquota := v }
  else if sel = 0x8004 then s.updPart p fun q => { q with reddl := v }
  else if sel = 0x8005 then s.updPart p fun q => { q with ptbase := v }
  else if sel = 0x8010 then s.writeTqspare p v
  else if sel = 0x8012 then s.writeSchctl p v
  else s

/-! ### MFS and MTS (R95 to R98, R156) -/

/-- A privileged selector (R95). -/
def privSel (sel : BitVec 16) : Bool := decide (0x8000 ≤ sel.toNat)

/-- MFS. -/
def execMfs (c : Ctl) (xd : Reg) (sel : BitVec 16) (s : State) : Host.Outcome State Fault Refusal :=
  s.issue (.mfs c xd sel)
    { allowed := .all
      priv := privSel sel
      uses := [xd]
      writes := [xd]
      check := fun s => if (s.special sel.toNat).isNone then some { cause := .illop } else none
      effect := fun wid s => s.result wid 2 xd ((s.special sel.toNat).getD 0) }

/-- MTS: a value that breaks a field's range, or sets a reserved bit, writes nothing. -/
def execMts (c : Ctl) (sel : BitVec 16) (xa : Reg) (s : State) : Host.Outcome State Fault Refusal :=
  s.issue (.mts c sel xa)
    { allowed := .all
      priv := privSel sel
      uses := [xa]
      reads := [xa]
      check := fun s => if specialOk sel.toNat (s.reg xa) = some true then none else some { cause := .illop }
      effect := fun _ s =>
        if sel.toNat < 0x8000 then s.setSpecial sel.toNat (s.reg xa)
        else s.writePartSpecial (s.partOf s.k) sel.toNat (s.reg xa) }

/-! ### EXIT and SYSC (R79, R80, R157, R159) -/

/-- Every context of the core has executed EXIT. -/
def CoreSt.allEnded (c : CoreSt) : Bool := c.cL.ended && c.cX.ended && c.cS.ended

/-- The core is DRAINING once every context has ended (R80). -/
def CoreSt.beginDrain (c : CoreSt) : CoreSt :=
  if c.allEnded && c.status == .active then { c with status := .draining } else c

/-- The context has ended (R79, R147, R157). -/
def CtxSt.exitNow (c : CtxSt) : CtxSt :=
  { c with loops := [], run := .exited, ended := true, blocked := false, pair := none }

/-- EXIT. -/
def execExit (c : Ctl) (s : State) : Host.Outcome State Fault Refusal :=
  s.issue (.exit c)
    { allowed := .all
      branch := true
      effect := fun _ s => (((s.drain s.k s.who.ctx).updMe CtxSt.exitNow).updCur CoreSt.beginDrain).haltDone s.k }

/-- SYSC (class T of R401): irrevocable; the word completes, then its context takes SYSC and would resume at the next
word. It is never deferred (R301). -/
def execSysc (c : Ctl) (service : BitVec 28) (s : State) : Host.Outcome State Fault Refusal :=
  s.issue (.sysc c service)
    { allowed := .all
      wait := fun s => s.frontWait true
      effect := fun _ s =>
        let m := s.me
        s.takeCause s.k s.who.ctx
          (s.record s.k s.who.ctx.code { cause := .sysc, info := zext service } false m.level m.pc m.advance.pc
            (wordOf (.sysc c service))) false }

/-! ### What the system words share (R369) -/

/-- A system word: PRIV at kernel level, and at supervisor level for a word marked M; irrevocable. -/
def sysIssue (monitor : Bool) (uses : List Reg) (check : State → Option Trap) (effect : Nat → State → State) : Issue :=
  { allowed := .all
    priv := true
    uses := uses
    check := fun s => if monitor && decide (s.me.level < 2) then some { cause := .priv } else check s
    wait := fun s => s.frontWait true
    effect := effect }

/-- A system word that waits for more. -/
def Issue.until (j : Issue) (p : State → Bool) : Issue := { j with wait := fun s => (j.wait s).and (.need (p s)) }

/-- The context's earlier stores are performed at a scope. -/
def State.storesAt (s : State) (scope : Nat) : Bool :=
  s.me.accq.all (fun a => !a.op.isStore) && s.fenceDone s.k s.who.ctx s.cur.nextId scope

/-- The state of a task with cores of its own (R370, R379). -/
def Task.busy (t : Task) : Bool := t.st == .placed || t.st == .running || t.st == .parked || t.st == .done

/-- The partition holds no task with cores of its own, except one of number `q`. -/
def State.quiet (s : State) (p q : Nat) : Bool := (s.domain p).all fun t => t.seq == q || !t.busy

/-! ### WSW (R370) -/

/-- The bank sets that a range of the Weight Store window meets, numbered 64d + b. -/
def banksOf (off n : Nat) : List Nat := (List.range ((off + n - 1) / 2 ^ 24 - off / 2 ^ 24 + 1)).map (off / 2 ^ 24 + ·)

/-- A bank set is in the partition's window (R367). -/
def Part.hasBank (p : Part) (b : Nat) : Bool := decide (b < 384) && bitOf (p.reg (24 + b / 64)) (b % 64)

/-- The checks of WSW. -/
def State.wswTrap (s : State) (src off n : Word) : Option Trap :=
  match [src, off, n].find? fun v => v.toNat % 64 != 0 with
  | some v => some { cause := .align, addr := v }
  | none =>
    if n = 0 ∨ 2 ^ 30 < n.toNat then some { cause := .illop }
    else if (banksOf off.toNat n.toNat).all (s.part (s.partOf s.k)).hasBank then none
    else some { cause := .prot, addr := off }

/-- Write bytes into the window. -/
def State.wswWrite (s : State) (wid off : Nat) (bs : List Byte) : State :=
  s.devWrite s.k s.who.ctx wid true ⟨3, off⟩ (((s.part (s.partOf s.k)).reg 9).toNat + off) bs

/-- WSW: the copy is one step (assumption 13), while no other task of the partition is placed. -/
def execWsw (c : Ctl) (xa xb xc : Reg) (s : State) : Host.Outcome State Fault Refusal :=
  s.issue (.wsw c xa xb xc)
    { (sysIssue false [xa, xb, xc] (fun s => s.wswTrap (s.reg xa) (s.reg xb) (s.reg xc)) fun wid s =>
        match s.superRead (s.reg xa).toNat (s.reg xc).toNat with
        | .ok bs notes => (s.note s.k notes).wswWrite wid (s.reg xb).toNat bs
        | _ => s).until fun s =>
          s.quiet (s.partOf s.k) s.cur.task &&
            (banksOf (s.reg xb).toNat (s.reg xc).toNat).all (fun b => s.portOpen ⟨3, b * 2 ^ 24⟩) &&
            !(s.superRead (s.reg xa).toNat (s.reg xc).toNat).waits with
      late := fun s => (s.superRead (s.reg xa).toNat (s.reg xc).toNat).trap }

/-! ### PTBW (R317, R371) -/

/-- Base of the probe table; none when PTBASE is 0. -/
def State.probeBase (s : State) : Option Nat :=
  let v := field (s.part (s.partOf s.k)).ptbase 6 46 * 64
  if v = 0 then none else some v

/-- Word `i` of 64 bytes. -/
def word64 (bs : List Byte) (i : Nat) : Nat := bytesToNat ((bs.drop (8 * i)).take 8)

/-- A probe entry that PTBW refuses. -/
def probeBad (bs : List Byte) : Bool :=
  let w := word64 bs 2
  w / 2 ^ 16 % 4 == 3 || w % 2 ^ 16 == 0 || w % 16 != 0 || w / 2 ^ 19 % 2 ^ 44 != 0 ||
    [3, 4, 5, 6, 7].any fun i => word64 bs i != 0

/-- A header with a reserved bit set. -/
def probeHdrBad (bs : List Byte) : Bool := word64 bs 1 / 2 ^ 32 != 0 || [2, 3, 4, 5, 6, 7].any fun i => word64 bs i != 0

/-- The 64 bytes at a scratchpad offset. -/
def State.blockAt (s : State) (off : Word) : List Byte := s.xsp.bytes off.toNat 64

/-- The checks of PTBW. -/
def State.ptbwTrap (s : State) (off : Word) (bad : List Byte → Bool) : Option Trap :=
  if off.toNat % 64 ≠ 0 then some { cause := .align, addr := off }
  else if spSize < off.toNat + 64 then some { cause := .sprng, addr := off }
  else if s.probeBase.isNone || bad (s.blockAt off) then some { cause := .illop }
  else none

/-- Write 64 bytes with the rights of supervisor level. -/
def State.superPlace (s : State) (va : Nat) : Lk Loc :=
  match s.translate s.k ⟨true, false⟩ va with
  | .ok l => if s.portOpen l then .ok l [] else .wait
  | .wait => .wait
  | .bad c m => .bad va c m []

/-- The place that a word writes through supervisor rights is not there yet. -/
def State.ptbwAt (s : State) (o : Nat) : Lk Loc := s.superPlace (s.probeBase.getD 0 + o)

/-- The earlier stores of the context, and those of its core to the same bytes, are out of the way of a word's own write of `n`
bytes (R345). -/
def State.wayFree (s : State) (l : Loc) (n : Nat) : Bool :=
  s.me.accq.all (fun a => !a.op.isStore) && !s.cur.postedMeets l n

/-- Updates of replicated pages by the word that has just issued are not yet applied on every die: the word retires with the last one
(R353, R369). -/
def State.sequencing (s : State) : Bool :=
  s.seqLog.any fun u => u.core == s.k && u.ctx == s.who.ctx && u.wid + 1 == s.cur.nextId

/-- The place of a write is there, and nothing stands before it. -/
def State.ptbwFree (s : State) (o : Nat) : Bool :=
  match s.ptbwAt o with
  | .ok l _ => s.wayFree l 64
  | x => !x.waits

/-- PTBW and PTBW.H: one block, written at device scope before the word retires; `o` is its place in the table. -/
def ptbwIssue (xa : Reg) (bad : List Byte → Bool) (o : Nat) : Issue :=
  { (sysIssue false [xa] (fun s => s.ptbwTrap (s.reg xa) bad) fun wid s =>
      match s.ptbwAt o with
      | .ok l _ => s.devWrite s.k s.who.ctx wid true l (s.probeBase.getD 0 + o) (s.blockAt (s.reg xa))
      | _ => s).until fun s => s.ptbwFree o with
    hold := true
    holdIf := State.sequencing
    late := fun s => (s.rangeLost (s.reg xa).toNat 64).or (s.ptbwAt o).trap }

/-- PTBW (R371). -/
def execPtbw (c : Ctl) (xa : Reg) (idx : BitVec 6) (s : State) : Host.Outcome State Fault Refusal :=
  s.issue (.ptbw c xa idx) (ptbwIssue xa probeBad (64 + 64 * idx.toNat))

/-- PTBW.H (R371). -/
def execPtbwH (c : Ctl) (xa : Reg) (s : State) : Host.Outcome State Fault Refusal :=
  s.issue (.ptbwH c xa) (ptbwIssue xa probeHdrBad 0)

/-! ### TLBI (R372, R399) -/

/-- TLBI: behind the context's stores, and behind every access already translated. -/
def tlbiIssue (uses : List Reg) (what : State → Shoot) : Issue :=
  (sysIssue false uses (fun _ => none) fun _ s => s.shoot (s.partOf s.k) (what s)).until fun s =>
    s.storesAt 2 && !s.translated (s.partOf s.k) (what s)

/-- TLBI.PG. -/
def execTlbiPg (c : Ctl) (xa : Reg) (s : State) : Host.Outcome State Fault Refusal :=
  s.issue (.tlbiPg c xa) (tlbiIssue [xa] fun s => .page (s.reg xa).toNat)

/-- TLBI.BLK. -/
def execTlbiBlk (c : Ctl) (xa : Reg) (s : State) : Host.Outcome State Fault Refusal :=
  s.issue (.tlbiBlk c xa) (tlbiIssue [xa] fun s => .block (s.reg xa).toNat)

/-- TLBI.ALL. -/
def execTlbiAll (c : Ctl) (s : State) : Host.Outcome State Fault Refusal :=
  s.issue (.tlbiAll c) (tlbiIssue [] fun _ => .all)

/-! ### QUAR (R315, R316, R373) -/

/-- The address of the entry of the partition's quarantine table that QUAR of core `k` updates; none where it has no
table, or the core has no batch table bound. -/
def State.quarEntry (s : State) (p k : Nat) : Option Nat :=
  match s.qtab p, (s.core k).batch with
  | some q, some t => some (q + 32 * tabBatch (s.core k).sp t)
  | _, _ => none

/-- The place of that entry. -/
def State.quarAt (s : State) (k : Nat) : Lk (Option (Nat × Loc)) :=
  match s.quarEntry (s.partOf s.k) k with
  | none => .ok none []
  | some va => (s.superPlace va).andThen fun l => .ok (some (va, l)) []

/-- The entry with rows added. -/
def orRows (bs : List Byte) (rows : BitVec 256) : List Byte := leBytes 32 (bytesToNat bs ||| rows.toNat)

/-- The rows join the entry, by a store of the issuing task. -/
def State.quarStore (s : State) (wid : Nat) (rows : BitVec 256) (e : Option (Nat × Loc)) : State :=
  match e with
  | none => s
  | some (va, l) => s.devWrite s.k s.who.ctx wid true l va (orRows (s.portBytes l 32) rows)

/-- The entry's place is there, and nothing stands before the write. -/
def State.quarFree (s : State) (k : Nat) : Bool :=
  match s.quarAt k with
  | .ok (some e) _ => s.wayFree e.2 32
  | x => !x.waits

/-- QUAR. -/
def execQuar (c : Ctl) (xa xb : Reg) (w : BitVec 2) (s : State) : Host.Outcome State Fault Refusal :=
  s.issue (.quar c xa xb w)
    { (sysIssue false [xa, xb] (fun s =>
          if 383 < (s.reg xa).toNat then some { cause := .illop }
          else if s.owns (s.partOf s.k) (s.reg xa).toNat then none
          else some { cause := .prot, addr := s.reg xa }) fun wid s =>
        let k := (s.reg xa).toNat
        let rows := rowsAt w.toNat (s.reg xb).toNat
        match s.quarAt k with
        | .ok e _ => (s.updCore k fun c => c.quarantine rows).quarStore wid rows e
        | _ => s).until fun s => s.quarFree (s.reg xa).toNat with
      hold := true
      holdIf := State.sequencing
      late := fun s => (s.quarAt (s.reg xa).toNat).trap }

/-! ### SLOTW (R367, R374) -/

/-- A slot-table entry with a reserved bit set. -/
def slotBad (v : BitVec 16) : Bool := field v 12 3 != 0 || field v 4 3 != 0

/-- SLOTW: the entry waits for the next frame boundary, and the word retires there (R369). -/
def execSlotw (c : Ctl) (xa : Reg) (n : BitVec 6) (s : State) : Host.Outcome State Fault Refusal :=
  s.issue (.slotw c xa n)
    { sysIssue true [xa] (fun s => if slotBad (BitVec.ofNat 16 (s.reg xa).toNat) then some { cause := .illop } else none)
        fun wid s =>
          { s with slotNew := s.slotNew ++ [⟨n.toNat, BitVec.ofNat 16 (s.reg xa).toNat, s.k, s.who.ctx, wid⟩] } with
      hold := true }

/-! ### BMAPW (R375) -/

/-- The granules of a run that lie in its pool; PART selects the pool. -/
def State.poolRun (s : State) (b : Berth) : List Nat :=
  ((List.range b.count).filter fun i => decide (b.gran + i < field ((s.part b.part).reg (16 + b.stack)) 0 24)).map
    (s.granule b)

/-- A name that names no run: a reserved bit is set, or there is no such partition (assumption 36). -/
def bmapwTrap (w : Word) : Option Trap :=
  match berthOf w with
  | some b => if b.part < 16 then none else some { cause := .prot, addr := w }
  | none => some { cause := .prot, addr := w }

/-- Change the record of every granule of a run. -/
def State.mapRun (s : State) (w : Word) (f : Gran → Gran) : State :=
  match berthOf w with
  | some b => (s.poolRun b).foldl (fun s g => s.setGran b.stack g (f (s.gran b.stack g))) s
  | none => s

/-- BMAPW.FREE. -/
def execBmapwFree (c : Ctl) (xa : Reg) (s : State) : Host.Outcome State Fault Refusal :=
  s.issue (.bmapwFree c xa)
    (sysIssue true [xa] (fun s => bmapwTrap (s.reg xa)) fun _ s => s.mapRun (s.reg xa) fun g => { g with share := 0 })

/-- BMAPW.SET. -/
def execBmapwSet (c : Ctl) (xa xb : Reg) (s : State) : Host.Outcome State Fault Refusal :=
  s.issue (.bmapwSet c xa xb)
    (sysIssue true [xa, xb] (fun s => if field (s.reg xb) 0 8 = 0 then some { cause := .illop } else bmapwTrap (s.reg xa))
      fun _ s => s.mapRun (s.reg xa) fun _ => ⟨field (s.reg xb) 0 8, field (s.reg xb) 16 16⟩)

/-! ### HALT and RESUME (R376, R415) -/

/-- HALT: the word retires when the core has halted. -/
def execHalt (c : Ctl) (xa : Reg) (s : State) : Host.Outcome State Fault Refusal :=
  s.issue (.halt c xa)
    { sysIssue false [xa] (fun s =>
        if (s.reg xa).toNat = s.k then some { cause := .illop }
        else if s.owns (s.partOf s.k) (s.reg xa).toNat then none
        else some { cause := .prot, addr := s.reg xa }) fun wid s =>
        let k := (s.reg xa).toNat
        if (s.core k).halted then s
        else
          (s.updCore k fun c => { c with haltReq := true, haltBy := c.haltBy ++ [⟨s.k, s.who.ctx, wid⟩] }).haltDone k with
      hold := true
      holdIf := fun s => !(s.core (s.reg xa).toNat).halted }

/-- A context that HALT stopped continues, unless a pre-emption holds it. -/
def CtxSt.unhalt (c : CtxSt) : CtxSt :=
  match c.run with
  | .held => c.resumeAt c.pc
  | _ => c

/-- The task of a core is parked, so its contexts stay stopped (R301). -/
def State.isParked (s : State) (k : Nat) : Bool :=
  match s.taskOf k with
  | some t => t.st == .parked
  | none => false

/-- What a write of the supervisor does to a halted core (R413, R415). A counter, a position and a stack keep within their
sizes; x0 stays 0. -/
def CoreSt.patch (c : CoreSt) (w : HaltWrite) : CoreSt :=
  match w with
  | .reg x n v => c.updCtx x fun m => m.setReg n v
  | .mode x pc exposed slack level =>
    c.updCtx x fun m => { m with pc := pc % m.wwords, exposed := exposed, slack := slack % 16, level := level % 3 }
  | .flags x o f => c.updCtx x fun m => { m with spaceovr := o, sflags := f }
  | .loops x l => c.updCtx x fun m => { m with loops := l.take 4 }
  | .halt x ws => c.updCtx x fun m => m.haltFrom fun i => (ws.getD (i / 8) 0).toNat
  | .frame x f => c.updCtx x fun m => { m with frame := f }
  | .fifos x p n => c.updCtx x fun m => { m with fifoP := p, fifoN := n }
  | .tk n t => if 1 ≤ n ∧ n ≤ 31 then c.setTk n { t with count := t.count % 65536 } else c
  | .cqs x p n => c.updCtx x fun m => { m with cqP := p.take 32, cqN := n.take 32 }
  | .ring n r => { c with rings := Sparse.put c.rings n r }
  | .mq n r => { c with mqs := Sparse.put c.mqs n r }
  | .fq l m => { c with fq := l.take 32, emode := m }
  | .sc n v => { c with sc := Sparse.set 0 c.sc (n % 16) v }
  | .ct n v => { c with ct := Sparse.set 0 c.ct (n % 32) v }
  | .nest n v => c.setNest (n % 6) v
  | .ex n a => c.setExa (n % 64) a
  | .tile n cf f sat m => c.setTile (n % 16) { c.tile (n % 16) with cfmt := cf, ofmt := f, osat := sat, mode := m }
  | .masks b q l => { c with batch := b, qmask := q, lsup := l }
  | .dir q n i => if q < 640 then c.setQueue q { c.queue q with els := (c.fileEls.drop i).take (min n (c.queue q).depth) } else c
  | .cmd i w r => match c.unstarted.drop i with | u :: _ => c.rewriteCmd u.id w r | [] => c
  | .slot n b => { c with slots := match b with | some b => Sparse.put c.slots (n % 64) b | none => Sparse.erase c.slots (n % 64) }

/-- The supervisor writes a halted core's state; the write takes effect at RESUME (R415). -/
def State.haltedWrite (s : State) (k : Nat) (w : HaltWrite) : State :=
  if (s.core k).halted then s.updCore k fun c => { c with patches := c.patches ++ [w] } else s

/-- The contexts of a halted core continue, and what the supervisor wrote takes effect (R376, R415). -/
def State.unhalt (s : State) (k : Nat) : State :=
  if (s.core k).halted then
    let parked := s.isParked k
    s.updCore k fun c =>
      let c := { c.patches.foldl CoreSt.patch c with halted := false, patches := [] }
      if c.preReq || parked then c else { c with cL := c.cL.unhalt, cX := c.cX.unhalt, cS := c.cS.unhalt }
  else s

/-- RESUME. -/
def execResume (c : Ctl) (xa : Reg) (s : State) : Host.Outcome State Fault Refusal :=
  s.issue (.resume c xa)
    (sysIssue false [xa] (fun s =>
        if s.owns (s.partOf s.k) (s.reg xa).toNat then none else some { cause := .prot, addr := s.reg xa }) fun _ s =>
      s.unhalt (s.reg xa).toNat)

/-! ### ERET (R377, R409) -/

/-- A context goes on after a cause was answered: a queue that halted at a failed access replays it (R393). -/
def CtxSt.dropHalt (c : CtxSt) : CtxSt := { c with accHalt := none }

/-- The context ends its reflection frame, after what the word does as a closing word (R146). -/
def CtxSt.eret (c : CtxSt) : CtxSt :=
  match c.frame with
  | some f => (c.advance.reflectReturn f).dropHalt
  | none => c

/-- A context goes on with no reflection active: the fault that stopped it has been serviced, or its handler has returned, and the
matrix engine goes on behind a fault that X's command raised at the head (R211). -/
def State.handlerDone (s : State) (k : Nat) (x : Ctx) : State :=
  if x = .X && (s.core k).matHold && (s.ctxOf k x).frame.isNone && (s.ctxOf k x).attached.isEmpty then
    s.updCore k fun c => { c with matHold := false }
  else s

/-- ERET. -/
def execEret (c : Ctl) (s : State) : Host.Outcome State Fault Refusal :=
  s.issue (.eret c)
    { sysIssue false [56, 57, 58, 59] (fun s => if s.me.frame.isNone then some { cause := .illop } else none) fun _ s =>
        (s.updMe CtxSt.eret).handlerDone s.k s.who.ctx with
      goes := true }

/-! ### IPI (R378) -/

/-- An interrupt at a landing processor, or at the host as MSI-X on port 0. -/
def State.interrupt (s : State) (target code : Nat) : State :=
  if target = 6 then { s with msix := s.msix ++ [(0, code)] } else { s with lpInts := s.lpInts ++ [(target, code)] }

/-- IPI. -/
def execIpi (c : Ctl) (xa : Reg) (code : BitVec 12) (s : State) : Host.Outcome State Fault Refusal :=
  s.issue (.ipi c xa code)
    ((sysIssue false [xa] (fun s => if 6 < (s.reg xa).toNat then some { cause := .illop } else none) fun _ s =>
        s.interrupt (s.reg xa).toNat code.toNat).until fun s => s.storesAt (if (s.reg xa).toNat = 6 then 3 else 2))

/-! ### PARTW (R367, R379, R382, R406, R442) -/

/-- The pool of a value: first granule and count. -/
def poolOf (v : Word) : Nat × Nat := (field v 24 24, field v 0 24)

/-- Partition `p`'s pool on a stack meets a pool. -/
def State.poolMeets (s : State) (p stack : Nat) (r : Nat × Nat) : Bool :=
  let q := poolOf ((s.part p).reg (16 + stack))
  meets q.1 q.2 r.1 r.2

/-- A granule that leaves a pool is allocated. -/
def State.poolLoses (s : State) (p stack : Nat) (r : Nat × Nat) : Bool :=
  let q := poolOf ((s.part p).reg (16 + stack))
  (List.range q.2).any fun i =>
    !(decide (r.1 ≤ q.1 + i) && decide (q.1 + i < r.1 + r.2)) && (s.gran stack (q.1 + i)).share != 0

/-- Partitions other than `p`. -/
def otherParts (p : Nat) : List Nat := (List.range 16).filter (· != p)

/-- With a pool, partition `p` would bring the stack past the granules that PARTW may place in pools (R456; assumption 55). DEDUCED -/
def State.poolsPass (s : State) (p stack : Nat) (r : Nat × Nat) : Bool :=
  decide (Config.berthLimit < ((otherParts p).map fun q => (poolOf ((s.part q).reg (16 + stack))).2).sum + r.2)

/-- The windows of a partition with these bases overlap (R387). -/
def windowsClash (b w : Nat) : Bool := b != 0 && w != 0 && meets b (2 ^ 39) w (6 * 2 ^ 30)

/-- A value of register `sel` of partition `p` that PARTW refuses, by the register's own layout and R379. -/
def State.partBad (s : State) (p sel : Nat) (v : Word) : Bool :=
  if sel < 6 then (otherParts p).any fun q => (v &&& (s.part q).reg sel) != 0
  else if sel = 8 then field v 0 39 != 0 || field v 52 12 != 0 || windowsClash v.toNat ((s.part p).reg 9).toNat
  else if sel = 9 then field v 0 33 != 0 || field v 52 12 != 0 || windowsClash ((s.part p).reg 8).toNat v.toNat
  else if sel = 10 then
    field v 46 17 != 0 || field v 1 15 != 0 || (!bitOf v 0 && field v 16 5 != 0) || !hbmOk (entryNode v)
  else if sel = 11 then
    field v 46 18 != 0 || field v 4 12 != 0 || field v 16 30 * 2 ^ 16 % (2 ^ field v 0 4 * 2 ^ 16) != 0 || !hbmOk (entryNode v)
  else if sel = 13 then decide (2 ^ 28 ≤ v.toNat) || !hbmOk (v.toNat * 4096)
  else if sel = 15 then field v 0 6 != 0 || field v 52 12 != 0
  else if 16 ≤ sel ∧ sel < 24 then
    field v 48 16 != 0 || (otherParts p).any (fun q => s.poolMeets q (sel - 16) (poolOf v)) || s.poolLoses p (sel - 16) (poolOf v) ||
      s.poolsPass p (sel - 16) (poolOf v)
  else !(decide (24 ≤ sel) && decide (sel < 30))

/-- RESERVING tasks of a partition that count on a core which is no longer its own give up their reservations and wait again, but for
the one with the smallest order key, which revocation never reaches (R418, R426, R427; assumption 40). DEDUCED -/
def State.dropStrays (s : State) (p : Nat) : State :=
  let first := (s.firstReserving p).map (·.seq)
  ((s.domain p).filter fun t => t.st == .reserving && !t.target.all (s.owns p)).foldl
    (fun s t => if some t.seq = first then s.retarget t else s.revoke t) s

/-- The pages of a partition's berth window lie where the window puts them, after a change of the window or of its pools
(assumption 30). -/
def State.unmove (s : State) (p : Nat) : State := { s with moved := s.moved.filter fun m => m.part != p }

/-- Write a partition register. -/
def State.writePart (s : State) (p sel : Nat) (v : Word) : State :=
  let s := s.updPart p fun q => { q with regs := Sparse.set 0 q.regs sel v }
  if sel < 6 then s.dropStrays p
  else if sel = 8 ∨ (16 ≤ sel ∧ sel < 24) then s.unmove p
  else s

/-- PARTW. -/
def execPartw (c : Ctl) (xa xb : Reg) (sel : BitVec 5) (s : State) : Host.Outcome State Fault Refusal :=
  s.issue (.partw c xa xb sel)
    ((sysIssue true [xa, xb] (fun s =>
        let p := (s.reg xa).toNat
        if 15 < p ∨ p = s.partOf s.k ∨ s.partBad p sel.toNat (s.reg xb) then some { cause := .illop } else none) fun _ s =>
      s.writePart (s.reg xa).toNat sel.toNat (s.reg xb)).until fun s => s.quiet (s.reg xa).toNat 0)

/-! ### ISLW (R380) -/

/-- Write an island's limits. -/
def State.writeIsland (s : State) (n : Nat) (v : Word) : State :=
  { s with isl := Sparse.put s.isl n (clampIsland (Config.islRecord n) v) }

/-- ISLW. -/
def execIslw (c : Ctl) (xa xb : Reg) (s : State) : Host.Outcome State Fault Refusal :=
  s.issue (.islw c xa xb)
    (sysIssue true [xa, xb] (fun s => if 31 < (s.reg xa).toNat then some { cause := .illop } else none) fun _ s =>
      s.writeIsland (s.reg xa).toNat (s.reg xb))

end Sys2Proof.Machine
end

