-- ==== Sys2Proof/Machine/Supervise.lean ====
section
/-! DEFINITION. Writes that land and words that retire; forced STOP points, DEADLK, translation service, and the
supervisor's answers to a cause (R66, R69, R72 to R75, R388, R391 to R394, R404 to R411, R417). -/

namespace Sys2Proof.Machine

open Sys2Proof

/-! ### Writes in flight and retirement -/

/-- Two writes in flight that land in program order in interlocked mode: entries of one control queue, effects on the exact
accumulators, scratch moves. -/
def Landing.sameKind : Landing → Landing → Bool
  | .cq a _, .cq b _ => a == b
  | .exAdd _, .exAdd _ => true
  | .exAdd _, .exClr _ _ => true
  | .exClr _ _, .exAdd _ => true
  | .exClr _ _, .exClr _ _ => true
  | .scratch _ _, .scratch _ _ => true
  | _, _ => false

/-- No earlier word's write of the same kind is still in flight. -/
def CtxSt.firstOfKind (c : CtxSt) (f : Flight) : Bool :=
  (c.flights.takeWhile fun g => g.wid != f.wid).all fun g => !g.land.sameKind f.land

/-- WRITE_IN_FLIGHT_COMPLETES (R66, R73 to R75): in interlocked mode the word's writes land; in exposed mode they land by
issue cycles, and here the word's signals leave when nothing of it is in flight any more. -/
def execWriteInFlightCompletes (k : Nat) (ctx : Ctx) (wid : Nat) (s : State) : Host.Outcome State Fault Refusal :=
  if 384 ≤ k then .fault .noSuchCore
  else
    let c := s.ctxOf k ctx
    let s := if c.exposed then s else s.landWhere k ctx fun f => f.wid == wid && c.firstOfKind f
    .next (s.releaseWid k ctx wid)

/-! ### STOP points and DEADLK -/

/-- FORCED_STOP_POINT (R72): 48 words without STOP have issued and the next word has none either. -/
def execForcedStopPoint (k : Nat) (ctx : Ctx) (s : State) : Host.Outcome State Fault Refusal :=
  if 384 ≤ k then .fault .noSuchCore
  else
    let c := s.ctxOf k ctx
    if c.run = .running ∧ c.forcedDue (bitOf ((s.core k).nextWord ctx) 63) ∧ (s.core k).settled ctx then
      .next (s.forceStop k ctx)
    else .next s

/-- A context's access queue holds no memory access, and none of its other entries is about to take its effect: only an unpaired
MARK of L, and what it holds back, may stand there (R69, R238). -/
def State.accStill (s : State) (k : Nat) (x : Ctx) : Bool :=
  (s.ctxOf k x).accq.all fun a => !(a.op.isLoad || a.op.isStore) && !s.entryReady k x a

/-- Nothing of the core is pending, and no message is on its way to it (R69). -/
def State.coreQuiet (s : State) (k : Nat) : Bool :=
  let c := s.core k
  s.accStill k .L && s.accStill k .S && c.transfers.isEmpty && c.matq.isEmpty && c.ladq.isEmpty && c.genq.isEmpty &&
    c.posted.isEmpty && c.msgs.isEmpty && s.seqLog.all (fun u => u.core != k) &&
    s.cores.all fun e => e.2.transfers.all fun x =>
      match x.op with
      | .red _ | .msend =>
        match s.target e.1 x.rcd with
        | .at t => t != k
        | .later t => t != k
        | .none => true
      | _ => true

/-- The contexts that have not executed EXIT. -/
def CoreSt.unended (c : CoreSt) : List Ctx := [Ctx.L, .X, .S].filter fun x => !(c.ctx x).ended

/-- Every context that has not executed EXIT is blocked in a way that R69 counts. -/
def CoreSt.deadlocked (c : CoreSt) : Bool :=
  !c.unended.isEmpty &&
    c.unended.all fun x => (c.ctx x).run == .running && (c.ctx x).blocked && (c.ctx x).attached.isEmpty && c.starved.contains x

/-- No write in flight of the core lands any more, and no signal is about to leave. -/
def CoreSt.landedAll (c : CoreSt) : Bool :=
  [Ctx.L, .X, .S].all fun x =>
    ((c.ctx x).exposed || (c.ctx x).flights.isEmpty) && (c.ctx x).sigs.all fun g => !(c.ctx x).releasable x g

/-- The condition of R69 holds for core `k`. -/
def State.stands (s : State) (k : Nat) : Bool :=
  let c := s.core k
  c.status == .active && c.deadlocked && !c.mustStop && c.landedAll && s.coreQuiet k

/-- A context stops before its blocked word with the core's DEADLK (R411). -/
def State.deadCtx (s : State) (k : Nat) (r : FaultRecord) (x : Ctx) : State :=
  (s.drain k x).updCtx k x fun c => { c with run := .trapped { r with resume := c.pc }, blocked := false, pair := none }

/-- INFO of DEADLK: the contexts that stop. -/
def CoreSt.deadInfo (c : CoreSt) : Word := w64 ((c.unended.map fun x => 2 ^ x.code).sum)

/-- DEADLK (R69, R411): one cause for the core, once R69's condition has held for 2^20 cycles. -/
def execDeadlk (k : Nat) (s : State) : Host.Outcome State Fault Refusal :=
  if 384 ≤ k then .fault .noSuchCore
  else
    let c := s.core k
    if s.stands k ∧ 2 ^ 20 ≤ c.still then
      let r := s.coreRecord k .deadlk c.deadInfo
      match s.taskOf k with
      | some t =>
        if t.spec then .next (s.park t r) else .next (c.unended.foldl (fun s x => s.deadCtx k r x) (s.log r))
      | none => .next (c.unended.foldl (fun s x => s.deadCtx k r x) (s.log r))
    else .next s

/-! ### TLBs (R388, R389) -/

/-- A translation enters a TLB of `cap` entries; the victim is free (assumption 16). -/
def tlbInsert (cap victim : Nat) (t : TlbEntry) (l : List TlbEntry) : List TlbEntry :=
  let l := l.filter fun e => !(e.part == t.part && e.win == t.win && e.block == t.block && e.vpn == t.vpn)
  (if cap ≤ l.length then l.eraseIdx (victim % cap) else l) ++ [t]

/-- The translation of a window that a first-level TLB may hold (R387). -/
def State.windowEntry (s : State) (p va : Nat) : Option TlbEntry :=
  match s.windowPlace p va with
  | .ok l => some ⟨p, true, false, va / 4096, w64 (l.space * 2 ^ 60 + (l.addr - va % 4096))⟩
  | .error _ => none

/-- The pointers and directory entries that a walk reads on its way to an address (R383, R385), as the walker sees them. -/
def State.walkEntries (s : State) (die p va : Nat) : List WalkEntry :=
  let rd := fun (shift pa : Nat) => (s.kept die p va shift).getD (s.entry pa)
  let root := (s.part p).reg 10
  let mk := fun (shift : Nat) (w : Word) => (⟨p, shift, va / 2 ^ shift, w⟩ : WalkEntry)
  let i1 := va / 2 ^ 34 % 2 ^ 18
  let i2 := va / 2 ^ 16 % 2 ^ 18
  let top := rd 47 (entryNode root + 8 * (i1 / 2 ^ 13))
  let e := rd 34 (if bitOf root 0 then entryNode top + 8 * (i1 % 2 ^ 13) else entryNode root + 8 * i1)
  let dir := rd 29 (entryNode e + 8 * (i2 / 2 ^ 13))
  (if bitOf root 0 then [mk 47 top] else []) ++ (if entryType e = 1 ∨ entryType e = 2 then [mk 34 e] else []) ++
    (if entryType e = 2 then [mk 29 dir] else [])

/-- A die's walker keeps entries that it has read, in place of the ones it had for the same addresses; which it keeps is free (R388;
assumption 16). -/
def State.keepWalk (s : State) (die p va : Nat) : State :=
  let new := ((s.walkEntries die p va).zip (List.range 3)).filter fun e => s.freeVal (25 + e.2) % 2 == 1
  if new.isEmpty then s
  else
    let old := (Sparse.get [] s.walks die).filter fun w =>
      !(new.any fun e => e.1.part == w.part && e.1.shift == w.shift && e.1.key == w.key)
    { s with walks := Sparse.put s.walks die (old ++ new.map Prod.fst) }

/-- A translation enters the first-level TLB of a core, if the device keeps it there. -/
def State.keepFirst (s : State) (k : Nat) (t : TlbEntry) : State :=
  if s.freeVal 21 % 2 = 1 then s.updCore k fun c => { c with tlb := tlbInsert 192 (s.freeVal 22) t c.tlb } else s

/-- A translation enters the second-level TLB of a die, if the device keeps it there. -/
def State.keepSecond (s : State) (die : Nat) (t : TlbEntry) : State :=
  if s.freeVal 23 % 2 = 1 then
    { s with tlb2 := Sparse.put s.tlb2 die (tlbInsert 16384 (s.freeVal 24) t (Sparse.get [] s.tlb2 die)) }
  else s

/-- TLB_WALK (R385, R387, R388): a walk that finds a valid leaf may be kept by the TLBs of the core and of its die, and its pointers by
the die's walker; a window's translation by the core's first-level TLB. -/
def execTlbWalk (k va : Nat) (s : State) : Host.Outcome State Fault Refusal :=
  if 384 ≤ k then .fault .noSuchCore
  else if !s.hbmServed || (s.core k).status == .free then .next s
  else
    let p := s.partOf k
    if (s.part p).inWindow va then
      match s.windowEntry p va with
      | some t => .next (s.keepFirst k t)
      | none => .next s
    else
      match s.walkOn (dieOf k) p va with
      | .leaf w block =>
        if leafMig w then .next s
        else
          let t : TlbEntry := ⟨p, false, block, va / (if block then 2 ^ 34 else 2 ^ 16), w⟩
          .next (((s.keepWalk (dieOf k) p va).keepFirst k t).keepSecond (dieOf k) t)
      | _ => .next s

/-! ### Translation service (R391, R393) -/

/-- The page that a part of a word at issue cannot be translated at. -/
def Lk.xlate {α : Type} : Lk α → Option (Nat × Bool)
  | .bad va c m _ => if c = .xlate then some (va, m) else none
  | _ => none

/-- The page that the word at the PC of the issuing context waits for at issue. -/
def State.issueFault (s : State) : Option (Nat × Bool) :=
  match decode s.wordAtPc with
  | .ok (.tapchk _ xb first cnt) => (s.tapPlan (s.reg xb).toNat first.toNat (cnt.toNat + 1)).xlate
  | .ok (.tapchkBind _ xa) => (s.tableRows (s.reg xa).toNat).xlate
  | .ok (.wsw _ xa _ xc) => (s.superRead (s.reg xa).toNat (s.reg xc).toNat).xlate
  | .ok (.ptbw _ _ i) => (s.ptbwAt (64 + 64 * i.toNat)).xlate
  | .ok (.ptbwH _ _) => (s.ptbwAt 0).xlate
  | .ok (.quar _ xa _ _) => (s.quarAt (s.reg xa).toNat).xlate
  | _ => none

/-- XLATE of a page that could not be mapped, delivered at the word that is blocked on it. -/
def State.serveIssue (s : State) (k : Nat) (x : Ctx) : State :=
  if h : k < 384 then
    let c := s.ctxOf k x
    if c.run = .running ∧ c.blocked then
      match ({ s with who := ⟨⟨k, h⟩, x⟩ } : State).issueFault with
      | some (va, m) => s.attach k x { cause := .xlate, addr := w64 va, malf := m } false c.pc ((s.core k).nextWord x)
      | none => s
    else s
  else s

/-- The landing processor walks the table again before it maps a page (R393 step 1): the walk now succeeds. -/
def State.walksNow (s : State) (k va : Nat) : Bool :=
  let p := s.partOf k
  if (s.part p).inWindow va then
    match s.translate k ⟨false, false⟩ va with
    | .bad .xlate _ => false
    | _ => true
  else
    match s.walk p va with
    | .leaf w block => match s.reach (leafPlace w block ⟨false, false⟩ va) with | .bad .xlate _ => false | _ => true
    | _ => false

/-- A halted part replays: its page has been mapped, or a new walk finds that it is (R393). -/
def State.replays (s : State) (k : Nat) (h : Halt) (mapped : Bool) : Bool := mapped || s.walksNow k h.va

/-- The service of a halted access queue. -/
def State.serveAccess (s : State) (k : Nat) (x : Ctx) (mapped : Bool) : State :=
  match (s.ctxOf k x).accHalt with
  | none => s
  | some h =>
    if h.failed.isSome then s
    else if s.replays k h mapped then s.updCtx k x CtxSt.dropHalt
    else
      match (s.ctxOf k x).accq.find? fun a => a.wid == h.wid with
      | some a => s.failAccess k x a { cause := .xlate, addr := w64 h.va, malf := h.malf }
      | none => s.updCtx k x CtxSt.dropHalt

/-- The service of a halted engine command. -/
def State.serveEng (s : State) (k id : Nat) (mapped : Bool) : State :=
  match (s.core k).eng? id with
  | none => s
  | some e =>
    match e.halt with
    | none => s
    | some h =>
      let on := s.replays k h mapped
      let s := s.updEng k id fun e => { e with halt := none }
      if on then s else s.failEng k id { cause := .xlate, addr := w64 h.va, malf := h.malf }

/-- The service of a halted ladder command. -/
def State.serveLad (s : State) (k id : Nat) (mapped : Bool) : State :=
  match (s.core k).ladq.find? fun m => m.id == id with
  | none => s
  | some m =>
    match m.halt with
    | none => s
    | some h =>
      let on := s.replays k h mapped
      let s := s.updLad k id fun m => { m with halt := none }
      if on then s else s.failLad k id { cause := .xlate, addr := w64 h.va, malf := h.malf }

/-- The service of the oldest waiting generation word. -/
def State.serveGen (s : State) (k : Nat) (mapped : Bool) : State :=
  match (s.core k).genq with
  | [] => s
  | g :: _ =>
    match g.halt with
    | none => s
    | some h =>
      if s.replays k h mapped then s.updGen k g fun x => { x with halt := none }
      else s.genFail k g { cause := .xlate, addr := w64 h.va, malf := h.malf }

/-- XLATE_SERVICE (R393): the landing processor answers a halt. `who` names the halted part: 0 and 1 the access queues of
L and S, 2 to 4 an engine command, 5 a ladder command, 6 the oldest generation word, 7 to 9 the word of L, X or S that waits
at issue. What the service writes to the page table comes as writes of the landing processor. -/
def execXlateService (k who id : Nat) (mapped : Bool) (s : State) : Host.Outcome State Fault Refusal :=
  if 384 ≤ k then .fault .noSuchCore
  else
    match who with
    | 0 => .next (s.serveAccess k .L mapped)
    | 1 => .next (s.serveAccess k .S mapped)
    | 2 => .next (s.serveEng k id mapped)
    | 3 => .next (s.serveEng k id mapped)
    | 4 => .next (s.serveEng k id mapped)
    | 5 => .next (s.serveLad k id mapped)
    | 6 => .next (s.serveGen k mapped)
    | 7 => .next (if mapped then s else s.serveIssue k .L)
    | 8 => .next (if mapped then s else s.serveIssue k .X)
    | 9 => .next (if mapped then s else s.serveIssue k .S)
    | _ => .next s

/-! ### Answering a cause (R407 to R411) -/

/-- A context of a halted core does not go on before RESUME (R376, R415). -/
def CtxSt.release (c : CtxSt) (halted : Bool) : CtxSt :=
  match c.run with
  | .running => if halted then { c with run := .held } else c
  | _ => c

/-- A context continues at the resume point of a record. -/
def State.resumeCtx (s : State) (k : Nat) (x : Ctx) (r : FaultRecord) : State :=
  let halted := (s.core k).halted
  (s.updCtx k x fun c => (c.resumeAt r.resume).dropHalt.release halted).handlerDone k x

/-- A context trapped with DEADLK. -/
def CtxSt.dead (c : CtxSt) : Option FaultRecord :=
  match c.run with
  | .trapped r => if r.cause = .deadlk then some r else none
  | _ => none

/-- Every context that stopped with the core's DEADLK continues (R411). -/
def State.resumeDead (s : State) (k : Nat) : State :=
  [Ctx.L, .X, .S].foldl (fun s x =>
    match (s.ctxOf k x).dead with
    | some r => s.resumeCtx k x r
    | none => s) s

/-- The answer to SYSC 0 (R409): the reflection ends, or ILLOP at the SYSC when there is none. -/
def State.answerSysc0 (s : State) (k : Nat) (x : Ctx) (r : FaultRecord) : State :=
  let halted := (s.core k).halted
  match (s.ctxOf k x).frame with
  | some f =>
    (s.updCtx k x fun c => ({ c.reflectReturn f with run := .running, blocked := false } : CtxSt).dropHalt.release halted).handlerDone
      k x
  | none =>
    let bad := { s.record k x.code { cause := .illop } false (s.ctxOf k x).level r.pos r.pos r.word with rst := r.rst }
    (s.log bad).updCtx k x fun c => { c with run := .trapped bad }

/-- SUPERVISOR_RESUME (R407, R409 to R411): the context continues at its resume point; a service above 0 has written its
result to x56 and its status to x57. A cause taken inside a handler is not resumed: its task is ended (R409). A system call of a
handler, by which it returns or asks for a service, is answered (assumption 89). DEDUCED -/
def execSupervisorResume (k : Nat) (ctx : Ctx) (x56 x57 : Word) (s : State) : Host.Outcome State Fault Refusal :=
  if 384 ≤ k then .fault .noSuchCore
  else
    match (s.ctxOf k ctx).run with
    | .trapped r =>
      if r.cause = .deadlk then .next (s.resumeDead k)
      else if r.cause = .sysc then
        if r.info = 0 then .next (s.answerSysc0 k ctx r)
        else .next ((s.updCtx k ctx fun c => (c.setReg 56 x56).setReg 57 x57).resumeCtx k ctx r)
      else if (s.ctxOf k ctx).frame.isSome then .next s
      else .next (s.resumeCtx k ctx r)
    | _ => .next s

/-- The header entry that a cause is reflected to: HTAP for TAPSEQ, else that of the context's stream (R408). -/
def CoreSt.handler (c : CoreSt) (x : Ctx) (cause : Cause) : Nat :=
  if cause = .tapseq then c.htap else match x with | .L => c.hfl | .X => c.hfx | .S => c.hfs

/-- The context enters its handler (R408). -/
def CtxSt.reflect (c : CtxSt) (r : FaultRecord) (pc : Nat) : CtxSt :=
  let f : Frame := ⟨c.reg 56, c.reg 57, c.reg 58, c.reg 59⟩
  let c := (((c.setReg 56 (r.words.getD 0 0)).setReg 57 r.addr).setReg 58 r.info).setReg 59 (w64 r.resume)
  { c with frame := some f, pc := pc, exposed := false, slack := 0, pair := none, run := .running, blocked := false }

/-- SUPERVISOR_REFLECT (R408): only a cause marked R, with no reflection active, on a core that does not drain, and to a
valid entry. -/
def execSupervisorReflect (k : Nat) (ctx : Ctx) (s : State) : Host.Outcome State Fault Refusal :=
  if 384 ≤ k then .fault .noSuchCore
  else
    match (s.ctxOf k ctx).run with
    | .trapped r =>
      let h := (s.core k).handler ctx r.cause
      if r.cause.reflectable ∧ (s.ctxOf k ctx).frame = none ∧ !(s.ctxOf k ctx).ended ∧ (s.core k).status = .active ∧
          h / 2 ^ 15 = 1 then
        let halted := (s.core k).halted
        .next (s.updCtx k ctx fun c => (c.reflect r (h % 2 ^ 14)).release halted)
      else .next s
    | _ => .next s

/-- An access that a task ended with FAULT still performs: its stores, AMOs and relinquishes, which it has issued (R80, R407). -/
def AccOp.outlives : AccOp → Bool
  | .store _ _ | .amo _ _ _ _ _ | .rlq _ => true
  | _ => false

/-- The access queue of a context that is ended: its loads, marks, fences and ring words have nobody to serve, and an access whose
page could not be mapped is given up. -/
def CtxSt.endAccesses (c : CtxSt) : CtxSt :=
  let given := (c.accHalt.filter fun h => h.failed.isSome).map (·.wid)
  { c with accq := c.accq.filter fun a => a.op.outlives && given != some a.wid
           accHalt := c.accHalt.filter fun h => h.failed.isNone && c.accq.any fun a => a.op.outlives && a.wid == h.wid }

/-- The context stops for good, at once, when its task ends with FAULT (R299, R407). -/
def CtxSt.endFault (c : CtxSt) : CtxSt :=
  { c.endAccesses with
    run := if c.run = .idle then .idle else .exited, ended := true, loops := [], blocked := false, pair := none, attached := []
    flights := [], pend := [], frame := none }

/-- A core of such a task: it drains (R80). -/
def CoreSt.endFault (c : CoreSt) : CoreSt :=
  ({ c with cL := c.cL.endFault, cX := c.cX.endFault, cS := c.cS.endFault, preReq := false, matHold := false
            halted := false, haltReq := false
            status := if c.status = .active then .draining else c.status } : CoreSt)

/-- A task ends with FAULT (R407), and the launch that asked for it gets its completion record (R437). One that has no running core is
DONE at once; version lines of a speculative task are effects not yet performed, and are dropped (assumption 37). -/
def State.endFault (s : State) (t : Task) : State :=
  let s := if t.failed then s else s.complete t 5
  let s := s.forCores (s.coresOf t.seq) CoreSt.endFault
  let s := if t.spec then { s with vlines := s.vlines.filter fun (v : VLine) => v.task != t.seq } else s
  match t.st with
  | .running => s.setTask { t with failed := true, draining := true }
  | .parked => s.setTask { t with failed := true, draining := true, st := .running, parked := none }
  | .done => s.setTask { t with failed := true }
  | _ =>
    (s.forCores (s.coresOf t.seq) CoreSt.cleared).setTask
      { t with failed := true, st := .done, target := [], got := [], reqs := [] }

/-- A cause of the task stands at the supervisor: a context waits for its answer, or a core has taken DEBUG (R407, R415). -/
def State.trapped (s : State) (q : Nat) : Bool :=
  (s.coresOf q).any fun k =>
    (s.core k).halted || [Ctx.L, .X, .S].any fun x => match (s.ctxOf k x).run with | .trapped _ => true | _ => false

/-- SUPERVISOR_END_FAULT (R407). -/
def execSupervisorEndFault (task : Nat) (s : State) : Host.Outcome State Fault Refusal :=
  match s.task? task with
  | some t => if t.st = .running ∧ s.trapped task then .next (s.endFault t) else .next s
  | none => .next s

/-! ### Errors of memory (R416, R417) -/

/-- SCRUB_ERROR (R417): an error that no word consumes is logged, and nothing stops. Nothing is scrubbed in the safe state (R449). -/
def execScrubError (part kind addr : Nat) (s : State) : Host.Outcome State Fault Refusal :=
  if s.boot.safe then .next s
  else .next (s.log { looseRecord (part % 16) (s.freeVal 1 % 4) .eccu (w64 addr) (w64 kind) (w64 (s.freeVal 2)) (w64 (s.freeVal 3)) with
    cyc := w64 (s.freeVal 4) })

/-- Control state of the scheduler is lost: one record for each task of the partition, and every task ends (R417). -/
def State.controlError (s : State) (p : Nat) : State :=
  (s.domain p).foldl (fun s t =>
    let r := { looseRecord p t.level .eccu 0 9 (w64 t.ts) (w64 t.seq) with rst := t.rst, cyc := w64 (s.freeVal 4) }
    match (s.log r).task? t.seq with
    | some u => (s.log r).endFault u
    | none => s.log r) s

/-- The end-to-end check of a partition's queues finds a segment that a store has overwritten: every task of the partition ends
(R417, R421). -/
def State.segmentError (s : State) (p : Nat) : State :=
  if s.tampered.contains p then ({ s with tampered := s.tampered.filter (· != p) } : State).controlError p else s

/-- A soft error. One that ECC corrects is counted for the monitor, kind 12, and nothing else shows (R416). The others set the loss mark
of a block: memories 1 HBM, 2 host, 3 Weight Store, 4 the head of a vector queue, 5 scratchpad, 6 an
exact accumulator, 7 a tile, 8 a version line, 11 second-tier memory, 9 the scheduler's control state. An entry of a first-level TLB, kind 10, or
of a die's second-level TLB, kind 13, that fails its parity is dropped. -/
def State.upset (s : State) (kind k key : Nat) : State :=
  match kind with
  | 1 => { s with bad := Sparse.put s.bad (key % 2 ^ 60) 1 }
  | 2 => { s with bad := Sparse.put s.bad (2 ^ 60 + key % 2 ^ 60) 1 }
  | 3 => { s with bad := Sparse.put s.bad (3 * 2 ^ 60 + key % 2 ^ 60) 1 }
  | 11 => { s with bad := Sparse.put s.bad (2 * 2 ^ 60 + key % 2 ^ 60) 1 }
  | 8 => { s with vlines := (s.vlines.zip (List.range s.vlines.length)).map fun (e : VLine × Nat) =>
      if e.2 = key then { e.1 with bad := true } else e.1 }
  | 9 => s.controlError (key % 16)
  | 12 => { s with corrected := s.corrected + 1 }
  | 13 => { s with tlb2 := s.tlb2.map fun (e : Nat × List TlbEntry) => if e.1 = k then (e.1, e.2.eraseIdx key) else e }
  | _ =>
    if 384 ≤ k then s
    else
      s.updCore k fun c =>
        match kind with
        | 4 =>
          match (c.queue key).els with
          | e :: r => c.setQueue key { c.queue key with els := { e with bad := true } :: r }
          | [] => c
        | 5 => if key < 65536 then { c with spBad := c.spBad ++ [key] } else c
        | 6 => c.setExa (key % 64) { c.exa (key % 64) with bad := true }
        | 7 => c.setTile (key % 16) { c.tile (key % 16) with bad := true }
        | 10 => { c with tlb := c.tlb.eraseIdx key }
        | _ => c

end Sys2Proof.Machine
end

