-- ==== Sys2Proof/Machine/Sched.lean ====
section
/-! DEFINITION. The scheduler's steps: selection and reservation (R418 to R428), the ragged distributor (R52 to R54), the
start of a core (R50 to R56, R414), the end of its work (R80, R81), the frontier and commit (R289 to R292, R302, R303). -/

namespace Sys2Proof.Machine

open Sys2Proof

/-! ### Selection (R290, R291, R424, R425) -/

/-- A candidate other than the frontier may be selected (R291, R305, R424). -/
def State.admits (s : State) (t : Task) : Bool :=
  !t.nspec && decide (s.specCount t.part < (s.part t.part).specdepth.toNat) && decide (s.deviceCount < 2048) &&
    decide (((s.domain t.part).filter fun u => u.st == .reserving).length < 16) &&
    decide (hdrGang t.hdr ≤ (s.available t.part).length)

/-- One candidate comes before another: higher priority, then smaller order key. -/
def Task.candidateBefore (a b : Task) : Bool :=
  decide (hdrPrio b.hdr < hdrPrio a.hdr) || (hdrPrio a.hdr == hdrPrio b.hdr && a.before b)

/-- The first of a list of candidates. -/
def firstCandidate : List Task → Option Task
  | [] => none
  | t :: r =>
    match firstCandidate r with
    | some u => some (if u.candidateBefore t then u else t)
    | none => some t

/-- The candidate that a partition selects next: the frontier when it is WAITING, else the first that is admitted and whose
target set can be formed. -/
def State.candidate (s : State) (p : Nat) : Option Task :=
  let waiting := (s.domain p).filter fun t => t.st == .waiting
  match waiting.find? fun t => s.isFront t && (s.targetOf t).isSome with
  | some t => some t
  | none => firstCandidate (waiting.filter fun t => !s.isFront t && s.admits t && (s.targetOf t).isSome)

/-- The first candidate of a partition that waits for a place of the device: no frontier, and not held back by SCHCTL.HOLD (R424,
R429). -/
def State.waiter (s : State) (q : Nat) : Option Task :=
  if (s.part q).hold then none else (s.candidate q).filter fun u => !s.isFront u

/-- A task that no partition's first candidate has waited longer than. -/
def State.longest (s : State) (t : Task) : Bool :=
  (List.range 16).all fun q =>
    match s.waiter q with
    | some u => decide (t.since ≤ u.since)
    | none => true

/-- Places that became free while the device-wide count was at 2,048 go to the partition whose first candidate has waited longest; any
other free place, and the frontier's, to who asks for it (R424; assumption 38). DEDUCED -/
def State.turnOf (s : State) (t : Task) : Bool :=
  s.isFront t || decide (s.freed + s.deviceCount < 2048) || s.longest t

/-- What the scheduler knows of the device-wide limit, as it looks at the count (R424): that the count is at 2,048, or how many of the
free places became free while it was. None of them is owed when nobody waits. -/
def State.markCrowded (s : State) : State :=
  let free := 2048 - s.deviceCount
  let due := if s.crowded then free else min s.freed free
  { s with crowded := decide (free = 0), freed := if (List.range 16).any fun q => (s.waiter q).isSome then due else 0 }

/-- A place has been given (R424). -/
def State.takePlace (s : State) (t : Task) : State :=
  if s.isFront t || !s.longest t then s else { s with freed := s.freed - 1 }

/-- A task that is PLACED (R288, R292, R455): its cores are its own, and it is speculative unless it is the frontier. One
that was pre-empted has its state saved and needs no distributor. -/
def State.place (s : State) (t : Task) : State :=
  let spec := !s.isFront t
  let s := s.setTask { t with
    st := .placed, spec := spec, prov := spec || (t.prov && !t.saved.isEmpty), got := [], reqs := [], caps := s.slotTab, left := t.left
    ragged := (hdrRagged t.hdr).isNone || !t.saved.isEmpty }
  (t.target.zip (List.range t.target.length)).foldl (fun s e =>
    s.updCore e.1 fun c => { c with status := .placed, task := t.seq, rank := e.2 }) s

/-- ECC has lost a version line of the task (R417). -/
def State.lostLines (s : State) (t : Task) : Bool := (s.linesByAddress t).any (·.bad)

/-- A word that keeps partition `p` from placing tasks stands blocked at issue: a PARTW that names it (R379), or a WSW of its frontier
task, which has found no other task placed (R370). -/
def State.wordHolds (s : State) (p : Nat) : Bool :=
  s.cores.any fun c => [Ctx.L, .X, .S].any fun x =>
    (c.2.ctx x).run == .running && (c.2.ctx x).blocked &&
      match decode (c.2.nextWord x) with
      | .ok (.partw _ xa _ _) => ((c.2.ctx x).reg xa).toNat == p
      | .ok (.wsw _ _ _ _) => s.partOf c.1 == p && (s.front p).map (·.seq) == some c.2.task && s.quiet p c.2.task
      | _ => false

/-- A change of partition `p` that waits for it to empty, by a word or through the register port, or a WSW keeps the scheduler from
placing tasks (R370, R379). -/
def State.placeBarred (s : State) (p : Nat) : Bool := s.wordHolds p || s.portParts.any fun w => w.part == p

/-- A frontier restarts on the cores of its gang (R302, R417): a PARKED one, and one that has lost a version line. -/
def State.needsHome (s : State) (f : Task) : Bool :=
  f.st == .parked || ((f.st == .running || f.st == .placed || f.st == .done) && s.lostLines f && !f.failed)

/-- The other tasks that R291 counts leave the task a place below SPECDEPTH, which may have fallen since its selection (R368; assumption
50). DEDUCED -/
def State.withinDepth (s : State) (t : Task) : Bool :=
  decide (((s.domain t.part).filter fun u => u.counted && u.seq != t.seq).length < (s.part t.part).specdepth.toNat)

/-- While the frontier is QUEUED, or waits for the cores of its gang, no later task of its domain is placed (R290, R302); nor is a
speculative one beyond SPECDEPTH (R368); and none is placed while a word or a register write holds the partition (R370, R379). -/
def State.mayPlace (s : State) (t : Task) : Bool :=
  !s.placeBarred t.part &&
    match s.front t.part with
    | some f => f.seq == t.seq || (f.st != .waiting && f.st != .reserving && !s.needsHome f && s.withinDepth t)
    | none => true

/-- A task holds every reservation, and each of its cores still belongs to its partition (R418, R426). -/
def State.gathered (s : State) (t : Task) : Bool := t.got == t.target && t.target.all (s.owns t.part)

/-- Tasks with every reservation held that had to wait are PLACED (R290, R426). -/
def State.placeHeld (s : State) (p : Nat) : State :=
  ((s.domain p).filter fun t => t.st == .reserving && s.gathered t).foldl
    (fun s t => if s.mayPlace t then s.place t else s) s

/-! ### Reservation (R426 to R428) -/

/-- A reservation is held; with the last one the task is PLACED, once it may be. -/
def State.reserve (s : State) (t : Task) (k : Nat) : State :=
  let t := { t with got := insertNat k t.got, reqs := t.reqs.filter (· != k) }
  if s.gathered t && s.mayPlace t then s.place t else s.setTask t

/-- The request of a task for a core has been taken and waits. -/
def Task.waitsFor (t : Task) (k : Nat) : Bool :=
  t.st == .reserving && t.target.contains k && !t.got.contains k && !t.reqs.contains k

/-- A released core goes to the waiting request with the smallest order key (R426). -/
def State.handOver (s : State) (k : Nat) : State :=
  if (s.core k).status == .free && (s.reserver k).isNone then
    match earliest (s.allTasks.filter fun t => t.waitsFor k && s.owns t.part k) with
    | some t => s.reserve t k
    | none => s
  else s

/-- Cores released since go to the requests that wait for them before anything else is decided (R419, R426). -/
def State.handAll (s : State) (p : Nat) : State := (s.coresIn p).foldl (fun s k => s.handOver k) s

/-- TASK_SELECT (R424, R425): tasks held back for the frontier are placed, and the partition selects its next candidate for
reservation. -/
def execTaskSelect (part : Nat) (s : State) : Host.Outcome State Fault Refusal :=
  let s := ((s.handAll part).placeHeld part).markCrowded
  if !s.boot.ready || (s.part part).hold then .next s
  else
    match s.candidate part with
    | none => .next s
    | some t =>
      match s.targetOf t with
      | none => .next s
      | some ks =>
        if s.turnOf t then
          .next ((s.takePlace t).setTask { t with st := .reserving, target := ks, got := [], reqs := ks }).markCrowded
        else .next s

/-- CORE_RELEASE (R426, R428). -/
def execCoreRelease (k : Nat) (s : State) : Host.Outcome State Fault Refusal :=
  if 384 ≤ k then .fault .noSuchCore else .next (s.handOver k)

/-- The die agent takes a request (R426). One for a core that is not the partition's waits (R418). -/
def State.takeRequest (s : State) (t : Task) (k : Nat) : State :=
  let later := { t with reqs := t.reqs.filter (· != k) }
  if (s.core k).status != .free || !s.owns t.part k then s.setTask later
  else
    match s.reserver k with
    | none => s.reserve t k
    | some u => if t.before u then (s.revoke u).reserve t k else s.setTask later

/-- RESERVATION_REQUEST (R426). A core released before this request is taken has gone to the requests that waited for
it. -/
def execReservationRequest (task k : Nat) (s : State) : Host.Outcome State Fault Refusal :=
  if 384 ≤ k then .fault .noSuchCore
  else
    let s := s.handOver k
    match s.task? task with
    | some t => if t.st = .reserving ∧ t.reqs.contains k then .next (s.takeRequest t k) else .next s
    | none => .next s

/-- The latest of a list of tasks. -/
def latestOf (ts : List Task) : Option Task := ts.foldl Task.latest none

/-- The tasks that hold cores which the frontier needs (R290, R302): those of its target that its requests wait for; while no target can
be formed, any core of the partition; and for a restart the cores of its gang. -/
def State.inTheWay (s : State) (f : Task) : List Task :=
  (s.domain f.part).filter fun u =>
    u.busy && u.seq != f.seq && (s.coresOf u.seq).any fun k =>
      match f.st with
      | .reserving => f.waitsFor k
      | .waiting => (s.targetOf f).isNone
      | _ => s.needsHome f && f.target.contains k

/-- The scheduler aborts the latest speculative task that holds a core the frontier needs (R290). -/
def State.makeRoom (s : State) (p : Nat) : State :=
  match s.front p with
  | none => s
  | some f =>
    match latestOf (s.inTheWay f) with
    | some u => s.abort u.seq
    | none => s

/-! ### The ragged distributor (R52 to R54) -/

/-- A chunk: group, first row, rows. -/
structure Chunk where
  group : Nat
  first : Nat
  rows  : Nat
  deriving DecidableEq, Repr

/-- The chunks of a group. -/
def chunksOf (ch g cnt : Nat) : List Chunk :=
  (List.range (ceilDiv cnt ch)).map fun i => ⟨g, i * ch, min ch (cnt - i * ch)⟩

/-- Order of chunks: rows descending, then group, then first row. -/
def Chunk.before (a b : Chunk) : Bool :=
  decide (b.rows < a.rows) ||
    (a.rows == b.rows && (decide (a.group < b.group) || (a.group == b.group && decide (a.first ≤ b.first))))

/-- Insert a chunk in order. -/
def insertChunk (c : Chunk) : List Chunk → List Chunk
  | [] => [c]
  | d :: r => if c.before d then c :: d :: r else d :: insertChunk c r

/-- A core's chunks and their rows. -/
structure Load where
  rows : Nat
  list : List Chunk
  deriving DecidableEq, Repr

/-- The lowest index with the least load. -/
def leastLoad (ls : List Load) : Nat :=
  let least := (ls.map (·.rows)).foldl min ((ls.map (·.rows)).headD 0)
  (ls.findIdx? fun l => l.rows == least).getD 0

/-- One chunk goes to the least loaded index. -/
def assign (ls : List Load) (c : Chunk) : List Load :=
  let k := leastLoad ls
  (ls.zip (List.range ls.length)).map fun e => if e.2 = k then ⟨e.1.rows + c.rows, e.1.list ++ [c]⟩ else e.1

/-- The lists of the `e` indices (R52). -/
def distribute (e ch : Nat) (counts : List Nat) : List (List Chunk) :=
  let chunks := (counts.zip (List.range counts.length)).flatMap fun p => chunksOf ch p.2 p.1
  ((chunks.foldr insertChunk []).foldl assign (List.replicate e ⟨0, []⟩)).map (·.list)

/-- A list as it lands in scratchpad (R53). -/
def chunkBytes (l : List Chunk) : List Byte :=
  leBytes 8 l.length ++ l.flatMap fun c => leBytes 8 (c.rows * 2 ^ 48 + c.first * 2 ^ 16 + c.group)

/-- A list passes the scratchpad, or meets a stream window or image data (R54). -/
def listBad (h : Hdr) (rs : List (Nat × List Byte)) (n : Nat) : Bool :=
  decide (spSize < hdrCloff h + n) || (hdrWindows h).any (fun w => meets w.1 w.2 (hdrCloff h) n) ||
    rs.any fun r => meets r.1 r.2.length (hdrCloff h) n

/-- The rights of a task's own reads. -/
def Task.acc (t : Task) (write : Bool) : Acc := ⟨write, t.level == 0⟩

/-- The whole of a kernel image after its header: windows and scratchpad image. -/
def State.imageBody (s : State) (k : Nat) (t : Task) : Rd :=
  s.readIn k t.part (t.acc false) (t.kimg.toNat + 256) (spOffset t.hdr - 256 + hdrSpsz t.hdr)

/-- The records of the scratchpad image in an image body. -/
def bodyRecords (h : Hdr) (bs : List Byte) : List (Nat × List Byte) :=
  (recordsOf (bs.drop (spOffset h - 256))).getD []

/-- The completion word and record of a task that ends, and its removal (R303, R307, R437): its queue entry, its remaining
bindings, itself. A task that was ended with FAULT has had its record then. -/
def State.retire (s : State) (t : Task) (word : Nat) (status : Option Nat) : State :=
  let s := (s.completionWord t word).drainReplicas
  let s := match status with | some n => s.complete t n | none => s
  let s := s.dropEntry t.part t.seq
  { s with tasks := Sparse.erase s.tasks t.seq, binds := s.binds.filter fun (b : Bind) => b.task != t.seq }

/-- The launch is refused with RAGGED (R54, R428): the cores are released, and the task is removed, once its completion word can be
written or dropped (R307). -/
def State.refuseRagged (s : State) (t : Task) : State :=
  if s.wordReady t then (s.forCores (s.coresOf t.seq) CoreSt.cleared).retire t (2 ^ 63 + t.seq) (some 2) else s

/-- The lists of a task's gang, or a refusal. -/
def State.distributed (s : State) (t : Task) (e : Nat) (counts : List Nat) (rs : List (Nat × List Byte)) : State :=
  let ch := hdrChunk t.hdr
  if counts.any fun n => decide (65535 < ceilDiv n ch) then s.refuseRagged t
  else
    let ls := (distribute e ch counts).map chunkBytes
    if ls.any fun l => listBad t.hdr rs l.length then s.refuseRagged t
    else
      s.setTask { t with
        ragged := true
        lists := (ls.zip (List.range ls.length)).foldl (fun m p => Sparse.put m p.2 p.1) [] }

/-- What the distributor does where the group table, or the image body that the lists must not meet, cannot be read: it waits; a page
that cannot be translated is serviced, and whether the service succeeds is free; bytes that ECC has lost, or a page that fails
otherwise, refuse the launch with RAGGED. R54 names the group table only: that the body is read here, and that its loss refuses the
launch, is the model's choice (assumption 39). DESIGN CHOICE -/
def State.distStuck (s : State) (t : Task) (r : Rd) : State :=
  match r with
  | .bad _ c _ => if c = .xlate && s.freeVal 8 % 2 = 0 then s else s.refuseRagged t
  | .lost _ _ => s.refuseRagged t
  | _ => s

/-- The task is PLACED, or restarted as the frontier, and its distributor has not run (R52, R302); one that has been ended with FAULT has
no use for it (R407, R437). -/
def Task.distributes (t : Task) : Bool := (t.st == .placed || (t.st == .running && t.rst)) && !t.ragged && !t.failed

/-- RAGGED_DISTRIBUTE (R52 to R54). -/
def execRaggedDistribute (task : Nat) (s : State) : Host.Outcome State Fault Refusal :=
  match s.task? task with
  | none => .next s
  | some t =>
    if !t.distributes then .next s
    else
      let k := (s.coresOf t.seq).headD sequencer
      match hdrRagged t.hdr with
      | none => .next (s.setTask { t with ragged := true })
      | some (_, e) =>
        match s.readIn k t.part (t.acc false) (t.args.toNat + hdrGoff t.hdr) (4 * hdrGroups t.hdr) with
        | .ok bs n =>
          match s.imageBody k t with
          | .ok body m =>
            let s := s.note k (n ++ m)
            match s.task? task with
            | some t => .next (s.distributed t e (words32 bs) (bodyRecords t.hdr body))
            | none => .next s
          | r => .next (s.distStuck t r)
        | r => .next (s.distStuck t r)

/-! ### The start of a core (R50, R51, R55, R56) -/

/-- Whether a level of the nest is spatial. -/
def NestLevel.spatial (l : NestLevel) : Bool := l.extent != 0 && (l.kind == 1 || l.kind == 2)

/-- Indices of a gang rank at the levels of a nest given innermost first; level 0 varies slowest (R50). -/
def coordsRev : List NestLevel → Nat → List Nat
  | [], _ => []
  | l :: r, n => if l.spatial then n % l.extent :: coordsRev r (n / l.extent) else 0 :: coordsRev r n

/-- Indices at levels 0 to 5 of a gang rank. -/
def coords (n : List NestLevel) (rank : Nat) : List Nat := (coordsRev n.reverse rank).reverse

/-- The list that a rank receives (R52). -/
def Task.listOf (t : Task) (rank : Nat) : List Byte :=
  match hdrRagged t.hdr with
  | none => []
  | some (l, _) => Sparse.get [] t.lists ((coords (hdrNest t.hdr) rank).getD l 0)

/-- A context in its start state (R51, R55). -/
def startCtx (t : Task) (k rank : Nat) (x : Ctx) : CtxSt :=
  let at' := coords (hdrNest t.hdr) rank
  let idx := fun (i : Nat) => at'.getD i 0
  let w := hdrWindow t.hdr x
  let c : CtxSt := { CtxSt.reset with run := .running, level := t.level, wbase := w.1, wwords := w.2 / 8 }
  (((c.setReg 60 (w64 rank)).setReg 61 (w64 ((List.range 4).map fun i => idx i * 2 ^ (16 * i)).sum)).setReg 62
    (w64 (idx 4 + idx 5 * 2 ^ 16 + k * 2 ^ 48))).setReg 63 t.args

/-- The queues that the header gives shapes to (R49). -/
def startQueues (h : Hdr) : Sparse QState :=
  ((List.range 640).filter fun q => (hdrRuns h).any fun r => decide (r.first ≤ q) && decide (q ≤ r.last)).map fun q => (q, shapeOf h q)

/-- The scratchpad at start: windows, image data, chunk list, and zeros (R55). -/
def startSp (h : Hdr) (body list : List Byte) : Memory :=
  let l := (hdrWindow h .L).2
  let x := (hdrWindow h .X).2
  let m : Memory := Memory.setBytes [] (hdrWindow h .L).1 (body.take l)
  let m : Memory := Memory.setBytes m (hdrWindow h .X).1 ((body.drop l).take x)
  let m : Memory := Memory.setBytes m (hdrWindow h .S).1 ((body.drop (l + x)).take (hdrWindow h .S).2)
  let m : Memory := (bodyRecords h body).foldl (fun m r => if spSize < r.1 + r.2.length then m else Memory.setBytes m r.1 r.2) m
  Memory.setBytes m (hdrCloff h) list

/-- A context of a halted core waits for RESUME. -/
def CoreSt.holdHalted (c : CoreSt) : CoreSt :=
  if c.halted then { c with cL := c.cL.release true, cX := c.cX.release true, cS := c.cS.release true } else c

/-- A core in its start state (R55). -/
def CoreSt.start (c : CoreSt) (t : Task) (k now : Nat) (body : List Byte) : CoreSt :=
  let h := t.hdr
  CoreSt.holdHalted
    { c.cleared with
      status := .active, task := t.seq, rank := c.rank, cL := startCtx t k c.rank .L, cX := startCtx t k c.rank .X
      cS := startCtx t k c.rank .S, qs := startQueues h, sp := startSp h body (t.listOf c.rank), cycle := now
      preReq := c.preReq, det := hdrDet h, extrap := hdrExtrap h, nest := hdrNest h, hfl := hdrHandler h 0, hfx := hdrHandler h 1
      hfs := hdrHandler h 2, htap := hdrHandler h 3, args := t.args, landed := true }

/-- A context restored from its save (R414): it goes on at its saved PC in its saved mode and slack, and a halted access
replays. -/
def CtxSt.restored (c : CtxSt) : CtxSt :=
  match c.run with
  | .held => ({ c with run := .running, blocked := false, pair := none } : CtxSt).dropHalt
  | _ => c.dropHalt

/-- A halted command replays and is translated afresh (R394); a FERRY.TIER asks for its page again. -/
def EngCmd.replay (e : EngCmd) : EngCmd :=
  { e with halt := none, srcTr := [], dstTr := [], stage := if e.op = .ferryTier ∧ e.stage = 2 then 1 else e.stage }

/-- A core restored from the save of its rank (R414). CYCLE continues from its saved value. -/
def CoreSt.restore (c d : CoreSt) (now : Nat) : CoreSt :=
  CoreSt.holdHalted
    { d with
      status := if d.allEnded then .draining else .active
      task := c.task, rank := c.rank, tlb := c.tlb, halted := c.halted, haltReq := c.haltReq, haltBy := c.haltBy
      preReq := false, starved := [], msgs := [], cycle := now - d.cycle, ferry := d.ferry.map EngCmd.replay
      ladq := d.ladq.map fun m => { m with halt := none }
      cL := { d.cL.restored with engq := d.cL.engq.map EngCmd.replay }, cX := d.cX.restored
      cS := { d.cS.restored with engq := d.cS.engq.map EngCmd.replay } }

/-- The number under which the bindings of a saved core wait for its restoration. -/
def savedCore (rank : Nat) : Nat := 512 + rank

/-- Bindings move between core numbers, with their task. -/
def State.moveCore (s : State) (task a b : Nat) : State :=
  { s with binds := s.binds.map fun (e : Bind) => if e.task = task ∧ e.core = a then { e with core := b } else e }

/-- Once every core of a PLACED task has started, it is RUNNING (R288). -/
def State.allStarted (s : State) (q : Nat) : State :=
  match s.task? q with
  | some t =>
    if t.st = .placed ∧ (s.coresOf q).all (fun k => (s.core k).status != .placed) then
      s.setTask { t with st := .running, saved := [] }
    else s
  | none => s

/-- Operations that waited for leave when they were saved ask the governor of their new island (R451, R453). -/
def State.askAgain (s : State) (k : Nat) : State :=
  let s := ((s.core k).matq.filter fun m => m.stage == 1 && m.asked && !m.leave).foldl
    (fun s m => (s.askLeave k .tile m.id).1) s
  ((s.core k).ferry.filter fun e => e.taken && e.stage == 0).foldl (fun s e => (s.askLeave k .ferry e.id).1) s

/-- A command held at this core is applied, in the order of arrival (R56). -/
def State.applyMsgs (s : State) (k : Nat) (ms : List HeldMsg) : State := ms.foldl (fun s m => s.applyHeld k m) s

/-- A core leaves the gang (R80): kept leave returns, its remaining bindings are removed (R255), and the core is released. With the last core the task is DONE, and a
graph node releases its successors (R310). -/
def State.leaveGang (s : State) (k : Nat) : State :=
  match s.taskOf k with
  | none => s
  | some t =>
    let rank := (s.core k).rank
    let s := { s with gov := s.gov.map fun (e : Nat × List LeaveReq) => (e.1, e.2.filter fun (r : LeaveReq) => r.core != k) }
    let s := { s with binds := s.binds.filter fun (b : Bind) => !(b.core == k && b.task == t.seq) }
    let s := (s.updCore k CoreSt.cleared).setTask { t with left := insertNat rank t.left }
    if (s.coresOf t.seq).isEmpty then
      let s := if s.isFront t then s.updPart t.part fun p => { p with pre := false } else s
      let s := s.updTask t.seq fun u => { u with st := .done, draining := false }
      s.releaseNode t
    else s.allStarted t.seq

/-- CORE_START (R55, R56, R414), on a device whose start is done (R21, R449). A core whose rank had left the gang before a pre-emption
leaves it again. A save area comes back through the slots that its copy went by (R430). -/
def execCoreStart (k : Nat) (s : State) : Host.Outcome State Fault Refusal :=
  if 384 ≤ k then .fault .noSuchCore
  else
    match s.taskOf k with
    | none => .next s
    | some t =>
      let c := s.core k
      if !s.boot.ready ∨ c.status ≠ .placed ∨ (t.st ≠ .placed ∧ t.st ≠ .running) ∨ !t.ragged ∨ s.gated.contains (quadOf k) then .next s
      else if t.left.contains c.rank then .next (s.leaveGang k)
      else
        match Sparse.find t.saved c.rank with
        | some d =>
          let d := s.areaCore (Sparse.get 0 t.areas c.rank) d
          if !s.ferryServed t.part || !s.hbmServed then .next s
          else .next (((((s.updCore k fun c => c.restore d s.now).askAgain k).moveCore t.seq (savedCore c.rank) k).applyMsgs k c.msgs).allStarted t.seq)
        | none =>
          match s.imageBody k t with
          | .ok body n =>
            .next ((((s.note k n).updCore k fun c => c.start t k s.now body).applyMsgs k c.msgs).allStarted t.seq)
          | _ => .next s

/-! ### The end of a core's work (R80, R81) -/

/-- No word of core `k` waits for a frame boundary or for another core to halt. -/
def State.noneOwed (s : State) (k : Nat) : Bool :=
  s.slotNew.all (fun n => n.core != k) && s.cores.all fun e => e.2.haltBy.all fun m => m.core != k

/-- Every operation of the core has completed: engines, transfers, accesses, posted stores. -/
def State.drained (s : State) (k : Nat) : Bool :=
  let c := s.core k
  c.transfers.isEmpty && c.matq.isEmpty && c.ladq.isEmpty && c.genq.isEmpty && c.posted.isEmpty && c.cL.accq.isEmpty &&
    c.cS.accq.isEmpty && s.seqLog.all (fun u => u.core != k) && s.noneOwed k

/-- A context with a cause to take. -/
def CoreSt.faulty (c : CoreSt) : Option (Ctx × FaultRecord) :=
  ([Ctx.L, .X, .S].find? fun x => !(c.ctx x).attached.isEmpty).bind fun x => (c.ctx x).attached.head?.map fun r => (x, r)

/-- No context of the core waits for the supervisor's answer. -/
def CoreSt.untrapped (c : CoreSt) : Bool :=
  [Ctx.L, .X, .S].all fun x => match (c.ctx x).run with | .trapped _ => false | _ => true

/-- A fault on a DRAINING core is delivered (R81). -/
def State.drainFault (s : State) (k : Nat) (x : Ctx) (r : FaultRecord) : State :=
  (s.updCtx k x fun c => { c with attached := c.attached.drop 1 }).takeCause k x
    { r with resume := (s.ctxOf k x).pc, cyc := w64 (s.now - (s.core k).cycle) } true

/-- CORE_DRAIN_DONE (R80, R81). -/
def execCoreDrainDone (k : Nat) (s : State) : Host.Outcome State Fault Refusal :=
  if 384 ≤ k then .fault .noSuchCore
  else
    let c := s.core k
    if c.status ≠ .draining ∨ !c.untrapped ∨ !s.engines k then .next s
    else
      match c.faulty with
      | some (x, r) => .next (s.drainFault k x r)
      | none => if s.drained k then .next (s.leaveGang k) else .next s

/-! ### The frontier and commit (R289 to R292, R302, R303) -/

/-- The version lines of a task can be written out now. -/
def State.canFlush (s : State) (t : Task) : Bool :=
  s.hbmServed && (s.linesByAddress t).all fun v =>
    v.bad ||
      match s.translateIn ((s.coresOf t.seq).headD sequencer) v.part ⟨true, false⟩ (64 * v.line) with
      | .ok _ => true
      | _ => false

/-- The effects of a task are discarded for a restart, with the aborts that this brings to its dependants and children
(R302). -/
def State.discardForRestart (s : State) (t : Task) : State :=
  let a := cascade s.allTasks s.tasks.length [t.seq]
  let s := (a.filter (· != t.seq)).foldl (fun s i => s.abortOne a i) s
  let s := { s with parts := s.parts.map fun (e : Nat × Part) =>
      (e.1, { e.2 with waiting := e.2.waiting.filter fun (w : Creation) => !a.contains w.task.parent }) }
  s.discard t

/-- A task as its restart finds it (R288, R302). -/
def Task.restarted (t : Task) : Task :=
  { t with
    st := .running, spec := false, prov := false, rst := true, parked := none, reads := [], deps := [], berths := []
    shares := [], rlqs := [], lists := [], ragged := (hdrRagged t.hdr).isNone, left := [], saved := [], areas := [] }

/-- Every core of the task's gang is its own, or works for no task. -/
def State.homeFree (s : State) (t : Task) : Bool :=
  t.target.all fun k => (s.core k).task == t.seq || (s.core k).status == .free

/-- A RESERVING task that holds one of a list of cores loses it, and its request for it waits until the core is released; it is not
revoked (R426, R427; assumption 40). DEDUCED -/
def State.takeBack (s : State) (ks : List Nat) : State :=
  ks.foldl (fun s k => match s.reserver k with | some u => s.setTask { u with got := u.got.filter (· != k) } | none => s) s

/-- A task is restarted without speculation on the cores of its gang (R302). Cores that have left the gang and work for other tasks
are waited for; those tasks are later ones, and R290 aborts them (assumption 40). DEDUCED -/
def State.restart (s : State) (t : Task) : State :=
  if s.homeFree t then
    let s := ((s.discardForRestart t).takeBack t.target).setTask t.restarted
    (t.target.zip (List.range t.target.length)).foldl
      (fun s e => s.updCore e.1 fun c => { c.cleared with status := .placed, task := t.seq, rank := e.2 }) s
  else s

/-- The frontier of a partition takes up its place (R292, R302, R417): a speculative task that runs, or that has been placed,
writes its version lines out and goes on without speculation; a PARKED one, and one that has lost a version line,
restarts. -/
def State.enterFront (s : State) (p : Nat) : State :=
  match s.front p with
  | none => s
  | some t =>
    if t.st = .parked then s.restart t
    else if (t.st = .running ∨ t.st = .placed) ∧ t.spec then
      if s.lostLines t then s.restart t
      else if s.canFlush t then (s.flushTask t).updTask t.seq fun u => { u with spec := false }
      else s
    else s

/-- The value of the completion word of a task that commits (R307). -/
def Task.word (t : Task) : Nat := if t.failed then 2 ^ 62 + t.seq else t.seq

/-- A DONE frontier task commits (R303): version lines, berths, deferred relinquishes in order, completion word, and
FRONT advances. -/
def State.commitTask (s : State) (t : Task) : State :=
  let s := s.flushTask t
  let s := t.rlqs.foldl (fun s e => s.relinquish e.2) s
  let s := s.retire t t.word (if t.failed then none else some 0)
  s.updPart t.part fun p => { p with lastTs := t.ts }

/-- TASK_COMMIT (R303): the frontier commits when it is DONE; and the task that is the frontier then takes up its place. -/
def execTaskCommit (part : Nat) (s : State) : Host.Outcome State Fault Refusal :=
  match s.front part with
  | none => .next s
  | some t =>
    if t.st = .done then
      if s.lostLines t && !t.failed then .next (s.restart t)
      else if s.canFlush t && s.wordReady t && s.released t then .next ((s.commitTask t).enterFront part)
      else .next s
    else .next (s.enterFront part)

/-! ### The scheduler's registers, written by the landing processor (R364, R368, R422, R429) -/

/-- A legal value is written; any other value is not (R368), and nothing in the safe state (R449). -/
def State.portWrite (s : State) (p sel : Nat) (v : Word) : State :=
  if !s.boot.safe ∧ p < 16 ∧ specialOk sel v = some true then s.writePartSpecial p sel v else s

/-- SPECDEPTH_WRITE (R291, R368). -/
def execSpecdepthWrite (part : Nat) (v : Word) (s : State) : Host.Outcome State Fault Refusal := .next (s.portWrite part 0x8002 v)

/-- VBQUOTA_WRITE (R297, R368). -/
def execVbquotaWrite (part : Nat) (v : Word) (s : State) : Host.Outcome State Fault Refusal := .next (s.portWrite part 0x8003 v)

/-- REDDL_WRITE (R368). -/
def execReddlWrite (part : Nat) (v : Word) (s : State) : Host.Outcome State Fault Refusal := .next (s.portWrite part 0x8004 v)

/-- PTBASE_WRITE (R317, R368). -/
def execPtbaseWrite (part : Nat) (v : Word) (s : State) : Host.Outcome State Fault Refusal := .next (s.portWrite part 0x8005 v)

/-- TQSPARE_WRITE (R422). -/
def execTqspareWrite (part : Nat) (v : Word) (s : State) : Host.Outcome State Fault Refusal := .next (s.portWrite part 0x8010 v)

/-- SCHCTL_PRE (R412, R429): the bit PRE is written 1, and HOLD keeps its value. -/
def execSchctlPre (part : Nat) (s : State) : Host.Outcome State Fault Refusal :=
  .next (s.portWrite part 0x8012 (w64 (2 + b2n (s.part part).hold)))

/-- SCHCTL_HOLD (R424, R429). -/
def execSchctlHold (part : Nat) (hold : Bool) (s : State) : Host.Outcome State Fault Refusal :=
  .next (s.portWrite part 0x8012 (w64 (b2n hold)))

end Sys2Proof.Machine
end

