-- ==== Sys2Proof/Machine/Save.lean ====
section
/-! DEFINITION. PREEMPT_SAVE (R412, R413, R446): the gang has stopped, its engines have drained, each core's state goes to
its save area, and the cores are released. -/

namespace Sys2Proof.Machine

open Sys2Proof

/-! ### When the engines have drained (R412) -/

/-- The access queue of a context has nothing left to perform, or has halted at a page (R391). -/
def CtxSt.accSettled (c : CtxSt) : Bool := c.accq.isEmpty || c.accHalt.isSome

/-- A matrix command that has not started: it waits for its turn, or for leave (R210). Accepted ones run to completion. -/
def MatCmd.settled (m : MatCmd) : Bool := m.stage == 0 || (m.stage == 1 && m.asked && !m.leave)

/-- A ladder command's output queue has no room. -/
def CoreSt.outFull (c : CoreSt) (m : LadCmd) : Bool :=
  match m.op.out with
  | some q => decide ((c.queue q.toNat).depth ≤ (c.queue q.toNat).els.length)
  | none => false

/-- A LAPPB finds the queue that it pops next empty, with every context stopped. -/
def CoreSt.popDry (c : CoreSt) (m : LadCmd) : Bool :=
  match m.op with
  | .lappb qa qb _ _ =>
    let q := if m.els.length % 2 = 0 then qa else qb
    m.stage == 1 && q != vz && (c.queue q.toNat).visible.isEmpty
  | _ => false

/-- A ladder command that has not started, or has only elements left that a full queue does not take; an element that it
waits to pop, no stopped context can push. -/
def CoreSt.ladSettled (c : CoreSt) (m : LadCmd) : Bool :=
  m.fail.isNone &&
    (m.stage == 0 || c.popDry m ||
      (m.stage == 7 && m.rel.isEmpty && !m.outs.isEmpty &&
        (c.outFull m || (c.earlierLad m.id).any fun x => x.op.out == m.op.out && !x.pushed)))

/-- A transfer stands at a row or page boundary. -/
def EngCmd.atBoundary (e : EngCmd) : Bool := e.buf.isEmpty && e.done == 0

/-- The target of a RED or MSEND lies in the sender's gang. -/
def State.inGang (s : State) (k : Nat) (e : EngCmd) : Bool :=
  match s.target k e.rcd with
  | .at t => (s.core t).task == (s.core k).task
  | .later t => (s.core t).task == (s.core k).task
  | .none => false

/-- An MSEND whose slot at the target is not free, or which waits behind another message. -/
def State.slotTaken (s : State) (k : Nat) (e : EngCmd) : Bool :=
  !s.firstMessage k e ||
    match s.target k e.rcd with
    | .at t =>
      match (s.core t).mq (rcdTmq e.rcd) with
      | some r => r.slot r.claim != .empty
      | none => false
    | _ => false

/-- An engine command that stays for the save: one not started, one at a halt, or one at a boundary. RED and MSEND within
the gang, COLL, and creations run to completion first; a COLL that has started does so through a halt too (R446). -/
def State.engSettled (s : State) (k : Nat) (e : EngCmd) : Bool :=
  !e.fin && e.fail.isNone &&
    (e.stage == 0 ||
      match e.op with
      | .coll _ => false
      | .tspawn | .tgraph => e.halt.isSome
      | .red _ => e.halt.isSome || (e.stage == 2 && !s.inGang k e)
      | .msend => e.halt.isSome || (e.stage == 2 && (!s.inGang k e || s.slotTaken k e))
      | .ferry => e.halt.isSome || !e.taken || e.atBoundary
      | .ferryQ =>
        e.halt.isSome || !e.taken || e.buf.isEmpty ||
          (decide (512 ≤ e.buf.length) &&
            decide (((s.core k).queue (rcdDq e.rcd)).depth ≤ ((s.core k).queue (rcdDq e.rcd)).els.length))
      | .ferryTier => true
      | .stn _ => e.halt.isSome || e.buf.isEmpty
      | _ => e.halt.isSome || e.atBoundary)

/-- A core of the gang is ready to be saved. -/
def State.saveReady (s : State) (k : Nat) : Bool :=
  let c := s.core k
  c.preReq && c.status != .placed && !c.halted && c.stopped && c.untrapped && s.noneOwed k &&
    c.cL.accSettled && c.cS.accSettled && c.posted.isEmpty && c.genq.isEmpty &&
    s.seqLog.all (fun u => u.core != k) && c.matq.all MatCmd.settled && c.ladq.all c.ladSettled &&
    c.transfers.all (s.engSettled k) &&
    [Ctx.L, .X, .S].all (fun x => (c.ctx x).sigs.all fun g => !(c.ctx x).releasable x g) &&
    (s.part (s.partOf k)).waiting.all fun w => w.core != k

/-! ### The save -/

/-- A core as it is kept: CYCLE as elapsed, no leave (R414, R453). -/
def CoreSt.asSaved (c : CoreSt) (now : Nat) : CoreSt :=
  { c with cycle := now - c.cycle, tlb := [], preReq := false, keptT := 0, keptF := 0, keptL := 0, haltBy := [], haltReq := false }

/-- Requests of a core to governors leave with it (R453). -/
def State.dropLeave (s : State) (k : Nat) : State :=
  { s with gov := s.gov.map fun (e : Nat × List LeaveReq) => (e.1, e.2.filter fun (r : LeaveReq) => r.core != k) }

/-- One core is saved: its area is written, its PREEMPT record logged, its bindings kept with its rank, and the core
released. -/
def State.saveCore (s : State) (q base k : Nat) : State :=
  let c := s.core k
  let s := s.partWrite (s.partOf k) 0 base (saveBytes c fun o => s.freeVal (1000 + o))
  let s := s.log (s.coreRecord k .preempt (w64 base))
  let s := (s.moveCore q k (savedCore c.rank)).dropLeave k
  let s := s.updTask q fun t => { t with saved := Sparse.put t.saved c.rank (c.asSaved s.now), areas := Sparse.put t.areas c.rank base }
  s.updCore k CoreSt.cleared

/-- The save area of a rank: the one that an earlier pre-emption gave it, else its place in a run of areas that the
supervisor starts at `area` (assumption 42). -/
def Task.areaOf (t : Task) (area rank : Nat) : Nat := (Sparse.find t.areas rank).getD (area + rank * saveSize)

/-- A save area is 64 KiB aligned and lies in HBM (R412). -/
def areaOk (a : Nat) : Bool := a % 2 ^ 16 == 0 && hbmOk a && hbmOk (a + saveSize - 1)

/-- The pre-empted task goes back to its queue with its key unchanged (R288, R412). -/
def State.preempted (s : State) (q : Nat) : State :=
  match s.task? q with
  | some t =>
    (s.setTask { t with st := .waiting, spec := false, target := [], got := [], reqs := [], since := s.now }).updPart t.part
      fun p => { p with pre := false }
  | none => s

/-- PREEMPT_SAVE (R412): a speculative task is aborted and requeued instead (R301), unless it is the frontier, whose version lines are
still to be written out: it is saved once they have been (R78, R290). The copy is Ferry engines' work in HBM, so it waits for slots of
the partition (R430). -/
def execPreemptSave (task area : Nat) (s : State) : Host.Outcome State Fault Refusal :=
  match s.task? task with
  | none => .next s
  | some t =>
    let ks := s.coresOf task
    if t.st ≠ .running ∨ !ks.any (fun k => (s.core k).preReq) then .next s
    else if t.spec then .next (if s.isFront t then s else s.abort task)
    else if ks.all s.saveReady && (s.ferryServed t.part && s.hbmServed && ks.all fun k => areaOk (t.areaOf area (s.core k).rank)) then
      .next ((ks.foldl (fun s k => s.saveCore task (t.areaOf area (s.core k).rank) k) s).preempted task)
    else .next s

end Sys2Proof.Machine
end

