-- ==== Sys2Proof/Machine/Power.lean ====
section
/-! DEFINITION. Frames and refresh windows (R14, R374, R430), power leave and power gating (R400, R451 to R453), links and
host ports (R17, R390, R441), and the start (R448 to R450). -/

namespace Sys2Proof.Machine

open Sys2Proof

/-! ### Frames and refresh windows -/

/-- One slot-table write takes effect; a SLOTW retires (R369, R374). -/
def State.applySlot (s : State) (n : SlotNew) : State :=
  let s := { s with slotTab := Sparse.set 0 s.slotTab n.slot n.entry }
  if n.core < 384 then s.unhold n.core n.ctx n.wid else s

/-- FRAME_BOUNDARY (R374, R430): every entry that waits takes effect on every die, in the order of the writes. -/
def execFrameBoundary (s : State) : Host.Outcome State Fault Refusal :=
  .next (s.slotNew.foldl State.applySlot { s with slotNew := [] })

/-- WS_REFRESH_WINDOW (R14): a window of a bank set begins once its time has come, and the next one is due 32 µs after that
time. -/
def execWsRefreshWindow (bank : Nat) (s : State) : Host.Outcome State Fault Refusal :=
  if bank < 384 ∧ (Sparse.find s.refresh bank).isNone ∧ s.nextWindow bank ≤ s.now then
    .next { s with refresh := Sparse.put s.refresh bank s.now
                   windows := Sparse.put s.windows bank (s.nextWindow bank + refreshPeriod) }
  else .next s

/-- A refresh window of 400 ns ends: 1,000 core cycles (R10, R14). -/
def State.refreshEnd (s : State) (bank : Nat) : State :=
  match Sparse.find s.refresh bank with
  | some t => if 1000 ≤ s.now - t then { s with refresh := Sparse.erase s.refresh bank } else s
  | none => s

/-! ### Power leave (R451 to R453) -/

/-- The kind of a request. -/
def heavyOf (code : Nat) : Heavy := if code = 0 then .tile else if code = 1 then .ferry else .ladder

/-- Leave kept for a core, up to 255 (R453). -/
def CoreSt.keep (c : CoreSt) (h : Heavy) (n : Nat) : CoreSt := c.setKept h (min 255 (c.kept h + n))

/-- An operation has its leave. -/
def CoreSt.grantOp (c : CoreSt) (h : Heavy) (id : Nat) : CoreSt :=
  match h with
  | .tile => c.updMat id fun m => { m with leave := true }
  | .ferry => c.updEng id fun e => if e.taken && e.stage == 0 then { e with stage := 1 } else e
  | .ladder => c.updLad id fun m => { m with leave := true }

/-- LEAVE_GRANT (R452): the head of the island's requests is granted. What the budget covers at a moment is the governor's
own (assumption 18). -/
def execLeaveGrant (island : Nat) (s : State) : Host.Outcome State Fault Refusal :=
  match Sparse.get [] s.gov island with
  | [] => .next s
  | r :: rest =>
    let s := { s with gov := Sparse.put s.gov island rest }
    .next (s.updCore r.core fun c =>
      match r.op with
      | none => c.keep (heavyOf r.kind) r.n
      | some id => c.grantOp (heavyOf r.kind) id)

/-- Cores of a quadrant island. -/
def islandCores (island : Nat) : List Nat := (List.range 384).filter fun k => quadOf k == island

/-- ISLAND_POWER_GATING (R400): an island without a working core is gated, and its TLBs are flushed; or it is powered
again (assumption 43). -/
def execIslandPowerGating (island : Nat) (gated : Bool) (s : State) : Host.Outcome State Fault Refusal :=
  if 24 ≤ island then .next s
  else if !gated then .next { s with gated := s.gated.filter (· != island) }
  else if (islandCores island).all (fun k => (s.core k).status == .free) then
    .next (({ s with gated := if s.gated.contains island then s.gated else s.gated ++ [island] } : State).forCores
      (islandCores island) fun c => { c with tlb := [] })
  else .next s

/-! ### Links and host ports -/

/-- A link. -/
def State.link (s : State) (l : Nat) : Link := Sparse.get .reset s.links l

/-- LINK_FLIT_RETRY (R441): the flit is sent again, and RETRY counts and saturates. In the safe state the links are held in reset
(R449). -/
def execLinkFlitRetry (link : Nat) (s : State) : Host.Outcome State Fault Refusal :=
  if link < 18 ∧ !s.boot.safe then
    .next { s with links := Sparse.put s.links link ({ s.link link with retry := min 65535 ((s.link link).retry + 1) } : Link) }
  else .next s

/-- LINK_STATE_CHANGE (R441): 0 down, 1 training, 2 up; a link that comes up knows the far end's device number. In the
safe state the links are held in reset (R449). -/
def execLinkStateChange (link st peer : Nat) (s : State) : Host.Outcome State Fault Refusal :=
  if link < 18 ∧ st < 3 ∧ !s.boot.safe then
    let l : Link := { s.link link with state := st, peer := if st = 2 then peer % 2 ^ 16 else (s.link link).peer }
    .next { s with links := Sparse.put s.links link l }
  else .next s

/-- HOST_PORT_DOWN (R390): a host port goes down, or comes back. -/
def execHostPortDown (port : Nat) (up : Bool) (s : State) : Host.Outcome State Fault Refusal :=
  if 2 ≤ port then .next s
  else
    let others := s.ports.filter (· != port)
    .next { s with ports := if up then insertNat port others else others }

/-! ### The start (R448 to R450) -/

/-- A partition without tasks: no creation waits for it, and its queue has no segment in use (R450). -/
def Part.emptied (p : Part) : Part := { p with waiting := [], segs := [] }

/-- A start removes every task, those that wait for a queue segment too, and no core, engine or link works until it is done; every
granule has generation 0 and share count 0 (R249, R449, R450). -/
def State.stopWork (s : State) : State :=
  { s with cores := [], tasks := [], vlines := [], binds := [], gov := [], slotNew := [], colls := [], seqLog := []
           holds := [], devMig := [], links := [], grans := [], graphs := [], releases := [], crowded := false, freed := 0, portParts := [], tampered := []
           parts := s.parts.map fun (e : Nat × Part) => (e.1, e.2.emptied) }

/-- Stage 1 of a start of a kind begins. -/
def State.beginStart (s : State) (warm : Bool) : State :=
  { s.stopWork with boot := { s.boot with ready := false, warm := warm, stage := 1, listed := false } }

/-- A trained-value record is valid: it verifies under both signatures, names this device, and is younger than its expiry (R447). -/
def Trained.valid (r : Trained) (now : Nat) : Bool :=
  r.ecdsa && r.lms && r.serial == Config.serial && decide (now - r.made < r.expiry)

/-- A valid trained-value record exists. -/
def State.isTrained (s : State) : Bool :=
  match s.boot.trained with
  | some r => r.valid s.now
  | none => false

/-- The stage after a stage: a warm start skips the training when a valid trained-value record exists, and the scrub (R448). -/
def nextStage (warm trained : Bool) (n : Nat) : Nat :=
  if n = 2 ∧ warm ∧ trained then 5 else if n = 5 ∧ warm then 7 else if n = 8 then 0 else n + 1

/-- Memory loses the marks of one space (R448, stages 5 and 6). -/
def State.mend (s : State) (space : Nat) : State := { s with bad := s.bad.filter fun e => e.1 / 2 ^ 60 != space }

/-- Partition registers at reset; lineages are never handed out twice (R260). -/
def resetPart (p : Part) : Part := { Part.reset with lineage := p.lineage }

/-- What stage 8 resets: schedulers, launch queues, the mailbox, partition registers, the slot table and TLBs (R448). -/
def State.resetAll (s : State) : State :=
  { s.stopWork with
    links := s.links, queues := [], mbox := ⟨0, 0, 7, 0, 0⟩, slotTab := [], tlb2 := [], walks := [], moved := [], nextSeq := 1
    parts := s.parts.map fun (e : Nat × Part) => (e.1, resetPart e.2) }

/-- The effect of a stage (R448). Verification and training set nothing that this model holds, but for the island limits of
the configuration record. Stage 7 finds the second tier and builds the capability list (R455, R456). -/
def State.stageEffect (s : State) (n : Nat) : State :=
  match n with
  | 2 => { s with isl := [] }
  | 5 => { s.mend 3 with ws := [] }
  | 6 => { s.mend 0 with hbm := [] }
  | 7 => { s with boot := { s.boot with listed := true, tier := Config.tierBytes s.ticks } }
  | 8 => s.resetAll
  | _ => s

/-- A stage fails: the attempt ends, and a new one of the same kind begins, or the device enters the safe state (R449). -/
def State.stageFails (s : State) (code : Nat) : State :=
  let b := s.boot
  let n := b.attempt + 1
  let s := s.stopWork
  if 3 ≤ n then
    { s with boot := { b with attempt := 3, fstage := b.stage, fcode := code, safe := true, ready := false, stage := 0, listed := false } }
  else { s with boot := { b with attempt := n, fstage := b.stage, fcode := code, stage := 1, listed := false } }

/-- The failure codes of a stage (R450); a stage timeout is an event of its own. -/
def stageCode (stage code : Nat) : Bool :=
  match stage with
  | 1 | 2 => code == 1 || code == 2 || code == 3
  | 3 | 4 => code == 4
  | 6 => code == 6
  | _ => false

/-- The running stage ends well (code 0), or with a failure code. -/
def State.bootStage (s : State) (code : Nat) : State :=
  let b := s.boot
  if b.stage = 0 ∨ b.safe then s
  else if code = 0 then
    let s := s.stageEffect b.stage
    if b.stage = 8 then { s with boot := { s.boot with stage := 0, ready := true, attempt := 0 } }
    else { s with boot := { s.boot with stage := nextStage b.warm s.isTrained b.stage } }
  else if stageCode b.stage code then s.stageFails code
  else s

/-- STAGE_TIMEOUT (R449, R450). -/
def execStageTimeout (s : State) : Host.Outcome State Fault Refusal :=
  if s.boot.stage = 0 ∨ s.boot.safe then .next s else .next (s.stageFails 5)

/-- A start is asked for; in the safe state only a reset through the Icarn management interface does (R449). -/
def State.askStart (s : State) (warm : Bool) : State := if s.boot.safe then s else s.beginStart warm

/-- POWER_ON (R449): a cold start with BOOTSTAT at its reset values. -/
def execPowerOn (s : State) : Host.Outcome State Fault Refusal :=
  .next (if s.boot.safe then s else ({ s with boot := { Boot.reset with trained := s.boot.trained } } : State).beginStart false)

/-- PCIE_FUNDAMENTAL_RESET (R449). -/
def execPcieFundamentalReset (s : State) : Host.Outcome State Fault Refusal := .next (s.askStart false)

/-- BOOTCTL_COLD (R450): the running attempt is abandoned without counting as failed. -/
def execBootctlCold (s : State) : Host.Outcome State Fault Refusal := .next (s.askStart false)

/-- BOOTCTL_WARM (R450). -/
def execBootctlWarm (s : State) : Host.Outcome State Fault Refusal := .next (s.askStart true)

/-- ICARN_COLD_RESET (R449): it leaves the safe state. -/
def execIcarnColdReset (s : State) : Host.Outcome State Fault Refusal :=
  .next (({ s with boot := { s.boot with safe := false, attempt := 0 } } : State).beginStart false)

end Sys2Proof.Machine
end

