-- ==== Sys2Proof/Machine/HostIf.lean ====
section
/-! DEFINITION. What the host and the landing processors do to the device: BAR0 and the register port (R364, R433, R439,
R441, R450, R454), launch queues (R433 to R437), writes of device memory (R296, R355, R438), page moves and migration
(R395, R398, R439). -/

namespace Sys2Proof.Machine

open Sys2Proof

/-! ### Launch queues (R433 to R436) -/

/-- ESZ of a queue. -/
def LaunchQ.esz (b : LaunchQ) : Nat := field b.ctl 8 4
/-- CSZ. -/
def LaunchQ.csz (b : LaunchQ) : Nat := field b.ctl 0 4
/-- EN. -/
def LaunchQ.en (b : LaunchQ) : Bool := bitOf b.ctl 63
/-- PART. -/
def LaunchQ.partition (b : LaunchQ) : Nat := field b.ctl 56 4
/-- MAXLVL. -/
def LaunchQ.maxlvl (b : LaunchQ) : Nat := field b.ctl 52 2

/-- The word 0x10 after a host write: EN, VEC, ESZ and CSZ are the host's, PART and MAXLVL stay (R433). -/
def LaunchQ.hostCtl (b : LaunchQ) (v : Word) : Word :=
  w64 (field v 63 1 * 2 ^ 63 + b.partition * 2 ^ 56 + b.maxlvl * 2 ^ 52 + field v 32 11 * 2 ^ 32 + field v 8 4 * 2 ^ 8 + field v 0 4)

/-- The word 0x10 after a write by the monitor: PART and MAXLVL (R433). -/
def LaunchQ.monitorCtl (b : LaunchQ) (v : Word) : Word :=
  w64 (b2n b.en * 2 ^ 63 + field v 56 4 * 2 ^ 56 + field v 52 2 * 2 ^ 52 + field b.ctl 32 11 * 2 ^ 32 + b.esz * 2 ^ 8 + b.csz)

/-- Sizes and level that a queue can run with (R433). -/
def LaunchQ.ok (b : LaunchQ) : Bool := decide (4 ≤ b.esz) && decide (4 ≤ b.csz) && b.maxlvl != 3

/-- An entry of the queue waits for a queue segment (R422, R436). -/
def State.entryWaits (s : State) (q : Nat) : Bool :=
  s.parts.any fun e => e.2.waiting.any fun w => w.core == sequencer && w.id == q &&
    match w.task.origin with | .host _ _ _ => true | _ => false

/-- A queue that no longer fetches is IDLE once the entry being read is done (R433). DEDUCED -/
def State.restQueue (s : State) (q : Nat) : State :=
  s.updQueue q fun b => if b.state = 1 ∧ !b.en ∧ b.tries = 0 then { b with state := 0 } else b

/-- The state that a write of EN brings: 0 IDLE, 1 RUN, 2 KICK, 3 BADKICK, 4 BADCFG (R433). A queue in BADCFG is IDLE
again once EN is written 0. DEDUCED -/
def LaunchQ.enable (b : LaunchQ) : LaunchQ :=
  if b.en then
    if b.state = 0 ∨ b.state = 2 ∨ b.state = 3 then { b with state := if b.ok then 1 else 4, tries := 0 } else b
  else if b.state = 4 then { b with state := 0 }
  else b

/-- A host write of word 0x10 of a queue's block (R433). -/
def State.writeCtl (s : State) (q : Nat) (v : Word) : State :=
  (s.updQueue q fun b => ({ b with ctl := b.hostCtl v } : LaunchQ).enable).restQueue q

/-- QUEUE_ENABLE (R433). -/
def execQueueEnable (q : Nat) (v : Word) (s : State) : Host.Outcome State Fault Refusal :=
  if 32 ≤ q ∨ s.boot.safe then .next s else .next (s.writeCtl q v)

/-- A host write of KTAIL (R435). -/
def State.writeKtail (s : State) (q : Nat) (tail : BitVec 32) : State :=
  let s := s.updQueue q fun b => { b with ktail := tail }
  let b := s.queue? q
  if 2 ^ b.esz < (tail - b.lhead).toNat then (s.updQueue q fun b => { b with state := 3, kidx := b.lhead }).raiseVec q else s

/-- KICK (R435). -/
def execKick (q : Nat) (tail : BitVec 32) (s : State) : Host.Outcome State Fault Refusal :=
  if 32 ≤ q ∨ s.boot.safe then .next s else .next (s.writeKtail q tail)

/-- The host address of entry `i` (R434). -/
def LaunchQ.entryAt (b : LaunchQ) (i : Nat) : Nat := field b.ebase 6 58 * 64 + 64 * (i % 2 ^ b.esz)

/-- The expected phase of entry `i` (R435). -/
def LaunchQ.phase (b : LaunchQ) (i : Nat) : Nat := 1 - i / 2 ^ b.esz % 2

/-- The completion ring has room for every record that the queue may owe (R437). -/
def LaunchQ.room (b : LaunchQ) : Bool := decide ((b.lhead - b.chead).toNat < 2 ^ b.csz)

/-- An entry is announced (R435). -/
def LaunchQ.announced (b : LaunchQ) : Bool := decide (0 < (b.ktail - b.lhead).toNat)

/-- A stale phase after the 65th read stops the queue (R435). -/
def State.kickFails (s : State) (q : Nat) : State :=
  let b := s.queue? q
  let r := { looseRecord b.partition (s.freeVal 1 % 4) .kick 0 (w64 q) (w64 (s.freeVal 2)) (w64 (s.freeVal 3)) with
    cyc := w64 (s.freeVal 4) }
  ((s.updQueue q fun b => { b with state := 2, kidx := b.lhead, tries := 0 }).raiseVec q).log r

/-- An entry leaves the ring. -/
def State.consumed (s : State) (q : Nat) : State := (s.updQueue q fun b => { b with lhead := b.lhead + 1, tries := 0 }).restQueue q

/-- An entry is refused with a status (R436, R437). -/
def State.refuseEntry (s : State) (q : Nat) (tag : Word) (irq : Bool) (status : Nat) : State :=
  (s.consumed q).completionRecord q tag irq 0 status

/-- TSPAST (R436). -/
def State.tsPast (s : State) (p ts : Nat) : Bool :=
  match s.front p with
  | some t => decide (ts < t.ts)
  | none => decide (ts < (s.part p).lastTs)

/-- An entry whose header has been read and passes: LEVEL, TSPAST, and the creation (R436). -/
def State.launch (s : State) (q : Nat) (e : List Byte) (h : Hdr) : State :=
  let b := s.queue? q
  let w := word64 e 7
  let tag := w64 (word64 e 3)
  let irq := w / 8 % 2 == 1
  let level := w / 2 % 4
  if b.maxlvl < level ∨ level = 3 then s.refuseEntry q tag irq 4
  else if s.tsPast b.partition (word64 e 2) then s.refuseEntry q tag irq 6
  else
    let t := newTask (word64 e 2) b.partition 0 level (w % 2 == 1) (w64 (word64 e 0)) (w64 (word64 e 1)) 0 (.host q tag irq) h
    match s.create t sequencer .L q with
    | .done s => s.consumed q
    | .wait s => s.consumed q
    | .refused => s.refuseEntry q tag irq 3

/-- Entry `LHEAD` is consumed (R436). A header that cannot be read: whether the entry waits for a service or is refused
with BADHDR is free (assumption 45). -/
def State.consume (s : State) (q : Nat) : State :=
  let b := s.queue? q
  let e := s.host.bytes (b.entryAt b.lhead.toNat) 64
  let w := word64 e 7
  let tag := w64 (word64 e 3)
  let irq := w / 8 % 2 == 1
  if word64 e 0 % 64 ≠ 0 then s.refuseEntry q tag irq 1
  else
    match s.image sequencer b.partition ⟨false, w / 2 % 4 == 0⟩ (word64 e 0) with
    | .bad _ => s.refuseEntry q tag irq 1
    | .ok h _ => s.launch q e h
    | .stuck .wait _ => s
    | .stuck _ _ => if s.freeVal 9 % 2 = 0 then s else s.refuseEntry q tag irq 1

/-- The queue can read an entry now. -/
def State.fetches (s : State) (q : Nat) : Bool :=
  let b := s.queue? q
  s.boot.ready && !s.ports.isEmpty && b.state == 1 && (b.en || decide (0 < b.tries)) && b.announced && b.room && !s.entryWaits q

/-- ENTRY_FETCH (R435): one read of the phase word. -/
def execEntryFetch (q : Nat) (s : State) : Host.Outcome State Fault Refusal :=
  if 32 ≤ q ∨ !s.fetches q then .next s
  else
    let b := s.queue? q
    let w := s.host.num (b.entryAt b.lhead.toNat + 0x38) 8
    if w / 2 ^ 63 = b.phase b.lhead.toNat then .next (s.consume q)
    else if 65 ≤ b.tries + 1 then .next (s.kickFails q)
    else .next (s.updQueue q fun b => { b with tries := b.tries + 1 })

/-! ### Writes of device memory (R296, R355, R438) -/

/-- A write by an agent outside every domain's uncommitted tasks, of bytes that are all HBM (R381). -/
def State.agentWrite (s : State) (pa : Nat) (bs : List Byte) : State :=
  if s.boot.safe ∨ bs.isEmpty ∨ !hbmOk pa ∨ !hbmOk (pa + bs.length - 1) ∨ pa / 2 ^ 37 ≠ (pa + bs.length - 1) / 2 ^ 37 then s
  else s.outsideWrite 0 pa bs

/-- HOST_DEVICE_WRITE (R355, R438). -/
def execHostDeviceWrite (pa : Nat) (data : List Byte) (s : State) : Host.Outcome State Fault Refusal :=
  .next (s.agentWrite pa data)

/-- WSW of partition `p` through the register port (R364, R370): `data` are the bytes of the source. One that WSW refuses, or that
would have to wait, writes nothing. -/
def State.portWsw (s : State) (p off : Nat) (data : List Byte) : State :=
  let n := data.length
  if s.boot.safe ∨ 16 ≤ p ∨ off % 64 ≠ 0 ∨ n % 64 ≠ 0 ∨ n = 0 ∨ 2 ^ 30 < n ∨ !(banksOf off n).all (s.part p).hasBank ∨ !s.quiet p 0 ∨
      !(banksOf off n).all (fun b => s.portOpen ⟨3, b * 2 ^ 24⟩) then s
  else s.partWrite p 3 off data

/-- A write by a landing processor through a partition's page table, with the rights of supervisor level. -/
def State.portStore (s : State) (p va : Nat) (bs : List Byte) : State :=
  match s.translateIn sequencer p ⟨true, false⟩ va with
  | .ok l =>
    if !s.portOpen l then s
    else if l.space = 5 then s.sequence l.addr bs sequencer .L 0 p va
    else s.partWrite p l.space l.addr bs
  | _ => s

/-- PTBW of entry `k`, or with 64 of the header, of partition `p` through the register port (R364, R371): `data` are the 64 bytes.
One that PTBW refuses writes nothing. -/
def State.portPtbw (s : State) (p k : Nat) (data : List Byte) : State :=
  let base := field (s.part p).ptbase 6 46 * 64
  if s.boot.safe ∨ 16 ≤ p ∨ 64 < k ∨ data.length ≠ 64 ∨ base = 0 ∨ (if k = 64 then probeHdrBad data else probeBad data) then s
  else s.portStore p (base + if k = 64 then 0 else 64 + 64 * k) data

/-- LANDING_PROCESSOR_WRITE (R296, R364). An address of HBM is written there; addresses from 2^60 stand for the operations of the
register port that carry bytes: 2^60 + p × 2^56 + offset is WSW, 2^61 + p × 2^56 + k is PTBW (assumption 46). -/
def execLandingProcessorWrite (pa : Nat) (data : List Byte) (s : State) : Host.Outcome State Fault Refusal :=
  .next <|
    match pa / 2 ^ 60 with
    | 0 => s.agentWrite pa data
    | 1 => s.portWsw (pa / 2 ^ 56 % 16) (pa % 2 ^ 56) data
    | 2 => s.portPtbw (pa / 2 ^ 56 % 16) (pa % 2 ^ 56) data
    | _ => s

/-! ### Page moves and migration (R395, R398, R439) -/

/-- The hold window that a page lies in. -/
def State.holdOf (s : State) (p page : Nat) : Option HoldWin := s.holds.find? fun h => h.part == p && h.page == page

/-- Set or clear HOLD in a page's entry (R384, R398); a page of a window has none (R387). -/
def State.setHold (s : State) (p page : Nat) (b : Bool) : State :=
  match if (s.part p).inWindow (page * 2 ^ 16) then none else s.leafEntry p (page * 2 ^ 16) with
  | some a =>
    let w := s.entry a
    if entryType w = 3 then s.setEntry p a (w64 (w.toNat - field w 11 1 * 2 ^ 11 + b2n b * 2 ^ 11)) else s
  | none => s

/-- A hold window of 1 ms begins (R398). -/
def State.beginHold (s : State) (p page : Nat) (device : Bool) : State :=
  { s with holds := s.holds ++ [⟨p, page, device, s.now⟩] }

/-- The page of the host's request (R439). -/
def Mailbox.page (m : Mailbox) : Nat := field m.rva 16 36

/-- The partition of the host's request. -/
def Mailbox.partition (m : Mailbox) : Nat := field m.rctl 0 4

/-- Where the host's request wants the page: 0 HBM, 1 host memory. -/
def Mailbox.wants (m : Mailbox) : Nat := if bitOf m.rctl 8 then 0 else 1

/-- The host's request is outstanding for a page (R398, R439). -/
def Mailbox.asks (m : Mailbox) (p page : Nat) : Bool := m.res == 0 && m.partition == p && m.page == page

/-- The residence of a page: 0 HBM, 1 host, 2 second tier. -/
def State.residence (s : State) (p page : Nat) : Option Nat :=
  if (s.part p).inBerths (page * 2 ^ 16) then
    match s.berthHome p (page * 2 ^ 16) with
    | .ok l => some l.space
    | .error _ => none
  else
    match s.walk p (page * 2 ^ 16) with
    | .leaf w _ => some (leafSpace w)
    | _ => none

/-- The device's decision to migrate a page is taken back or carried out. -/
def State.dropMig (s : State) (p page : Nat) : State := { s with devMig := s.devMig.filter fun e => !(e.1 == p && e.2 == page) }

/-- Two requests conflict (R398): the page's residence settles who keeps it. A page without a leaf lies in none of the device's
memories, so the host keeps it too, and no entry shows the hold (assumption 96). DEDUCED -/
def State.conflict (s : State) (p page : Nat) : State :=
  match s.residence p page with
  | some 0 => { s.beginHold p page true with mbox := { s.mbox with res := 2 } }
  | some 2 => { s.beginHold p page true with mbox := { s.mbox with res := 2 } }
  | _ => ((s.dropMig p page).beginHold p page false).setHold p page true

/-- The host submits a request (R398, R439). One that meets a hold window which keeps the page for the device is answered
like the one before it. -/
def State.submit (s : State) : State :=
  let p := s.mbox.partition
  let page := s.mbox.page
  match s.holdOf p page with
  | some h => if h.device then { s with mbox := { s.mbox with res := 2 } } else s
  | none => if s.devMig.contains (p, page) then s.conflict p page else s

/-- A host write of the mailbox's word 0x08: DIR and MPART take their values, and with GO a request is submitted, unless one is
outstanding (R439). -/
def State.writeMbox (s : State) (v : Word) : State :=
  let s := { s with mbox := { s.mbox with ctl := w64 (field v 8 1 * 2 ^ 8 + field v 0 4) } }
  if bitOf v 63 ∧ s.mbox.res ≠ 0 then
    ({ s with mbox := { s.mbox with res := 0, rva := s.mbox.mva, rctl := s.mbox.ctl } } : State).submit
  else s

/-- MIGRATION_GO (R439): the host writes the page, and then the word with GO. -/
def execMigrationGo (mva : Nat) (dir : Bool) (part : Nat) (s : State) : Host.Outcome State Fault Refusal :=
  if s.boot.safe then .next s
  else
    .next (({ s with mbox := { s.mbox with mva := w64 (mva / 2 ^ 16 % 2 ^ 36 * 2 ^ 16) } } : State).writeMbox
      (w64 (2 ^ 63 + b2n dir * 2 ^ 8 + part % 16)))

/-- A page that no mover moves: it has no well-formed leaf of its own, or is replicated, or lies in no pool of a window (R387, R395,
R398). -/
def State.fixedPage (s : State) (p va : Nat) : Bool :=
  if (s.part p).inBerths va then (s.residence p (va / 2 ^ 16)).isNone
  else
    (s.part p).inWs va ||
      match s.leafEntry p va with
      | none => true
      | some a => let w := s.entry a; entryType w != 3 || !leafOk w false || leafRep w

/-- The landing processor of D1 answers the host's request (R398, R439): 1 moved, once the page lies where the request
wants it; 2 in a hold window that keeps it for the device; 3 refused, where no mover moves the page, or in a hold window that the
host itself was given. What stands in a move's way for a time only is waited for. -/
def State.migrationAnswer (s : State) (res : Nat) : State :=
  let p := s.mbox.partition
  let page := s.mbox.page
  let put := { s with mbox := { s.mbox with res := res } }
  if s.mbox.res ≠ 0 ∨ s.boot.safe then s
  else if res = 1 then if s.residence p page = some s.mbox.wants then put else s
  else if res = 2 then
    match s.holdOf p page with
    | some h => if h.device then put else s
    | none => s
  else if res = 3 then
    match s.holdOf p page with
    | some h => if h.device then s else put
    | none => if s.fixedPage p (page * 2 ^ 16) then put else s
  else s

/-- The device has won a page that it must still bring into HBM (R398). -/
def State.mustFetch (s : State) (p page : Nat) : Bool :=
  (s.holds.any fun h => h.part == p && h.page == page && h.device) && s.residence p page == some 2

/-- The device decides to migrate a page in answer to an XLATE, or its decision has been carried out (R393, R398). A second-tier page
that it has won in a conflict moves into HBM first. -/
def State.deviceMigration (s : State) (p va : Nat) (done : Bool) : State :=
  let page := va / 2 ^ 16
  if s.boot.safe then s
  else if done then if s.mustFetch p page then s else s.dropMig p page
  else if (s.holdOf p page).isSome ∨ s.devMig.contains (p, page) ∨ 16 ≤ p then s
  else
    let s := { s with devMig := s.devMig ++ [(p, page)] }
    if s.mbox.asks p page then s.conflict p page else s

/-- A page may be moved to a place now: no hold window keeps it, but that a page which the device has won in a conflict may go to HBM
while it carries its decision out; an outstanding request of the host wants it there; and the place is one that a leaf can name (R381,
R384, R398). -/
def State.mayMove (s : State) (p page dest addr : Nat) : Bool :=
  (match s.holdOf p page with
    | none => true
    | some h => h.device && s.devMig.contains (p, page) && dest == 0) &&
    (!s.mbox.asks p page || dest == s.mbox.wants) && addr % 2 ^ 16 == 0 && (if dest = 0 then hbmOk addr else decide (addr < 2 ^ 60))

/-- PAGE_MOVE (R395): a landing processor moves a page; the device's decision to do so has then been carried out. What lies outside
the device is reached through a host port (R390, R440). -/
def execPageMove (part va dest addr : Nat) (s : State) : Host.Outcome State Fault Refusal :=
  let page := va / 2 ^ 16
  if s.boot.safe ∨ 3 ≤ dest ∨ !s.mayMove part page dest addr then .next s
  else
    match s.movable part (page * 2 ^ 16) with
    | none => .next s
    | some h =>
      if (h.loc.space != 0 || dest != 0) && s.ports.isEmpty then .next s
      else .next ((s.movePage part (page * 2 ^ 16) h ⟨dest, addr⟩ false).dropMig part page)

/-- HOLD_WINDOW_EXPIRE (R398): HOLD is cleared, never earlier than 1 ms after it was set. -/
def execHoldWindowExpire (part va : Nat) (s : State) : Host.Outcome State Fault Refusal :=
  let page := va / 2 ^ 16
  match s.holdOf part page with
  | none => .next s
  | some h =>
    if s.now - h.since < 2500000 ∨ s.boot.safe then .next s
    else
      let s := { s with holds := s.holds.filter fun x => !(x.part == part && x.page == page) }
      .next (if h.device then s else s.setHold part page false)

/-! ### Registers (R364, R433, R439, R450) -/

/-- A host write of BAR0 (R433, R439, R450); registers that only the device or the monitor writes, and offsets that name no
register, keep their values. -/
def State.bar0Write (s : State) (off : Nat) (v : Word) : State :=
  let q := (off - 0x20000) / 64
  if 0x20000 ≤ off ∧ off < 0x20800 then
    match off % 64 with
    | 0x00 => s.updQueue q fun b => { b with ebase := w64 (field v 6 58 * 64) }
    | 0x08 => s.updQueue q fun b => { b with cbase := w64 (field v 6 58 * 64) }
    | 0x10 => s.writeCtl q v
    | 0x18 => s.writeKtail q (BitVec.ofNat 32 v.toNat)
    | 0x28 => s.updQueue q fun b => { b with chead := BitVec.ofNat 32 v.toNat }
    | _ => s
  else if off = 0x30000 then { s with mbox := { s.mbox with mva := w64 (field v 16 36 * 2 ^ 16) } }
  else if off = 0x30008 then s.writeMbox v
  else if off = 0x108 then
    if bitOf v 1 then s.askStart false else if bitOf v 0 then s.askStart true else s
  else s

/-- A write of PARTW's kind through the register port (R364, R379): it waits for the partition to empty, behind those that wait
already. One that PARTW refuses writes nothing. -/
def State.portPartw (s : State) (p sel : Nat) (v : Word) : State :=
  if 16 ≤ p ∨ s.partBad p sel v then s
  else if s.quiet p 0 && !(s.portParts.any fun w => w.part == p) then s.writePart p sel v
  else { s with portParts := s.portParts ++ [⟨p, sel, v⟩] }

/-- The oldest write that has waited for its partition to empty takes effect, if it still may (R379). -/
def State.portPartwStep (s : State) : State :=
  match s.portParts.find? fun w => s.quiet w.part 0 with
  | none => s
  | some w =>
    let s := { s with portParts := delFirst (fun x => x == w) s.portParts }
    if s.partBad w.part w.sel w.value then s else s.writePart w.part w.sel w.value

/-- What TLBI names, by its fn. -/
def shootOf (fn va : Nat) : Shoot := if fn = 0 then .page va else if fn = 1 then .block va else .all

/-- HALT or RESUME of a core through the register port (R364, R376). -/
def State.portHalt (s : State) (k : Nat) (halt : Bool) : State :=
  if 384 ≤ k then s
  else if halt then
    if (s.core k).halted then s else (s.updCore k fun c => { c with haltReq := true }).haltDone k
  else s.unhalt k

/-- QUAR of a core of its partition through the register port (R364, R373). -/
def State.portQuar (s : State) (k w : Nat) (v : Word) : State :=
  if 384 ≤ k then s
  else
    let rows := rowsAt w v.toNat
    match s.quarEntry (s.partOf k) k with
    | none => s.updCore k fun c => c.quarantine rows
    | some va =>
      match s.translateIn sequencer (s.partOf k) ⟨true, false⟩ va with
      | .ok l =>
        if !s.portOpen l then s
        else (s.updCore k fun c => c.quarantine rows).portStore (s.partOf k) va (orRows (s.portBytes l 32) rows)
      | _ => s

/-- REGISTER_WRITE (R98, R364, R368): a write to a register that has no row of its own. Offsets below 2^20 are the host's, in
BAR0. Those above number the landing processors' register port (assumption 46): the monitor's fields of the launch queues,
partition registers, slot table and island limits, and the operations of TLBI, HALT, RESUME, QUAR, IPI and BMAPW. -/
def execRegisterWrite (off : Nat) (v : Word) (s : State) : Host.Outcome State Fault Refusal :=
  if s.boot.safe then .next s
  else
    let n := off % 2 ^ 20
    .next <|
      match off / 2 ^ 20 with
      | 0 => s.bar0Write off v
      | 1 => if n < 32 then s.updQueue n fun b => { b with ctl := b.monitorCtl v } else s
      | 2 => s.portPartw (n / 32) (n % 32) v
      | 3 =>
        if n < 64 ∧ !slotBad (BitVec.ofNat 16 v.toNat) then
          { s with slotNew := s.slotNew ++ [⟨n, BitVec.ofNat 16 v.toNat, sequencer, .L, 0⟩] }
        else s
      | 4 => if n < 32 then s.writeIsland n v else s
      | 5 => if s.translated (n % 16) (shootOf (n / 16) v.toNat) then s else s.shoot (n % 16) (shootOf (n / 16) v.toNat)
      | 6 => s.portHalt (n / 2) (n % 2 == 1)
      | 7 => s.portQuar (n / 4) (n % 4) v
      | 8 => if n ≤ 6 then s.interrupt n (v.toNat % 4096) else s
      | 9 => if (bmapwTrap v).isNone then s.mapRun v fun g => { g with share := 0 } else s
      | m =>
        let x := off % 2 ^ 24
        if m / 16 = 1 ∧ x % 256 ≠ 0 ∧ (bmapwTrap v).isNone then s.mapRun v fun _ => ⟨x % 256, x / 256⟩ else s

/-- What the host reads in BAR0 (R433, R439, R441, R449, R450, R454). The capability list is there once stage 7 has built it (R455);
before, its place reads 0 (assumption 90). -/
def State.bar0 (s : State) (off : Nat) : Word :=
  let b := s.boot
  let q := s.queue? ((off - 0x20000) / 64)
  if off = 0x100 then
    w64 (b2n b.safe * 2 ^ 63 + b2n b.ready * 2 ^ 62 + b.attempt * 2 ^ 56 + b2n b.warm * 2 ^ 55 + b.fstage * 2 ^ 48 +
      b.fcode * 2 ^ 40 + b.stage * 2 ^ 32)
  else if b.safe then 0
  else if 0x1000 ≤ off ∧ off < 0x2000 then if b.listed then capWord s.slotTab b.tier (off - 0x1000) else 0
  else if 0x20000 ≤ off ∧ off < 0x20800 then
    match off % 64 with
    | 0x00 => q.ebase
    | 0x08 => q.cbase
    | 0x10 => q.ctl
    | 0x18 => zext q.ktail
    | 0x20 => zext q.lhead
    | 0x28 => zext q.chead
    | 0x30 => zext q.ctail
    | 0x38 => w64 (q.kidx.toNat * 2 ^ 32 + q.state)
    | _ => 0
  else if off = 0x30000 then s.mbox.mva
  else if off = 0x30008 then s.mbox.ctl
  else if off = 0x30010 then w64 s.mbox.res
  else if 0x40000 ≤ off ∧ off < 0x40090 ∧ off % 8 = 0 then s.linkWord ((off - 0x40000) / 8)
  else 0

end Sys2Proof.Machine
end

