-- ==== Sys2Proof/Machine/Inner.lean ====
section
/-! DEFINITION. The elementary steps inside events. -/

namespace Sys2Proof.Machine

open Sys2Proof

/-- A write by an owner of host memory or of pooled memory (R224, R296, R438). -/
def State.ownerWrite (s : State) (tier : Bool) (addr : Nat) (data : List Byte) : State :=
  s.outsideWrite (if tier then 2 else 1) addr data

/-- An order to pre-empt a task (R412): a speculative one is aborted and requeued instead (R301), but never the frontier (R290). -/
def State.preemptOrder (s : State) (q : Nat) : State :=
  match s.task? q with
  | some t => if t.st ≠ .running then s else if t.spec && !s.isFront t then s.abort q else s.orderPreempt t
  | none => s

/-- One elementary step. -/
def State.inner (s : State) (a : Inner) : State :=
  match a with
  | .trainedRecord r => { s with boot := { s.boot with trained := r } }
  | .bootStage code => s.bootStage code
  | .engineStep k x id => if k < 384 then s.engineStep k x id else s
  | .ferryAccept k id => if k < 384 then s.ferryAccept k id else s
  | .ferryStep k id => if k < 384 then s.ferryStep k id else s
  | .ladderStep k id => if k < 384 then s.ladderStep k id else s
  | .genStep k => if k < 384 then s.genStep k else s
  | .accessStep k x => if k < 384 then s.accessStep k x else s
  | .replicaApply die => if die < 6 then s.replicaApply die else s
  | .remoteContribution p g n r sub op data => s.remoteContribution p g n r sub op data
  | .collDeliver i => s.collDeliver i
  | .outsideWrite tier a bs => s.ownerWrite tier a bs
  | .deviceMigration p va done => s.deviceMigration p va done
  | .migrationAnswer res => s.migrationAnswer res
  | .upset kind k key => s.upset kind k key
  | .preemptOrder q => s.preemptOrder q
  | .makeRoom p => s.makeRoom p
  | .controlError p => s.segmentError (p % 16)
  | .nodeRelease => s.releaseStep
  | .refreshEnd b => s.refreshEnd b
  | .haltedWrite k w => s.haltedWrite k w
  | .portPartw => s.portPartwStep

end Sys2Proof.Machine
end

