-- ==== Sys2Proof/Machine/Scalar.lean ====
section
/-! DEFINITION. The scalar and control words, opcodes 0x00 to 0x3F (R133 to R160), but for the special registers, EXIT,
SYSC and LEAVE, which stand with the system words. -/

namespace Sys2Proof.Machine

open Sys2Proof

/-- A word that writes xd from two registers. -/
def alu2 (lat : Nat) (xd xa xb : Reg) (f : Word → Word → Word) : Issue :=
  { allowed := .all, uses := [xd, xa, xb], reads := [xa, xb], writes := [xd]
    effect := fun wid s => s.result wid lat xd (f (s.reg xa) (s.reg xb)) }

/-- A word that writes xd from one register. -/
def alu1 (lat : Nat) (xd xa : Reg) (f : Word → Word) : Issue :=
  { allowed := .all, uses := [xd, xa], reads := [xa], writes := [xd], effect := fun wid s => s.result wid lat xd (f (s.reg xa)) }

/-- A word that writes xd from one register and its own old value. -/
def aluOld (xd xa : Reg) (f : Word → Word → Word) : Issue :=
  { allowed := .all, uses := [xd, xa], reads := [xd, xa], writes := [xd]
    effect := fun wid s => s.result wid 1 xd (f (s.reg xa) (s.reg xd)) }

/-- NOP (R160): nothing beyond its control half. -/
def execNop (c : Ctl) (s : State) : Host.Outcome State Fault Refusal :=
  s.issue (.nop c) { allowed := .all, effect := fun _ s => s }

/-- ADD (R134). -/
def execAdd (c : Ctl) (xd xa xb : Reg) (s : State) : Host.Outcome State Fault Refusal :=
  s.issue (.add c xd xa xb) (alu2 1 xd xa xb (· + ·))

/-- SUB (R134). -/
def execSub (c : Ctl) (xd xa xb : Reg) (s : State) : Host.Outcome State Fault Refusal :=
  s.issue (.sub c xd xa xb) (alu2 1 xd xa xb (· - ·))

/-- MUL (R134): bits 63:0 of the product. -/
def execMul (c : Ctl) (xd xa xb : Reg) (s : State) : Host.Outcome State Fault Refusal :=
  s.issue (.mul c xd xa xb) (alu2 3 xd xa xb (· * ·))

/-- MULH (R134). -/
def execMulh (c : Ctl) (xd xa xb : Reg) (m : Mulh) (s : State) : Host.Outcome State Fault Refusal :=
  s.issue (.mulh c xd xa xb m) (alu2 3 xd xa xb (mulhOf m))

/-- DIV (R134, R135). -/
def execDiv (c : Ctl) (xd xa xb : Reg) (uns : Bool) (s : State) : Host.Outcome State Fault Refusal :=
  s.issue (.div c xd xa xb uns) (alu2 20 xd xa xb (divOf uns))

/-- REM (R134, R135). -/
def execRem (c : Ctl) (xd xa xb : Reg) (uns : Bool) (s : State) : Host.Outcome State Fault Refusal :=
  s.issue (.rem c xd xa xb uns) (alu2 20 xd xa xb (remOf uns))

/-- AND (R134). -/
def execAnd (c : Ctl) (xd xa xb : Reg) (s : State) : Host.Outcome State Fault Refusal :=
  s.issue (.and c xd xa xb) (alu2 1 xd xa xb (· &&& ·))

/-- OR (R134). -/
def execOr (c : Ctl) (xd xa xb : Reg) (s : State) : Host.Outcome State Fault Refusal :=
  s.issue (.or c xd xa xb) (alu2 1 xd xa xb (· ||| ·))

/-- XOR (R134). -/
def execXor (c : Ctl) (xd xa xb : Reg) (s : State) : Host.Outcome State Fault Refusal :=
  s.issue (.xor c xd xa xb) (alu2 1 xd xa xb (· ^^^ ·))

/-- SHL (R134). -/
def execShl (c : Ctl) (xd xa xb : Reg) (imm : BitVec 6) (s : State) : Host.Outcome State Fault Refusal :=
  s.issue (.shl c xd xa xb imm) (alu2 1 xd xa xb fun a b => a <<< shiftOf b imm)

/-- SHR (R134). -/
def execShr (c : Ctl) (xd xa xb : Reg) (imm : BitVec 6) (s : State) : Host.Outcome State Fault Refusal :=
  s.issue (.shr c xd xa xb imm) (alu2 1 xd xa xb fun a b => a >>> shiftOf b imm)

/-- SAR (R134). -/
def execSar (c : Ctl) (xd xa xb : Reg) (imm : BitVec 6) (s : State) : Host.Outcome State Fault Refusal :=
  s.issue (.sar c xd xa xb imm) (alu2 1 xd xa xb fun a b => a.sshiftRight (shiftOf b imm))

/-- ROL (R134). -/
def execRol (c : Ctl) (xd xa xb : Reg) (imm : BitVec 6) (s : State) : Host.Outcome State Fault Refusal :=
  s.issue (.rol c xd xa xb imm) (alu2 1 xd xa xb fun a b => a.rotateLeft (shiftOf b imm))

/-- MIN (R134). -/
def execMin (c : Ctl) (xd xa xb : Reg) (uns : Bool) (s : State) : Host.Outcome State Fault Refusal :=
  s.issue (.min c xd xa xb uns) (alu2 1 xd xa xb (minOf uns))

/-- MAX (R134). -/
def execMax (c : Ctl) (xd xa xb : Reg) (uns : Bool) (s : State) : Host.Outcome State Fault Refusal :=
  s.issue (.max c xd xa xb uns) (alu2 1 xd xa xb (maxOf uns))

/-- ADDI (R136). -/
def execAddi (c : Ctl) (xd xa : Reg) (imm : BitVec 28) (s : State) : Host.Outcome State Fault Refusal :=
  s.issue (.addi c xd xa imm) (alu1 1 xd xa fun a => a + sext imm)

/-- ANDI (R136). -/
def execAndi (c : Ctl) (xd xa : Reg) (imm : BitVec 28) (s : State) : Host.Outcome State Fault Refusal :=
  s.issue (.andi c xd xa imm) (alu1 1 xd xa fun a => a &&& sext imm)

/-- ORI (R136). -/
def execOri (c : Ctl) (xd xa : Reg) (imm : BitVec 28) (s : State) : Host.Outcome State Fault Refusal :=
  s.issue (.ori c xd xa imm) (alu1 1 xd xa fun a => a ||| sext imm)

/-- XORI (R136). -/
def execXori (c : Ctl) (xd xa : Reg) (imm : BitVec 28) (s : State) : Host.Outcome State Fault Refusal :=
  s.issue (.xori c xd xa imm) (alu1 1 xd xa fun a => a ^^^ sext imm)

/-- MULI (R136). -/
def execMuli (c : Ctl) (xd xa : Reg) (imm : BitVec 28) (s : State) : Host.Outcome State Fault Refusal :=
  s.issue (.muli c xd xa imm) (alu1 3 xd xa fun a => a * sext imm)

/-- CMP (R137). -/
def execCmp (c : Ctl) (cond : Cond) (xd xa xb : Reg) (s : State) : Host.Outcome State Fault Refusal :=
  s.issue (.cmp c cond xd xa xb) (alu2 1 xd xa xb fun a b => w64 (b2n (condHolds cond a b)))

/-- CMPI (R137). -/
def execCmpi (c : Ctl) (cond : Cond) (xd xa : Reg) (imm : BitVec 24) (s : State) : Host.Outcome State Fault Refusal :=
  s.issue (.cmpi c cond xd xa imm) (alu1 1 xd xa fun a => w64 (b2n (condHolds cond a (sext imm))))

/-- CSEL (R138). -/
def execCsel (c : Ctl) (xd xs xa xb : Reg) (s : State) : Host.Outcome State Fault Refusal :=
  s.issue (.csel c xd xs xa xb)
    { allowed := .all, uses := [xd, xs, xa, xb], reads := [xs, xa, xb], writes := [xd]
      effect := fun wid s => s.result wid 1 xd (if s.reg xs ≠ 0 then s.reg xa else s.reg xb) }

/-- LIMM (R139). -/
def execLimm (c : Ctl) (xd : Reg) (part : LPart) (imm : BitVec 32) (s : State) : Host.Outcome State Fault Refusal :=
  s.issue (.limm c xd part imm)
    { allowed := .all, uses := [xd], reads := if part = .lo ∨ part = .hi then [xd] else [], writes := [xd]
      effect := fun wid s => s.result wid 1 xd (limmOf part imm (s.reg xd)) }

/-- CLZ (R140). -/
def execClz (c : Ctl) (xd xa : Reg) (s : State) : Host.Outcome State Fault Refusal :=
  s.issue (.clz c xd xa) (alu1 1 xd xa clzOf)

/-- POPC (R140). -/
def execPopc (c : Ctl) (xd xa : Reg) (s : State) : Host.Outcome State Fault Refusal :=
  s.issue (.popc c xd xa) (alu1 1 xd xa popcOf)

/-- BSWAP (R140). -/
def execBswap (c : Ctl) (xd xa : Reg) (s : State) : Host.Outcome State Fault Refusal :=
  s.issue (.bswap c xd xa) (alu1 1 xd xa bswapOf)

/-- EXTR (R141). -/
def execExtr (c : Ctl) (xd xa : Reg) (sgn : Bool) (len1 pos : BitVec 6) (s : State) :
    Host.Outcome State Fault Refusal :=
  s.issue (.extr c xd xa sgn len1 pos) (alu1 1 xd xa (extrOf sgn pos.toNat (len1.toNat + 1)))

/-- INSR (R141). -/
def execInsr (c : Ctl) (xd xa : Reg) (len1 pos : BitVec 6) (s : State) : Host.Outcome State Fault Refusal :=
  s.issue (.insr c xd xa len1 pos) (aluOld xd xa (insrOf pos.toNat (len1.toNat + 1)))

/-! ### Branches and loops -/

/-- Go to `target` when a condition holds, else to the next word (R142, R147). -/
def CtxSt.branch (c : CtxSt) (taken : Bool) (target : Nat) : CtxSt :=
  if taken then c.jump target else { c with pc := c.wrap (c.pc + 1) }

/-- BR (R142, R144). -/
def execBr (c : Ctl) (cond : Cond) (xa xb : Reg) (disp : BitVec 24) (s : State) : Host.Outcome State Fault Refusal :=
  s.issue (.br c cond xa xb disp)
    { allowed := .all, branch := true, uses := [xa, xb], reads := [xa, xb]
      effect := fun _ s => s.updMe fun m =>
        m.branch (condHolds cond (m.reg xa) (m.reg xb)) (m.wrap (m.pc + disp.toInt)) }

/-- JMPR (R143). -/
def execJmpr (c : Ctl) (xd xa : Reg) (imm : BitVec 16) (s : State) : Host.Outcome State Fault Refusal :=
  s.issue (.jmpr c xd xa imm)
    { allowed := .all, branch := true, uses := [xd, xa], reads := [xa], writes := [xd]
      effect := fun wid s =>
        let target := s.me.wrap ((s.reg xa).toNat + imm.toInt)
        (s.result wid 1 xd (w64 (s.me.wrap (s.me.pc + 1)))).updMe fun m => m.jump target }

/-- The back edge or pops that a loop word of trip count 0 makes at its closing word (R145). -/
def CtxSt.skipLoop (c : CtxSt) (close : Nat) : CtxSt :=
  let (ls, pc) := closeLoops close (c.wrap (close + 1)) c.loops
  { c with loops := ls, pc := pc }

/-- Step-6 checks of a loop word (R145). -/
def CtxSt.loopCheck (c : CtxSt) (n : Word) (body : Nat) : Option Trap :=
  if c.wwords ≤ body then some { cause := .illop }
  else if n = 0 then none
  else if 4 ≤ c.loops.length then some { cause := .illop }
  else
    match c.loops with
    | [] => none
    | e :: _ =>
      let start := c.wrap (c.pc + 1)
      let close := c.wrap (c.pc + body)
      if c.inBody e start && c.inBody e close &&
          decide (c.wrap ((start : Int) - e.start) ≤ c.wrap ((close : Int) - e.start)) then none
      else some { cause := .illop }

/-- Enter a loop, or skip its body (R145). -/
def CtxSt.enterLoop (c : CtxSt) (n : Word) (body : Nat) : CtxSt :=
  let start := c.wrap (c.pc + 1)
  let close := c.wrap (c.pc + body)
  if n = 0 then c.skipLoop close else { c with loops := ⟨start, close, n⟩ :: c.loops, pc := start }

/-- A loop word whose trip count is `n`. -/
def loopIssue (uses : List Reg) (n : State → Word) (body : Nat) (extra : State → Bool) : Issue :=
  { allowed := .all, branch := true, uses := uses, reads := uses
    check := fun s => if extra s then some { cause := .illop } else s.me.loopCheck (n s) body
    effect := fun _ s => s.updMe fun m => m.enterLoop (n s) body }

/-- LOOP (R145): trip count in xa. -/
def execLoop (c : Ctl) (xa : Reg) (body : BitVec 16) (s : State) : Host.Outcome State Fault Refusal :=
  s.issue (.loop c xa body) (loopIssue [xa] (fun s => s.reg xa) body.toNat fun _ => false)

/-- Extent and kind of a level of the launch nest; an absent level has extent 0 (R48). -/
def CoreSt.level (c : CoreSt) (n : Nat) : NestLevel := c.nest.getD n ⟨0, 0, false⟩

/-- LOOP.N (R145): trip count the extent of a temporal nest level. -/
def execLoopN (c : Ctl) (level : BitVec 3) (body : BitVec 16) (s : State) : Host.Outcome State Fault Refusal :=
  s.issue (.loopN c level body)
    (loopIssue [] (fun s => w64 (s.cur.level level.toNat).extent) body.toNat fun s =>
      (s.cur.level level.toNat).extent != 0 && (s.cur.level level.toNat).kind != 0)

/-- LOOPI (R145): trip count in the word. -/
def execLoopi (c : Ctl) (count : BitVec 16) (body : BitVec 12) (s : State) : Host.Outcome State Fault Refusal :=
  s.issue (.loopi c count body) (loopIssue [] (fun _ => zext count) body.toNat fun _ => false)

/-! ### Control queues -/

/-- The control queue that a getter reads (R149): the predecessor's toward it, or the successor's. -/
def CoreSt.cqIn (c : CoreSt) (x : Ctx) (d : Dir6) : List Word :=
  match d with
  | .p => (c.ctx x.pred).cqN
  | .n => (c.ctx x.succ).cqP

/-- Take the oldest entry. -/
def CoreSt.cqPop (c : CoreSt) (x : Ctx) (d : Dir6) : CoreSt :=
  match d with
  | .p => c.updCtx x.pred fun p => { p with cqN := p.cqN.tail }
  | .n => c.updCtx x.succ fun p => { p with cqP := p.cqP.tail }

/-- Entries of the putter's queue, those not yet visible included (R60). -/
def CtxSt.cqCount (c : CtxSt) (d : Dir6) : Nat :=
  (match d with | .p => c.cqP.length | .n => c.cqN.length) +
    (c.flights.filter fun f => match f.land with | .cq b _ => b == (d == .n) | _ => false).length

/-- CQPUT (R149): the entry becomes visible at retirement. The rule states no latency; the model takes one issue cycle, so that
in exposed mode the entry stays invisible until the putter issues its next word (assumption 76). DESIGN CHOICE -/
def execCqput (c : Ctl) (dir : Dir6) (xa : Reg) (s : State) : Host.Outcome State Fault Refusal :=
  s.issue (.cqput c dir xa)
    { allowed := .all, uses := [xa], reads := [xa]
      wait := fun s => .feed (decide (s.me.cqCount dir < 32))
      effect := fun wid s => s.inFlight wid 1 (.cq (dir == .n) (s.reg xa)) }

/-- CQGET (R149). -/
def execCqget (c : Ctl) (xd : Reg) (dir : Dir6) (s : State) : Host.Outcome State Fault Refusal :=
  s.issue (.cqget c xd dir)
    { allowed := .all, uses := [xd], writes := [xd]
      wait := fun s => .feed (!(s.cur.cqIn s.who.ctx dir).isEmpty)
      effect := fun wid s =>
        (s.result wid 1 xd ((s.cur.cqIn s.who.ctx dir).headD 0)).updCur fun k => k.cqPop s.who.ctx dir }

/-- CQBR (R150): the pop takes place whether or not the branch is taken. -/
def execCqbr (c : Ctl) (cond : Cond) (dir : Dir6) (disp : BitVec 24) (s : State) : Host.Outcome State Fault Refusal :=
  s.issue (.cqbr c cond dir disp)
    { allowed := .all, branch := true
      wait := fun s => .feed (!(s.cur.cqIn s.who.ctx dir).isEmpty)
      effect := fun _ s =>
        let v := (s.cur.cqIn s.who.ctx dir).headD 0
        (s.updCur fun k => k.cqPop s.who.ctx dir).updMe fun m =>
          m.branch (condHolds cond v 0) (m.wrap (m.pc + disp.toInt)) }

/-! ### Tokens and modes -/

/-- TKINC's amount (R151), exact. -/
def tkAmount (s : State) (xa : Reg) (imm : BitVec 16) : Nat := (s.reg xa).toNat + imm.toNat

/-- TKINC (R151): the increment takes place at retirement. The rule states no latency; the model takes one issue cycle, so that
in exposed mode the increment waits until the context issues its next word (assumption 76). DESIGN CHOICE -/
def execTkinc (c : Ctl) (n : BitVec 5) (xa : Reg) (imm : BitVec 16) (s : State) : Host.Outcome State Fault Refusal :=
  s.issue (.tkinc c n xa imm)
    { allowed := .all, uses := [xa], reads := [xa]
      late := fun s =>
        let k := s.cur.takeTokens s.who.ctx c []
        if 65535 < (k.tk n.toNat).count + k.inFlightTk n.toNat + tkAmount s xa imm then
          some { cause := .tkovf, info := w64 n.toNat }
        else none
      effect := fun wid s =>
        if tkAmount s xa imm = 0 then s else s.inFlight wid 1 (.tk n.toNat (tkAmount s xa imm)) }

/-- TKCHK (R152): count and flag as the word finds them; then the flag is clear. -/
def execTkchk (c : Ctl) (xd : Reg) (n : BitVec 5) (s : State) : Host.Outcome State Fault Refusal :=
  s.issue (.tkchk c xd n)
    { allowed := .all, uses := [xd], writes := [xd]
      effect := fun wid s =>
        let t := s.cur.tk n.toNat
        (s.result wid 1 xd (w64 (b2n t.flag * 2 ^ 16 + t.count))).updCur fun k =>
          k.setTk n.toNat { t with flag := false } }

/-- MODE (R76, R153): the context completes its writes in flight, then takes the mode and the slack. R59 does not name MODE
among the words that no word pairs with; the model lets none, since the drain stands between (assumption 77). DEDUCED -/
def execMode (c : Ctl) (exposed : Bool) (slack : BitVec 4) (s : State) : Host.Outcome State Fault Refusal :=
  s.issue (.mode c exposed slack)
    { allowed := .all
      effect := fun _ s => (s.drain s.k s.who.ctx).updMe fun m =>
        { m with exposed := exposed, slack := slack.toNat, pair := none } }

/-- CAPR's offset (R155), exact. -/
def capOff (s : State) (xa : Reg) (imm : BitVec 16) : Nat := (s.reg xa).toNat + imm.toNat

/-- CAPR (R155). -/
def execCapr (c : Ctl) (xd xa : Reg) (imm : BitVec 16) (s : State) : Host.Outcome State Fault Refusal :=
  s.issue (.capr c xd xa imm)
    { allowed := .all, uses := [xd, xa], reads := [xa], writes := [xd]
      check := fun s => if capOff s xa imm % 8 ≠ 0 then some { cause := .align, addr := w64 (capOff s xa imm) } else none
      effect := fun wid s => s.result wid 8 xd (capWord (s.capsOf s.k) s.boot.tier (capOff s xa imm)) }

/-- BRK (R158, class T of R401): the word completes, then its context takes BRK and would resume at the next word. -/
def execBrk (c : Ctl) (code : BitVec 28) (s : State) : Host.Outcome State Fault Refusal :=
  s.issue (.brk c code)
    { allowed := .all
      effect := fun _ s =>
        let m := s.me
        s.takeCause s.k s.who.ctx
          (s.record s.k s.who.ctx.code { cause := .brk, info := zext code } false m.level m.pc m.advance.pc
            (wordOf (.brk c code))) true }

end Sys2Proof.Machine
end

