-- ==== Sys2Proof/Machine/Vector.lean ====
section
/-! DEFINITION. The vector words, opcodes 0x80 to 0xAA (R161 to R190). -/

namespace Sys2Proof.Machine

open Sys2Proof

/-- Two operands, lane by lane, one element. -/
def v3word (lat : Nat) (v : V3) (f : Elem → Elem → Elem × BitVec 3) : Issue :=
  vword lat (v3srcs v) v.vd 1 fun _ es => let r := f (opElem es 0 0) (opElem es 1 0); ([r.1], r.2)

/-- One operand, one element. -/
def v2word (lat : Nat) (v : V2) (f : Elem → Elem × BitVec 3) : Issue :=
  vword lat (v2srcs v) v.vd 1 fun _ es => let r := f (opElem es 0 0); ([r.1], r.2)

/-- Three operands, one element. -/
def v4word (lat : Nat) (v : V4) (f : Elem → Elem → Elem → Elem × BitVec 3) : Issue :=
  vword lat (v4srcs v) v.vd 1 fun _ es => let r := f (opElem es 0 0) (opElem es 1 0) (opElem es 2 0); ([r.1], r.2)

/-- Cut lanes into elements of a type. -/
def chunkLanes (w n : Nat) (ls : List Nat) : List Elem :=
  (List.range n).map fun i => ofLanes w ((ls.drop (i * (4096 / w))).take (4096 / w))

/-- VCVT's conversion of all lanes, in order (R174). -/
def cvtAll (src dst : ETy) (rm : RM) (sat : Bool) (n : Nat) (es : List Elem) : List Elem × BitVec 3 :=
  let ls := (es.flatMap (unpack src.bits)).map (cvtLane src dst rm sat)
  (chunkLanes dst.bits n (ls.map (·.v)), convFlags (ls.any (·.nan)) (ls.any (·.sat)))

/-- The scratchpad offset of VLDS and VSTS (R186), exact. -/
def scratchOff (s : State) (xa : Reg) (imm : BitVec 15) : Nat := (s.reg xa).toNat + imm.toNat * 64

/-- The range checks of a scratch move (R186). -/
def scratchTrap (off : Nat) : Option Trap :=
  if off % 64 ≠ 0 then some { cause := .align, addr := w64 off }
  else if spSize < off + 512 then some { cause := .sprng, addr := w64 off }
  else none

/-- An engine has begun to deliver an element to the queue: the ladder engine pushes results of an LREAD or LSTAT to it, or a
FERRY.Q has gathered a part of its next element (R188; assumption 78). DEDUCED -/
def CoreSt.delivering (c : CoreSt) (q : Nat) : Bool :=
  c.ladq.any (fun m => m.op.out.any (fun v => v.toNat == q) && m.stage == 7 && !m.outs.isEmpty && m.fail.isNone) ||
    c.ferry.any fun e => e.op == .ferryQ && rcdDq e.rcd == q && e.taken && !e.buf.isEmpty && e.fail.isNone

/-- The value of VQST (R188). -/
def vqstOf (c : CoreSt) (n : Nat) : Word :=
  let q := c.queue n
  w64 ((q.els.length - q.visible.length + b2n (c.delivering n)) * 2 ^ 16 + q.kind * 2 ^ 8 + q.depth * 2 ^ 4 + q.visible.length)

/-- The exact accumulators that a write in flight touches. -/
def Flight.touches (f : Flight) (a n : Nat) : Bool :=
  match f.land with
  | .exAdd l => l.any fun e => decide (a ≤ e.1) && decide (e.1 < a + n)
  | .exClr b m => meets a n b m
  | _ => false

/-- The additions of EXADD (R189): every lane to one accumulator, or lane i to accumulator d + i. -/
def exAdds (t : ETy) (e : Elem) (d : Nat) (len : Option Nat) : List (Nat × List (BitVec 32)) :=
  let ls := (unpack t.bits e).map fun v => BitVec.ofNat 32 (widen32 (fpOf t) v)
  match len with
  | none => [(d, ls)]
  | some n => (List.range n).map fun i => (d + i, [ls.getD i 0])

/-- EXADD and EXADD.L. -/
def exaddIssue (t : ETy) (va : QName) (pa : Bool) (d : Nat) (len : Option Nat) : Issue :=
  let vs : List VSrc := [{ q := va, peek := pa }]
  { vword 4 vs vnull 0 (fun _ _ => ([], 0)) with
    effect := fun wid s =>
      (s.popSrcs vs).inFlight wid 4 (.exAdd (exAdds t (opElem (s.srcElems vs) 0 0) d len)) }

/-- VADD (R169, R170). -/
def execVadd (c : Ctl) (v : V3) (ty : ETy) (md : VMode) (s : State) : Host.Outcome State Fault Refusal :=
  s.issue (.vadd c v ty md) (v3word 2 v (zipLanes ty.bits (arithLane .add ty md)))

/-- VSUB (R169, R170). -/
def execVsub (c : Ctl) (v : V3) (ty : ETy) (md : VMode) (s : State) : Host.Outcome State Fault Refusal :=
  s.issue (.vsub c v ty md) (v3word 2 v (zipLanes ty.bits (arithLane .sub ty md)))

/-- VMUL (R169, R170). -/
def execVmul (c : Ctl) (v : V3) (ty : ETy) (md : VMode) (s : State) : Host.Outcome State Fault Refusal :=
  s.issue (.vmul c v ty md) (v3word 3 v (zipLanes ty.bits (arithLane .mul ty md)))

/-- VDIV (R169, R170). -/
def execVdiv (c : Ctl) (v : V3) (ty : ETy) (md : VMode) (s : State) : Host.Outcome State Fault Refusal :=
  s.issue (.vdiv c v ty md) (v3word 16 v (zipLanes ty.bits (arithLane .div ty md)))

/-- VMIN (R169, R170). -/
def execVmin (c : Ctl) (v : V3) (ty : ETy) (s : State) : Host.Outcome State Fault Refusal :=
  s.issue (.vmin c v ty) (v3word 2 v (zipLanes ty.bits (pickLane false ty)))

/-- VMAX (R169, R170). -/
def execVmax (c : Ctl) (v : V3) (ty : ETy) (s : State) : Host.Outcome State Fault Refusal :=
  s.issue (.vmax c v ty) (v3word 2 v (zipLanes ty.bits (pickLane true ty)))

/-- VFMA.FP32 (R172). -/
def execVfmaFp32 (c : Ctl) (v : V4) (s : State) : Host.Outcome State Fault Refusal :=
  s.issue (.vfmaFp32 c v) (v4word 4 v (zip3Lanes FFmt.fp32.width (fmaLane .fp32)))

/-- VFMA.BF16 (R172). -/
def execVfmaBf16 (c : Ctl) (v : V4) (s : State) : Host.Outcome State Fault Refusal :=
  s.issue (.vfmaBf16 c v) (v4word 4 v (zip3Lanes FFmt.bf16.width (fmaLane .bf16)))

/-- VFMA.FP16 (R172). -/
def execVfmaFp16 (c : Ctl) (v : V4) (s : State) : Host.Outcome State Fault Refusal :=
  s.issue (.vfmaFp16 c v) (v4word 4 v (zip3Lanes FFmt.fp16.width (fmaLane .fp16)))

/-- VABS (R169, R170). -/
def execVabs (c : Ctl) (v : V2) (ty : ETy) (sat : Bool) (s : State) : Host.Outcome State Fault Refusal :=
  s.issue (.vabs c v ty sat) (v2word 2 v (mapLanes ty.bits (signLane false ty sat)))

/-- VNEG (R169, R170). -/
def execVneg (c : Ctl) (v : V2) (ty : ETy) (sat : Bool) (s : State) : Host.Outcome State Fault Refusal :=
  s.issue (.vneg c v ty sat) (v2word 2 v (mapLanes ty.bits (signLane true ty sat)))

/-- VAND (R171). -/
def execVand (c : Ctl) (v : V3) (s : State) : Host.Outcome State Fault Refusal :=
  s.issue (.vand c v) (v3word 2 v fun a b => (a &&& b, 0))

/-- VOR (R171). -/
def execVor (c : Ctl) (v : V3) (s : State) : Host.Outcome State Fault Refusal :=
  s.issue (.vor c v) (v3word 2 v fun a b => (a ||| b, 0))

/-- VXOR (R171). -/
def execVxor (c : Ctl) (v : V3) (s : State) : Host.Outcome State Fault Refusal :=
  s.issue (.vxor c v) (v3word 2 v fun a b => (a ^^^ b, 0))

/-- VSHL (R171). -/
def execVshl (c : Ctl) (v : V3) (ty : ETy) (s : State) : Host.Outcome State Fault Refusal :=
  s.issue (.vshl c v ty) (v3word 2 v (zipLanes ty.bits (shiftLane false false ty)))

/-- VSHR (R171). -/
def execVshr (c : Ctl) (v : V3) (ty : ETy) (arith : Bool) (s : State) : Host.Outcome State Fault Refusal :=
  s.issue (.vshr c v ty arith) (v3word 2 v (zipLanes ty.bits (shiftLane true arith ty)))

/-- VADDI (R173). -/
def execVaddi (c : Ctl) (v : V2) (ty : ETy) (imm : BitVec 15) (s : State) : Host.Outcome State Fault Refusal :=
  s.issue (.vaddi c v ty imm) (v2word 2 v (mapLanes ty.bits (immLane .add ty imm)))

/-- VMULI (R173). -/
def execVmuli (c : Ctl) (v : V2) (ty : ETy) (imm : BitVec 15) (s : State) : Host.Outcome State Fault Refusal :=
  s.issue (.vmuli c v ty imm) (v2word 3 v (mapLanes ty.bits (immLane .mul ty imm)))

/-- VSPLAT, immediate form (R173). -/
def execVsplatImm (c : Ctl) (vd : QName) (ty : ETy) (imm : BitVec 15) (s : State) : Host.Outcome State Fault Refusal :=
  s.issue (.vsplatImm c vd ty imm) (vword 2 [] vd 1 fun _ _ =>
    let r := ofLaneList ty.bits (List.replicate (lanesOf ty) (splatLane ty imm)); ([r.1], r.2))

/-- VSPLAT, register form (R173): the low bits of xa, unchanged. -/
def execVsplatReg (c : Ctl) (vd : QName) (ty : ETy) (xa : Reg) (s : State) : Host.Outcome State Fault Refusal :=
  s.issue (.vsplatReg c vd ty xa) { vword 2 [] vd 1 (fun s _ =>
    ([ofLanes ty.bits (List.replicate (lanesOf ty) (s.reg xa).toNat)], 0)) with uses := [xa], reads := [xa] }

/-- VCVT (R174). -/
def execVcvt (c : Ctl) (v : V2) (src dst : ETy) (rm : RM) (sat : Bool) (s : State) : Host.Outcome State Fault Refusal :=
  s.issue (.vcvt c v src dst rm sat) (
    let pops := src.bits / dst.bits
    let pushes := max 1 (dst.bits / src.bits)
    vword 3 [{ q := v.va, peek := v.pa, n := max 1 pops }] v.vd pushes fun _ es =>
      cvtAll src dst rm sat pushes (es.getD 0 []))

/-- VCMP (R175). -/
def execVcmp (c : Ctl) (v : V3) (ty : ETy) (cond : VCond) (s : State) : Host.Outcome State Fault Refusal :=
  s.issue (.vcmp c v ty cond) (v3word 2 v (zipLanes ty.bits (cmpLane ty cond)))

/-- VSEL.32 (R176). -/
def execVsel32 (c : Ctl) (v : V4) (s : State) : Host.Outcome State Fault Refusal :=
  s.issue (.vsel32 c v) (v4word 2 v (zip3Lanes 32 fun a b k => { v := if k ≠ 0 then a else b }))

/-- VSEL.16 (R176). -/
def execVsel16 (c : Ctl) (v : V4) (s : State) : Host.Outcome State Fault Refusal :=
  s.issue (.vsel16 c v) (v4word 2 v (zip3Lanes 16 fun a b k => { v := if k ≠ 0 then a else b }))

/-- VSEL.8 (R176). -/
def execVsel8 (c : Ctl) (v : V4) (s : State) : Host.Outcome State Fault Refusal :=
  s.issue (.vsel8 c v) (v4word 2 v (zip3Lanes 8 fun a b k => { v := if k ≠ 0 then a else b }))

/-- VREDS (R178). -/
def execVreds (c : Ctl) (v : V3) (ty : ETy) (md : VMode) (s : State) : Host.Outcome State Fault Refusal :=
  s.issue (.vreds c v ty md) (v3word 6 v (reds ty md))

/-- VREDM (R179). -/
def execVredm (c : Ctl) (v : V2) (ty : ETy) (kind : MaxK) (s : State) : Host.Outcome State Fault Refusal :=
  s.issue (.vredm c v ty kind) (v2word 6 v fun a => (redm ty kind a, 0))

/-- VSCAN (R180). -/
def execVscan (c : Ctl) (v : V3) (ty : ETy) (ex : Bool) (rm : RM) (s : State) : Host.Outcome State Fault Refusal :=
  s.issue (.vscan c v ty ex rm) (v3word 6 v (scan ty ex rm))

/-- VSORTC.COUNT (R181). -/
def execVsortcCount (c : Ctl) (v : V3) (win : BitVec 2) (s : State) : Host.Outcome State Fault Refusal :=
  s.issue (.vsortcCount c v win) (v3word 12 v fun a b => (sortcCount win.toNat a b, 0))

/-- VSORTC.ORDER (R181). -/
def execVsortcOrder (c : Ctl) (v : V2) (s : State) : Host.Outcome State Fault Refusal :=
  s.issue (.vsortcOrder c v) (v2word 12 v fun a => (sortcOrder a, 0))

/-- VSORTC.SLOT (R181). -/
def execVsortcSlot (c : Ctl) (v : V3) (win : BitVec 2) (s : State) : Host.Outcome State Fault Refusal :=
  s.issue (.vsortcSlot c v win) (v3word 12 v fun a b => (sortcSlot win.toNat a b, 0))

/-- VSPSEL.MASK (R182). -/
def execVspselMask (c : Ctl) (v : V2) (ty : ETy) (s : State) : Host.Outcome State Fault Refusal :=
  s.issue (.vspselMask c v ty) (v2word 3 v fun a => (spselMask ty a, 0))

/-- VSPSEL.META (R182). -/
def execVspselMeta (c : Ctl) (v : V2) (ty : ETy) (s : State) : Host.Outcome State Fault Refusal :=
  s.issue (.vspselMeta c v ty) (v2word 3 v fun a => (spselMeta ty a, 0))

/-- VSPSEL.PACK (R182). -/
def execVspselPack (c : Ctl) (v : V2) (ty : ETy) (s : State) : Host.Outcome State Fault Refusal :=
  s.issue (.vspselPack c v ty) (v2word 3 v fun a => (spselPack ty a, 0))

/-- VRMSN.FP32 (R183). -/
def execVrmsnFp32 (c : Ctl) (v : V4) (s : State) : Host.Outcome State Fault Refusal :=
  s.issue (.vrmsnFp32 c v) (v4word 10 v (rmsn .fp32))

/-- VRMSN.BF16 (R183). -/
def execVrmsnBf16 (c : Ctl) (v : V4) (s : State) : Host.Outcome State Fault Refusal :=
  s.issue (.vrmsnBf16 c v) (v4word 10 v (rmsn .bf16))

/-- VACT (R177): only SWIGLU and GEGLU read vb. -/
def execVact (c : Ctl) (v : V3) (ty : ETy) (fn : ActFn) (s : State) : Host.Outcome State Fault Refusal :=
  s.issue (.vact c v ty fn) (
    let one := fun (g : Fn1) => v2word 8 ⟨v.vd, v.va, v.pa⟩ (mapLanes ty.bits (fnLane g (fpOf ty)))
    match fn with
    | .relu => one .relu
    | .gelu => one .gelu
    | .silu => one .silu
    | .sigm => one .sigm
    | .tanh => one .tanh
    | .swiglu => v3word 8 v (zipLanes ty.bits (gluLane .silu (fpOf ty)))
    | .geglu => v3word 8 v (zipLanes ty.bits (gluLane .gelu (fpOf ty))))

/-- VEXP (R177). -/
def execVexp (c : Ctl) (v : V2) (ty : ETy) (s : State) : Host.Outcome State Fault Refusal :=
  s.issue (.vexp c v ty) (v2word 8 v (mapLanes ty.bits (fnLane .exp (fpOf ty))))

/-- VEXP2 (R177). -/
def execVexp2 (c : Ctl) (v : V2) (ty : ETy) (s : State) : Host.Outcome State Fault Refusal :=
  s.issue (.vexp2 c v ty) (v2word 8 v (mapLanes ty.bits (fnLane .exp2 (fpOf ty))))

/-- VRCP (R177). -/
def execVrcp (c : Ctl) (v : V2) (ty : ETy) (s : State) : Host.Outcome State Fault Refusal :=
  s.issue (.vrcp c v ty) (v2word 8 v (mapLanes ty.bits (fnLane .rcp (fpOf ty))))

/-- VRSQ (R177). -/
def execVrsq (c : Ctl) (v : V2) (ty : ETy) (s : State) : Host.Outcome State Fault Refusal :=
  s.issue (.vrsq c v ty) (v2word 8 v (mapLanes ty.bits (fnLane .rsq (fpOf ty))))

/-- VPERM (R184). -/
def execVperm (c : Ctl) (v : V3) (ty : ETy) (hi : Bool) (s : State) : Host.Outcome State Fault Refusal :=
  s.issue (.vperm c v ty hi) (v3word 3 v fun a b => (perm ty hi a b, 0))

/-- VLDS (R186, R187); a generation word that waits for memory holds it (R323). -/
def execVlds (c : Ctl) (vd : QName) (xa : Reg) (imm : BitVec 15) (s : State) : Host.Outcome State Fault Refusal :=
  s.issue (.vlds c vd xa imm) 
    { allowed := .onlyX
      unit := 1
      uses := [xa]
      reads := [xa]
      pushes := [vd.toNat]
      check := fun s => (scratchTrap (scratchOff s xa imm)).or (s.dstTrap vd 1 [])
      wait := fun s => .need s.cur.genq.isEmpty
      late := fun s =>
        if s.cur.withScratch.spLost (scratchOff s xa imm) 512 then some { cause := .eccu, addr := w64 (scratchOff s xa imm), info := 5 } else none
      effect := fun wid s =>
        s.pushOne wid 5 0 vd (elemOfBytes (s.cur.withScratch.sp.bytes (scratchOff s xa imm) 512)) }

/-- VSTS (R186, R187): the word retires when its bytes are performed. -/
def execVsts (c : Ctl) (va : QName) (pa : Bool) (xa : Reg) (imm : BitVec 15) (s : State) : Host.Outcome State Fault Refusal :=
  s.issue (.vsts c va pa xa imm) (
    let vs : List VSrc := [{ q := va, peek := pa }]
    { allowed := .onlyX
      unit := 1
      uses := [xa]
      reads := [xa]
      pops := vsrcNames vs
      pre := fun s => s.srcOvf vs
      check := fun s =>
        ((scratchTrap (scratchOff s xa imm)).or
          (if s.cur.meetsWindow (scratchOff s xa imm) 512 then
            some { cause := .prot, addr := w64 (scratchOff s xa imm) } else none)).or (s.srcTrap vs)
      wait := fun s => (s.srcWait vs).and (.need s.cur.genq.isEmpty)
      late := fun s => s.srcLost vs
      effect := fun wid s =>
        (s.popSrcs vs).inFlight wid 5 (.scratch (scratchOff s xa imm) (opElem (s.srcElems vs) 0 0)) })

/-- VQST (R188). -/
def execVqst (c : Ctl) (xd : Reg) (vn : QName) (s : State) : Host.Outcome State Fault Refusal :=
  s.issue (.vqst c xd vn) 
    { allowed := .onlyX, unit := 1, uses := [xd], writes := [xd], pops := [vn.toNat]
      effect := fun wid s => s.result wid 1 xd (vqstOf s.cur vn.toNat) }

/-- VMOV (R185). -/
def execVmov (c : Ctl) (v : V2) (s : State) : Host.Outcome State Fault Refusal :=
  s.issue (.vmov c v) (v2word 2 v fun a => (a, 0))

/-- EXADD, every lane to one accumulator (R189). -/
def execExadd (c : Ctl) (d : BitVec 6) (va : QName) (pa : Bool) (ty : ETy) (s : State) : Host.Outcome State Fault Refusal :=
  s.issue (.exadd c d va pa ty) (exaddIssue ty va pa d.toNat none)

/-- EXADD, lane i to accumulator d + i (R189). -/
def execExaddL (c : Ctl) (d : BitVec 6) (va : QName) (len1 : BitVec 6) (pa : Bool) (ty : ETy) (s : State) : Host.Outcome State Fault Refusal :=
  s.issue (.exaddL c d va len1 pa ty) (exaddIssue ty va pa d.toNat (some (len1.toNat + 1)))

/-- EXRD and EXRD.CLR (R189): the read and the clearing are in the issue cycle, so that an addition due in a later one adds
into the cleared accumulators; the next word of X that reads them sees it (R165). In interlocked mode the word waits for writes
in flight (R75). -/
def execExrd (c : Ctl) (vd : QName) (a : BitVec 6) (len1 : BitVec 6) (clr : Bool) (s : State) : Host.Outcome State Fault Refusal :=
  s.issue (.exrd c vd a len1 clr) (
    let n := len1.toNat + 1
    { allowed := .onlyX
      unit := 1
      pushes := [vd.toNat]
      check := fun s => s.dstTrap vd 1 []
      wait := fun s => if !s.me.exposed && s.me.flights.any (fun f => f.touches a.toNat n) then .hold else .go
      late := fun s =>
        if (List.range n).any fun i => (s.cur.exa (a.toNat + i)).bad then some { cause := .eccu, info := 6 } else none
      effect := fun wid s =>
        let e := ofLanes 32 ((List.range n).map fun i => (s.cur.exa (a.toNat + i)).read)
        let s := if clr then s.inFlight wid 0 (.exClr a.toNat n) else s
        s.pushOne wid 6 0 vd e })

/-- EXCLR (R189). -/
def execExclr (c : Ctl) (a : BitVec 6) (len1 : BitVec 6) (s : State) : Host.Outcome State Fault Refusal :=
  s.issue (.exclr c a len1) 
    { allowed := .onlyX, unit := 1, effect := fun wid s => s.inFlight wid 1 (.exClr a.toNat (len1.toNat + 1)) }

end Sys2Proof.Machine
end

