-- ==== Sys2Proof/Machine/Dispatch.lean ====
section
/-! DEFINITION. The meaning of every instruction and event. -/

namespace Sys2Proof.Machine

open Sys2Proof

/-- The meaning of an instruction or event. -/
def exec (i : Instr) (s : State) : Host.Outcome State Fault Refusal :=
  match i with
  | .nop c => Sys2Proof.Machine.execNop c s
  | .add c xd xa xb => Sys2Proof.Machine.execAdd c xd xa xb s
  | .sub c xd xa xb => Sys2Proof.Machine.execSub c xd xa xb s
  | .mul c xd xa xb => Sys2Proof.Machine.execMul c xd xa xb s
  | .mulh c xd xa xb m => Sys2Proof.Machine.execMulh c xd xa xb m s
  | .div c xd xa xb uns => Sys2Proof.Machine.execDiv c xd xa xb uns s
  | .rem c xd xa xb uns => Sys2Proof.Machine.execRem c xd xa xb uns s
  | .addi c xd xa imm => Sys2Proof.Machine.execAddi c xd xa imm s
  | .and c xd xa xb => Sys2Proof.Machine.execAnd c xd xa xb s
  | .or c xd xa xb => Sys2Proof.Machine.execOr c xd xa xb s
  | .xor c xd xa xb => Sys2Proof.Machine.execXor c xd xa xb s
  | .andi c xd xa imm => Sys2Proof.Machine.execAndi c xd xa imm s
  | .ori c xd xa imm => Sys2Proof.Machine.execOri c xd xa imm s
  | .xori c xd xa imm => Sys2Proof.Machine.execXori c xd xa imm s
  | .shl c xd xa xb imm => Sys2Proof.Machine.execShl c xd xa xb imm s
  | .shr c xd xa xb imm => Sys2Proof.Machine.execShr c xd xa xb imm s
  | .sar c xd xa xb imm => Sys2Proof.Machine.execSar c xd xa xb imm s
  | .rol c xd xa xb imm => Sys2Proof.Machine.execRol c xd xa xb imm s
  | .min c xd xa xb uns => Sys2Proof.Machine.execMin c xd xa xb uns s
  | .max c xd xa xb uns => Sys2Proof.Machine.execMax c xd xa xb uns s
  | .cmp c cond xd xa xb => Sys2Proof.Machine.execCmp c cond xd xa xb s
  | .cmpi c cond xd xa imm => Sys2Proof.Machine.execCmpi c cond xd xa imm s
  | .csel c xd xs xa xb => Sys2Proof.Machine.execCsel c xd xs xa xb s
  | .limm c xd part imm => Sys2Proof.Machine.execLimm c xd part imm s
  | .clz c xd xa => Sys2Proof.Machine.execClz c xd xa s
  | .popc c xd xa => Sys2Proof.Machine.execPopc c xd xa s
  | .extr c xd xa sgn len1 pos => Sys2Proof.Machine.execExtr c xd xa sgn len1 pos s
  | .insr c xd xa len1 pos => Sys2Proof.Machine.execInsr c xd xa len1 pos s
  | .bswap c xd xa => Sys2Proof.Machine.execBswap c xd xa s
  | .muli c xd xa imm => Sys2Proof.Machine.execMuli c xd xa imm s
  | .br c cond xa xb disp => Sys2Proof.Machine.execBr c cond xa xb disp s
  | .jmpr c xd xa imm => Sys2Proof.Machine.execJmpr c xd xa imm s
  | .loop c xa body => Sys2Proof.Machine.execLoop c xa body s
  | .loopN c level body => Sys2Proof.Machine.execLoopN c level body s
  | .loopi c count body => Sys2Proof.Machine.execLoopi c count body s
  | .cqput c dir xa => Sys2Proof.Machine.execCqput c dir xa s
  | .cqget c xd dir => Sys2Proof.Machine.execCqget c xd dir s
  | .cqbr c cond dir disp => Sys2Proof.Machine.execCqbr c cond dir disp s
  | .tkinc c n xa imm => Sys2Proof.Machine.execTkinc c n xa imm s
  | .tkchk c xd n => Sys2Proof.Machine.execTkchk c xd n s
  | .mode c exposed slack => Sys2Proof.Machine.execMode c exposed slack s
  | .leave c n mask => Sys2Proof.Machine.execLeave c n mask s
  | .capr c xd xa imm => Sys2Proof.Machine.execCapr c xd xa imm s
  | .mfs c xd sel => Sys2Proof.Machine.execMfs c xd sel s
  | .mts c sel xa => Sys2Proof.Machine.execMts c sel xa s
  | .exit c => Sys2Proof.Machine.execExit c s
  | .brk c code => Sys2Proof.Machine.execBrk c code s
  | .sysc c service => Sys2Proof.Machine.execSysc c service s
  | .ldb c xd xb imm => Sys2Proof.Machine.execLdb c xd xb imm s
  | .ldh c xd xb imm => Sys2Proof.Machine.execLdh c xd xb imm s
  | .ldw c xd xb imm => Sys2Proof.Machine.execLdw c xd xb imm s
  | .ldd c xd xb imm => Sys2Proof.Machine.execLdd c xd xb imm s
  | .stb c xs xb imm => Sys2Proof.Machine.execStb c xs xb imm s
  | .sth c xs xb imm => Sys2Proof.Machine.execSth c xs xb imm s
  | .stw c xs xb imm => Sys2Proof.Machine.execStw c xs xb imm s
  | .std c xs xb imm => Sys2Proof.Machine.execStd c xs xb imm s
  | .vld c vq xb imm => Sys2Proof.Machine.execVld c vq xb imm s
  | .loadComplete k ctx => Sys2Proof.Machine.execLoadComplete k ctx s
  | .spld c e => Sys2Proof.Machine.execSpld c e s
  | .spst c e => Sys2Proof.Machine.execSpst c e s
  | .gath c e => Sys2Proof.Machine.execGath c e s
  | .scat c e => Sys2Proof.Machine.execScat c e s
  | .ldt c e => Sys2Proof.Machine.execLdt c e s
  | .ferry c e => Sys2Proof.Machine.execFerry c e s
  | .ferryTier c e => Sys2Proof.Machine.execFerryTier c e s
  | .ferryQ c e => Sys2Proof.Machine.execFerryQ c e s
  | .engineCmdComplete k ctx id => Sys2Proof.Machine.execEngineCmdComplete k ctx id s
  | .mark c id => Sys2Proof.Machine.execMark c id s
  | .fence c e scope => Sys2Proof.Machine.execFence c e scope s
  | .amo c op dbl xd xa xb imm => Sys2Proof.Machine.execAmo c op dbl xd xa xb imm s
  | .red c op e => Sys2Proof.Machine.execRed c op e s
  | .redApply k ctx id => Sys2Proof.Machine.execRedApply k ctx id s
  | .rclaimCfg c ring xa => Sys2Proof.Machine.execRclaimCfg c ring xa s
  | .rclaim c xd ring => Sys2Proof.Machine.execRclaim c xd ring s
  | .rfill c ring => Sys2Proof.Machine.execRfill c ring s
  | .rwaitf c xd ring n => Sys2Proof.Machine.execRwaitf c xd ring n s
  | .rwaite c xd ring n => Sys2Proof.Machine.execRwaite c xd ring n s
  | .rtake c xd ring => Sys2Proof.Machine.execRtake c xd ring s
  | .rfree c ring => Sys2Proof.Machine.execRfree c ring s
  | .msend c e => Sys2Proof.Machine.execMsend c e s
  | .msendGrant k ctx id => Sys2Proof.Machine.execMsendGrant k ctx id s
  | .mrecvCfg c mq xa => Sys2Proof.Machine.execMrecvCfg c mq xa s
  | .mrecv c xd mq => Sys2Proof.Machine.execMrecv c xd mq s
  | .mrecvNb c xd mq => Sys2Proof.Machine.execMrecvNb c xd mq s
  | .mqcred c mq n => Sys2Proof.Machine.execMqcred c mq n s
  | .stn c e => Sys2Proof.Machine.execStn c e s
  | .stnS c e => Sys2Proof.Machine.execStnS c e s
  | .stnNameReturn k ctx id => Sys2Proof.Machine.execStnNameReturn k ctx id s
  | .baddr c xd xa xb imm => Sys2Proof.Machine.execBaddr c xd xa xb imm s
  | .bshare c xa => Sys2Proof.Machine.execBshare c xa s
  | .rlq c xa => Sys2Proof.Machine.execRlq c xa s
  | .lbind c slot xa shr => Sys2Proof.Machine.execLbind c slot xa shr s
  | .lunbind c slot => Sys2Proof.Machine.execLunbind c slot s
  | .tspawn c e => Sys2Proof.Machine.execTspawn c e s
  | .tgraph c e => Sys2Proof.Machine.execTgraph c e s
  | .tyieldFront c => Sys2Proof.Machine.execTyieldFront c s
  | .tyieldPast c xa => Sys2Proof.Machine.execTyieldPast c xa s
  | .collAllred c e => Sys2Proof.Machine.execCollAllred c e s
  | .collRed c e => Sys2Proof.Machine.execCollRed c e s
  | .collBcast c e => Sys2Proof.Machine.execCollBcast c e s
  | .collBar c e => Sys2Proof.Machine.execCollBar c e s
  | .collContribution k ctx id => Sys2Proof.Machine.execCollContribution k ctx id s
  | .collDeadlineExpire part group cnum => Sys2Proof.Machine.execCollDeadlineExpire part group cnum s
  | .collMemberTimeout k ctx id => Sys2Proof.Machine.execCollMemberTimeout k ctx id s
  | .vadd c v ty md => Sys2Proof.Machine.execVadd c v ty md s
  | .vsub c v ty md => Sys2Proof.Machine.execVsub c v ty md s
  | .vmul c v ty md => Sys2Proof.Machine.execVmul c v ty md s
  | .vdiv c v ty md => Sys2Proof.Machine.execVdiv c v ty md s
  | .vmin c v ty => Sys2Proof.Machine.execVmin c v ty s
  | .vmax c v ty => Sys2Proof.Machine.execVmax c v ty s
  | .vfmaFp32 c v => Sys2Proof.Machine.execVfmaFp32 c v s
  | .vfmaBf16 c v => Sys2Proof.Machine.execVfmaBf16 c v s
  | .vfmaFp16 c v => Sys2Proof.Machine.execVfmaFp16 c v s
  | .vabs c v ty sat => Sys2Proof.Machine.execVabs c v ty sat s
  | .vneg c v ty sat => Sys2Proof.Machine.execVneg c v ty sat s
  | .vand c v => Sys2Proof.Machine.execVand c v s
  | .vor c v => Sys2Proof.Machine.execVor c v s
  | .vxor c v => Sys2Proof.Machine.execVxor c v s
  | .vshl c v ty => Sys2Proof.Machine.execVshl c v ty s
  | .vshr c v ty arith => Sys2Proof.Machine.execVshr c v ty arith s
  | .vaddi c v ty imm => Sys2Proof.Machine.execVaddi c v ty imm s
  | .vmuli c v ty imm => Sys2Proof.Machine.execVmuli c v ty imm s
  | .vsplatImm c vd ty imm => Sys2Proof.Machine.execVsplatImm c vd ty imm s
  | .vsplatReg c vd ty xa => Sys2Proof.Machine.execVsplatReg c vd ty xa s
  | .vcvt c v src dst rm sat => Sys2Proof.Machine.execVcvt c v src dst rm sat s
  | .vcmp c v ty cond => Sys2Proof.Machine.execVcmp c v ty cond s
  | .vsel32 c v => Sys2Proof.Machine.execVsel32 c v s
  | .vsel16 c v => Sys2Proof.Machine.execVsel16 c v s
  | .vsel8 c v => Sys2Proof.Machine.execVsel8 c v s
  | .vreds c v ty md => Sys2Proof.Machine.execVreds c v ty md s
  | .vredm c v ty kind => Sys2Proof.Machine.execVredm c v ty kind s
  | .vscan c v ty ex rm => Sys2Proof.Machine.execVscan c v ty ex rm s
  | .vsortcCount c v win => Sys2Proof.Machine.execVsortcCount c v win s
  | .vsortcOrder c v => Sys2Proof.Machine.execVsortcOrder c v s
  | .vsortcSlot c v win => Sys2Proof.Machine.execVsortcSlot c v win s
  | .vspselMask c v ty => Sys2Proof.Machine.execVspselMask c v ty s
  | .vspselMeta c v ty => Sys2Proof.Machine.execVspselMeta c v ty s
  | .vspselPack c v ty => Sys2Proof.Machine.execVspselPack c v ty s
  | .vrmsnFp32 c v => Sys2Proof.Machine.execVrmsnFp32 c v s
  | .vrmsnBf16 c v => Sys2Proof.Machine.execVrmsnBf16 c v s
  | .vact c v ty fn => Sys2Proof.Machine.execVact c v ty fn s
  | .vexp c v ty => Sys2Proof.Machine.execVexp c v ty s
  | .vexp2 c v ty => Sys2Proof.Machine.execVexp2 c v ty s
  | .vrcp c v ty => Sys2Proof.Machine.execVrcp c v ty s
  | .vrsq c v ty => Sys2Proof.Machine.execVrsq c v ty s
  | .vperm c v ty hi => Sys2Proof.Machine.execVperm c v ty hi s
  | .vlds c vd xa imm => Sys2Proof.Machine.execVlds c vd xa imm s
  | .vsts c va pa xa imm => Sys2Proof.Machine.execVsts c va pa xa imm s
  | .vqst c xd vn => Sys2Proof.Machine.execVqst c xd vn s
  | .vmov c v => Sys2Proof.Machine.execVmov c v s
  | .exadd c d va pa ty => Sys2Proof.Machine.execExadd c d va pa ty s
  | .exaddL c d va len1 pa ty => Sys2Proof.Machine.execExaddL c d va len1 pa ty s
  | .exrd c vd a len1 clr => Sys2Proof.Machine.execExrd c vd a len1 clr s
  | .exclr c a len1 => Sys2Proof.Machine.execExclr c a len1 s
  | .fqpush c xa => Sys2Proof.Machine.execFqpush c xa s
  | .fqmode c rm => Sys2Proof.Machine.execFqmode c rm s
  | .scw c sc xa imm => Sys2Proof.Machine.execScw c sc xa imm s
  | .ctwr c bank entry xa imm => Sys2Proof.Machine.execCtwr c bank entry xa imm s
  | .nestw c nest xa imm => Sys2Proof.Machine.execNestw c nest xa imm s
  | .tgo c t => Sys2Proof.Machine.execTgo c t s
  | .tgoG c t => Sys2Proof.Machine.execTgoG c t s
  | .tgoSp c t => Sys2Proof.Machine.execTgoSp c t s
  | .tileCmdHead k => Sys2Proof.Machine.execTileCmdHead k s
  | .tileCmdAccept k => Sys2Proof.Machine.execTileCmdAccept k s
  | .tileCmdComplete k id => Sys2Proof.Machine.execTileCmdComplete k id s
  | .accz c acc => Sys2Proof.Machine.execAccz c acc s
  | .accrd c vd acc ty xa row => Sys2Proof.Machine.execAccrd c vd acc ty xa row s
  | .accmov c accD accS add => Sys2Proof.Machine.execAccmov c accD accS add s
  | .accst c w => Sys2Proof.Machine.execAccst c w s
  | .accld c w => Sys2Proof.Machine.execAccld c w s
  | .lapp c slot qa qb bf => Sys2Proof.Machine.execLapp c slot qa qb bf s
  | .lappb c slot qa qb j bf => Sys2Proof.Machine.execLappb c slot qa qb j bf s
  | .lreadOrd c slot qa qb qc bf div => Sys2Proof.Machine.execLreadOrd c slot qa qb qc bf div s
  | .lreadExa c slot qa qb qc bf div => Sys2Proof.Machine.execLreadExa c slot qa qb qc bf div s
  | .lreadRungs c slot qa qb qc bf => Sys2Proof.Machine.execLreadRungs c slot qa qb qc bf s
  | .lfork c slotD slotS => Sys2Proof.Machine.execLfork c slotD slotS s
  | .ltruncLow c slot xm => Sys2Proof.Machine.execLtruncLow c slot xm s
  | .ltruncCkpt c slot slotC => Sys2Proof.Machine.execLtruncCkpt c slot slotC s
  | .ldrop c slot => Sys2Proof.Machine.execLdrop c slot s
  | .lstat c slot qc => Sys2Proof.Machine.execLstat c slot qc s
  | .ladderCmdComplete k id => Sys2Proof.Machine.execLadderCmdComplete k id s
  | .tapchk c xb first cnt1 => Sys2Proof.Machine.execTapchk c xb first cnt1 s
  | .tapchkBind c xa => Sys2Proof.Machine.execTapchkBind c xa s
  | .tapchkMask c xd wd => Sys2Proof.Machine.execTapchkMask c xd wd s
  | .vshort c v bf => Sys2Proof.Machine.execVshort c v bf s
  | .vsort c v => Sys2Proof.Machine.execVsort c v s
  | .vsortMerge c v => Sys2Proof.Machine.execVsortMerge c v s
  | .vsamp c v f => Sys2Proof.Machine.execVsamp c v f s
  | .vsampU c vd vb pa pb => Sys2Proof.Machine.execVsampU c vd vb pa pb s
  | .rngget c xd xa => Sys2Proof.Machine.execRngget c xd xa s
  | .rnggetPeek c xd xa => Sys2Proof.Machine.execRnggetPeek c xd xa s
  | .rngjmp c xa xb => Sys2Proof.Machine.execRngjmp c xa xb s
  | .gstep c v => Sys2Proof.Machine.execGstep c v s
  | .vgmask c v bf => Sys2Proof.Machine.execVgmask c v bf s
  | .gsave c xd xa => Sys2Proof.Machine.execGsave c xd xa s
  | .grest c xa xb => Sys2Proof.Machine.execGrest c xa xb s
  | .tokout c v => Sys2Proof.Machine.execTokout c v s
  | .wsw c xa xb xc => Sys2Proof.Machine.execWsw c xa xb xc s
  | .ptbw c xa idx => Sys2Proof.Machine.execPtbw c xa idx s
  | .ptbwH c xa => Sys2Proof.Machine.execPtbwH c xa s
  | .tlbiPg c xa => Sys2Proof.Machine.execTlbiPg c xa s
  | .tlbiBlk c xa => Sys2Proof.Machine.execTlbiBlk c xa s
  | .tlbiAll c => Sys2Proof.Machine.execTlbiAll c s
  | .quar c xa xb wd => Sys2Proof.Machine.execQuar c xa xb wd s
  | .slotw c xa n => Sys2Proof.Machine.execSlotw c xa n s
  | .bmapwFree c xa => Sys2Proof.Machine.execBmapwFree c xa s
  | .bmapwSet c xa xb => Sys2Proof.Machine.execBmapwSet c xa xb s
  | .halt c xa => Sys2Proof.Machine.execHalt c xa s
  | .resume c xa => Sys2Proof.Machine.execResume c xa s
  | .eret c => Sys2Proof.Machine.execEret c s
  | .ipi c xa code => Sys2Proof.Machine.execIpi c xa code s
  | .partw c xa xb sel => Sys2Proof.Machine.execPartw c xa xb sel s
  | .islw c xa xb => Sys2Proof.Machine.execIslw c xa xb s
  | .forcedStopPoint k ctx => Sys2Proof.Machine.execForcedStopPoint k ctx s
  | .deadlk k => Sys2Proof.Machine.execDeadlk k s
  | .tlbWalk k va => Sys2Proof.Machine.execTlbWalk k va s
  | .xlateService k who id mapped => Sys2Proof.Machine.execXlateService k who id mapped s
  | .pageMove part va dest addr => Sys2Proof.Machine.execPageMove part va dest addr s
  | .pageSupplyAnswer k ctx id page => Sys2Proof.Machine.execPageSupplyAnswer k ctx id page s
  | .holdWindowExpire part va => Sys2Proof.Machine.execHoldWindowExpire part va s
  | .migrationGo mva dir part => Sys2Proof.Machine.execMigrationGo mva dir part s
  | .hostDeviceWrite pa data => Sys2Proof.Machine.execHostDeviceWrite pa data s
  | .taskSelect part => Sys2Proof.Machine.execTaskSelect part s
  | .reservationRequest task k => Sys2Proof.Machine.execReservationRequest task k s
  | .coreRelease k => Sys2Proof.Machine.execCoreRelease k s
  | .raggedDistribute task => Sys2Proof.Machine.execRaggedDistribute task s
  | .coreStart k => Sys2Proof.Machine.execCoreStart k s
  | .coreDrainDone k => Sys2Proof.Machine.execCoreDrainDone k s
  | .taskCommit part => Sys2Proof.Machine.execTaskCommit part s
  | .supervisorResume k ctx x56 x57 => Sys2Proof.Machine.execSupervisorResume k ctx x56 x57 s
  | .supervisorReflect k ctx => Sys2Proof.Machine.execSupervisorReflect k ctx s
  | .supervisorEndFault task => Sys2Proof.Machine.execSupervisorEndFault task s
  | .preemptSave task area => Sys2Proof.Machine.execPreemptSave task area s
  | .scrubError part kind addr => Sys2Proof.Machine.execScrubError part kind addr s
  | .specdepthWrite part v => Sys2Proof.Machine.execSpecdepthWrite part v s
  | .vbquotaWrite part v => Sys2Proof.Machine.execVbquotaWrite part v s
  | .reddlWrite part v => Sys2Proof.Machine.execReddlWrite part v s
  | .ptbaseWrite part v => Sys2Proof.Machine.execPtbaseWrite part v s
  | .tqspareWrite part v => Sys2Proof.Machine.execTqspareWrite part v s
  | .schctlPre part => Sys2Proof.Machine.execSchctlPre part s
  | .schctlHold part hold => Sys2Proof.Machine.execSchctlHold part hold s
  | .registerWrite off v => Sys2Proof.Machine.execRegisterWrite off v s
  | .queueEnable q v => Sys2Proof.Machine.execQueueEnable q v s
  | .kick q tail => Sys2Proof.Machine.execKick q tail s
  | .entryFetch q => Sys2Proof.Machine.execEntryFetch q s
  | .frameBoundary => Sys2Proof.Machine.execFrameBoundary s
  | .wsRefreshWindow bank => Sys2Proof.Machine.execWsRefreshWindow bank s
  | .leaveGrant island => Sys2Proof.Machine.execLeaveGrant island s
  | .linkFlitRetry link => Sys2Proof.Machine.execLinkFlitRetry link s
  | .powerOn => Sys2Proof.Machine.execPowerOn s
  | .pcieFundamentalReset => Sys2Proof.Machine.execPcieFundamentalReset s
  | .bootctlCold => Sys2Proof.Machine.execBootctlCold s
  | .bootctlWarm => Sys2Proof.Machine.execBootctlWarm s
  | .stageTimeout => Sys2Proof.Machine.execStageTimeout s
  | .icarnColdReset => Sys2Proof.Machine.execIcarnColdReset s
  | .writeInFlightCompletes k ctx wid => Sys2Proof.Machine.execWriteInFlightCompletes k ctx wid s
  | .postedStorePerformed k ctx idx die => Sys2Proof.Machine.execPostedStorePerformed k ctx idx die s
  | .hostPortDown port up => Sys2Proof.Machine.execHostPortDown port up s
  | .linkStateChange link st peer => Sys2Proof.Machine.execLinkStateChange link st peer s
  | .islandPowerGating island gated => Sys2Proof.Machine.execIslandPowerGating island gated s
  | .landingProcessorWrite pa data => Sys2Proof.Machine.execLandingProcessorWrite pa data s

end Sys2Proof.Machine
end

