-- ==== Sys2Proof/Machine/Pair.lean ====
section
/-! DEFINITION. The pairs of X: two words in one issue cycle, in program order, and a stall of either holds both (R59, R84).
L and S issue one word at a time. -/

namespace Sys2Proof.Machine

open Sys2Proof

/-- No word pairs with the one that has issued. -/
def State.unpair (s : State) : State :=
  match s.me.pair with
  | some _ => s.updMe fun c => { c with pair := none }
  | none => s

/-- The second word's waits are tested against what the first word leaves (R59, R84), but for the first word's own commands that
wait in the matrix and generation engines, the tiles they empty and the registers they will write: no command is accepted
before its word has issued, so that these cannot hold the pair (assumption 4). `s` is what the first word found, `t` what it
leaves. DEDUCED -/
def State.beside (s t : State) : State :=
  (t.updCur fun c => { c with matq := s.cur.matq, tiles := s.cur.tiles, genq := s.cur.genq }).updMe fun c =>
    { c with pend := s.me.pend }

/-- What holds the second word of a pair back in state `u`, which its issue has left. -/
def State.heldBack (u : State) : Wait :=
  match u.me.pair with
  | some p => p.held
  | none => .go

/-- The word after the first of a pair, where one may follow: the first has gone on to it, no cause stands before it, and it is
no STOP point (R59, R72). -/
def State.second? (t : State) : Option Instr :=
  match t.me.pair with
  | some p =>
    if p.single || t.me.run != .running || !t.me.attached.isEmpty || t.me.nonStop == 48 then none
    else
      match decode t.wordAtPc with
      | .ok i => if (ctlOf i).stop then none else some i
      | .error _ => none
  | none => none

/-- X has issued a word: `s` is what it found, `t` what it leaves. The next word issues in the same cycle where R59 lets it.
Where a wait of that word, as R84 tests it, is not met, neither issues; where only the first word's own effect holds it back, the
first issues alone (assumption 4). DEDUCED -/
def State.pairUp (s t : State) : Host.Outcome State Fault Refusal :=
  match t.second? with
  | none => .next t.unpair
  | some i =>
    match exec i (s.beside t), exec i t with
    | .next u, .next v =>
      match u.heldBack with
      | .hold => .next s
      | .starve => .next s.starve
      | .block => .next s.block
      | .go => if v.me.pair.isSome then .next t.unpair else .next v
    | _, o => o

/-- What a turn of a context does after the outcome of its word: X goes on to a second word. -/
def State.paired (s : State) (o : Host.Outcome State Fault Refusal) : Host.Outcome State Fault Refusal :=
  match o with
  | .next t => if s.who.ctx = .X then s.pairUp t else .next t
  | .fault f => .fault f
  | .refused r => .refused r

end Sys2Proof.Machine
end

