-- ==== Sys2Proof/Machine/Step.lean ====
section
/-! DEFINITION. One step of the device: the turn that the state holds, and then the choice of the next one. -/

namespace Sys2Proof.Machine

open Sys2Proof

/-- The cycles that pass count toward the DEADLK of the cores that stand still (R69); while a core is halted its count does not
advance (R415). -/
def State.watch (s : State) : State :=
  { s with cores := s.cores.map fun (e : Nat × CoreSt) =>
      (e.1, { e.2 with still :=
        if e.2.halted then e.2.still else if s.stands e.1 then e.2.still + Config.dt s.ticks else 0 }) }

/-- After a step, time has passed and the next turn is chosen (assumptions 2 and 3). -/
def State.tick (s : State) : State :=
  let s := s.watch
  { s with ticks := s.ticks + 1, now := s.now + Config.dt s.ticks, turn := Config.nextTurn s.ticks,
           who := Config.nextWho s.ticks }

/-- The turn of the state: a context issues, an event happens, or an elementary step of one. -/
def State.act (s : State) : Host.Outcome State Fault Refusal :=
  match s.turn with
  | .issue =>
    match s.fetch with
    | .done t => .next t
    | .word i => s.paired (exec i s)
  | .event i => if (opcodeOf i).isSome then .next s else exec i s
  | .inner a => .next (s.inner a)

/-- Time passes after an outcome that goes on. -/
def tickAfter : Host.Outcome State Fault Refusal → Host.Outcome State Fault Refusal
  | .next t => .next t.tick
  | .fault f => .fault f
  | .refused r => .refused r

/-- One step. -/
def step (s : State) : Host.Outcome State Fault Refusal := tickAfter s.act

/-- The word with bits `w` stored where the next step fetches: word 0 of core 0's window of the context that the opcode
belongs to. It stands for the load of a program that the host does by a launch (assumption 9). -/
def State.withFetchWord (s : State) (nbits w : Nat) : State := s.placeWord (w % 2 ^ nbits)

end Sys2Proof.Machine
end

