-- ==== Sys2Proof/Safety.lean ====
section
/-! DEFINITION. What counts as a safe run, in the terms that claims use: the invariants that a step keeps. -/

namespace Sys2Proof.Machine

open Sys2Proof

/-- A memory is in its canonical form: addresses strictly rising, no byte listed that reads as an unlisted one. -/
def Memory.Ok (m : Memory) : Prop := Memory.wf m = true

/-- The device's four memories (HBM, host memory, pooled memory, the Weight Store) are in canonical form. -/
structure State.MemWf (s : State) : Prop where
  hbm  : Memory.Ok s.hbm
  host : Memory.Ok s.host
  tier : Memory.Ok s.tier
  ws   : Memory.Ok s.ws

/-- An outcome goes on only with memories in canonical form. -/
def OutcomeWf : Host.Outcome State Fault Refusal → Prop
  | .next t => t.MemWf
  | .fault _ => True
  | .refused _ => True

/-! ### What a word finds -/

/-- What the word of the turn finds at its issue cycle: in exposed mode the writes due by then have landed (R73); in
interlocked mode the state itself. -/
def State.seen (s : State) (c : Ctl) (unit : Nat) : State := s.atCycle (s.me.nextCycle c unit)

/-- Nothing that concerns every word stands in the way of a word with control half `c` in issue slot `unit`, which consumes
the counters `tki` too and reads or writes the registers `uses`: its context issues words (R79, R407); it is no forced STOP
point (R72) and no point at which HALT or a pre-emption stops it (R402, R412); no cause is attached (R401); its registers have arrived (R222); its tokens are there, with no error flag (R65,
R67); its FIFOs have places (R66); no more commands wait than SLACK lets (R77); its own signal does not overflow (R66). -/
def State.clear (s : State) (c : Ctl) (unit : Nat) (tki : List (BitVec 5)) (uses : List Reg) : Bool :=
  let v := s.seen c unit
  s.me.run == .running && (s.me.nonStop != 48 || c.stop) && !s.stopsHere c.stop && v.me.attached.isEmpty && v.me.regsReady uses &&
    v.cur.tokensMet s.who.ctx c tki && (v.cur.flagged c tki).isNone && v.me.placesFree c &&
    !v.cur.overSlack s.who.ctx &&
    !(c.stk != 0 && decide (65535 < ((v.cur.takeTokens s.who.ctx c tki).tk c.stk.toNat).count +
      (v.cur.takeTokens s.who.ctx c tki).inFlightTk c.stk.toNat + 1))

/-! ### What a word leaves -/

/-- What the control half of an issued word does (R65, R66, R72, R83): `v` is what the word found, `t` what it leaves. The
tokens it pops and the counters it waits for go down by one, the STOP count goes on, and the signals it owes are noted under
its number; `held` says that an engine lets them go, `engine` that its own STK waits for no access (R348). -/
structure ControlHalf (v t : State) (c : Ctl) (tki : List (BitVec 5)) (held : Bool) (engine : Bool := false) : Prop where
  fifos   : ∀ y : Ctx, (t.cur.ctx y).fifoP = (v.cur.ctx y).fifoP - (if y = v.who.ctx.succ then b2n c.popn else 0) ∧
    (t.cur.ctx y).fifoN = (v.cur.ctx y).fifoN - (if y = v.who.ctx.pred then b2n c.popp else 0)
  counts  : ∀ n, t.cur.tk n = { v.cur.tk n with count := (v.cur.tk n).count - (ctlCounts c tki).count n }
  stops   : t.me.nonStop = if c.stop then 0 else v.me.nonStop + 1
  signals : t.me.sigs = v.me.sigs ++ owed c v.cur.nextId v.me.pc v.wordAtPc held engine

/-- What an issued word leaves unchanged: every part of the device outside its core, every other core, of its core all but
what every word moves (token counters, the number of the next word, the note of starved contexts) and what `core` lets
through from the new one, of its context all but what every word moves (pc and loop stack, issue cycle, STOP count, signals
owed, FIFO counts) and what `ctx` lets through, and of the other two contexts all but their FIFO counts and what `other` lets
through. -/
structure Confined (v t : State) (core : CoreSt → CoreSt → CoreSt) (ctx other : CtxSt → CtxSt → CtxSt) : Prop where
  device : t = { v with cores := t.cores }
  cores  : ∀ k, k ≠ v.k → t.core k = v.core k
  core   : t.cur = { core v.cur t.cur with
    cL := t.cur.cL, cX := t.cur.cX, cS := t.cur.cS, tks := t.cur.tks, nextId := t.cur.nextId, starved := t.cur.starved }
  me     : t.me = { ctx v.me t.me with
    pc := t.me.pc, loops := t.me.loops, icycle := t.me.icycle, pair := t.me.pair, nonStop := t.me.nonStop, sigs := t.me.sigs,
    blocked := false, forced := false, fifoP := t.me.fifoP, fifoN := t.me.fifoN }
  others : ∀ y, y ≠ v.who.ctx → t.cur.ctx y =
    { other (v.cur.ctx y) (t.cur.ctx y) with fifoP := (t.cur.ctx y).fifoP, fifoN := (t.cur.ctx y).fifoN }

/-- Nothing more is let through. -/
def keep {α : Type} (a _ : α) : α := a

/-- A context lets its registers and its writes in flight through. -/
def keepButRegs (a b : CtxSt) : CtxSt := { a with regs := b.regs, flights := b.flights }

/-- The word goes on to the next word in program order, through the loop stack (R57, R146). -/
def GoesOn (v t : State) : Prop := t.me.pc = v.me.advance.pc ∧ t.me.loops = v.me.advance.loops

/-- A word has gone through from `v` to `t`: its control half, what it leaves unchanged, and the next word. -/
structure Through (v t : State) (c : Ctl) (tki : List (BitVec 5)) (held : Bool)
    (core : CoreSt → CoreSt → CoreSt) (ctx : CtxSt → CtxSt → CtxSt) (engine : Bool := false) : Prop where
  half     : ControlHalf v t c tki held engine
  confined : Confined v t core ctx keep
  goes     : GoesOn v t

/-- A context lets its writes in flight through. -/
def keepButFlights (a b : CtxSt) : CtxSt := { a with flights := b.flights }

/-- A context lets its access queue and the registers that await a value through. -/
def keepButAccesses (a b : CtxSt) : CtxSt := { a with accq := b.accq, pend := b.pend }

/-- A write in flight of the word that `v` found and `t` leaves behind, due `lat` issue cycles after it. -/
def flightOf (v t : State) (lat : Nat) (l : Landing) : Flight := ⟨v.cur.nextId, t.me.icycle + lat, v.me.pc, v.wordAtPc, l⟩

/-- A word writes `x` to register `xd` with latency `lat`: in interlocked mode the register holds it, in exposed mode it is in
flight and due `lat` issue cycles after the word, and no register has changed (R73, R75). x0 discards it (R90). -/
structure WritesReg (v t : State) (lat : Nat) (xd : Reg) (x : Word) : Prop where
  interlocked : v.me.exposed = false → t.me.flights = v.me.flights ∧
    ∀ y, t.reg y = if y = xd ∧ xd ≠ 0 then x else v.reg y
  exposed : v.me.exposed = true → (∀ y, t.reg y = v.reg y) ∧
    t.me.flights = v.me.flights ++ [flightOf v t lat (.reg xd x)]

end Sys2Proof.Machine
end

