-- ==== Sys2Proof/Certificates/Slice0/Obligations.lean ====
section
/-! DEFINITION. The statements for the provers, with the terms they are stated in. -/

open Sys2Proof Sys2Proof.Machine

namespace Sys2Proof.Machine

/-- What a scalar word of R134 to R141 reads, writes, how late and what: the registers it touches, xd, the latency of R133,
and the value by the state it finds. -/
def scalarWord (v : State) : Instr → Option (List Reg × Reg × Nat × Word)
  | .add _ xd xa xb => some ([xd, xa, xb], xd, 1, v.reg xa + v.reg xb)
  | .sub _ xd xa xb => some ([xd, xa, xb], xd, 1, v.reg xa - v.reg xb)
  | .mul _ xd xa xb => some ([xd, xa, xb], xd, 3, v.reg xa * v.reg xb)
  | .mulh _ xd xa xb m => some ([xd, xa, xb], xd, 3, mulhOf m (v.reg xa) (v.reg xb))
  | .div _ xd xa xb uns => some ([xd, xa, xb], xd, 20, divOf uns (v.reg xa) (v.reg xb))
  | .rem _ xd xa xb uns => some ([xd, xa, xb], xd, 20, remOf uns (v.reg xa) (v.reg xb))
  | .and _ xd xa xb => some ([xd, xa, xb], xd, 1, v.reg xa &&& v.reg xb)
  | .or _ xd xa xb => some ([xd, xa, xb], xd, 1, v.reg xa ||| v.reg xb)
  | .xor _ xd xa xb => some ([xd, xa, xb], xd, 1, v.reg xa ^^^ v.reg xb)
  | .shl _ xd xa xb imm => some ([xd, xa, xb], xd, 1, v.reg xa <<< (((v.reg xb).toNat + imm.toNat) % 64))
  | .shr _ xd xa xb imm => some ([xd, xa, xb], xd, 1, v.reg xa >>> (((v.reg xb).toNat + imm.toNat) % 64))
  | .sar _ xd xa xb imm => some ([xd, xa, xb], xd, 1, (v.reg xa).sshiftRight (((v.reg xb).toNat + imm.toNat) % 64))
  | .rol _ xd xa xb imm => some ([xd, xa, xb], xd, 1, (v.reg xa).rotateLeft (((v.reg xb).toNat + imm.toNat) % 64))
  | .min _ xd xa xb uns => some ([xd, xa, xb], xd, 1, minOf uns (v.reg xa) (v.reg xb))
  | .max _ xd xa xb uns => some ([xd, xa, xb], xd, 1, maxOf uns (v.reg xa) (v.reg xb))
  | .addi _ xd xa imm => some ([xd, xa], xd, 1, v.reg xa + imm.signExtend 64)
  | .andi _ xd xa imm => some ([xd, xa], xd, 1, v.reg xa &&& imm.signExtend 64)
  | .ori _ xd xa imm => some ([xd, xa], xd, 1, v.reg xa ||| imm.signExtend 64)
  | .xori _ xd xa imm => some ([xd, xa], xd, 1, v.reg xa ^^^ imm.signExtend 64)
  | .muli _ xd xa imm => some ([xd, xa], xd, 3, v.reg xa * imm.signExtend 64)
  | .cmp _ cond xd xa xb => some ([xd, xa, xb], xd, 1, if condHolds cond (v.reg xa) (v.reg xb) then 1 else 0)
  | .cmpi _ cond xd xa imm => some ([xd, xa], xd, 1, if condHolds cond (v.reg xa) (imm.signExtend 64) then 1 else 0)
  | .csel _ xd xs xa xb => some ([xd, xs, xa, xb], xd, 1, if v.reg xs = 0 then v.reg xb else v.reg xa)
  | .limm _ xd part imm => some ([xd], xd, 1, limmOf part imm (v.reg xd))
  | .clz _ xd xa => some ([xd, xa], xd, 1, clzOf (v.reg xa))
  | .popc _ xd xa => some ([xd, xa], xd, 1, popcOf (v.reg xa))
  | .bswap _ xd xa => some ([xd, xa], xd, 1, bswapOf (v.reg xa))
  | .extr _ xd xa sgn len1 pos => some ([xd, xa], xd, 1, extrOf sgn pos.toNat (len1.toNat + 1) (v.reg xa))
  | .insr _ xd xa len1 pos => some ([xd, xa], xd, 1, insrOf pos.toNat (len1.toNat + 1) (v.reg xa) (v.reg xd))
  | _ => none

end Sys2Proof.Machine

/-- R134 to R141 (values and latencies), with the frame. -/
def Obligations.ScalarWords : Prop :=
  ∀ (i : Instr) (s : State) (uses : List Reg) (xd : Reg) (lat : Nat) (x : Word),
    scalarWord (s.seen (ctlOf i) 0) i = some (uses, xd, lat, x) → s.clear (ctlOf i) 0 [] uses = true →
    ∃ t, exec i s = .next t ∧ WritesReg (s.seen (ctlOf i) 0) t lat xd x ∧
      Confined (s.seen (ctlOf i) 0) t keep keepButRegs keep ∧ ControlHalf (s.seen (ctlOf i) 0) t (ctlOf i) [] false ∧
      GoesOn (s.seen (ctlOf i) 0) t

namespace Sys2Proof.Machine

/-- A branch has gone to `target`, leaving the bodies that do not hold it, or to the next word (R142, R147). -/
def BranchedTo (v t : State) (taken : Bool) (target : Int) : Prop :=
  if taken then
    t.me.pc = (target % v.me.wwords).toNat ∧
      t.me.loops = v.me.loops.dropWhile fun e => !v.me.inBody e (target % v.me.wwords).toNat
  else t.me.pc = ((v.me.pc + 1 : Int) % v.me.wwords).toNat ∧ t.me.loops = v.me.loops

end Sys2Proof.Machine

/-- R142, R143, R144, R147, R150: branches, the link register, and the pop of CQBR; a BR word whose condition is AL has xa and xb 0
(R93). That JMPR reads xa unsigned, forms its sum exactly and only then reduces it to the window is the model's reading (assumption
74). -/
def Obligations.Branches : Prop :=
  (∀ c cond xa xb disp s, s.clear c 0 [] [xa, xb] = true → (s.seen c 0).me.closing = false →
    ∃ t, exec (.br c cond xa xb disp) s = .next t ∧ Confined (s.seen c 0) t keep keep keep ∧
      ControlHalf (s.seen c 0) t c [] false ∧
      BranchedTo (s.seen c 0) t (condHolds cond ((s.seen c 0).reg xa) ((s.seen c 0).reg xb))
        ((s.seen c 0).me.pc + disp.toInt)) ∧
  (∀ c xd xa imm s, s.clear c 0 [] [xd, xa] = true → (s.seen c 0).me.closing = false →
    ∃ t, exec (.jmpr c xd xa imm) s = .next t ∧ Confined (s.seen c 0) t keep keepButRegs keep ∧
      ControlHalf (s.seen c 0) t c [] false ∧
      WritesReg (s.seen c 0) t 1 xd (w64 (((s.seen c 0).me.pc + 1 : Int) % (s.seen c 0).me.wwords).toNat) ∧
      BranchedTo (s.seen c 0) t true (((s.seen c 0).reg xa).toNat + imm.toInt)) ∧
  (∀ c cond dir disp s, s.clear c 0 [] [] = true → (s.seen c 0).me.closing = false →
    (s.seen c 0).cur.cqIn s.who.ctx dir ≠ [] →
    ∃ t, exec (.cqbr c cond dir disp) s = .next t ∧
      Confined ((s.seen c 0).updCur fun k => k.cqPop s.who.ctx dir) t keep keep keep ∧
      ControlHalf (s.seen c 0) t c [] false ∧
      t.cur.cqIn s.who.ctx dir = ((s.seen c 0).cur.cqIn s.who.ctx dir).tail ∧
      BranchedTo (s.seen c 0) t (condHolds cond (((s.seen c 0).cur.cqIn s.who.ctx dir).headD 0) 0)
        ((s.seen c 0).me.pc + disp.toInt)) ∧
  (∀ (cond : Cond) (xa xb : Reg) (disp : BitVec 24), cond ≠ .al ∨ (xa = 0 ∧ xb = 0) →
    decode (w64 (0x20 * 2 ^ 40 + xa.toNat * 2 ^ 34 + xb.toNat * 2 ^ 28 + cond.code.toNat * 2 ^ 24 + disp.toNat)) =
      .ok (.br Ctl.none cond xa xb disp)) ∧
  (∀ (xd xa : Reg) (imm : BitVec 16),
    decode (w64 (0x21 * 2 ^ 40 + xd.toNat * 2 ^ 34 + xa.toNat * 2 ^ 28 + imm.toNat)) = .ok (.jmpr Ctl.none xd xa imm)) ∧
  (∀ w : Word, field w 40 8 = 0x21 → field w 16 12 ≠ 0 →
    ∃ e, decode w = .error e ∧ ∀ s : State, (s.decodeTrap w e).cause = .illop)

namespace Sys2Proof.Machine

/-- The trip count of a loop word is `n` and its body `body` words long (R145). A body that is as long as the window, or
a loop inside which there is no place for another, or a body that is not inside the innermost one, traps. -/
def LoopsBy (v t : State) (n : Word) (body : Nat) : Prop :=
  let start := ((v.me.pc + 1 : Int) % v.me.wwords).toNat
  let close := ((v.me.pc + body : Int) % v.me.wwords).toNat
  if n = 0 then (t.me.loops, t.me.pc) = closeLoops close ((close + 1 : Int) % v.me.wwords).toNat v.me.loops
  else t.me.pc = start ∧ t.me.loops = ⟨start, close, n⟩ :: v.me.loops

/-- A loop word with this trip count and body is legal where it stands (R145). -/
def LoopLegal (v : State) (n : Word) (body : Nat) : Prop :=
  body < v.me.wwords ∧ (n ≠ 0 → v.me.loops.length < 4 ∧ ∀ e, v.me.loops.head? = some e →
    v.me.inBody e (v.me.wrap (v.me.pc + 1)) = true ∧ v.me.inBody e (v.me.wrap (v.me.pc + body)) = true ∧
      v.me.wrap ((v.me.wrap (v.me.pc + 1) : Int) - e.start) ≤ v.me.wrap ((v.me.wrap (v.me.pc + body) : Int) - e.start))

end Sys2Proof.Machine

/-- R145: LOOP, LOOP.N and LOOPI. -/
def Obligations.Loops : Prop :=
  (∀ c xa body s, s.clear c 0 [] [xa] = true → (s.seen c 0).me.closing = false →
    LoopLegal (s.seen c 0) ((s.seen c 0).reg xa) body.toNat →
    ∃ t, exec (.loop c xa body) s = .next t ∧ Confined (s.seen c 0) t keep keep keep ∧
      ControlHalf (s.seen c 0) t c [] false ∧ LoopsBy (s.seen c 0) t ((s.seen c 0).reg xa) body.toNat) ∧
  (∀ c level body s, s.clear c 0 [] [] = true → (s.seen c 0).me.closing = false →
    (((s.seen c 0).cur.level level.toNat).extent = 0 ∨ ((s.seen c 0).cur.level level.toNat).kind = 0) →
    LoopLegal (s.seen c 0) (w64 ((s.seen c 0).cur.level level.toNat).extent) body.toNat →
    ∃ t, exec (.loopN c level body) s = .next t ∧ Confined (s.seen c 0) t keep keep keep ∧
      ControlHalf (s.seen c 0) t c [] false ∧
      LoopsBy (s.seen c 0) t (w64 ((s.seen c 0).cur.level level.toNat).extent) body.toNat) ∧
  (∀ c count body s, s.clear c 0 [] [] = true → (s.seen c 0).me.closing = false →
    LoopLegal (s.seen c 0) (count.setWidth 64) body.toNat →
    ∃ t, exec (.loopi c count body) s = .next t ∧ Confined (s.seen c 0) t keep keep keep ∧
      ControlHalf (s.seen c 0) t c [] false ∧ LoopsBy (s.seen c 0) t (count.setWidth 64) body.toNat)

/-! ### Scalar words, rule by rule (R135, R138 to R141) -/

namespace Sys2Proof.Machine

/-- A scalar word has gone through and written xd. -/
def Wrote (v t : State) (c : Ctl) (lat : Nat) (xd : Reg) (x : Word) : Prop :=
  WritesReg v t lat xd x ∧ Through v t c [] false keep keepButRegs

/-- The word is refused, and a context that issues it traps ILLOP. -/
def Illegal (w : Word) : Prop := ∃ e, decode w = .error e ∧ ∀ s : State, (s.decodeTrap w e).cause = .illop

/-- A word with the opcode and operand bits given, and nothing in its control half (R82). -/
def plainWord (op operands : Nat) : Word := w64 (op * 2 ^ 40 + operands)

end Sys2Proof.Machine

/-- R135: DIV and REM never trap, whatever their operands: the word goes through, and the context still runs. A divisor of 0
gives all ones and xa; the most negative number by −1 gives itself and 0.
R138: CSEL names its selector in fn, with all 64 values; it writes xa when the selector is not 0, else xb; imm16 must be 0.
R139: LIMM writes the low or the high half of xd and leaves the other, or writes xd whole, by its part. -/
def Obligations.DivisionSelectionConstants : Prop :=
  (∀ c xd xa xb uns s, s.clear c 0 [] [xd, xa, xb] = true →
    ∃ t u q r, exec (.div c xd xa xb uns) s = .next t ∧ exec (.rem c xd xa xb uns) s = .next u ∧
      Wrote (s.seen c 0) t c 20 xd q ∧ Wrote (s.seen c 0) u c 20 xd r ∧ t.me.run = .running ∧ u.me.run = .running ∧
      ((s.seen c 0).reg xb = 0 → q = BitVec.allOnes 64 ∧ r = (s.seen c 0).reg xa) ∧
      (uns = false → (s.seen c 0).reg xa = BitVec.intMin 64 → (s.seen c 0).reg xb = -1 → q = BitVec.intMin 64 ∧ r = 0)) ∧
  (∀ c xd xs xa xb s, s.clear c 0 [] [xd, xs, xa, xb] = true →
    ∃ t, exec (.csel c xd xs xa xb) s = .next t ∧
      Wrote (s.seen c 0) t c 1 xd (if (s.seen c 0).reg xs ≠ 0 then (s.seen c 0).reg xa else (s.seen c 0).reg xb)) ∧
  (∀ xd xs xa xb : Reg, decode (plainWord 0x16
    (xd.toNat * 2 ^ 34 + xa.toNat * 2 ^ 28 + xb.toNat * 2 ^ 22 + xs.toNat * 2 ^ 16)) = .ok (.csel Ctl.none xd xs xa xb)) ∧
  (∀ w : Word, field w 40 8 = 0x16 → field w 0 16 ≠ 0 → Illegal w) ∧
  (∀ c xd part imm s, s.clear c 0 [] [xd] = true →
    ∃ t x, exec (.limm c xd part imm) s = .next t ∧ Wrote (s.seen c 0) t c 1 xd x ∧
      match part with
      | .lo => x.extractLsb' 0 32 = imm ∧ x.extractLsb' 32 32 = ((s.seen c 0).reg xd).extractLsb' 32 32
      | .hi => x.extractLsb' 32 32 = imm ∧ x.extractLsb' 0 32 = ((s.seen c 0).reg xd).extractLsb' 0 32
      | .s => x = imm.signExtend 64
      | .z => x = imm.setWidth 64) ∧
  (∀ (xd : Reg) (imm : BitVec 32) (p : LPart) (n : Nat), (p, n) ∈ [(LPart.lo, 0), (.hi, 1), (.s, 2), (.z, 3)] →
    decode (plainWord 0x17 (xd.toNat * 2 ^ 34 + n * 2 ^ 32 + imm.toNat)) = .ok (.limm Ctl.none xd p imm))

/-- R140: CLZ, POPC and BSWAP, bit by bit; xb, fn and imm16 must be 0.
R141: EXTR and INSR, bit by bit; where their fields stand in imm16; and the words that trap ILLOP. -/
def Obligations.CountsAndBitFields : Prop :=
  (∀ c xd xa s, s.clear c 0 [] [xd, xa] = true →
    ∃ t n, exec (.clz c xd xa) s = .next t ∧ Wrote (s.seen c 0) t c 1 xd (w64 n) ∧ n ≤ 64 ∧
      (∀ j, 64 - n ≤ j → ((s.seen c 0).reg xa).getLsbD j = false) ∧
      (n < 64 → ((s.seen c 0).reg xa).getLsbD (63 - n) = true)) ∧
  (∀ c xd xa s, s.clear c 0 [] [xd, xa] = true →
    ∃ t, exec (.popc c xd xa) s = .next t ∧
      Wrote (s.seen c 0) t c 1 xd (w64 ((List.range 64).filter fun j => ((s.seen c 0).reg xa).getLsbD j).length)) ∧
  (∀ c xd xa s, s.clear c 0 [] [xd, xa] = true →
    ∃ t x, exec (.bswap c xd xa) s = .next t ∧ Wrote (s.seen c 0) t c 1 xd x ∧
      ∀ j, j < 8 → x.extractLsb' (8 * j) 8 = ((s.seen c 0).reg xa).extractLsb' (8 * (7 - j)) 8) ∧
  (∀ w : Word, field w 40 8 = 0x18 ∨ field w 40 8 = 0x19 ∨ field w 40 8 = 0x1C → field w 0 28 ≠ 0 → Illegal w) ∧
  (∀ c xd xa sgn len1 pos s (len : Nat), s.clear c 0 [] [xd, xa] = true → len = len1.toNat + 1 → pos.toNat + len ≤ 64 →
    ∃ t x, exec (.extr c xd xa sgn len1 pos) s = .next t ∧ Wrote (s.seen c 0) t c 1 xd x ∧
      ∀ j, j < 64 → x.getLsbD j =
        if j < len then ((s.seen c 0).reg xa).getLsbD (pos.toNat + j)
        else sgn && ((s.seen c 0).reg xa).getLsbD (pos.toNat + len - 1)) ∧
  (∀ c xd xa len1 pos s (len : Nat), s.clear c 0 [] [xd, xa] = true → len = len1.toNat + 1 → pos.toNat + len ≤ 64 →
    ∃ t x, exec (.insr c xd xa len1 pos) s = .next t ∧ Wrote (s.seen c 0) t c 1 xd x ∧
      ∀ j, j < 64 → x.getLsbD j =
        if pos.toNat ≤ j ∧ j < pos.toNat + len then ((s.seen c 0).reg xa).getLsbD (j - pos.toNat)
        else ((s.seen c 0).reg xd).getLsbD j) ∧
  (∀ (xd xa : Reg) (sgn : Bool) (len1 pos : BitVec 6), pos.toNat + len1.toNat + 1 ≤ 64 →
    decode (plainWord 0x1A (xd.toNat * 2 ^ 34 + xa.toNat * 2 ^ 28 + b2n sgn * 2 ^ 12 + len1.toNat * 2 ^ 6 + pos.toNat)) =
        .ok (.extr Ctl.none xd xa sgn len1 pos) ∧
      decode (plainWord 0x1B (xd.toNat * 2 ^ 34 + xa.toNat * 2 ^ 28 + len1.toNat * 2 ^ 6 + pos.toNat)) =
        .ok (.insr Ctl.none xd xa len1 pos)) ∧
  (∀ w : Word, field w 40 8 = 0x1A ∨ field w 40 8 = 0x1B →
    field w 13 3 ≠ 0 ∨ 64 < field w 0 6 + (field w 6 6 + 1) ∨ (field w 40 8 = 0x1B ∧ bitOf w 12 = true) → Illegal w)

/-! ### Tokens, control queues, modes (R60, R65, R76, R149 to R153, R160) -/

/-- NOP has no effect beyond its control half (R160).
CQPUT and CQGET (R149).
TKINC and TKCHK (R151, R152): TKINC's amount is in flight until the word retires, and an amount that would pass 65,535
traps; TKCHK reads flag and count, after its own waits, and clears the flag. The latency 1 of CQPUT and TKINC, which R133 does not
list, is the model's choice (assumption 76). -/
def Obligations.PlainControlWords : Prop :=
  (∀ c s, s.clear c 0 [] [] = true → ∃ t, exec (.nop c) s = .next t ∧ Through (s.seen c 0) t c [] false keep keep) ∧
  (∀ c dir xa s, s.clear c 0 [] [xa] = true → (s.seen c 0).me.cqCount dir < 32 →
    ∃ t, exec (.cqput c dir xa) s = .next t ∧ Through (s.seen c 0) t c [] false keep keepButFlights ∧
      t.me.flights = (s.seen c 0).me.flights ++
        [flightOf (s.seen c 0) t 1 (.cq (dir == .n) ((s.seen c 0).reg xa))]) ∧
  (∀ c xd dir s, s.clear c 0 [] [xd] = true → (s.seen c 0).cur.cqIn s.who.ctx dir ≠ [] →
    ∃ t, exec (.cqget c xd dir) s = .next t ∧
      Through ((s.seen c 0).updCur fun k => k.cqPop s.who.ctx dir) t c [] false keep keepButRegs ∧
      WritesReg (s.seen c 0) t 1 xd (((s.seen c 0).cur.cqIn s.who.ctx dir).headD 0) ∧
      t.cur.cqIn s.who.ctx dir = ((s.seen c 0).cur.cqIn s.who.ctx dir).tail) ∧
  (∀ c n xa imm s, s.clear c 0 [] [xa] = true →
    ((s.seen c 0).cur.tk n.toNat).count - (ctlCounts c []).count n.toNat +
      ((s.seen c 0).cur.takeTokens s.who.ctx c []).inFlightTk n.toNat +
      (((s.seen c 0).reg xa).toNat + imm.toNat) ≤ 65535 →
    ∃ t, exec (.tkinc c n xa imm) s = .next t ∧ Through (s.seen c 0) t c [] false keep keepButFlights ∧
      t.me.flights = (s.seen c 0).me.flights ++
        (if ((s.seen c 0).reg xa).toNat + imm.toNat = 0 then [] else
          [flightOf (s.seen c 0) t 1 (.tk n.toNat (((s.seen c 0).reg xa).toNat + imm.toNat))])) ∧
  (∀ c n xa imm s, s.clear c 0 [] [xa] = true → s.isSpec s.k = false → s.me.exposed = false →
    65535 < (s.cur.tk n.toNat).count - (ctlCounts c []).count n.toNat +
      (s.cur.takeTokens s.who.ctx c []).inFlightTk n.toNat + ((s.reg xa).toNat + imm.toNat) →
    ∃ t r, exec (.tkinc c n xa imm) s = .next t ∧ t.me.run = .trapped r ∧ r.cause = .tkovf ∧ r.info = w64 n.toNat ∧
      r.resume = s.me.pc) ∧
  (∀ c xd n s, s.clear c 0 [] [xd] = true →
    ∃ t, exec (.tkchk c xd n) s = .next t ∧
      Through ((s.seen c 0).updCur fun k => k.setTk n.toNat { k.tk n.toNat with flag := false }) t c [] false keep
        keepButRegs ∧
      WritesReg (s.seen c 0) t 1 xd (w64 (b2n ((s.seen c 0).cur.tk n.toNat).flag * 2 ^ 16 +
        (((s.seen c 0).cur.tk n.toNat).count - (ctlCounts c []).count n.toNat))))

namespace Sys2Proof.Machine

/-- No increment in flight takes a token counter of the core past 65,535: TKINC's own check sees to that, as long as no engine
counts meanwhile (R66, R68, R151). -/
def TkFits (k : CoreSt) : Prop := ∀ n, (k.tk n).count + k.inFlightTk n ≤ 65535

end Sys2Proof.Machine

/-- MODE (R76, R153): the context has the mode and the slack, and the writes in flight have landed (an increment among them that
passes 65,535 keeps that value and logs a record besides: R68 says so of engine and remote increments, and that a word's own does
likewise when it lands is the model's choice, assumption 61).
LEAVE (R154, R453): with n = 0 kept leave of the named kinds goes back, else each named kind asks its governor.
CAPR (R155): the 8 bytes at the offset xa + imm16, a multiple of 8, in the capability list; 0 from 0x1000 on, for every sum
however large; an offset that is no multiple of 8 traps ALIGN. The order in which LEAVE takes its kinds is the model's choice
(assumption 58), and so are the exact sum of CAPR and the ADDR of one that passes 64 bits (assumption 22). -/
def Obligations.ModeLeaveAndCapability : Prop :=
  (∀ c exposed slack s, s.clear c 0 [] [] = true →
    ∃ t, exec (.mode c exposed slack) s = .next t ∧ t.me.exposed = exposed ∧ t.me.slack = slack.toNat ∧ t.me.flights = [] ∧
      (TkFits (s.seen c 0).cur → t = { s.seen c 0 with cores := t.cores } ∧ ∀ k, k ≠ s.k → t.core k = (s.seen c 0).core k) ∧
      ((s.seen c 0).me.flights = [] →
        Through ((s.seen c 0).updMe fun m => { m with exposed := exposed, slack := slack.toNat }) t c [] false keep keep)) ∧
  (∀ c n mask s, mask ≠ 0 → s.clear c 0 [] [] = true →
    ∃ t, exec (.leave c n mask) s = .next t ∧
      Through (if n = 0 then (s.seen c 0).updCur fun k => (kindsOf mask).foldl (fun k h => k.setKept h 0) k
        else (kindsOf mask).foldl (fun u h => u.requestLeave u.k n.toNat h) (s.seen c 0)) t c [] false keep keep) ∧
  (∀ c xd xa imm s (off : Nat), s.clear c 0 [] [xd, xa] = true → off = ((s.seen c 0).reg xa).toNat + imm.toNat →
    off % 8 = 0 →
    ∃ t, exec (.capr c xd xa imm) s = .next t ∧ Through (s.seen c 0) t c [] false keep keepButRegs ∧
      WritesReg (s.seen c 0) t 8 xd
        (if off < 0x1000 then w64 ((capList ((s.seen c 0).capsOf s.k) s.boot.tier).getD (off / 8) 0) else 0)) ∧
  (∀ c xd xa imm s (off : Nat), s.clear c 0 [] [xd, xa] = true → s.isSpec s.k = false → s.me.exposed = false →
    off = (s.reg xa).toNat + imm.toNat → off % 8 ≠ 0 →
    ∃ t r, exec (.capr c xd xa imm) s = .next t ∧ t.me.run = .trapped r ∧ r.cause = .align ∧ r.addr = w64 off ∧
      r.resume = s.me.pc)

/-! ### Special registers (R95 to R98, R156, R367, R368, R429) -/

namespace Sys2Proof.Machine

/-- A word with control half `c` comes to its checks: its context issues words (R79, R407), it is no forced STOP point (R72) and no
point at which HALT or a pre-emption stops it (R402, R412), and no cause is attached at its issue cycle (R401). -/
def WordComes (s : State) (c : Ctl) : Prop :=
  s.me.run = .running ∧ (s.me.nonStop ≠ 48 ∨ c.stop = true) ∧ s.stopsHere c.stop = false ∧
    ∀ u, (s.seen c u).me.attached = []

end Sys2Proof.Machine

/-- MFS reads a special register with latency 2; the supervisor's registers need level 1 or more, and trap PRIV at level 0.
What MFS finds in the registers of R96, R97, R366 and R429. The user registers: of WSREF, the cycles left of the window now open,
or those until the bank set's next window begins (R14); FRONTT and FRONTS name the earliest task of the domain. The supervisor's:
of SCHST, the tasks RESERVING, the cores that no task holds or has reserved, the tasks that R291 counts, and the tasks on the
device. -/
def Obligations.SpecialReads : Prop :=
  (∀ c xd (sel : BitVec 16) x s, s.clear c 0 [] [xd] = true → (0x8000 ≤ sel.toNat → (s.seen c 0).me.level ≠ 0) →
    (s.seen c 0).special sel.toNat = some x →
    ∃ t, exec (.mfs c xd sel) s = .next t ∧ Through (s.seen c 0) t c [] false keep keepButRegs ∧
      WritesReg (s.seen c 0) t 2 xd x) ∧
  (∀ c xd (sel : BitVec 16) s, WordComes s c → s.me.exposed = false → s.isSpec s.k = false → 0x8000 ≤ sel.toNat →
    s.me.level = 0 → ∃ t r, exec (.mfs c xd sel) s = .next t ∧ t.me.run = .trapped r ∧ r.cause = .priv ∧
      r.pos = s.me.pc ∧ r.resume = s.me.pc) ∧
  (∀ s : State,
    s.special 0x0000 = some (w64 (s.now - s.cur.cycle)) ∧ s.special 0x0001 = some (s.me.spaceovr.setWidth 64) ∧
    s.special 0x0002 = some (s.me.sflags.setWidth 64) ∧
    s.special 0x0003 = some (w64 (b2n s.cur.extrap * 2 ^ 17 + b2n s.cur.det * 2 ^ 16 + s.me.slack * 2 ^ 8 +
      b2n s.me.exposed * 2 ^ 4 + (match s.who.ctx with | .L => 0 | .X => 1 | .S => 2))) ∧
    (∃ x, s.special 0x0004 = some x ∧ ∀ n, n < 64 → x.getLsbD n = (decide (1 ≤ n ∧ n ≤ 31) && (s.cur.tk n).flag)) ∧
    s.special 0x0005 = some (w64 s.cur.fq.length) ∧
    (∀ f, f ∈ s.domain (s.partOf s.k) → (∀ u, u ∈ s.domain (s.partOf s.k) → u.ts = f.ts ∧ u.seq = f.seq ∨ f.before u = true) →
      s.special 0x0008 = some (w64 f.ts) ∧ s.special 0x0009 = some (w64 f.seq)) ∧
    (∀ tk, s.taskOf s.k = some tk → s.special 0x000A = some (w64 tk.ts) ∧ s.special 0x000B = some (w64 tk.seq) ∧
      s.special 0x000C = some (w64 (tk.part * 2 ^ 8 + b2n tk.spec)) ∧ s.special 0x8001 = some (w64 tk.part)) ∧
    s.special 0x0010 = some ((s.part (s.partOf s.k)).reg 8) ∧
    (∀ b start, b < 384 → Sparse.find s.refresh b = some start → start ≤ s.now → s.now < start + 1000 →
      s.special (0x0400 + b) = some (w64 ((start + 1000 - s.now) * 2 ^ 32))) ∧
    (∀ b, b < 384 → Sparse.find s.refresh b = none → s.special (0x0400 + b) = some (w64 (s.nextWindow b - s.now))) ∧
    s.special 0x0006 = none) ∧
  (∀ s : State,
    s.special 0x8000 = some (w64 s.me.level) ∧
    s.special 0x8002 = some (s.part (s.partOf s.k)).specdepth ∧ s.special 0x8003 = some (s.part (s.partOf s.k)).vbquota ∧
    s.special 0x8004 = some (s.part (s.partOf s.k)).reddl ∧ s.special 0x8005 = some (s.part (s.partOf s.k)).ptbase ∧
    (∀ w, w < 4 → s.special (0x8008 + w) = some (w64 (field s.cur.qmask (64 * w) 64))) ∧
    s.special 0x800C = some s.cur.lsup ∧ s.special 0x8010 = some (s.part (s.partOf s.k)).tqhead ∧
    s.special 0x8011 = some (w64 (
      ((s.domain (s.partOf s.k)).filter fun u => u.st == .reserving).length * 2 ^ 48 +
      ((List.range 384).filter fun k => bitOf ((s.part (s.partOf s.k)).reg (k / 64)) (k % 64) &&
        (s.core k).status == .free && !(s.domain (s.partOf s.k)).any fun u => u.got.contains k).length * 2 ^ 32 +
      ((s.domain (s.partOf s.k)).filter fun u => u.st != .waiting).length * 2 ^ 16 + s.tasks.length)) ∧
    s.special 0x8012 = some (w64 (b2n (s.part (s.partOf s.k)).pre * 2 + b2n (s.part (s.partOf s.k)).hold)) ∧
    (∀ n, n < 64 → s.special (0x8040 + n) = some ((Sparse.get 0 s.slotTab n).setWidth 64)) ∧
    (∀ n, n < 32 → s.special (0x8080 + n) = some (match Sparse.find s.isl n with
      | some w => w
      | none => clampIsland (Config.islRecord n) (Config.islRecord n))) ∧
    (∀ n, n < 32 → n ≠ 12 → s.special (0x8100 + n) = some ((s.part (s.partOf s.k)).reg n)) ∧
    s.special 0x810C = some ((s.part (s.partOf s.k)).flogp.setWidth 64) ∧
    (∀ l, l < 18 → s.special (0x8200 + l) = some (w64 ((Sparse.get Link.reset s.links l).peer * 2 ^ 48 +
      (Sparse.get Link.reset s.links l).retry * 2 ^ 32 + (Sparse.get Link.reset s.links l).state))) ∧
    s.special 0x8020 = none)

/-- MTS (R98, R367, R368): a legal value is written; SPACEOVR takes 32 bits, SFLAGS three, of which L and S own two, and a flag
that the device sets in the MTS's own issue cycle is set after it; the registers of the partition take their ranges. -/
def Obligations.SpecialWrites : Prop :=
  (∀ c xa s, s.clear c 0 [] [xa] = true → ((s.seen c 0).reg xa).toNat < 2 ^ 32 →
    ∃ t, exec (.mts c 0x0001 xa) s = .next t ∧
      Through ((s.seen c 0).updMe fun m => { m with spaceovr := ((s.seen c 0).reg xa).setWidth 32 }) t c [] false keep keep) ∧
  (∀ c xa s, s.clear c 0 [] [xa] = true → ((s.seen c 0).reg xa).toNat < 8 →
    ∃ t, exec (.mts c 0x0002 xa) s = .next t ∧
      Through ((s.seen c 0).updMe fun m =>
        { m with sflags := (((s.seen c 0).reg xa).setWidth 3 &&& (if s.who.ctx = .X then 7 else 6)) |||
                   (if (s.seen c 0).me.exposed then (s.seen c 0).me.newFlags else 0) }) t c [] false keep keep) ∧
  (∀ c (sel : BitVec 16) xa s (f : Part → Part), s.clear c 0 [] [xa] = true → (s.seen c 0).me.level ≠ 0 →
    ((sel = 0x8002 ∧ 1 ≤ ((s.seen c 0).reg xa).toNat ∧ ((s.seen c 0).reg xa).toNat ≤ 2048 ∧
        f = fun q => { q with specdepth := (s.seen c 0).reg xa }) ∨
      (sel = 0x8003 ∧ ((s.seen c 0).reg xa).toNat ≤ 2 ^ 20 ∧ f = fun q => { q with vbquota := (s.seen c 0).reg xa }) ∨
      (sel = 0x8004 ∧ 1 ≤ ((s.seen c 0).reg xa).toNat ∧ ((s.seen c 0).reg xa).toNat < 65536 ∧
        f = fun q => { q with reddl := (s.seen c 0).reg xa }) ∨
      (sel = 0x8005 ∧ ((s.seen c 0).reg xa).toNat < 2 ^ 52 ∧ ((s.seen c 0).reg xa).toNat % 64 = 0 ∧
        f = fun q => { q with ptbase := (s.seen c 0).reg xa }) ∨
      (sel = 0x8012 ∧ ((s.seen c 0).reg xa).toNat < 2 ∧ f = fun q => { q with hold := bitOf ((s.seen c 0).reg xa) 0 })) →
    ∃ t, exec (.mts c sel xa) s = .next t ∧
      Through ((s.seen c 0).updPart ((s.seen c 0).partOf s.k) f) t c [] false keep keep)

/-! ### The ends of a context's words (R79, R80, R147, R157 to R159, R401, R404) -/

/-- EXIT (R79, R80, R157): the context issues no further word, its loop stack is empty and its writes in flight have
landed; when every context of an active core has ended, the core drains. (A core that a HALT waits for may log DEBUG
besides, and an increment that lands may log TKOVF, R68, so those are left out here.)
BRK and SYSC (R158, R159, R401): of a task that is not speculative, the context stops with the cause, the word's
position, its number as INFO, and the next word as resume point; a BRK of a speculative task parks the task with the cause
(R301), and a SYSC waits for the frontier. -/
def Obligations.ContextEnds : Prop :=
  (∀ c s, s.clear c 0 [] [] = true → (s.seen c 0).me.closing = false → (s.seen c 0).cur.haltReq = false →
    TkFits (s.seen c 0).cur →
    ∃ t, exec (.exit c) s = .next t ∧ t = { s.seen c 0 with cores := t.cores } ∧
      (∀ k, k ≠ s.k → t.core k = (s.seen c 0).core k) ∧
      t.me.run = .exited ∧ t.me.ended = true ∧ t.me.loops = [] ∧ t.me.flights = [] ∧
      ((∀ y, y ≠ s.who.ctx → ((s.seen c 0).cur.ctx y).ended = true) → (s.seen c 0).cur.status = .active →
        t.cur.status = .draining) ∧
      ((∃ y, y ≠ s.who.ctx ∧ ((s.seen c 0).cur.ctx y).ended = false) → t.cur.status = (s.seen c 0).cur.status)) ∧
  (∀ c code s, s.clear c 0 [] [] = true → (s.seen c 0).isSpec s.k = false → TkFits (s.seen c 0).cur →
    ∃ t r, exec (.brk c code) s = .next t ∧ t.me.run = .trapped r ∧ r.cause = .brk ∧ r.info = code.setWidth 64 ∧
      r.pos = (s.seen c 0).me.pc ∧ r.resume = (s.seen c 0).me.advance.pc ∧ r.ctx = s.who.ctx.code ∧ r.core = s.k) ∧
  (∀ c code s tk, s.clear c 0 [] [] = true → (s.seen c 0).taskOf s.k = some tk → tk.spec = true → TkFits (s.seen c 0).cur →
    ∃ t u r, exec (.brk c code) s = .next t ∧ t.task? tk.seq = some u ∧ u.st = .parked ∧ u.parked = some r ∧ r.cause = .brk ∧
      r.info = code.setWidth 64) ∧
  (∀ c service s, s.clear c 0 [] [] = true → s.me.exposed = false → s.me.pair = none → s.isSpec s.k = true →
    exec (.sysc c service) s = .next s.block) ∧
  (∀ c service s, s.clear c 0 [] [] = true → (s.seen c 0).isSpec s.k = false → TkFits (s.seen c 0).cur →
    ∃ t r, exec (.sysc c service) s = .next t ∧ t.me.run = .trapped r ∧ r.cause = .sysc ∧ r.info = service.setWidth 64 ∧
      r.pos = (s.seen c 0).me.pc ∧ r.resume = (s.seen c 0).me.advance.pc ∧ r.ctx = s.who.ctx.code ∧ r.core = s.k)

/-! ### Accesses of L and S (R221 to R226, R238 to R240, R252, R253) -/

namespace Sys2Proof.Machine

/-- Width in bytes of a scalar load or store. -/
def accessBytes : Instr → Nat
  | .ldb .. | .stb .. => 1
  | .ldh .. | .sth .. => 2
  | .ldw .. | .stw .. => 4
  | _ => 8

/-- The access that a word of L or S puts into its context's queue, with what it needs of its own: its registers, whether it
writes, its bytes, its alignment, the address, the register that awaits a value. -/
structure Queued where
  uses  : List Reg
  op    : AccOp
  ea    : Word
  awaits : Option Reg := none

/-- Scalar loads and stores by the state they find (R225). -/
def scalarAccess (v : State) : Instr → Option Queued
  | .ldb _ xd xb imm => some ⟨[xd, xb], .load xd 1, v.reg xb + imm.signExtend 64, some xd⟩
  | .ldh _ xd xb imm => some ⟨[xd, xb], .load xd 2, v.reg xb + imm.signExtend 64, some xd⟩
  | .ldw _ xd xb imm => some ⟨[xd, xb], .load xd 4, v.reg xb + imm.signExtend 64, some xd⟩
  | .ldd _ xd xb imm => some ⟨[xd, xb], .load xd 8, v.reg xb + imm.signExtend 64, some xd⟩
  | .stb _ xs xb imm => some ⟨[xs, xb], .store 1 (v.reg xs), v.reg xb + imm.signExtend 64, none⟩
  | .sth _ xs xb imm => some ⟨[xs, xb], .store 2 (v.reg xs), v.reg xb + imm.signExtend 64, none⟩
  | .stw _ xs xb imm => some ⟨[xs, xb], .store 4 (v.reg xs), v.reg xb + imm.signExtend 64, none⟩
  | .std _ xs xb imm => some ⟨[xs, xb], .store 8 (v.reg xs), v.reg xb + imm.signExtend 64, none⟩
  | .amo _ op dbl xd xa xb imm => some ⟨[xd, xa, xb], .amo op dbl xd (v.reg xb) (v.reg xd), v.reg xa + imm.signExtend 64, some xd⟩
  | _ => none

/-- The word's access has entered its context's queue (R346), and its destination awaits its value (R222). -/
def HasQueued (v t : State) (op : AccOp) (ea : Word) (awaits : Option Reg) : Prop :=
  t.me.accq = v.me.accq ++ [⟨v.cur.nextId, v.me.pc, v.wordAtPc, op, ea⟩] ∧
    t.me.pend = v.me.pend ++ (match awaits with | some x => if x = 0 then [] else [x] | none => [])

end Sys2Proof.Machine

/-- A scalar load, store or AMO that its checks let through (aligned, in its class, reached by the translation as far as it
is known, and, where it reads, with no byte lost that ECC would report: R417) enters the access queue of its context; a store
also needs room for its version lines, and an AMO to a virtual address waits for the frontier. No register and no memory has
changed yet. -/
def Obligations.ScalarAccessesEnterTheQueue : Prop :=
  ∀ (i : Instr) (s : State) (a : Queued), scalarAccess (s.seen (ctlOf i) 0) i = some a →
    s.clear (ctlOf i) 0 [] a.uses = true → s.who.ctx ≠ .X → (s.seen (ctlOf i) 0).me.accHalt = none →
    (s.seen (ctlOf i) 0).accTrap a.ea a.op.size a.op.size a.op.isStore = none →
    (match a.op with
      | .store n _ => (s.seen (ctlOf i) 0).mayStore a.ea n = true
      | .amo op _ _ _ _ => (s.seen (ctlOf i) 0).amoTrap op a.ea = none ∧
          ((s.seen (ctlOf i) 0).isSpec s.k = false ∨ isVirt a.ea = false) ∧
          (s.seen (ctlOf i) 0).lostTrap a.ea a.op.size = none
      | _ => (s.seen (ctlOf i) 0).lostTrap a.ea a.op.size = none) →
    ∃ t, exec i s = .next t ∧ Through (s.seen (ctlOf i) 0) t (ctlOf i) [] false keep keepButAccesses ∧
      HasQueued (s.seen (ctlOf i) 0) t a.op a.ea a.awaits

namespace Sys2Proof.Machine

/-- No task but a frontier holds a read set, so that no write aborts one (R295, R296). -/
def NoReaders (v : State) : Prop := ∀ u, u ∈ v.allTasks → u.started = true → v.isFront u = true

/-- The place of the next record of partition `p`'s fault log, of 64 bytes; none while the partition has no log (R406). -/
def recordPlace (s : State) (p : Nat) : Option Nat :=
  let base := field ((s.part p).reg 11) 16 30 * 2 ^ 16
  if base = 0 then none else some (base + 64 * ((s.part p).flogp.toNat % (2 ^ field ((s.part p).reg 11) 0 4 * 1024)))

/-- Nothing of the memories has changed but the place of a record of partition `p`'s fault log in HBM, and nothing of the partitions but
the count of that log (R406). -/
structure OnlyRecord (s t : State) (p : Nat) : Prop where
  spaces : t.host = s.host ∧ t.tier = s.tier ∧ t.ws = s.ws ∧ t.seqLog = s.seqLog
  bytes  : ∀ a, (∀ b, recordPlace s p = some b → a < b ∨ b + 64 ≤ a) → t.hbm.byte a = s.hbm.byte a
  parts  : ∀ q, t.part q = if q = p then { s.part p with flogp := (t.part p).flogp } else s.part q

/-- A word has taken a cause and had no effect of its own (R6): the context stands where it stood, with its registers, queues and
engine queues, and so do the core, the other cores, the tasks and the memories, but for the record of the cause. (Writes in flight
that land as the context stops are earlier words', R401; and where tasks hold read sets, the record's write may abort one, R296.) -/
def NoEffect (s t : State) : Prop :=
  NoReaders s → s.me.flights = [] →
    (∀ k, k ≠ s.k → t.core k = s.core k) ∧ (∀ y, y ≠ s.who.ctx → t.cur.ctx y = s.cur.ctx y) ∧
    t.cur = { s.cur with cL := t.cur.cL, cX := t.cur.cX, cS := t.cur.cS } ∧
    t.me = { s.me with run := t.me.run, blocked := false, pair := none } ∧ OnlyRecord s t (s.partOf s.k) ∧
    t = { s with cores := t.cores, hbm := t.hbm, parts := t.parts, lpInts := t.lpInts, bad := t.bad, tampered := t.tampered }

end Sys2Proof.Machine

/-- An address that is no multiple of the width traps ALIGN, and one in a class that has no memory traps as R221 says, and so
does a store into a stream window (R58); the access has no effect: registers, memories and queues are as before (R6, R225). -/
def Obligations.BadAddressesTrap : Prop :=
  ∀ (i : Instr) (s : State) (a : Queued), scalarAccess s i = some a → s.clear (ctlOf i) 0 [] a.uses = true →
    s.who.ctx ≠ .X → s.me.exposed = false → s.me.accHalt = none → s.isSpec s.k = false →
    (a.ea.toNat % a.op.size ≠ 0 → ∃ t r, exec i s = .next t ∧ t.me.run = .trapped r ∧ r.cause = .align ∧ r.addr = a.ea ∧
      r.resume = s.me.pc ∧ NoEffect s t) ∧
    (a.ea.toNat % a.op.size = 0 → classOfAddr a.ea = .third → ∃ t r, exec i s = .next t ∧ t.me.run = .trapped r ∧
      r.cause = .xlate ∧ r.addr = a.ea ∧ r.resume = s.me.pc ∧ NoEffect s t) ∧
    (a.ea.toNat % a.op.size = 0 → classOfAddr a.ea = .beyond → ∃ t r, exec i s = .next t ∧ t.me.run = .trapped r ∧
      r.cause = .sprng ∧ r.addr = a.ea ∧ r.resume = s.me.pc ∧ NoEffect s t) ∧
    (∀ off, a.ea.toNat % a.op.size = 0 → classOfAddr a.ea = .scratch off → a.op.isStore = true →
      s.cur.meetsWindow off a.op.size = true →
      ∃ t r, exec i s = .next t ∧ t.me.run = .trapped r ∧ r.cause = .prot ∧ r.addr = a.ea ∧
        r.resume = s.me.pc ∧ NoEffect s t)

/-- VLD, MARK, FENCE and RLQ enter the access queue (R226, R238, R239, R253). VLD also takes the next place of its data
queue, which stays empty until the bytes arrive; MARK counts the MARKs of its id. -/
def Obligations.OtherAccessesEnterTheQueue : Prop :=
  (∀ c vq xb imm s, s.clear c 0 [] [xb] = true → s.who.ctx = .L → (s.seen c 0).me.accHalt = none →
    ((s.seen c 0).cur.queue vq.toNat).kind = 1 →
    ((s.seen c 0).cur.queue vq.toNat).els.length < ((s.seen c 0).cur.queue vq.toNat).depth →
    (s.seen c 0).accTrap ((s.seen c 0).reg xb + imm.signExtend 64) 512 64 false = none →
    (s.seen c 0).lostTrap ((s.seen c 0).reg xb + imm.signExtend 64) 512 = none →
    ∃ t, exec (.vld c vq xb imm) s = .next t ∧
      Through (s.seen c 0) t c [] false (fun a b => { a with qs := b.qs }) keepButAccesses ∧
      HasQueued (s.seen c 0) t (.vld vq.toNat (s.seen c 0).cur.nextId) ((s.seen c 0).reg xb + imm.signExtend 64) none ∧
      (∀ q, q ≠ vq.toNat → t.cur.queue q = (s.seen c 0).cur.queue q) ∧
      t.cur.queue vq.toNat = { (s.seen c 0).cur.queue vq.toNat with
        els := ((s.seen c 0).cur.queue vq.toNat).els ++ [⟨0, (s.seen c 0).cur.nextId, false, false, none⟩] }) ∧
  (∀ c id s, s.clear c 0 [] [] = true → s.who.ctx ≠ .X → (s.seen c 0).me.accHalt = none →
    ∃ t, exec (.mark c id) s = .next t ∧
      Through (s.seen c 0) t c [] false keep (fun a b => { a with accq := b.accq, marks := b.marks }) ∧
      HasQueued (s.seen c 0) t (.mark id.toNat (Sparse.get 0 (s.seen c 0).me.marks id.toNat + 1)) 0 none ∧
      Sparse.get 0 t.me.marks id.toNat = Sparse.get 0 (s.seen c 0).me.marks id.toNat + 1) ∧
  (∀ c e scope s, s.clear c 0 [] [] = true → s.who.ctx ≠ .X → (s.seen c 0).me.accHalt = none →
    ∃ t, exec (.fence c e scope) s = .next t ∧ Through (s.seen c 0) t c [] false keep keepButAccesses ∧
      HasQueued (s.seen c 0) t (.fence scope.toNat e) 0 none) ∧
  (∀ c xa s b, s.clear c 0 [] [xa] = true → s.who.ctx ≠ .X → (s.seen c 0).me.accHalt = none →
    (s.seen c 0).checkBerth ((s.seen c 0).partOf s.k) ((s.seen c 0).reg xa) = .ok b →
    ∃ t, exec (.rlq c xa) s = .next t ∧ Through (s.seen c 0) t c [] false keep keepButAccesses ∧
      HasQueued (s.seen c 0) t (.rlq ((s.seen c 0).reg xa)) 0 none)

namespace Sys2Proof.Machine

/-- A core lets its rings and message queues through. -/
def keepButRings (a b : CoreSt) : CoreSt := { a with rings := b.rings, mqs := b.mqs }

/-- The rings of the core are as before but for ring `n`, which is `r`; the message queues are as before. -/
def OnlyRing (v t : State) (n : Nat) (r : Ring) : Prop :=
  t.cur.ring n = some r ∧ (∀ m, m ≠ n → t.cur.ring m = v.cur.ring m) ∧ t.cur.mqs = v.cur.mqs

/-- The message queues of the core are as before but for queue `n`, which is `r`; the rings are as before. -/
def OnlyQueue (v t : State) (n : Nat) (r : Ring) : Prop :=
  t.cur.mq n = some r ∧ (∀ m, m ≠ n → t.cur.mq m = v.cur.mq m) ∧ t.cur.rings = v.cur.rings

end Sys2Proof.Machine

/-- The ring words (R242 to R244): configuration; RCLAIM and RTAKE move a slot on and give its address; RWAITF and RWAITE
count slots and change none; RFILL and RFREE enter the access queue and count themselves.
The message-queue words of the receiver (R245): the context that configures a queue receives from it; MRECV takes the
oldest FULL slot, MRECV.NB too or gives all ones; MQCRED gives credit back in its place of the access queue. The latency 1 of
their results, which no table gives, is the model's reading (assumption 24). -/
def Obligations.RingAndQueueWords : Prop :=
  (∀ c ring xa s, s.clear c 0 [] [xa] = true → s.who.ctx ≠ .X →
    (s.seen c 0).cur.ringTrap ((s.seen c 0).reg xa) 42 ((s.seen c 0).cur.ring ring.toNat) = none →
    ∃ t, exec (.rclaimCfg c ring xa) s = .next t ∧ Through (s.seen c 0) t c [] false keepButRings keep ∧
      OnlyRing (s.seen c 0) t ring.toNat (ringOf ((s.seen c 0).reg xa))) ∧
  (∀ c xd ring s r, s.clear c 0 [] [xd] = true → s.who.ctx = r.prod → r.prod ≠ .X →
    (s.seen c 0).cur.ring ring.toNat = some r → r.slot r.claim = .empty →
    ∃ t, exec (.rclaim c xd ring) s = .next t ∧ Through (s.seen c 0) t c [] false keepButRings keepButRegs ∧
      WritesReg (s.seen c 0) t 1 xd (w64 (spBase + r.base + r.claim % r.slots * r.size)) ∧
      OnlyRing (s.seen c 0) t ring.toNat { r.setSlot r.claim .claimed with claim := r.claim + 1 }) ∧
  (∀ c ring s r, s.clear c 0 [] [] = true → s.who.ctx = r.prod → r.prod ≠ .X → (s.seen c 0).me.accHalt = none →
    (s.seen c 0).cur.ring ring.toNat = some r → r.fill < r.claim →
    ∃ t, exec (.rfill c ring) s = .next t ∧ Through (s.seen c 0) t c [] false keepButRings keepButAccesses ∧
      OnlyRing (s.seen c 0) t ring.toNat { r with fill := r.fill + 1 } ∧
      HasQueued (s.seen c 0) t (.rfill ring.toNat) 0 none) ∧
  (∀ c xd ring n s r, s.clear c 0 [] [xd] = true → s.who.ctx = r.cons → r.cons ≠ .X →
    (s.seen c 0).cur.ring ring.toNat = some r → n.toNat ≤ r.slots → n.toNat ≤ r.count .full →
    ∃ t, exec (.rwaitf c xd ring n) s = .next t ∧ Through (s.seen c 0) t c [] false keep keepButRegs ∧
      WritesReg (s.seen c 0) t 1 xd (w64 (r.count .full))) ∧
  (∀ c xd ring n s r, s.clear c 0 [] [xd] = true → s.who.ctx = r.prod → r.prod ≠ .X →
    (s.seen c 0).cur.ring ring.toNat = some r → n.toNat ≤ r.slots → n.toNat ≤ r.empties →
    ∃ t, exec (.rwaite c xd ring n) s = .next t ∧ Through (s.seen c 0) t c [] false keep keepButRegs ∧
      WritesReg (s.seen c 0) t 1 xd (w64 r.empties)) ∧
  (∀ c xd ring s r, s.clear c 0 [] [xd] = true → s.who.ctx = r.cons → r.cons ≠ .X →
    (s.seen c 0).cur.ring ring.toNat = some r → r.slot r.take = .full →
    ∃ t, exec (.rtake c xd ring) s = .next t ∧ Through (s.seen c 0) t c [] false keepButRings keepButRegs ∧
      WritesReg (s.seen c 0) t 1 xd (w64 (spBase + r.base + r.take % r.slots * r.size)) ∧
      OnlyRing (s.seen c 0) t ring.toNat { r.setSlot r.take .taken with take := r.take + 1 }) ∧
  (∀ c ring s r, s.clear c 0 [] [] = true → s.who.ctx = r.cons → r.cons ≠ .X → (s.seen c 0).me.accHalt = none →
    (s.seen c 0).cur.ring ring.toNat = some r → r.free < r.take →
    ∃ t, exec (.rfree c ring) s = .next t ∧ Through (s.seen c 0) t c [] false keepButRings keepButAccesses ∧
      OnlyRing (s.seen c 0) t ring.toNat { r with free := r.free + 1 } ∧
      HasQueued (s.seen c 0) t (.rfree ring.toNat) 0 none) ∧
  (∀ c mq xa s, s.clear c 0 [] [xa] = true → s.who.ctx ≠ .X →
    (s.seen c 0).cur.ringTrap ((s.seen c 0).reg xa) 40 ((s.seen c 0).cur.mq mq.toNat) = none →
    ∃ t, exec (.mrecvCfg c mq xa) s = .next t ∧ Through (s.seen c 0) t c [] false keepButRings keep ∧
      OnlyQueue (s.seen c 0) t mq.toNat { ringOf ((s.seen c 0).reg xa) with prod := s.who.ctx, cons := s.who.ctx }) ∧
  (∀ c xd mq s r, s.clear c 0 [] [xd] = true → s.who.ctx = r.cons → r.cons ≠ .X →
    (s.seen c 0).cur.mq mq.toNat = some r → r.slot r.take = .full →
    (∃ t, exec (.mrecv c xd mq) s = .next t ∧ Through (s.seen c 0) t c [] false keepButRings keepButRegs ∧
      WritesReg (s.seen c 0) t 1 xd (w64 (spBase + r.base + r.take % r.slots * r.size)) ∧
      OnlyQueue (s.seen c 0) t mq.toNat { r.setSlot r.take .taken with take := r.take + 1 }) ∧
    (∃ t, exec (.mrecvNb c xd mq) s = .next t ∧ Through (s.seen c 0) t c [] false keepButRings keepButRegs ∧
      WritesReg (s.seen c 0) t 1 xd (w64 (spBase + r.base + r.take % r.slots * r.size)) ∧
      OnlyQueue (s.seen c 0) t mq.toNat { r.setSlot r.take .taken with take := r.take + 1 })) ∧
  (∀ c xd mq s r, s.clear c 0 [] [xd] = true → s.who.ctx = r.cons → r.cons ≠ .X →
    (s.seen c 0).cur.mq mq.toNat = some r → r.slot r.take ≠ .full →
    ∃ t, exec (.mrecvNb c xd mq) s = .next t ∧ Through (s.seen c 0) t c [] false keep keepButRegs ∧
      WritesReg (s.seen c 0) t 1 xd (BitVec.allOnes 64)) ∧
  (∀ c mq n s r, s.clear c 0 [] [] = true → s.who.ctx = r.cons → r.cons ≠ .X → (s.seen c 0).me.accHalt = none →
    (s.seen c 0).cur.mq mq.toNat = some r → r.free + n.toNat ≤ r.take →
    ∃ t, exec (.mqcred c mq n) s = .next t ∧ Through (s.seen c 0) t c [] false keepButRings keepButAccesses ∧
      OnlyQueue (s.seen c 0) t mq.toNat { r with free := r.free + n.toNat } ∧
      HasQueued (s.seen c 0) t (.mqcred mq.toNat n.toNat) 0 none)

/-- BADDR and BSHARE (R252, R253): the address of an offset inside a named run, an exact sum, which traps PROT from the run's end
on; and one more share of every granule of the run; a speculative task notes the name, whose share its abort takes back. That
the sum is exact (assumption 22) and that BADDR writes xd at issue (assumption 24) are the model's readings. -/
def Obligations.BerthWords : Prop :=
  (∀ c xd xa xb imm s b, s.clear c 0 [] [xd, xa, xb] = true → s.who.ctx ≠ .X →
    (s.seen c 0).checkBerth ((s.seen c 0).partOf s.k) ((s.seen c 0).reg xa) = .ok b →
    ((s.seen c 0).part ((s.seen c 0).partOf s.k)).reg 8 ≠ 0 → ((s.seen c 0).reg xb).toNat + imm.toNat < b.count * 4096 →
    ∃ t, exec (.baddr c xd xa xb imm) s = .next t ∧
      Through ((s.seen c 0).updMe fun m => m.setReg xd (w64 ((((s.seen c 0).part ((s.seen c 0).partOf s.k)).reg 8).toNat +
        (b.stack * 2 ^ 24 + b.gran) * 4096 + (((s.seen c 0).reg xb).toNat + imm.toNat)))) t c [] false keep keep) ∧
  (∀ c xd xa xb imm s b, s.clear c 0 [] [xd, xa, xb] = true → s.who.ctx ≠ .X → s.isSpec s.k = false →
    s.me.exposed = false → s.checkBerth (s.partOf s.k) (s.reg xa) = .ok b → b.count * 4096 ≤ (s.reg xb).toNat + imm.toNat →
    ∃ t r, exec (.baddr c xd xa xb imm) s = .next t ∧ t.me.run = .trapped r ∧ r.cause = .prot ∧ r.resume = s.me.pc) ∧
  (∀ c xa s b, s.clear c 0 [] [xa] = true → s.who.ctx ≠ .X →
    (s.seen c 0).checkBerth ((s.seen c 0).partOf s.k) ((s.seen c 0).reg xa) = .ok b →
    (∀ i, i < b.count → ((s.seen c 0).gran b.stack ((s.seen c 0).granule b i)).share < 65535) →
    ∃ t, exec (.bshare c xa) s = .next t ∧
      (∀ i, i < b.count → t.gran b.stack ((s.seen c 0).granule b i) =
        { (s.seen c 0).gran b.stack ((s.seen c 0).granule b i) with
          share := ((s.seen c 0).gran b.stack ((s.seen c 0).granule b i)).share + 1 }) ∧
      (∀ key, (∀ i, i < b.count → key ≠ b.stack * 2 ^ 25 + (s.seen c 0).granule b i) →
        Sparse.get ⟨0, 0⟩ t.grans key = Sparse.get ⟨0, 0⟩ (s.seen c 0).grans key) ∧
      Through { s.seen c 0 with grans := t.grans, tasks := t.tasks } t c [] false keep keep ∧
      ((s.seen c 0).isSpec s.k = false → t.tasks = (s.seen c 0).tasks) ∧
      (∀ tk, (s.seen c 0).taskOf s.k = some tk → tk.spec = true →
        ∃ u, t.taskOf s.k = some u ∧ u.shares = tk.shares ++ [(s.seen c 0).reg xa]))

/-! ### Engine words (R227 to R237, R241, R246, R249 to R251, R305 to R309, R443) -/

namespace Sys2Proof.Machine

/-- What an engine word asks for by the state it finds: the operation, the record, the contexts that may issue it, what the
checks at issue find, whether a speculative task waits for the frontier with it, the registers that its answer fills, and the
numbers that it carries: for a collective, the cycle of its issue and its deadline (R368, R445), and whether another of the core's
with the same group and CNUM is outstanding (R443). -/
structure EngineWord where
  op     : EngOp
  args   : EArgs
  onlyL  : Bool := false
  trap   : Option Trap := none
  front  : Bool := false
  awaits : List Reg := []
  aux    : Nat := 0
  limit  : Nat := 0
  ferry  : Bool := false
  twice  : Bool := false

/-- The transfers of R229. -/
def transferWord (v : State) (op : EngOp) (e : EArgs) (ferry : Bool) : EngineWord :=
  { op := op, args := e, trap := v.transferTrap op e, front := v.writesHost op (v.rcdAt e), ferry := ferry }

/-- RED and MSEND (R241, R246). -/
def remoteWord (v : State) (op : EngOp) (e : EArgs) : EngineWord :=
  { op := op, args := e, trap := v.transferTrap op e, front := v.foreign (v.rcdAt e) }

/-- The nameless stores (R249, R251). -/
def stnWord (v : State) (status : Bool) (answer : List Reg) (e : EArgs) : EngineWord :=
  { op := .stn status, args := e, trap := v.transferTrap (.stn status) e, awaits := answer }

/-- TSPAWN (R305, R306). -/
def spawnWord (v : State) (e : EArgs) : EngineWord :=
  { op := .tspawn, args := e, onlyL := true, trap := v.spawnTrap (v.rcdAt e), aux := v.childTs (v.rcdAt e)
    awaits := [rcdXd (v.rcdAt e), rcdXs (v.rcdAt e)] }

/-- COLL's forms (R443). -/
def collWord (v : State) (form : Nat) (e : EArgs) : EngineWord :=
  { op := .coll form, args := e
    trap := (v.collTrap form (v.rcdAt e)).or (v.engOverlap (.coll form) (v.rcdAt e) (rcdOff e)), front := true, aux := v.now
    limit := (v.part (v.partOf v.k)).reddl.toNat * 2500
    twice := v.cur.transfers.any fun x => x.collective (collGroup (v.rcdAt e)) (collNum (v.rcdAt e)) }

/-- Engine words by the state they find. -/
def engineWord (v : State) : Instr → Option EngineWord
  | .spld _ e => some (transferWord v .spld e false)
  | .spst _ e => some (transferWord v .spst e false)
  | .gath _ e => some (transferWord v .gath e false)
  | .scat _ e => some (transferWord v .scat e false)
  | .ldt _ e => some (transferWord v .ldt e false)
  | .ferry _ e => some (transferWord v .ferry e true)
  | .ferryTier _ e => some (transferWord v .ferryTier e true)
  | .ferryQ _ e => some (transferWord v .ferryQ e true)
  | .red _ op e => some (remoteWord v (.red op) e)
  | .msend _ e => some (remoteWord v .msend e)
  | .stn _ e => some (stnWord v false [rcdXd (v.rcdAt e)] e)
  | .stnS _ e => some (stnWord v true [rcdXd (v.rcdAt e), rcdXs (v.rcdAt e)] e)
  | .tspawn _ e => some (spawnWord v e)
  | .tgraph _ e => some { op := .tgraph, args := e, onlyL := true, trap := v.graphTrap (v.rcdAt e), front := true }
  | .collAllred _ e => some (collWord v 0 e)
  | .collRed _ e => some (collWord v 1 e)
  | .collBcast _ e => some (collWord v 2 e)
  | .collBar _ e => some (collWord v 3 e)
  | _ => none

/-- The command that an engine word issues: its record as it stands, nothing of it done. -/
def issuedCmd (v : State) (a : EngineWord) : EngCmd :=
  { id := v.cur.nextId, ctx := v.who.ctx, op := a.op, rcd := BitVec.ofNat 512 (v.cur.sp.num (a.args.rcd.toNat * 64) 64)
    off := a.args.rcd.toNat * 64, tko := a.args.tko, pos := v.me.pc, word := v.wordAtPc, taken := false, stage := 0, row := 0
    buf := [], done := 0, aux := a.aux, idx := none, srcTr := [], dstTr := [], pages := [], after := [], limit := a.limit
    name := 0, halt := none, fail := none, fin := false }

end Sys2Proof.Machine

/-- An engine word whose record passes its checks enters its queue with a copy of the record: the engine queue of its
context, of 16 commands, or for the FERRY words the elastic buffer of the Ferry path, which owes the word's signals. Its own
token counter's increment waits for no access (R348). The
registers of its answer are pending from issue, and nothing else has changed. A second COLL of a group and CNUM, issued while one of
the core's is outstanding, enters too, and both fail (R443).
A speculative task's irrevocable engine word waits for the frontier, with no effect (R256). -/
def Obligations.EngineWordsEnterTheirQueue : Prop :=
  (∀ (i : Instr) (s : State) (a : EngineWord), engineWord (s.seen (ctlOf i) 0) i = some a →
    s.clear (ctlOf i) 0 [a.args.tki0, a.args.tki1, a.args.tki2] [] = true →
    (if a.onlyL then s.who.ctx = .L else s.who.ctx ≠ .X) → a.trap = none → a.twice = false →
    (a.front = true → (s.seen (ctlOf i) 0).isSpec s.k = false) → (s.seen (ctlOf i) 0).rcdLost a.args = none →
    (s.seen (ctlOf i) 0).me.regsReady a.awaits = true → (a.ferry = false → (s.seen (ctlOf i) 0).me.engq.length < 16) →
    ∃ t, exec i s = .next t ∧
      Through (s.seen (ctlOf i) 0) t (ctlOf i) [a.args.tki0, a.args.tki1, a.args.tki2] a.ferry
        (fun x y => { x with ferry := y.ferry }) (fun x y => { x with engq := y.engq, pend := y.pend }) true ∧
      t.cur.ferry = (s.seen (ctlOf i) 0).cur.ferry ++ (if a.ferry then [issuedCmd (s.seen (ctlOf i) 0) a] else []) ∧
      t.me.engq = (s.seen (ctlOf i) 0).me.engq ++ (if a.ferry then [] else [issuedCmd (s.seen (ctlOf i) 0) a]) ∧
      t.me.pend = (s.seen (ctlOf i) 0).me.pend ++ a.awaits.filter (· ≠ 0)) ∧
  (∀ (i : Instr) (s v : State) (a : EngineWord) (g n : Nat), v = s.seen (ctlOf i) 0 → engineWord v i = some a →
    s.clear (ctlOf i) 0 [a.args.tki0, a.args.tki1, a.args.tki2] [] = true → s.who.ctx ≠ .X → a.trap = none → a.twice = true →
    v.isSpec s.k = false → v.rcdLost a.args = none → v.me.engq.length < 16 →
    g = collGroup (v.rcdAt a.args) → n = collNum (v.rcdAt a.args) → (v.collRank (v.partOf s.k) g s.k).isSome = true →
    (v.cur.transfers.map (·.id)).Nodup → (∀ e, e ∈ v.cur.transfers → e.id < v.cur.nextId) →
    ∃ t, exec i s = .next t ∧ t.me.engq.map (·.id) = v.me.engq.map (·.id) ++ [v.cur.nextId] ∧
      ∀ e, e ∈ t.cur.transfers → e.collective g n = true → e.fin = false → e.fail.isSome = true) ∧
  (∀ (i : Instr) (s : State) (a : EngineWord), s.me.exposed = false → engineWord s i = some a →
    s.clear (ctlOf i) 0 [a.args.tki0, a.args.tki1, a.args.tki2] [] = true →
    (if a.onlyL then s.who.ctx = .L else s.who.ctx ≠ .X) → s.me.pair = none →
    (a.op = .tgraph ∨ (a.trap = none ∧ s.rcdLost a.args = none)) → a.front = true →
    s.isSpec s.k = true → exec i s = .next s.block)

/-! ### Yielding and binding (R254, R255, R312) -/

/-- TYIELD goes on once its condition holds: FRONT in a task that is not speculative, PAST when FRONTT has reached the bound,
which may not exceed TASKT.
LBIND notes the binding on the device and in the slot; LUNBIND takes both away once no ladder command is on the slot. -/
def Obligations.YieldAndBindWords : Prop :=
  (∀ c s, s.clear c 0 [] [] = true → s.who.ctx ≠ .X → (s.seen c 0).isSpec s.k = false →
    ∃ t, exec (.tyieldFront c) s = .next t ∧ Through (s.seen c 0) t c [] false keep keep) ∧
  (∀ c xa s, s.clear c 0 [] [xa] = true → s.who.ctx ≠ .X →
    ((s.seen c 0).reg xa).toNat ≤ (s.seen c 0).taskt → ((s.seen c 0).reg xa).toNat ≤ ((s.seen c 0).frontKey s.k).1 →
    ∃ t, exec (.tyieldPast c xa) s = .next t ∧ Through (s.seen c 0) t c [] false keep keep) ∧
  (∀ c xa s, s.clear c 0 [] [xa] = true → s.who.ctx ≠ .X → s.isSpec s.k = false → s.me.exposed = false →
    s.taskt < (s.reg xa).toNat → ∃ t r, exec (.tyieldPast c xa) s = .next t ∧ t.me.run = .trapped r ∧ r.cause = .illop) ∧
  (∀ c slot xa shr s l, s.clear c 0 [] [xa] = true → s.who.ctx = .L →
    (s.seen c 0).lbindTrap slot.toNat ((s.seen c 0).reg xa) shr = none →
    (s.seen c 0).descPlace ((s.seen c 0).reg xa).toNat = .ok l →
    ∃ t, exec (.lbind c slot xa shr) s = .next t ∧
      Through { s.seen c 0 with
        binds := (s.seen c 0).binds ++ [⟨l.addr, s.k, slot.toNat, shr, (s.seen c 0).cur.task⟩] } t c [] false
        (fun a b => { a with slots := b.slots }) keep ∧
      t.cur.slot slot.toNat = some ⟨((s.seen c 0).reg xa).toNat, shr⟩ ∧
      ∀ n, n ≠ slot.toNat → t.cur.slot n = (s.seen c 0).cur.slot n) ∧
  (∀ c slot s, s.clear c 0 [] [] = true → s.who.ctx = .L → ((s.seen c 0).cur.slot slot.toNat).isSome = true →
    (s.seen c 0).cur.ladderOn slot.toNat = false →
    ∃ t, exec (.lunbind c slot) s = .next t ∧
      Through { s.seen c 0 with
        binds := (s.seen c 0).binds.filter fun b => !(b.core == s.k && b.slot == slot.toNat) } t c [] false
        (fun a b => { a with slots := b.slots }) keep ∧
      t.cur.slots = Sparse.erase (s.seen c 0).cur.slots slot.toNat)

/-! ### Vector words (R61 to R64, R161 to R189) -/

namespace Sys2Proof.Machine

/-- What a vector word does by the state it finds: the latency of its first element, its operands in order, the queue it
pushes to and how many elements, what it computes from its operands' elements, and the scalar registers it reads. -/
structure VectorWord where
  lat    : Nat
  srcs   : List VSrc
  vd     : QName
  value  : List (List Elem) → List Elem × BitVec 3
  pushes : Nat := 1
  uses   : List Reg := []

/-- A word with two vector operands. -/
def vector3 (lat : Nat) (v : V3) (f : Elem → Elem → Elem × BitVec 3) : VectorWord :=
  { lat := lat, srcs := [{ q := v.va, peek := v.pa }, { q := v.vb, peek := v.pb }], vd := v.vd
    value := fun es => let r := f ((es.getD 0 []).getD 0 0) ((es.getD 1 []).getD 0 0); ([r.1], r.2) }

/-- A word with one vector operand. -/
def vector2 (lat : Nat) (v : V2) (f : Elem → Elem × BitVec 3) : VectorWord :=
  { lat := lat, srcs := [{ q := v.va, peek := v.pa }], vd := v.vd
    value := fun es => let r := f ((es.getD 0 []).getD 0 0); ([r.1], r.2) }

/-- A word with three vector operands. -/
def vector4 (lat : Nat) (v : V4) (f : Elem → Elem → Elem → Elem × BitVec 3) : VectorWord :=
  { lat := lat, srcs := [{ q := v.va }, { q := v.vb }, { q := v.vc }], vd := v.vd
    value := fun es =>
      let r := f ((es.getD 0 []).getD 0 0) ((es.getD 1 []).getD 0 0) ((es.getD 2 []).getD 0 0); ([r.1], r.2) }

/-- The vector words of R168 to R185 by the state they find, with the latencies of R165. -/
def vectorWord (s : State) : Instr → Option VectorWord
  | .vadd _ v ty md => some (vector3 2 v (zipLanes ty.bits (arithLane .add ty md)))
  | .vsub _ v ty md => some (vector3 2 v (zipLanes ty.bits (arithLane .sub ty md)))
  | .vmul _ v ty md => some (vector3 3 v (zipLanes ty.bits (arithLane .mul ty md)))
  | .vdiv _ v ty md => some (vector3 16 v (zipLanes ty.bits (arithLane .div ty md)))
  | .vmin _ v ty => some (vector3 2 v (zipLanes ty.bits (pickLane false ty)))
  | .vmax _ v ty => some (vector3 2 v (zipLanes ty.bits (pickLane true ty)))
  | .vfmaFp32 _ v => some (vector4 4 v (zip3Lanes 32 (fmaLane .fp32)))
  | .vfmaBf16 _ v => some (vector4 4 v (zip3Lanes 16 (fmaLane .bf16)))
  | .vfmaFp16 _ v => some (vector4 4 v (zip3Lanes 16 (fmaLane .fp16)))
  | .vabs _ v ty sat => some (vector2 2 v (mapLanes ty.bits (signLane false ty sat)))
  | .vneg _ v ty sat => some (vector2 2 v (mapLanes ty.bits (signLane true ty sat)))
  | .vand _ v => some (vector3 2 v fun a b => (a &&& b, 0))
  | .vor _ v => some (vector3 2 v fun a b => (a ||| b, 0))
  | .vxor _ v => some (vector3 2 v fun a b => (a ^^^ b, 0))
  | .vshl _ v ty => some (vector3 2 v (zipLanes ty.bits (shiftLane false false ty)))
  | .vshr _ v ty arith => some (vector3 2 v (zipLanes ty.bits (shiftLane true arith ty)))
  | .vaddi _ v ty imm => some (vector2 2 v (mapLanes ty.bits (immLane .add ty imm)))
  | .vmuli _ v ty imm => some (vector2 3 v (mapLanes ty.bits (immLane .mul ty imm)))
  | .vsplatImm _ vd ty imm => some { lat := 2, srcs := [], vd := vd
                                     value := fun _ =>
                                       let r := ofLaneList ty.bits (List.replicate (lanesOf ty) (splatLane ty imm)); ([r.1], r.2) }
  | .vsplatReg _ vd ty xa => some { lat := 2, srcs := [], vd := vd, uses := [xa]
                                    value := fun _ => ([ofLanes ty.bits (List.replicate (lanesOf ty) (s.reg xa).toNat)], 0) }
  | .vcvt _ v src dst rm sat => some { lat := 3, srcs := [{ q := v.va, peek := v.pa, n := max 1 (src.bits / dst.bits) }], vd := v.vd
                                       pushes := max 1 (dst.bits / src.bits)
                                       value := fun es => cvtAll src dst rm sat (max 1 (dst.bits / src.bits)) (es.getD 0 []) }
  | .vcmp _ v ty cond => some (vector3 2 v (zipLanes ty.bits (cmpLane ty cond)))
  | .vsel32 _ v => some (vector4 2 v (zip3Lanes 32 fun a b k => { v := if k ≠ 0 then a else b }))
  | .vsel16 _ v => some (vector4 2 v (zip3Lanes 16 fun a b k => { v := if k ≠ 0 then a else b }))
  | .vsel8 _ v => some (vector4 2 v (zip3Lanes 8 fun a b k => { v := if k ≠ 0 then a else b }))
  | .vreds _ v ty md => some (vector3 6 v (reds ty md))
  | .vredm _ v ty kind => some (vector2 6 v fun a => (redm ty kind a, 0))
  | .vscan _ v ty ex rm => some (vector3 6 v (scan ty ex rm))
  | .vsortcCount _ v win => some (vector3 12 v fun a b => (sortcCount win.toNat a b, 0))
  | .vsortcOrder _ v => some (vector2 12 v fun a => (sortcOrder a, 0))
  | .vsortcSlot _ v win => some (vector3 12 v fun a b => (sortcSlot win.toNat a b, 0))
  | .vspselMask _ v ty => some (vector2 3 v fun a => (spselMask ty a, 0))
  | .vspselMeta _ v ty => some (vector2 3 v fun a => (spselMeta ty a, 0))
  | .vspselPack _ v ty => some (vector2 3 v fun a => (spselPack ty a, 0))
  | .vrmsnFp32 _ v => some (vector4 10 v (rmsn .fp32))
  | .vrmsnBf16 _ v => some (vector4 10 v (rmsn .bf16))
  | .vact _ v ty .relu => some (vector2 8 ⟨v.vd, v.va, v.pa⟩ (mapLanes ty.bits (fnLane .relu (fpOf ty))))
  | .vact _ v ty .gelu => some (vector2 8 ⟨v.vd, v.va, v.pa⟩ (mapLanes ty.bits (fnLane .gelu (fpOf ty))))
  | .vact _ v ty .silu => some (vector2 8 ⟨v.vd, v.va, v.pa⟩ (mapLanes ty.bits (fnLane .silu (fpOf ty))))
  | .vact _ v ty .sigm => some (vector2 8 ⟨v.vd, v.va, v.pa⟩ (mapLanes ty.bits (fnLane .sigm (fpOf ty))))
  | .vact _ v ty .tanh => some (vector2 8 ⟨v.vd, v.va, v.pa⟩ (mapLanes ty.bits (fnLane .tanh (fpOf ty))))
  | .vact _ v ty .swiglu => some (vector3 8 v (zipLanes ty.bits (gluLane .silu (fpOf ty))))
  | .vact _ v ty .geglu => some (vector3 8 v (zipLanes ty.bits (gluLane .gelu (fpOf ty))))
  | .vexp _ v ty => some (vector2 8 v (mapLanes ty.bits (fnLane .exp (fpOf ty))))
  | .vexp2 _ v ty => some (vector2 8 v (mapLanes ty.bits (fnLane .exp2 (fpOf ty))))
  | .vrcp _ v ty => some (vector2 8 v (mapLanes ty.bits (fnLane .rcp (fpOf ty))))
  | .vrsq _ v ty => some (vector2 8 v (mapLanes ty.bits (fnLane .rsq (fpOf ty))))
  | .vperm _ v ty hi => some (vector3 3 v fun a b => (perm ty hi a b, 0))
  | .vmov _ v => some (vector2 2 v fun a => (a, 0))
  | _ => none

/-- A core lets its vector queues through. -/
def keepButQueues (a b : CoreSt) : CoreSt := { a with qs := b.qs }

/-- Queue `q` has lost what the operands pop and gained the pushed elements, of word number `v.cur.nextId`, in flight. -/
def QueuesBy (v t : State) (srcs : List VSrc) (vd : QName) (es : List Elem) : Prop :=
  ∀ q, t.cur.queue q = { v.cur.queue q with
    els := (v.cur.queue q).els.drop (Sparse.get 0 (popsOf srcs []) q) ++
      (if q = vd.toNat ∧ vd ≠ vnull then
        (List.range es.length).map fun j => ⟨es.getD j 0, v.cur.nextId * 64 + j, false, false, none⟩ else []) }

/-- The pushes in flight, the first due `lat` issue cycles after the word, each later one a cycle later (R165). -/
def pushFlights (v t : State) (lat : Nat) (vd : QName) (es : List Elem) : List Flight :=
  if vd = vnull then [] else
    (List.range es.length).map fun j => flightOf v t (lat + j) (.push vd.toNat (v.cur.nextId * 64 + j))

/-- X may read the operands at once: none saturated with its ACCOVF still to come, none missing, none lost. -/
def CanRead (v : State) (srcs : List VSrc) : Prop :=
  v.srcOvf srcs = none ∧ v.srcTrap srcs = none ∧ v.srcWait srcs = .go ∧ v.srcLost srcs = none

end Sys2Proof.Machine

/-- A vector word whose operands are there and whose destination has room reads and pops its operands in order, pushes its
elements with its latency, and owes its flags at retirement. -/
def Obligations.VectorWords : Prop :=
  ∀ (i : Instr) (s : State) (a : VectorWord), vectorWord (s.seen (ctlOf i) 1) i = some a →
    s.clear (ctlOf i) 1 [] a.uses = true → s.who.ctx = .X → CanRead (s.seen (ctlOf i) 1) a.srcs →
    (s.seen (ctlOf i) 1).dstTrap a.vd a.pushes a.srcs = none →
    ∃ t, exec i s = .next t ∧ Through (s.seen (ctlOf i) 1) t (ctlOf i) [] false keepButQueues keepButFlights ∧
      QueuesBy (s.seen (ctlOf i) 1) t a.srcs a.vd (a.value ((s.seen (ctlOf i) 1).srcElems a.srcs)).1 ∧
      t.me.flights = (s.seen (ctlOf i) 1).me.flights ++
        pushFlights (s.seen (ctlOf i) 1) t a.lat a.vd (a.value ((s.seen (ctlOf i) 1).srcElems a.srcs)).1 ++
        (if (a.value ((s.seen (ctlOf i) 1).srcElems a.srcs)).2 = 0 then [] else
          [flightOf (s.seen (ctlOf i) 1) t (a.lat + (a.pushes - 1))
            (.flags (a.value ((s.seen (ctlOf i) 1).srcElems a.srcs)).2)])

/-- QUNF: in interlocked mode, a vector word one of whose operands names a register queue that holds fewer elements than the word takes of it
up to and with that operand traps at the first such operand and names its queue; the word has no effect, and would issue again at its
resume point (R63). -/
def Obligations.EmptyQueuesTrap : Prop :=
  ∀ (i : Instr) (s : State) (a : VectorWord) (pre post : List (Nat × Nat)) (q n : Nat), vectorWord s i = some a →
    needs a.srcs [] = pre ++ (q, n) :: post → (∀ e, e ∈ pre → (s.cur.queue e.1).kind = 0 → e.2 ≤ (s.cur.queue e.1).els.length) →
    s.clear (ctlOf i) 1 [] a.uses = true → s.who.ctx = .X → s.me.exposed = false → s.srcOvf a.srcs = none →
    s.isSpec s.k = false → (s.cur.queue q).kind = 0 → (s.cur.queue q).els.length < n →
    ∃ t r, exec i s = .next t ∧ t.me.run = .trapped r ∧ r.cause = .qunf ∧ r.info = w64 q ∧ r.resume = s.me.pc ∧ NoEffect s t

namespace Sys2Proof.Machine

/-- The least and the greatest integer of an integer type (R107). -/
def intBounds (ty : ETy) : Int × Int :=
  if ty = .uint8 then (0, 255) else (-(2 ^ (ty.bits - 1) : Nat), (2 ^ (ty.bits - 1) : Nat) - 1)

/-- An exact integer as a lane of an integer type: wrapped, or clamped with a note of it (R166, R170). -/
def narrowed (ty : ETy) (clamp : Bool) (i : Int) : Lane :=
  let lo := (intBounds ty).1
  let hi := (intBounds ty).2
  { v := ((if clamp then max lo (min hi i) else i) % (2 ^ ty.bits : Nat)).toNat, sat := clamp && decide (i < lo ∨ hi < i) }

/-- A condition of VCMP holds between two integers (R175). -/
def intCompares (c : VCond) (a b : Int) : Bool :=
  match c with
  | .eq => decide (a = b)
  | .ne => decide (a ≠ b)
  | .lt => decide (a < b)
  | .le => decide (a ≤ b)
  | .gt => decide (b < a)
  | .ge => decide (b ≤ a)

end Sys2Proof.Machine

/-- What lane i of an element-by-element result is, and the flags that its lanes raise (R166, R167); the wrap and the clamp of VADD,
VSUB, VMUL, VABS and VNEG of the integer types (R170); the shifts, by any count (R171); the compares of the integer types, and those
of the floating-point types where a lane is a NaN (R175); and the integer sums of VREDS, in a lane 0 of 32 bits (R178). -/
def Obligations.VectorLanes : Prop :=
  (∀ (ty : ETy) (f : Nat → Nat → Lane) (a b : Elem), (∀ i, i < lanesOf ty →
      lane ty.bits (zipLanes ty.bits f a b).1 i = (f (lane ty.bits a i) (lane ty.bits b i)).v % 2 ^ ty.bits) ∧
    (zipLanes ty.bits f a b).2.getLsbD 0 = false ∧
    ((zipLanes ty.bits f a b).2.getLsbD 1 = true ↔ ∃ i, i < lanesOf ty ∧ (f (lane ty.bits a i) (lane ty.bits b i)).sat = true) ∧
    ((zipLanes ty.bits f a b).2.getLsbD 2 = true ↔ ∃ i, i < lanesOf ty ∧ (f (lane ty.bits a i) (lane ty.bits b i)).nan = true)) ∧
  (∀ (ty : ETy) (rm : RM) (clamp : Bool) (a b : Nat), fmtOf ty = none →
    arithLane .add ty ⟨clamp, rm⟩ a b = narrowed ty clamp (intLane ty a + intLane ty b) ∧
    arithLane .sub ty ⟨clamp, rm⟩ a b = narrowed ty clamp (intLane ty a - intLane ty b) ∧
    arithLane .mul ty ⟨clamp, rm⟩ a b = narrowed ty clamp (intLane ty a * intLane ty b) ∧
    signLane false ty clamp a = narrowed ty clamp (intLane ty a).natAbs ∧
    signLane true ty clamp a = narrowed ty clamp (-(intLane ty a))) ∧
  (∀ (ty : ETy) (a n : Nat), a < 2 ^ ty.bits →
    shiftLane false false ty a n = { v := a * 2 ^ n % 2 ^ ty.bits } ∧ shiftLane true false ty a n = { v := a / 2 ^ n } ∧
    shiftLane true true ty a n = { v := ((intLane ty a / (2 ^ n : Nat)) % (2 ^ ty.bits : Nat)).toNat }) ∧
  (∀ (ty : ETy) (c : VCond) (a b : Nat), fmtOf ty = none → cmpLane ty c a b = 
    { v := if intCompares c (intLane ty a) (intLane ty b) = true then 2 ^ ty.bits - 1 else 0 }) ∧
  (∀ (ty : ETy) (f : FFmt) (c : VCond) (a b : Nat), fmtOf ty = some f → ((f.dec a).isNaN = true ∨ (f.dec b).isNaN = true) →
    cmpLane ty c a b = { v := if c = .ne then 2 ^ ty.bits - 1 else 0 }) ∧
  (∀ (ty : ETy) (md : VMode) (a b : Elem) (x : Int), fmtOf ty = none →
    x = ((List.range (lanesOf ty)).map fun i => intLane ty (lane ty.bits a i)).sum + intLane .int32 (lane 32 b 0) →
    lane 32 (reds ty md a b).1 0 = (narrowed .int32 md.sat x).v ∧ (∀ i, 0 < i → i < 128 → lane 32 (reds ty md a b).1 i = 0) ∧
    ((reds ty md a b).2.getLsbD 1 = true ↔ (narrowed .int32 md.sat x).sat = true))

/-! ### Scratch moves and exact accumulators (R186 to R189) -/

/-- VLDS, VSTS, VQST and the EX words. A store to scratchpad and what the EX words do to the accumulators are in flight. -/
def Obligations.ScratchAndExactWords : Prop :=
  (∀ c vd xa imm s, s.clear c 1 [] [xa] = true → s.who.ctx = .X → (s.seen c 1).cur.genq = [] →
    scratchTrap (scratchOff (s.seen c 1) xa imm) = none → (s.seen c 1).dstTrap vd 1 [] = none →
    (s.seen c 1).cur.withScratch.spLost (scratchOff (s.seen c 1) xa imm) 512 = false →
    ∃ t, exec (.vlds c vd xa imm) s = .next t ∧ Through (s.seen c 1) t c [] false keepButQueues keepButFlights ∧
      QueuesBy (s.seen c 1) t [] vd
        [elemOfBytes ((s.seen c 1).cur.withScratch.sp.bytes (scratchOff (s.seen c 1) xa imm) 512)] ∧
      t.me.flights = (s.seen c 1).me.flights ++ pushFlights (s.seen c 1) t 5 vd [0]) ∧
  (∀ c va pa xa imm s, s.clear c 1 [] [xa] = true → s.who.ctx = .X → (s.seen c 1).cur.genq = [] →
    scratchTrap (scratchOff (s.seen c 1) xa imm) = none →
    (s.seen c 1).cur.meetsWindow (scratchOff (s.seen c 1) xa imm) 512 = false →
    CanRead (s.seen c 1) [{ q := va, peek := pa }] →
    ∃ t, exec (.vsts c va pa xa imm) s = .next t ∧ Through (s.seen c 1) t c [] false keepButQueues keepButFlights ∧
      QueuesBy (s.seen c 1) t [{ q := va, peek := pa }] vnull [] ∧
      t.me.flights = (s.seen c 1).me.flights ++ [flightOf (s.seen c 1) t 5 (.scratch (scratchOff (s.seen c 1) xa imm)
        ((((s.seen c 1).srcElems [{ q := va, peek := pa }]).getD 0 []).getD 0 0))]) ∧
  (∀ c xd vn s, s.clear c 1 [] [xd] = true → s.who.ctx = .X →
    ∃ t, exec (.vqst c xd vn) s = .next t ∧ Through (s.seen c 1) t c [] false keep keepButRegs ∧
      WritesReg (s.seen c 1) t 1 xd (vqstOf (s.seen c 1).cur vn.toNat)) ∧
  (∀ c d va pa ty s, s.clear c 1 [] [] = true → s.who.ctx = .X → CanRead (s.seen c 1) [{ q := va, peek := pa }] →
    ∃ t, exec (.exadd c d va pa ty) s = .next t ∧ Through (s.seen c 1) t c [] false keepButQueues keepButFlights ∧
      QueuesBy (s.seen c 1) t [{ q := va, peek := pa }] vnull [] ∧
      t.me.flights = (s.seen c 1).me.flights ++ [flightOf (s.seen c 1) t 4 (.exAdd (exAdds ty
        ((((s.seen c 1).srcElems [{ q := va, peek := pa }]).getD 0 []).getD 0 0) d.toNat none))]) ∧
  (∀ c d va len1 pa ty s, s.clear c 1 [] [] = true → s.who.ctx = .X → CanRead (s.seen c 1) [{ q := va, peek := pa }] →
    ∃ t, exec (.exaddL c d va len1 pa ty) s = .next t ∧ Through (s.seen c 1) t c [] false keepButQueues keepButFlights ∧
      QueuesBy (s.seen c 1) t [{ q := va, peek := pa }] vnull [] ∧
      t.me.flights = (s.seen c 1).me.flights ++ [flightOf (s.seen c 1) t 4 (.exAdd (exAdds ty
        ((((s.seen c 1).srcElems [{ q := va, peek := pa }]).getD 0 []).getD 0 0) d.toNat (some (len1.toNat + 1))))]) ∧
  (∀ c vd a len1 clr s, s.clear c 1 [] [] = true → s.who.ctx = .X → (s.seen c 1).dstTrap vd 1 [] = none →
    ((s.seen c 1).me.exposed = false → (s.seen c 1).me.flights.any (fun f => f.touches a.toNat (len1.toNat + 1)) = false) →
    (∀ i, i ≤ len1.toNat → ((s.seen c 1).cur.exa (a.toNat + i)).bad = false) →
    ∃ t, exec (.exrd c vd a len1 clr) s = .next t ∧ Through (s.seen c 1) t c [] false keepButQueues keepButFlights ∧
      QueuesBy (s.seen c 1) t [] vd
        [ofLanes 32 ((List.range (len1.toNat + 1)).map fun i => ((s.seen c 1).cur.exa (a.toNat + i)).read)] ∧
      t.me.flights = (s.seen c 1).me.flights ++
        (if clr then [flightOf (s.seen c 1) t 0 (.exClr a.toNat (len1.toNat + 1))] else []) ++
        pushFlights (s.seen c 1) t 6 vd [0]) ∧
  (∀ c a len1 s, s.clear c 1 [] [] = true → s.who.ctx = .X →
    ∃ t, exec (.exclr c a len1) s = .next t ∧ Through (s.seen c 1) t c [] false keep keepButFlights ∧
      t.me.flights = (s.seen c 1).me.flights ++ [flightOf (s.seen c 1) t 1 (.exClr a.toNat (len1.toNat + 1))])

/-! ### Matrix words (R191 to R220) -/

/-- FQPUSH and FQMODE add an entry to fq while it holds fewer than 32; a full one traps where no tile command waits to take an
entry (R198). SCW, CTWR and NESTW write their register, entry or slot from a register, from the low bits, or from 64 bytes of
scratchpad (R199, R201). -/
def Obligations.EngineStateWords : Prop :=
  (∀ c xa s, s.clear c 2 [] [xa] = true → s.who.ctx = .X → (s.seen c 2).cur.fq.length < 32 →
    ∃ t, exec (.fqpush c xa) s = .next t ∧
      Through ((s.seen c 2).updCur fun k => { k with fq := k.fq ++ [.fmt ((s.seen c 2).reg xa)] }) t c [] false keep keep) ∧
  (∀ c rm s, s.clear c 2 [] [] = true → s.who.ctx = .X → (s.seen c 2).cur.fq.length < 32 →
    ∃ t, exec (.fqmode c rm) s = .next t ∧
      Through ((s.seen c 2).updCur fun k => { k with fq := k.fq ++ [.mode rm] }) t c [] false keep keep) ∧
  (∀ c xa s, s.clear c 2 [] [xa] = true → s.who.ctx = .X → s.me.exposed = false → s.isSpec s.k = false →
    32 ≤ s.cur.fq.length → s.cur.tilesWait = false →
    ∃ t r, exec (.fqpush c xa) s = .next t ∧ t.me.run = .trapped r ∧ r.cause = .qovf ∧ r.resume = s.me.pc) ∧
  (∀ c sc xa imm s, s.clear c 2 [] [xa] = true → s.who.ctx = .X →
    ∃ t, exec (.scw c sc xa imm) s = .next t ∧
      Through ((s.seen c 2).updCur fun k =>
        { k with sc := Sparse.set 0 k.sc sc.toNat (((s.seen c 2).reg xa + imm.setWidth 64).setWidth 8) }) t c [] false keep keep) ∧
  (∀ c bank entry xa imm s, s.clear c 2 [] [xa] = true → s.who.ctx = .X →
    ∃ t, exec (.ctwr c bank entry xa imm) s = .next t ∧
      Through ((s.seen c 2).updCur fun k =>
        { k with ct := Sparse.set 0 k.ct ((if bank then 16 else 0) + entry.toNat) (((s.seen c 2).reg xa +
                   imm.setWidth 64).setWidth 16) }) t c [] false keep keep) ∧
  (∀ c nest xa imm s (off : Nat), s.clear c 2 [] [xa] = true → s.who.ctx = .X →
    off = ((s.seen c 2).reg xa).toNat + imm.toNat * 64 → off % 64 = 0 → off + 64 ≤ spSize →
    nestReserved ((s.seen c 2).xRecord off) = false → (s.seen c 2).cur.withScratch.spLost off 64 = false →
    ∃ t, exec (.nestw c nest xa imm) s = .next t ∧
      Through ((s.seen c 2).updCur fun k => k.setNest nest.toNat ((s.seen c 2).xRecord off)) t c [] false keep keep)

namespace Sys2Proof.Machine

/-- A tile command that its issue checks let through enters the engine queue with its counts, its nest record and its
groups, claims the next format word where one stands in fq, leaves its tile not full, and under ADV moves its nest record on; the engine owes the word's
signals (R192, R193, R206 to R208). -/
def tgoIssues (v t : State) (c : Ctl) (op : MatOp) (w : Tile) : Prop :=
  let nest := v.cur.nestSlot w.nest.toNat
  let cmd : MatCmd := { v.matCmd v.cur.nextId op w.acc.toNat with
    profile := w.profile.toNat, gang := w.gang.toNat, accum := w.accum
    claim := (v.cur.fqWord v.cur.claimed).isSome
    m := if op = .tgoG then 0 else (v.reg w.xm).toNat
    n := (v.reg w.xn).toNat, kk := (v.reg w.xk).toNat, groups := v.tgoGroups op w, nest := nest }
  Through (v.updCur fun k =>
    { k.markTile w.acc.toNat with
      nests := if w.adv then (k.setNest w.nest.toNat (tgoAdv op nest)).nests else k.nests
      matq := k.matq ++ [cmd], claimed := k.claimed + b2n cmd.claim }) t c [] true keep keep

/-- A tile command that accumulates reads its tile first: no ACCOVF is to come there (R132, R219). -/
def accumReady (v : State) (w : Tile) : Prop :=
  w.accum = true → v.reg w.xm ≠ 0 → v.reg w.xn ≠ 0 → v.tileOvf w.acc.toNat = none

end Sys2Proof.Machine

/-- TGO, TGO.G and TGO.SP at issue. The range checks that read a record or a table that a token may order, and the overlap check
of DET, are judged once the word's tokens are there. -/
def Obligations.TileCommandsIssue : Prop :=
  (∀ c w s, s.clear c 2 [] [w.xm, w.xn, w.xk] = true → s.who.ctx = .X → (s.seen c 2).tgoTrap .tgo w = none →
    (s.seen c 2).tgoOrdered .tgo w = none → accumReady (s.seen c 2) w →
    ∃ t, exec (.tgo c w) s = .next t ∧ tgoIssues (s.seen c 2) t c .tgo w) ∧
  (∀ c w s, s.clear c 2 [] [w.xm, w.xn, w.xk] = true → s.who.ctx = .X → (s.seen c 2).tgoTrap .tgoG w = none →
    (s.seen c 2).tgoOrdered .tgoG w = none → accumReady (s.seen c 2) w →
    (s.seen c 2).cur.withScratch.spLost (nestGtab ((s.seen c 2).cur.nestSlot w.nest.toNat))
      (8 * ((s.seen c 2).reg w.xm).toNat) = false →
    ∃ t, exec (.tgoG c w) s = .next t ∧ tgoIssues (s.seen c 2) t c .tgoG w) ∧
  (∀ c w s, s.clear c 2 [] [w.xm, w.xn, w.xk] = true → s.who.ctx = .X → (s.seen c 2).tgoTrap .tgoSp w = none →
    (s.seen c 2).tgoOrdered .tgoSp w = none → accumReady (s.seen c 2) w →
    ∃ t, exec (.tgoSp c w) s = .next t ∧ tgoIssues (s.seen c 2) t c .tgoSp w)

namespace Sys2Proof.Machine

/-- X may read the tile: it is full, holds no ACCOVF to come, and is not lost (R132, R193, R417). -/
def TileReady (v : State) (n : Nat) : Prop :=
  (v.cur.tile n).pend = 0 ∧ (v.cur.tile n).ovf = none ∧ (v.cur.tile n).bad = false

/-- A window command enters the engine queue with its counts and its nest record; ACCLD leaves its tile not full, and ADV
adds CSTEP to CBASE (R214, R215). -/
def winIssues (v t : State) (c : Ctl) (op : MatOp) (w : Win) : Prop :=
  let nest := v.cur.nestSlot w.nest.toNat
  let cmd : MatCmd := { v.matCmd v.cur.nextId op w.acc.toNat with
    m := (v.reg w.xm).toNat, n := (v.reg w.xn).toNat, nest := nest }
  Through (v.updCur fun k =>
    { k with
      tiles := if op = .accld then (k.markTile w.acc.toNat).tiles else k.tiles
      nests := if w.adv then (k.setNest w.nest.toNat (nestAdv nest 2)).nests else k.nests
      matq := k.matq ++ [cmd] }) t c [] true keep keep

end Sys2Proof.Machine

/-- ACCZ, ACCMOV, ACCST, ACCLD and ACCRD (R212 to R216). -/
def Obligations.TileMoves : Prop :=
  (∀ c acc s, s.clear c 2 [] [] = true → s.who.ctx = .X →
    ∃ t, exec (.accz c acc) s = .next t ∧
      Through ((s.seen c 2).updCur fun k => { k.markTile acc.toNat with
        matq := k.matq ++ [(s.seen c 2).matCmd (s.seen c 2).cur.nextId .accz acc.toNat] }) t c [] true keep keep) ∧
  (∀ c accD accS add s, s.clear c 2 [] [] = true → s.who.ctx = .X → TileReady (s.seen c 2) accS.toNat →
    (add = true → (s.seen c 2).tileOvf accD.toNat = none) →
    ∃ t, exec (.accmov c accD accS add) s = .next t ∧
      Through ((s.seen c 2).updCur fun k => { k.markTile accD.toNat with
        matq := k.matq ++ [(s.seen c 2).matCmd (s.seen c 2).cur.nextId (.accmov accS.toNat add) accD.toNat] }) t c [] true
        keep keep) ∧
  (∀ c w s, s.clear c 2 [] [w.xm, w.xn] = true → s.who.ctx = .X → (s.seen c 2).winBad w = false →
    TileReady (s.seen c 2) w.acc.toNat → (s.seen c 2).winTrap w ((s.seen c 2).cur.tile w.acc.toNat).size true = none →
    (s.seen c 2).winOvlap w ((s.seen c 2).cur.tile w.acc.toNat).size true = none →
    ∃ t, exec (.accst c w) s = .next t ∧ winIssues (s.seen c 2) t c .accst w) ∧
  (∀ c w s, s.clear c 2 [] [w.xm, w.xn] = true → s.who.ctx = .X → (s.seen c 2).winBad w = false →
    (s.seen c 2).winTrap w 4 false = none → (s.seen c 2).winOvlap w 4 false = none →
    ∃ t, exec (.accld c w) s = .next t ∧ winIssues (s.seen c 2) t c .accld w) ∧
  (∀ c vd acc ty xa row s, s.clear c 2 [] [xa] = true → s.who.ctx = .X → TileReady (s.seen c 2) acc.toNat →
    (s.seen c 2).dstTrap vd 1 [] = none →
    ∃ t, exec (.accrd c vd acc ty xa row) s = .next t ∧ Through (s.seen c 2) t c [] false keepButQueues keepButFlights ∧
      QueuesBy (s.seen c 2) t [] vd
        [((s.seen c 2).cur.tile acc.toNat).row ((((s.seen c 2).reg xa).toNat + row.toNat) % 128)] ∧
      t.me.flights = (s.seen c 2).me.flights ++ pushFlights (s.seen c 2) t 4 vd [0])

/-! ### Ladder words (R257 to R280) -/

namespace Sys2Proof.Machine

/-- What a ladder word asks for by the state it finds: its operation, its slot, the queues it pops at issue, the scalar
registers it reads. -/
structure LadderWord where
  op   : LadOp
  slot : Nat
  srcs : List VSrc := []
  uses : List Reg := []

/-- Ladder words by the state they find. -/
def ladderWord (v : State) : Instr → Option LadderWord
  | .lapp _ slot qa qb bf => some { op := .lapp bf, slot := slot.toNat, srcs := [{ q := qa }, { q := qb }] }
  | .lappb _ slot qa qb j bf => some { op := .lappb qa qb j.toNat bf, slot := slot.toNat }
  | .lreadOrd _ slot qa qb qc bf div => some { op := .lread 0 qc bf div, slot := slot.toNat, srcs := [{ q := qa }, { q := qb }] }
  | .lreadExa _ slot qa qb qc bf div => some { op := .lread 1 qc bf div, slot := slot.toNat, srcs := [{ q := qa }, { q := qb }] }
  | .lreadRungs _ slot qa qb qc bf => some { op := .lread 2 qc bf false, slot := slot.toNat, srcs := [{ q := qa }, { q := qb }] }
  | .lfork _ slotD slotS => some { op := .lfork slotS.toNat, slot := slotD.toNat }
  | .ltruncLow _ slot xm => some { op := .ltruncLow (v.reg xm), slot := slot.toNat, uses := [xm] }
  | .ltruncCkpt _ slot slotC => some { op := .ltruncCkpt slotC.toNat, slot := slot.toNat }
  | .ldrop _ slot => some { op := .ldrop, slot := slot.toNat }
  | .lstat _ slot qc => some { op := .lstat qc, slot := slot.toNat }
  | _ => none

end Sys2Proof.Machine

/-- A ladder word whose slots are bound, and writable where it writes, pops its operands and enters the queue of 16; the
engine owes the word's signals (R101, R263). A word on a suppressed slot is marked (R315). -/
def Obligations.LadderWordsEnterTheQueue : Prop :=
  ∀ (i : Instr) (s : State) (a : LadderWord), ladderWord (s.seen (ctlOf i) 0) i = some a →
    s.clear (ctlOf i) 0 [] a.uses = true → s.who.ctx = .X → CanRead (s.seen (ctlOf i) 0) a.srcs →
    (s.seen (ctlOf i) 0).cur.ladTrap a.op a.slot = none → a.op.batchTrap (s.seen (ctlOf i) 0).cur = none →
    a.op.batchWait (s.seen (ctlOf i) 0).cur = false → (s.seen (ctlOf i) 0).cur.ladq.length < 16 →
    ∃ t m, exec i s = .next t ∧
      Through (s.seen (ctlOf i) 0) t (ctlOf i) [] true (fun x y => { x with qs := y.qs, ladq := y.ladq }) keep ∧
      QueuesBy (s.seen (ctlOf i) 0) t a.srcs vnull [] ∧ t.cur.ladq = (s.seen (ctlOf i) 0).cur.ladq ++ [m] ∧
      m.id = (s.seen (ctlOf i) 0).cur.nextId ∧ m.wid = m.id ∧ m.op = a.op ∧ m.slot = a.slot ∧
      m.els = ((s.seen (ctlOf i) 0).srcElems a.srcs).map (fun l => l.headD 0) ∧ m.outs = [] ∧ m.stage = 0 ∧ m.fail = none ∧
      m.masked = (s.seen (ctlOf i) 0).cur.suppressed a.op a.slot

/-! ### Checks and generation (R312 to R335) -/

/-- TAPCHK.BIND binds the table, with the rows that the quarantine table holds for its batch; TAPCHK.MASK reads a quarter of
the active-row mask; TAPCHK counts, steers and notes traps in scratchpad, and where a row traps its context takes TAPSEQ with
the probe's number and would resume at the next word (R316, R318 to R321). X's earlier scratch moves are performed first
(R323). -/
def Obligations.TapWords : Prop :=
  (∀ c xa s rows notes, s.clear c 3 [] [xa] = true → s.who.ctx = .X → (s.seen c 3).cur.genq = [] →
    offsetTrap ((s.seen c 3).reg xa).toNat = none → (s.seen c 3).bindTrap ((s.seen c 3).reg xa).toNat = none →
    (s.seen c 3).tableRows ((s.seen c 3).reg xa).toNat = .ok rows notes →
    (s.seen c 3).settleScratch.tableRows ((s.seen c 3).reg xa).toNat = .ok rows notes →
    (s.seen c 3).rangeLost ((s.seen c 3).reg xa).toNat 256 = none →
    ∃ t, exec (.tapchkBind c xa) s = .next t ∧
      Through (((s.seen c 3).settleScratch.note s.k notes).updCur fun k =>
        ({ k with batch := some ((s.seen c 3).reg xa).toNat } : CoreSt).quarantine rows) t c [] false keep keep) ∧
  (∀ c xd w s, s.clear c 3 [] [xd] = true → s.who.ctx = .X → (s.seen c 3).cur.genq = [] →
    (s.seen c 3).cur.batch.isSome = true → (s.seen c 3).rangeLost (s.seen c 3).cur.tab 256 = none →
    ∃ t, exec (.tapchkMask c xd w) s = .next t ∧ Through (s.seen c 3) t c [] false keep keepButRegs ∧
      WritesReg (s.seen c 3) t 1 xd
        (w64 ((s.seen c 3).cur.activeMask (s.seen c 3).xsp (s.seen c 3).cur.tab / 2 ^ (64 * w.toNat) % 2 ^ 64))) ∧
  (∀ c xb first cnt1 s p notes, s.clear c 3 [] [xb] = true → s.who.ctx = .X → (s.seen c 3).cur.genq = [] →
    (s.seen c 3).cur.batch.isSome = true → ((s.seen c 3).reg xb).toNat % 64 = 0 →
    (s.seen c 3).tapPlan ((s.seen c 3).reg xb).toNat first.toNat (cnt1.toNat + 1) = .ok p notes →
    (s.seen c 3).rangeLost (s.seen c 3).cur.tab 256 = none →
    (s.seen c 3).rangeLost (s.seen c 3).cur.tab (256 + 256 * tabRows (s.seen c 3).xsp (s.seen c 3).cur.tab) = none →
    (∀ r, r ∈ (s.seen c 3).activeRows → (s.seen c 3).cur.spLost
      (((s.seen c 3).reg xb).toNat + r * tabPitch (s.seen c 3).xsp (s.seen c 3).cur.tab)
      (tabRowBytes (s.seen c 3).xsp (s.seen c 3).cur.tab) = false) →
    (p.least = none → ∃ t, exec (.tapchk c xb first cnt1) s = .next t ∧
      Through (((s.seen c 3).note s.k notes).settleScratch.updCur fun k => { k with sp := p.sp }) t c [] false keep keep) ∧
    (∀ n, p.least = some n → (s.seen c 3).isSpec s.k = false → TkFits (s.seen c 3).cur →
      ∃ t r, exec (.tapchk c xb first cnt1) s = .next t ∧ t.me.run = .trapped r ∧ r.cause = .tapseq ∧
        r.info = w64 (first.toNat + n) ∧
        r.pos = (s.seen c 3).me.pc ∧ r.resume = (s.seen c 3).me.advance.pc))

namespace Sys2Proof.Machine

/-- What a generation word that needs no memory does by the state it finds, X's earlier scratch moves performed (`w`): its
latency, operands, destination, how many elements it pushes, its own checks, and by its operands' elements what it pushes and
the scratchpad it leaves. -/
structure GenWord where
  lat    : Nat
  srcs   : List VSrc
  vd     : QName
  pushes : Nat := 1
  trap   : Option Trap
  value  : List Elem × Memory

/-- The control element of a word with two operands. -/
def ctlElem (v : State) (srcs : List VSrc) : Elem := ((v.srcElems srcs).getD 1 []).getD 0 0

/-- A chunk that counts more elements than a chunk holds is refused (R325). -/
def chunkTrap (bf : Bool) (es : List (List Elem)) : Option Trap := if chunkBad bf es then some { cause := .illop } else none

/-- The first operand's element. -/
def listElem (v : State) (srcs : List VSrc) : Elem := ((v.srcElems srcs).getD 0 []).getD 0 0

/-- VSHORT, VSORT, VSAMP and their forms (R325 to R327). -/
def genWordOf (v w : State) : Instr → Option GenWord
  | .vshort _ x bf =>
    let c := ctlElem v (v3srcs x)
    let last := ctlFlags c / 2 % 2 == 1
    some {
      lat := 24, srcs := v3srcs x, vd := x.vd, pushes := if last then 1 else 0
      trap := (chunkTrap bf (v.srcElems (v3srcs x))).or <| ((v.rowTrap (ctlRow c)).or (v.rowLost (ctlRow c))).or
        (if !sampleOk (rowInvt v.xsp v.cur.tab (ctlRow c)) (rowTopp v.xsp v.cur.tab (ctlRow c)) then some { cause := .illop }
        else if ctlFlags c % 2 = 0 then v.rangeLost (tabSlb v.xsp v.cur.tab + 512 * ctlRow c) 512 else none)
      value :=
        if w.cur.rowQuar (ctlRow c) then (if last then [0] else [], w.cur.sp)
        else
          let r := vshortRow w.cur.sp w.cur.tab bf (listElem v (v3srcs x)) c
          (if last then [r.2] else [], r.1) }
  | .vsort _ x =>
    let c := ctlElem v (v3srcs x)
    let l := sortPairs (chunkPairs false (listElem v (v3srcs x)) (ctlTok c) (ctlCount c))
    some {
      lat := 16, srcs := v3srcs x, vd := x.vd, pushes := 2
      trap := (chunkTrap false (v.srcElems (v3srcs x))).or ((v.rowTrap (ctlRow c)).or (v.rangeLost v.cur.tab 256))
      value := (if w.cur.rowQuar (ctlRow c) then [0, 0] else [ofPairs (l.take 64), ofPairs (l.drop 64)], w.cur.sp) }
  | .vsortMerge _ x =>
    let l := pairsOf (listElem v (v3srcs x)) ++ pairsOf (ctlElem v (v3srcs x))
    some {
      lat := 16, srcs := v3srcs x, vd := x.vd, pushes := 2, trap := none
      value := (if l.any fun p => (f32 p.1).isNaN then [w.freeElem 40, w.freeElem 41]
        else [ofPairs ((sortPairs l).take 64), ofPairs ((sortPairs l).drop 64)], w.cur.sp) }
  | .vsamp _ x f =>
    let c := ctlElem v (v3srcs x)
    let r := vsampRow w.freeVal w.cur.sp w.cur.tab f (listElem v (v3srcs x)) c
    some {
      lat := 20, srcs := v3srcs x, vd := x.vd, trap := (v.rowTrap (ctlRow c)).or (v.rowLost (ctlRow c))
      value := if w.cur.rowQuar (ctlRow c) then ([0], w.cur.sp) else ([r.1], r.2) }
  | .vsampU _ vd vb pa pb =>
    let vs : List VSrc := [{ q := vz, peek := pa }, { q := vb, peek := pb }]
    let r := ctlRow (ctlElem v vs)
    let st := streamStep (rowStream w.cur.sp w.cur.tab r)
    some {
      lat := 20, srcs := vs, vd := vd, trap := (v.rowTrap r).or (v.rowLost r)
      value := if w.cur.rowQuar r then ([0], w.cur.sp)
        else ([ofLanes 32 [FFmt.fp32.rne (fracOf (streamOut st))]], putStream w.cur.sp w.cur.tab r st) }
  | _ => none

/-- A generation word that waits for memory: its row and operands pass the checks at issue, and it enters the queue of such
words with its operands; its element is pending, and the engine owes the word's signals (R323, R331, R332, R335). -/
def entersGenq (v t : State) (c : Ctl) (srcs : List VSrc) (op : GenOp) (vd : QName) (ctl chunk : Elem) : Prop :=
  Through v.settleScratch t c [] true (fun a b => { a with qs := b.qs, genq := b.genq }) keep ∧ QueuesBy v t srcs vd [0] ∧
    ∃ g, t.cur.genq = [g] ∧ g.id = v.cur.nextId * 64 ∧ g.wid = v.cur.nextId ∧ g.op = op ∧ g.vd = vd ∧ g.ctl = ctl ∧
      g.chunk = chunk ∧ g.masked = v.cur.rowQuar (ctlRow ctl) ∧ g.seen = [] ∧ g.halt = none ∧ g.fail = none

end Sys2Proof.Machine

/-- A generation word that needs no memory pops, pushes and changes scratchpad at once; a quarantined row's word pushes
elements of zeros and changes nothing (R315, R323).
GSTEP, VGMASK and TOKOUT at issue. -/
def Obligations.GenerationWords : Prop :=
  (∀ (i : Instr) (s : State) (a : GenWord),
    genWordOf (s.seen (ctlOf i) 3) (s.seen (ctlOf i) 3).settleScratch i = some a →
    s.clear (ctlOf i) 3 [] [] = true → s.who.ctx = .X → (s.seen (ctlOf i) 3).cur.batch.isSome = true →
    (s.seen (ctlOf i) 3).cur.genq = [] → CanRead (s.seen (ctlOf i) 3) a.srcs → a.trap = none →
    (s.seen (ctlOf i) 3).dstTrap a.vd a.pushes a.srcs = none →
    ∃ t, exec i s = .next t ∧
      Through ((s.seen (ctlOf i) 3).settleScratch.updCur fun k => { k with sp := a.value.2 }) t (ctlOf i) [] false
        keepButQueues keepButFlights ∧
      QueuesBy (s.seen (ctlOf i) 3) t a.srcs a.vd a.value.1 ∧
      t.me.flights = (s.seen (ctlOf i) 3).settleScratch.me.flights ++
        pushFlights (s.seen (ctlOf i) 3) t a.lat a.vd a.value.1) ∧
  (∀ c x s (ctl : Elem), ctl = listElem (s.seen c 3) (v2srcs x) → s.clear c 3 [] [] = true → s.who.ctx = .X →
    (s.seen c 3).cur.batch.isSome = true → (s.seen c 3).cur.genq = [] → CanRead (s.seen c 3) (v2srcs x) →
    (s.seen c 3).rowTrap (ctlRow ctl) = none → (s.seen c 3).rowLost (ctlRow ctl) = none →
    (s.seen c 3).dstTrap x.vd 1 (v2srcs x) = none →
    (∃ t, exec (.gstep c x) s = .next t ∧ entersGenq (s.seen c 3) t c (v2srcs x) .gstep x.vd ctl 0) ∧
    ((s.seen c 3).outFull = false →
      ∃ t, exec (.tokout c x) s = .next t ∧ entersGenq (s.seen c 3) t c (v2srcs x) .tokout x.vd ctl 0)) ∧
  (∀ c x bf s (ctl : Elem), ctl = ctlElem (s.seen c 3) (v3srcs x) → s.clear c 3 [] [] = true → s.who.ctx = .X →
    (s.seen c 3).cur.batch.isSome = true → (s.seen c 3).cur.genq = [] → CanRead (s.seen c 3) (v3srcs x) →
    chunkTrap bf ((s.seen c 3).srcElems (v3srcs x)) = none → (s.seen c 3).rowTrap (ctlRow ctl) = none →
    (s.seen c 3).rowLost (ctlRow ctl) = none → (s.seen c 3).dstTrap x.vd 1 (v3srcs x) = none →
    ∃ t, exec (.vgmask c x bf) s = .next t ∧
      entersGenq (s.seen c 3) t c (v3srcs x) (.vgmask bf) x.vd ctl (listElem (s.seen c 3) (v3srcs x)))

namespace Sys2Proof.Machine

/-- The word that names row `r` of the bound table passes its checks. -/
def RowReady (v : State) (r : Nat) : Prop :=
  v.cur.batch.isSome = true ∧ v.rowTrap r = none ∧ v.rowLost r = none ∧ v.cur.genq = []

end Sys2Proof.Machine

/-- RNGGET, RNGGET.PEEK, RNGJMP, GSAVE and GREST: they read or change the row's stream or grammar state; on a quarantined row
they read 0 and change nothing (R315, R329, R333). -/
def Obligations.RowWords : Prop :=
  (∀ c xd xa s (v w : State) (r : Nat) (st : Nat × Nat), v = s.seen c 3 → w = v.settleScratch → r = (v.reg xa).toNat →
    s.clear c 3 [] [xd, xa] = true → s.who.ctx = .X → RowReady v r → st = streamStep (rowStream w.cur.sp w.cur.tab r) →
    (v.cur.rowQuar r = false →
      (∃ t, exec (.rngget c xd xa) s = .next t ∧
        Through (w.updCur fun k => { k with sp := putStream k.sp k.tab r st }) t c [] false keep keepButRegs ∧
        WritesReg w t 6 xd (w64 (streamOut st))) ∧
      (∃ t, exec (.rnggetPeek c xd xa) s = .next t ∧ Through w t c [] false keep keepButRegs ∧
        WritesReg w t 6 xd (w64 (streamOut st)))) ∧
    (v.cur.rowQuar r = true →
      (∃ t, exec (.rngget c xd xa) s = .next t ∧ Through w t c [] false keep keepButRegs ∧ WritesReg w t 6 xd 0) ∧
      (∃ t, exec (.rnggetPeek c xd xa) s = .next t ∧ Through w t c [] false keep keepButRegs ∧ WritesReg w t 6 xd 0))) ∧
  (∀ c xa xb s (v w : State) (r : Nat), v = s.seen c 3 → w = v.settleScratch → r = (v.reg xa).toNat →
    s.clear c 3 [] [xa, xb] = true → s.who.ctx = .X → RowReady v r →
    ∃ t, exec (.rngjmp c xa xb) s = .next t ∧
      Through (if v.cur.rowQuar r then w else w.updCur fun k =>
        { k with sp := putStream k.sp k.tab r (streamJump (v.reg xb).toNat (rowStream k.sp k.tab r)) }) t c [] false keep keep) ∧
  (∀ c xd xa s (v w : State) (r : Nat), v = s.seen c 3 → w = v.settleScratch → r = (v.reg xa).toNat →
    s.clear c 3 [] [xd, xa] = true → s.who.ctx = .X → RowReady v r →
    ∃ t, exec (.gsave c xd xa) s = .next t ∧ Through w t c [] false keep keepButRegs ∧
      WritesReg w t 2 xd (if v.cur.rowQuar r then 0 else
        w64 (rowGstate w.cur.sp w.cur.tab r * 2 ^ 32 + rowGtop w.cur.sp w.cur.tab r))) ∧
  (∀ c xa xb s (v w : State) (r : Nat), v = s.seen c 3 → w = v.settleScratch → r = (v.reg xa).toNat →
    s.clear c 3 [] [xa, xb] = true → s.who.ctx = .X → RowReady v r → (v.reg xb).toNat < 2 ^ 47 →
    (v.reg xb).toNat % 2 ^ 32 < rowGnext v.xsp v.cur.tab r →
    ∃ t, exec (.grest c xa xb) s = .next t ∧
      Through (if v.cur.rowQuar r then w else w.updCur fun k =>
        { k with sp := putGrammar k.sp k.tab r ((v.reg xb).toNat / 2 ^ 32) ((v.reg xb).toNat % 2 ^ 32) }) t c [] false keep keep)

/-! ### System words (R315, R316, R364 to R380, R399) -/

namespace Sys2Proof.Machine

/-- The system words have the opcodes 0xF0 to 0xFB; the table of R369 marks SLOTW, BMAPW, PARTW and ISLW with M. -/
def systemWord (i : Instr) : Option Bool :=
  (opcodeOf i).bind fun op => if 0xF0 ≤ op ∧ op < 0xFC then some (decide (op ∈ [0xF4, 0xF5, 0xFA, 0xFB])) else none

/-- The context may not issue the opcode (R99). -/
def excluded (op : Nat) (x : Ctx) : Prop :=
  (0x40 ≤ op ∧ op < 0x70 ∧ x = .X) ∨ (op ∈ [0x48, 0x68, 0x69, 0x6A, 0x6B] ∧ x ≠ .L) ∨ (0x80 ≤ op ∧ op < 0xF0 ∧ x ≠ .X)

end Sys2Proof.Machine

/-- A system word that comes to its checks traps PRIV at kernel level, and a word marked M at supervisor level too (R87, R369).
A word that comes to its checks in a context which its class excludes traps CTXOP (R99). -/
def Obligations.ExcludedWordsTrap : Prop :=
  (∀ (i : Instr) (s : State) (m : Bool), systemWord i = some m → WordComes s (ctlOf i) → s.me.level = 0 →
    s.isSpec s.k = false → ∃ t r, exec i s = .next t ∧ t.me.run = .trapped r ∧ r.cause = .priv ∧ r.resume = s.me.pc) ∧
  (∀ (i : Instr) (s : State), systemWord i = some true → s.clear (ctlOf i) 0 [] [] = true → s.me.pend = [] →
    s.me.exposed = false → s.me.level = 1 → s.isSpec s.k = false →
    ∃ t r, exec i s = .next t ∧ t.me.run = .trapped r ∧ r.cause = .priv ∧ r.resume = s.me.pc) ∧
  (∀ (i : Instr) (s : State) (op : Nat), opcodeOf i = some op → excluded op s.who.ctx → WordComes s (ctlOf i) →
    s.isSpec s.k = false → ∃ t r, exec i s = .next t ∧ t.me.run = .trapped r ∧ r.cause = .ctxop ∧ r.resume = s.me.pc)

namespace Sys2Proof.Machine

/-- Bytes of core `k`, context `x` and word `wid` performed at device scope at a place, which is that of virtual address `va`: in
the place's memory, or, for a replicated page, through the sequencer (R353). -/
def performed (v : State) (l : Loc) (va : Nat) (bs : List Byte) (k : Nat) (x : Ctx) (wid : Nat) : State :=
  if l.space = 5 then v.sequence l.addr bs k x wid (v.partOf k) va else v.poke l.space l.addr bs

/-- Bytes written at device scope by the issuing word. -/
def placed (v : State) (l : Loc) (va : Nat) (bs : List Byte) : State := performed v l va bs v.k v.who.ctx v.cur.nextId

/-- An update of a replicated page by the issuing word is on its way to the dies: the word retires when all have applied it
(R353, R369). -/
def spreading (v : State) : Bool :=
  v.seqLog.any fun u => u.core == v.k && u.ctx == v.who.ctx && u.wid == v.cur.nextId

end Sys2Proof.Machine

/-- WSW copies memory into the Weight Store window, PTBW and PTBW.H one block of scratchpad into the probe table, once no earlier
store of the context stands before the place; in a replicated page the word retires when every die has applied it (R353, R369 to
R371). (Where other tasks hold read sets, the same writes may abort some of them besides: R295, R296.) -/
def Obligations.CopyingSystemWords : Prop :=
  (∀ c xa xb xc s bs notes, s.clear c 0 [] [xa, xb, xc] = true → s.me.level ≠ 0 → (s.seen c 0).isSpec s.k = false →
    (s.seen c 0).wswTrap ((s.seen c 0).reg xa) ((s.seen c 0).reg xb) ((s.seen c 0).reg xc) = none →
    (s.seen c 0).quiet ((s.seen c 0).partOf s.k) (s.seen c 0).cur.task = true →
    (∀ b, b ∈ banksOf ((s.seen c 0).reg xb).toNat ((s.seen c 0).reg xc).toNat →
      (s.seen c 0).portOpen ⟨3, b * 2 ^ 24⟩ = true) →
    (s.seen c 0).superRead ((s.seen c 0).reg xa).toNat ((s.seen c 0).reg xc).toNat = .ok bs notes → NoReaders (s.seen c 0) →
    ∃ t, exec (.wsw c xa xb xc) s = .next t ∧
      Through (((s.seen c 0).note s.k notes).poke 3 ((s.seen c 0).reg xb).toNat bs) t c [] false keep keep) ∧
  (∀ c xa idx s l notes, s.clear c 0 [] [xa] = true → s.me.level ≠ 0 → (s.seen c 0).isSpec s.k = false →
    (s.seen c 0).ptbwTrap ((s.seen c 0).reg xa) probeBad = none →
    (s.seen c 0).ptbwAt (64 + 64 * idx.toNat) = .ok l notes →
    (s.seen c 0).wayFree l 64 = true →
    (s.seen c 0).rangeLost ((s.seen c 0).reg xa).toNat 64 = none → NoReaders (s.seen c 0) →
    ∃ t u, exec (.ptbw c xa idx) s = .next t ∧
      u = placed (s.seen c 0) l ((s.seen c 0).probeBase.getD 0 + (64 + 64 * idx.toNat))
        ((s.seen c 0).blockAt ((s.seen c 0).reg xa)) ∧
      Through u t c [] (spreading u) keep keep) ∧
  (∀ c xa s l notes, s.clear c 0 [] [xa] = true → s.me.level ≠ 0 → (s.seen c 0).isSpec s.k = false →
    (s.seen c 0).ptbwTrap ((s.seen c 0).reg xa) probeHdrBad = none → (s.seen c 0).ptbwAt 0 = .ok l notes →
    (s.seen c 0).wayFree l 64 = true →
    (s.seen c 0).rangeLost ((s.seen c 0).reg xa).toNat 64 = none → NoReaders (s.seen c 0) →
    ∃ t u, exec (.ptbwH c xa) s = .next t ∧
      u = placed (s.seen c 0) l ((s.seen c 0).probeBase.getD 0) ((s.seen c 0).blockAt ((s.seen c 0).reg xa)) ∧
      Through u t c [] (spreading u) keep keep)

/-- The words of monitor level (R374, R375, R379, R380): SLOTW's entry waits for the frame boundary, where the word retires;
BMAPW changes the records of a run's granules; PARTW and ISLW write their register, an island's limits clamped. -/
def Obligations.MonitorWords : Prop :=
  (∀ c xa n s, s.clear c 0 [] [xa] = true → 2 ≤ s.me.level → (s.seen c 0).isSpec s.k = false →
    slotBad (((s.seen c 0).reg xa).setWidth 16) = false →
    ∃ t, exec (.slotw c xa n) s = .next t ∧
      Through { s.seen c 0 with slotNew := (s.seen c 0).slotNew ++
        [⟨n.toNat, ((s.seen c 0).reg xa).setWidth 16, s.k, s.who.ctx, (s.seen c 0).cur.nextId⟩] } t c [] true keep keep) ∧
  (∀ c xa s b, s.clear c 0 [] [xa] = true → 2 ≤ s.me.level → (s.seen c 0).isSpec s.k = false →
    berthOf ((s.seen c 0).reg xa) = some b → b.part < 16 →
    ∃ t, exec (.bmapwFree c xa) s = .next t ∧
      Through ((s.seen c 0).mapRun ((s.seen c 0).reg xa) fun g => { g with share := 0 }) t c [] false keep keep) ∧
  (∀ c xa xb s b, s.clear c 0 [] [xa, xb] = true → 2 ≤ s.me.level → (s.seen c 0).isSpec s.k = false →
    berthOf ((s.seen c 0).reg xa) = some b → b.part < 16 → ((s.seen c 0).reg xb).toNat % 256 ≠ 0 →
    ∃ t, exec (.bmapwSet c xa xb) s = .next t ∧
      Through ((s.seen c 0).mapRun ((s.seen c 0).reg xa) fun _ =>
        ⟨((s.seen c 0).reg xb).toNat % 256, ((s.seen c 0).reg xb).toNat / 2 ^ 16 % 2 ^ 16⟩) t c [] false keep keep) ∧
  (∀ c xa xb sel s (p : Nat), s.clear c 0 [] [xa, xb] = true → 2 ≤ s.me.level → (s.seen c 0).isSpec s.k = false →
    p = ((s.seen c 0).reg xa).toNat → p < 16 → p ≠ (s.seen c 0).partOf s.k →
    (s.seen c 0).partBad p sel.toNat ((s.seen c 0).reg xb) = false → (s.seen c 0).quiet p 0 = true →
    ∃ t, exec (.partw c xa xb sel) s = .next t ∧
      Through ((s.seen c 0).writePart p sel.toNat ((s.seen c 0).reg xb)) t c [] false keep keep ∧
      (t.part p).reg sel.toNat = (s.seen c 0).reg xb) ∧
  (∀ c xa xb s, s.clear c 0 [] [xa, xb] = true → 2 ≤ s.me.level → (s.seen c 0).isSpec s.k = false →
    ((s.seen c 0).reg xa).toNat < 32 →
    ∃ t, exec (.islw c xa xb) s = .next t ∧
      Through ((s.seen c 0).writeIsland ((s.seen c 0).reg xa).toNat ((s.seen c 0).reg xb)) t c [] false keep keep)

/-- HALT and RESUME (R376, R415): HALT of a core with a running context asks it to stop, and retires when it has halted; one
whose contexts have all stopped halts at once; of a halted core it does nothing. RESUME ends the halt. -/
def Obligations.HaltAndResume : Prop :=
  (∀ c xa s (k : Nat), s.clear c 0 [] [xa] = true → s.me.level ≠ 0 → (s.seen c 0).isSpec s.k = false →
    k = ((s.seen c 0).reg xa).toNat → k ≠ s.k → (s.seen c 0).owns ((s.seen c 0).partOf s.k) k = true →
    (((s.seen c 0).core k).halted = true →
      ∃ t, exec (.halt c xa) s = .next t ∧ Through (s.seen c 0) t c [] false keep keep) ∧
    (((s.seen c 0).core k).halted = false → ((s.seen c 0).core k).stopped = false →
      ∃ t, exec (.halt c xa) s = .next t ∧
        Through ((s.seen c 0).updCore k fun x =>
          { x with haltReq := true, haltBy := x.haltBy ++ [⟨s.k, s.who.ctx, (s.seen c 0).cur.nextId⟩] }) t c [] true keep keep) ∧
    (((s.seen c 0).core k).halted = false → ((s.seen c 0).core k).stopped = true →
      ∃ t, exec (.halt c xa) s = .next t ∧ (t.core k).halted = true ∧ (t.core k).haltReq = false ∧ (t.core k).haltBy = [])) ∧
  (∀ c xa s (k : Nat), s.clear c 0 [] [xa] = true → s.me.level ≠ 0 → (s.seen c 0).isSpec s.k = false →
    k = ((s.seen c 0).reg xa).toNat → (s.seen c 0).owns ((s.seen c 0).partOf s.k) k = true →
    ∃ t, exec (.resume c xa) s = .next t ∧ Through ((s.seen c 0).unhalt k) t c [] false keep keep ∧
      (t.core k).halted = false)

/-- ERET (R377, R409): the saved registers come back, and the context goes on at x59 in interlocked mode with slack 0; a
queue that halted goes on, and in X so does the matrix engine that a fault of its had held (R211). With no frame it traps. -/
def Obligations.ReturnFromReflection : Prop :=
  (∀ c s f, s.clear c 0 [] [56, 57, 58, 59] = true → s.me.level ≠ 0 → (s.seen c 0).isSpec s.k = false →
    (s.seen c 0).me.frame = some f →
    ∃ t, exec (.eret c) s = .next t ∧ ControlHalf (s.seen c 0) t c [] false ∧
      t.cur.matHold = ((s.seen c 0).cur.matHold && s.who.ctx != .X) ∧
      Confined (s.seen c 0) t (fun a b => { a with matHold := b.matHold }) (fun a b => { a with
        regs := b.regs, frame := none, exposed := false, slack := 0, accHalt := none }) keep ∧
      t.me.pc = ((s.seen c 0).reg 59).toNat % (s.seen c 0).me.wwords ∧ t.me.loops = (s.seen c 0).me.advance.loops ∧
      ∀ y, t.reg y = if y = 56 then f.x56 else if y = 57 then f.x57 else if y = 58 then f.x58 else if y = 59 then f.x59
        else (s.seen c 0).reg y) ∧
  (∀ c s, s.clear c 0 [] [56, 57, 58, 59] = true → s.me.level ≠ 0 → s.isSpec s.k = false → s.me.exposed = false →
    s.me.frame = none → ∃ t r, exec (.eret c) s = .next t ∧ t.me.run = .trapped r ∧ r.cause = .illop ∧ r.resume = s.me.pc)

/-- TLBI drops the named translations of the partition everywhere, once the context's stores are performed at device scope
and no store already translated reaches them (R372, R399).
QUAR sets rows of a core's mask, with the ladder slots that the newly quarantined rows bind, and of the quarantine
table's entry where the partition has such a table and the core a bound batch table (R315, R316, R373).
IPI (R378): behind the context's stores, at device scope or at the host's, the target gets the code. -/
def Obligations.CrossCoreWords : Prop :=
  (∀ (i : Instr) (c : Ctl) (s : State) (uses : List Reg) (d : Shoot),
    (∃ xa, uses = [xa] ∧ (i = .tlbiPg c xa ∧ d = .page ((s.seen c 0).reg xa).toNat ∨
      i = .tlbiBlk c xa ∧ d = .block ((s.seen c 0).reg xa).toNat)) ∨ (uses = [] ∧ i = .tlbiAll c ∧ d = .all) →
    s.clear c 0 [] uses = true → s.me.level ≠ 0 → (s.seen c 0).isSpec s.k = false → (s.seen c 0).storesAt 2 = true →
    (s.seen c 0).translated ((s.seen c 0).partOf s.k) d = false →
    ∃ t, exec i s = .next t ∧ Through ((s.seen c 0).shoot ((s.seen c 0).partOf s.k) d) t c [] false keep keep ∧
      (∀ k e, e ∈ (t.core k).tlb → d.drops ((s.seen c 0).partOf s.k) e = false)) ∧
  (∀ c xa xb w s e notes (k : Nat) (rows : BitVec 256), s.clear c 0 [] [xa, xb] = true → s.me.level ≠ 0 →
    (s.seen c 0).isSpec s.k = false → k = ((s.seen c 0).reg xa).toNat → k < 384 →
    (s.seen c 0).owns ((s.seen c 0).partOf s.k) k = true → (s.seen c 0).quarAt k = .ok e notes →
    (∀ va l, e = some (va, l) → (s.seen c 0).wayFree l 32 = true) → NoReaders (s.seen c 0) →
    rows = rowsAt (BitVec.toNat w) ((s.seen c 0).reg xb).toNat →
    ∃ t u, exec (.quar c xa xb w) s = .next t ∧
      u = (match e with
        | none => (s.seen c 0).updCore k fun x => x.quarantine rows
        | some (va, l) => placed ((s.seen c 0).updCore k fun x => x.quarantine rows) l va
            (orRows ((s.seen c 0).portBytes l 32) rows)) ∧
      Through u t c [] (spreading u) keep keep ∧
      (t.core k).qmask = ((s.seen c 0).core k).qmask ||| rows) ∧
  (∀ c xa code s (n : Nat), s.clear c 0 [] [xa] = true → s.me.level ≠ 0 → (s.seen c 0).isSpec s.k = false →
    n = ((s.seen c 0).reg xa).toNat → n ≤ 6 → (s.seen c 0).storesAt (if n = 6 then 3 else 2) = true →
    ∃ t, exec (.ipi c xa code) s = .next t ∧
      Through (if n = 6 then { s.seen c 0 with msix := (s.seen c 0).msix ++ [(0, code.toNat)] }
        else { s.seen c 0 with lpInts := (s.seen c 0).lpInts ++ [(n, code.toNat)] }) t c [] false keep keep)

/-! ### Events: accesses, writes and engines (R66, R72, R222, R229, R230, R241, R246, R250, R264, R344 to R346, R443 to R445) -/

namespace Sys2Proof.Machine

/-- The device's four memories, the updates of replicated pages on their way, and the marks of lost blocks are the same. -/
def SameMemory (t u : State) : Prop :=
  t.hbm = u.hbm ∧ t.host = u.host ∧ t.tier = u.tier ∧ t.ws = u.ws ∧ t.bad = u.bad ∧ t.seqLog = u.seqLog

end Sys2Proof.Machine

/-- LOAD_COMPLETE gives the register the bytes found, overlaid with the context's earlier stores; a VLD's element lands; an
AMO takes the old value and writes the new one (R222, R240, R346). -/
def Obligations.LoadsComplete : Prop :=
  (∀ (k : Nat) x s a xd n bs notes, k < 384 → (s.ctxOf k x).accq.find? (fun a => a.op.isLoad) = some a →
    a.op = .load xd n → s.loadReady k x a = true → s.readEa k ((s.ctxOf k x).acc false) a.ea n = .ok bs notes →
    ∃ t, exec (.loadComplete k x) s = .next t ∧ SameMemory t s ∧ (∀ j, j ≠ k → t.core j = s.core j) ∧
      t.ctxOf k x = ((s.ctxOf k x).dropAccess a.wid).arrive xd
        (w64 (bytesToNat (overlayStores bs a ((s.ctxOf k x).before a))))) ∧
  (∀ (k : Nat) x s a q id bs notes, k < 384 → (s.ctxOf k x).accq.find? (fun a => a.op.isLoad) = some a →
    a.op = .vld q id → s.loadReady k x a = true → s.readEa k ((s.ctxOf k x).acc false) a.ea 512 = .ok bs notes →
    ∃ t, exec (.loadComplete k x) s = .next t ∧ SameMemory t s ∧ t.ctxOf k x = (s.ctxOf k x).dropAccess a.wid ∧
      (t.core k).queue q = { (s.core k).queue q with els := ((s.core k).queue q).els.map fun e =>
        if e.id = id then
          { e with e := elemOfBytes (overlayStores bs a ((s.ctxOf k x).before a)), landed := true }
        else e }) ∧
  (∀ (k : Nat) x s a op (dbl : Bool) xd (b old : Word) off (n : Nat), k < 384 →
    (s.ctxOf k x).accq.find? (fun a => a.op.isLoad) = some a → a.op = .amo op dbl xd b old → s.loadReady k x a = true →
    classOfAddr a.ea = .scratch off → n = (if dbl then 8 else 4) → (s.core k).spLost off n = false →
    ∃ t, exec (.loadComplete k x) s = .next t ∧ SameMemory t s ∧
      t.ctxOf k x = ((s.ctxOf k x).dropAccess a.wid).arrive xd (w64 ((s.core k).sp.num off n)) ∧
      (t.core k).sp = (s.core k).sp.setBytes off (leBytes n (amoNew op (8 * n) ((s.core k).sp.num off n)
        (b.toNat % 2 ^ (8 * n)) (old.toNat % 2 ^ (8 * n))))) ∧
  (∀ (k : Nat) x s a op (dbl : Bool) xd (b old : Word) va l (n : Nat), k < 384 →
    (s.ctxOf k x).accq.find? (fun a => a.op.isLoad) = some a → a.op = .amo op dbl xd b old → s.loadReady k x a = true →
    classOfAddr a.ea = .virt va → n = (if dbl then 8 else 4) →
    s.translate k ((s.ctxOf k x).acc true) va = .ok l → (l.space = 1 ∨ l.space = 2 → amoRemote op = true) →
    s.lostAt k l n = false → (s.core k).postedMeets l n = false → s.isSpec k = false → s.portOpen l = true → NoReaders s →
    ∃ t, exec (.loadComplete k x) s = .next t ∧
      SameMemory t (performed s l va (leBytes n (amoNew op (8 * n) (bytesToNat (s.portBytes l n)) (b.toNat % 2 ^ (8 * n))
        (old.toNat % 2 ^ (8 * n)))) k x a.wid) ∧
      t.ctxOf k x = ((s.ctxOf k x).dropAccess a.wid).arrive xd (w64 (bytesToNat (s.portBytes l n))))

/-- POSTED_STORE_PERFORMED: a store is performed at core scope, in scratchpad, in a version line of a speculative task, which holds its bytes
from then on, or in the access unit, and one in the access unit at device scope, in memory (R293, R343, R344). (Where a later task
has read the line, the store to it aborts that task besides: R295.) -/
def Obligations.StoresArePerformed : Prop :=
  (∀ (k : Nat) x s a pre rest n v die off, k < 384 → (s.ctxOf k x).accq = pre ++ a :: rest →
    (∀ b, b ∈ pre → b.op.isStore = false) → a.op = .store n v → s.storeReady k x a = true →
    classOfAddr a.ea = .scratch off →
    ∃ t, exec (.postedStorePerformed k x 0 die) s = .next t ∧ SameMemory t s ∧
      t.ctxOf k x = (s.ctxOf k x).dropAccess a.wid ∧ (t.core k).sp = (s.core k).sp.setBytes off (leBytes n v.toNat)) ∧
  (∀ (k : Nat) x s a pre rest n v die va l, k < 384 → (s.ctxOf k x).accq = pre ++ a :: rest →
    (∀ b, b ∈ pre → b.op.isStore = false) → a.op = .store n v → s.storeReady k x a = true → classOfAddr a.ea = .virt va →
    s.translate k ((s.ctxOf k x).acc true) va = .ok l → s.isSpec k = false →
    ∃ t, exec (.postedStorePerformed k x 0 die) s = .next t ∧ SameMemory t s ∧
      t.ctxOf k x = (s.ctxOf k x).dropAccess a.wid ∧ (t.core k).sp = (s.core k).sp ∧
      (t.core k).posted = (s.core k).posted ++ [⟨x, a.wid, l.space, l.addr, va, leBytes n v.toNat⟩]) ∧
  (∀ (k : Nat) x s a pre rest n v die va l tk, k < 384 → (s.ctxOf k x).accq = pre ++ a :: rest →
    (∀ b, b ∈ pre → b.op.isStore = false) → a.op = .store n v → s.storeReady k x a = true → classOfAddr a.ea = .virt va →
    s.translate k ((s.ctxOf k x).acc true) va = .ok l → s.taskOf k = some tk → tk.spec = true → l.space ≠ 1 →
    s.vroom k tk va n = true → s.conflicts tk (va / 64) = [] → va % 64 + n ≤ 64 →
    ∃ t u, exec (.postedStorePerformed k x 0 die) s = .next t ∧ SameMemory t s ∧
      t.ctxOf k x = (s.ctxOf k x).dropAccess a.wid ∧ (t.core k).sp = (s.core k).sp ∧ (t.core k).posted = (s.core k).posted ∧
      t.vlineOf tk.part tk.seq (va / 64) = some u ∧
      (∀ i, i < n → u.holds (va % 64 + i) = true ∧ u.byte (va % 64 + i) = (leBytes n v.toNat).getD i 0) ∧
      (∀ i, i < 64 → (i < va % 64 ∨ va % 64 + n ≤ i) →
        match s.vlineOf tk.part tk.seq (va / 64) with
        | some o => u.holds i = o.holds i ∧ u.byte i = o.byte i
        | none => u.holds i = false) ∧
      ∀ p q l, (p, q, l) ≠ (tk.part, tk.seq, va / 64) → t.vlineOf p q l = s.vlineOf p q l) ∧
  (∀ (k : Nat) x s n die p, k < 384 → (s.core k).posted[n]? = some p → s.portOpen ⟨p.space, p.addr⟩ = true →
    (∀ q, q ∈ (s.core k).posted.take n → q.space = p.space → meets q.addr q.data.length p.addr p.data.length = false) →
    ∃ t, exec (.postedStorePerformed k x (n + 1) die) s = .next t ∧ SameMemory t (performed s ⟨p.space, p.addr⟩ p.va p.data k p.ctx p.wid))

/-- WRITE_IN_FLIGHT_COMPLETES lands the word's writes and lets its signals leave, each as R196 and R348 let it (R66, R75): a
token enters its FIFO, and a counter goes up; one that holds 65,535 keeps that, and its error flag is set (R68 says so of engine and
remote increments; that a retiring word's does likewise is the model's choice, assumption 61). FORCED_STOP_POINT
lands every write in flight, counts in SPACEOVR, which saturates, and starts the STOP count again (R72). -/
def Obligations.WritesLandAndWordsRetire : Prop :=
  (∀ (k : Nat) x wid s, k < 384 → (s.ctxOf k x).exposed = false → TkFits (s.core k) →
    ∃ t, exec (.writeInFlightCompletes k x wid) s = .next t ∧
      (t.ctxOf k x).flights = (s.ctxOf k x).flights.filter fun f => !(f.wid == wid && (s.ctxOf k x).firstOfKind f)) ∧
  (∀ (k : Nat) x wid s (l : List Sig), k < 384 → (s.ctxOf k x).flights = [] →
    l = (s.ctxOf k x).sigs.filter (fun g => g.wid == wid) → (∀ g, g ∈ l → (s.ctxOf k x).releasable x g = true) →
    TkFits (s.core k) →
    ∃ t, exec (.writeInFlightCompletes k x wid) s = .next t ∧
      (t.ctxOf k x).sigs = (s.ctxOf k x).sigs.filter (fun h => h.wid != wid) ∧
      (t.ctxOf k x).fifoP = (s.ctxOf k x).fifoP + (l.filter (·.pushp)).length ∧
      (t.ctxOf k x).fifoN = (s.ctxOf k x).fifoN + (l.filter (·.pushn)).length ∧
      ∀ n, (t.core k).tk n = { (s.core k).tk n with
        count := ((s.core k).tk n).count + (l.filter fun g => g.stk != 0 && g.stk.toNat == n).length }) ∧
  (∀ (k : Nat) x s g, k < 384 → (s.ctxOf k x).flights = [] → (s.ctxOf k x).sigs = [g] → (s.ctxOf k x).releasable x g = false →
    ∃ t, exec (.writeInFlightCompletes k x g.wid) s = .next t ∧ t = s) ∧
  (∀ (k : Nat) x s g, k < 384 → (s.ctxOf k x).flights = [] → (s.ctxOf k x).sigs = [g] → (s.ctxOf k x).releasable x g = true →
    g.stk ≠ 0 → 65535 ≤ ((s.core k).tk g.stk.toNat).count → NoReaders s →
    ∃ t, exec (.writeInFlightCompletes k x g.wid) s = .next t ∧ (t.core k).tk g.stk.toNat = ⟨65535, true⟩) ∧
  (∀ (k : Nat) x s, k < 384 → (s.ctxOf k x).run = .running → (s.ctxOf k x).nonStop = 48 → (s.ctxOf k x).attached = [] →
    bitOf ((s.core k).nextWord x) 63 = false → (s.core k).settled x = true → TkFits (s.core k) →
    ∃ t, exec (.forcedStopPoint k x) s = .next t ∧ (t.ctxOf k x).nonStop = 0 ∧ (t.ctxOf k x).flights = [] ∧
      (t.ctxOf k x).pc = (s.ctxOf k x).pc ∧
      (t.ctxOf k x).spaceovr = if (s.ctxOf k x).spaceovr = BitVec.allOnes 32 then (s.ctxOf k x).spaceovr
        else (s.ctxOf k x).spaceovr + 1)

/-- Engine commands of L and S: a finished one leaves its queue and its token counts (R229); RED and MSEND reach a core that
works for a task of the same partition (R241, R246); an STN's name and status arrive in its registers (R250, R251).
Collectives: the first contribution opens one, with what it says of it; a missing contribution times the whole out, and
no DST is written, in memory or in a scratchpad (the one record of the time-out is logged instead, assumption 65); a member whose
command has stood too long without a contribution of its own fails (R443 to R445). -/
def Obligations.EngineEvents : Prop :=
  (∀ (k : Nat) x id s e, k < 384 → s.engines k = true → (s.core k).eng? id = some e → e.fin = true → e.fail = none →
    (s.core k).completesNow e = true → s.tierClear (s.partOf k) e = true → s.writesDone k id = true → e.op ≠ .tspawn →
    ∃ t, exec (.engineCmdComplete k x id) s = .next t ∧
      ((∀ n, ((s.core k).tk n).count < 65535) → t = (s.updCore k fun c => c.dropEng id).updCore k fun c =>
        if e.tko = 0 then c else c.setTk e.tko.toNat { c.tk e.tko.toNat with count := (c.tk e.tko.toNat).count + 1 })) ∧
  (∀ (k : Nat) x id s e, k < 384 → s.engines k = true → (s.core k).eng? id = some e → e.fin = true → e.fail = none →
    (s.core k).completesNow e = true → s.tierClear (s.partOf k) e = true → s.writesDone k id = true → e.op = .tspawn → (∀ n, ((s.core k).tk n).count < 65535) →
    ∃ t, exec (.engineCmdComplete k x id) s = .next t ∧ (t.ctxOf k e.ctx).regs =
      (((s.ctxOf k e.ctx).arrive (rcdXd e.rcd) (if e.aux = 0 then e.name else 0)).arrive (rcdXs e.rcd) (w64 e.aux)).regs) ∧
  (∀ (k : Nat) x id s e op (t' : Nat), k < 384 → s.engines k = true → (s.core k).eng? id = some e → e.op = .red op →
    e.stage = 2 → e.open = true → s.target k e.rcd = .at t' → rcdOffset e.rcd + rcdLen e.rcd ≤ spSize →
    (s.core t').meetsWindow (rcdOffset e.rcd) (rcdLen e.rcd) = false →
    (s.core t').spLost (rcdOffset e.rcd) (rcdLen e.rcd) = false → ((s.core t').tk (rcdTtk e.rcd)).count < 65535 →
    ∃ t, exec (.redApply k x id) s = .next t ∧
      (t.core t').sp = applyRed op (s.core t').sp (rcdOffset e.rcd) (words32 e.buf) ∧ SameMemory t s ∧
      ((t.core k).eng? id).map (·.fin) = some true) ∧
  (∀ (k : Nat) x id s e (t' : Nat) r, k < 384 → s.engines k = true → (s.core k).eng? id = some e → e.op = .msend →
    e.stage = 2 → e.open = true → s.firstMessage k e = true → s.target k e.rcd = .at t' →
    (s.core t').mq (rcdTmq e.rcd) = some r → rcdLen e.rcd + 64 ≤ r.size → r.slot r.claim = .empty →
    ((s.core t').tk (rcdTtk e.rcd)).count < 65535 →
    ∃ t, exec (.msendGrant k x id) s = .next t ∧
      (t.core t').sp = (s.core t').sp.setBytes (r.base + r.claim % r.slots * r.size)
        (msgHeader (rcdLen e.rcd) k (s.core k).rank ++ e.buf) ∧
      (t.core t').mq (rcdTmq e.rcd) = some { r.setSlot r.claim .full with claim := r.claim + 1 } ∧ SameMemory t s) ∧
  (∀ (k : Nat) x id s e status, k < 384 → s.engines k = true → (s.core k).eng? id = some e → e.op = .stn status →
    e.stage = 2 ∨ e.stage = 3 →
    (∀ y, y ∈ (s.ctxOf k e.ctx).engq.takeWhile (fun y => y.id != id) → ∀ b, y.op = .stn b → 4 ≤ y.stage) →
    ∃ t, exec (.stnNameReturn k x id) s = .next t ∧ SameMemory t s ∧ (t.ctxOf k e.ctx).regs =
      (if status then ((s.ctxOf k e.ctx).arrive (rcdXd e.rcd) e.name).arrive (rcdXs e.rcd) (w64 e.aux)
        else (s.ctxOf k e.ctx).arrive (rcdXd e.rcd) e.name).regs) ∧
  (∀ (k : Nat) x id s e form rank, k < 384 → s.engines k = true → (s.core k).eng? id = some e → e.op = .coll form →
    e.stage = 2 → e.open = true → s.collRank (s.partOf k) (collGroup e.rcd) k = some rank →
    s.colls.find? (fun c => c.is (s.partOf k) (collGroup e.rcd) (collNum e.rcd)) = none →
    ∃ t, exec (.collContribution k x id) s = .next t ∧ SameMemory t s ∧
      t.colls = s.colls ++ [⟨s.partOf k, collGroup e.rcd, collNum e.rcd, form, collLen e.rcd, collOp e.rcd, collRoot e.rcd,
        s.groupSize (s.partOf k) (collGroup e.rcd), [⟨rank, e.buf, k, e.ctx, id, true⟩], s.now, 0, e.limit⟩]) ∧
  (∀ p g n s c, s.boot.safe = false → s.colls.find? (fun c => c.is p g n) = some c → c.state = 0 → c.got.length < c.n →
    c.limit ≤ s.now - c.since →
    ∃ t, exec (.collDeadlineExpire p g n) s = .next t ∧
      (t.colls.find? fun c => c.is p g n) = some { c with state := 2 } ∧
      (NoReaders s → OnlyRecord s t p ∧ ∀ k, (t.core k).sp = (s.core k).sp)) ∧
  (∀ (k : Nat) x id s e form, k < 384 → s.engines k = true → (s.core k).eng? id = some e → e.op = .coll form → e.stage < 4 →
    e.fail = none → 2 * e.limit ≤ s.now - e.aux →
    ∃ t, exec (.collMemberTimeout k x id) s = .next t ∧ SameMemory t s ∧
      ((t.core k).eng? id).bind (·.fail) =
        some { cause := .rtimeout, addr := w64 e.off, info := w64 (collNum e.rcd) })

/-- Matrix and ladder commands: at the head of the engine queue a tile command takes its format word, the first of the entries
issued before it, and the modes before that one act; with none, or with a word that its checks refuse, it fails, pops no word, and the
engine holds the later commands (R120, R122, R205, R211); at
acceptance its operand bytes are read, and a NaN scale sets CVNAN (R115); at completion its result stands in the tile and it leaves (R192, R206, R209, R458). A ladder command
that is done leaves its queue, and its word retires (R264). -/
def Obligations.EngineQueueEvents : Prop :=
  (∀ (k : Nat) s m w mine rest mode, k < 384 → s.engines k = true → (s.core k).headMat = some m →
    (m.op = .tgo ∨ m.op = .tgoG ∨ m.op = .tgoSp) → mine = (s.core k).fq.take (m.fqEnd - (s.core k).fqOut) →
    leadModes mine (s.core k).emode = (mode, .fmt w :: rest) →
    m.headTrap w = none → (m.accum = true → ((s.core k).tile m.acc).bad = false) →
    ({ m with fw := w, mode := mode, stage := 1 } : MatCmd).atoms ≤ 64 →
    ∃ t, exec (.tileCmdHead k) s = .next t ∧ (t.core k).fq = rest ++ (s.core k).fq.drop mine.length ∧
      (t.core k).fqOut = (s.core k).fqOut + (mine.length - rest.length) ∧ (t.core k).emode = mode ∧
      (t.core k).claimed = (s.core k).claimed - b2n m.claim ∧ ((t.core k).tile m.acc).cfmt = fwC w ∧
      (t.core k).matq = updFirst (fun x => x.id == m.id) (fun _ => { m with fw := w, mode := mode, stage := 1 }) (s.core k).matq) ∧
  (∀ (k : Nat) s m w mine rest mode tr, k < 384 → s.engines k = true → (s.core k).headMat = some m →
    (m.op = .tgo ∨ m.op = .tgoG ∨ m.op = .tgoSp) → mine = (s.core k).fq.take (m.fqEnd - (s.core k).fqOut) →
    leadModes mine (s.core k).emode = (mode, .fmt w :: rest) → m.headTrap w = some tr → TkFits (s.core k) →
    ∃ t, exec (.tileCmdHead k) s = .next t ∧ (t.core k).matHold = true ∧
      (t.core k).fq = .fmt w :: rest ++ (s.core k).fq.drop mine.length ∧ (t.core k).emode = mode ∧
      (t.core k).matq = delFirst (fun x => x.id == m.id) (s.core k).matq ∧
      (t.ctxOf k .X).attached = (s.ctxOf k .X).attached ++
        [s.record k Ctx.X.code tr true (s.ctxOf k .X).level m.pos 0 m.word]) ∧
  (∀ (k : Nat) s m mine mode, k < 384 → s.engines k = true → (s.core k).headMat = some m →
    (m.op = .tgo ∨ m.op = .tgoG ∨ m.op = .tgoSp) → mine = (s.core k).fq.take (m.fqEnd - (s.core k).fqOut) →
    leadModes mine (s.core k).emode = (mode, []) → TkFits (s.core k) →
    ∃ t, exec (.tileCmdHead k) s = .next t ∧ (t.core k).matHold = true ∧
      (t.core k).matq = delFirst (fun x => x.id == m.id) (s.core k).matq ∧ (t.core k).emode = mode ∧
      (t.ctxOf k .X).attached = (s.ctxOf k .X).attached ++
        [s.record k Ctx.X.code { cause := .fqunf } true (s.ctxOf k .X).level m.pos 0 m.word]) ∧
  (∀ (k : Nat) s m, k < 384 → s.engines k = true → (s.core k).headMat = some m → (m.op = .accst ∨ m.op = .accld) →
    ∃ t, exec (.tileCmdHead k) s = .next t ∧
      t = s.updCore k fun c => { c with matq := updFirst (fun x => x.id == m.id) (fun x => { x with stage := 1 }) c.matq }) ∧
  (∀ (k : Nat) s m, k < 384 → s.engines k = true → (s.core k).matHold = false →
    (s.core k).matq.find? (fun m => m.stage == 1 && (!m.asked || m.leave)) = some m →
    (m.op = .tgo ∨ m.op = .tgoG ∨ m.op = .tgoSp) →
    (s.core k).lostBlock (tgoSpans m.op m.nest m.m m.n m.kk m.groups m.fw) = none → TkFits (s.core k) →
    ∃ t, exec (.tileCmdAccept k) s = .next t ∧
      (t.core k).matq = updFirst (fun x => x.id == m.id) (fun _ => { m with snap := (s.core k).sp, stage := 2 }) (s.core k).matq ∧
      (t.core k).sp = (s.core k).sp ∧ (t.ctxOf k .X).sflags = (s.ctxOf k .X).sflags |||
        (if ({ m with snap := (s.core k).sp, stage := 2 } : MatCmd).scaleNaN then flagCVNAN else 0)) ∧
  (∀ (k : Nat) s m, k < 384 → s.engines k = true → (s.core k).matHold = false →
    (s.core k).matq.find? (fun m => m.stage == 1 && (!m.asked || m.leave)) = some m → m.op = .accst → TkFits (s.core k) →
    ∃ t, exec (.tileCmdAccept k) s = .next t ∧ (t.core k).sp = m.store ((s.core k).tile m.acc) (s.core k).sp ∧
      (t.core k).matq = delFirst (fun x => x.id == m.id) (s.core k).matq ∧ SameMemory t s) ∧
  (∀ (k id : Nat) s m, k < 384 → s.engines k = true →
    (s.core k).matq.find? (fun m => m.id == id && m.stage == 2) = some m → (s.core k).mayComplete m = true →
    ∃ t, exec (.tileCmdComplete k id) s = .next t ∧ (t.core k).matq = delFirst (fun x => x.id == id) (s.core k).matq ∧
      (m.op = .accz → ((t.core k).tile m.acc).els = (m.zero ((s.core k).tile m.acc)).els) ∧
      ((m.op = .tgo ∨ m.op = .tgoG ∨ m.op = .tgoSp) →
        ((t.core k).tile m.acc).els = (m.apply ((s.core k).tile m.acc)).1.els) ∧
      (m.op = .accld → ((t.core k).tile m.acc).els = (m.load ((s.core k).tile m.acc)).els) ∧
      (∀ src add, m.op = .accmov src add → ((t.core k).tile m.acc).els =
        (m.move ((s.core k).tile m.acc) ((s.core k).tile src) add).els) ∧
      ((t.core k).tile m.acc).pend = ((s.core k).tile m.acc).pend - 1) ∧
  (∀ (k id : Nat) s m, k < 384 → s.engines k = true → (s.core k).ladq.find? (fun m => m.id == id) = some m →
    m.fail = none → m.stage = 8 → TkFits (s.core k) →
    ∃ t, exec (.ladderCmdComplete k id) s = .next t ∧ (t.core k).ladq = delFirst (fun m => m.id == id) (s.core k).ladq ∧
      SameMemory t s)

/-! ### Events: translation, pages and the scheduler (R288 to R310, R385 to R399, R418 to R439) -/

/-- R385, R387, R388: a walk may leave its leaf in the TLBs of the core and of its die, and the entries above it with the die's
walker; a window's translation may stay in the core's TLB; nothing else changes.
R391, R393: after a service the access or the engine goes on where the page is mapped, or where a walk finds it so, and else XLATE
is delivered there. -/
def Obligations.TranslationEvents : Prop :=
  (∀ (k va p : Nat) s w block (n : TlbEntry), k < 384 → s.hbmServed = true → (s.core k).status ≠ .free →
    p = s.partOf k → (s.part p).inWindow va = false → s.walkOn (dieOf k) p va = .leaf w block → leafMig w = false →
    n = ⟨p, false, block, va / (if block then 2 ^ 34 else 2 ^ 16), w⟩ →
    ∃ t, exec (.tlbWalk k va) s = .next t ∧ t = { s with cores := t.cores, tlb2 := t.tlb2, walks := t.walks } ∧
      (∀ j, t.core j = { s.core j with tlb := (t.core j).tlb }) ∧
      (∀ j e, e ∈ (t.core j).tlb → e ∈ (s.core j).tlb ∨ (j = k ∧ e = n)) ∧
      (∀ d e, e ∈ Sparse.get [] t.tlb2 d → e ∈ Sparse.get [] s.tlb2 d ∨ (d = dieOf k ∧ e = n)) ∧
      (∀ d e, e ∈ Sparse.get [] t.walks d → e ∈ Sparse.get [] s.walks d ∨
        (d = dieOf k ∧ e.part = p ∧ e.shift ∈ [47, 34, 29] ∧ e.key = va / 2 ^ e.shift))) ∧
  (∀ (k va p : Nat) s n, k < 384 → s.hbmServed = true → (s.core k).status ≠ .free → p = s.partOf k →
    (s.part p).inWindow va = true → s.windowEntry p va = some n →
    ∃ t, exec (.tlbWalk k va) s = .next t ∧ t = { s with cores := t.cores } ∧
      (∀ j, t.core j = { s.core j with tlb := (t.core j).tlb }) ∧
      (∀ j e, e ∈ (t.core j).tlb → e ∈ (s.core j).tlb ∨ (j = k ∧ e = n))) ∧
  (∀ (k id : Nat) s h mapped, k < 384 → (s.ctxOf k .L).accHalt = some h → h.failed = none →
    (mapped = true ∨ s.walksNow k h.va = true) →
    ∃ t, exec (.xlateService k 0 id mapped) s = .next t ∧ t = s.updCtx k .L fun c => { c with accHalt := none }) ∧
  (∀ (k id : Nat) s h mapped, k < 384 → (s.ctxOf k .S).accHalt = some h → h.failed = none →
    (mapped = true ∨ s.walksNow k h.va = true) →
    ∃ t, exec (.xlateService k 1 id mapped) s = .next t ∧ t = s.updCtx k .S fun c => { c with accHalt := none }) ∧
  (∀ (k id : Nat) s h a, k < 384 → (s.ctxOf k .L).accHalt = some h → h.failed = none → s.walksNow k h.va = false →
    (s.ctxOf k .L).accq.find? (fun a => a.wid == h.wid) = some a →
    ∃ t, exec (.xlateService k 0 id false) s = .next t ∧ (t.ctxOf k .L).accq = (s.ctxOf k .L).accq ∧
      (t.ctxOf k .L).attached = (s.ctxOf k .L).attached ++
        [s.record k 0 { cause := .xlate, addr := w64 h.va, malf := h.malf } false (s.ctxOf k .L).level a.pos 0 a.word]) ∧
  (∀ (k who id : Nat) s e h mapped, k < 384 → (who = 2 ∨ who = 3 ∨ who = 4) → (s.core k).eng? id = some e → e.halt = some h →
    ∃ t, exec (.xlateService k who id mapped) s = .next t ∧ (t.core k).eng? id = some { e with
      halt := none
      fail := if mapped || s.walksNow k h.va then e.fail else some { cause := .xlate, addr := w64 h.va, malf := h.malf } })

namespace Sys2Proof.Machine

/-- A range of HBM holds nothing of a queue segment, whose header an abort may write (R421). -/
def OffQueues (s : State) (a n : Nat) : Prop := ∀ e, e ∈ s.parts → ∀ g, g ∈ e.2.segs → meets g.pa 65536 a n = false

/-- A page has been moved to `l`: its leaf, or for a page of a berth window the device's own record, says so (R384, R387, R395), its 64 KiB
stand there, the TLBs hold nothing of it, and no other byte of the memories has changed. (Where a write reaches a task's read set, its
abort may write the header of a queue segment besides: R296, R421.) -/
structure PageMoved (s t : State) (p va : Nat) (h : PageAt) (l : Loc) (hold : Bool) : Prop where
  known  : match h with
    | .leaf entry w => OffQueues s entry 8 → t.entry entry = leafMoved w l.space l.addr hold
    | .berth _ => t.movedTo p va = some l
  copied : (∀ entry w, h = .leaf entry w → l.space ≠ 0 ∨ entry + 8 ≤ l.addr ∨ l.addr + 65536 ≤ entry) →
    (l.space = 0 → OffQueues s l.addr 65536) →
    t.peek l.space l.addr 65536 = s.peek h.loc.space h.loc.addr 65536
  others : ∀ sp a n, sp < 4 → (sp ≠ l.space ∨ a + n ≤ l.addr ∨ l.addr + 65536 ≤ a) →
    (∀ entry w, h = .leaf entry w → sp ≠ 0 ∨ a + n ≤ entry ∨ entry + 8 ≤ a) → (sp = 0 → OffQueues s a n) →
    t.peek sp a n = s.peek sp a n
  tlbs   : (∀ k e, e ∈ (t.core k).tlb → (Shoot.page va).drops p e = false) ∧
    ∀ d e, e ∈ Sparse.get [] t.tlb2 d → (Shoot.page va).drops p e = false

end Sys2Proof.Machine

/-- R235, R395 to R398: page moves, the supervisor's answer to a FERRY.TIER, the end of a hold window, and the host's request. A
page comes from the second tier or from host memory, or goes there, through a host port that is up (R390, R440); the Ferry moves one
while its partition's slots serve it (R430, R432). -/
def Obligations.PageEvents : Prop :=
  (∀ (part va dest addr : Nat) s h, s.boot.safe = false → dest < 3 →
    s.mayMove part (va / 2 ^ 16) dest addr = true → s.movable part (va / 2 ^ 16 * 2 ^ 16) = some h →
    ((h.loc.space = 0 ∧ dest = 0) ∨ s.ports ≠ []) →
    ∃ t, exec (.pageMove part va dest addr) s = .next t ∧ s.devMig.filter (fun e => !(e.1 == part && e.2 == va / 2 ^ 16)) = t.devMig ∧
      PageMoved s t part (va / 2 ^ 16 * 2 ^ 16) h ⟨dest, addr⟩ false) ∧
  (∀ (k : Nat) x id s e (pa : Nat) h, k < 384 → s.engines k = true →
    (s.core k).ferry.find? (fun e => e.id == id && e.op == .ferryTier && e.stage == 2 && e.open) = some e →
    s.ferryServed (s.partOf k) = true → s.hbmServed = true → s.ports ≠ [] →
    pa % 2 ^ 16 = 0 → hbmOk pa = true → s.movable (s.partOf k) e.tierPage = some h → h.loc.space = 2 →
    s.lost 2 h.loc.addr 65536 = false →
    ∃ t, exec (.pageSupplyAnswer k x id (some pa)) s = .next t ∧
      PageMoved s t (s.partOf k) e.tierPage h ⟨0, pa⟩ false) ∧
  (∀ (k : Nat) x id s e h, k < 384 → s.engines k = true →
    (s.core k).ferry.find? (fun e => e.id == id && e.op == .ferryTier && e.stage == 2 && e.open) = some e →
    s.ferryServed (s.partOf k) = true → s.hbmServed = true → s.ports ≠ [] →
    s.movable (s.partOf k) e.tierPage = some h → h.loc.space = 2 →
    ∃ t, exec (.pageSupplyAnswer k x id none) s = .next t ∧ t = s.failEng k id { cause := .xlate, addr := w64 e.tierPage }) ∧
  (∀ (k : Nat) x id page s, k < 384 → s.engines k = true →
    (s.ferryServed (s.partOf k) = false ∨ s.hbmServed = false) → exec (.pageSupplyAnswer k x id page) s = .next s) ∧
  (∀ (part va : Nat) s h, s.boot.safe = false → s.holdOf part (va / 2 ^ 16) = some h → 2500000 ≤ s.now - h.since →
    ∃ t, exec (.holdWindowExpire part va) s = .next t ∧ t.holdOf part (va / 2 ^ 16) = none ∧
      (∀ a, h.device = false → (s.part part).inWindow (va / 2 ^ 16 * 2 ^ 16) = false → OffQueues s a 8 →
        s.leafEntry part (va / 2 ^ 16 * 2 ^ 16) = some a → entryType (s.entry a) = 3 →
        t.entry a = s.entry a &&& ~~~(0x800 : Word))) ∧
  (∀ (part va : Nat) s h, s.holdOf part (va / 2 ^ 16) = some h → s.now - h.since < 2500000 →
    exec (.holdWindowExpire part va) s = .next s) ∧
  (∀ (mva : Nat) dir (part : Nat) s mv ct, s.boot.safe = false → s.mbox.res ≠ 0 →
    s.holdOf (part % 16) (mva / 2 ^ 16 % 2 ^ 36) = none → s.devMig.contains (part % 16, mva / 2 ^ 16 % 2 ^ 36) = false →
    mv = w64 (mva / 2 ^ 16 % 2 ^ 36 * 2 ^ 16) → ct = w64 (b2n dir * 2 ^ 8 + part % 16) →
    ∃ t, exec (.migrationGo mva dir part) s = .next t ∧ t = { s with mbox := ⟨mv, ct, 0, mv, ct⟩ }) ∧
  (∀ (mva : Nat) dir (part : Nat) s, s.boot.safe = false → s.mbox.res = 0 →
    ∃ t, exec (.migrationGo mva dir part) s = .next t ∧ t = { s with mbox :=
      { s.mbox with mva := w64 (mva / 2 ^ 16 % 2 ^ 36 * 2 ^ 16), ctl := w64 (b2n dir * 2 ^ 8 + part % 16) } })

namespace Sys2Proof.Machine

/-- A task holds one more reservation: it is PLACED with its cores once it has them all, they are its partition's, and it may be
placed, else it still reserves (R288, R290, R418, R426). -/
def Reserved (s t : State) (tk : Task) (k : Nat) : Prop :=
  if s.gathered { tk with got := insertNat k tk.got, reqs := tk.reqs.filter (· != k) } = true ∧
      s.mayPlace { tk with got := insertNat k tk.got, reqs := tk.reqs.filter (· != k) } = true then
    (∃ u, t.task? tk.seq = some u ∧ u.st = .placed ∧ u.target = tk.target) ∧
      ∀ j, j ∈ tk.target → (t.core j).status = .placed ∧ (t.core j).task = tk.seq
  else t = s.setTask { tk with got := insertNat k tk.got, reqs := tk.reqs.filter (· != k) }

end Sys2Proof.Machine

/-- R424 to R428: the partition's next candidate, with its target set, asks for its cores, once the device is ready, HOLD is clear
and the released cores have gone to the requests that wait for them; a die agent gives a core that
nothing reserves, takes one from a later task, and lets a request wait for an earlier one, or for one that is not the partition's; a
released core goes to the earliest task that waits for it. Which places of the device are owed to whom longest waits (markCrowded,
turnOf) is the model's reading (assumption 38), and so is what keeps a task that holds its cores from being placed (mayPlace,
assumption 50). -/
def Obligations.ReservationEvents : Prop :=
  (∀ (part : Nat) s u tk ks, u = ((s.handAll part).placeHeld part).markCrowded → u.boot.ready = true → (u.part part).hold = false →
    u.candidate part = some tk → u.targetOf tk = some ks → u.turnOf tk = true →
    ∃ t, exec (.taskSelect part) s = .next t ∧
      t = ((u.takePlace tk).setTask { tk with st := .reserving, target := ks, got := [], reqs := ks }).markCrowded) ∧
  (∀ (part : Nat) s u, u = ((s.handAll part).placeHeld part).markCrowded → (u.boot.ready = false ∨ (u.part part).hold = true) →
    exec (.taskSelect part) s = .next u) ∧
  (∀ (q k : Nat) s u tk, k < 384 → u = s.handOver k → u.task? q = some tk → tk.st = .reserving →
    tk.reqs.contains k = true → (u.core k).status = .free → u.owns tk.part k = true → u.reserver k = none →
    ∃ t, exec (.reservationRequest q k) s = .next t ∧ Reserved u t tk k) ∧
  (∀ (q k : Nat) s u tk v, k < 384 → u = s.handOver k → u.task? q = some tk → tk.st = .reserving →
    tk.reqs.contains k = true → (u.core k).status = .free → u.owns tk.part k = true → u.reserver k = some v → tk.before v = true → v.seq ≠ tk.seq →
    ∃ t w, exec (.reservationRequest q k) s = .next t ∧ t.task? v.seq = some w ∧ w.st = .waiting ∧ w.got = [] ∧
      Reserved (u.revoke v) t tk k) ∧
  (∀ (q k : Nat) s u tk, k < 384 → u = s.handOver k → u.task? q = some tk → tk.st = .reserving →
    tk.reqs.contains k = true → ((u.core k).status ≠ .free ∨ u.owns tk.part k = false ∨ ∃ v, u.reserver k = some v ∧ tk.before v = false) →
    ∃ t, exec (.reservationRequest q k) s = .next t ∧ t = u.setTask { tk with reqs := tk.reqs.filter (· != k) }) ∧
  (∀ (k : Nat) s tk, k < 384 → (s.core k).status = .free → s.reserver k = none →
    earliest (s.allTasks.filter fun t => t.waitsFor k && s.owns t.part k) = some tk →
    ∃ t, exec (.coreRelease k) s = .next t ∧ Reserved s t tk k)

namespace Sys2Proof.Machine

/-- Every task is listed under its own sequence number. -/
def TasksByNumber (s : State) : Prop := ∀ e, e ∈ s.tasks → e.2.seq = e.1

end Sys2Proof.Machine

/-- R52 to R55, R414: the distributor gives every core its list or refuses the launch; a core starts in its start state, or as its
save area says. No core starts before the device's start is done (R449). How a field stands in its place of the save area, where
R413 does not say, is the model's choice (assumption 41). -/
def Obligations.StartEvents : Prop :=
  (∀ (q : Nat) s tk lv (e : Nat) bs n body m, TasksByNumber s → s.task? q = some tk → tk.st = .placed → tk.ragged = false →
    hdrRagged tk.hdr = some (lv, e) →
    s.readIn ((s.coresOf tk.seq).headD sequencer) tk.part (tk.acc false) (tk.args.toNat + hdrGoff tk.hdr)
      (4 * hdrGroups tk.hdr) = .ok bs n →
    s.imageBody ((s.coresOf tk.seq).headD sequencer) tk = .ok body m →
    ((words32 bs).any fun v => decide (65535 < ceilDiv v (hdrChunk tk.hdr))) = false →
    (((distribute e (hdrChunk tk.hdr) (words32 bs)).map chunkBytes).any fun l =>
      listBad tk.hdr (bodyRecords tk.hdr body) l.length) = false →
    ∃ t u, exec (.raggedDistribute q) s = .next t ∧ t.task? tk.seq = some u ∧ u.st = .placed ∧ u.ragged = true ∧
      ∀ i, i < e → Sparse.get [] u.lists i = chunkBytes ((distribute e (hdrChunk tk.hdr) (words32 bs)).getD i [])) ∧
  (∀ (q : Nat) s tk lv e bs n body m, TasksByNumber s → s.task? q = some tk → tk.st = .placed → tk.ragged = false →
    hdrRagged tk.hdr = some (lv, e) →
    s.readIn ((s.coresOf tk.seq).headD sequencer) tk.part (tk.acc false) (tk.args.toNat + hdrGoff tk.hdr)
      (4 * hdrGroups tk.hdr) = .ok bs n →
    s.imageBody ((s.coresOf tk.seq).headD sequencer) tk = .ok body m →
    ((words32 bs).any fun v => decide (65535 < ceilDiv v (hdrChunk tk.hdr))) = true → s.wordReady tk = true →
    ∃ t, exec (.raggedDistribute q) s = .next t ∧ t.task? tk.seq = none) ∧
  (∀ (k : Nat) s tk body n, k < 384 → s.boot.ready = true → s.taskOf k = some tk → (s.core k).status = .placed → tk.st = .placed →
    tk.ragged = true → s.gated.contains (quadOf k) = false → tk.left.contains (s.core k).rank = false →
    Sparse.find tk.saved (s.core k).rank = none → s.imageBody k tk = .ok body n → (s.core k).msgs = [] →
    (s.core k).halted = false →
    ∃ t, exec (.coreStart k) s = .next t ∧ (∀ j, j ≠ k → t.core j = s.core j) ∧ (t.core k).status = .active ∧
      (∀ x, (t.ctxOf k x).run = .running ∧ (t.ctxOf k x).pc = 0 ∧ (t.ctxOf k x).exposed = false ∧
        (t.ctxOf k x).level = tk.level ∧ (t.ctxOf k x).window = ((hdrWindow tk.hdr x).1, 8 * ((hdrWindow tk.hdr x).2 / 8)) ∧
        (t.ctxOf k x).reg 60 = w64 (s.core k).rank ∧ (t.ctxOf k x).reg 63 = tk.args ∧
        ∀ y : Reg, y.toNat < 60 → (t.ctxOf k x).reg y = 0) ∧
      (∀ j, (t.core k).tk j = ⟨0, false⟩ ∧ (t.core k).exa j = ⟨0, .finite, false, false⟩ ∧ (t.core k).ring j = none) ∧
      (t.core k).sp = startSp tk.hdr body (tk.listOf (s.core k).rank)) ∧
  (∀ (k : Nat) s tk d base, k < 384 → s.boot.ready = true → s.taskOf k = some tk → (s.core k).status = .placed → tk.st = .placed →
    tk.ragged = true → s.gated.contains (quadOf k) = false → tk.left.contains (s.core k).rank = false →
    Sparse.find tk.saved (s.core k).rank = some d → base = Sparse.get 0 tk.areas (s.core k).rank → (s.core k).msgs = [] →
    s.ferryServed tk.part = true → s.hbmServed = true →
    ∃ t, exec (.coreStart k) s = .next t ∧ (∀ j, j ≠ k → t.core j = s.core j) ∧
      (∀ x m, m = s.hbm.num (base + (0x400 * x.code + 0x200)) 8 →
        (t.ctxOf k x).pc = m % 2 ^ 16 % (d.ctx x).wwords ∧ ((t.ctxOf k x).exposed = true ↔ m / 2 ^ 16 % 2 = 1) ∧
        (t.ctxOf k x).slack = m / 2 ^ 32 % 16 ∧
        ∀ y : Reg, y ≠ 0 → (t.ctxOf k x).reg y = w64 (s.hbm.num (base + (0x400 * x.code + 8 * y.toNat)) 8)) ∧
      (∀ n v, 1 ≤ n → n < 32 → v = s.hbm.num (base + (0xC40 + 8 * (n - 1))) 8 →
        (t.core k).tk n = ⟨v % 2 ^ 16, v / 2 ^ 16 % 2 == 1⟩) ∧
      (t.core k).sp.bytes 0 spSize = s.hbm.bytes (base + 0x290000) spSize) ∧
  (∀ (k : Nat) s, k < 384 → s.boot.ready = false → exec (.coreStart k) s = .next s)

/-- R80, R303: a DRAINING core whose operations have completed leaves its gang, and with the last one the task is DONE; a DONE
frontier commits and is gone. -/
def Obligations.EndEvents : Prop :=
  (∀ (k : Nat) s tk, k < 384 → s.taskOf k = some tk → TasksByNumber s → (s.core k).status = .draining →
    (s.core k).untrapped = true → s.engines k = true → (s.core k).faulty = none → s.drained k = true →
    (∀ tab n g b, tk.origin ≠ .node tab n g b) →
    ∃ t u, exec (.coreDrainDone k) s = .next t ∧ t.core k = (s.core k).cleared ∧ (∀ j, j ≠ k → t.core j = s.core j) ∧
      t.task? tk.seq = some u ∧ u.left = insertNat (s.core k).rank tk.left ∧
      (t.coresOf tk.seq = [] → u.st = .done)) ∧
  (∀ (part : Nat) s tk, s.front part = some tk → TasksByNumber s → tk.st = .done → (s.lostLines tk = false ∨ tk.failed = true) →
    s.canFlush tk = true → s.wordReady tk = true → s.released tk = true →
    ∃ t, exec (.taskCommit part) s = .next t ∧ t.task? tk.seq = none ∧ (t.part part).lastTs = tk.ts ∧
      ∀ v, v ∈ t.binds → v.task ≠ tk.seq)

/-! ### Events: the supervisor's answers (R69, R301, R406 to R412, R417) -/

namespace Sys2Proof.Machine

/-- A context as it continues at `pc`: a halted core's waits for RESUME (R376, R407, R415). -/
def resumed (c : CtxSt) (halted : Bool) (pc : Nat) : CtxSt :=
  { c with run := if c.ended then .exited else if halted then .held else .running
           pc := pc, blocked := false, pair := none, accHalt := none }

end Sys2Proof.Machine

/-- R69, R411: when a core has stood for 2^20 cycles, blocked on tokens and queues that nothing on its way can fill, DEADLK stops
every context that has not executed EXIT, before its blocked word, with one cause; in a speculative task it parks the task (R301).
R407, R409 to R411: a context whose cause is answered with RESUME continues at its resume point, but for a cause taken inside a
handler; SYSC above 0 has its result in x56 and its status in x57, inside a handler too, which is the model's choice beside R409
(assumption 89); SYSC 0 ends a reflection, or takes ILLOP where there is none; DEADLK's contexts continue together. -/
def Obligations.StuckAndResumedTasks : Prop :=
  (∀ (k : Nat) s, k < 384 → (s.core k).status = .active → (s.core k).deadlocked = true → (s.core k).mustStop = false →
    (s.core k).landedAll = true → s.coreQuiet k = true → 2 ^ 20 ≤ (s.core k).still → s.isSpec k = false → NoReaders s →
    ∃ t, ∃ r : FaultRecord, exec (.deadlk k) s = .next t ∧ r.cause = .deadlk ∧
      r.info = w64 (((s.core k).unended.map fun x => 2 ^ x.code).sum) ∧ r.ctx = 3 ∧
      ∀ x, (t.ctxOf k x).run = if (s.ctxOf k x).ended then (s.ctxOf k x).run else .trapped { r with resume := (s.ctxOf k x).pc }) ∧
  (∀ (k : Nat) s tk, k < 384 → (s.core k).status = .active → (s.core k).deadlocked = true → (s.core k).mustStop = false →
    (s.core k).landedAll = true → s.coreQuiet k = true → 2 ^ 20 ≤ (s.core k).still → s.taskOf k = some tk → tk.spec = true →
    ∃ t u, exec (.deadlk k) s = .next t ∧ t.task? tk.seq = some u ∧ u.st = .parked) ∧
  (∀ (k : Nat) s, k < 384 → ((s.core k).status ≠ .active ∨ (s.core k).deadlocked = false ∨ (s.core k).landedAll = false ∨
      s.coreQuiet k = false ∨ (s.core k).still < 2 ^ 20) →
    exec (.deadlk k) s = .next s) ∧
  (∀ (k : Nat) x x56 x57 s r, k < 384 → (s.ctxOf k x).run = .trapped r → r.cause ≠ .deadlk → r.cause ≠ .sysc →
    (s.ctxOf k x).frame = none →
    ∃ t, exec (.supervisorResume k x x56 x57) s = .next t ∧ (∀ j, j ≠ k → t.core j = s.core j) ∧
      t.ctxOf k x = resumed (s.ctxOf k x) (s.core k).halted r.resume ∧ ∀ y, y ≠ x → t.ctxOf k y = s.ctxOf k y) ∧
  (∀ (k : Nat) x x56 x57 s r, k < 384 → (s.ctxOf k x).run = .trapped r → r.cause ≠ .deadlk → r.cause ≠ .sysc →
    (s.ctxOf k x).frame ≠ none → exec (.supervisorResume k x x56 x57) s = .next s) ∧
  (∀ (k : Nat) x x56 x57 s r, k < 384 → (s.ctxOf k x).run = .trapped r → r.cause = .sysc → r.info ≠ 0 →
    ∃ t, exec (.supervisorResume k x x56 x57) s = .next t ∧ (∀ j, j ≠ k → t.core j = s.core j) ∧
      t.ctxOf k x = resumed (((s.ctxOf k x).setReg 56 x56).setReg 57 x57) (s.core k).halted r.resume ∧
      ∀ y, y ≠ x → t.ctxOf k y = s.ctxOf k y) ∧
  (∀ (k : Nat) x x56 x57 s r f, k < 384 → (s.ctxOf k x).run = .trapped r → r.cause = .sysc → r.info = 0 →
    (s.ctxOf k x).frame = some f →
    ∃ t, exec (.supervisorResume k x x56 x57) s = .next t ∧ (t.ctxOf k x).frame = none ∧ (t.ctxOf k x).exposed = false ∧
      (t.ctxOf k x).slack = 0 ∧ (t.ctxOf k x).run = (if (s.core k).halted then .held else .running) ∧
      (t.ctxOf k x).pc = ((s.ctxOf k x).reg 59).toNat % (s.ctxOf k x).wwords ∧
      ∀ y, (t.ctxOf k x).reg y = if y = 56 then f.x56 else if y = 57 then f.x57 else if y = 58 then f.x58
        else if y = 59 then f.x59 else (s.ctxOf k x).reg y) ∧
  (∀ (k : Nat) x x56 x57 s r, k < 384 → (s.ctxOf k x).run = .trapped r → r.cause = .sysc → r.info = 0 →
    (s.ctxOf k x).frame = none → NoReaders s →
    ∃ t q, exec (.supervisorResume k x x56 x57) s = .next t ∧ (t.ctxOf k x).run = .trapped q ∧ q.cause = .illop ∧
      q.resume = r.pos ∧ q.word = r.word) ∧
  (∀ (k : Nat) x x56 x57 s r, k < 384 → (s.ctxOf k x).run = .trapped r → r.cause = .deadlk →
    ∃ t, exec (.supervisorResume k x x56 x57) s = .next t ∧
      (∀ y q, (s.ctxOf k y).run = .trapped q → q.cause = .deadlk →
        t.ctxOf k y = resumed (s.ctxOf k y) (s.core k).halted q.resume) ∧
      (∀ y, (∀ q, (s.ctxOf k y).run = .trapped q → q.cause ≠ .deadlk) → t.ctxOf k y = s.ctxOf k y))

/-- R407, R408: a reflected cause enters the handler with its record in x56 to x59 and the old values in the frame; a task that
ends with FAULT stops on all its cores, keeps the stores that it has issued, which are performed as the cores drain (R80; which of its
accesses outlive the end is the model's reading, assumption 37), is marked failed, and has its completion record written where a launch queue asked for it (R437). -/
def Obligations.ReflectAndEnd : Prop :=
  (∀ (k : Nat) x s r (h : Nat), k < 384 → (s.ctxOf k x).run = .trapped r → h = (s.core k).handler x r.cause →
    r.cause.reflectable = true → (s.ctxOf k x).frame = none → (s.ctxOf k x).ended = false → (s.core k).status = .active →
    h / 2 ^ 15 = 1 →
    ∃ t, exec (.supervisorReflect k x) s = .next t ∧ (∀ j, j ≠ k → t.core j = s.core j) ∧ (t.ctxOf k x).pc = h % 2 ^ 14 ∧
      (t.ctxOf k x).run = (if (s.core k).halted then .held else .running) ∧ (t.ctxOf k x).exposed = false ∧
      (t.ctxOf k x).slack = 0 ∧
      (t.ctxOf k x).frame = some ⟨(s.ctxOf k x).reg 56, (s.ctxOf k x).reg 57, (s.ctxOf k x).reg 58, (s.ctxOf k x).reg 59⟩ ∧
      ∀ y, (t.ctxOf k x).reg y = if y = 56 then r.words.getD 0 0 else if y = 57 then r.addr else if y = 58 then r.info
        else if y = 59 then w64 r.resume else (s.ctxOf k x).reg y) ∧
  (∀ (q : Nat) s tk, s.task? q = some tk → tk.st = .running → s.trapped q = true →
    ∃ t u, exec (.supervisorEndFault q) s = .next t ∧ t.task? tk.seq = some u ∧ u.failed = true ∧
      SameMemory t { s with host := t.host } ∧
      ((tk.failed = true ∨ ∀ qu tag irq, tk.origin ≠ .host qu tag irq) → t.host = s.host) ∧
      (∀ qu tag irq b, tk.failed = false → tk.origin = .host qu tag irq → b = s.queue? qu →
        t.host = s.host.setBytes (field b.cbase 6 58 * 64 + 32 * (b.ctail.toNat % 2 ^ field b.ctl 0 4))
          (completionBytes b.ctail.toNat (field b.ctl 0 4) qu tag tk.seq 5)) ∧
      (∀ k, k ∈ s.coresOf tk.seq → ((s.core k).status = .active → (t.core k).status = .draining) ∧
        ∀ x, (t.ctxOf k x).ended = true ∧ (t.ctxOf k x).flights = [] ∧ (t.ctxOf k x).loops = [] ∧
          ∀ a, a ∈ (t.ctxOf k x).accq ↔ a ∈ (s.ctxOf k x).accq ∧ a.op.outlives = true ∧
            ∀ h, (s.ctxOf k x).accHalt = some h → h.failed ≠ none → h.wid ≠ a.wid) ∧
      (∀ k, k ∉ s.coresOf tk.seq → t.core k = s.core k)) ∧
  (∀ (q : Nat) s tk, s.task? q = some tk → (tk.st ≠ .running ∨ s.trapped q = false) →
    exec (.supervisorEndFault q) s = .next s)

/-- R412, R413, R417: a gang whose cores have stopped and drained is saved, each core's state in its area, and goes back to its
queue; a speculative one is aborted instead (R301), but never a frontier that is still to take up its place (R78, R290); an error of memory that no word consumes is logged. -/
def Obligations.SaveAndScrub : Prop :=
  (∀ (q area : Nat) s tk, s.task? q = some tk → TasksByNumber s → NoReaders s → tk.st = .running → tk.spec = false →
    (s.coresOf q).any (fun k => (s.core k).preReq) = true → (∀ k, k ∈ s.coresOf q → s.saveReady k = true) →
    s.ferryServed tk.part = true → s.hbmServed = true → (∀ k, k ∈ s.coresOf q → areaOk (tk.areaOf area (s.core k).rank) = true) →
    ∃ t u, exec (.preemptSave q area) s = .next t ∧ t.task? q = some u ∧ u.st = .waiting ∧
      (∀ k, k ∈ s.coresOf q → (t.core k).status = .free) ∧ (∀ k, k ∉ s.coresOf q → t.core k = s.core k)) ∧
  (∀ (q area k : Nat) s tk, s.task? q = some tk → NoReaders s → tk.st = .running → tk.spec = false → s.coresOf q = [k] →
    (s.core k).preReq = true → s.saveReady k = true → s.ferryServed tk.part = true → s.hbmServed = true → areaOk (tk.areaOf area (s.core k).rank) = true →
    field ((s.part (s.partOf k)).reg 11) 16 30 = 0 →
    ∃ t, exec (.preemptSave q area) s = .next t ∧
      (∀ o b, o < saveSize → saveByte (s.core k) o = some b → t.hbm.byte (tk.areaOf area (s.core k).rank + o) = b) ∧
      (∀ a, a < tk.areaOf area (s.core k).rank ∨ tk.areaOf area (s.core k).rank + saveSize ≤ a → t.hbm.byte a = s.hbm.byte a)) ∧
  (∀ (q area : Nat) s tk, s.task? q = some tk → tk.st = .running → tk.spec = true →
    (s.coresOf q).any (fun k => (s.core k).preReq) = true →
    exec (.preemptSave q area) s = .next (if s.isFront tk then s else s.abort q)) ∧
  (∀ (part kind addr : Nat) s (base n : Nat), s.boot.safe = false → base = field ((s.part (part % 16)).reg 11) 16 30 * 2 ^ 16 →
    n = (s.part (part % 16)).flogp.toNat % (2 ^ field ((s.part (part % 16)).reg 11) 0 4 * 1024) →
    ∃ t, ∃ r : FaultRecord, exec (.scrubError part kind addr) s = .next t ∧ r.cause = .eccu ∧ r.part = part % 16 ∧ r.addr = w64 addr ∧
      r.info = w64 kind ∧ (NoReaders s → t.hbm = if base = 0 then s.hbm else s.hbm.setBytes (base + 64 * n) r.bytes) ∧
      (∀ a, OffQueues s a 1 →
        t.hbm.byte a = (if base = 0 then s.hbm else s.hbm.setBytes (base + 64 * n) r.bytes : Memory).byte a) ∧
      (t.part (part % 16)).flogp = (s.part (part % 16)).flogp + (if base = 0 then 0 else 1))

/-! ### Events: registers and launch queues (R366 to R368, R412, R422, R429, R433 to R439) -/

/-- R366 to R368, R412, R422, R429: the scheduler's registers take the values that their fields allow, and no others.
R364, R433, R439, R450: writes of the registers that have no row of their own. The offsets 0x100000, 0x200000, 0x300000 and 0x400000
are the model's numbers for the landing processors' register port (assumption 46), and how that port takes the operations is its
reading (assumptions 56 and 75). A partition register written so waits, behind those before it, for the partition to empty (R379). -/
def Obligations.RegisterWrites : Prop :=
  (∀ (p : Nat) v s, p < 16 → exec (.specdepthWrite p v) s =
    .next (if 1 ≤ v.toNat ∧ v.toNat ≤ 2048 then s.updPart p fun q => { q with specdepth := v } else s)) ∧
  (∀ (p : Nat) v s, p < 16 → exec (.vbquotaWrite p v) s =
    .next (if v.toNat ≤ 2 ^ 20 then s.updPart p fun q => { q with vbquota := v } else s)) ∧
  (∀ (p : Nat) v s, p < 16 → exec (.reddlWrite p v) s =
    .next (if 1 ≤ v.toNat ∧ v.toNat < 65536 then s.updPart p fun q => { q with reddl := v } else s)) ∧
  (∀ (p : Nat) v s, p < 16 → exec (.ptbaseWrite p v) s =
    .next (if v.toNat < 2 ^ 52 ∧ v.toNat % 64 = 0 then s.updPart p fun q => { q with ptbase := v } else s)) ∧
  (∀ (p : Nat) v s, p < 16 → specialOk 0x8010 v = some true → bitOf v 0 = true → (s.part p).waiting = [] →
    ∃ t, exec (.tqspareWrite p v) s = .next t ∧
      t = s.updPart p fun q => { q with tqhead := v &&& ~~~(2 : Word), tqfull := false }) ∧
  (∀ (p : Nat) v s, p < 16 → specialOk 0x8010 v = some true → bitOf v 0 = false → bitOf v 1 = true →
    ∃ t, exec (.tqspareWrite p v) s = .next t ∧ (t.part p).waiting = [] ∧ (t.part p).tqfull = false) ∧
  (∀ (p : Nat) hold s, p < 16 → exec (.schctlHold p hold) s = .next (s.updPart p fun q => { q with hold := hold })) ∧
  (∀ (p : Nat) s tk, p < 16 → s.front p = some tk → tk.st = .running →
    ∃ t, exec (.schctlPre p) s = .next t ∧ (t.part p).pre = true ∧ (t.part p).hold = (s.part p).hold ∧
      ∀ k, t.core k = if k ∈ s.coresOf tk.seq then { s.core k with preReq := true } else s.core k) ∧
  (∀ (p : Nat) s, p < 16 → (∀ tk, s.front p = some tk → tk.st ≠ .running) →
    ∃ t, exec (.schctlPre p) s = .next t ∧ t = s.updPart p id) ∧
  (∀ (off : Nat) v s, s.boot.safe = true → exec (.registerWrite off v) s = .next s) ∧
  (∀ (q : Nat) v s, s.boot.safe = false → q < 32 →
    (∃ t, exec (.registerWrite (0x20000 + 64 * q) v) s = .next t ∧ t = s.updQueue q fun b => { b with ebase := v &&& ~~~(0x3F : Word) }) ∧
    (∃ t, exec (.registerWrite (0x20008 + 64 * q) v) s = .next t ∧ t = s.updQueue q fun b => { b with cbase := v &&& ~~~(0x3F : Word) }) ∧
    (∃ t, exec (.registerWrite (0x20028 + 64 * q) v) s = .next t ∧ t = s.updQueue q fun b => { b with chead := v.setWidth 32 })) ∧
  (∀ v s, s.boot.safe = false → exec (.registerWrite 0x30000 v) s =
    .next { s with mbox := { s.mbox with mva := v &&& 0x000FFFFFFFFF0000 } }) ∧
  (∀ v s, s.boot.safe = false → s.mbox.res = 0 → exec (.registerWrite 0x30008 v) s =
    .next { s with mbox := { s.mbox with ctl := w64 (field v 8 1 * 2 ^ 8 + field v 0 4) } }) ∧
  (∀ (n : Nat) v s, s.boot.safe = false → n < 32 → ∃ t, exec (.registerWrite (0x100000 + n) v) s = .next t ∧
    (t.queue? n).partition = field v 56 4 ∧ (t.queue? n).maxlvl = field v 52 2 ∧ (t.queue? n).en = (s.queue? n).en ∧
    (t.queue? n).esz = (s.queue? n).esz ∧ (t.queue? n).csz = (s.queue? n).csz) ∧
  (∀ (p sel : Nat) v s, s.boot.safe = false → p < 16 → sel < 32 → exec (.registerWrite (0x200000 + 32 * p + sel) v) s =
    .next (if s.partBad p sel v = true then s
      else if s.quiet p 0 = true ∧ ∀ w, w ∈ s.portParts → w.part ≠ p then s.writePart p sel v
      else { s with portParts := s.portParts ++ [⟨p, sel, v⟩] })) ∧
  (∀ (n : Nat) v s, s.boot.safe = false → n < 64 → slotBad (v.setWidth 16) = false →
    exec (.registerWrite (0x300000 + n) v) s =
      .next { s with slotNew := s.slotNew ++ [⟨n, v.setWidth 16, sequencer, .L, 0⟩] }) ∧
  (∀ (n : Nat) v s, s.boot.safe = false → n < 32 → exec (.registerWrite (0x400000 + n) v) s = .next (s.writeIsland n v))

/-- R433 to R437: enabling a queue, a kick, and the fetch of an entry: a stale phase is read again, 65 times at most; an entry
leaves its ring with a task or a completion record. -/
def Obligations.LaunchQueueEvents : Prop :=
  (∀ (q : Nat) v s t, q < 32 → s.boot.safe = false → exec (.queueEnable q v) s = .next t →
    (t.queue? q).en = bitOf v 63 ∧ (t.queue? q).esz = field v 8 4 ∧ (t.queue? q).csz = field v 0 4 ∧
    (t.queue? q).partition = (s.queue? q).partition ∧ (t.queue? q).maxlvl = (s.queue? q).maxlvl ∧
    (bitOf v 63 = true → ((s.queue? q).state = 0 ∨ (s.queue? q).state = 2 ∨ (s.queue? q).state = 3) →
      (t.queue? q).state = if 4 ≤ field v 8 4 ∧ 4 ≤ field v 0 4 ∧ (s.queue? q).maxlvl ≠ 3 then 1 else 4)) ∧
  (∀ (q : Nat) v s, q < 32 → s.boot.safe = false → ∃ t, exec (.queueEnable q v) s = .next t) ∧
  (∀ (q : Nat) tail s, q < 32 → s.boot.safe = false → (tail - (s.queue? q).lhead).toNat ≤ 2 ^ (s.queue? q).esz →
    ∃ t, exec (.kick q tail) s = .next t ∧ t = s.updQueue q fun b => { b with ktail := tail }) ∧
  (∀ (q : Nat) tail s, q < 32 → s.boot.safe = false → 2 ^ (s.queue? q).esz < (tail - (s.queue? q).lhead).toNat →
    ∃ t, exec (.kick q tail) s = .next t ∧ (t.queue? q).state = 3 ∧ (t.queue? q).kidx = (s.queue? q).lhead ∧
      t.msix = s.msix ++ [(if s.ports.contains 0 then 0 else 1, field (s.queue? q).ctl 32 11)]) ∧
  (∀ (q : Nat) s b, q < 32 → s.fetches q = true → b = s.queue? q →
    s.host.num (b.entryAt b.lhead.toNat + 0x38) 8 / 2 ^ 63 ≠ b.phase b.lhead.toNat →
    (b.tries + 1 < 65 → ∃ t, exec (.entryFetch q) s = .next t ∧ t = s.updQueue q fun b => { b with tries := b.tries + 1 }) ∧
    (65 ≤ b.tries + 1 → ∃ t, exec (.entryFetch q) s = .next t ∧ (t.queue? q).state = 2 ∧ (t.queue? q).kidx = b.lhead)) ∧
  (∀ (q : Nat) s b e, q < 32 → s.fetches q = true → b = s.queue? q →
    s.host.num (b.entryAt b.lhead.toNat + 0x38) 8 / 2 ^ 63 = b.phase b.lhead.toNat →
    e = s.host.bytes (b.entryAt b.lhead.toNat) 64 → word64 e 0 % 64 ≠ 0 →
    ∃ t, exec (.entryFetch q) s = .next t ∧ (t.queue? q).lhead = b.lhead + 1 ∧ (t.queue? q).ctail = b.ctail + 1 ∧
      t.host = s.host.setBytes (field b.cbase 6 58 * 64 + 32 * (b.ctail.toNat % 2 ^ b.csz))
        (completionBytes b.ctail.toNat b.csz q (w64 (word64 e 3)) 0 1)) ∧
  (∀ (q : Nat) s b e h n, q < 32 → s.fetches q = true → b = s.queue? q →
    s.host.num (b.entryAt b.lhead.toNat + 0x38) 8 / 2 ^ 63 = b.phase b.lhead.toNat →
    e = s.host.bytes (b.entryAt b.lhead.toNat) 64 → word64 e 0 % 64 = 0 →
    s.image sequencer b.partition ⟨false, word64 e 7 / 2 % 4 == 0⟩ (word64 e 0) = .ok h n →
    word64 e 7 / 2 % 4 ≤ b.maxlvl → word64 e 7 / 2 % 4 ≠ 3 → s.tsPast b.partition (word64 e 2) = false → NoReaders s →
    (∀ u, u ∈ s.allTasks → u.seq < s.nextSeq) → s.tasks.length < 8192 → (s.part b.partition).hasRoom (4 * b.partition + hdrPrio h) = true →
    ∃ t u, exec (.entryFetch q) s = .next t ∧ (t.queue? q).lhead = b.lhead + 1 ∧ t.nextSeq = s.nextSeq + 1 ∧
      t.task? s.nextSeq = some u ∧ u.st = .waiting ∧ u.ts = word64 e 2 ∧ u.part = b.partition ∧ u.level = word64 e 7 / 2 % 4 ∧
      u.parent = 0 ∧ u.kimg = w64 (word64 e 0) ∧ u.args = w64 (word64 e 1) ∧
      u.origin = .host q (w64 (word64 e 3)) (word64 e 7 / 8 % 2 == 1))

/-! ### Events: frames, power, links and starts (R14, R374, R390, R400, R441, R448 to R453) -/

/-- A frame boundary applies the waiting writes of the slot table (R374), a bank set's refresh window opens when it is due, once
every 32 µs, 80,000 cycles (R14), an island grants its oldest request for leave (R452, R453), a link counts a retry or changes its
state (R441), but is held in the safe state (R449), a host port goes down
(R390), and an idle island is gated or wakes (R400). -/
def Obligations.PowerAndLinkEvents : Prop :=
  (∀ s, ∃ t, exec .frameBoundary s = .next t ∧ t.slotNew = [] ∧ ∀ i, Sparse.get 0 t.slotTab i =
    ((s.slotNew.filter fun n => n.slot == i).getLast?.map (·.entry)).getD (Sparse.get 0 s.slotTab i)) ∧
  (∀ (bank : Nat) s, bank < 384 → Sparse.find s.refresh bank = none → s.nextWindow bank ≤ s.now →
    ∃ t, exec (.wsRefreshWindow bank) s = .next t ∧ t = { s with
      refresh := Sparse.put s.refresh bank s.now, windows := Sparse.put s.windows bank (s.nextWindow bank + 80000) }) ∧
  (∀ (bank : Nat) s, s.now < s.nextWindow bank → exec (.wsRefreshWindow bank) s = .next s) ∧
  (∀ (island : Nat) s r rest, Sparse.get [] s.gov island = r :: rest → r.op = none →
    ∃ t, exec (.leaveGrant island) s = .next t ∧ Sparse.get [] t.gov island = rest ∧
      (t.core r.core).kept (heavyOf r.kind) = min 255 ((s.core r.core).kept (heavyOf r.kind) + r.n)) ∧
  (∀ (island : Nat) s r rest id, Sparse.get [] s.gov island = r :: rest → r.op = some id →
    ∃ t, exec (.leaveGrant island) s = .next t ∧ Sparse.get [] t.gov island = rest ∧
      t.core r.core = (s.core r.core).grantOp (heavyOf r.kind) id) ∧
  (∀ (l : Nat) s, l < 18 → s.boot.safe = false → ∃ t, exec (.linkFlitRetry l) s = .next t ∧ (∀ j, j ≠ l → t.link j = s.link j) ∧
    t.link l = { s.link l with retry := min 65535 ((s.link l).retry + 1) }) ∧
  (∀ (l st peer : Nat) s, l < 18 → st < 3 → s.boot.safe = false → ∃ t, exec (.linkStateChange l st peer) s = .next t ∧
    (∀ j, j ≠ l → t.link j = s.link j) ∧
    t.link l = { s.link l with state := st, peer := if st = 2 then peer % 2 ^ 16 else (s.link l).peer }) ∧
  (∀ (l st peer : Nat) s, s.boot.safe = true →
    exec (.linkFlitRetry l) s = .next s ∧ exec (.linkStateChange l st peer) s = .next s) ∧
  (∀ (port : Nat) up s, port < 2 → ∃ t, exec (.hostPortDown port up) s = .next t ∧ t = { s with ports := t.ports } ∧
    ∀ p, p ∈ t.ports ↔ if p = port then up = true else p ∈ s.ports) ∧
  (∀ (island : Nat) s, island < 24 → (∀ k, k < 384 → quadOf k = island → (s.core k).status = .free) →
    ∃ t, exec (.islandPowerGating island true) s = .next t ∧ island ∈ t.gated ∧
      ∀ k, k < 384 → t.core k = if quadOf k = island then { s.core k with tlb := [] } else s.core k) ∧
  (∀ (island : Nat) s, island < 24 → ∃ t, exec (.islandPowerGating island false) s = .next t ∧
    t = { s with gated := s.gated.filter fun g => g != island })

namespace Sys2Proof.Machine

/-- A start has begun: every core is free, no task is left and no launch waits to become one, every granule has generation 0 and
share count 0, the capability list is not built, and stage 1 runs (R249, R449, R450, R455). -/
def Started (s t : State) (warm : Bool) (attempt : Nat) : Prop :=
  (∀ k, t.core k = .reset) ∧ t.tasks = [] ∧ t.vlines = [] ∧ t.grans = [] ∧ (∀ p, (t.part p).waiting = []) ∧
    (∀ l, t.link l = ⟨0, 0, 0⟩) ∧ t.boot.ready = false ∧ t.boot.safe = false ∧ t.boot.stage = 1 ∧ t.boot.listed = false ∧
    t.boot.warm = warm ∧ t.boot.attempt = attempt ∧ t.hbm = s.hbm ∧ t.queues = s.queues ∧
    ∀ p sel, (t.part p).reg sel = (s.part p).reg sel

end Sys2Proof.Machine

/-- R448 to R450: what begins a start, a stage that takes too long, and the safe state that only ICARN_COLD_RESET leaves. -/
def Obligations.DeviceStarts : Prop :=
  (∀ s, s.boot.safe = false →
    (∃ t, exec .powerOn s = .next t ∧ Started s t false 0) ∧
    (∃ t, exec .pcieFundamentalReset s = .next t ∧ Started s t false s.boot.attempt) ∧
    (∃ t, exec .bootctlCold s = .next t ∧ Started s t false s.boot.attempt) ∧
    (∃ t, exec .bootctlWarm s = .next t ∧ Started s t true s.boot.attempt) ∧
    (s.boot.stage ≠ 0 → s.boot.attempt + 1 < 3 → ∃ t, exec .stageTimeout s = .next t ∧ t.boot.attempt = s.boot.attempt + 1 ∧
      t.boot.stage = 1 ∧ t.boot.fstage = s.boot.stage ∧ t.boot.fcode = 5 ∧ t.boot.safe = false ∧ t.tasks = []) ∧
    (s.boot.stage ≠ 0 → 3 ≤ s.boot.attempt + 1 → ∃ t, exec .stageTimeout s = .next t ∧ t.boot.attempt = 3 ∧
      t.boot.stage = 0 ∧ t.boot.fstage = s.boot.stage ∧ t.boot.fcode = 5 ∧ t.boot.safe = true ∧ t.boot.ready = false)) ∧
  (∀ s, ∃ t, exec .icarnColdReset s = .next t ∧ Started s t false 0) ∧
  (∀ s, s.boot.safe = true → exec .powerOn s = .next s ∧ exec .pcieFundamentalReset s = .next s ∧
    exec .bootctlCold s = .next s ∧ exec .bootctlWarm s = .next s ∧ exec .stageTimeout s = .next s)

/-! ### Agents, aborts, and the step -/

/-- R296, R355, R381: the host and the landing processors write device memory, and nothing that is not HBM. (Where a write reaches
a task's read set, its abort may write the header of a queue segment besides: R421.) R364, R370: a landing processor writes the
Weight Store too, while no task of the partition is busy; the numbers under which this model's register port offers that operation
are its own (assumption 46). -/
def Obligations.AgentsWriteMemory : Prop :=
  (∀ (pa : Nat) (data : List Byte) (s : State) (i : Instr), (i = .hostDeviceWrite pa data ∨ i = .landingProcessorWrite pa data) →
    s.boot.safe = false →
    (data ≠ [] → hbmOk pa = true → hbmOk (pa + data.length - 1) = true →
      pa / 2 ^ 37 = (pa + data.length - 1) / 2 ^ 37 →
      ∃ t, exec i s = .next t ∧ t.host = s.host ∧ t.tier = s.tier ∧ t.ws = s.ws ∧
        ∀ a, (NoReaders s ∨ OffQueues s a 1) →
          t.hbm.byte a = if pa ≤ a ∧ a < pa + data.length then data.getD (a - pa) 0 else s.hbm.byte a) ∧
    (hbmOk pa = false → (pa < 2 ^ 60 ∨ i = .hostDeviceWrite pa data) → exec i s = .next s)) ∧
  (∀ (p off : Nat) (data : List Byte) (s : State), s.boot.safe = false → p < 16 → off < 2 ^ 56 → off % 64 = 0 →
    data.length % 64 = 0 → data ≠ [] → data.length ≤ 2 ^ 30 → s.quiet p 0 = true →
    (∀ b, b ∈ banksOf off data.length → (s.part p).hasBank b = true ∧ s.portOpen ⟨3, b * 2 ^ 24⟩ = true) → NoReaders s →
    ∃ t, exec (.landingProcessorWrite (2 ^ 60 + p * 2 ^ 56 + off) data) s = .next t ∧ t = s.poke 3 off data)

/-- R298, R299: an abort discards what the task did: its version lines and bindings go, its cores are released, and it waits
again or, with its parent, is gone; memory is as before, but for the headers of queue segments that lose an entry (R421). -/
def Obligations.AbortsDiscard : Prop :=
  ∀ (q : Nat) (s : State) (tk : Task), TasksByNumber s → s.task? q = some tk → q ≠ 0 →
    SameMemory (s.abort q) { s with hbm := (s.abort q).hbm } ∧
    (∀ a, OffQueues s a 1 → (s.abort q).hbm.byte a = s.hbm.byte a) ∧
    (∀ v, v ∈ (s.abort q).vlines → v.task ≠ q) ∧ (∀ b, b ∈ (s.abort q).binds → b.task ≠ q) ∧
    (∀ k, (s.core k).task = q → ((s.abort q).core k).status = .free) ∧
    ((s.abort q).task? q = none ∨ ∃ u, (s.abort q).task? q = some u ∧ u.st = .waiting ∧ u.reads = [] ∧ u.berths = [] ∧
      u.ts = tk.ts ∧ u.kimg = tk.kimg ∧ u.args = tk.args)

namespace Sys2Proof.Machine

/-- After a step, time has passed, and free values say what the next one is; a core that stands still has stood so many cycles
longer, and the count of a halted core does not move (R69, R415). -/
def after (t : State) : State :=
  { t with ticks := t.ticks + 1, now := t.now + Config.dt t.ticks, turn := Config.nextTurn t.ticks, who := Config.nextWho t.ticks
           cores := t.cores.map fun (e : Nat × CoreSt) => (e.1, { e.2 with
             still := if e.2.halted then e.2.still else if t.stands e.1 then e.2.still + Config.dt t.ticks else 0 }) }

end Sys2Proof.Machine

/-- R57, R59, R70, R72, R84, R87: a step of a context that issues runs the word at its program counter; in X the word after it
issues in the same cycle where the pairing rules let it, and where that word has a wait of its own that is not met, neither issues;
a word that does not decode traps, unless a forced STOP point, an attached cause or a stop comes first; a step of an event runs the event. -/
def Obligations.StepRunsDecoded : Prop :=
  (∀ s i t, s.turn = .issue → s.me.run = .running →
    decode (BitVec.ofNat 64 (bytesToNat (s.cur.sp.bytes (s.me.wbase + 8 * s.me.pc) 8))) = .ok i → exec i s = .next t →
    (s.who.ctx ≠ .X → step s = .next (after t)) ∧
    (s.who.ctx = .X → t.second? = none → step s = .next (after t.unpair)) ∧
    (∀ j u v, s.who.ctx = .X → t.second? = some j → exec j (s.beside t) = .next u → exec j t = .next v →
      (u.heldBack = .hold → step s = .next (after s)) ∧ (u.heldBack = .starve → step s = .next (after s.starve)) ∧
      (u.heldBack = .block → step s = .next (after s.block)) ∧
      (u.heldBack = .go → v.me.pair = none → step s = .next (after v)) ∧
      (u.heldBack = .go → v.me.pair ≠ none → step s = .next (after t.unpair)))) ∧
  (∀ s e, s.turn = .issue → s.me.run = .running → (s.me.nonStop ≠ 48 ∨ bitOf s.wordAtPc 63 = true) →
    (s.atCycle (s.me.icycle + 1)).me.attached = [] →
    (s.cur.mustStop = false ∨ (s.me.blocked = false ∧ s.me.forced = false ∧ bitOf s.wordAtPc 63 = false)) →
    decode (BitVec.ofNat 64 (bytesToNat (s.cur.sp.bytes (s.me.wbase + 8 * s.me.pc) 8))) = .error e →
    ∃ t, step s = .next (after t) ∧ t = s.trap s.wordAtPc (s.decodeTrap s.wordAtPc e)) ∧
  (∀ s i t, s.turn = .event i → opcodeOf i = none → exec i s = .next t → step s = .next (after t)) ∧
  (∀ s i f, s.turn = .event i → opcodeOf i = none → exec i s = .fault f → step s = .fault f) ∧
  (∀ s a, s.turn = .inner a → step s = .next (after (s.inner a)))

namespace Sys2Proof.Machine

/-- The core that an event of the opcode table acts on. -/
def eventCore : Instr → Option Nat
  | .loadComplete k _ | .engineCmdComplete k _ _ | .redApply k _ _ | .msendGrant k _ _ | .stnNameReturn k _ _
  | .collContribution k _ _ | .collMemberTimeout k _ _ | .tileCmdHead k | .tileCmdAccept k | .tileCmdComplete k _
  | .ladderCmdComplete k _ | .forcedStopPoint k _ | .deadlk k | .tlbWalk k _ | .xlateService k _ _ _
  | .pageSupplyAnswer k _ _ _ | .reservationRequest _ k | .coreRelease k | .coreStart k | .coreDrainDone k
  | .supervisorResume k _ _ _ | .supervisorReflect k _ | .writeInFlightCompletes k _ _ | .postedStorePerformed k _ _ _ => some k
  | _ => none

end Sys2Proof.Machine

/-- R11: the device has no core above 383, and an event that names one does not happen.
The machine goes on: `step` stops nowhere but at an event that names a core above 383 (R11). -/
def Obligations.StepStopsOnlyAtNoCore : Prop :=
  (∀ (i : Instr) (s : State) (k : Nat), eventCore i = some k → 384 ≤ k → exec i s = .fault .noSuchCore) ∧
  (∀ s, (∃ t, step s = .next t) ∨
    (step s = .fault .noSuchCore ∧ ∃ i k, s.turn = .event i ∧ eventCore i = some k ∧ 384 ≤ k))

/-- No word but PARTW writes a register of a partition, and PARTW only at monitor level (R366, R369, R379). -/
def Obligations.OnlyMonitorsWritePartitions : Prop :=
  ∀ (i : Instr) (s t : State), (opcodeOf i).isSome = true → (∀ c xa xb sel, i = .partw c xa xb sel → s.me.level < 2) →
    exec i s = .next t → ∀ p sel, (t.part p).reg sel = (s.part p).reg sel

/-- Decoding reads what encoding wrote, for every well-formed instruction that has a word, with every operand at every value
that the encoding admits; the events of the table have no word (R82 to R89, R100). -/
def Obligations.RoundTrip : Prop :=
  ∀ i : Instr, i.wf = true →
    ((opcodeOf i).isSome = true → ∃ w, encode i = some w ∧ decode w = .ok i) ∧ (opcodeOf i = none → encode i = none)

/-- The memories keep their canonical form in every step. -/
def Obligations.StepKeepsMemWf : Prop :=
  ∀ s t, s.MemWf → step s = .next t → t.MemWf

/-- At reset the memories have their canonical form.
R366, R367, R433, R439, R441, R449, R450: what reset leaves, as the spec gives it: the partitions' registers, the fields of the launch
queues, of the mailbox and of BOOTSTAT, the slot table, the links; no task, and every core free. -/
def Obligations.ResetHolds : Prop :=
  (State.reset.MemWf) ∧
  (∀ p, (State.reset.part p).specdepth = 1 ∧ (State.reset.part p).vbquota = 4096 ∧ (State.reset.part p).reddl = 500 ∧
    (State.reset.part p).ptbase = 0 ∧ (State.reset.part p).flogp = 0 ∧ (State.reset.part p).hold = false ∧
    ∀ sel, (State.reset.part p).reg sel = 0) ∧
  (∀ q, (State.reset.queue? q).ebase = 0 ∧ (State.reset.queue? q).cbase = 0 ∧ (State.reset.queue? q).ctl = 0 ∧
    (State.reset.queue? q).ktail = 0 ∧ (State.reset.queue? q).lhead = 0 ∧ (State.reset.queue? q).chead = 0 ∧
    (State.reset.queue? q).ctail = 0 ∧ (State.reset.queue? q).kidx = 0 ∧ (State.reset.queue? q).state = 0) ∧
  (State.reset.mbox.mva = 0 ∧ State.reset.mbox.ctl = 0 ∧ State.reset.mbox.res = 7) ∧
  (State.reset.boot.safe = false ∧ State.reset.boot.ready = false ∧ State.reset.boot.attempt = 0 ∧ State.reset.boot.warm = false ∧
    State.reset.boot.fstage = 0 ∧ State.reset.boot.fcode = 0 ∧ State.reset.boot.stage = 0) ∧
  (∀ i, Sparse.get 0 State.reset.slotTab i = 0) ∧
  (∀ l, State.reset.link l = ⟨0, 0, 0⟩) ∧ State.reset.tasks = [] ∧ ∀ k, (State.reset.core k).status = .free

/-- Words written out from the spec's formats decode to the instructions they stand for, and words that R87 and R100 refuse do not
decode (R82, R83, R87, R89, R100). -/
def Obligations.DecodeWords : Prop :=
  decode 0x8000502044000040 = .ok (.ferry { Ctl.none with stop := true } ⟨4, 1, 2, 0, 0x40⟩) ∧
  decode 0x0000000000000000 = .ok (.nop Ctl.none) ∧
  decode 0x0000201461000002 = .ok (.br Ctl.none .ne 5 6 2) ∧
  decode 0x0000280010010000 = .ok (.cqput Ctl.none .n 1) ∧
  decode 0x0000930500900011 = .ok (.vcvt Ctl.none ⟨20, 9, false⟩ .fp32 .bf16 .rtz false) ∧
  decode 0x0000C82002516631 = .ok (.tgo Ctl.none ⟨2, 0, 1, 10, 11, 12, 3, false, true⟩) ∧
  decode 0x0000432405000040 = .ok (.ldd Ctl.none 5 9 0x40) ∧
  decode 0x0000541491990000 = .ok (.amo Ctl.none .cas true 5 9 6 0) ∧
  decode 0x00006A1000000C00 = .ok (.tspawn Ctl.none ⟨2, 0, 0, 0, 0xC00⟩) ∧
  decode 0x0006D81658964000 = .ok (.lapp { Ctl.none with stk := 3 } 5 600 601 false) ∧
  decode 0x0000E10A01E07C00 = .ok (.vshort Ctl.none ⟨40, 30, 31, false, false⟩ false) ∧
  decode 0x0000F30041400000 = .ok (.quar Ctl.none 4 5 0) ∧
  decode 0xFFFFFFFFFFFFFFFF = .error .allOnes ∧
  decode 0x0000720000000000 = .error .unallocated ∧
  decode 0x0001000000000000 = .error .bit48 ∧
  decode 0x0000800000000090 = .error .badField ∧
  decode 0x000080002BC00010 = .error .badField ∧
  decode 0x8040D80000000000 = .error .badField
end

