-- ==== Sys2Proof/Laws/Sparse.lean ====
section
/-! SUPPORT. Sparse data and memory: reading after writing, and the canonical form. -/

namespace Sys2Proof.Machine

open Sys2Proof

/-! ### Reading after writing -/

@[simp] theorem Sparse.get_put_same {α : Type} (d : α) (m : Sparse α) (j : Nat) (x : α) :
    Sparse.get d (Sparse.put m j x) j = x := by
  induction m with
  | nil => simp [Sparse.put, Sparse.get]
  | cons e r ih =>
    obtain ⟨k, v⟩ := e
    simp only [Sparse.put]
    split
    · simp [Sparse.get]
    · split
      · simp [Sparse.get]
      · next h1 h2 => simp [Sparse.get, h2, ih]

theorem Sparse.get_put_other {α : Type} (d : α) (m : Sparse α) (i j : Nat) (x : α) (h : i ≠ j) :
    Sparse.get d (Sparse.put m j x) i = Sparse.get d m i := by
  induction m with
  | nil => simp [Sparse.put, Sparse.get, Ne.symm h]
  | cons e r ih =>
    obtain ⟨k, v⟩ := e
    simp only [Sparse.put]
    split
    · simp [Sparse.get, Ne.symm h]
    · split
      · next h2 => subst h2; simp [Sparse.get, Ne.symm h]
      · simp [Sparse.get, ih]

theorem Sparse.get_put {α : Type} (d : α) (m : Sparse α) (i j : Nat) (x : α) :
    Sparse.get d (Sparse.put m j x) i = if i = j then x else Sparse.get d m i := by
  split
  · next h => subst h; simp
  · next h => exact get_put_other d m i j x h

@[simp] theorem Sparse.get_erase_same {α : Type} (d : α) (m : Sparse α) (j : Nat) :
    Sparse.get d (Sparse.erase m j) j = d := by
  induction m with
  | nil => rfl
  | cons e r ih =>
    obtain ⟨k, v⟩ := e
    simp only [Sparse.erase]
    split
    · exact ih
    · next h => simp [Sparse.get, h, ih]

theorem Sparse.get_erase_other {α : Type} (d : α) (m : Sparse α) (i j : Nat) (h : i ≠ j) :
    Sparse.get d (Sparse.erase m j) i = Sparse.get d m i := by
  induction m with
  | nil => rfl
  | cons e r ih =>
    obtain ⟨k, v⟩ := e
    simp only [Sparse.erase]
    split
    · next h2 => subst h2; simp [Sparse.get, Ne.symm h, ih]
    · simp [Sparse.get, ih]

theorem Sparse.get_set {α : Type} [DecidableEq α] (d : α) (m : Sparse α) (i j : Nat) (x : α) :
    Sparse.get d (Sparse.set d m j x) i = if i = j then x else Sparse.get d m i := by
  unfold Sparse.set
  split
  · next h =>
    subst h
    split
    · next h2 => subst h2; simp
    · next h2 => exact get_erase_other x m i j h2
  · exact get_put d m i j x

@[simp] theorem Sparse.get_set_same {α : Type} [DecidableEq α] (d : α) (m : Sparse α) (j : Nat) (x : α) :
    Sparse.get d (Sparse.set d m j x) j = x := by simp [Sparse.get_set]

@[simp] theorem Sparse.find_put_same {α : Type} (m : Sparse α) (j : Nat) (x : α) :
    Sparse.find (Sparse.put m j x) j = some x := by
  induction m with
  | nil => simp [Sparse.put, Sparse.find]
  | cons e r ih =>
    obtain ⟨k, v⟩ := e
    simp only [Sparse.put]
    split
    · simp [Sparse.find]
    · split
      · simp [Sparse.find]
      · next h1 h2 => simp [Sparse.find, h2, ih]

theorem Sparse.find_put_other {α : Type} (m : Sparse α) (i j : Nat) (x : α) (h : i ≠ j) :
    Sparse.find (Sparse.put m j x) i = Sparse.find m i := by
  induction m with
  | nil => simp [Sparse.put, Sparse.find, Ne.symm h]
  | cons e r ih =>
    obtain ⟨k, v⟩ := e
    simp only [Sparse.put]
    split
    · simp [Sparse.find, Ne.symm h]
    · split
      · next h2 => subst h2; simp [Sparse.find, Ne.symm h]
      · simp [Sparse.find, ih]

@[simp] theorem Sparse.find_erase_same {α : Type} (m : Sparse α) (j : Nat) :
    Sparse.find (Sparse.erase m j) j = none := by
  induction m with
  | nil => rfl
  | cons e r ih =>
    obtain ⟨k, v⟩ := e
    simp only [Sparse.erase]
    split
    · exact ih
    · next h => simp [Sparse.find, h, ih]

/-! ### The canonical form -/

theorem Sparse.sortedFrom_mono {α : Type} {n n' : Nat} {m : Sparse α} (h : Sparse.sortedFrom n m = true) (hn : n' ≤ n) :
    Sparse.sortedFrom n' m = true := by
  cases m with
  | nil => rfl
  | cons e r =>
    simp only [Sparse.sortedFrom, Bool.and_eq_true, decide_eq_true_eq] at *
    exact ⟨by omega, h.2⟩

theorem Sparse.sortedFrom_put {α : Type} {n : Nat} {m : Sparse α} {j : Nat} {x : α} (h : Sparse.sortedFrom n m = true)
    (hj : n ≤ j) : Sparse.sortedFrom n (Sparse.put m j x) = true := by
  induction m generalizing n with
  | nil => simp [Sparse.put, Sparse.sortedFrom, hj]
  | cons e r ih =>
    obtain ⟨k, v⟩ := e
    simp only [Sparse.sortedFrom, Bool.and_eq_true, decide_eq_true_eq] at h
    simp only [Sparse.put]
    split
    · simp only [Sparse.sortedFrom, Bool.and_eq_true, decide_eq_true_eq]
      exact ⟨hj, by omega, h.2⟩
    · split
      · next h2 => subst h2; simpa [Sparse.sortedFrom] using h
      · simp only [Sparse.sortedFrom, Bool.and_eq_true, decide_eq_true_eq]
        exact ⟨h.1, ih h.2 (by omega)⟩

theorem Sparse.sortedFrom_erase {α : Type} {n : Nat} {m : Sparse α} {j : Nat} (h : Sparse.sortedFrom n m = true) :
    Sparse.sortedFrom n (Sparse.erase m j) = true := by
  induction m generalizing n with
  | nil => rfl
  | cons e r ih =>
    obtain ⟨k, v⟩ := e
    simp only [Sparse.sortedFrom, Bool.and_eq_true, decide_eq_true_eq] at h
    simp only [Sparse.erase]
    split
    · exact ih (sortedFrom_mono h.2 (by omega))
    · simp only [Sparse.sortedFrom, Bool.and_eq_true, decide_eq_true_eq]
      exact ⟨h.1, ih h.2⟩

theorem Sparse.mem_put {α : Type} {m : Sparse α} {j : Nat} {x : α} {e : Nat × α} (h : e ∈ Sparse.put m j x) :
    e = (j, x) ∨ e ∈ m := by
  induction m with
  | nil => simpa [Sparse.put] using h
  | cons f r ih =>
    obtain ⟨k, v⟩ := f
    simp only [Sparse.put] at h
    split at h
    · simpa using h
    · split at h
      · simp only [List.mem_cons] at h ⊢; tauto
      · simp only [List.mem_cons] at h ⊢
        rcases h with h | h
        · tauto
        · have := ih h; tauto

theorem Sparse.mem_erase {α : Type} {m : Sparse α} {j : Nat} {e : Nat × α} (h : e ∈ Sparse.erase m j) : e ∈ m := by
  induction m with
  | nil => simp [Sparse.erase] at h
  | cons f r ih =>
    obtain ⟨k, v⟩ := f
    simp only [Sparse.erase] at h
    split at h
    · exact List.mem_cons_of_mem _ (ih h)
    · simp only [List.mem_cons] at h ⊢
      rcases h with h | h
      · exact .inl h
      · exact .inr (ih h)

theorem Sparse.wf_nil {α : Type} [DecidableEq α] (d : α) : Sparse.wf d ([] : Sparse α) = true := rfl

/-- Writing keeps the canonical form. -/
theorem Sparse.wf_set {α : Type} [DecidableEq α] {d : α} {m : Sparse α} (h : Sparse.wf d m = true) (j : Nat) (x : α) :
    Sparse.wf d (Sparse.set d m j x) = true := by
  unfold Sparse.wf at *
  simp only [Bool.and_eq_true, List.all_eq_true, decide_eq_true_eq] at *
  unfold Sparse.set
  split
  · exact ⟨sortedFrom_erase h.1, fun e he => h.2 e (mem_erase he)⟩
  · next hx =>
    refine ⟨sortedFrom_put h.1 (Nat.zero_le _), fun e he => ?_⟩
    rcases mem_put he with rfl | he
    · exact hx
    · exact h.2 e he

/-! ### Memory -/

theorem Memory.byte_setByte (m : Memory) (a b : Nat) (v : Byte) :
    Memory.byte (Memory.setByte m b v) a = if a = b then v else Memory.byte m a := Sparse.get_set 0 m a b v

theorem Memory.wf_setByte {m : Memory} (h : Memory.wf m = true) (a : Nat) (v : Byte) :
    Memory.wf (Memory.setByte m a v) = true := Sparse.wf_set h a v

/-- A write of bytes keeps the canonical form. -/
theorem Memory.wf_setBytes {m : Memory} (h : Memory.wf m = true) (a : Nat) (bs : List Byte) :
    Memory.wf (Memory.setBytes m a bs) = true := by
  induction bs generalizing m a with
  | nil => exact h
  | cons b bs ih => exact ih (wf_setByte h a b) (a + 1)

theorem Memory.wf_setNum {m : Memory} (h : Memory.wf m = true) (a n v : Nat) :
    Memory.wf (Memory.setNum m a n v) = true := wf_setBytes h a _

/-- After a write of bytes, an address inside reads its byte and every other address reads as before. -/
theorem Memory.byte_setBytes (m : Memory) (a i : Nat) (bs : List Byte) :
    Memory.byte (Memory.setBytes m a bs) i =
      if a ≤ i ∧ i < a + bs.length then bs.getD (i - a) 0 else Memory.byte m i := by
  induction bs generalizing m a with
  | nil => simp [Memory.setBytes]
  | cons b bs ih =>
    simp only [Memory.setBytes, ih, Memory.byte_setByte, List.length_cons]
    by_cases h : i = a
    · subst h; simp
    · by_cases h2 : a + 1 ≤ i ∧ i < a + 1 + bs.length
      · rw [if_pos h2, if_pos (by omega)]
        have : i - a = (i - (a + 1)) + 1 := by omega
        rw [this]; simp
      · rw [if_neg h2, if_neg h, if_neg (by omega)]

theorem Memory.byte_setBytes_outside (m : Memory) (a i : Nat) (bs : List Byte) (h : i < a ∨ a + bs.length ≤ i) :
    Memory.byte (Memory.setBytes m a bs) i = Memory.byte m i := by
  rw [byte_setBytes, if_neg (by omega)]

@[simp] theorem leBytes_length (n v : Nat) : (leBytes n v).length = n := by
  induction n generalizing v with
  | zero => rfl
  | succ n ih => simp [leBytes, ih]

@[simp] theorem Memory.bytes_length (m : Memory) (a n : Nat) : (Memory.bytes m a n).length = n := by
  induction n generalizing a with
  | zero => rfl
  | succ n ih => simp [Memory.bytes, ih]

/-- Reading back the bytes that were written. -/
theorem Memory.bytes_setBytes_same (m : Memory) (a : Nat) (bs : List Byte) :
    Memory.bytes (Memory.setBytes m a bs) a bs.length = bs := by
  induction bs generalizing m a with
  | nil => rfl
  | cons b bs ih =>
    simp only [List.length_cons, Memory.bytes, Memory.setBytes]
    rw [ih]
    congr 1
    rw [byte_setBytes_outside _ _ _ _ (by omega), byte_setByte, if_pos rfl]

/-- Bytes outside a write read as before. -/
theorem Memory.bytes_setBytes_outside (m : Memory) (a b n : Nat) (bs : List Byte)
    (h : b + n ≤ a ∨ a + bs.length ≤ b) : Memory.bytes (Memory.setBytes m a bs) b n = Memory.bytes m b n := by
  induction n generalizing b with
  | zero => rfl
  | succ n ih =>
    simp only [Memory.bytes]
    rw [ih (b + 1) (by omega), byte_setBytes_outside _ _ _ _ (by omega)]

/-! ### Numbers and bytes -/

@[simp] theorem bytesToNat_leBytes (n v : Nat) : bytesToNat (leBytes n v) = v % 2 ^ (8 * n) := by
  induction n generalizing v with
  | zero => simp [leBytes, bytesToNat, Nat.mod_one]
  | succ n ih =>
    simp only [leBytes, bytesToNat, ih, BitVec.toNat_ofNat]
    have : 2 ^ (8 * (n + 1)) = 256 * 2 ^ (8 * n) := by rw [Nat.mul_add, Nat.pow_add]; omega
    rw [this, Nat.mod_mul]

end Sys2Proof.Machine
end

