-- ==== Sys2Proof/Laws/State.lean ====
section
/-! SUPPORT. Reading a field of the state after each of its updates: one lemma per field per update. -/

namespace Sys2Proof.Machine

open Sys2Proof

/-! ### Cores -/

@[simp] theorem State.core_setCore_same (s : State) (k : Nat) (c : CoreSt) : (s.setCore k c).core k = c := by
  simp [State.core, State.setCore]

theorem State.core_setCore_other (s : State) (k j : Nat) (c : CoreSt) (h : j ≠ k) : (s.setCore k c).core j = s.core j := by
  simp [State.core, State.setCore, Sparse.get_put_other _ _ _ _ _ h]

theorem State.core_setCore (s : State) (k j : Nat) (c : CoreSt) :
    (s.setCore k c).core j = if j = k then c else s.core j := by
  simp [State.core, State.setCore, Sparse.get_put]

@[simp] theorem State.core_updCore_same (s : State) (k : Nat) (f : CoreSt → CoreSt) :
    (s.updCore k f).core k = f (s.core k) := by simp [State.updCore]

theorem State.core_updCore_other (s : State) (k j : Nat) (f : CoreSt → CoreSt) (h : j ≠ k) :
    (s.updCore k f).core j = s.core j := by simp [State.updCore, core_setCore_other _ _ _ _ h]

theorem State.core_updCore (s : State) (k j : Nat) (f : CoreSt → CoreSt) :
    (s.updCore k f).core j = if j = k then f (s.core k) else s.core j := by simp [State.updCore, core_setCore]

@[simp] theorem State.core_updCtx_same (s : State) (k : Nat) (x : Ctx) (f : CtxSt → CtxSt) :
    (s.updCtx k x f).core k = (s.core k).updCtx x f := by simp [State.updCtx]

theorem State.core_updCtx_other (s : State) (k j : Nat) (x : Ctx) (f : CtxSt → CtxSt) (h : j ≠ k) :
    (s.updCtx k x f).core j = s.core j := by simp [State.updCtx, core_updCore_other _ _ _ _ h]

@[simp] theorem CoreSt.ctx_setCtx_same (c : CoreSt) (x : Ctx) (v : CtxSt) : (c.setCtx x v).ctx x = v := by cases x <;> rfl

theorem CoreSt.ctx_setCtx_other (c : CoreSt) (x y : Ctx) (v : CtxSt) (h : y ≠ x) : (c.setCtx x v).ctx y = c.ctx y := by
  cases x <;> cases y <;> first | rfl | exact absurd rfl h

@[simp] theorem CoreSt.ctx_updCtx_same (c : CoreSt) (x : Ctx) (f : CtxSt → CtxSt) : (c.updCtx x f).ctx x = f (c.ctx x) := by
  simp [CoreSt.updCtx]

theorem CoreSt.ctx_updCtx_other (c : CoreSt) (x y : Ctx) (f : CtxSt → CtxSt) (h : y ≠ x) :
    (c.updCtx x f).ctx y = c.ctx y := by simp [CoreSt.updCtx, ctx_setCtx_other _ _ _ _ h]

@[simp] theorem State.ctxOf_updCtx_same (s : State) (k : Nat) (x : Ctx) (f : CtxSt → CtxSt) :
    (s.updCtx k x f).ctxOf k x = f (s.ctxOf k x) := by simp [State.ctxOf]

/-! ### Fields of a core, after a change of one of its contexts -/

@[simp] theorem CoreSt.status_updCtx (c : CoreSt) (x : Ctx) (f : CtxSt → CtxSt) : (c.updCtx x f).status = c.status := by cases x <;> rfl

@[simp] theorem CoreSt.task_updCtx (c : CoreSt) (x : Ctx) (f : CtxSt → CtxSt) : (c.updCtx x f).task = c.task := by cases x <;> rfl

@[simp] theorem CoreSt.rank_updCtx (c : CoreSt) (x : Ctx) (f : CtxSt → CtxSt) : (c.updCtx x f).rank = c.rank := by cases x <;> rfl

@[simp] theorem CoreSt.tks_updCtx (c : CoreSt) (x : Ctx) (f : CtxSt → CtxSt) : (c.updCtx x f).tks = c.tks := by cases x <;> rfl

@[simp] theorem CoreSt.qs_updCtx (c : CoreSt) (x : Ctx) (f : CtxSt → CtxSt) : (c.updCtx x f).qs = c.qs := by cases x <;> rfl

@[simp] theorem CoreSt.tiles_updCtx (c : CoreSt) (x : Ctx) (f : CtxSt → CtxSt) : (c.updCtx x f).tiles = c.tiles := by cases x <;> rfl

@[simp] theorem CoreSt.ex_updCtx (c : CoreSt) (x : Ctx) (f : CtxSt → CtxSt) : (c.updCtx x f).ex = c.ex := by cases x <;> rfl

@[simp] theorem CoreSt.fq_updCtx (c : CoreSt) (x : Ctx) (f : CtxSt → CtxSt) : (c.updCtx x f).fq = c.fq := by cases x <;> rfl

@[simp] theorem CoreSt.claimed_updCtx (c : CoreSt) (x : Ctx) (f : CtxSt → CtxSt) : (c.updCtx x f).claimed = c.claimed := by cases x <;> rfl

@[simp] theorem CoreSt.emode_updCtx (c : CoreSt) (x : Ctx) (f : CtxSt → CtxSt) : (c.updCtx x f).emode = c.emode := by cases x <;> rfl

@[simp] theorem CoreSt.sc_updCtx (c : CoreSt) (x : Ctx) (f : CtxSt → CtxSt) : (c.updCtx x f).sc = c.sc := by cases x <;> rfl

@[simp] theorem CoreSt.ct_updCtx (c : CoreSt) (x : Ctx) (f : CtxSt → CtxSt) : (c.updCtx x f).ct = c.ct := by cases x <;> rfl

@[simp] theorem CoreSt.nests_updCtx (c : CoreSt) (x : Ctx) (f : CtxSt → CtxSt) : (c.updCtx x f).nests = c.nests := by cases x <;> rfl

@[simp] theorem CoreSt.rings_updCtx (c : CoreSt) (x : Ctx) (f : CtxSt → CtxSt) : (c.updCtx x f).rings = c.rings := by cases x <;> rfl

@[simp] theorem CoreSt.mqs_updCtx (c : CoreSt) (x : Ctx) (f : CtxSt → CtxSt) : (c.updCtx x f).mqs = c.mqs := by cases x <;> rfl

@[simp] theorem CoreSt.slots_updCtx (c : CoreSt) (x : Ctx) (f : CtxSt → CtxSt) : (c.updCtx x f).slots = c.slots := by cases x <;> rfl

@[simp] theorem CoreSt.batch_updCtx (c : CoreSt) (x : Ctx) (f : CtxSt → CtxSt) : (c.updCtx x f).batch = c.batch := by cases x <;> rfl

@[simp] theorem CoreSt.qmask_updCtx (c : CoreSt) (x : Ctx) (f : CtxSt → CtxSt) : (c.updCtx x f).qmask = c.qmask := by cases x <;> rfl

@[simp] theorem CoreSt.lsup_updCtx (c : CoreSt) (x : Ctx) (f : CtxSt → CtxSt) : (c.updCtx x f).lsup = c.lsup := by cases x <;> rfl

@[simp] theorem CoreSt.sp_updCtx (c : CoreSt) (x : Ctx) (f : CtxSt → CtxSt) : (c.updCtx x f).sp = c.sp := by cases x <;> rfl

@[simp] theorem CoreSt.spBad_updCtx (c : CoreSt) (x : Ctx) (f : CtxSt → CtxSt) : (c.updCtx x f).spBad = c.spBad := by cases x <;> rfl

@[simp] theorem CoreSt.posted_updCtx (c : CoreSt) (x : Ctx) (f : CtxSt → CtxSt) : (c.updCtx x f).posted = c.posted := by cases x <;> rfl

@[simp] theorem CoreSt.matq_updCtx (c : CoreSt) (x : Ctx) (f : CtxSt → CtxSt) : (c.updCtx x f).matq = c.matq := by cases x <;> rfl

@[simp] theorem CoreSt.ladq_updCtx (c : CoreSt) (x : Ctx) (f : CtxSt → CtxSt) : (c.updCtx x f).ladq = c.ladq := by cases x <;> rfl

@[simp] theorem CoreSt.ferry_updCtx (c : CoreSt) (x : Ctx) (f : CtxSt → CtxSt) : (c.updCtx x f).ferry = c.ferry := by cases x <;> rfl

@[simp] theorem CoreSt.genq_updCtx (c : CoreSt) (x : Ctx) (f : CtxSt → CtxSt) : (c.updCtx x f).genq = c.genq := by cases x <;> rfl

@[simp] theorem CoreSt.nextId_updCtx (c : CoreSt) (x : Ctx) (f : CtxSt → CtxSt) : (c.updCtx x f).nextId = c.nextId := by cases x <;> rfl

@[simp] theorem CoreSt.cycle_updCtx (c : CoreSt) (x : Ctx) (f : CtxSt → CtxSt) : (c.updCtx x f).cycle = c.cycle := by cases x <;> rfl

@[simp] theorem CoreSt.tlb_updCtx (c : CoreSt) (x : Ctx) (f : CtxSt → CtxSt) : (c.updCtx x f).tlb = c.tlb := by cases x <;> rfl

@[simp] theorem CoreSt.halted_updCtx (c : CoreSt) (x : Ctx) (f : CtxSt → CtxSt) : (c.updCtx x f).halted = c.halted := by cases x <;> rfl

@[simp] theorem CoreSt.haltReq_updCtx (c : CoreSt) (x : Ctx) (f : CtxSt → CtxSt) : (c.updCtx x f).haltReq = c.haltReq := by cases x <;> rfl

@[simp] theorem CoreSt.haltBy_updCtx (c : CoreSt) (x : Ctx) (f : CtxSt → CtxSt) : (c.updCtx x f).haltBy = c.haltBy := by cases x <;> rfl

@[simp] theorem CoreSt.preReq_updCtx (c : CoreSt) (x : Ctx) (f : CtxSt → CtxSt) : (c.updCtx x f).preReq = c.preReq := by cases x <;> rfl

@[simp] theorem CoreSt.starved_updCtx (c : CoreSt) (x : Ctx) (f : CtxSt → CtxSt) : (c.updCtx x f).starved = c.starved := by cases x <;> rfl

@[simp] theorem CoreSt.msgs_updCtx (c : CoreSt) (x : Ctx) (f : CtxSt → CtxSt) : (c.updCtx x f).msgs = c.msgs := by cases x <;> rfl

@[simp] theorem CoreSt.keptT_updCtx (c : CoreSt) (x : Ctx) (f : CtxSt → CtxSt) : (c.updCtx x f).keptT = c.keptT := by cases x <;> rfl

@[simp] theorem CoreSt.keptF_updCtx (c : CoreSt) (x : Ctx) (f : CtxSt → CtxSt) : (c.updCtx x f).keptF = c.keptF := by cases x <;> rfl

@[simp] theorem CoreSt.keptL_updCtx (c : CoreSt) (x : Ctx) (f : CtxSt → CtxSt) : (c.updCtx x f).keptL = c.keptL := by cases x <;> rfl

@[simp] theorem CoreSt.det_updCtx (c : CoreSt) (x : Ctx) (f : CtxSt → CtxSt) : (c.updCtx x f).det = c.det := by cases x <;> rfl

@[simp] theorem CoreSt.extrap_updCtx (c : CoreSt) (x : Ctx) (f : CtxSt → CtxSt) : (c.updCtx x f).extrap = c.extrap := by cases x <;> rfl

@[simp] theorem CoreSt.nest_updCtx (c : CoreSt) (x : Ctx) (f : CtxSt → CtxSt) : (c.updCtx x f).nest = c.nest := by cases x <;> rfl

@[simp] theorem CoreSt.hfl_updCtx (c : CoreSt) (x : Ctx) (f : CtxSt → CtxSt) : (c.updCtx x f).hfl = c.hfl := by cases x <;> rfl

@[simp] theorem CoreSt.hfx_updCtx (c : CoreSt) (x : Ctx) (f : CtxSt → CtxSt) : (c.updCtx x f).hfx = c.hfx := by cases x <;> rfl

@[simp] theorem CoreSt.hfs_updCtx (c : CoreSt) (x : Ctx) (f : CtxSt → CtxSt) : (c.updCtx x f).hfs = c.hfs := by cases x <;> rfl

@[simp] theorem CoreSt.htap_updCtx (c : CoreSt) (x : Ctx) (f : CtxSt → CtxSt) : (c.updCtx x f).htap = c.htap := by cases x <;> rfl

@[simp] theorem CoreSt.args_updCtx (c : CoreSt) (x : Ctx) (f : CtxSt → CtxSt) : (c.updCtx x f).args = c.args := by cases x <;> rfl

@[simp] theorem CoreSt.landed_updCtx (c : CoreSt) (x : Ctx) (f : CtxSt → CtxSt) : (c.updCtx x f).landed = c.landed := by cases x <;> rfl
@[simp] theorem CoreSt.patches_updCtx (c : CoreSt) (x : Ctx) (f : CtxSt → CtxSt) : (c.updCtx x f).patches = c.patches := by cases x <;> rfl

@[simp] theorem CoreSt.fqOut_updCtx (c : CoreSt) (x : Ctx) (f : CtxSt → CtxSt) : (c.updCtx x f).fqOut = c.fqOut := by cases x <;> rfl

@[simp] theorem CoreSt.matHold_updCtx (c : CoreSt) (x : Ctx) (f : CtxSt → CtxSt) : (c.updCtx x f).matHold = c.matHold := by cases x <;> rfl

@[simp] theorem CoreSt.still_updCtx (c : CoreSt) (x : Ctx) (f : CtxSt → CtxSt) : (c.updCtx x f).still = c.still := by cases x <;> rfl

/-! ### Fields of the state, after a change of a core -/

@[simp] theorem State.turn_setCore (s : State) (k : Nat) (c : CoreSt) : (s.setCore k c).turn = s.turn := rfl

@[simp] theorem State.turn_updCore (s : State) (k : Nat) (f : CoreSt → CoreSt) : (s.updCore k f).turn = s.turn := rfl

@[simp] theorem State.turn_updCtx (s : State) (k : Nat) (x : Ctx) (f : CtxSt → CtxSt) : (s.updCtx k x f).turn = s.turn := rfl

@[simp] theorem State.who_setCore (s : State) (k : Nat) (c : CoreSt) : (s.setCore k c).who = s.who := rfl

@[simp] theorem State.who_updCore (s : State) (k : Nat) (f : CoreSt → CoreSt) : (s.updCore k f).who = s.who := rfl

@[simp] theorem State.who_updCtx (s : State) (k : Nat) (x : Ctx) (f : CtxSt → CtxSt) : (s.updCtx k x f).who = s.who := rfl

@[simp] theorem State.ticks_setCore (s : State) (k : Nat) (c : CoreSt) : (s.setCore k c).ticks = s.ticks := rfl

@[simp] theorem State.ticks_updCore (s : State) (k : Nat) (f : CoreSt → CoreSt) : (s.updCore k f).ticks = s.ticks := rfl

@[simp] theorem State.ticks_updCtx (s : State) (k : Nat) (x : Ctx) (f : CtxSt → CtxSt) : (s.updCtx k x f).ticks = s.ticks := rfl

@[simp] theorem State.now_setCore (s : State) (k : Nat) (c : CoreSt) : (s.setCore k c).now = s.now := rfl

@[simp] theorem State.now_updCore (s : State) (k : Nat) (f : CoreSt → CoreSt) : (s.updCore k f).now = s.now := rfl

@[simp] theorem State.now_updCtx (s : State) (k : Nat) (x : Ctx) (f : CtxSt → CtxSt) : (s.updCtx k x f).now = s.now := rfl

@[simp] theorem State.hbm_setCore (s : State) (k : Nat) (c : CoreSt) : (s.setCore k c).hbm = s.hbm := rfl

@[simp] theorem State.hbm_updCore (s : State) (k : Nat) (f : CoreSt → CoreSt) : (s.updCore k f).hbm = s.hbm := rfl

@[simp] theorem State.hbm_updCtx (s : State) (k : Nat) (x : Ctx) (f : CtxSt → CtxSt) : (s.updCtx k x f).hbm = s.hbm := rfl

@[simp] theorem State.host_setCore (s : State) (k : Nat) (c : CoreSt) : (s.setCore k c).host = s.host := rfl

@[simp] theorem State.host_updCore (s : State) (k : Nat) (f : CoreSt → CoreSt) : (s.updCore k f).host = s.host := rfl

@[simp] theorem State.host_updCtx (s : State) (k : Nat) (x : Ctx) (f : CtxSt → CtxSt) : (s.updCtx k x f).host = s.host := rfl

@[simp] theorem State.tier_setCore (s : State) (k : Nat) (c : CoreSt) : (s.setCore k c).tier = s.tier := rfl

@[simp] theorem State.tier_updCore (s : State) (k : Nat) (f : CoreSt → CoreSt) : (s.updCore k f).tier = s.tier := rfl

@[simp] theorem State.tier_updCtx (s : State) (k : Nat) (x : Ctx) (f : CtxSt → CtxSt) : (s.updCtx k x f).tier = s.tier := rfl

@[simp] theorem State.ws_setCore (s : State) (k : Nat) (c : CoreSt) : (s.setCore k c).ws = s.ws := rfl

@[simp] theorem State.ws_updCore (s : State) (k : Nat) (f : CoreSt → CoreSt) : (s.updCore k f).ws = s.ws := rfl

@[simp] theorem State.ws_updCtx (s : State) (k : Nat) (x : Ctx) (f : CtxSt → CtxSt) : (s.updCtx k x f).ws = s.ws := rfl

@[simp] theorem State.bad_setCore (s : State) (k : Nat) (c : CoreSt) : (s.setCore k c).bad = s.bad := rfl

@[simp] theorem State.bad_updCore (s : State) (k : Nat) (f : CoreSt → CoreSt) : (s.updCore k f).bad = s.bad := rfl

@[simp] theorem State.bad_updCtx (s : State) (k : Nat) (x : Ctx) (f : CtxSt → CtxSt) : (s.updCtx k x f).bad = s.bad := rfl

@[simp] theorem State.grans_setCore (s : State) (k : Nat) (c : CoreSt) : (s.setCore k c).grans = s.grans := rfl

@[simp] theorem State.grans_updCore (s : State) (k : Nat) (f : CoreSt → CoreSt) : (s.updCore k f).grans = s.grans := rfl

@[simp] theorem State.grans_updCtx (s : State) (k : Nat) (x : Ctx) (f : CtxSt → CtxSt) : (s.updCtx k x f).grans = s.grans := rfl

@[simp] theorem State.tlb2_setCore (s : State) (k : Nat) (c : CoreSt) : (s.setCore k c).tlb2 = s.tlb2 := rfl

@[simp] theorem State.tlb2_updCore (s : State) (k : Nat) (f : CoreSt → CoreSt) : (s.updCore k f).tlb2 = s.tlb2 := rfl

@[simp] theorem State.tlb2_updCtx (s : State) (k : Nat) (x : Ctx) (f : CtxSt → CtxSt) : (s.updCtx k x f).tlb2 = s.tlb2 := rfl

@[simp] theorem State.parts_setCore (s : State) (k : Nat) (c : CoreSt) : (s.setCore k c).parts = s.parts := rfl

@[simp] theorem State.parts_updCore (s : State) (k : Nat) (f : CoreSt → CoreSt) : (s.updCore k f).parts = s.parts := rfl

@[simp] theorem State.parts_updCtx (s : State) (k : Nat) (x : Ctx) (f : CtxSt → CtxSt) : (s.updCtx k x f).parts = s.parts := rfl

@[simp] theorem State.tasks_setCore (s : State) (k : Nat) (c : CoreSt) : (s.setCore k c).tasks = s.tasks := rfl

@[simp] theorem State.tasks_updCore (s : State) (k : Nat) (f : CoreSt → CoreSt) : (s.updCore k f).tasks = s.tasks := rfl

@[simp] theorem State.tasks_updCtx (s : State) (k : Nat) (x : Ctx) (f : CtxSt → CtxSt) : (s.updCtx k x f).tasks = s.tasks := rfl

@[simp] theorem State.nextSeq_setCore (s : State) (k : Nat) (c : CoreSt) : (s.setCore k c).nextSeq = s.nextSeq := rfl

@[simp] theorem State.nextSeq_updCore (s : State) (k : Nat) (f : CoreSt → CoreSt) : (s.updCore k f).nextSeq = s.nextSeq := rfl

@[simp] theorem State.nextSeq_updCtx (s : State) (k : Nat) (x : Ctx) (f : CtxSt → CtxSt) : (s.updCtx k x f).nextSeq = s.nextSeq := rfl

@[simp] theorem State.vlines_setCore (s : State) (k : Nat) (c : CoreSt) : (s.setCore k c).vlines = s.vlines := rfl

@[simp] theorem State.vlines_updCore (s : State) (k : Nat) (f : CoreSt → CoreSt) : (s.updCore k f).vlines = s.vlines := rfl

@[simp] theorem State.vlines_updCtx (s : State) (k : Nat) (x : Ctx) (f : CtxSt → CtxSt) : (s.updCtx k x f).vlines = s.vlines := rfl

@[simp] theorem State.binds_setCore (s : State) (k : Nat) (c : CoreSt) : (s.setCore k c).binds = s.binds := rfl

@[simp] theorem State.binds_updCore (s : State) (k : Nat) (f : CoreSt → CoreSt) : (s.updCore k f).binds = s.binds := rfl

@[simp] theorem State.binds_updCtx (s : State) (k : Nat) (x : Ctx) (f : CtxSt → CtxSt) : (s.updCtx k x f).binds = s.binds := rfl

@[simp] theorem State.slotTab_setCore (s : State) (k : Nat) (c : CoreSt) : (s.setCore k c).slotTab = s.slotTab := rfl

@[simp] theorem State.slotTab_updCore (s : State) (k : Nat) (f : CoreSt → CoreSt) : (s.updCore k f).slotTab = s.slotTab := rfl

@[simp] theorem State.slotTab_updCtx (s : State) (k : Nat) (x : Ctx) (f : CtxSt → CtxSt) : (s.updCtx k x f).slotTab = s.slotTab := rfl

@[simp] theorem State.slotNew_setCore (s : State) (k : Nat) (c : CoreSt) : (s.setCore k c).slotNew = s.slotNew := rfl

@[simp] theorem State.slotNew_updCore (s : State) (k : Nat) (f : CoreSt → CoreSt) : (s.updCore k f).slotNew = s.slotNew := rfl

@[simp] theorem State.slotNew_updCtx (s : State) (k : Nat) (x : Ctx) (f : CtxSt → CtxSt) : (s.updCtx k x f).slotNew = s.slotNew := rfl

@[simp] theorem State.isl_setCore (s : State) (k : Nat) (c : CoreSt) : (s.setCore k c).isl = s.isl := rfl

@[simp] theorem State.isl_updCore (s : State) (k : Nat) (f : CoreSt → CoreSt) : (s.updCore k f).isl = s.isl := rfl

@[simp] theorem State.isl_updCtx (s : State) (k : Nat) (x : Ctx) (f : CtxSt → CtxSt) : (s.updCtx k x f).isl = s.isl := rfl

@[simp] theorem State.gov_setCore (s : State) (k : Nat) (c : CoreSt) : (s.setCore k c).gov = s.gov := rfl

@[simp] theorem State.gov_updCore (s : State) (k : Nat) (f : CoreSt → CoreSt) : (s.updCore k f).gov = s.gov := rfl

@[simp] theorem State.gov_updCtx (s : State) (k : Nat) (x : Ctx) (f : CtxSt → CtxSt) : (s.updCtx k x f).gov = s.gov := rfl

@[simp] theorem State.gated_setCore (s : State) (k : Nat) (c : CoreSt) : (s.setCore k c).gated = s.gated := rfl

@[simp] theorem State.gated_updCore (s : State) (k : Nat) (f : CoreSt → CoreSt) : (s.updCore k f).gated = s.gated := rfl

@[simp] theorem State.gated_updCtx (s : State) (k : Nat) (x : Ctx) (f : CtxSt → CtxSt) : (s.updCtx k x f).gated = s.gated := rfl

@[simp] theorem State.links_setCore (s : State) (k : Nat) (c : CoreSt) : (s.setCore k c).links = s.links := rfl

@[simp] theorem State.links_updCore (s : State) (k : Nat) (f : CoreSt → CoreSt) : (s.updCore k f).links = s.links := rfl

@[simp] theorem State.links_updCtx (s : State) (k : Nat) (x : Ctx) (f : CtxSt → CtxSt) : (s.updCtx k x f).links = s.links := rfl

@[simp] theorem State.ports_setCore (s : State) (k : Nat) (c : CoreSt) : (s.setCore k c).ports = s.ports := rfl

@[simp] theorem State.ports_updCore (s : State) (k : Nat) (f : CoreSt → CoreSt) : (s.updCore k f).ports = s.ports := rfl

@[simp] theorem State.ports_updCtx (s : State) (k : Nat) (x : Ctx) (f : CtxSt → CtxSt) : (s.updCtx k x f).ports = s.ports := rfl

@[simp] theorem State.queues_setCore (s : State) (k : Nat) (c : CoreSt) : (s.setCore k c).queues = s.queues := rfl

@[simp] theorem State.queues_updCore (s : State) (k : Nat) (f : CoreSt → CoreSt) : (s.updCore k f).queues = s.queues := rfl

@[simp] theorem State.queues_updCtx (s : State) (k : Nat) (x : Ctx) (f : CtxSt → CtxSt) : (s.updCtx k x f).queues = s.queues := rfl

@[simp] theorem State.boot_setCore (s : State) (k : Nat) (c : CoreSt) : (s.setCore k c).boot = s.boot := rfl

@[simp] theorem State.boot_updCore (s : State) (k : Nat) (f : CoreSt → CoreSt) : (s.updCore k f).boot = s.boot := rfl

@[simp] theorem State.boot_updCtx (s : State) (k : Nat) (x : Ctx) (f : CtxSt → CtxSt) : (s.updCtx k x f).boot = s.boot := rfl

@[simp] theorem State.mbox_setCore (s : State) (k : Nat) (c : CoreSt) : (s.setCore k c).mbox = s.mbox := rfl

@[simp] theorem State.mbox_updCore (s : State) (k : Nat) (f : CoreSt → CoreSt) : (s.updCore k f).mbox = s.mbox := rfl

@[simp] theorem State.mbox_updCtx (s : State) (k : Nat) (x : Ctx) (f : CtxSt → CtxSt) : (s.updCtx k x f).mbox = s.mbox := rfl

@[simp] theorem State.holds_setCore (s : State) (k : Nat) (c : CoreSt) : (s.setCore k c).holds = s.holds := rfl

@[simp] theorem State.holds_updCore (s : State) (k : Nat) (f : CoreSt → CoreSt) : (s.updCore k f).holds = s.holds := rfl

@[simp] theorem State.holds_updCtx (s : State) (k : Nat) (x : Ctx) (f : CtxSt → CtxSt) : (s.updCtx k x f).holds = s.holds := rfl

@[simp] theorem State.devMig_setCore (s : State) (k : Nat) (c : CoreSt) : (s.setCore k c).devMig = s.devMig := rfl

@[simp] theorem State.devMig_updCore (s : State) (k : Nat) (f : CoreSt → CoreSt) : (s.updCore k f).devMig = s.devMig := rfl

@[simp] theorem State.devMig_updCtx (s : State) (k : Nat) (x : Ctx) (f : CtxSt → CtxSt) : (s.updCtx k x f).devMig = s.devMig := rfl

@[simp] theorem State.colls_setCore (s : State) (k : Nat) (c : CoreSt) : (s.setCore k c).colls = s.colls := rfl

@[simp] theorem State.colls_updCore (s : State) (k : Nat) (f : CoreSt → CoreSt) : (s.updCore k f).colls = s.colls := rfl

@[simp] theorem State.colls_updCtx (s : State) (k : Nat) (x : Ctx) (f : CtxSt → CtxSt) : (s.updCtx k x f).colls = s.colls := rfl

@[simp] theorem State.seqLog_setCore (s : State) (k : Nat) (c : CoreSt) : (s.setCore k c).seqLog = s.seqLog := rfl

@[simp] theorem State.seqLog_updCore (s : State) (k : Nat) (f : CoreSt → CoreSt) : (s.updCore k f).seqLog = s.seqLog := rfl

@[simp] theorem State.seqLog_updCtx (s : State) (k : Nat) (x : Ctx) (f : CtxSt → CtxSt) : (s.updCtx k x f).seqLog = s.seqLog := rfl

@[simp] theorem State.refresh_setCore (s : State) (k : Nat) (c : CoreSt) : (s.setCore k c).refresh = s.refresh := rfl

@[simp] theorem State.refresh_updCore (s : State) (k : Nat) (f : CoreSt → CoreSt) : (s.updCore k f).refresh = s.refresh := rfl

@[simp] theorem State.refresh_updCtx (s : State) (k : Nat) (x : Ctx) (f : CtxSt → CtxSt) : (s.updCtx k x f).refresh = s.refresh := rfl

@[simp] theorem State.msix_setCore (s : State) (k : Nat) (c : CoreSt) : (s.setCore k c).msix = s.msix := rfl

@[simp] theorem State.msix_updCore (s : State) (k : Nat) (f : CoreSt → CoreSt) : (s.updCore k f).msix = s.msix := rfl

@[simp] theorem State.msix_updCtx (s : State) (k : Nat) (x : Ctx) (f : CtxSt → CtxSt) : (s.updCtx k x f).msix = s.msix := rfl

@[simp] theorem State.lpInts_setCore (s : State) (k : Nat) (c : CoreSt) : (s.setCore k c).lpInts = s.lpInts := rfl

@[simp] theorem State.lpInts_updCore (s : State) (k : Nat) (f : CoreSt → CoreSt) : (s.updCore k f).lpInts = s.lpInts := rfl

@[simp] theorem State.lpInts_updCtx (s : State) (k : Nat) (x : Ctx) (f : CtxSt → CtxSt) : (s.updCtx k x f).lpInts = s.lpInts := rfl

@[simp] theorem State.tampered_setCore (s : State) (k : Nat) (c : CoreSt) : (s.setCore k c).tampered = s.tampered := rfl

@[simp] theorem State.tampered_updCore (s : State) (k : Nat) (f : CoreSt → CoreSt) : (s.updCore k f).tampered = s.tampered := rfl

@[simp] theorem State.tampered_updCtx (s : State) (k : Nat) (x : Ctx) (f : CtxSt → CtxSt) : (s.updCtx k x f).tampered = s.tampered := rfl

@[simp] theorem State.corrected_setCore (s : State) (k : Nat) (c : CoreSt) : (s.setCore k c).corrected = s.corrected := rfl

@[simp] theorem State.corrected_updCore (s : State) (k : Nat) (f : CoreSt → CoreSt) : (s.updCore k f).corrected = s.corrected := rfl

@[simp] theorem State.corrected_updCtx (s : State) (k : Nat) (x : Ctx) (f : CtxSt → CtxSt) : (s.updCtx k x f).corrected = s.corrected := rfl

@[simp] theorem State.walks_setCore (s : State) (k : Nat) (c : CoreSt) : (s.setCore k c).walks = s.walks := rfl

@[simp] theorem State.walks_updCore (s : State) (k : Nat) (f : CoreSt → CoreSt) : (s.updCore k f).walks = s.walks := rfl

@[simp] theorem State.walks_updCtx (s : State) (k : Nat) (x : Ctx) (f : CtxSt → CtxSt) : (s.updCtx k x f).walks = s.walks := rfl

@[simp] theorem State.moved_setCore (s : State) (k : Nat) (c : CoreSt) : (s.setCore k c).moved = s.moved := rfl

@[simp] theorem State.moved_updCore (s : State) (k : Nat) (f : CoreSt → CoreSt) : (s.updCore k f).moved = s.moved := rfl

@[simp] theorem State.moved_updCtx (s : State) (k : Nat) (x : Ctx) (f : CtxSt → CtxSt) : (s.updCtx k x f).moved = s.moved := rfl

@[simp] theorem State.graphs_setCore (s : State) (k : Nat) (c : CoreSt) : (s.setCore k c).graphs = s.graphs := rfl

@[simp] theorem State.graphs_updCore (s : State) (k : Nat) (f : CoreSt → CoreSt) : (s.updCore k f).graphs = s.graphs := rfl

@[simp] theorem State.graphs_updCtx (s : State) (k : Nat) (x : Ctx) (f : CtxSt → CtxSt) : (s.updCtx k x f).graphs = s.graphs := rfl

@[simp] theorem State.releases_setCore (s : State) (k : Nat) (c : CoreSt) : (s.setCore k c).releases = s.releases := rfl

@[simp] theorem State.releases_updCore (s : State) (k : Nat) (f : CoreSt → CoreSt) : (s.updCore k f).releases = s.releases := rfl

@[simp] theorem State.releases_updCtx (s : State) (k : Nat) (x : Ctx) (f : CtxSt → CtxSt) : (s.updCtx k x f).releases = s.releases := rfl

@[simp] theorem State.crowded_setCore (s : State) (k : Nat) (c : CoreSt) : (s.setCore k c).crowded = s.crowded := rfl

@[simp] theorem State.freed_setCore (s : State) (k : Nat) (c : CoreSt) : (s.setCore k c).freed = s.freed := rfl

@[simp] theorem State.portParts_setCore (s : State) (k : Nat) (c : CoreSt) : (s.setCore k c).portParts = s.portParts := rfl

@[simp] theorem State.crowded_updCore (s : State) (k : Nat) (f : CoreSt → CoreSt) : (s.updCore k f).crowded = s.crowded := rfl

@[simp] theorem State.freed_updCore (s : State) (k : Nat) (f : CoreSt → CoreSt) : (s.updCore k f).freed = s.freed := rfl

@[simp] theorem State.portParts_updCore (s : State) (k : Nat) (f : CoreSt → CoreSt) : (s.updCore k f).portParts = s.portParts := rfl

@[simp] theorem State.crowded_updCtx (s : State) (k : Nat) (x : Ctx) (f : CtxSt → CtxSt) : (s.updCtx k x f).crowded = s.crowded := rfl

@[simp] theorem State.freed_updCtx (s : State) (k : Nat) (x : Ctx) (f : CtxSt → CtxSt) : (s.updCtx k x f).freed = s.freed := rfl

@[simp] theorem State.portParts_updCtx (s : State) (k : Nat) (x : Ctx) (f : CtxSt → CtxSt) : (s.updCtx k x f).portParts = s.portParts := rfl

@[simp] theorem State.windows_setCore (s : State) (k : Nat) (c : CoreSt) : (s.setCore k c).windows = s.windows := rfl

@[simp] theorem State.windows_updCore (s : State) (k : Nat) (f : CoreSt → CoreSt) : (s.updCore k f).windows = s.windows := rfl

@[simp] theorem State.windows_updCtx (s : State) (k : Nat) (x : Ctx) (f : CtxSt → CtxSt) : (s.updCtx k x f).windows = s.windows := rfl

/-! ### Fields of the state, after a change of a partition or of a task -/

@[simp] theorem State.part_updPart_same (s : State) (p : Nat) (f : Part → Part) : (s.updPart p f).part p = f (s.part p) :=
  Sparse.get_put_same ..

theorem State.part_updPart_other (s : State) (p q : Nat) (f : Part → Part) (h : q ≠ p) : (s.updPart p f).part q = s.part q :=
  Sparse.get_put_other _ _ _ _ _ h

@[simp] theorem State.task?_setTask_same (s : State) (t : Task) : (s.setTask t).task? t.seq = some t := Sparse.find_put_same ..

theorem State.task?_setTask_other (s : State) (t : Task) (q : Nat) (h : q ≠ t.seq) : (s.setTask t).task? q = s.task? q :=
  Sparse.find_put_other _ _ _ _ h

@[simp] theorem State.turn_updPart (s : State) (p : Nat) (f : Part → Part) : (s.updPart p f).turn = s.turn := rfl

@[simp] theorem State.who_updPart (s : State) (p : Nat) (f : Part → Part) : (s.updPart p f).who = s.who := rfl

@[simp] theorem State.ticks_updPart (s : State) (p : Nat) (f : Part → Part) : (s.updPart p f).ticks = s.ticks := rfl

@[simp] theorem State.now_updPart (s : State) (p : Nat) (f : Part → Part) : (s.updPart p f).now = s.now := rfl

@[simp] theorem State.cores_updPart (s : State) (p : Nat) (f : Part → Part) : (s.updPart p f).cores = s.cores := rfl

@[simp] theorem State.hbm_updPart (s : State) (p : Nat) (f : Part → Part) : (s.updPart p f).hbm = s.hbm := rfl

@[simp] theorem State.host_updPart (s : State) (p : Nat) (f : Part → Part) : (s.updPart p f).host = s.host := rfl

@[simp] theorem State.tier_updPart (s : State) (p : Nat) (f : Part → Part) : (s.updPart p f).tier = s.tier := rfl

@[simp] theorem State.ws_updPart (s : State) (p : Nat) (f : Part → Part) : (s.updPart p f).ws = s.ws := rfl

@[simp] theorem State.bad_updPart (s : State) (p : Nat) (f : Part → Part) : (s.updPart p f).bad = s.bad := rfl

@[simp] theorem State.tampered_updPart (s : State) (p : Nat) (f : Part → Part) : (s.updPart p f).tampered = s.tampered := rfl

@[simp] theorem State.corrected_updPart (s : State) (p : Nat) (f : Part → Part) : (s.updPart p f).corrected = s.corrected := rfl

@[simp] theorem State.grans_updPart (s : State) (p : Nat) (f : Part → Part) : (s.updPart p f).grans = s.grans := rfl

@[simp] theorem State.tlb2_updPart (s : State) (p : Nat) (f : Part → Part) : (s.updPart p f).tlb2 = s.tlb2 := rfl

@[simp] theorem State.walks_updPart (s : State) (p : Nat) (f : Part → Part) : (s.updPart p f).walks = s.walks := rfl

@[simp] theorem State.moved_updPart (s : State) (p : Nat) (f : Part → Part) : (s.updPart p f).moved = s.moved := rfl

@[simp] theorem State.tasks_updPart (s : State) (p : Nat) (f : Part → Part) : (s.updPart p f).tasks = s.tasks := rfl

@[simp] theorem State.nextSeq_updPart (s : State) (p : Nat) (f : Part → Part) : (s.updPart p f).nextSeq = s.nextSeq := rfl

@[simp] theorem State.graphs_updPart (s : State) (p : Nat) (f : Part → Part) : (s.updPart p f).graphs = s.graphs := rfl

@[simp] theorem State.releases_updPart (s : State) (p : Nat) (f : Part → Part) : (s.updPart p f).releases = s.releases := rfl

@[simp] theorem State.crowded_updPart (s : State) (p : Nat) (f : Part → Part) : (s.updPart p f).crowded = s.crowded := rfl

@[simp] theorem State.freed_updPart (s : State) (p : Nat) (f : Part → Part) : (s.updPart p f).freed = s.freed := rfl

@[simp] theorem State.portParts_updPart (s : State) (p : Nat) (f : Part → Part) : (s.updPart p f).portParts = s.portParts := rfl

@[simp] theorem State.vlines_updPart (s : State) (p : Nat) (f : Part → Part) : (s.updPart p f).vlines = s.vlines := rfl

@[simp] theorem State.binds_updPart (s : State) (p : Nat) (f : Part → Part) : (s.updPart p f).binds = s.binds := rfl

@[simp] theorem State.slotTab_updPart (s : State) (p : Nat) (f : Part → Part) : (s.updPart p f).slotTab = s.slotTab := rfl

@[simp] theorem State.slotNew_updPart (s : State) (p : Nat) (f : Part → Part) : (s.updPart p f).slotNew = s.slotNew := rfl

@[simp] theorem State.isl_updPart (s : State) (p : Nat) (f : Part → Part) : (s.updPart p f).isl = s.isl := rfl

@[simp] theorem State.gov_updPart (s : State) (p : Nat) (f : Part → Part) : (s.updPart p f).gov = s.gov := rfl

@[simp] theorem State.gated_updPart (s : State) (p : Nat) (f : Part → Part) : (s.updPart p f).gated = s.gated := rfl

@[simp] theorem State.links_updPart (s : State) (p : Nat) (f : Part → Part) : (s.updPart p f).links = s.links := rfl

@[simp] theorem State.ports_updPart (s : State) (p : Nat) (f : Part → Part) : (s.updPart p f).ports = s.ports := rfl

@[simp] theorem State.queues_updPart (s : State) (p : Nat) (f : Part → Part) : (s.updPart p f).queues = s.queues := rfl

@[simp] theorem State.boot_updPart (s : State) (p : Nat) (f : Part → Part) : (s.updPart p f).boot = s.boot := rfl

@[simp] theorem State.mbox_updPart (s : State) (p : Nat) (f : Part → Part) : (s.updPart p f).mbox = s.mbox := rfl

@[simp] theorem State.holds_updPart (s : State) (p : Nat) (f : Part → Part) : (s.updPart p f).holds = s.holds := rfl

@[simp] theorem State.devMig_updPart (s : State) (p : Nat) (f : Part → Part) : (s.updPart p f).devMig = s.devMig := rfl

@[simp] theorem State.colls_updPart (s : State) (p : Nat) (f : Part → Part) : (s.updPart p f).colls = s.colls := rfl

@[simp] theorem State.seqLog_updPart (s : State) (p : Nat) (f : Part → Part) : (s.updPart p f).seqLog = s.seqLog := rfl

@[simp] theorem State.refresh_updPart (s : State) (p : Nat) (f : Part → Part) : (s.updPart p f).refresh = s.refresh := rfl

@[simp] theorem State.windows_updPart (s : State) (p : Nat) (f : Part → Part) : (s.updPart p f).windows = s.windows := rfl

@[simp] theorem State.msix_updPart (s : State) (p : Nat) (f : Part → Part) : (s.updPart p f).msix = s.msix := rfl

@[simp] theorem State.lpInts_updPart (s : State) (p : Nat) (f : Part → Part) : (s.updPart p f).lpInts = s.lpInts := rfl

@[simp] theorem State.turn_setTask (s : State) (t : Task) : (s.setTask t).turn = s.turn := rfl

@[simp] theorem State.who_setTask (s : State) (t : Task) : (s.setTask t).who = s.who := rfl

@[simp] theorem State.ticks_setTask (s : State) (t : Task) : (s.setTask t).ticks = s.ticks := rfl

@[simp] theorem State.now_setTask (s : State) (t : Task) : (s.setTask t).now = s.now := rfl

@[simp] theorem State.cores_setTask (s : State) (t : Task) : (s.setTask t).cores = s.cores := rfl

@[simp] theorem State.hbm_setTask (s : State) (t : Task) : (s.setTask t).hbm = s.hbm := rfl

@[simp] theorem State.host_setTask (s : State) (t : Task) : (s.setTask t).host = s.host := rfl

@[simp] theorem State.tier_setTask (s : State) (t : Task) : (s.setTask t).tier = s.tier := rfl

@[simp] theorem State.ws_setTask (s : State) (t : Task) : (s.setTask t).ws = s.ws := rfl

@[simp] theorem State.bad_setTask (s : State) (t : Task) : (s.setTask t).bad = s.bad := rfl

@[simp] theorem State.tampered_setTask (s : State) (t : Task) : (s.setTask t).tampered = s.tampered := rfl

@[simp] theorem State.corrected_setTask (s : State) (t : Task) : (s.setTask t).corrected = s.corrected := rfl

@[simp] theorem State.grans_setTask (s : State) (t : Task) : (s.setTask t).grans = s.grans := rfl

@[simp] theorem State.tlb2_setTask (s : State) (t : Task) : (s.setTask t).tlb2 = s.tlb2 := rfl

@[simp] theorem State.walks_setTask (s : State) (t : Task) : (s.setTask t).walks = s.walks := rfl

@[simp] theorem State.moved_setTask (s : State) (t : Task) : (s.setTask t).moved = s.moved := rfl

@[simp] theorem State.parts_setTask (s : State) (t : Task) : (s.setTask t).parts = s.parts := rfl

@[simp] theorem State.nextSeq_setTask (s : State) (t : Task) : (s.setTask t).nextSeq = s.nextSeq := rfl

@[simp] theorem State.graphs_setTask (s : State) (t : Task) : (s.setTask t).graphs = s.graphs := rfl

@[simp] theorem State.releases_setTask (s : State) (t : Task) : (s.setTask t).releases = s.releases := rfl

@[simp] theorem State.crowded_setTask (s : State) (t : Task) : (s.setTask t).crowded = s.crowded := rfl

@[simp] theorem State.freed_setTask (s : State) (t : Task) : (s.setTask t).freed = s.freed := rfl

@[simp] theorem State.portParts_setTask (s : State) (t : Task) : (s.setTask t).portParts = s.portParts := rfl

@[simp] theorem State.vlines_setTask (s : State) (t : Task) : (s.setTask t).vlines = s.vlines := rfl

@[simp] theorem State.binds_setTask (s : State) (t : Task) : (s.setTask t).binds = s.binds := rfl

@[simp] theorem State.slotTab_setTask (s : State) (t : Task) : (s.setTask t).slotTab = s.slotTab := rfl

@[simp] theorem State.slotNew_setTask (s : State) (t : Task) : (s.setTask t).slotNew = s.slotNew := rfl

@[simp] theorem State.isl_setTask (s : State) (t : Task) : (s.setTask t).isl = s.isl := rfl

@[simp] theorem State.gov_setTask (s : State) (t : Task) : (s.setTask t).gov = s.gov := rfl

@[simp] theorem State.gated_setTask (s : State) (t : Task) : (s.setTask t).gated = s.gated := rfl

@[simp] theorem State.links_setTask (s : State) (t : Task) : (s.setTask t).links = s.links := rfl

@[simp] theorem State.ports_setTask (s : State) (t : Task) : (s.setTask t).ports = s.ports := rfl

@[simp] theorem State.queues_setTask (s : State) (t : Task) : (s.setTask t).queues = s.queues := rfl

@[simp] theorem State.boot_setTask (s : State) (t : Task) : (s.setTask t).boot = s.boot := rfl

@[simp] theorem State.mbox_setTask (s : State) (t : Task) : (s.setTask t).mbox = s.mbox := rfl

@[simp] theorem State.holds_setTask (s : State) (t : Task) : (s.setTask t).holds = s.holds := rfl

@[simp] theorem State.devMig_setTask (s : State) (t : Task) : (s.setTask t).devMig = s.devMig := rfl

@[simp] theorem State.colls_setTask (s : State) (t : Task) : (s.setTask t).colls = s.colls := rfl

@[simp] theorem State.seqLog_setTask (s : State) (t : Task) : (s.setTask t).seqLog = s.seqLog := rfl

@[simp] theorem State.refresh_setTask (s : State) (t : Task) : (s.setTask t).refresh = s.refresh := rfl

@[simp] theorem State.windows_setTask (s : State) (t : Task) : (s.setTask t).windows = s.windows := rfl

@[simp] theorem State.msix_setTask (s : State) (t : Task) : (s.setTask t).msix = s.msix := rfl

@[simp] theorem State.lpInts_setTask (s : State) (t : Task) : (s.setTask t).lpInts = s.lpInts := rfl

/-! ### Registers -/

@[simp] theorem CtxSt.reg_zero (c : CtxSt) : c.reg 0 = 0 := rfl

@[simp] theorem CtxSt.setReg_zero (c : CtxSt) (v : Word) : c.setReg 0 v = c := rfl

theorem CtxSt.reg_setReg (c : CtxSt) (x y : Reg) (v : Word) :
    (c.setReg x v).reg y = if y = x ∧ x ≠ 0 then v else c.reg y := by
  unfold CtxSt.setReg CtxSt.reg
  by_cases hx : x = 0
  · subst hx; simp
  · by_cases hy : y = 0
    · subst hy; simp only [if_true]; split
      · next h => exact absurd h.1.symm h.2
      · rfl
    · simp only [hx, hy, if_false, Sparse.get_set, ne_eq, not_false_eq_true, and_true]
      by_cases h : y = x
      · subst h; simp
      · have : y.toNat ≠ x.toNat := fun e => h (BitVec.eq_of_toNat_eq e)
        simp [h, this]

@[simp] theorem CtxSt.pc_setReg (c : CtxSt) (x : Reg) (v : Word) : (c.setReg x v).pc = c.pc := by
  unfold CtxSt.setReg; split <;> rfl

@[simp] theorem CtxSt.run_setReg (c : CtxSt) (x : Reg) (v : Word) : (c.setReg x v).run = c.run := by
  unfold CtxSt.setReg; split <;> rfl

@[simp] theorem CtxSt.ended_setReg (c : CtxSt) (x : Reg) (v : Word) : (c.setReg x v).ended = c.ended := by
  unfold CtxSt.setReg; split <;> rfl

@[simp] theorem CtxSt.level_setReg (c : CtxSt) (x : Reg) (v : Word) : (c.setReg x v).level = c.level := by
  unfold CtxSt.setReg; split <;> rfl

@[simp] theorem CtxSt.wbase_setReg (c : CtxSt) (x : Reg) (v : Word) : (c.setReg x v).wbase = c.wbase := by
  unfold CtxSt.setReg; split <;> rfl

@[simp] theorem CtxSt.wwords_setReg (c : CtxSt) (x : Reg) (v : Word) : (c.setReg x v).wwords = c.wwords := by
  unfold CtxSt.setReg; split <;> rfl

@[simp] theorem CtxSt.exposed_setReg (c : CtxSt) (x : Reg) (v : Word) : (c.setReg x v).exposed = c.exposed := by
  unfold CtxSt.setReg; split <;> rfl

@[simp] theorem CtxSt.slack_setReg (c : CtxSt) (x : Reg) (v : Word) : (c.setReg x v).slack = c.slack := by
  unfold CtxSt.setReg; split <;> rfl

@[simp] theorem CtxSt.nonStop_setReg (c : CtxSt) (x : Reg) (v : Word) : (c.setReg x v).nonStop = c.nonStop := by
  unfold CtxSt.setReg; split <;> rfl

@[simp] theorem CtxSt.spaceovr_setReg (c : CtxSt) (x : Reg) (v : Word) : (c.setReg x v).spaceovr = c.spaceovr := by
  unfold CtxSt.setReg; split <;> rfl

@[simp] theorem CtxSt.sflags_setReg (c : CtxSt) (x : Reg) (v : Word) : (c.setReg x v).sflags = c.sflags := by
  unfold CtxSt.setReg; split <;> rfl

@[simp] theorem CtxSt.loops_setReg (c : CtxSt) (x : Reg) (v : Word) : (c.setReg x v).loops = c.loops := by
  unfold CtxSt.setReg; split <;> rfl

@[simp] theorem CtxSt.icycle_setReg (c : CtxSt) (x : Reg) (v : Word) : (c.setReg x v).icycle = c.icycle := by
  unfold CtxSt.setReg; split <;> rfl

@[simp] theorem CtxSt.pair_setReg (c : CtxSt) (x : Reg) (v : Word) : (c.setReg x v).pair = c.pair := by
  unfold CtxSt.setReg; split <;> rfl

@[simp] theorem CtxSt.flights_setReg (c : CtxSt) (x : Reg) (v : Word) : (c.setReg x v).flights = c.flights := by
  unfold CtxSt.setReg; split <;> rfl

@[simp] theorem CtxSt.sigs_setReg (c : CtxSt) (x : Reg) (v : Word) : (c.setReg x v).sigs = c.sigs := by
  unfold CtxSt.setReg; split <;> rfl

@[simp] theorem CtxSt.pend_setReg (c : CtxSt) (x : Reg) (v : Word) : (c.setReg x v).pend = c.pend := by
  unfold CtxSt.setReg; split <;> rfl

@[simp] theorem CtxSt.blocked_setReg (c : CtxSt) (x : Reg) (v : Word) : (c.setReg x v).blocked = c.blocked := by
  unfold CtxSt.setReg; split <;> rfl

@[simp] theorem CtxSt.forced_setReg (c : CtxSt) (x : Reg) (v : Word) : (c.setReg x v).forced = c.forced := by
  unfold CtxSt.setReg; split <;> rfl

@[simp] theorem CtxSt.attached_setReg (c : CtxSt) (x : Reg) (v : Word) : (c.setReg x v).attached = c.attached := by
  unfold CtxSt.setReg; split <;> rfl

@[simp] theorem CtxSt.accq_setReg (c : CtxSt) (x : Reg) (v : Word) : (c.setReg x v).accq = c.accq := by
  unfold CtxSt.setReg; split <;> rfl

@[simp] theorem CtxSt.accHalt_setReg (c : CtxSt) (x : Reg) (v : Word) : (c.setReg x v).accHalt = c.accHalt := by
  unfold CtxSt.setReg; split <;> rfl

@[simp] theorem CtxSt.marks_setReg (c : CtxSt) (x : Reg) (v : Word) : (c.setReg x v).marks = c.marks := by
  unfold CtxSt.setReg; split <;> rfl

@[simp] theorem CtxSt.marked_setReg (c : CtxSt) (x : Reg) (v : Word) : (c.setReg x v).marked = c.marked := by
  unfold CtxSt.setReg; split <;> rfl

@[simp] theorem CtxSt.engq_setReg (c : CtxSt) (x : Reg) (v : Word) : (c.setReg x v).engq = c.engq := by
  unfold CtxSt.setReg; split <;> rfl

@[simp] theorem CtxSt.fifoP_setReg (c : CtxSt) (x : Reg) (v : Word) : (c.setReg x v).fifoP = c.fifoP := by
  unfold CtxSt.setReg; split <;> rfl

@[simp] theorem CtxSt.fifoN_setReg (c : CtxSt) (x : Reg) (v : Word) : (c.setReg x v).fifoN = c.fifoN := by
  unfold CtxSt.setReg; split <;> rfl

@[simp] theorem CtxSt.cqP_setReg (c : CtxSt) (x : Reg) (v : Word) : (c.setReg x v).cqP = c.cqP := by
  unfold CtxSt.setReg; split <;> rfl

@[simp] theorem CtxSt.cqN_setReg (c : CtxSt) (x : Reg) (v : Word) : (c.setReg x v).cqN = c.cqN := by
  unfold CtxSt.setReg; split <;> rfl

@[simp] theorem CtxSt.frame_setReg (c : CtxSt) (x : Reg) (v : Word) : (c.setReg x v).frame = c.frame := by
  unfold CtxSt.setReg; split <;> rfl

@[simp] theorem CtxSt.newFlags_setReg (c : CtxSt) (x : Reg) (v : Word) : (c.setReg x v).newFlags = c.newFlags := by
  unfold CtxSt.setReg; split <;> rfl

end Sys2Proof.Machine
end

