-- ==== Sys2Proof/Laws/Aborts.lean ====
section
/-! SUPPORT. What an abort can touch (R298, R299): cores, partitions' creations and queue entries, tasks, version lines, bindings,
requests to governors, berth granules, and in HBM the headers of the scheduler's segments. Everything else stays; and without a
read set to abort, nothing changes. -/

namespace Sys2Proof.Machine

open Sys2Proof

/-- `t` differs from `s` at most where an abort can reach; HBM, where the scheduler keeps its queues, stays in canonical form. -/
structure State.Aborted (s t : State) : Prop where
  rest : t = { s with cores := t.cores, parts := t.parts, tasks := t.tasks, vlines := t.vlines, binds := t.binds, gov := t.gov,
                      grans := t.grans, hbm := t.hbm }
  wf   : Memory.wf s.hbm = true → Memory.wf t.hbm = true

theorem State.Aborted.refl (s : State) : s.Aborted s := ⟨rfl, id⟩

theorem State.Aborted.trans {s t u : State} (h : s.Aborted t) (h' : t.Aborted u) : s.Aborted u :=
  ⟨by have e := h'.rest
      rw [h.rest] at e
      exact e,
   fun w => h'.wf (h.wf w)⟩

/-- Parts of the state that hold no memory. -/
theorem State.Aborted.of {s t : State} (h : t = { s with cores := t.cores, parts := t.parts, tasks := t.tasks, vlines := t.vlines
                                                         binds := t.binds, gov := t.gov, grans := t.grans }) : s.Aborted t := by
  have e : t.hbm = s.hbm := by rw [h]
  refine ⟨?_, fun w => e ▸ w⟩
  rw [h]

theorem State.aborted_foldl {α : Type} (l : List α) (f : State → α → State) (hf : ∀ (s : State) a, s.Aborted (f s a)) (s : State) :
    s.Aborted (l.foldl f s) := by
  induction l generalizing s with
  | nil => exact .refl s
  | cons a l ih => exact (hf s a).trans (ih _)

theorem State.aborted_updPart (s : State) (p : Nat) (f : Part → Part) : s.Aborted (s.updPart p f) := .of rfl

/-- Eight bytes cover no line. -/
theorem wholeLines_eight (a : Nat) (bs : List Byte) (h : bs.length = 8) : wholeLines a bs.length = [] := by
  unfold wholeLines
  rw [List.filter_eq_nil_iff]
  intro l _
  simp only [Bool.and_eq_true, decide_eq_true_eq]
  omega

/-- A write of a segment header touches HBM alone. -/
theorem State.segWord_eq (s : State) (pa v : Nat) : s.segWord pa v = { s with hbm := s.hbm.setBytes pa (leBytes 8 v) } := by
  unfold State.segWord State.putBytes
  rw [wholeLines_eight pa _ (by simp [leBytes])]
  rfl

theorem State.aborted_segWord (s : State) (pa v : Nat) : s.Aborted (s.segWord pa v) := by
  rw [State.segWord_eq]
  exact ⟨rfl, fun w => Memory.wf_setBytes w _ _⟩

theorem State.aborted_writeChain (s : State) (l : List Seg) : s.Aborted (s.writeChain l) := by
  induction l generalizing s with
  | nil => exact .refl s
  | cons g r ih => exact ((s.aborted_segWord _ _).trans (State.aborted_segWord _ _ _)).trans (ih _)

theorem State.aborted_reclaim (s : State) (p : Nat) (g : Seg) : s.Aborted (s.reclaim p g) := by
  unfold State.reclaim
  split
  · exact .refl s
  · exact (((s.aborted_updPart _ _).trans (State.aborted_segWord _ _ _)).trans (State.aborted_segWord _ _ _)).trans
      (State.aborted_writeChain _ _)

theorem State.aborted_dropEntry (s : State) (p q : Nat) : s.Aborted (s.dropEntry p q) := by
  unfold State.dropEntry
  split
  · exact .refl s
  · exact ((s.aborted_updPart _ _).trans (State.aborted_segWord _ _ _)).trans (State.aborted_reclaim _ _ _)

theorem State.aborted_shareRun (s : State) (b : Berth) (f : Nat → Nat) : s.Aborted (s.shareRun b f) :=
  State.aborted_foldl _ _ (fun s _ => .of (by unfold State.setGran; rfl)) s

theorem State.aborted_freeName (s : State) (w : Word) : s.Aborted (s.freeName w) := by
  unfold State.freeName
  split
  · exact s.aborted_shareRun _ _
  · exact .refl s

theorem State.aborted_relinquish (s : State) (w : Word) : s.Aborted (s.relinquish w) := by
  unfold State.relinquish
  split
  · exact s.aborted_shareRun _ _
  · exact .refl s

theorem State.aborted_forCores (s : State) (ks : List Nat) (f : CoreSt → CoreSt) : s.Aborted (s.forCores ks f) :=
  State.aborted_foldl _ _ (fun s _ => .of (by unfold State.updCore State.setCore; rfl)) s

theorem State.Aborted.ite {s t u : State} {p : Prop} [Decidable p] (h : s.Aborted t) (h' : s.Aborted u) :
    s.Aborted (if p then t else u) := by split <;> assumption

theorem State.aborted_discard (s : State) (t : Task) : s.Aborted (s.discard t) := by
  have h : ∀ v : State, s.Aborted v →
      s.Aborted (t.shares.foldl (fun s w => s.relinquish w) (t.berths.foldl (fun s w => s.freeName w) v)) := fun v hv =>
    (hv.trans (State.aborted_foldl t.berths _ State.aborted_freeName v)).trans
      (State.aborted_foldl t.shares _ State.aborted_relinquish _)
  unfold State.discard
  refine State.Aborted.trans ?_ (State.aborted_forCores _ _ _)
  exact .ite ((h _ (.of rfl)).trans (State.aborted_updPart _ _ _)) (h _ (.of rfl))

theorem State.aborted_abortOne (s : State) (a : List Nat) (q : Nat) : s.Aborted (s.abortOne a q) := by
  unfold State.abortOne
  split
  · exact .refl s
  · rename_i t _
    refine (s.aborted_discard t).trans ?_
    unfold State.requeue
    split
    · exact (State.aborted_dropEntry _ _ _).trans (.of rfl)
    · exact .of rfl

theorem State.aborted_abort (s : State) (q : Nat) : s.Aborted (s.abort q) :=
  (State.aborted_foldl _ _ (fun s i => s.aborted_abortOne _ i) s).trans (.of rfl)

/-- Aborts touch nothing else. -/
theorem State.aborted_abortAll (s : State) (qs : List Nat) : s.Aborted (s.abortAll qs) :=
  State.aborted_foldl _ _ (fun s q => s.aborted_abort q) s

@[simp] theorem State.abortAll_nil (s : State) : s.abortAll [] = s := rfl

@[simp] theorem State.host_abortAll (s : State) (qs : List Nat) : (s.abortAll qs).host = s.host := by rw [(s.aborted_abortAll qs).rest]
@[simp] theorem State.tier_abortAll (s : State) (qs : List Nat) : (s.abortAll qs).tier = s.tier := by rw [(s.aborted_abortAll qs).rest]
@[simp] theorem State.ws_abortAll (s : State) (qs : List Nat) : (s.abortAll qs).ws = s.ws := by rw [(s.aborted_abortAll qs).rest]
@[simp] theorem State.who_abortAll (s : State) (qs : List Nat) : (s.abortAll qs).who = s.who := by rw [(s.aborted_abortAll qs).rest]
@[simp] theorem State.bad_abortAll (s : State) (qs : List Nat) : (s.abortAll qs).bad = s.bad := by rw [(s.aborted_abortAll qs).rest]
@[simp] theorem State.seqLog_abortAll (s : State) (qs : List Nat) : (s.abortAll qs).seqLog = s.seqLog := by
  rw [(s.aborted_abortAll qs).rest]
@[simp] theorem State.tlb2_abortAll (s : State) (qs : List Nat) : (s.abortAll qs).tlb2 = s.tlb2 := by rw [(s.aborted_abortAll qs).rest]
@[simp] theorem State.holds_abortAll (s : State) (qs : List Nat) : (s.abortAll qs).holds = s.holds := by
  rw [(s.aborted_abortAll qs).rest]
@[simp] theorem State.devMig_abortAll (s : State) (qs : List Nat) : (s.abortAll qs).devMig = s.devMig := by
  rw [(s.aborted_abortAll qs).rest]
@[simp] theorem State.queues_abortAll (s : State) (qs : List Nat) : (s.abortAll qs).queues = s.queues := by
  rw [(s.aborted_abortAll qs).rest]
@[simp] theorem State.colls_abortAll (s : State) (qs : List Nat) : (s.abortAll qs).colls = s.colls := by
  rw [(s.aborted_abortAll qs).rest]
@[simp] theorem State.now_abortAll (s : State) (qs : List Nat) : (s.abortAll qs).now = s.now := by rw [(s.aborted_abortAll qs).rest]
@[simp] theorem State.ticks_abortAll (s : State) (qs : List Nat) : (s.abortAll qs).ticks = s.ticks := by
  rw [(s.aborted_abortAll qs).rest]
@[simp] theorem State.lpInts_abortAll (s : State) (qs : List Nat) : (s.abortAll qs).lpInts = s.lpInts := by
  rw [(s.aborted_abortAll qs).rest]
@[simp] theorem State.msix_abortAll (s : State) (qs : List Nat) : (s.abortAll qs).msix = s.msix := by rw [(s.aborted_abortAll qs).rest]

@[simp] theorem State.who_putBytes (s : State) (space a : Nat) (bs : List Byte) : (s.putBytes space a bs).who = s.who := by
  unfold State.putBytes
  split <;> rfl

@[simp] theorem State.who_poke (s : State) (space a : Nat) (bs : List Byte) : (s.poke space a bs).who = s.who := by
  unfold State.poke
  dsimp only
  generalize (if space = 0 then _ else _ : List Nat) = hit
  split
  · exact s.who_putBytes space a bs
  · exact s.who_putBytes space a bs

@[simp] theorem State.who_outsideWrite (s : State) (space a : Nat) (bs : List Byte) : (s.outsideWrite space a bs).who = s.who := by
  simp [State.outsideWrite]

@[simp] theorem State.who_partWrite (s : State) (p space a : Nat) (bs : List Byte) : (s.partWrite p space a bs).who = s.who := by
  simp [State.partWrite]

@[simp] theorem State.who_logAt (s : State) (die : Nat) (r : FaultRecord) : (s.logAt die r).who = s.who := by
  unfold State.logAt State.updPart
  dsimp only
  split
  · rfl
  · exact State.who_partWrite ..

@[simp] theorem State.who_log (s : State) (r : FaultRecord) : (s.log r).who = s.who := s.who_logAt r.die r

/-- Where every started task is a frontier, a write of a line aborts nobody (R296). -/
theorem State.lineReaders_nil {s : State} (h : ∀ u, u ∈ s.allTasks → u.started = true → s.isFront u = true)
    (who loose : Task → Bool) (space line : Nat) : s.lineReaders who loose space line = [] := by
  unfold State.lineReaders
  rw [List.map_eq_nil_iff, List.filter_eq_nil_iff]
  intro u hu hc
  simp only [Bool.and_eq_true] at hc
  have := h u hu hc.1.1.2
  simp [this] at hc

/-- Nor does a write from outside. -/
theorem State.outsideConflicts_nil {s : State} (h : ∀ u, u ∈ s.allTasks → u.started = true → s.isFront u = true)
    (p : Option Nat) (space line : Nat) : s.outsideConflicts p space line = [] := State.lineReaders_nil h _ _ _ _

/-- Nor does a write by a task (R295). -/
theorem State.conflicts_nil {s : State} (h : ∀ u, u ∈ s.allTasks → u.started = true → s.isFront u = true)
    (a : Task) (line : Nat) : s.conflicts a line = [] := by
  unfold State.conflicts
  rw [List.map_eq_nil_iff, List.filter_eq_nil_iff]
  intro u hu hc
  simp only [Bool.and_eq_true] at hc
  have hm : u ∈ s.allTasks := (List.mem_filter.mp hu).1
  have := h u hm hc.1.1.2
  simp [this] at hc

/-- Such a write is then the write alone. -/
theorem State.outsideWrite_eq {s : State} (h : ∀ u, u ∈ s.allTasks → u.started = true → s.isFront u = true)
    (space a : Nat) (bs : List Byte) : s.outsideWrite space a bs = s.poke space a bs := by
  unfold State.outsideWrite
  have : (linesOf a bs.length).flatMap (fun l => s.outsideConflicts none space l) = [] := by
    rw [List.flatMap_eq_nil_iff]
    intro l _
    exact State.outsideConflicts_nil h _ _ _
  simp [this]

/-- And so is a write for a partition. -/
theorem State.partWrite_eq {s : State} (h : ∀ u, u ∈ s.allTasks → u.started = true → s.isFront u = true)
    (p space a : Nat) (bs : List Byte) : s.partWrite p space a bs = s.poke space a bs := by
  unfold State.partWrite
  have : (linesOf a bs.length).flatMap (fun l => s.lineReaders (fun _ => true) (fun b => b.part == p) space l) = [] := by
    rw [List.flatMap_eq_nil_iff]
    intro l _
    exact State.lineReaders_nil h _ _ _ _
  simp [this]

end Sys2Proof.Machine
end

