-- ==== Sys2Proof/Laws/Issue.lean ====
section
/-! SUPPORT. The issue of a word: when it goes through, and what every word leaves. -/

namespace Sys2Proof.Machine

open Sys2Proof

theorem Wait.and_go : Wait.and .go .go = .go := rfl

@[simp] theorem State.who_incTk (s : State) (k n a : Nat) (b : Bool) (r : FaultRecord) : (s.incTk k n a b r).who = s.who := by
  unfold State.incTk State.incTkFrom
  dsimp only
  split
  · exact State.who_logAt ..
  · rfl

@[simp] theorem State.who_landOne (s : State) (k : Nat) (x : Ctx) (f : Flight) : (s.landOne k x f).who = s.who := by
  unfold State.landOne
  split <;> first | rfl | skip
  · dsimp only
    split
    · rfl
    · split <;> rfl
  · simp

@[simp] theorem State.who_landWhere (s : State) (k : Nat) (x : Ctx) (p : Flight → Bool) :
    (s.landWhere k x p).who = s.who := by
  unfold State.landWhere
  dsimp only
  generalize h : (State.updCtx s k x _) = t
  have ht : t.who = s.who := by rw [← h]; rfl
  clear h
  generalize (landingOrder _ _) = l
  induction l generalizing t with
  | nil => exact ht
  | cons f r ih => exact ih _ (by simp [ht])

@[simp] theorem State.who_seen (s : State) (c : Ctl) (u : Nat) : (s.seen c u).who = s.who := by
  unfold State.seen State.atCycle
  split
  · exact State.who_landWhere ..
  · rfl

/-- In interlocked mode a word finds the state itself. -/
theorem State.seen_interlocked (s : State) (c : Ctl) (u : Nat) (h : s.me.exposed = false) : s.seen c u = s := by
  simp [State.seen, State.atCycle, h]

/-- A word issues when nothing common stands in its way and its own conditions hold. -/
theorem State.issue_goes (s : State) (i : Instr) (j : Issue)
    (h : s.clear (ctlOf i) j.unit j.tki j.uses = true) (ha : j.allowed.ok s.who.ctx = true)
    (hp : j.priv = true → s.me.level ≠ 0) (hpre : j.pre (s.seen (ctlOf i) j.unit) = none)
    (hb : j.branch = true → (s.seen (ctlOf i) j.unit).me.closing = false)
    (hq : j.queue = true → (s.seen (ctlOf i) j.unit).me.accHalt = none)
    (hc : j.check (s.seen (ctlOf i) j.unit) = none) (ho : j.ordered (s.seen (ctlOf i) j.unit) = none) (hw : j.wait (s.seen (ctlOf i) j.unit) = .go)
    (hl : j.late (s.seen (ctlOf i) j.unit) = none) :
    s.issue i j = .next ((s.seen (ctlOf i) j.unit).commit (ctlOf i) j (s.me.nextCycle (ctlOf i) j.unit)) := by
  have hwho := State.who_seen s (ctlOf i) j.unit
  have hv : s.atCycle (s.me.nextCycle (ctlOf i) j.unit) = s.seen (ctlOf i) j.unit := rfl
  generalize hvv : s.seen (ctlOf i) j.unit = v at *
  simp only [State.clear, hvv, Bool.and_eq_true, Bool.or_eq_true, bne_iff_ne, beq_iff_eq, List.isEmpty_iff,
    Option.isNone_iff_eq_none, Bool.not_eq_true', and_assoc] at h
  obtain ⟨h1, h2, h3b, h3, h4, h5, h6, h7, h8, h9⟩ := h
  have e1 : (j.priv && s.me.level == 0) = false := by
    cases hj : j.priv
    · rfl
    · simpa using hp hj
  have e3 : (j.branch && v.me.closing) = false := by
    cases hj : j.branch
    · rfl
    · simpa using hb hj
  have e4 : v.operandsReady j = true := by
    simp only [State.operandsReady, h4, Bool.true_and, Bool.or_eq_true, Bool.not_eq_true', Option.isNone_iff_eq_none]
    cases hj : j.queue
    · exact .inl rfl
    · exact .inr (hq hj)
  have e5 : v.commonWait (ctlOf i) j = .go := by
    simp [State.commonWait, hwho, h5, h7, h8, Wait.feed, Wait.need, Wait.and]
  have e6 : v.overflows (ctlOf i) j = false := by
    simpa only [State.overflows, hwho] using h9
  have e7 : s.me.forcedDue (ctlOf i).stop = false := by
    simp only [CtxSt.forcedDue, Bool.and_eq_false_iff, beq_eq_false_iff_ne]
    rcases h2 with h2 | h2
    · exact .inl (.inl h2)
    · exact .inl (.inr (by simp [h2]))
  have e8 : v.oldestCause none = none := by simp [State.oldestCause, h3]
  unfold State.issue
  simp [hv, h1, ha, e1, h3b, hpre, e3, e4, hc, ho, hwho, h6, e5, hw, hl, e6, e7, e8, Wait.and]

/-! ### Tokens -/

@[simp] theorem CoreSt.tk_updCtx (c : CoreSt) (x : Ctx) (f : CtxSt → CtxSt) (n : Nat) : (c.updCtx x f).tk n = c.tk n := by
  cases x <;> rfl

theorem CoreSt.tk_setTk (c : CoreSt) (m n : Nat) (t : Tk) : (c.setTk m t).tk n = if n = m then t else c.tk n := by
  simp [CoreSt.tk, CoreSt.setTk, Sparse.get_set]

@[simp] theorem CoreSt.ctx_setTk (c : CoreSt) (n : Nat) (t : Tk) (x : Ctx) : (c.setTk n t).ctx x = c.ctx x := by
  cases x <;> rfl

/-- Counters after a list of them has been consumed. -/
theorem CoreSt.tk_consume (l : List Nat) (c : CoreSt) (n : Nat) :
    (l.foldl (fun c n => let t := c.tk n; c.setTk n { t with count := t.count - 1 }) c).tk n =
      { c.tk n with count := (c.tk n).count - l.count n } := by
  induction l generalizing c with
  | nil => simp
  | cons m l ih =>
    simp only [List.foldl_cons, ih, CoreSt.tk_setTk]
    by_cases h : n = m
    · subst h; simp; omega
    · rw [if_neg h, List.count_cons_of_ne (Ne.symm h)]

theorem CoreSt.ctx_consume (l : List Nat) (c : CoreSt) (x : Ctx) :
    (l.foldl (fun c n => let t := c.tk n; c.setTk n { t with count := t.count - 1 }) c).ctx x = c.ctx x := by
  induction l generalizing c with
  | nil => rfl
  | cons m l ih => simp [List.foldl_cons, ih]

/-- A core but for its counters and its note of starved contexts. -/
def CoreSt.bare (c : CoreSt) : CoreSt := { c with tks := [], starved := [] }

theorem CoreSt.bare_consume (l : List Nat) (c : CoreSt) :
    (l.foldl (fun c n => let t := c.tk n; c.setTk n { t with count := t.count - 1 }) c).bare = c.bare := by
  induction l generalizing c with
  | nil => rfl
  | cons m l ih => simp only [List.foldl_cons, ih]; rfl

theorem CoreSt.tk_takeTokens (c : CoreSt) (x : Ctx) (ctl : Ctl) (tki : List (BitVec 5)) (n : Nat) :
    (c.takeTokens x ctl tki).tk n = { c.tk n with count := (c.tk n).count - (ctlCounts ctl tki).count n } := by
  simp [CoreSt.takeTokens, CoreSt.tk_consume]

theorem CoreSt.ctx_takeTokens (c : CoreSt) (x y : Ctx) (ctl : Ctl) (tki : List (BitVec 5)) :
    (c.takeTokens x ctl tki).ctx y =
      { c.ctx y with
        fifoP := (c.ctx y).fifoP - (if y = x.succ then b2n ctl.popn else 0)
        fifoN := (c.ctx y).fifoN - (if y = x.pred then b2n ctl.popp else 0) } := by
  simp only [CoreSt.takeTokens, CoreSt.ctx_consume]
  cases x <;> cases y <;> simp [CoreSt.updCtx, CoreSt.setCtx, CoreSt.ctx, Ctx.succ, Ctx.pred]

theorem CoreSt.bare_takeTokens (c : CoreSt) (x : Ctx) (ctl : Ctl) (tki : List (BitVec 5)) :
    (c.takeTokens x ctl tki).bare =
      { c.bare with cL := (c.takeTokens x ctl tki).cL, cX := (c.takeTokens x ctl tki).cX, cS := (c.takeTokens x ctl tki).cS } := by
  have h : ∀ d : CoreSt, d.bare.cL = d.cL ∧ d.bare.cX = d.cX ∧ d.bare.cS = d.cS := fun d => ⟨rfl, rfl, rfl⟩
  have e := CoreSt.bare_consume (ctlCounts ctl tki)
    ((c.updCtx x.pred fun p => { p with fifoN := p.fifoN - b2n ctl.popp }).updCtx x.succ fun p =>
      { p with fifoP := p.fifoP - b2n ctl.popn })
  have e2 : (c.takeTokens x ctl tki).bare = ((c.updCtx x.pred fun p => { p with fifoN := p.fifoN - b2n ctl.popp }).updCtx x.succ
      fun p => { p with fifoP := p.fifoP - b2n ctl.popn }).bare := e
  rw [← (h _).1, ← (h _).2.1, ← (h (c.takeTokens x ctl tki)).2.2, e2]
  cases x <;> rfl

theorem CoreSt.takeTokens_eq (c : CoreSt) (x : Ctx) (ctl : Ctl) (tki : List (BitVec 5)) :
    c.takeTokens x ctl tki = { c with
      tks := (c.takeTokens x ctl tki).tks, starved := (c.takeTokens x ctl tki).starved
      cL := { c.cL with fifoP := (c.takeTokens x ctl tki).cL.fifoP, fifoN := (c.takeTokens x ctl tki).cL.fifoN }
      cX := { c.cX with fifoP := (c.takeTokens x ctl tki).cX.fifoP, fifoN := (c.takeTokens x ctl tki).cX.fifoN }
      cS := { c.cS with fifoP := (c.takeTokens x ctl tki).cS.fifoP, fifoN := (c.takeTokens x ctl tki).cS.fifoN } } := by
  have hb := CoreSt.bare_takeTokens c x ctl tki
  have hl := CoreSt.ctx_takeTokens c x .L ctl tki
  have hx := CoreSt.ctx_takeTokens c x .X ctl tki
  have hs := CoreSt.ctx_takeTokens c x .S ctl tki
  simp only [CoreSt.ctx] at hl hx hs
  generalize c.takeTokens x ctl tki = d at *
  cases d
  cases c
  simp only [CoreSt.bare, CoreSt.mk.injEq] at *
  simp_all

/-! ### The issuing core and context -/

@[simp] theorem State.who_updCur (s : State) (f : CoreSt → CoreSt) : (s.updCur f).who = s.who := rfl

@[simp] theorem State.who_updMe (s : State) (f : CtxSt → CtxSt) : (s.updMe f).who = s.who := rfl

@[simp] theorem State.cur_updCur (s : State) (f : CoreSt → CoreSt) : (s.updCur f).cur = f s.cur :=
  State.core_updCore_same s s.k f

@[simp] theorem State.cur_updMe (s : State) (f : CtxSt → CtxSt) : (s.updMe f).cur = s.cur.updCtx s.who.ctx f :=
  State.core_updCore_same s s.k _

@[simp] theorem State.me_updMe (s : State) (f : CtxSt → CtxSt) : (s.updMe f).me = f s.me := by
  unfold State.me
  rw [State.cur_updMe]
  exact CoreSt.ctx_updCtx_same _ _ _

/-- A change inside the issuing core. -/
structure State.Local (v t : State) : Prop where
  device : t = { v with cores := t.cores }
  cores  : ∀ k, k ≠ v.k → t.core k = v.core k

@[simp] theorem State.local_refl (v : State) : State.Local v v := ⟨rfl, fun _ _ => rfl⟩

theorem State.Local.who {v t : State} (h : State.Local v t) : t.who = v.who := by rw [h.device]

@[simp] theorem State.local_updCore {v t : State} (h : State.Local v t) (f : CoreSt → CoreSt) :
    State.Local v (t.updCore v.k f) :=
  ⟨by conv_lhs => rw [h.device]
      rfl,
   fun k hk => by rw [State.core_updCore_other _ _ _ _ hk, h.cores k hk]⟩

@[simp] theorem State.local_updCur {v t : State} (h : State.Local v t) (f : CoreSt → CoreSt) :
    State.Local v (t.updCur f) := by
  have : t.k = v.k := by simp [State.k, h.who]
  unfold State.updCur
  rw [this]
  exact State.local_updCore h f

@[simp] theorem State.local_updMe {v t : State} (h : State.Local v t) (f : CtxSt → CtxSt) :
    State.Local v (t.updMe f) := State.local_updCur h _

/-! ### What every word moves -/

/-- The core after `pay`. -/
theorem State.cur_pay (v : State) (c : Ctl) (j : Issue) (n : Nat) :
  (v.pay c j n).cur = ({ v.cur.takeTokens v.who.ctx c j.tki with nextId := v.cur.nextId + 1, starved := [] } : CoreSt).updCtx v.who.ctx
    (fun m => { m with
      icycle := n
      pair := if v.who.ctx = .X && !m.seconds c j then some ⟨j.unit, c.stop || j.branch || v.me.closing, j.writes, j.pushes, .go⟩
        else none
      nonStop := if c.stop then 0 else m.nonStop + 1, blocked := false, forced := false }) := by
  simp [State.pay]

@[simp] theorem State.who_pay (v : State) (c : Ctl) (j : Issue) (n : Nat) : (v.pay c j n).who = v.who := rfl
@[simp] theorem State.local_pay (v : State) (c : Ctl) (j : Issue) (n : Nat) : State.Local v (v.pay c j n) := by
  simp [State.pay]

@[simp] theorem State.local_result {v t : State} (h : State.Local v t) (wid lat x val) : State.Local v (t.result wid lat x val) := by
  unfold State.result State.inFlight; split <;> simp [h]

/-- what a context has after `pay` -/
theorem State.me_pay (v : State) (c : Ctl) (j : Issue) (n : Nat) :
  (v.pay c j n).me = { v.me with icycle := n, pair := (v.pay c j n).me.pair, nonStop := if c.stop then 0 else v.me.nonStop + 1, blocked := false, forced := false } := by
  have h1 : v.who.ctx ≠ v.who.ctx.succ := by cases v.who.ctx <;> decide
  have h2 : v.who.ctx ≠ v.who.ctx.pred := by cases v.who.ctx <;> decide
  have : (v.pay c j n).me = (v.pay c j n).cur.ctx v.who.ctx := rfl
  rw [this, State.cur_pay, CoreSt.ctx_updCtx_same]
  have e : CoreSt.ctx ({ v.cur.takeTokens v.who.ctx c j.tki with nextId := v.cur.nextId + 1, starved := [] } : CoreSt) v.who.ctx = v.me := by
    have := CoreSt.ctx_takeTokens v.cur v.who.ctx v.who.ctx c j.tki
    rw [if_neg h1, if_neg h2] at this
    exact this
  rw [e]

theorem State.ctx_pay (v : State) (c : Ctl) (j : Issue) (n : Nat) (y : Ctx) (h : y ≠ v.who.ctx) :
  (v.pay c j n).cur.ctx y = { v.cur.ctx y with fifoP := (v.cur.ctx y).fifoP - (if y = v.who.ctx.succ then b2n c.popn else 0)
                                               fifoN := (v.cur.ctx y).fifoN - (if y = v.who.ctx.pred then b2n c.popp else 0) } := by
  rw [State.cur_pay, CoreSt.ctx_updCtx_other _ _ _ _ h]
  exact CoreSt.ctx_takeTokens v.cur v.who.ctx y c j.tki

theorem State.core_pay (v : State) (c : Ctl) (j : Issue) (n : Nat) :
  (v.pay c j n).cur = { v.cur with cL := (v.pay c j n).cur.cL, cX := (v.pay c j n).cur.cX, cS := (v.pay c j n).cur.cS,
                                   tks := (v.pay c j n).cur.tks, nextId := v.cur.nextId + 1, starved := [] } := by
  have := CoreSt.takeTokens_eq v.cur v.who.ctx c j.tki
  rw [State.cur_pay]
  generalize v.cur.takeTokens v.who.ctx c j.tki = d at *
  rw [this]
  cases v.who.ctx <;> rfl

theorem State.tk_pay (v : State) (c : Ctl) (j : Issue) (n m : Nat) :
  (v.pay c j n).cur.tk m = { v.cur.tk m with count := (v.cur.tk m).count - (ctlCounts c j.tki).count m } := by
  rw [State.cur_pay, CoreSt.tk_updCtx]
  exact CoreSt.tk_takeTokens v.cur v.who.ctx c j.tki m

@[simp] theorem CoreSt.updCtx_updCtx (c : CoreSt) (x : Ctx) (f g : CtxSt → CtxSt) :
    (c.updCtx x f).updCtx x g = c.updCtx x (fun m => g (f m)) := by cases x <;> rfl

theorem CoreSt.updCtx_congr (c : CoreSt) (x : Ctx) (f g : CtxSt → CtxSt) (h : f (c.ctx x) = g (c.ctx x)) :
    c.updCtx x f = c.updCtx x g := by simp [CoreSt.updCtx, h]

/-- What an effect has done to its core, between `pay` and the move to the next word. -/
structure Effect (v w : State) (c : Ctl) (tki : List (BitVec 5)) (n : Nat)
    (core : CoreSt → CoreSt → CoreSt) (ctx other : CtxSt → CtxSt → CtxSt) : Prop where
  inside : State.Local v w
  core   : w.cur = { core v.cur w.cur with
    cL := w.cur.cL, cX := w.cur.cX, cS := w.cur.cS, tks := w.cur.tks, nextId := w.cur.nextId, starved := w.cur.starved }
  next : w.cur.nextId = v.cur.nextId + 1
  me     : w.me = { ctx v.me w.me with
    pc := w.me.pc, loops := w.me.loops, icycle := n, pair := w.me.pair, nonStop := if c.stop then 0 else v.me.nonStop + 1
    sigs := v.me.sigs, blocked := false, forced := false, fifoP := v.me.fifoP, fifoN := v.me.fifoN }
  others : ∀ y, y ≠ v.who.ctx → w.cur.ctx y = { other (v.cur.ctx y) (w.cur.ctx y) with
    fifoP := (v.cur.ctx y).fifoP - (if y = v.who.ctx.succ then b2n c.popn else 0)
    fifoN := (v.cur.ctx y).fifoN - (if y = v.who.ctx.pred then b2n c.popp else 0) }
  counts : ∀ m, w.cur.tk m = { v.cur.tk m with count := (v.cur.tk m).count - (ctlCounts c tki).count m }

theorem Effect.passed {v₀ v w : State} {c : Ctl} {j : Issue} {n : Nat} {core : CoreSt → CoreSt → CoreSt} {ctx other : CtxSt → CtxSt → CtxSt}
   (hw : j.effect v₀.cur.nextId (v₀.pay c j n) = w) (hid : v₀.cur.nextId = v.cur.nextId) (hp : v₀.me.pc = v.me.pc) (hwd : v₀.wordAtPc = v.wordAtPc)
   (h : Effect v w c j.tki n core ctx other)
  (hcore : ∀ a b x f, core a (CoreSt.updCtx b x f) = core a b)
  (hctx : ∀ a b pc ls sg, ctx a {b with pc := pc, loops := ls, sigs := sg} = ctx a b)
  (hbr: j.branch = false) (hgo : j.goes = false) (hwrap : w.me.wwords = v.me.wwords) (hpc : w.me.pc = v.me.pc)
    (hlo : w.me.loops = v.me.loops) :
  ∃ held, (ControlHalf v (v₀.commit c j n) c j.tki held j.engine ∧ Confined v (v₀.commit c j n) core ctx other ∧ GoesOn v (v₀.commit c j n)) ∧ (j.hold = false → held = false) ∧ 
   (v₀.commit c j n).cur = w.cur.updCtx v.who.ctx (fun m => { m with pc := v.me.advance.pc, loops := v.me.advance.loops, sigs := (v₀.commit c j n).me.sigs}) := by
  rw [hid] at hw
  have hwho : w.who = v.who := h.inside.who
  have hme : w.cur.ctx v.who.ctx = w.me := by rw [← hwho]; rfl
  have hadv : w.me.advance.pc = v.me.advance.pc ∧ w.me.advance.loops = v.me.advance.loops := by
    simp [CtxSt.advance, CtxSt.wrap, hpc, hlo, hwrap]
  have hcur : (v₀.commit c j n).cur = w.cur.updCtx v.who.ctx (fun m =>
      { m with pc := v.me.advance.pc, loops := v.me.advance.loops
               sigs := v.me.sigs ++ owed c v.cur.nextId v.me.pc v.wordAtPc (j.hold && j.holdIf (w.updMe CtxSt.advance)) j.engine }) := by
    have e0 : w.me.sigs = v.me.sigs := by rw [h.me]
    unfold State.commit
    simp only [hw, hid, hp, hwd, hbr, hgo, Bool.or_self, Bool.false_eq_true, if_false]
    have e1 : ∀ m, m = w.me → CtxSt.advance m = { m with pc := v.me.advance.pc, loops := v.me.advance.loops } := by
      rintro m rfl
      rw [← hadv.1, ← hadv.2]
      rfl
    simp only [State.cur_updMe, State.who_updMe, hwho, CoreSt.updCtx_updCtx]
    refine CoreSt.updCtx_congr _ _ _ _ ?_
    rw [hme, e1 _ rfl, ← e0]
  have hloc : State.Local v (v₀.commit c j n) := by
    unfold State.commit
    simp only [hw, hid, hbr, hgo, Bool.or_self, Bool.false_eq_true, if_false]
    simp [h.inside]
  have hwt := hloc.who
  have hmt : (v₀.commit c j n).me = (v₀.commit c j n).cur.ctx v.who.ctx := by rw [← hwt]; rfl
  generalize hh : (j.hold && j.holdIf (w.updMe CtxSt.advance)) = held at hcur
  generalize v₀.commit c j n = t at *
  have hmt2 : t.me = { w.me with
      pc := v.me.advance.pc, loops := v.me.advance.loops
      sigs := v.me.sigs ++ owed c v.cur.nextId v.me.pc v.wordAtPc held j.engine } := by
    rw [hmt, hcur, CoreSt.ctx_updCtx_same, hme]
  have hoth : ∀ y, y ≠ v.who.ctx → t.cur.ctx y = w.cur.ctx y := fun y hy => by
    rw [hcur, CoreSt.ctx_updCtx_other _ _ _ _ hy]
  refine ⟨held, ⟨⟨?_, ?_, ?_, ?_⟩, ⟨hloc.device, hloc.cores, ?_, ?_, ?_⟩, ?_, ?_⟩, ?_, ?_⟩
  · intro y
    by_cases hy : y = v.who.ctx
    · subst hy
      have h1 : v.who.ctx ≠ v.who.ctx.succ := by cases v.who.ctx <;> decide
      have h2 : v.who.ctx ≠ v.who.ctx.pred := by cases v.who.ctx <;> decide
      rw [← hmt, hmt2, if_neg h1, if_neg h2]
      have e := h.me
      generalize w.me = m at e
      rw [e]
      exact ⟨rfl, rfl⟩
    · rw [hoth y hy, h.others y hy]
      exact ⟨rfl, rfl⟩
  · intro m
    rw [hcur, CoreSt.tk_updCtx]
    exact h.counts m
  · rw [hmt2]
    show w.me.nonStop = _
    rw [h.me]
  · rw [hmt2]
  · rw [hcur, hcore]
    have e := h.core
    generalize w.cur = m at e
    generalize core v.cur m = d at *
    rw [e]
    cases v.who.ctx <;> rfl
  · rw [hmt2, hctx]
    have e := h.me
    generalize w.me = m at e
    generalize ctx v.me m = d at *
    rw [e]
  · intro y hy
    rw [hoth y hy]
    have e := h.others y hy
    generalize w.cur.ctx y = m at e
    generalize other (v.cur.ctx y) m = d at *
    rw [e]
  · rw [hmt2]
  · rw [hmt2]
  · intro hj
    rw [← hh, hj, Bool.false_and]
  · rw [hmt2, hcur]

theorem Effect.passed_goes {v₀ v w : State} {c : Ctl} {j : Issue} {n : Nat} {core : CoreSt → CoreSt → CoreSt} {ctx other : CtxSt → CtxSt → CtxSt}
   (hw : j.effect v₀.cur.nextId (v₀.pay c j n) = w) (hid : v₀.cur.nextId = v.cur.nextId) (hp : v₀.me.pc = v.me.pc) (hwd : v₀.wordAtPc = v.wordAtPc)
   (h : Effect v w c j.tki n core ctx other)
  (hcore : ∀ a b x f, core a (CoreSt.updCtx b x f) = core a b)
  (hctx : ∀ a b pc ls sg, ctx a {b with pc := pc, loops := ls, sigs := sg} = ctx a b)
  (hgo : (j.branch || j.goes) = true) :
  ∃ held, (ControlHalf v (v₀.commit c j n) c j.tki held j.engine ∧ Confined v (v₀.commit c j n) core ctx other) ∧ (j.hold = false → held = false) ∧ 
   (v₀.commit c j n).cur = w.cur.updCtx v.who.ctx (fun m => { m with sigs := (v₀.commit c j n).me.sigs}) := by
  rw [hid] at hw
  have hwho : w.who = v.who := h.inside.who
  have hme : w.cur.ctx v.who.ctx = w.me := by rw [← hwho]; rfl
  have hcur : (v₀.commit c j n).cur = w.cur.updCtx v.who.ctx (fun m =>
      { m with sigs := v.me.sigs ++ owed c v.cur.nextId v.me.pc v.wordAtPc (j.hold && j.holdIf (w)) j.engine }) := by
    have e0 : w.me.sigs = v.me.sigs := by rw [h.me]
    unfold State.commit
    simp only [hw, hid, hp, hwd, hgo, if_true]
    simp only [State.cur_updMe, hwho]
    refine CoreSt.updCtx_congr _ _ _ _ ?_
    rw [hme, ← e0]
  have hloc : State.Local v (v₀.commit c j n) := by
    unfold State.commit
    simp only [hw, hid, hgo, if_true]
    simp [h.inside]
  have hwt := hloc.who
  have hmt : (v₀.commit c j n).me = (v₀.commit c j n).cur.ctx v.who.ctx := by rw [← hwt]; rfl
  generalize hh : (j.hold && j.holdIf (w)) = held at hcur
  generalize v₀.commit c j n = t at *
  have hmt2 : t.me = { w.me with
            sigs := v.me.sigs ++ owed c v.cur.nextId v.me.pc v.wordAtPc held j.engine } := by
    rw [hmt, hcur, CoreSt.ctx_updCtx_same, hme]
  have hoth : ∀ y, y ≠ v.who.ctx → t.cur.ctx y = w.cur.ctx y := fun y hy => by
    rw [hcur, CoreSt.ctx_updCtx_other _ _ _ _ hy]
  refine ⟨held, ⟨⟨?_, ?_, ?_, ?_⟩, ⟨hloc.device, hloc.cores, ?_, ?_, ?_⟩⟩, ?_, ?_⟩
  · intro y
    by_cases hy : y = v.who.ctx
    · subst hy
      have h1 : v.who.ctx ≠ v.who.ctx.succ := by cases v.who.ctx <;> decide
      have h2 : v.who.ctx ≠ v.who.ctx.pred := by cases v.who.ctx <;> decide
      rw [← hmt, hmt2, if_neg h1, if_neg h2]
      have e := h.me
      generalize w.me = m at e
      rw [e]
      exact ⟨rfl, rfl⟩
    · rw [hoth y hy, h.others y hy]
      exact ⟨rfl, rfl⟩
  · intro m
    rw [hcur, CoreSt.tk_updCtx]
    exact h.counts m
  · rw [hmt2]
    show w.me.nonStop = _
    rw [h.me]
  · rw [hmt2]
  · rw [hcur, hcore]
    have e := h.core
    generalize w.cur = m at e
    generalize core v.cur m = d at *
    rw [e]
    cases v.who.ctx <;> rfl
  · rw [hmt2, hctx]
    have e := h.me
    generalize w.me = m at e
    generalize ctx v.me m = d at *
    rw [e]
  · intro y hy
    rw [hoth y hy]
    have e := h.others y hy
    generalize w.cur.ctx y = m at e
    generalize other (v.cur.ctx y) m = d at *
    rw [e]
  · intro hj
    rw [← hh, hj, Bool.false_and]
  · rw [hmt2, hcur]

theorem State.effect_pay (v : State) (c : Ctl) (j : Issue) (n : Nat) :
    Effect v (v.pay c j n) c j.tki n keep keep keep where
  inside := State.local_pay v c j n
  core := by
    have e := State.core_pay v c j n
    generalize (v.pay c j n).cur = m at e
    rw [e]
    rfl
  next := by
    have e := State.core_pay v c j n
    generalize (v.pay c j n).cur = m at e
    rw [e]
  me := by
    have e := State.me_pay v c j n
    generalize (v.pay c j n).me = m at e
    rw [e]
    rfl
  others y hy := State.ctx_pay v c j n y hy
  counts m := State.tk_pay v c j n m

/-- A change of the issuing context that keeps what every word moves. -/
theorem Effect.updMe {v w : State} {c : Ctl} {tki : List (BitVec 5)} {n : Nat} {core : CoreSt → CoreSt → CoreSt}
    {ctx ctx' other : CtxSt → CtxSt → CtxSt} (h : Effect v w c tki n core ctx other) (f : CtxSt → CtxSt)
    (hcore : ∀ a b x f, core a (CoreSt.updCtx b x f) = core a b)
    (hf : f w.me = { ctx' v.me (f w.me) with
      pc := (f w.me).pc, loops := (f w.me).loops, icycle := n, pair := w.me.pair, nonStop := if c.stop then 0 else v.me.nonStop + 1
      sigs := v.me.sigs, blocked := false, forced := false, fifoP := v.me.fifoP, fifoN := v.me.fifoN }) :
    Effect v (w.updMe f) c tki n core ctx' other where
  inside := State.local_updMe h.inside f
  core := by
    rw [State.cur_updMe, hcore]
    have e := h.core
    generalize w.cur = m at e
    generalize core v.cur m = d at *
    rw [e]
    cases w.who.ctx <;> rfl
  next := by rw [State.cur_updMe, CoreSt.nextId_updCtx]; exact h.next
  me := by
    rw [State.me_updMe]
    generalize f w.me = m at hf ⊢
    generalize w.me.pair = p at hf
    have hp : m.pair = p := by rw [hf]
    rw [hp]
    exact hf
  others y hy := by
    rw [State.cur_updMe, h.inside.who, CoreSt.ctx_updCtx_other _ _ _ _ hy]
    exact h.others y hy
  counts m := by rw [State.cur_updMe, CoreSt.tk_updCtx]; exact h.counts m

theorem State.reg_pay (v : State) (c : Ctl) (j : Issue) (n : Nat) (x : Reg) : (v.pay c j n).reg x = v.reg x := by
  unfold State.reg
  rw [State.me_pay]
  rfl

theorem State.exposed_pay (v : State) (c : Ctl) (j : Issue) (n : Nat) : (v.pay c j n).me.exposed = v.me.exposed := by
  rw [State.me_pay]

theorem State.wordAtPc_pay (v : State) (c : Ctl) (j : Issue) (n : Nat) : (v.pay c j n).wordAtPc = v.wordAtPc := by
  unfold State.wordAtPc
  rw [State.me_pay, State.core_pay]

theorem State.effect_result (v : State) (c : Ctl) (j : Issue) (n wid lat : Nat) (xd : Reg) (x : Word) :
    Effect v ((v.pay c j n).result wid lat xd x) c j.tki n keep keepButRegs keep := by
  have h := State.effect_pay v c j n
  have hm := State.me_pay v c j n
  unfold State.result State.inFlight
  split
  · refine h.updMe _ (fun _ _ _ _ => rfl) ?_
    generalize (v.pay c j n).me = m at hm
    rw [hm]
    rfl
  · refine h.updMe _ (fun _ _ _ _ => rfl) ?_
    generalize (v.pay c j n).me = m at hm
    rw [hm]
    unfold CtxSt.setReg
    split <;> rfl

/-- A word whose only effect is a scalar result. -/
theorem State.commit_result (v : State) (c : Ctl) (j : Issue) (n lat : Nat) (xd : Reg) (x : Word)
    (hj : j.effect v.cur.nextId (v.pay c j n) = (v.pay c j n).result v.cur.nextId lat xd x)
    (hbr : j.branch = false) (hgo : j.goes = false) (hh : j.hold = false) (he : j.engine = false) :
    WritesReg v (v.commit c j n) lat xd x ∧ Confined v (v.commit c j n) keep keepButRegs keep ∧
      ControlHalf v (v.commit c j n) c j.tki false ∧ GoesOn v (v.commit c j n) := by
  have hw : ((v.pay c j n).result v.cur.nextId lat xd x).me.wwords = v.me.wwords ∧
      ((v.pay c j n).result v.cur.nextId lat xd x).me.pc = v.me.pc ∧
      ((v.pay c j n).result v.cur.nextId lat xd x).me.loops = v.me.loops := by
    unfold State.result State.inFlight
    split
    · rw [State.me_updMe, State.me_pay]
      exact ⟨rfl, rfl, rfl⟩
    · rw [State.me_updMe, State.me_pay]
      simp
  obtain ⟨held, ⟨h1, h2, h3⟩, h4, h5⟩ := Effect.passed hj rfl rfl rfl (State.effect_result v c j n v.cur.nextId lat xd x)
    (fun _ _ _ _ => rfl) (fun _ _ _ _ _ => rfl) hbr hgo hw.1 hw.2.1 hw.2.2
  obtain rfl := h4 hh
  rw [he] at h1
  refine ⟨?_, h2, h1, h3⟩
  have hme : (v.commit c j n).me = { ((v.pay c j n).result v.cur.nextId lat xd x).me with
      pc := v.me.advance.pc, loops := v.me.advance.loops, sigs := (v.commit c j n).me.sigs } := by
    have hwho : (v.commit c j n).who = v.who := by rw [h2.device]
    have : (v.commit c j n).me = (v.commit c j n).cur.ctx v.who.ctx := by rw [← hwho]; rfl
    rw [this, h5, CoreSt.ctx_updCtx_same]
    have hw2 : ((v.pay c j n).result v.cur.nextId lat xd x).who = v.who :=
      (State.effect_result v c j n v.cur.nextId lat xd x).inside.who
    rw [← hw2]
    rfl
  generalize v.commit c j n = t at *
  have hicy : t.me.icycle = n := by
    rw [hme]
    show ((v.pay c j n).result v.cur.nextId lat xd x).me.icycle = n
    rw [(State.effect_result v c j n v.cur.nextId lat xd x).me]
  constructor
  · intro he
    have hres : (v.pay c j n).result v.cur.nextId lat xd x = (v.pay c j n).updMe fun c => c.setReg xd x := by
      unfold State.result
      rw [State.exposed_pay, he]
      rfl
    rw [hres, State.me_updMe] at hme
    constructor
    · rw [hme]
      show ((v.pay c j n).me.setReg xd x).flights = _
      rw [CtxSt.flights_setReg, State.me_pay]
    · intro y
      unfold State.reg
      rw [hme]
      show ((v.pay c j n).me.setReg xd x).reg y = _
      rw [CtxSt.reg_setReg]
      split
      · rfl
      · exact State.reg_pay v c j n y
  · intro he
    have hres : (v.pay c j n).result v.cur.nextId lat xd x = (v.pay c j n).inFlight v.cur.nextId lat (.reg xd x) := by
      unfold State.result
      rw [State.exposed_pay, he]
      rfl
    rw [hres] at hme
    unfold State.inFlight at hme
    rw [State.me_updMe] at hme
    constructor
    · intro y
      unfold State.reg
      rw [hme]
      exact State.reg_pay v c j n y
    · unfold flightOf
      rw [hicy]
      rw [hme]
      simp only
      rw [State.wordAtPc_pay, State.me_pay]

end Sys2Proof.Machine
end

