-- ==== Sys2Proof/Laws/MemBase.lean ====
section
/-! SUPPORT. The four memories keep their canonical form: the operations over the state, taking a cause, issue, and memory accesses. -/

namespace Sys2Proof.Machine

open Sys2Proof

@[simp] theorem State.memWf_hbm {s : State} (h : s.MemWf) : Memory.Ok s.hbm := h.hbm
@[simp] theorem State.memWf_host {s : State} (h : s.MemWf) : Memory.Ok s.host := h.host
@[simp] theorem State.memWf_tier {s : State} (h : s.MemWf) : Memory.Ok s.tier := h.tier
@[simp] theorem State.memWf_ws {s : State} (h : s.MemWf) : Memory.Ok s.ws := h.ws

@[simp] theorem State.memWf_mk (
    turn who ticks now cores hbm host tier ws bad tampered corrected grans tlb2 walks moved parts tasks nextSeq graphs
    releases crowded freed portParts vlines binds slotTab slotNew isl gov gated links ports queues boot mbox holds devMig colls seqLog
    refresh windows msix lpInts) :
  State.MemWf (State.mk
    turn who ticks now cores hbm host tier ws bad tampered corrected grans tlb2 walks moved parts tasks nextSeq graphs
    releases crowded freed portParts vlines binds slotTab slotNew isl gov gated links ports queues boot mbox holds devMig colls seqLog
    refresh windows msix lpInts) ↔
   Memory.Ok hbm ∧ Memory.Ok host ∧ Memory.Ok tier ∧ Memory.Ok ws :=
  ⟨fun h => ⟨h.1, h.2, h.3, h.4⟩, fun h => ⟨h.1, h.2.1, h.2.2.1, h.2.2.2⟩⟩

@[simp] theorem Memory.ok_nil : Memory.Ok [] := rfl

@[simp] theorem Memory.ok_setBytes {m : Memory} (h : Memory.Ok m) (a : Nat) (bs : List Byte) :
    Memory.Ok (Memory.setBytes m a bs) := Memory.wf_setBytes h a bs

@[simp] theorem State.memWf_ite {p : Prop} [Decidable p] {a b : State} (h : p → a.MemWf) (h' : ¬ p → b.MemWf) : (if p then a else b).MemWf := by
  split <;> simp_all

theorem State.memWf_foldl {α : Type} {s : State} {f : State → α → State} {l : List α} (h : s.MemWf)
   (hf : ∀ s a, s.MemWf → (f s a).MemWf) : (l.foldl f s).MemWf := by
  induction l generalizing s with
  | nil => exact h
  | cons a l ih => exact ih (hf s a h)

@[simp] theorem State.memWf_setCore {s : State} (h : s.MemWf) (k c) : (s.setCore k c).MemWf := ⟨h.1,h.2,h.3,h.4⟩
@[simp] theorem State.memWf_updCore {s : State} (h : s.MemWf) (k c) : (s.updCore k c).MemWf := ⟨h.1,h.2,h.3,h.4⟩
@[simp] theorem State.memWf_updCtx {s : State} (h : s.MemWf) (k x c) : (s.updCtx k x c).MemWf := ⟨h.1,h.2,h.3,h.4⟩
@[simp] theorem State.memWf_updCur {s : State} (h : s.MemWf) (c) : (s.updCur c).MemWf := ⟨h.1,h.2,h.3,h.4⟩
@[simp] theorem State.memWf_updMe {s : State} (h : s.MemWf) (c) : (s.updMe c).MemWf := ⟨h.1,h.2,h.3,h.4⟩
@[simp] theorem State.memWf_updPart {s : State} (h : s.MemWf) (k c) : (s.updPart k c).MemWf := ⟨h.1,h.2,h.3,h.4⟩
@[simp] theorem State.memWf_setTask {s : State} (h : s.MemWf) (c) : (s.setTask c).MemWf := ⟨h.1,h.2,h.3,h.4⟩
/-- What an abort reaches keeps the canonical form. -/
theorem State.Aborted.memWf {s t : State} (h : s.Aborted t) (w : s.MemWf) : t.MemWf := by
  rw [h.rest]
  exact ⟨h.wf w.hbm, w.host, w.tier, w.ws⟩

@[simp] theorem State.memWf_discard {s : State} (h : s.MemWf) (t : Task) : State.MemWf (State.discard s t) :=
  (s.aborted_discard t).memWf h

@[simp] theorem State.memWf_segWord {s : State} (h : s.MemWf) (pa v : Nat) : State.MemWf (State.segWord s pa v) :=
  (s.aborted_segWord pa v).memWf h

@[simp] theorem State.memWf_writeChain {s : State} (h : s.MemWf) (l : List Seg) : State.MemWf (State.writeChain s l) :=
  (s.aborted_writeChain l).memWf h

@[simp] theorem State.memWf_dropEntry {s : State} (h : s.MemWf) (p q : Nat) : State.MemWf (State.dropEntry s p q) :=
  (s.aborted_dropEntry p q).memWf h

@[simp] theorem State.memWf_abort {s : State} (h : s.MemWf) (q : Nat) : State.MemWf (State.abort s q) :=
  (s.aborted_abort q).memWf h

@[simp] theorem State.memWf_abortAll {s : State} (h : s.MemWf) (qs : List Nat) : State.MemWf (State.abortAll s qs) :=
  (s.aborted_abortAll qs).memWf h

@[simp] theorem State.memWf_putBytes {s : State} (h : s.MemWf) (space a : Nat) (bs : List Byte) : State.MemWf (State.putBytes s space a bs) := by
  unfold State.putBytes
  dsimp only
  split <;> simp [h]

@[simp] theorem State.memWf_updTask {s : State} (h : s.MemWf) (q : Nat) (f : Task → Task) : State.MemWf (State.updTask s q f) := by
  unfold State.updTask
  (repeat' split)
  all_goals simp (maxDischargeDepth := 20) [*]

@[simp] theorem State.memWf_forCores {s : State} (h : s.MemWf) (ks : List Nat) (f : CoreSt → CoreSt) : State.MemWf (State.forCores s ks f) := by
  simp +contextual (maxDischargeDepth := 20) [State.forCores, State.memWf_foldl, h]

@[simp] theorem State.memWf_setGran {s : State} (h : s.MemWf) (stack g : Nat) (v : Gran) : State.MemWf (State.setGran s stack g v) := by
  simp (maxDischargeDepth := 20) [State.setGran, h]

@[simp] theorem State.memWf_shareRun {s : State} (h : s.MemWf) (b : Berth) (f : Nat → Nat) : State.MemWf (State.shareRun s b f) := by
  simp +contextual (maxDischargeDepth := 20) [State.shareRun, State.memWf_foldl, h]

@[simp] theorem State.memWf_shareName {s : State} (h : s.MemWf) (w : Word) : State.MemWf (State.shareName s w) := by
  unfold State.shareName
  (repeat' split)
  all_goals simp (maxDischargeDepth := 20) [*]

@[simp] theorem State.memWf_relinquish {s : State} (h : s.MemWf) (w : Word) : State.MemWf (State.relinquish s w) := by
  unfold State.relinquish
  (repeat' split)
  all_goals simp (maxDischargeDepth := 20) [*]

@[simp] theorem State.memWf_freeName {s : State} (h : s.MemWf) (w : Word) : State.MemWf (State.freeName s w) := by
  unfold State.freeName
  (repeat' split)
  all_goals simp (maxDischargeDepth := 20) [*]

@[simp] theorem State.memWf_poke {s : State} (h : s.MemWf) (space a : Nat) (bs : List Byte) : State.MemWf (State.poke s space a bs) := by
  unfold State.poke
  (repeat' split)
  all_goals simp (maxDischargeDepth := 20) [*]

@[simp] theorem State.memWf_outsideWrite {s : State} (h : s.MemWf) (space a : Nat) (bs : List Byte) : State.MemWf (State.outsideWrite s space a bs) := by
  simp (maxDischargeDepth := 20) [State.outsideWrite, h]

@[simp] theorem State.memWf_partWrite {s : State} (h : s.MemWf) (p space a : Nat) (bs : List Byte) : State.MemWf (State.partWrite s p space a bs) := by
  simp (maxDischargeDepth := 20) [State.partWrite, h]

@[simp] theorem State.memWf_logAt {s : State} (h : s.MemWf) (die : Nat) (r : FaultRecord) : State.MemWf (State.logAt s die r) := by
  simp (maxDischargeDepth := 20) [State.logAt, h]

@[simp] theorem State.memWf_log {s : State} (h : s.MemWf) (r : FaultRecord) : State.MemWf (State.log s r) := by
  simp (maxDischargeDepth := 20) [State.log, h]

@[simp] theorem State.memWf_incTkFrom {s : State} (h : s.MemWf) (die k n amount : Nat) (flag : Bool) (r : FaultRecord) : State.MemWf (State.incTkFrom s die k n amount flag r) := by
  simp (maxDischargeDepth := 20) [State.incTkFrom, h]

@[simp] theorem State.memWf_incTk {s : State} (h : s.MemWf) (k n amount : Nat) (flag : Bool) (r : FaultRecord) : State.MemWf (State.incTk s k n amount flag r) := by
  simp (maxDischargeDepth := 20) [State.incTk, h]

@[simp] theorem State.memWf_attach {s : State} (h : s.MemWf) (k : Nat) (x : Ctx) (t : Trap) (eng : Bool) (pos : Nat) (w : Word) : State.MemWf (State.attach s k x t eng pos w) := by
  simp (maxDischargeDepth := 20) [State.attach, h]

@[simp] theorem State.memWf_landOne {s : State} (h : s.MemWf) (k : Nat) (x : Ctx) (f : Flight) : State.MemWf (State.landOne s k x f) := by
  unfold State.landOne
  (repeat' split)
  all_goals simp (maxDischargeDepth := 20) [*]

@[simp] theorem State.memWf_landWhere {s : State} (h : s.MemWf) (k : Nat) (x : Ctx) (p : Flight → Bool) : State.MemWf (State.landWhere s k x p) := by
  simp +contextual (maxDischargeDepth := 20) [State.landWhere, State.memWf_foldl, h]

@[simp] theorem State.memWf_drain {s : State} (h : s.MemWf) (k : Nat) (x : Ctx) : State.MemWf (State.drain s k x) := by
  simp (maxDischargeDepth := 20) [State.drain, h]

@[simp] theorem State.memWf_release {s : State} (h : s.MemWf) (k : Nat) (x : Ctx) (g : Sig) : State.MemWf (State.release s k x g) := by
  simp (maxDischargeDepth := 20) [State.release, h]

@[simp] theorem State.memWf_releaseWid {s : State} (h : s.MemWf) (k : Nat) (x : Ctx) (wid : Nat) : State.MemWf (State.releaseWid s k x wid) := by
  unfold State.releaseWid
  refine State.memWf_foldl h fun s a hs => ?_
  split
  · exact State.memWf_release hs ..
  · exact hs

@[simp] theorem State.memWf_unhold {s : State} (h : s.MemWf) (k : Nat) (x : Ctx) (wid : Nat) : State.MemWf (State.unhold s k x wid) := by
  simp (maxDischargeDepth := 20) [State.unhold, h]

@[simp] theorem State.memWf_park {s : State} (h : s.MemWf) (t : Task) (r : FaultRecord) : State.MemWf (State.park s t r) := by
  simp (maxDischargeDepth := 20) [State.park, h]

@[simp] theorem State.memWf_takeCause {s : State} (h : s.MemWf) (k : Nat) (x : Ctx) (r : FaultRecord) (deferrable : Bool) : State.MemWf (State.takeCause s k x r deferrable) := by
  unfold State.takeCause
  dsimp only
  (repeat' split) <;> simp +contextual (maxDischargeDepth := 40) [State.memWf_foldl, *]

@[simp] theorem State.memWf_trap {s : State} (h : s.MemWf) (w : Word) (t : Trap) : State.MemWf (State.trap s w t) := by
  simp (maxDischargeDepth := 20) [State.trap, h]

@[simp] theorem State.memWf_takeAttached {s : State} (h : s.MemWf) (r : FaultRecord) (rest : List FaultRecord) : State.MemWf (State.takeAttached s r rest) := by
  simp (maxDischargeDepth := 20) [State.takeAttached, h]

@[simp] theorem State.memWf_atCycle {s : State} (h : s.MemWf) (n : Nat) : State.MemWf (State.atCycle s n) := by
  simp (maxDischargeDepth := 20) [State.atCycle, h]

@[simp] theorem State.memWf_block {s : State} (h : s.MemWf)  : State.MemWf (State.block s) := by
  simp (maxDischargeDepth := 20) [State.block, h]

@[simp] theorem State.memWf_starve {s : State} (h : s.MemWf)  : State.MemWf (State.starve s) := by
  simp (maxDischargeDepth := 20) [State.starve, h]

@[simp] theorem State.memWf_forceStop {s : State} (h : s.MemWf) (k : Nat) (x : Ctx) : State.MemWf (State.forceStop s k x) := by
  simp (maxDischargeDepth := 20) [State.forceStop, h]

@[simp] theorem State.memWf_pay {s : State} (h : s.MemWf) (ctl : Ctl) (j : Issue) (n : Nat) : State.MemWf (State.pay s ctl j n) := by
  simp (maxDischargeDepth := 20) [State.pay, h]


@[simp] theorem State.memWf_stall {s : State} (h : s.MemWf) (ctl : Ctl) (j : Issue) (w : Wait) : State.MemWf (State.stall s ctl j w) := by
  unfold State.stall
  (repeat' split)
  all_goals simp (maxDischargeDepth := 20) [*]

@[simp] theorem State.memWf_haltDone {s : State} (h : s.MemWf) (k : Nat) : State.MemWf (State.haltDone s k) := by
  simp +contextual (maxDischargeDepth := 20) [State.haltDone, State.memWf_foldl, h]

@[simp] theorem State.memWf_stopHere {s : State} (h : s.MemWf)  : State.MemWf (State.stopHere s) := by
  unfold State.stopHere
  dsimp only
  (repeat' split) <;> simp (maxDischargeDepth := 20) [*]

@[simp] theorem State.memWf_inFlight {s : State} (h : s.MemWf) (wid lat : Nat) (l : Landing) : State.MemWf (State.inFlight s wid lat l) := by
  simp (maxDischargeDepth := 20) [State.inFlight, h]

@[simp] theorem State.memWf_result {s : State} (h : s.MemWf) (wid lat : Nat) (x : Reg) (v : Word) : State.MemWf (State.result s wid lat x v) := by
  simp (maxDischargeDepth := 20) [State.result, h]

@[simp] theorem State.memWf_setSpecial {s : State} (h : s.MemWf) (sel : Nat) (v : Word) : State.MemWf (State.setSpecial s sel v) := by
  simp (maxDischargeDepth := 20) [State.setSpecial, h]

@[simp] theorem State.memWf_note {s : State} (h : s.MemWf) (k : Nat) (ns : List ReadEnt) : State.MemWf (State.note s k ns) := by
  simp (maxDischargeDepth := 20) [State.note, h]

@[simp] theorem State.memWf_sequence {s : State} (h : s.MemWf) (a : Nat) (bs : List Byte) (k : Nat) (x : Ctx) (wid p va : Nat) : State.MemWf (State.sequence s a bs k x wid p va) := by
  simp (maxDischargeDepth := 20) [State.sequence, h]

@[simp] theorem State.memWf_replicaApply {s : State} (h : s.MemWf) (d : Nat) : State.MemWf (State.replicaApply s d) := by
  unfold State.replicaApply
  (repeat' split)
  all_goals simp (maxDischargeDepth := 20) [*]

@[simp] theorem State.memWf_drainReplicas {s : State} (h : s.MemWf)  : State.MemWf (State.drainReplicas s) := by
  simp +contextual (maxDischargeDepth := 20) [State.drainReplicas, State.memWf_foldl, h]

@[simp] theorem State.memWf_devWrite {s : State} (h : s.MemWf) (k : Nat) (x : Ctx) (wid : Nat) (own : Bool) (l : Loc) (va : Nat) (bs : List Byte) : State.MemWf (State.devWrite s k x wid own l va bs) := by
  simp (maxDischargeDepth := 20) [State.devWrite, h]

@[simp] theorem State.memWf_vput {s : State} (h : s.MemWf) (k : Nat) (t : Task) (va : Nat) (bs : List Byte) : State.MemWf (State.vput s k t va bs) := by
  simp (maxDischargeDepth := 20) [State.vput, h]

theorem State.memWf_engineWriteAt {s : State} (h : s.MemWf) (k : Nat) (x : Ctx) (wid va : Nat) (bs : List Byte) (ls : List (Nat × Nat × Loc)) : ∀ t, State.engineWriteAt s k x wid va bs ls = .ok t → t.MemWf := by
  intro t ht
  unfold State.engineWriteAt at ht
  simp only at ht
  split at ht
  · split at ht
    · cases ht
    · obtain rfl := Wr.ok.inj ht
      exact State.memWf_foldl h fun s a hs => State.memWf_vput hs ..
  · split at ht
    · cases ht
    · obtain rfl := Wr.ok.inj ht
      exact State.memWf_foldl h fun s a hs => State.memWf_devWrite hs ..

theorem State.memWf_engineWrite {s : State} (h : s.MemWf) (k : Nat) (x : Ctx) (wid : Nat) (a : Acc) (va : Nat) (bs : List Byte) : ∀ t, State.engineWrite s k x wid a va bs = .ok t → t.MemWf := by
  intro t ht
  unfold State.engineWrite at ht
  dsimp only at ht
  split at ht
  · cases ht
  · cases ht
  · cases ht
  · exact State.memWf_engineWriteAt h _ _ _ _ _ _ t ht

@[simp] theorem State.memWf_flushLine {s : State} (h : s.MemWf) (k : Nat) (v : VLine) : State.MemWf (State.flushLine s k v) := by
  unfold State.flushLine
  (repeat' split)
  all_goals simp +contextual (maxDischargeDepth := 20) [State.memWf_foldl, *]

@[simp] theorem State.memWf_flushTask {s : State} (h : s.MemWf) (t : Task) : State.MemWf (State.flushTask s t) := by
  simp +contextual (maxDischargeDepth := 20) [State.flushTask, State.memWf_foldl, h]

end Sys2Proof.Machine
end

