-- ==== Sys2Proof/Laws/MemUnits.lean ====
section
/-! SUPPORT. The four memories keep their canonical form: the units of a core. -/

namespace Sys2Proof.Machine

open Sys2Proof

@[simp] theorem State.memWf_enqueue {s : State} (h : s.MemWf) (wid : Nat) (op : AccOp) (ea : Word) : State.MemWf (State.enqueue s wid op ea) := by
  simp (maxDischargeDepth := 20) [State.enqueue, h]

@[simp] theorem State.memWf_ringResult {s : State} (h : s.MemWf) (wid : Nat) (xd : Reg) (r : Option Ring) (f : Ring → Word) : State.MemWf (State.ringResult s wid xd r f) := by
  unfold State.ringResult
  (repeat' split)
  all_goals simp (maxDischargeDepth := 20) [*]

@[simp] theorem State.memWf_mqTake {s : State} (h : s.MemWf) (wid : Nat) (xd : Reg) (mq : BitVec 2) : State.MemWf (State.mqTake s wid xd mq) := by
  simp (maxDischargeDepth := 20) [State.mqTake, h]

@[simp] theorem State.memWf_haltAccess {s : State} (h : s.MemWf) (k : Nat) (x : Ctx) (a : Access) (va : Nat) (malf : Bool) (failed : Option Cause) : State.MemWf (State.haltAccess s k x a va malf failed) := by
  simp (maxDischargeDepth := 20) [State.haltAccess, h]

@[simp] theorem State.memWf_failAccess {s : State} (h : s.MemWf) (k : Nat) (x : Ctx) (a : Access) (t : Trap) : State.MemWf (State.failAccess s k x a t) := by
  simp (maxDischargeDepth := 20) [State.failAccess, h]

@[simp] theorem State.memWf_badAccess {s : State} (h : s.MemWf) (k : Nat) (x : Ctx) (a : Access) (va : Nat) (c : Cause) (malf : Bool) : State.MemWf (State.badAccess s k x a va c malf) := by
  simp (maxDischargeDepth := 20) [State.badAccess, h]

@[simp] theorem State.memWf_finishLoad {s : State} (h : s.MemWf) (k : Nat) (x : Ctx) (a : Access) (bs : List Byte) : State.MemWf (State.finishLoad s k x a bs) := by
  unfold State.finishLoad
  (repeat' split)
  all_goals simp (maxDischargeDepth := 20) [*]

@[simp] theorem State.memWf_doAmo {s : State} (h : s.MemWf) (k : Nat) (x : Ctx) (a : Access) (op : AmoOp) (dbl : Bool) (xd : Reg) (b old : Word) : State.MemWf (State.doAmo s k x a op dbl xd b old) := by
  unfold State.doAmo
  (repeat' split)
  all_goals simp (maxDischargeDepth := 20) [*]

@[simp] theorem State.memWf_doLoad {s : State} (h : s.MemWf) (k : Nat) (x : Ctx) (a : Access) : State.MemWf (State.doLoad s k x a) := by
  unfold State.doLoad
  (repeat' split)
  all_goals simp (maxDischargeDepth := 20) [*]

@[simp] theorem State.memWf_doStore {s : State} (h : s.MemWf) (k : Nat) (x : Ctx) (a : Access) (n : Nat) (v : Word) : State.MemWf (State.doStore s k x a n v) := by
  unfold State.doStore
  (repeat' split)
  all_goals simp (maxDischargeDepth := 20) [*]

@[simp] theorem State.memWf_doPosted {s : State} (h : s.MemWf) (k n : Nat) : State.MemWf (State.doPosted s k n) := by
  unfold State.doPosted
  (repeat' split)
  all_goals simp (maxDischargeDepth := 20) [*]

@[simp] theorem State.memWf_entryEffect {s : State} (h : s.MemWf) (k : Nat) (x : Ctx) (op : AccOp) : State.MemWf (State.entryEffect s k x op) := by
  unfold State.entryEffect
  (repeat' split)
  all_goals simp (maxDischargeDepth := 20) [*]

@[simp] theorem State.memWf_accessStep {s : State} (h : s.MemWf) (k : Nat) (x : Ctx) : State.MemWf (State.accessStep s k x) := by
  unfold State.accessStep
  (repeat' split)
  all_goals simp (maxDischargeDepth := 20) [*]

theorem State.memWf_srcOvf {s : State} (h : s.MemWf) (vs : List VSrc) : ∀ r, State.srcOvf s vs = some r → r.2.MemWf := by
  intro r hr
  unfold State.srcOvf at hr
  split at hr
  · simp at hr
  · obtain rfl := Option.some.inj hr
    simp (maxDischargeDepth := 20) [h]

@[simp] theorem State.memWf_popSrcs {s : State} (h : s.MemWf) (vs : List VSrc) : State.MemWf (State.popSrcs s vs) := by
  simp +contextual (maxDischargeDepth := 20) [State.popSrcs, State.memWf_foldl, h]

@[simp] theorem State.memWf_pushOne {s : State} (h : s.MemWf) (wid lat j : Nat) (vd : QName) (e : Elem) : State.MemWf (State.pushOne s wid lat j vd e) := by
  simp (maxDischargeDepth := 20) [State.pushOne, h]

@[simp] theorem State.memWf_pushAll {s : State} (h : s.MemWf) (wid lat : Nat) (vd : QName) (es : List Elem) : State.MemWf (State.pushAll s wid lat vd es) := by
  simp +contextual (maxDischargeDepth := 20) [State.pushAll, State.memWf_foldl, h]

@[simp] theorem State.memWf_owe {s : State} (h : s.MemWf) (wid lat : Nat) (f : BitVec 3) : State.MemWf (State.owe s wid lat f) := by
  simp (maxDischargeDepth := 20) [State.owe, h]

theorem State.memWf_tileOvf {s : State} (h : s.MemWf) (n : Nat) : ∀ r, State.tileOvf s n = some r → r.2.MemWf := by
  intro r hr
  unfold State.tileOvf at hr
  dsimp only at hr
  split at hr
  · split at hr
    · obtain rfl := Option.some.inj hr; simp +contextual (maxDischargeDepth := 40) [State.memWf_foldl, *]
    · simp at hr
  · simp at hr

@[simp] theorem State.memWf_winPush {s : State} (h : s.MemWf) (wid : Nat) (op : MatOp) (w : Win) : State.MemWf (State.winPush s wid op w) := by
  simp (maxDischargeDepth := 20) [State.winPush, h]

@[simp] theorem State.memWf_askLeave {s : State} (h : s.MemWf) (k : Nat) (h : Heavy) (op : Nat) : (State.askLeave s k h op).1.MemWf := by
  unfold State.askLeave
  (repeat' split)
  all_goals simp (maxDischargeDepth := 20) [*]

@[simp] theorem State.memWf_tileDone {s : State} (h : s.MemWf) (k n : Nat) : State.MemWf (State.tileDone s k n) := by
  simp (maxDischargeDepth := 20) [State.tileDone, h]

@[simp] theorem State.memWf_headFault {s : State} (h : s.MemWf) (k : Nat) (m : MatCmd) (t : Trap) : State.MemWf (State.headFault s k m t) := by
  simp (maxDischargeDepth := 20) [State.headFault, h]

@[simp] theorem State.memWf_tgoHead {s : State} (h : s.MemWf) (k : Nat) (m : MatCmd) : State.MemWf (State.tgoHead s k m) := by
  unfold State.tgoHead
  dsimp only
  (repeat' split) <;> simp +contextual (maxDischargeDepth := 40) [State.memWf_foldl, *]

@[simp] theorem State.memWf_moveStart {s : State} (h : s.MemWf) (k : Nat) (m : MatCmd) : State.MemWf (State.moveStart s k m) := by
  unfold State.moveStart
  (repeat' split)
  all_goals simp (maxDischargeDepth := 20) [*]

@[simp] theorem State.memWf_matRead {s : State} (h : s.MemWf) (k : Nat) (m : MatCmd) (spans : List Span) : State.MemWf (State.matRead s k m spans) := by
  unfold State.matRead
  split
  · simp +contextual (maxDischargeDepth := 40) [State.memWf_foldl, *]
  · dsimp only
    exact State.memWf_unhold (State.memWf_ite (fun _ => by simp +contextual (maxDischargeDepth := 40) [State.memWf_foldl, *]) fun _ => by simp +contextual (maxDischargeDepth := 40) [State.memWf_foldl, *]) ..

@[simp] theorem State.memWf_accstDone {s : State} (h : s.MemWf) (k : Nat) (m : MatCmd) : State.MemWf (State.accstDone s k m) := by
  simp (maxDischargeDepth := 20) [State.accstDone, h]

@[simp] theorem State.memWf_matResult {s : State} (h : s.MemWf) (k : Nat) (m : MatCmd) : State.MemWf (State.matResult s k m) := by
  simp (maxDischargeDepth := 20) [State.matResult, h]

@[simp] theorem State.memWf_placeWord {s : State} (h : s.MemWf) (w : Nat) : State.MemWf (State.placeWord s w) := by
  simp (maxDischargeDepth := 20) [State.placeWord, h]

@[simp] theorem State.memWf_enterQueue {s : State} (h : s.MemWf) (t : Task) : State.MemWf (State.enterQueue s t) := by
  unfold State.enterQueue
  dsimp only
  split
  · exact h
  · refine State.memWf_putBytes (State.memWf_segWord ?_ ..) ..
    exact ⟨h.hbm, h.host, h.tier, h.ws⟩

@[simp] theorem State.memWf_takeSpare {s : State} (h : s.MemWf) (p q pa : Nat) : State.MemWf (State.takeSpare s p q pa) := by
  unfold State.takeSpare
  exact State.memWf_writeChain (State.memWf_updPart h ..) ..

@[simp] theorem State.memWf_revoke {s : State} (h : s.MemWf) (t : Task) : State.MemWf (State.revoke s t) := by
  simp (maxDischargeDepth := 20) [State.revoke, h]

@[simp] theorem State.memWf_taskWrite {s : State} (h : s.MemWf) (t : Task) (l : Loc) (va : Nat) (bs : List Byte) : State.MemWf (State.taskWrite s t l va bs) := by
  simp (maxDischargeDepth := 20) [State.taskWrite, h]

@[simp] theorem State.memWf_completionWord {s : State} (h : s.MemWf) (t : Task) (v : Nat) : State.MemWf (State.completionWord s t v) := by
  unfold State.completionWord
  (repeat' split)
  all_goals simp (maxDischargeDepth := 20) [*]

@[simp] theorem State.memWf_updQueue {s : State} (h : s.MemWf) (q : Nat) (f : LaunchQ → LaunchQ) : State.MemWf (State.updQueue s q f) := by
  simp (maxDischargeDepth := 20) [State.updQueue, h]

@[simp] theorem State.memWf_raiseVec {s : State} (h : s.MemWf) (q : Nat) : State.MemWf (State.raiseVec s q) := by
  simp (maxDischargeDepth := 20) [State.raiseVec, h]

@[simp] theorem State.memWf_completionRecord {s : State} (h : s.MemWf) (q : Nat) (tag : Word) (irq : Bool) (seq status : Nat) : State.MemWf (State.completionRecord s q tag irq seq status) := by
  simp (maxDischargeDepth := 20) [State.completionRecord, h]

@[simp] theorem State.memWf_complete {s : State} (h : s.MemWf) (t : Task) (status : Nat) : State.MemWf (State.complete s t status) := by
  unfold State.complete
  (repeat' split)
  all_goals simp (maxDischargeDepth := 20) [*]

@[simp] theorem State.memWf_putNode {s : State} (h : s.MemWf) (p va : Nat) (l : Loc) (r : BitVec 512) (gen rgen cnt : Nat) : State.MemWf (State.putNode s p va l r gen rgen cnt) := by
  simp (maxDischargeDepth := 20) [State.putNode, h]


/-- What a creation leaves keeps the canonical form. -/
def Made.Wf : Made → Prop
  | .done t => t.MemWf
  | .wait t => t.MemWf
  | .refused => True

theorem Made.memWf_state {m : Made} {s : State} (h : s.MemWf) (hm : m.Wf) : (m.state s).MemWf := by
  cases m with
  | refused => exact h
  | done t => exact hm
  | wait t => exact hm

theorem Made.memWf_done {m : Made} {t : State} (h : m.Wf) (e : m = .done t) : t.MemWf := by subst e; exact h

theorem Made.memWf_wait {m : Made} {t : State} (h : m.Wf) (e : m = .wait t) : t.MemWf := by subst e; exact h

theorem State.memWf_create {s : State} (h : s.MemWf) (t : Task) (core : Nat) (ctx : Ctx) (id : Nat) :
    (s.create t core ctx id).Wf := by
  unfold State.create
  split
  · exact trivial
  · split
    · exact State.memWf_enterQueue h t
    · split
      · exact State.memWf_enterQueue (State.memWf_takeSpare h ..) t
      · refine State.memWf_updPart ?_ _ _
        split
        · exact h
        · exact ⟨h.hbm, h.host, h.tier, h.ws⟩

theorem State.memWf_nodeTask {s : State} (h : s.MemWf) (i : Instance) (n : Nat) (r : BitVec 512) (hd : Hdr) (core : Nat)
    (ctx : Ctx) (id : Nat) : (s.nodeTask i n r hd core ctx id).Wf := by
  unfold State.nodeTask
  split
  · exact h
  · have hc := State.memWf_create h (newTask (i.tsbase + nodeTsoff r) i.part i.parent i.level false (w64 (field r 0 64))
      (w64 (field r 64 64)) 0 (.node i.tab n i.igen i.tsbase) hd) core ctx id
    dsimp only
    split
    · exact h
    · exact hc

@[simp] theorem State.memWf_newInstance {s : State} (h : s.MemWf) (i : Instance) : State.MemWf (State.newInstance s i) := by
  first
  | (exact ⟨h.hbm, h.host, h.tier, h.ws⟩; done)
  | fail

/-- What a part of a release leaves keeps the canonical form. -/
def Released.Wf : Released → Prop
  | .done t _ => t.MemWf
  | .later => True

theorem State.memWf_releasePart {s : State} (h : s.MemWf) (d : Release) : ∀ r, s.releasePart d = some r → r.Wf := by
  intro r hr
  unfold State.releasePart at hr
  split at hr
  · obtain rfl := Option.some.inj hr
    unfold State.testRgen
    dsimp only
    repeat' split
    all_goals first | exact trivial | exact h | exact State.memWf_putNode h ..
  · obtain rfl := Option.some.inj hr
    unfold State.makeNode
    dsimp only
    repeat' split
    all_goals first | exact trivial | exact h | exact Made.memWf_state h (State.memWf_nodeTask h ..)
  · obtain rfl := Option.some.inj hr
    unfold State.countDown
    dsimp only
    repeat' split
    all_goals first | exact trivial | exact h | exact State.memWf_putNode h ..
  · cases hr

theorem State.memWf_releaseOn (fuel : Nat) {s : State} (h : s.MemWf) (d : Release) : (s.releaseOn fuel d).1.MemWf := by
  induction fuel generalizing s d with
  | zero => exact h
  | succ n ih =>
    unfold State.releaseOn
    split
    · exact h
    · exact h
    · next t e heq => exact ih (State.memWf_releasePart h d _ heq) e


@[simp] theorem State.memWf_releaseNode {s : State} (h : s.MemWf) (t : Task) : State.MemWf (State.releaseNode s t) := by
  unfold State.releaseNode
  split
  · have := State.memWf_releaseOn releaseParts h
    exact ⟨(this _).hbm, (this _).host, (this _).tier, (this _).ws⟩
  · exact h

@[simp] theorem State.memWf_releaseStep {s : State} (h : s.MemWf)  : State.MemWf (State.releaseStep s) := by
  unfold State.releaseStep
  split
  · exact h
  · have h' : State.MemWf { s with releases := [] } := ⟨h.hbm, h.host, h.tier, h.ws⟩
    have := State.memWf_releaseOn releaseParts h'
    exact ⟨(this _).hbm, (this _).host, (this _).tier, (this _).ws⟩

@[simp] theorem State.memWf_shoot {s : State} (h : s.MemWf) (p : Nat) (d : Shoot) : State.MemWf (State.shoot s p d) := by
  simp (maxDischargeDepth := 20) [State.shoot, h]

@[simp] theorem State.memWf_setEntry {s : State} (h : s.MemWf) (p pa : Nat) (w : Word) : State.MemWf (State.setEntry s p pa w) := by
  simp (maxDischargeDepth := 20) [State.setEntry, h]

@[simp] theorem State.memWf_moveReads {s : State} (h : s.MemWf) (p va : Nat) (l : Loc) : State.MemWf (State.moveReads s p va l) := by
  simp (maxDischargeDepth := 20) [State.moveReads, h]

@[simp] theorem State.memWf_moveBinds {s : State} (h : s.MemWf) (a : Nat) (l : Loc) : State.MemWf (State.moveBinds s a l) := by
  simp (maxDischargeDepth := 20) [State.moveBinds, h]

@[simp] theorem State.memWf_setMoved {s : State} (h : s.MemWf) (p va : Nat) (l : Loc) : State.MemWf (State.setMoved s p va l) := by
  simp (maxDischargeDepth := 20) [State.setMoved, h]

@[simp] theorem State.memWf_setPlace {s : State} (h : s.MemWf) (p va : Nat) (a : PageAt) (l : Loc) (hold : Bool) : State.MemWf (State.setPlace s p va a l hold) := by
  unfold State.setPlace
  split <;> simp (maxDischargeDepth := 20) [*]

@[simp] theorem State.memWf_carryLoss {s : State} (h : s.MemWf) (a l : Loc) : State.MemWf (State.carryLoss s a l) := by
  simp (maxDischargeDepth := 20) [State.carryLoss, h]

@[simp] theorem State.memWf_movePage {s : State} (h : s.MemWf) (p va : Nat) (a : PageAt) (l : Loc) (hold : Bool) : State.MemWf (State.movePage s p va a l hold) := by
  simp (maxDischargeDepth := 20) [State.movePage, h]

@[simp] theorem State.memWf_pushEng {s : State} (h : s.MemWf) (c : EngCmd) : State.MemWf (State.pushEng s c) := by
  simp (maxDischargeDepth := 20) [State.pushEng, h]

@[simp] theorem State.memWf_updEng {s : State} (h : s.MemWf) (k id : Nat) (f : EngCmd → EngCmd) : State.MemWf (State.updEng s k id f) := by
  simp (maxDischargeDepth := 20) [State.updEng, h]

@[simp] theorem State.memWf_failEng {s : State} (h : s.MemWf) (k id : Nat) (t : Trap) : State.MemWf (State.failEng s k id t) := by
  simp (maxDischargeDepth := 20) [State.failEng, h]

@[simp] theorem State.memWf_haltEng {s : State} (h : s.MemWf) (k id va : Nat) (malf : Bool) : State.MemWf (State.haltEng s k id va malf) := by
  simp (maxDischargeDepth := 20) [State.haltEng, h]

@[simp] theorem State.memWf_badEng {s : State} (h : s.MemWf) (k id va : Nat) (c : Cause) (malf : Bool) : State.MemWf (State.badEng s k id va c malf) := by
  simp (maxDischargeDepth := 20) [State.badEng, h]

@[simp] theorem State.memWf_takeRead {s : State} (h : s.MemWf) (k : Nat) (e : EngCmd) (va : Nat) (r : Rd) (f : List Byte → EngCmd → EngCmd) : State.MemWf (State.takeRead s k e va r f) := by
  unfold State.takeRead
  (repeat' split)
  all_goals simp (maxDischargeDepth := 20) [*]

@[simp] theorem State.memWf_rowRead {s : State} (h : s.MemWf) (k : Nat) (e : EngCmd) (a n : Nat) : State.MemWf (State.rowRead s k e a n) := by
  simp (maxDischargeDepth := 20) [State.rowRead, h]

@[simp] theorem State.memWf_rowWrite {s : State} (h : s.MemWf) (k : Nat) (e : EngCmd) (d len : Nat) : State.MemWf (State.rowWrite s k e d len) := by
  unfold State.rowWrite
  dsimp only
  split
  · exact State.memWf_updEng (State.memWf_updCore h ..) ..
  · split
    · exact h
    · exact State.memWf_badEng h ..
    · split
      · next heq => exact State.memWf_updEng (State.memWf_engineWriteAt h _ _ _ _ _ _ _ heq) ..
      · exact h
      · exact State.memWf_badEng h ..

@[simp] theorem State.memWf_ldtCheck {s : State} (h : s.MemWf) (k : Nat) (e : EngCmd) (a : Nat) : State.MemWf (State.ldtCheck s k e a) := by
  unfold State.ldtCheck
  dsimp only
  (repeat' split) <;> simp (maxDischargeDepth := 20) [*]

@[simp] theorem State.memWf_rowsDone {s : State} (h : s.MemWf) (k : Nat) (e : EngCmd) : State.MemWf (State.rowsDone s k e) := by
  simp (maxDischargeDepth := 20) [State.rowsDone, h]

@[simp] theorem State.memWf_rowMove {s : State} (h : s.MemWf) (k : Nat) (e : EngCmd) (a d : Nat) : State.MemWf (State.rowMove s k e a d) := by
  unfold State.rowMove
  dsimp only
  (repeat' split) <;> simp +contextual (maxDischargeDepth := 40) [State.memWf_foldl, *]

@[simp] theorem State.memWf_transferStep {s : State} (h : s.MemWf) (k : Nat) (e : EngCmd) : State.MemWf (State.transferStep s k e) := by
  unfold State.transferStep
  dsimp only
  repeat' split
  all_goals first | exact State.memWf_rowsDone h .. | exact State.memWf_failEng h .. | exact State.memWf_updEng h .. |
    exact State.memWf_rowMove h ..

@[simp] theorem State.memWf_ferryAccept {s : State} (h : s.MemWf) (k id : Nat) : State.MemWf (State.ferryAccept s k id) := by
  unfold State.ferryAccept
  (repeat' split)
  all_goals simp (maxDischargeDepth := 20) [*]

@[simp] theorem State.memWf_ferryQStep {s : State} (h : s.MemWf) (k : Nat) (e : EngCmd) : State.MemWf (State.ferryQStep s k e) := by
  unfold State.ferryQStep
  dsimp only
  (repeat' split) <;> simp +contextual (maxDischargeDepth := 40) [State.memWf_foldl, *]

@[simp] theorem State.memWf_tierSkip {s : State} (h : s.MemWf) (k : Nat) (e : EngCmd) : State.MemWf (State.tierSkip s k e) := by
  simp (maxDischargeDepth := 20) [State.tierSkip, h]

@[simp] theorem State.memWf_tierAsk {s : State} (h : s.MemWf) (k : Nat) (e : EngCmd) : State.MemWf (State.tierAsk s k e) := by
  unfold State.tierAsk
  (repeat' split) <;> first | exact h | simp (maxDischargeDepth := 20) [h]

@[simp] theorem State.memWf_ferryTierStep {s : State} (h : s.MemWf) (k : Nat) (e : EngCmd) : State.MemWf (State.ferryTierStep s k e) := by
  unfold State.ferryTierStep
  dsimp only
  (repeat' split) <;> first | exact h | simp (maxDischargeDepth := 20) [h]

@[simp] theorem State.memWf_ferryStep {s : State} (h : s.MemWf) (k id : Nat) : State.MemWf (State.ferryStep s k id) := by
  unfold State.ferryStep
  (repeat' split)
  all_goals simp (maxDischargeDepth := 20) [*]

@[simp] theorem State.memWf_engToken {s : State} (h : s.MemWf) (k : Nat) (x : Ctx) (n : BitVec 5) (flag : Bool) (pos : Nat) (w addr : Word) : State.MemWf (State.engToken s k x n flag pos w addr) := by
  simp (maxDischargeDepth := 20) [State.engToken, h]

@[simp] theorem State.memWf_holdDraining {s : State} (h : s.MemWf) (k : Nat) (x : Ctx) (r : FaultRecord) : State.MemWf (State.holdDraining s k x r) := by
  unfold State.holdDraining
  (repeat' split)
  all_goals simp (maxDischargeDepth := 20) [*]

@[simp] theorem State.memWf_reportFail {s : State} (h : s.MemWf) (k : Nat) (x : Ctx) (t : Trap) (tko : BitVec 5) (pos : Nat) (w : Word) : State.MemWf (State.reportFail s k x t tko pos w) := by
  unfold State.reportFail
  (repeat' split)
  all_goals simp (maxDischargeDepth := 20) [*]

@[simp] theorem State.memWf_spawnResults {s : State} (h : s.MemWf) (k : Nat) (e : EngCmd) : State.MemWf (State.spawnResults s k e) := by
  unfold State.spawnResults
  (repeat' split)
  all_goals simp (maxDischargeDepth := 20) [*]

@[simp] theorem State.memWf_targetToken {s : State} (h : s.MemWf) (k : Nat) (e : EngCmd) (t : Nat) : State.MemWf (State.targetToken s k e t) := by
  simp (maxDischargeDepth := 20) [State.targetToken, h]

@[simp] theorem State.memWf_redAt {s : State} (h : s.MemWf) (k : Nat) (e : EngCmd) (op : RedOp) (t : Nat) : State.MemWf (State.redAt s k e op t) := by
  unfold State.redAt
  dsimp only
  (repeat' split) <;> simp (maxDischargeDepth := 20) [*]

@[simp] theorem State.memWf_holdMsg {s : State} (h : s.MemWf) (k : Nat) (e : EngCmd) (t : Nat) : State.MemWf (State.holdMsg s k e t) := by
  simp (maxDischargeDepth := 20) [State.holdMsg, h]

@[simp] theorem State.memWf_msendAt {s : State} (h : s.MemWf) (k : Nat) (e : EngCmd) (t : Nat) : State.MemWf (State.msendAt s k e t) := by
  unfold State.msendAt
  (repeat' split)
  all_goals simp (maxDischargeDepth := 20) [*]

@[simp] theorem State.memWf_applyHeld {s : State} (h : s.MemWf) (t : Nat) (m : HeldMsg) : State.MemWf (State.applyHeld s t m) := by
  unfold State.applyHeld
  (repeat' split)
  all_goals simp (maxDischargeDepth := 20) [*]

@[simp] theorem State.memWf_readSource {s : State} (h : s.MemWf) (k : Nat) (e : EngCmd) (src n : Nat) : State.MemWf (State.readSource s k e src n) := by
  simp (maxDischargeDepth := 20) [State.readSource, h]

@[simp] theorem State.memWf_takeRun {s : State} (h : s.MemWf) (p stack g n : Nat) : (State.takeRun s p stack g n).1.MemWf := by
  simp +contextual (maxDischargeDepth := 20) [State.takeRun, State.memWf_foldl, h]

@[simp] theorem State.memWf_ownBerth {s : State} (h : s.MemWf) (k : Nat) (w : Word) : State.MemWf (State.ownBerth s k w) := by
  simp (maxDischargeDepth := 20) [State.ownBerth, h]

@[simp] theorem State.memWf_stnAllocate {s : State} (h : s.MemWf) (k : Nat) (e : EngCmd) (status : Bool) : State.MemWf (State.stnAllocate s k e status) := by
  unfold State.stnAllocate
  dsimp only
  (repeat' split) <;> simp +contextual (maxDischargeDepth := 40) [State.memWf_foldl, *]

theorem State.memWf_stnWrite {s : State} (h : s.MemWf) (k : Nat) (e : EngCmd) (o : Nat) (bs : List Byte) : ∀ t, State.stnWrite s k e o bs = .ok t → t.MemWf := by
  intro t ht
  unfold State.stnWrite at ht
  dsimp only at ht
  split at ht
  · obtain rfl := Wr.ok.inj ht; exact h
  · split at ht
    · split at ht
      · simp at ht
      · obtain rfl := Wr.ok.inj ht; simp +contextual (maxDischargeDepth := 40) [State.memWf_foldl, *]
    · exact State.memWf_engineWrite h _ _ _ _ _ _ t ht

@[simp] theorem State.memWf_stnData {s : State} (h : s.MemWf) (k : Nat) (e : EngCmd) : State.MemWf (State.stnData s k e) := by
  unfold State.stnData
  dsimp only
  repeat' split
  all_goals first | (simp +contextual (maxDischargeDepth := 40) [State.memWf_foldl, *]; done) | (rename_i heq; have := State.memWf_stnWrite h _ _ _ _ _ heq; simp +contextual (maxDischargeDepth := 40) [State.memWf_foldl, *]; done)

@[simp] theorem State.memWf_stnStep {s : State} (h : s.MemWf) (k : Nat) (e : EngCmd) (status : Bool) : State.MemWf (State.stnStep s k e status) := by
  simp (maxDischargeDepth := 20) [State.stnStep, h]

@[simp] theorem State.memWf_spawned {s : State} (h : s.MemWf) (k id st seq : Nat) : State.MemWf (State.spawned s k id st seq) := by
  simp (maxDischargeDepth := 20) [State.spawned, h]

@[simp] theorem State.memWf_spawnStep {s : State} (h : s.MemWf) (k : Nat) (e : EngCmd) : State.MemWf (State.spawnStep s k e) := by
  unfold State.spawnStep
  dsimp only
  repeat' split
  all_goals first | exact h | exact State.memWf_badEng h .. | exact State.memWf_failEng h .. | exact State.memWf_spawned h .. |
    exact State.memWf_badEng (State.memWf_note h ..) .. | exact State.memWf_failEng (State.memWf_note h ..) .. |
    exact State.memWf_spawned (State.memWf_note h ..) .. | skip
  · next heq => exact State.memWf_spawned (Made.memWf_done (State.memWf_create (State.memWf_note h ..) ..) heq) ..
  · next heq => exact State.memWf_updEng (Made.memWf_wait (State.memWf_create (State.memWf_note h ..) ..) heq) ..

@[simp] theorem State.memWf_rootTask {s : State} (h : s.MemWf) (k : Nat) (e : EngCmd) (t : Task) (i : Nat) : State.MemWf (State.rootTask s k e t i) := by
  unfold State.rootTask
  dsimp only
  have ha : ∀ l v, (s.putNode t.part (graphTab e.rcd + 64 * i) l v (graphIgen e.rcd) (nodeRgen v) 0).MemWf := fun l v =>
    State.memWf_putNode h ..
  repeat' split
  all_goals first | exact h | exact State.memWf_haltEng h .. | exact State.memWf_updEng h .. |
    exact State.memWf_badEng h .. | exact State.memWf_failEng h .. | exact State.memWf_updEng (ha _ _) .. | skip
  · next heq => exact State.memWf_updEng (Made.memWf_done (State.memWf_nodeTask (ha _ _) ..) heq) ..
  · next heq => exact State.memWf_updEng (Made.memWf_wait (State.memWf_nodeTask (ha _ _) ..) heq) ..

@[simp] theorem State.memWf_graphStep {s : State} (h : s.MemWf) (k : Nat) (e : EngCmd) : State.MemWf (State.graphStep s k e) := by
  unfold State.graphStep
  (repeat' split)
  all_goals simp (maxDischargeDepth := 20) [*]

@[simp] theorem State.memWf_answer {s : State} (h : s.MemWf) (w : Creation) (seq : Option Nat) : State.MemWf (State.answer s w seq) := by
  unfold State.answer
  (repeat' split)
  all_goals simp (maxDischargeDepth := 20) [*]

@[simp] theorem State.memWf_proceed {s : State} (h : s.MemWf) (p fuel : Nat) : (s.proceed p fuel).MemWf := by
  induction fuel generalizing s with
  | zero => exact h
  | succ n ih =>
    unfold State.proceed
    dsimp only
    split
    · exact ⟨h.hbm, h.host, h.tier, h.ws⟩
    · split
      · exact ih (State.memWf_updPart h ..)
      · split
        · next heq =>
          exact ih (State.memWf_answer (Made.memWf_done (State.memWf_create (State.memWf_updPart h ..) ..) heq) ..)
        · exact ih (State.memWf_answer (State.memWf_updPart h ..) ..)
        · next heq => exact State.memWf_updPart (Made.memWf_wait (State.memWf_create (State.memWf_updPart h ..) ..) heq) ..

@[simp] theorem State.memWf_refuseWaiting {s : State} (h : s.MemWf) (p : Nat) : State.MemWf (State.refuseWaiting s p) := by
  simp +contextual (maxDischargeDepth := 20) [State.refuseWaiting, State.memWf_foldl, h]

@[simp] theorem State.memWf_collVerdict {s : State} (h : s.MemWf) (cause : Cause) (info : Nat) (x : Contrib) : State.MemWf (State.collVerdict s cause info x) := by
  simp (maxDischargeDepth := 20) [State.collVerdict, h]

@[simp] theorem State.memWf_collEnd {s : State} (h : s.MemWf) (c : Coll) (cause : Cause) (info : Nat) : State.MemWf (State.collEnd s c cause info) := by
  simp +contextual (maxDischargeDepth := 20) [State.collEnd, State.memWf_foldl, h]

@[simp] theorem State.memWf_collFail {s : State} (h : s.MemWf) (p g n : Nat) (test : Nat → EngCmd → Bool) : State.MemWf (State.collFail s p g n test) := by
  unfold State.collFail
  exact State.memWf_foldl h fun s c hs => State.memWf_foldl hs fun s e hs => State.memWf_collVerdict hs ..

@[simp] theorem State.memWf_putColl {s : State} (h : s.MemWf) (d : Coll) : State.MemWf (State.putColl s d) := by
  simp (maxDischargeDepth := 20) [State.putColl, h]

@[simp] theorem State.memWf_collDouble {s : State} (h : s.MemWf) (k : Nat) (first e : EngCmd) (form : Nat) : State.MemWf (State.collDouble s k first e form) := by
  unfold State.collDouble
  dsimp only
  (repeat' split) <;> simp (maxDischargeDepth := 20) [*]

@[simp] theorem State.memWf_contribute {s : State} (h : s.MemWf) (p g num n limit : Nat) (x : Contrib) (sub len op root : Nat) : State.MemWf (State.contribute s p g num n limit x sub len op root) := by
  unfold State.contribute
  dsimp only
  (repeat' split) <;> simp (maxDischargeDepth := 20) [*]

@[simp] theorem State.memWf_remoteContribution {s : State} (h : s.MemWf) (p g num rank sub op : Nat) (data : List Byte) : State.MemWf (State.remoteContribution s p g num rank sub op data) := by
  simp (maxDischargeDepth := 20) [State.remoteContribution, h]

@[simp] theorem State.memWf_collDeliver {s : State} (h : s.MemWf) (idx : Nat) : State.MemWf (State.collDeliver s idx) := by
  unfold State.collDeliver
  (repeat' split)
  all_goals simp +contextual (maxDischargeDepth := 20) [State.memWf_foldl, *]

@[simp] theorem State.memWf_timeoutRecord {s : State} (h : s.MemWf) (c : Coll) : State.MemWf (State.timeoutRecord s c) := by
  simp (maxDischargeDepth := 20) [State.timeoutRecord, h]

@[simp] theorem State.memWf_collTimeout {s : State} (h : s.MemWf) (c : Coll) : State.MemWf (State.collTimeout s c) := by
  simp (maxDischargeDepth := 20) [State.collTimeout, h]

@[simp] theorem State.memWf_collWrite {s : State} (h : s.MemWf) (k : Nat) (e : EngCmd) : State.MemWf (State.collWrite s k e) := by
  unfold State.collWrite
  dsimp only
  repeat' split
  all_goals first | (simp +contextual (maxDischargeDepth := 40) [State.memWf_foldl, *]; done) | (rename_i heq; have := State.memWf_engineWrite (by simp +contextual (maxDischargeDepth := 40) [State.memWf_foldl, *]) _ _ _ _ _ _ _ heq; simp +contextual (maxDischargeDepth := 40) [State.memWf_foldl, *]; done) | exact h

@[simp] theorem State.memWf_cmdStep {s : State} (h : s.MemWf) (k : Nat) (e : EngCmd) : State.MemWf (State.cmdStep s k e) := by
  unfold State.cmdStep
  (repeat' split)
  all_goals simp (maxDischargeDepth := 20) [*]

@[simp] theorem State.memWf_engineStep {s : State} (h : s.MemWf) (k : Nat) (x : Ctx) (id : Nat) : State.MemWf (State.engineStep s k x id) := by
  unfold State.engineStep
  (repeat' split)
  all_goals simp (maxDischargeDepth := 20) [*]

@[simp] theorem State.memWf_updLad {s : State} (h : s.MemWf) (k id : Nat) (f : LadCmd → LadCmd) : State.MemWf (State.updLad s k id f) := by
  simp (maxDischargeDepth := 20) [State.updLad, h]

@[simp] theorem State.memWf_failLad {s : State} (h : s.MemWf) (k id : Nat) (t : Trap) : State.MemWf (State.failLad s k id t) := by
  simp (maxDischargeDepth := 20) [State.failLad, h]

@[simp] theorem State.memWf_badLad {s : State} (h : s.MemWf) (k id va : Nat) (c : Cause) (malf : Bool) : State.MemWf (State.badLad s k id va c malf) := by
  simp (maxDischargeDepth := 20) [State.badLad, h]

@[simp] theorem State.memWf_ladPop {s : State} (h : s.MemWf) (k : Nat) (m : LadCmd) (q : QName) : State.MemWf (State.ladPop s k m q) := by
  unfold State.ladPop
  dsimp only
  (repeat' split) <;> simp +contextual (maxDischargeDepth := 40) [State.memWf_foldl, *]

@[simp] theorem State.memWf_ownShares {s : State} (h : s.MemWf) (k : Nat) (ws : List Word) : State.MemWf (State.ownShares s k ws) := by
  simp (maxDischargeDepth := 20) [State.ownShares, h]

@[simp] theorem State.memWf_useLin {s : State} (h : s.MemWf) (k : Nat) : State.MemWf (State.useLin s k) := by
  simp (maxDischargeDepth := 20) [State.useLin, h]

theorem State.memWf_shareAll {s t : State} (h : s.MemWf) {l : List Word} (e : s.shareAll l = some t) : t.MemWf := by
  induction l generalizing s with
  | nil => cases e; exact h
  | cons w r ih =>
    simp only [State.shareAll] at e
    split at e
    · simp at e
    · split at e
      · simp at e
      · exact ih (by simp [*]) e

@[simp] theorem State.memWf_ladBegin {s : State} (h : s.MemWf) (k : Nat) (m : LadCmd) (p : LadPlan) (old : List Byte) : State.MemWf (State.ladBegin s k m p old) := by
  unfold State.ladBegin
  dsimp only
  split
  · simp +contextual (maxDischargeDepth := 40) [State.memWf_foldl, *]
  · rename_i heq
    have := State.memWf_shareAll h heq
    (repeat' split) <;> simp +contextual (maxDischargeDepth := 40) [State.memWf_foldl, *]

@[simp] theorem State.memWf_ladRun {s : State} (h : s.MemWf) (k : Nat) (m : LadCmd) : State.MemWf (State.ladRun s k m) := by
  unfold State.ladRun
  dsimp only
  (repeat' split) <;> simp +contextual (maxDischargeDepth := 40) [State.memWf_foldl, *]

@[simp] theorem State.memWf_ladWrite {s : State} (h : s.MemWf) (k : Nat) (m : LadCmd) (va : Nat) (bs : List Byte) (f : LadCmd → LadCmd) : State.MemWf (State.ladWrite s k m va bs f) := by
  unfold State.ladWrite
  split
  · rename_i heq
    have := State.memWf_engineWrite h _ _ _ _ _ _ _ heq
    simp +contextual (maxDischargeDepth := 40) [State.memWf_foldl, *]
  · exact h
  · simp +contextual (maxDischargeDepth := 40) [State.memWf_foldl, *]

@[simp] theorem State.memWf_swapWrite {s : State} (h : s.MemWf) (k : Nat) (m : LadCmd) (va : Nat) (bs : List Byte) (f : LadCmd → LadCmd) : State.MemWf (State.swapWrite s k m va bs f) := by
  unfold State.swapWrite
  split
  · rename_i heq
    exact State.memWf_updLad (State.memWf_engineWriteAt h _ _ _ _ _ _ _ heq) ..
  · exact h

@[simp] theorem State.memWf_relAll {s : State} (h : s.MemWf) (k : Nat) (ws : List Word) : State.MemWf (State.relAll s k ws) := by
  unfold State.relAll
  (repeat' split)
  all_goals simp +contextual (maxDischargeDepth := 20) [State.memWf_foldl, *]

@[simp] theorem State.memWf_ladSwap {s : State} (h : s.MemWf) (k : Nat) (m : LadCmd) : State.MemWf (State.ladSwap s k m) := by
  unfold State.ladSwap
  (repeat' split)
  all_goals simp (maxDischargeDepth := 20) [*]

@[simp] theorem State.memWf_ladPush {s : State} (h : s.MemWf) (k : Nat) (m : LadCmd) : State.MemWf (State.ladPush s k m) := by
  unfold State.ladPush
  (repeat' split)
  all_goals simp (maxDischargeDepth := 20) [*]

@[simp] theorem State.memWf_ladMasked {s : State} (h : s.MemWf) (k : Nat) (m : LadCmd) : State.MemWf (State.ladMasked s k m) := by
  simp (maxDischargeDepth := 20) [State.ladMasked, h]

@[simp] theorem State.memWf_ladStart {s : State} (h : s.MemWf) (k : Nat) (m : LadCmd) : State.MemWf (State.ladStart s k m) := by
  unfold State.ladStart
  (repeat' split)
  all_goals simp (maxDischargeDepth := 20) [*]

@[simp] theorem State.memWf_ladStep {s : State} (h : s.MemWf) (k : Nat) (m : LadCmd) : State.MemWf (State.ladStep s k m) := by
  unfold State.ladStep
  (repeat' split)
  all_goals simp (maxDischargeDepth := 20) [*]

@[simp] theorem State.memWf_ladderStep {s : State} (h : s.MemWf) (k id : Nat) : State.MemWf (State.ladderStep s k id) := by
  unfold State.ladderStep
  (repeat' split)
  all_goals simp (maxDischargeDepth := 20) [*]

@[simp] theorem State.memWf_ladUndo {s : State} (h : s.MemWf) (k : Nat) (m : LadCmd) : State.MemWf (State.ladUndo s k m) := by
  simp +contextual (maxDischargeDepth := 20) [State.ladUndo, State.memWf_foldl, h]

@[simp] theorem State.memWf_settleScratch {s : State} (h : s.MemWf)  : State.MemWf (State.settleScratch s) := by
  simp (maxDischargeDepth := 20) [State.settleScratch, h]

@[simp] theorem State.memWf_pushGen {s : State} (h : s.MemWf) (wid : Nat) (op : GenOp) (vd : QName) (ctl chunk : Elem) : State.MemWf (State.pushGen s wid op vd ctl chunk) := by
  simp (maxDischargeDepth := 20) [State.pushGen, h]

@[simp] theorem State.memWf_genDone {s : State} (h : s.MemWf) (k : Nat) (g : GenCmd) (e : Elem) : State.MemWf (State.genDone s k g e) := by
  simp (maxDischargeDepth := 20) [State.genDone, h]

@[simp] theorem State.memWf_genFail {s : State} (h : s.MemWf) (k : Nat) (g : GenCmd) (t : Trap) : State.MemWf (State.genFail s k g t) := by
  simp (maxDischargeDepth := 20) [State.genFail, h]

@[simp] theorem State.memWf_updGen {s : State} (h : s.MemWf) (k : Nat) (g : GenCmd) (f : GenCmd → GenCmd) : State.MemWf (State.updGen s k g f) := by
  simp (maxDischargeDepth := 20) [State.updGen, h]

@[simp] theorem State.memWf_genStop {s : State} (h : s.MemWf) {α : Type} (k : Nat) (g : GenCmd) (x : Lk α) : State.MemWf (State.genStop s k g x) := by
  unfold State.genStop
  (repeat' split)
  all_goals simp (maxDischargeDepth := 20) [*]

@[simp] theorem State.memWf_genAsk {s : State} (h : s.MemWf) {α : Type} (k : Nat) (g : GenCmd) (x : Ask α) : State.MemWf (State.genAsk s k g x) := by
  unfold State.genAsk
  (repeat' split)
  all_goals simp (maxDischargeDepth := 20) [*]

@[simp] theorem State.memWf_stepTo {s : State} (h : s.MemWf) (k : Nat) (g : GenCmd) (st top : Nat) : State.MemWf (State.stepTo s k g st top) := by
  simp (maxDischargeDepth := 20) [State.stepTo, h]

@[simp] theorem State.memWf_pushNode {s : State} (h : s.MemWf) (k : Nat) (g : GenCmd) (st ret : Nat) : State.MemWf (State.pushNode s k g st ret) := by
  unfold State.pushNode
  dsimp only
  split
  · split
    · next heq => exact State.memWf_stepTo (State.memWf_updCore (State.memWf_engineWrite h _ _ _ _ _ _ _ heq) ..) ..
    · exact h
    · exact State.memWf_genStop h ..
  · exact State.memWf_genAsk h ..

@[simp] theorem State.memWf_gstepStep {s : State} (h : s.MemWf) (k : Nat) (g : GenCmd) : State.MemWf (State.gstepStep s k g) := by
  unfold State.gstepStep
  dsimp only
  repeat' split
  all_goals first | (simp +contextual (maxDischargeDepth := 40) [State.memWf_foldl, *]; done) | (rename_i heq; have := State.memWf_engineWrite (by simp +contextual (maxDischargeDepth := 40) [State.memWf_foldl, *]) _ _ _ _ _ _ _ heq; simp +contextual (maxDischargeDepth := 40) [State.memWf_foldl, *]; done) | exact h

@[simp] theorem State.memWf_vgmaskStep {s : State} (h : s.MemWf) (k : Nat) (g : GenCmd) (bf : Bool) : State.MemWf (State.vgmaskStep s k g bf) := by
  unfold State.vgmaskStep
  dsimp only
  (repeat' split) <;> simp +contextual (maxDischargeDepth := 40) [State.memWf_foldl, *]

@[simp] theorem State.memWf_tokoutStep {s : State} (h : s.MemWf) (k : Nat) (g : GenCmd) : State.MemWf (State.tokoutStep s k g) := by
  unfold State.tokoutStep
  dsimp only
  (repeat' split) <;> simp +contextual (maxDischargeDepth := 40) [State.memWf_foldl, *]

@[simp] theorem State.memWf_genStep {s : State} (h : s.MemWf) (k : Nat) : State.MemWf (State.genStep s k) := by
  unfold State.genStep
  (repeat' split)
  all_goals simp (maxDischargeDepth := 20) [*]

end Sys2Proof.Machine
end

