-- ==== Sys2Proof/Laws/MemDevice.lean ====
section
/-! SUPPORT. The four memories keep their canonical form: supervisor, scheduler, host interface, and a step. -/

namespace Sys2Proof.Machine

open Sys2Proof

@[simp] theorem State.memWf_requestLeave {s : State} (h : s.MemWf) (k n : Nat) (h : Heavy) : State.MemWf (State.requestLeave s k n h) := by
  unfold State.requestLeave
  (repeat' split)
  all_goals simp (maxDischargeDepth := 20) [*]

@[simp] theorem State.memWf_writeTqspare {s : State} (h : s.MemWf) (p : Nat) (v : Word) : State.MemWf (State.writeTqspare s p v) := by
  unfold State.writeTqspare
  dsimp only
  split
  · exact State.memWf_proceed (State.memWf_updPart h ..) ..
  · split
    · exact State.memWf_refuseWaiting (State.memWf_updPart h ..) ..
    · exact State.memWf_updPart h ..

@[simp] theorem State.memWf_orderPreempt {s : State} (h : s.MemWf) (t : Task) : State.MemWf (State.orderPreempt s t) := by
  simp (maxDischargeDepth := 20) [State.orderPreempt, h]

@[simp] theorem State.memWf_writePre {s : State} (h : s.MemWf) (p : Nat) : State.MemWf (State.writePre s p) := by
  unfold State.writePre
  (repeat' split)
  all_goals simp (maxDischargeDepth := 20) [*]

@[simp] theorem State.memWf_writeSchctl {s : State} (h : s.MemWf) (p : Nat) (v : Word) : State.MemWf (State.writeSchctl s p v) := by
  simp (maxDischargeDepth := 20) [State.writeSchctl, h]

@[simp] theorem State.memWf_writePartSpecial {s : State} (h : s.MemWf) (p sel : Nat) (v : Word) : State.MemWf (State.writePartSpecial s p sel v) := by
  simp (maxDischargeDepth := 20) [State.writePartSpecial, h]

@[simp] theorem State.memWf_wswWrite {s : State} (h : s.MemWf) (wid off : Nat) (bs : List Byte) : State.MemWf (State.wswWrite s wid off bs) := by
  simp (maxDischargeDepth := 20) [State.wswWrite, h]

@[simp] theorem State.memWf_quarStore {s : State} (h : s.MemWf) (wid : Nat) (rows : BitVec 256) (e : Option (Nat × Loc)) : State.MemWf (State.quarStore s wid rows e) := by
  unfold State.quarStore
  (repeat' split)
  all_goals simp (maxDischargeDepth := 20) [*]

@[simp] theorem State.memWf_mapRun {s : State} (h : s.MemWf) (w : Word) (f : Gran → Gran) : State.MemWf (State.mapRun s w f) := by
  unfold State.mapRun
  (repeat' split)
  all_goals simp +contextual (maxDischargeDepth := 20) [State.memWf_foldl, *]

@[simp] theorem State.memWf_haltedWrite {s : State} (h : s.MemWf) (k : Nat) (w : HaltWrite) : State.MemWf (State.haltedWrite s k w) := by
  simp (maxDischargeDepth := 20) [State.haltedWrite, h]

@[simp] theorem State.memWf_unhalt {s : State} (h : s.MemWf) (k : Nat) : State.MemWf (State.unhalt s k) := by
  simp (maxDischargeDepth := 20) [State.unhalt, h]

@[simp] theorem State.memWf_handlerDone {s : State} (h : s.MemWf) (k : Nat) (x : Ctx) : State.MemWf (State.handlerDone s k x) := by
  simp (maxDischargeDepth := 20) [State.handlerDone, h]

@[simp] theorem State.memWf_interrupt {s : State} (h : s.MemWf) (target code : Nat) : State.MemWf (State.interrupt s target code) := by
  simp (maxDischargeDepth := 20) [State.interrupt, h]

@[simp] theorem State.memWf_retarget {s : State} (h : s.MemWf) (t : Task) : State.MemWf (State.retarget s t) := by
  simp (maxDischargeDepth := 20) [State.retarget, h]

@[simp] theorem State.memWf_dropStrays {s : State} (h : s.MemWf) (p : Nat) : State.MemWf (State.dropStrays s p) := by
  refine State.memWf_foldl h fun u t hu => ?_
  split <;> simp (maxDischargeDepth := 20) [hu]

@[simp] theorem State.memWf_unmove {s : State} (h : s.MemWf) (p : Nat) : State.MemWf (State.unmove s p) := by
  simp (maxDischargeDepth := 20) [State.unmove, h]

@[simp] theorem State.memWf_writePart {s : State} (h : s.MemWf) (p sel : Nat) (v : Word) : State.MemWf (State.writePart s p sel v) := by
  simp (maxDischargeDepth := 20) [State.writePart, h]

@[simp] theorem State.memWf_writeIsland {s : State} (h : s.MemWf) (n : Nat) (v : Word) : State.MemWf (State.writeIsland s n v) := by
  simp (maxDischargeDepth := 20) [State.writeIsland, h]

@[simp] theorem State.memWf_deadCtx {s : State} (h : s.MemWf) (k : Nat) (r : FaultRecord) (x : Ctx) : State.MemWf (State.deadCtx s k r x) := by
  simp (maxDischargeDepth := 20) [State.deadCtx, h]

@[simp] theorem State.memWf_keepWalk {s : State} (h : s.MemWf) (die p va : Nat) : State.MemWf (State.keepWalk s die p va) := by
  simp (maxDischargeDepth := 20) [State.keepWalk, h]

@[simp] theorem State.memWf_keepFirst {s : State} (h : s.MemWf) (k : Nat) (t : TlbEntry) : State.MemWf (State.keepFirst s k t) := by
  simp (maxDischargeDepth := 20) [State.keepFirst, h]

@[simp] theorem State.memWf_keepSecond {s : State} (h : s.MemWf) (die : Nat) (t : TlbEntry) : State.MemWf (State.keepSecond s die t) := by
  simp (maxDischargeDepth := 20) [State.keepSecond, h]

@[simp] theorem State.memWf_serveIssue {s : State} (h : s.MemWf) (k : Nat) (x : Ctx) : State.MemWf (State.serveIssue s k x) := by
  unfold State.serveIssue
  (repeat' split)
  all_goals simp (maxDischargeDepth := 20) [*]

@[simp] theorem State.memWf_serveAccess {s : State} (h : s.MemWf) (k : Nat) (x : Ctx) (mapped : Bool) : State.MemWf (State.serveAccess s k x mapped) := by
  unfold State.serveAccess
  (repeat' split)
  all_goals simp (maxDischargeDepth := 20) [*]

@[simp] theorem State.memWf_serveEng {s : State} (h : s.MemWf) (k id : Nat) (mapped : Bool) : State.MemWf (State.serveEng s k id mapped) := by
  unfold State.serveEng
  (repeat' split)
  all_goals simp (maxDischargeDepth := 20) [*]

@[simp] theorem State.memWf_serveLad {s : State} (h : s.MemWf) (k id : Nat) (mapped : Bool) : State.MemWf (State.serveLad s k id mapped) := by
  unfold State.serveLad
  (repeat' split)
  all_goals simp (maxDischargeDepth := 20) [*]

@[simp] theorem State.memWf_serveGen {s : State} (h : s.MemWf) (k : Nat) (mapped : Bool) : State.MemWf (State.serveGen s k mapped) := by
  unfold State.serveGen
  (repeat' split)
  all_goals simp (maxDischargeDepth := 20) [*]

@[simp] theorem State.memWf_resumeCtx {s : State} (h : s.MemWf) (k : Nat) (x : Ctx) (r : FaultRecord) : State.MemWf (State.resumeCtx s k x r) := by
  simp (maxDischargeDepth := 20) [State.resumeCtx, h]

@[simp] theorem State.memWf_resumeDead {s : State} (h : s.MemWf) (k : Nat) : State.MemWf (State.resumeDead s k) := by
  unfold State.resumeDead
  refine State.memWf_foldl h fun s a hs => ?_
  split
  · simp +contextual (maxDischargeDepth := 40) [State.memWf_foldl, *]
  · exact hs

@[simp] theorem State.memWf_answerSysc0 {s : State} (h : s.MemWf) (k : Nat) (x : Ctx) (r : FaultRecord) : State.MemWf (State.answerSysc0 s k x r) := by
  unfold State.answerSysc0
  (repeat' split)
  all_goals simp (maxDischargeDepth := 20) [*]

@[simp] theorem State.memWf_endFault {s : State} (h : s.MemWf) (t : Task) : State.MemWf (State.endFault s t) := by
  unfold State.endFault
  (repeat' split)
  all_goals simp (maxDischargeDepth := 20) [*]

@[simp] theorem State.memWf_controlError {s : State} (h : s.MemWf) (p : Nat) : State.MemWf (State.controlError s p) := by
  unfold State.controlError
  refine State.memWf_foldl h fun s a hs => ?_
  dsimp only
  split <;> simp +contextual (maxDischargeDepth := 40) [State.memWf_foldl, *]

@[simp] theorem State.memWf_segmentError {s : State} (h : s.MemWf) (p : Nat) : State.MemWf (State.segmentError s p) := by
  simp (maxDischargeDepth := 20) [State.segmentError, h]

@[simp] theorem State.memWf_upset {s : State} (h : s.MemWf) (kind k key : Nat) : State.MemWf (State.upset s kind k key) := by
  unfold State.upset
  (repeat' split)
  all_goals simp (maxDischargeDepth := 20) [*]

@[simp] theorem State.memWf_markCrowded {s : State} (h : s.MemWf)  : State.MemWf (State.markCrowded s) := by
  simp (maxDischargeDepth := 20) [State.markCrowded, h]

@[simp] theorem State.memWf_takePlace {s : State} (h : s.MemWf) (t : Task) : State.MemWf (State.takePlace s t) := by
  unfold State.takePlace
  split
  · exact h
  · exact ⟨h.hbm, h.host, h.tier, h.ws⟩

@[simp] theorem State.memWf_place {s : State} (h : s.MemWf) (t : Task) : State.MemWf (State.place s t) := by
  simp +contextual (maxDischargeDepth := 20) [State.place, State.memWf_foldl, h]

@[simp] theorem State.memWf_placeHeld {s : State} (h : s.MemWf) (p : Nat) : State.MemWf (State.placeHeld s p) := by
  simp +contextual (maxDischargeDepth := 20) [State.placeHeld, State.memWf_foldl, h]

@[simp] theorem State.memWf_reserve {s : State} (h : s.MemWf) (t : Task) (k : Nat) : State.MemWf (State.reserve s t k) := by
  simp (maxDischargeDepth := 20) [State.reserve, h]

@[simp] theorem State.memWf_handOver {s : State} (h : s.MemWf) (k : Nat) : State.MemWf (State.handOver s k) := by
  unfold State.handOver
  (repeat' split)
  all_goals simp (maxDischargeDepth := 20) [*]

@[simp] theorem State.memWf_handAll {s : State} (h : s.MemWf) (p : Nat) : State.MemWf (State.handAll s p) := by
  simp +contextual (maxDischargeDepth := 20) [State.handAll, State.memWf_foldl, h]

@[simp] theorem State.memWf_takeRequest {s : State} (h : s.MemWf) (t : Task) (k : Nat) : State.MemWf (State.takeRequest s t k) := by
  unfold State.takeRequest
  (repeat' split)
  all_goals simp (maxDischargeDepth := 20) [*]

@[simp] theorem State.memWf_makeRoom {s : State} (h : s.MemWf) (p : Nat) : State.MemWf (State.makeRoom s p) := by
  unfold State.makeRoom
  (repeat' split)
  all_goals simp (maxDischargeDepth := 20) [*]

@[simp] theorem State.memWf_retire {s : State} (h : s.MemWf) (t : Task) (word : Nat) (status : Option Nat) : State.MemWf (State.retire s t word status) := by
  unfold State.retire
  dsimp only
  have hd : ∀ u : State, u.MemWf →
      State.MemWf { u.dropEntry t.part t.seq with
        tasks := Sparse.erase (u.dropEntry t.part t.seq).tasks t.seq
        binds := (u.dropEntry t.part t.seq).binds.filter fun (b : Bind) => b.task != t.seq } := fun u hu =>
    have hv := State.memWf_dropEntry hu t.part t.seq
    ⟨hv.hbm, hv.host, hv.tier, hv.ws⟩
  cases status with
  | none => exact hd _ (State.memWf_drainReplicas (State.memWf_completionWord h ..))
  | some n => exact hd _ (State.memWf_complete (State.memWf_drainReplicas (State.memWf_completionWord h ..)) ..)

@[simp] theorem State.memWf_refuseRagged {s : State} (h : s.MemWf) (t : Task) : State.MemWf (State.refuseRagged s t) := by
  simp (maxDischargeDepth := 20) [State.refuseRagged, h]

@[simp] theorem State.memWf_distributed {s : State} (h : s.MemWf) (t : Task) (e : Nat) (counts : List Nat) (rs : List (Nat × List Byte)) : State.MemWf (State.distributed s t e counts rs) := by
  simp (maxDischargeDepth := 20) [State.distributed, h]

@[simp] theorem State.memWf_distStuck {s : State} (h : s.MemWf) (t : Task) (r : Rd) : State.MemWf (State.distStuck s t r) := by
  unfold State.distStuck
  (repeat' split)
  all_goals simp (maxDischargeDepth := 20) [*]

@[simp] theorem State.memWf_moveCore {s : State} (h : s.MemWf) (task a b : Nat) : State.MemWf (State.moveCore s task a b) := by
  simp (maxDischargeDepth := 20) [State.moveCore, h]

@[simp] theorem State.memWf_allStarted {s : State} (h : s.MemWf) (q : Nat) : State.MemWf (State.allStarted s q) := by
  unfold State.allStarted
  (repeat' split)
  all_goals simp (maxDischargeDepth := 20) [*]

@[simp] theorem State.memWf_askAgain {s : State} (h : s.MemWf) (k : Nat) : State.MemWf (State.askAgain s k) := by
  simp +contextual (maxDischargeDepth := 20) [State.askAgain, State.memWf_foldl, h]

@[simp] theorem State.memWf_applyMsgs {s : State} (h : s.MemWf) (k : Nat) (ms : List HeldMsg) : State.MemWf (State.applyMsgs s k ms) := by
  simp +contextual (maxDischargeDepth := 20) [State.applyMsgs, State.memWf_foldl, h]

@[simp] theorem State.memWf_leaveGang {s : State} (h : s.MemWf) (k : Nat) : State.MemWf (State.leaveGang s k) := by
  unfold State.leaveGang
  (repeat' split)
  all_goals simp (maxDischargeDepth := 20) [*]

@[simp] theorem State.memWf_drainFault {s : State} (h : s.MemWf) (k : Nat) (x : Ctx) (r : FaultRecord) : State.MemWf (State.drainFault s k x r) := by
  simp (maxDischargeDepth := 20) [State.drainFault, h]

@[simp] theorem State.memWf_discardForRestart {s : State} (h : s.MemWf) (t : Task) : State.MemWf (State.discardForRestart s t) := by
  have hf := (State.aborted_foldl ((cascade s.allTasks s.tasks.length [t.seq]).filter (· != t.seq)) _
    (fun u i => u.aborted_abortOne (cascade s.allTasks s.tasks.length [t.seq]) i) s).memWf h
  refine State.memWf_discard ?_ t
  exact ⟨hf.hbm, hf.host, hf.tier, hf.ws⟩

@[simp] theorem State.memWf_takeBack {s : State} (h : s.MemWf) (ks : List Nat) : State.MemWf (State.takeBack s ks) := by
  refine State.memWf_foldl h fun u k hu => ?_
  split <;> simp (maxDischargeDepth := 20) [hu]

@[simp] theorem State.memWf_restart {s : State} (h : s.MemWf) (t : Task) : State.MemWf (State.restart s t) := by
  unfold State.restart
  split
  · simp +contextual (maxDischargeDepth := 20) [State.memWf_foldl, h]
  · exact h

@[simp] theorem State.memWf_enterFront {s : State} (h : s.MemWf) (p : Nat) : State.MemWf (State.enterFront s p) := by
  unfold State.enterFront
  (repeat' split)
  all_goals simp (maxDischargeDepth := 20) [*]

@[simp] theorem State.memWf_commitTask {s : State} (h : s.MemWf) (t : Task) : State.MemWf (State.commitTask s t) := by
  simp +contextual (maxDischargeDepth := 20) [State.commitTask, State.memWf_foldl, h]

@[simp] theorem State.memWf_portWrite {s : State} (h : s.MemWf) (p sel : Nat) (v : Word) : State.MemWf (State.portWrite s p sel v) := by
  simp (maxDischargeDepth := 20) [State.portWrite, h]

@[simp] theorem State.memWf_dropLeave {s : State} (h : s.MemWf) (k : Nat) : State.MemWf (State.dropLeave s k) := by
  simp (maxDischargeDepth := 20) [State.dropLeave, h]

@[simp] theorem State.memWf_saveCore {s : State} (h : s.MemWf) (q base k : Nat) : State.MemWf (State.saveCore s q base k) := by
  simp (maxDischargeDepth := 20) [State.saveCore, h]

@[simp] theorem State.memWf_preempted {s : State} (h : s.MemWf) (q : Nat) : State.MemWf (State.preempted s q) := by
  unfold State.preempted
  (repeat' split)
  all_goals simp (maxDischargeDepth := 20) [*]

@[simp] theorem State.memWf_applySlot {s : State} (h : s.MemWf) (n : SlotNew) : State.MemWf (State.applySlot s n) := by
  simp (maxDischargeDepth := 20) [State.applySlot, h]

@[simp] theorem State.memWf_refreshEnd {s : State} (h : s.MemWf) (bank : Nat) : State.MemWf (State.refreshEnd s bank) := by
  unfold State.refreshEnd
  (repeat' split)
  all_goals simp (maxDischargeDepth := 20) [*]

@[simp] theorem State.memWf_stopWork {s : State} (h : s.MemWf)  : State.MemWf (State.stopWork s) := by
  simp (maxDischargeDepth := 20) [State.stopWork, h]

@[simp] theorem State.memWf_beginStart {s : State} (h : s.MemWf) (warm : Bool) : State.MemWf (State.beginStart s warm) := by
  simp (maxDischargeDepth := 20) [State.beginStart, h]

@[simp] theorem State.memWf_mend {s : State} (h : s.MemWf) (space : Nat) : State.MemWf (State.mend s space) := by
  simp (maxDischargeDepth := 20) [State.mend, h]

@[simp] theorem State.memWf_resetAll {s : State} (h : s.MemWf)  : State.MemWf (State.resetAll s) := by
  simp (maxDischargeDepth := 20) [State.resetAll, h]

@[simp] theorem State.memWf_stageEffect {s : State} (h : s.MemWf) (n : Nat) : State.MemWf (State.stageEffect s n) := by
  unfold State.stageEffect
  (repeat' split)
  all_goals simp (maxDischargeDepth := 20) [*]

@[simp] theorem State.memWf_stageFails {s : State} (h : s.MemWf) (code : Nat) : State.MemWf (State.stageFails s code) := by
  simp (maxDischargeDepth := 20) [State.stageFails, h]

@[simp] theorem State.memWf_bootStage {s : State} (h : s.MemWf) (code : Nat) : State.MemWf (State.bootStage s code) := by
  simp (maxDischargeDepth := 20) [State.bootStage, h]

@[simp] theorem State.memWf_askStart {s : State} (h : s.MemWf) (warm : Bool) : State.MemWf (State.askStart s warm) := by
  simp (maxDischargeDepth := 20) [State.askStart, h]

@[simp] theorem State.memWf_restQueue {s : State} (h : s.MemWf) (q : Nat) : State.MemWf (State.restQueue s q) := by
  simp (maxDischargeDepth := 20) [State.restQueue, h]

@[simp] theorem State.memWf_writeCtl {s : State} (h : s.MemWf) (q : Nat) (v : Word) : State.MemWf (State.writeCtl s q v) := by
  simp (maxDischargeDepth := 20) [State.writeCtl, h]

@[simp] theorem State.memWf_writeKtail {s : State} (h : s.MemWf) (q : Nat) (tail : BitVec 32) : State.MemWf (State.writeKtail s q tail) := by
  simp (maxDischargeDepth := 20) [State.writeKtail, h]

@[simp] theorem State.memWf_kickFails {s : State} (h : s.MemWf) (q : Nat) : State.MemWf (State.kickFails s q) := by
  simp (maxDischargeDepth := 20) [State.kickFails, h]

@[simp] theorem State.memWf_consumed {s : State} (h : s.MemWf) (q : Nat) : State.MemWf (State.consumed s q) := by
  simp (maxDischargeDepth := 20) [State.consumed, h]

@[simp] theorem State.memWf_refuseEntry {s : State} (h : s.MemWf) (q : Nat) (tag : Word) (irq : Bool) (status : Nat) : State.MemWf (State.refuseEntry s q tag irq status) := by
  simp (maxDischargeDepth := 20) [State.refuseEntry, h]

@[simp] theorem State.memWf_launch {s : State} (h : s.MemWf) (q : Nat) (e : List Byte) (h : Hdr) : State.MemWf (State.launch s q e h) := by
  have hs := ‹s.MemWf›
  unfold State.launch
  dsimp only
  repeat' split
  all_goals first | exact State.memWf_refuseEntry hs .. | skip
  · next heq => exact State.memWf_consumed (Made.memWf_done (State.memWf_create hs ..) heq) ..
  · next heq => exact State.memWf_consumed (Made.memWf_wait (State.memWf_create hs ..) heq) ..

@[simp] theorem State.memWf_consume {s : State} (h : s.MemWf) (q : Nat) : State.MemWf (State.consume s q) := by
  unfold State.consume
  dsimp only
  (repeat' split) <;> simp +contextual (maxDischargeDepth := 40) [State.memWf_foldl, *]

@[simp] theorem State.memWf_agentWrite {s : State} (h : s.MemWf) (pa : Nat) (bs : List Byte) : State.MemWf (State.agentWrite s pa bs) := by
  simp (maxDischargeDepth := 20) [State.agentWrite, h]

@[simp] theorem State.memWf_portWsw {s : State} (h : s.MemWf) (p off : Nat) (data : List Byte) : State.MemWf (State.portWsw s p off data) := by
  simp (maxDischargeDepth := 20) [State.portWsw, h]

@[simp] theorem State.memWf_portStore {s : State} (h : s.MemWf) (p va : Nat) (bs : List Byte) : State.MemWf (State.portStore s p va bs) := by
  unfold State.portStore
  (repeat' split)
  all_goals simp (maxDischargeDepth := 20) [*]

@[simp] theorem State.memWf_portPtbw {s : State} (h : s.MemWf) (p k : Nat) (data : List Byte) : State.MemWf (State.portPtbw s p k data) := by
  simp (maxDischargeDepth := 20) [State.portPtbw, h]

@[simp] theorem State.memWf_setHold {s : State} (h : s.MemWf) (p page : Nat) (b : Bool) : State.MemWf (State.setHold s p page b) := by
  unfold State.setHold
  (repeat' split)
  all_goals simp (maxDischargeDepth := 20) [*]

@[simp] theorem State.memWf_beginHold {s : State} (h : s.MemWf) (p page : Nat) (device : Bool) : State.MemWf (State.beginHold s p page device) := by
  simp (maxDischargeDepth := 20) [State.beginHold, h]

@[simp] theorem State.memWf_dropMig {s : State} (h : s.MemWf) (p page : Nat) : State.MemWf (State.dropMig s p page) := by
  simp (maxDischargeDepth := 20) [State.dropMig, h]

@[simp] theorem State.memWf_conflict {s : State} (h : s.MemWf) (p page : Nat) : State.MemWf (State.conflict s p page) := by
  unfold State.conflict
  (repeat' split)
  all_goals simp (maxDischargeDepth := 20) [*]

@[simp] theorem State.memWf_submit {s : State} (h : s.MemWf)  : State.MemWf (State.submit s) := by
  unfold State.submit
  dsimp only
  (repeat' split) <;> simp +contextual (maxDischargeDepth := 40) [State.memWf_foldl, *]

@[simp] theorem State.memWf_writeMbox {s : State} (h : s.MemWf) (v : Word) : State.MemWf (State.writeMbox s v) := by
  simp (maxDischargeDepth := 20) [State.writeMbox, h]

@[simp] theorem State.memWf_migrationAnswer {s : State} (h : s.MemWf) (res : Nat) : State.MemWf (State.migrationAnswer s res) := by
  unfold State.migrationAnswer
  dsimp only
  (repeat' split) <;> simp +contextual (maxDischargeDepth := 40) [State.memWf_foldl, *]

@[simp] theorem State.memWf_deviceMigration {s : State} (h : s.MemWf) (p va : Nat) (done : Bool) : State.MemWf (State.deviceMigration s p va done) := by
  simp (maxDischargeDepth := 20) [State.deviceMigration, h]

@[simp] theorem State.memWf_bar0Write {s : State} (h : s.MemWf) (off : Nat) (v : Word) : State.MemWf (State.bar0Write s off v) := by
  unfold State.bar0Write
  (repeat' split)
  all_goals simp (maxDischargeDepth := 20) [*]

@[simp] theorem State.memWf_portPartw {s : State} (h : s.MemWf) (p sel : Nat) (v : Word) : State.MemWf (State.portPartw s p sel v) := by
  simp (maxDischargeDepth := 20) [State.portPartw, h]

@[simp] theorem State.memWf_portHalt {s : State} (h : s.MemWf) (k : Nat) (halt : Bool) : State.MemWf (State.portHalt s k halt) := by
  simp (maxDischargeDepth := 20) [State.portHalt, h]

@[simp] theorem State.memWf_portQuar {s : State} (h : s.MemWf) (k w : Nat) (v : Word) : State.MemWf (State.portQuar s k w v) := by
  unfold State.portQuar
  (repeat' split)
  all_goals simp (maxDischargeDepth := 20) [*]

@[simp] theorem State.memWf_ownerWrite {s : State} (h : s.MemWf) (tier : Bool) (addr : Nat) (data : List Byte) : State.MemWf (State.ownerWrite s tier addr data) := by
  simp (maxDischargeDepth := 20) [State.ownerWrite, h]

@[simp] theorem State.memWf_preemptOrder {s : State} (h : s.MemWf) (q : Nat) : State.MemWf (State.preemptOrder s q) := by
  unfold State.preemptOrder
  (repeat' split)
  all_goals simp (maxDischargeDepth := 20) [*]

@[simp] theorem State.memWf_portPartwStep {s : State} (h : s.MemWf) : State.MemWf (State.portPartwStep s) := by
  unfold State.portPartwStep
  split
  · exact h
  · have hp : ∀ l, State.MemWf { s with portParts := l } := fun _ => ⟨h.hbm, h.host, h.tier, h.ws⟩
    dsimp only
    split <;> simp (maxDischargeDepth := 20) [hp]

@[simp] theorem State.memWf_inner {s : State} (h : s.MemWf) (a : Inner) : State.MemWf (State.inner s a) := by
  unfold State.inner
  (repeat' split)
  all_goals simp (maxDischargeDepth := 20) [*]

@[simp] theorem State.memWf_watch {s : State} (h : s.MemWf)  : State.MemWf (State.watch s) := by
  simp (maxDischargeDepth := 20) [State.watch, h]

@[simp] theorem State.memWf_tick {s : State} (h : s.MemWf)  : State.MemWf (State.tick s) := by
  simp (maxDischargeDepth := 20) [State.tick, h]

@[simp] theorem State.memWf_withFetchWord {s : State} (h : s.MemWf) (nbits w : Nat) : State.MemWf (State.withFetchWord s nbits w) := by
  simp (maxDischargeDepth := 20) [State.withFetchWord, h]

end Sys2Proof.Machine
end

