-- ==== Sys2Proof/Laws/MemExec.lean ====
section
/-! SUPPORT. The four memories keep their canonical form: the meaning of every instruction and event. -/

namespace Sys2Proof.Machine

open Sys2Proof

@[simp] theorem outcomeWf_next (t : State) : OutcomeWf (.next t) ↔ t.MemWf := Iff.rfl

@[simp] theorem outcomeWf_fault (f : Fault) : OutcomeWf (.fault f) := trivial

@[simp] theorem outcomeWf_refused (r : Refusal) : OutcomeWf (.refused r) := trivial

theorem State.memWf_commit {s : State} (h : s.MemWf) (c : Ctl) {j : Issue} (n : Nat)
    (he : ∀ wid u, u.MemWf → (j.effect wid u).MemWf) : (s.commit c j n).MemWf := by
  unfold State.commit
  have := he s.cur.nextId _ (State.memWf_pay h c j n)
  exact State.memWf_updMe (State.memWf_ite (fun _ => this) fun _ => State.memWf_updMe this _) _

theorem State.memWf_oldestCause {s : State} (h : s.MemWf) {pre : Option (FaultRecord × State)}
    (hp : ∀ r, pre = some r → r.2.MemWf) {u : State} (hu : s.oldestCause pre = some u) : u.MemWf := by
  unfold State.oldestCause at hu
  dsimp only at hu
  split at hu <;> cases hu
  · split
    · exact State.memWf_takeCause (hp _ rfl) ..
    · exact State.memWf_takeAttached h ..
  · exact State.memWf_takeAttached h ..
  · exact State.memWf_takeCause (hp _ rfl) ..

/-- A word keeps the memories' form if its effect does. -/
theorem State.memWf_issue {s : State} {i : Instr} {j : Issue} (h : s.MemWf)
    (he : ∀ wid u, u.MemWf → (j.effect wid u).MemWf) (hp : ∀ u r, u.MemWf → j.pre u = some r → r.2.MemWf) :
    OutcomeWf (s.issue i j) := by
  have hc := State.memWf_atCycle h (s.me.nextCycle (ctlOf i) j.unit)
  unfold State.issue
  dsimp only
  repeat' split
  all_goals first
  | exact h
  | exact State.memWf_trap h ..
  | exact State.memWf_stall h ..
  | exact State.memWf_stopHere h
  | exact State.memWf_forceStop h ..
  | exact State.memWf_commit hc _ _ he
  | skip
  rename_i heq
  refine State.memWf_oldestCause hc (fun r hr => ?_) heq
  split at hr
  · exact hp _ _ hc hr
  · cases hr

/-- A tile command (R206 to R208). -/
theorem memWf_tile {s : State} (h : s.MemWf) {i : Instr} {op : MatOp} {t : Tile} : OutcomeWf (s.issue i (tgoIssue op t)) := by
  refine State.memWf_issue h (fun wid u hu => ?_) (fun u r hu hr => ?_)
  · dsimp only [tgoIssue]
    exact State.memWf_updCur hu _
  simp only [tgoIssue] at hr
  split at hr
  · exact State.memWf_tileOvf hu _ r hr
  · cases hr

theorem memWf_execLdb {s : State} (h : s.MemWf) (c : Ctl) (xd xb : Reg) (imm : BitVec 24) :
    OutcomeWf (execLdb c xd xb imm s) := by
  refine State.memWf_issue h ?_ ?_ <;> simp +contextual (maxDischargeDepth := 20) [loadIssue]

theorem memWf_execLdh {s : State} (h : s.MemWf) (c : Ctl) (xd xb : Reg) (imm : BitVec 24) :
    OutcomeWf (execLdh c xd xb imm s) := by
  refine State.memWf_issue h ?_ ?_ <;> simp +contextual (maxDischargeDepth := 20) [loadIssue]

theorem memWf_execLdw {s : State} (h : s.MemWf) (c : Ctl) (xd xb : Reg) (imm : BitVec 24) :
    OutcomeWf (execLdw c xd xb imm s) := by
  refine State.memWf_issue h ?_ ?_ <;> simp +contextual (maxDischargeDepth := 20) [loadIssue]

theorem memWf_execLdd {s : State} (h : s.MemWf) (c : Ctl) (xd xb : Reg) (imm : BitVec 24) :
    OutcomeWf (execLdd c xd xb imm s) := by
  refine State.memWf_issue h ?_ ?_ <;> simp +contextual (maxDischargeDepth := 20) [loadIssue]

theorem memWf_execStb {s : State} (h : s.MemWf) (c : Ctl) (xs xb : Reg) (imm : BitVec 24) :
    OutcomeWf (execStb c xs xb imm s) := by
  refine State.memWf_issue h ?_ ?_ <;> simp +contextual (maxDischargeDepth := 20) [storeIssue]

theorem memWf_execSth {s : State} (h : s.MemWf) (c : Ctl) (xs xb : Reg) (imm : BitVec 24) :
    OutcomeWf (execSth c xs xb imm s) := by
  refine State.memWf_issue h ?_ ?_ <;> simp +contextual (maxDischargeDepth := 20) [storeIssue]

theorem memWf_execStw {s : State} (h : s.MemWf) (c : Ctl) (xs xb : Reg) (imm : BitVec 24) :
    OutcomeWf (execStw c xs xb imm s) := by
  refine State.memWf_issue h ?_ ?_ <;> simp +contextual (maxDischargeDepth := 20) [storeIssue]

theorem memWf_execStd {s : State} (h : s.MemWf) (c : Ctl) (xs xb : Reg) (imm : BitVec 24) :
    OutcomeWf (execStd c xs xb imm s) := by
  refine State.memWf_issue h ?_ ?_ <;> simp +contextual (maxDischargeDepth := 20) [storeIssue]

theorem memWf_execVld {s : State} (h : s.MemWf) (c : Ctl) (vq : QName) (xb : Reg) (imm : BitVec 24) :
    OutcomeWf (execVld c vq xb imm s) := by
  refine State.memWf_issue h ?_ ?_ <;> simp +contextual (maxDischargeDepth := 20)

theorem memWf_execMark {s : State} (h : s.MemWf) (c : Ctl) (id : BitVec 8) :
    OutcomeWf (execMark c id s) := by
  refine State.memWf_issue h ?_ ?_ <;> simp +contextual (maxDischargeDepth := 20)

theorem memWf_execFence {s : State} (h : s.MemWf) (c : Ctl) (e : Bool) (scope : BitVec 2) :
    OutcomeWf (execFence c e scope s) := by
  refine State.memWf_issue h ?_ ?_ <;> simp +contextual (maxDischargeDepth := 20)

theorem memWf_execAmo {s : State} (h : s.MemWf) (c : Ctl) (op : AmoOp) (dbl : Bool) (xd xa xb : Reg) (imm : BitVec 16) :
    OutcomeWf (execAmo c op dbl xd xa xb imm s) := by
  refine State.memWf_issue h ?_ ?_ <;> simp +contextual (maxDischargeDepth := 20)

theorem memWf_execRclaimCfg {s : State} (h : s.MemWf) (c : Ctl) (ring : BitVec 4) (xa : Reg) :
    OutcomeWf (execRclaimCfg c ring xa s) := by
  refine State.memWf_issue h ?_ ?_ <;> simp +contextual (maxDischargeDepth := 20)

theorem memWf_execRclaim {s : State} (h : s.MemWf) (c : Ctl) (xd : Reg) (ring : BitVec 4) :
    OutcomeWf (execRclaim c xd ring s) := by
  refine State.memWf_issue h ?_ ?_ <;> simp +contextual (maxDischargeDepth := 20)

theorem memWf_execRfill {s : State} (h : s.MemWf) (c : Ctl) (ring : BitVec 4) :
    OutcomeWf (execRfill c ring s) := by
  refine State.memWf_issue h ?_ ?_ <;> simp +contextual (maxDischargeDepth := 20)

theorem memWf_execRwaitf {s : State} (h : s.MemWf) (c : Ctl) (xd : Reg) (ring : BitVec 4) (n : BitVec 16) :
    OutcomeWf (execRwaitf c xd ring n s) := by
  refine State.memWf_issue h ?_ ?_ <;> simp +contextual (maxDischargeDepth := 20)

theorem memWf_execRwaite {s : State} (h : s.MemWf) (c : Ctl) (xd : Reg) (ring : BitVec 4) (n : BitVec 16) :
    OutcomeWf (execRwaite c xd ring n s) := by
  refine State.memWf_issue h ?_ ?_ <;> simp +contextual (maxDischargeDepth := 20)

theorem memWf_execRtake {s : State} (h : s.MemWf) (c : Ctl) (xd : Reg) (ring : BitVec 4) :
    OutcomeWf (execRtake c xd ring s) := by
  refine State.memWf_issue h ?_ ?_ <;> simp +contextual (maxDischargeDepth := 20)

theorem memWf_execRfree {s : State} (h : s.MemWf) (c : Ctl) (ring : BitVec 4) :
    OutcomeWf (execRfree c ring s) := by
  refine State.memWf_issue h ?_ ?_ <;> simp +contextual (maxDischargeDepth := 20)

theorem memWf_execMrecvCfg {s : State} (h : s.MemWf) (c : Ctl) (mq : BitVec 2) (xa : Reg) :
    OutcomeWf (execMrecvCfg c mq xa s) := by
  refine State.memWf_issue h ?_ ?_ <;> simp +contextual (maxDischargeDepth := 20)

theorem memWf_execMrecv {s : State} (h : s.MemWf) (c : Ctl) (xd : Reg) (mq : BitVec 2) :
    OutcomeWf (execMrecv c xd mq s) := by
  refine State.memWf_issue h ?_ ?_ <;> simp +contextual (maxDischargeDepth := 20)

theorem memWf_execMrecvNb {s : State} (h : s.MemWf) (c : Ctl) (xd : Reg) (mq : BitVec 2) :
    OutcomeWf (execMrecvNb c xd mq s) := by
  refine State.memWf_issue h ?_ ?_ <;> simp +contextual (maxDischargeDepth := 20)

theorem memWf_execMqcred {s : State} (h : s.MemWf) (c : Ctl) (mq : BitVec 2) (n : BitVec 16) :
    OutcomeWf (execMqcred c mq n s) := by
  refine State.memWf_issue h ?_ ?_ <;> simp +contextual (maxDischargeDepth := 20)

theorem memWf_execBaddr {s : State} (h : s.MemWf) (c : Ctl) (xd xa xb : Reg) (imm : BitVec 16) :
    OutcomeWf (execBaddr c xd xa xb imm s) := by
  refine State.memWf_issue h ?_ ?_ <;> simp +contextual (maxDischargeDepth := 20)

theorem memWf_execBshare {s : State} (h : s.MemWf) (c : Ctl) (xa : Reg) :
    OutcomeWf (execBshare c xa s) := by
  refine State.memWf_issue h ?_ ?_ <;> simp +contextual (maxDischargeDepth := 20)

theorem memWf_execRlq {s : State} (h : s.MemWf) (c : Ctl) (xa : Reg) :
    OutcomeWf (execRlq c xa s) := by
  refine State.memWf_issue h ?_ ?_ <;> simp +contextual (maxDischargeDepth := 20)

theorem memWf_execLoadComplete {s : State} (h : s.MemWf) (k : Nat) (ctx : Ctx) :
    OutcomeWf (execLoadComplete k ctx s) := by
  unfold execLoadComplete
  (repeat' split) <;> simp +contextual (maxDischargeDepth := 20) [*]

theorem memWf_execPostedStorePerformed {s : State} (h : s.MemWf) (k : Nat) (ctx : Ctx) (idx die : Nat) :
    OutcomeWf (execPostedStorePerformed k ctx idx die s) := by
  unfold execPostedStorePerformed
  (repeat' split) <;> simp +contextual (maxDischargeDepth := 20) [*]

theorem memWf_execFqpush {s : State} (h : s.MemWf) (c : Ctl) (xa : Reg) :
    OutcomeWf (execFqpush c xa s) := by
  refine State.memWf_issue h ?_ ?_ <;> simp +contextual (maxDischargeDepth := 20) [fqIssue]

theorem memWf_execFqmode {s : State} (h : s.MemWf) (c : Ctl) (rm : RM) :
    OutcomeWf (execFqmode c rm s) := by
  refine State.memWf_issue h ?_ ?_ <;> simp +contextual (maxDischargeDepth := 20) [fqIssue]

theorem memWf_execScw {s : State} (h : s.MemWf) (c : Ctl) (sc : BitVec 4) (xa : Reg) (imm : BitVec 16) :
    OutcomeWf (execScw c sc xa imm s) := by
  refine State.memWf_issue h ?_ ?_ <;> simp +contextual (maxDischargeDepth := 20)

theorem memWf_execCtwr {s : State} (h : s.MemWf) (c : Ctl) (bank : Bool) (entry : BitVec 4) (xa : Reg) (imm : BitVec 16) :
    OutcomeWf (execCtwr c bank entry xa imm s) := by
  refine State.memWf_issue h ?_ ?_ <;> simp +contextual (maxDischargeDepth := 20)

theorem memWf_execNestw {s : State} (h : s.MemWf) (c : Ctl) (nest : BitVec 3) (xa : Reg) (imm : BitVec 16) :
    OutcomeWf (execNestw c nest xa imm s) := by
  refine State.memWf_issue h ?_ ?_ <;> simp +contextual (maxDischargeDepth := 20)

theorem memWf_execTgo {s : State} (h : s.MemWf) (c : Ctl) (t : Tile) :
    OutcomeWf (execTgo c t s) := by
  exact memWf_tile h

theorem memWf_execTgoG {s : State} (h : s.MemWf) (c : Ctl) (t : Tile) :
    OutcomeWf (execTgoG c t s) := by
  exact memWf_tile h

theorem memWf_execTgoSp {s : State} (h : s.MemWf) (c : Ctl) (t : Tile) :
    OutcomeWf (execTgoSp c t s) := by
  exact memWf_tile h

theorem memWf_execAccz {s : State} (h : s.MemWf) (c : Ctl) (acc : BitVec 4) :
    OutcomeWf (execAccz c acc s) := by
  refine State.memWf_issue h ?_ ?_ <;> simp +contextual (maxDischargeDepth := 20)

theorem memWf_execAccmov {s : State} (h : s.MemWf) (c : Ctl) (accD : BitVec 4) (accS : BitVec 4) (add : Bool) :
    OutcomeWf (execAccmov c accD accS add s) := by
  refine State.memWf_issue h (fun wid u hu => ?_) (fun u r hu hr => ?_)
  · dsimp only
    exact State.memWf_updCur hu _
  simp only [Option.or_eq_some_iff] at hr
  rcases hr with hr | ⟨_, hr⟩
  · exact State.memWf_tileOvf hu _ r hr
  · split at hr
    · exact State.memWf_tileOvf hu _ r hr
    · cases hr

theorem memWf_execAccst {s : State} (h : s.MemWf) (c : Ctl) (w : Win) :
    OutcomeWf (execAccst c w s) := by
  refine State.memWf_issue h (fun wid u hu => ?_) (fun u r hu hr => State.memWf_tileOvf hu _ r hr)
  simp +contextual (maxDischargeDepth := 20) [hu]

theorem memWf_execAccld {s : State} (h : s.MemWf) (c : Ctl) (w : Win) :
    OutcomeWf (execAccld c w s) := by
  refine State.memWf_issue h ?_ ?_ <;> simp +contextual (maxDischargeDepth := 20)

theorem memWf_execAccrd {s : State} (h : s.MemWf) (c : Ctl) (vd : QName) (acc : BitVec 4) (ty : AccTy) (xa : Reg) (row : BitVec 7) :
    OutcomeWf (execAccrd c vd acc ty xa row s) := by
  refine State.memWf_issue h (fun wid u hu => ?_) (fun u r hu hr => State.memWf_tileOvf hu _ r hr)
  simp +contextual (maxDischargeDepth := 20) [hu]

theorem memWf_execTileCmdHead {s : State} (h : s.MemWf) (k : Nat) :
    OutcomeWf (execTileCmdHead k s) := by
  unfold execTileCmdHead
  (repeat' split) <;> simp +contextual (maxDischargeDepth := 20) [*]

theorem memWf_execTileCmdAccept {s : State} (h : s.MemWf) (k : Nat) :
    OutcomeWf (execTileCmdAccept k s) := by
  unfold execTileCmdAccept
  (repeat' split) <;> simp +contextual (maxDischargeDepth := 20) [*]

theorem memWf_execTileCmdComplete {s : State} (h : s.MemWf) (k id : Nat) :
    OutcomeWf (execTileCmdComplete k id s) := by
  unfold execTileCmdComplete
  (repeat' split) <;> simp +contextual (maxDischargeDepth := 20) [*]

theorem memWf_execSpld {s : State} (h : s.MemWf) (c : Ctl) (e : EArgs) :
    OutcomeWf (execSpld c e s) := by
  refine State.memWf_issue h ?_ ?_ <;> simp +contextual (maxDischargeDepth := 20) [transferIssue]

theorem memWf_execSpst {s : State} (h : s.MemWf) (c : Ctl) (e : EArgs) :
    OutcomeWf (execSpst c e s) := by
  refine State.memWf_issue h ?_ ?_ <;> simp +contextual (maxDischargeDepth := 20) [transferIssue]

theorem memWf_execGath {s : State} (h : s.MemWf) (c : Ctl) (e : EArgs) :
    OutcomeWf (execGath c e s) := by
  refine State.memWf_issue h ?_ ?_ <;> simp +contextual (maxDischargeDepth := 20) [transferIssue]

theorem memWf_execScat {s : State} (h : s.MemWf) (c : Ctl) (e : EArgs) :
    OutcomeWf (execScat c e s) := by
  refine State.memWf_issue h ?_ ?_ <;> simp +contextual (maxDischargeDepth := 20) [transferIssue]

theorem memWf_execLdt {s : State} (h : s.MemWf) (c : Ctl) (e : EArgs) :
    OutcomeWf (execLdt c e s) := by
  refine State.memWf_issue h ?_ ?_ <;> simp +contextual (maxDischargeDepth := 20) [transferIssue]

theorem memWf_execFerry {s : State} (h : s.MemWf) (c : Ctl) (e : EArgs) :
    OutcomeWf (execFerry c e s) := by
  refine State.memWf_issue h ?_ ?_ <;> simp +contextual (maxDischargeDepth := 20) [ferryIssue]

theorem memWf_execFerryTier {s : State} (h : s.MemWf) (c : Ctl) (e : EArgs) :
    OutcomeWf (execFerryTier c e s) := by
  refine State.memWf_issue h ?_ ?_ <;> simp +contextual (maxDischargeDepth := 20) [ferryIssue]

theorem memWf_execFerryQ {s : State} (h : s.MemWf) (c : Ctl) (e : EArgs) :
    OutcomeWf (execFerryQ c e s) := by
  refine State.memWf_issue h ?_ ?_ <;> simp +contextual (maxDischargeDepth := 20) [ferryIssue]

theorem memWf_execPageSupplyAnswer {s : State} (h : s.MemWf) (k : Nat) (_ctx : Ctx) (id : Nat) (page : Option Nat) :
    OutcomeWf (execPageSupplyAnswer k _ctx id page s) := by
  unfold execPageSupplyAnswer
  dsimp only
  (repeat' split) <;> simp +contextual (maxDischargeDepth := 20) [*]

theorem memWf_execEngineCmdComplete {s : State} (h : s.MemWf) (k : Nat) (_ctx : Ctx) (id : Nat) :
    OutcomeWf (execEngineCmdComplete k _ctx id s) := by
  unfold execEngineCmdComplete
  (repeat' split) <;> simp +contextual (maxDischargeDepth := 20) [*]

theorem memWf_execRed {s : State} (h : s.MemWf) (c : Ctl) (op : RedOp) (e : EArgs) :
    OutcomeWf (execRed c op e s) := by
  refine State.memWf_issue h ?_ ?_ <;> simp +contextual (maxDischargeDepth := 20) [remoteIssue]

theorem memWf_execMsend {s : State} (h : s.MemWf) (c : Ctl) (e : EArgs) :
    OutcomeWf (execMsend c e s) := by
  refine State.memWf_issue h ?_ ?_ <;> simp +contextual (maxDischargeDepth := 20) [remoteIssue]

theorem memWf_execStn {s : State} (h : s.MemWf) (c : Ctl) (e : EArgs) :
    OutcomeWf (execStn c e s) := by
  refine State.memWf_issue h ?_ ?_ <;> simp +contextual (maxDischargeDepth := 20) [stnIssue]

theorem memWf_execStnS {s : State} (h : s.MemWf) (c : Ctl) (e : EArgs) :
    OutcomeWf (execStnS c e s) := by
  refine State.memWf_issue h ?_ ?_ <;> simp +contextual (maxDischargeDepth := 20) [stnIssue]

theorem memWf_execRedApply {s : State} (h : s.MemWf) (k : Nat) (_ctx : Ctx) (id : Nat) :
    OutcomeWf (execRedApply k _ctx id s) := by
  unfold execRedApply
  (repeat' split) <;> simp +contextual (maxDischargeDepth := 20) [*]

theorem memWf_execMsendGrant {s : State} (h : s.MemWf) (k : Nat) (_ctx : Ctx) (id : Nat) :
    OutcomeWf (execMsendGrant k _ctx id s) := by
  unfold execMsendGrant
  (repeat' split) <;> simp +contextual (maxDischargeDepth := 20) [*]

theorem memWf_execStnNameReturn {s : State} (h : s.MemWf) (k : Nat) (_ctx : Ctx) (id : Nat) :
    OutcomeWf (execStnNameReturn k _ctx id s) := by
  unfold execStnNameReturn
  dsimp only
  (repeat' split) <;> simp +contextual (maxDischargeDepth := 20) [*]

theorem memWf_execTspawn {s : State} (h : s.MemWf) (c : Ctl) (e : EArgs) :
    OutcomeWf (execTspawn c e s) := by
  refine State.memWf_issue h ?_ ?_ <;> simp +contextual (maxDischargeDepth := 20)

theorem memWf_execTgraph {s : State} (h : s.MemWf) (c : Ctl) (e : EArgs) :
    OutcomeWf (execTgraph c e s) := by
  refine State.memWf_issue h ?_ ?_ <;> simp +contextual (maxDischargeDepth := 20)

theorem memWf_execTyieldFront {s : State} (h : s.MemWf) (c : Ctl) :
    OutcomeWf (execTyieldFront c s) := by
  refine State.memWf_issue h ?_ ?_ <;> simp +contextual (maxDischargeDepth := 20)

theorem memWf_execTyieldPast {s : State} (h : s.MemWf) (c : Ctl) (xa : Reg) :
    OutcomeWf (execTyieldPast c xa s) := by
  refine State.memWf_issue h ?_ ?_ <;> simp +contextual (maxDischargeDepth := 20)

/-- The effect of a COLL word. -/
theorem memWf_collIssue (form : Nat) (e : EArgs) :
    ∀ wid u, State.MemWf u → State.MemWf ((collIssue form e).effect wid u) := by
  intro wid u hu
  dsimp only [collIssue]
  split
  · exact State.memWf_collDouble (State.memWf_pushEng hu _) ..
  · exact State.memWf_pushEng hu _

theorem memWf_execCollAllred {s : State} (h : s.MemWf) (c : Ctl) (e : EArgs) :
    OutcomeWf (execCollAllred c e s) := by
  exact State.memWf_issue h (memWf_collIssue _ e) (by simp [collIssue])

theorem memWf_execCollRed {s : State} (h : s.MemWf) (c : Ctl) (e : EArgs) :
    OutcomeWf (execCollRed c e s) := by
  exact State.memWf_issue h (memWf_collIssue _ e) (by simp [collIssue])

theorem memWf_execCollBcast {s : State} (h : s.MemWf) (c : Ctl) (e : EArgs) :
    OutcomeWf (execCollBcast c e s) := by
  exact State.memWf_issue h (memWf_collIssue _ e) (by simp [collIssue])

theorem memWf_execCollBar {s : State} (h : s.MemWf) (c : Ctl) (e : EArgs) :
    OutcomeWf (execCollBar c e s) := by
  exact State.memWf_issue h (memWf_collIssue _ e) (by simp [collIssue])

theorem memWf_execCollContribution {s : State} (h : s.MemWf) (k : Nat) (_ctx : Ctx) (id : Nat) :
    OutcomeWf (execCollContribution k _ctx id s) := by
  unfold execCollContribution
  dsimp only
  (repeat' split) <;> simp +contextual (maxDischargeDepth := 20) [*]

theorem memWf_execCollDeadlineExpire {s : State} (h : s.MemWf) (part group cnum : Nat) :
    OutcomeWf (execCollDeadlineExpire part group cnum s) := by
  unfold execCollDeadlineExpire
  (repeat' split) <;> simp +contextual (maxDischargeDepth := 20) [*]

theorem memWf_execCollMemberTimeout {s : State} (h : s.MemWf) (k : Nat) (_ctx : Ctx) (id : Nat) :
    OutcomeWf (execCollMemberTimeout k _ctx id s) := by
  unfold execCollMemberTimeout
  (repeat' split) <;> simp +contextual (maxDischargeDepth := 20) [*]

theorem memWf_execLbind {s : State} (h : s.MemWf) (c : Ctl) (slot : BitVec 6) (xa : Reg) (shr : Bool) :
    OutcomeWf (execLbind c slot xa shr s) := by
  refine State.memWf_issue h (fun wid u hu => ?_) (by simp +contextual (maxDischargeDepth := 20))
  dsimp only
  (repeat' split) <;> simp +contextual (maxDischargeDepth := 20) [*]

theorem memWf_execLunbind {s : State} (h : s.MemWf) (c : Ctl) (slot : BitVec 6) :
    OutcomeWf (execLunbind c slot s) := by
  refine State.memWf_issue h ?_ ?_ <;> simp +contextual (maxDischargeDepth := 20)

theorem memWf_execLapp {s : State} (h : s.MemWf) (c : Ctl) (slot : BitVec 6) (qa qb : QName) (bf : Bool) :
    OutcomeWf (execLapp c slot qa qb bf s) := by
  refine State.memWf_issue h (fun wid u hu => ?_) (fun u r hu hr => State.memWf_srcOvf hu _ r hr)
  simp +contextual (maxDischargeDepth := 20) [ladIssue, hu]

theorem memWf_execLappb {s : State} (h : s.MemWf) (c : Ctl) (slot : BitVec 6) (qa qb : QName) (j : BitVec 4) (bf : Bool) :
    OutcomeWf (execLappb c slot qa qb j bf s) := by
  refine State.memWf_issue h (fun wid u hu => ?_) (fun u r hu hr => State.memWf_srcOvf hu [] r hr)
  simp +contextual (maxDischargeDepth := 20) [ladIssue, hu]

theorem memWf_execLreadOrd {s : State} (h : s.MemWf) (c : Ctl) (slot : BitVec 6) (qa qb qc : QName) (bf div : Bool) :
    OutcomeWf (execLreadOrd c slot qa qb qc bf div s) := by
  refine State.memWf_issue h (fun wid u hu => ?_) (fun u r hu hr => State.memWf_srcOvf hu _ r hr)
  simp +contextual (maxDischargeDepth := 20) [ladIssue, hu]

theorem memWf_execLreadExa {s : State} (h : s.MemWf) (c : Ctl) (slot : BitVec 6) (qa qb qc : QName) (bf div : Bool) :
    OutcomeWf (execLreadExa c slot qa qb qc bf div s) := by
  refine State.memWf_issue h (fun wid u hu => ?_) (fun u r hu hr => State.memWf_srcOvf hu _ r hr)
  simp +contextual (maxDischargeDepth := 20) [ladIssue, hu]

theorem memWf_execLreadRungs {s : State} (h : s.MemWf) (c : Ctl) (slot : BitVec 6) (qa qb qc : QName) (bf : Bool) :
    OutcomeWf (execLreadRungs c slot qa qb qc bf s) := by
  refine State.memWf_issue h (fun wid u hu => ?_) (fun u r hu hr => State.memWf_srcOvf hu _ r hr)
  simp +contextual (maxDischargeDepth := 20) [ladIssue, hu]

theorem memWf_execLfork {s : State} (h : s.MemWf) (c : Ctl) (slotD : BitVec 6) (slotS : BitVec 6) :
    OutcomeWf (execLfork c slotD slotS s) := by
  refine State.memWf_issue h (fun wid u hu => ?_) (fun u r hu hr => State.memWf_srcOvf hu [] r hr)
  simp +contextual (maxDischargeDepth := 20) [ladIssue, hu]

theorem memWf_execLtruncLow {s : State} (h : s.MemWf) (c : Ctl) (slot : BitVec 6) (xm : Reg) :
    OutcomeWf (execLtruncLow c slot xm s) := by
  refine State.memWf_issue h (fun wid u hu => ?_) (fun u r hu hr => State.memWf_srcOvf hu [] r hr)
  simp +contextual (maxDischargeDepth := 20) [ladIssue, hu]

theorem memWf_execLtruncCkpt {s : State} (h : s.MemWf) (c : Ctl) (slot : BitVec 6) (slotC : BitVec 6) :
    OutcomeWf (execLtruncCkpt c slot slotC s) := by
  refine State.memWf_issue h (fun wid u hu => ?_) (fun u r hu hr => State.memWf_srcOvf hu [] r hr)
  simp +contextual (maxDischargeDepth := 20) [ladIssue, hu]

theorem memWf_execLdrop {s : State} (h : s.MemWf) (c : Ctl) (slot : BitVec 6) :
    OutcomeWf (execLdrop c slot s) := by
  refine State.memWf_issue h (fun wid u hu => ?_) (fun u r hu hr => State.memWf_srcOvf hu [] r hr)
  simp +contextual (maxDischargeDepth := 20) [ladIssue, hu]

theorem memWf_execLstat {s : State} (h : s.MemWf) (c : Ctl) (slot : BitVec 6) (qc : QName) :
    OutcomeWf (execLstat c slot qc s) := by
  refine State.memWf_issue h (fun wid u hu => ?_) (fun u r hu hr => State.memWf_srcOvf hu [] r hr)
  simp +contextual (maxDischargeDepth := 20) [ladIssue, hu]

theorem memWf_execLadderCmdComplete {s : State} (h : s.MemWf) (k id : Nat) :
    OutcomeWf (execLadderCmdComplete k id s) := by
  unfold execLadderCmdComplete
  (repeat' split) <;> simp +contextual (maxDischargeDepth := 20) [*]

theorem memWf_execTapchkBind {s : State} (h : s.MemWf) (c : Ctl) (xa : Reg) :
    OutcomeWf (execTapchkBind c xa s) := by
  refine State.memWf_issue h (fun wid u hu => ?_) (by simp +contextual (maxDischargeDepth := 20))
  dsimp only
  (repeat' split) <;> simp +contextual (maxDischargeDepth := 20) [*]

theorem memWf_execTapchkMask {s : State} (h : s.MemWf) (c : Ctl) (xd : Reg) (w : BitVec 2) :
    OutcomeWf (execTapchkMask c xd w s) := by
  refine State.memWf_issue h ?_ ?_ <;> simp +contextual (maxDischargeDepth := 20)

theorem memWf_execTapchk {s : State} (h : s.MemWf) (c : Ctl) (xb : Reg) (first : BitVec 6) (cnt1 : BitVec 4) :
    OutcomeWf (execTapchk c xb first cnt1 s) := by
  refine State.memWf_issue h (fun wid u hu => ?_) (by simp +contextual (maxDischargeDepth := 20))
  dsimp only
  (repeat' split) <;> simp +contextual (maxDischargeDepth := 20) [*]

theorem memWf_execVshort {s : State} (h : s.MemWf) (c : Ctl) (v : V3) (bf : Bool) :
    OutcomeWf (execVshort c v bf s) := by
  refine State.memWf_issue h (fun wid u hu => ?_) (fun u r hu hr => State.memWf_srcOvf hu _ r hr)
  simp +contextual (maxDischargeDepth := 20) [genIssue, genWord, hu]

theorem memWf_execVsort {s : State} (h : s.MemWf) (c : Ctl) (v : V3) :
    OutcomeWf (execVsort c v s) := by
  refine State.memWf_issue h (fun wid u hu => ?_) (fun u r hu hr => State.memWf_srcOvf hu _ r hr)
  simp +contextual (maxDischargeDepth := 20) [genIssue, genWord, hu]

theorem memWf_execVsortMerge {s : State} (h : s.MemWf) (c : Ctl) (v : V3) :
    OutcomeWf (execVsortMerge c v s) := by
  refine State.memWf_issue h (fun wid u hu => ?_) (fun u r hu hr => State.memWf_srcOvf hu _ r hr)
  simp +contextual (maxDischargeDepth := 20) [genIssue, genWord, hu]

theorem memWf_execVsamp {s : State} (h : s.MemWf) (c : Ctl) (v : V3) (f : Bool) :
    OutcomeWf (execVsamp c v f s) := by
  refine State.memWf_issue h (fun wid u hu => ?_) (fun u r hu hr => State.memWf_srcOvf hu _ r hr)
  simp +contextual (maxDischargeDepth := 20) [genIssue, genWord, hu]

theorem memWf_execVsampU {s : State} (h : s.MemWf) (c : Ctl) (vd vb : QName) (pa pb : Bool) :
    OutcomeWf (execVsampU c vd vb pa pb s) := by
  refine State.memWf_issue h (fun wid u hu => ?_) (fun u r hu hr => State.memWf_srcOvf hu _ r hr)
  simp +contextual (maxDischargeDepth := 20) [genIssue, genWord, hu]

theorem memWf_execRngget {s : State} (h : s.MemWf) (c : Ctl) (xd xa : Reg) :
    OutcomeWf (execRngget c xd xa s) := by
  refine State.memWf_issue h ?_ ?_ <;> simp +contextual (maxDischargeDepth := 20) [rowIssue, rnggetIssue]

theorem memWf_execRnggetPeek {s : State} (h : s.MemWf) (c : Ctl) (xd xa : Reg) :
    OutcomeWf (execRnggetPeek c xd xa s) := by
  refine State.memWf_issue h ?_ ?_ <;> simp +contextual (maxDischargeDepth := 20) [rowIssue, rnggetIssue]

theorem memWf_execRngjmp {s : State} (h : s.MemWf) (c : Ctl) (xa xb : Reg) :
    OutcomeWf (execRngjmp c xa xb s) := by
  refine State.memWf_issue h ?_ ?_ <;> simp +contextual (maxDischargeDepth := 20) [rowIssue]

theorem memWf_execGsave {s : State} (h : s.MemWf) (c : Ctl) (xd xa : Reg) :
    OutcomeWf (execGsave c xd xa s) := by
  refine State.memWf_issue h ?_ ?_ <;> simp +contextual (maxDischargeDepth := 20) [rowIssue]

theorem memWf_execGrest {s : State} (h : s.MemWf) (c : Ctl) (xa xb : Reg) :
    OutcomeWf (execGrest c xa xb s) := by
  refine State.memWf_issue h ?_ ?_ <;> simp +contextual (maxDischargeDepth := 20) [rowIssue]

theorem memWf_execGstep {s : State} (h : s.MemWf) (c : Ctl) (v : V2) :
    OutcomeWf (execGstep c v s) := by
  refine State.memWf_issue h (fun wid u hu => ?_) (fun u r hu hr => State.memWf_srcOvf hu _ r hr)
  simp +contextual (maxDischargeDepth := 20) [genIssue, hu]

theorem memWf_execVgmask {s : State} (h : s.MemWf) (c : Ctl) (v : V3) (bf : Bool) :
    OutcomeWf (execVgmask c v bf s) := by
  refine State.memWf_issue h (fun wid u hu => ?_) (fun u r hu hr => State.memWf_srcOvf hu _ r hr)
  simp +contextual (maxDischargeDepth := 20) [genIssue, hu]

theorem memWf_execTokout {s : State} (h : s.MemWf) (c : Ctl) (v : V2) :
    OutcomeWf (execTokout c v s) := by
  refine State.memWf_issue h (fun wid u hu => ?_) (fun u r hu hr => State.memWf_srcOvf hu _ r hr)
  simp +contextual (maxDischargeDepth := 20) [genIssue, hu]

theorem memWf_execLeave {s : State} (h : s.MemWf) (c : Ctl) (n : BitVec 8) (mask : BitVec 3) :
    OutcomeWf (execLeave c n mask s) := by
  refine State.memWf_issue h ?_ ?_ <;> simp +contextual (maxDischargeDepth := 20) [State.memWf_foldl]

theorem memWf_execMfs {s : State} (h : s.MemWf) (c : Ctl) (xd : Reg) (sel : BitVec 16) :
    OutcomeWf (execMfs c xd sel s) := by
  refine State.memWf_issue h ?_ ?_ <;> simp +contextual (maxDischargeDepth := 20)

theorem memWf_execMts {s : State} (h : s.MemWf) (c : Ctl) (sel : BitVec 16) (xa : Reg) :
    OutcomeWf (execMts c sel xa s) := by
  refine State.memWf_issue h ?_ ?_ <;> simp +contextual (maxDischargeDepth := 20)

theorem memWf_execExit {s : State} (h : s.MemWf) (c : Ctl) :
    OutcomeWf (execExit c s) := by
  refine State.memWf_issue h ?_ ?_ <;> simp +contextual (maxDischargeDepth := 20)

theorem memWf_execSysc {s : State} (h : s.MemWf) (c : Ctl) (service : BitVec 28) :
    OutcomeWf (execSysc c service s) := by
  refine State.memWf_issue h ?_ ?_ <;> simp +contextual (maxDischargeDepth := 20)

theorem memWf_execWsw {s : State} (h : s.MemWf) (c : Ctl) (xa xb xc : Reg) :
    OutcomeWf (execWsw c xa xb xc s) := by
  refine State.memWf_issue h (fun wid u hu => ?_) (by simp +contextual (maxDischargeDepth := 20) [sysIssue, Issue.until])
  dsimp only [sysIssue, Issue.until]
  (repeat' split) <;> simp +contextual (maxDischargeDepth := 20) [sysIssue, Issue.until, *]

theorem memWf_execPtbw {s : State} (h : s.MemWf) (c : Ctl) (xa : Reg) (idx : BitVec 6) :
    OutcomeWf (execPtbw c xa idx s) := by
  refine State.memWf_issue h (fun wid u hu => ?_) (by simp +contextual (maxDischargeDepth := 20) [sysIssue, Issue.until, ptbwIssue])
  dsimp only [sysIssue, Issue.until, ptbwIssue]
  (repeat' split) <;> simp +contextual (maxDischargeDepth := 20) [sysIssue, Issue.until, ptbwIssue, *]

theorem memWf_execPtbwH {s : State} (h : s.MemWf) (c : Ctl) (xa : Reg) :
    OutcomeWf (execPtbwH c xa s) := by
  refine State.memWf_issue h (fun wid u hu => ?_) (by simp +contextual (maxDischargeDepth := 20) [sysIssue, Issue.until, ptbwIssue])
  dsimp only [sysIssue, Issue.until, ptbwIssue]
  (repeat' split) <;> simp +contextual (maxDischargeDepth := 20) [sysIssue, Issue.until, ptbwIssue, *]

theorem memWf_execTlbiPg {s : State} (h : s.MemWf) (c : Ctl) (xa : Reg) :
    OutcomeWf (execTlbiPg c xa s) := by
  refine State.memWf_issue h ?_ ?_ <;> simp +contextual (maxDischargeDepth := 20) [sysIssue, Issue.until, tlbiIssue]

theorem memWf_execTlbiBlk {s : State} (h : s.MemWf) (c : Ctl) (xa : Reg) :
    OutcomeWf (execTlbiBlk c xa s) := by
  refine State.memWf_issue h ?_ ?_ <;> simp +contextual (maxDischargeDepth := 20) [sysIssue, Issue.until, tlbiIssue]

theorem memWf_execTlbiAll {s : State} (h : s.MemWf) (c : Ctl) :
    OutcomeWf (execTlbiAll c s) := by
  refine State.memWf_issue h ?_ ?_ <;> simp +contextual (maxDischargeDepth := 20) [sysIssue, Issue.until, tlbiIssue]

theorem memWf_execQuar {s : State} (h : s.MemWf) (c : Ctl) (xa xb : Reg) (w : BitVec 2) :
    OutcomeWf (execQuar c xa xb w s) := by
  refine State.memWf_issue h (fun wid u hu => ?_) (by simp +contextual (maxDischargeDepth := 20) [sysIssue, Issue.until])
  dsimp only [sysIssue, Issue.until]
  (repeat' split) <;> simp +contextual (maxDischargeDepth := 20) [sysIssue, Issue.until, *]

theorem memWf_execSlotw {s : State} (h : s.MemWf) (c : Ctl) (xa : Reg) (n : BitVec 6) :
    OutcomeWf (execSlotw c xa n s) := by
  refine State.memWf_issue h ?_ ?_ <;> simp +contextual (maxDischargeDepth := 20) [sysIssue]

theorem memWf_execBmapwFree {s : State} (h : s.MemWf) (c : Ctl) (xa : Reg) :
    OutcomeWf (execBmapwFree c xa s) := by
  refine State.memWf_issue h ?_ ?_ <;> simp +contextual (maxDischargeDepth := 20) [sysIssue]

theorem memWf_execBmapwSet {s : State} (h : s.MemWf) (c : Ctl) (xa xb : Reg) :
    OutcomeWf (execBmapwSet c xa xb s) := by
  refine State.memWf_issue h ?_ ?_ <;> simp +contextual (maxDischargeDepth := 20) [sysIssue]

theorem memWf_execHalt {s : State} (h : s.MemWf) (c : Ctl) (xa : Reg) :
    OutcomeWf (execHalt c xa s) := by
  refine State.memWf_issue h ?_ ?_ <;> simp +contextual (maxDischargeDepth := 20) [sysIssue]

theorem memWf_execResume {s : State} (h : s.MemWf) (c : Ctl) (xa : Reg) :
    OutcomeWf (execResume c xa s) := by
  refine State.memWf_issue h ?_ ?_ <;> simp +contextual (maxDischargeDepth := 20) [sysIssue]

theorem memWf_execEret {s : State} (h : s.MemWf) (c : Ctl) :
    OutcomeWf (execEret c s) := by
  refine State.memWf_issue h ?_ ?_ <;> simp +contextual (maxDischargeDepth := 20) [sysIssue]

theorem memWf_execIpi {s : State} (h : s.MemWf) (c : Ctl) (xa : Reg) (code : BitVec 12) :
    OutcomeWf (execIpi c xa code s) := by
  refine State.memWf_issue h ?_ ?_ <;> simp +contextual (maxDischargeDepth := 20) [sysIssue, Issue.until]

theorem memWf_execPartw {s : State} (h : s.MemWf) (c : Ctl) (xa xb : Reg) (sel : BitVec 5) :
    OutcomeWf (execPartw c xa xb sel s) := by
  refine State.memWf_issue h ?_ ?_ <;> simp +contextual (maxDischargeDepth := 20) [sysIssue, Issue.until]

theorem memWf_execIslw {s : State} (h : s.MemWf) (c : Ctl) (xa xb : Reg) :
    OutcomeWf (execIslw c xa xb s) := by
  refine State.memWf_issue h ?_ ?_ <;> simp +contextual (maxDischargeDepth := 20) [sysIssue]

theorem memWf_execWriteInFlightCompletes {s : State} (h : s.MemWf) (k : Nat) (ctx : Ctx) (wid : Nat) :
    OutcomeWf (execWriteInFlightCompletes k ctx wid s) := by
  unfold execWriteInFlightCompletes
  (repeat' split) <;> simp +contextual (maxDischargeDepth := 20) [*]

theorem memWf_execForcedStopPoint {s : State} (h : s.MemWf) (k : Nat) (ctx : Ctx) :
    OutcomeWf (execForcedStopPoint k ctx s) := by
  unfold execForcedStopPoint
  dsimp only
  (repeat' split) <;> simp +contextual (maxDischargeDepth := 20) [*]

theorem memWf_execDeadlk {s : State} (h : s.MemWf) (k : Nat) :
    OutcomeWf (execDeadlk k s) := by
  unfold execDeadlk
  dsimp only
  (repeat' split) <;> simp +contextual (maxDischargeDepth := 20) [State.memWf_foldl, *]

theorem memWf_execTlbWalk {s : State} (h : s.MemWf) (k va : Nat) :
    OutcomeWf (execTlbWalk k va s) := by
  unfold execTlbWalk
  dsimp only
  (repeat' split) <;> simp +contextual (maxDischargeDepth := 20) [*]

theorem memWf_execXlateService {s : State} (h : s.MemWf) (k who id : Nat) (mapped : Bool) :
    OutcomeWf (execXlateService k who id mapped s) := by
  unfold execXlateService
  (repeat' split) <;> simp +contextual (maxDischargeDepth := 20) [*]

theorem memWf_execSupervisorResume {s : State} (h : s.MemWf) (k : Nat) (ctx : Ctx) (x56 x57 : Word) :
    OutcomeWf (execSupervisorResume k ctx x56 x57 s) := by
  unfold execSupervisorResume
  (repeat' split) <;> simp +contextual (maxDischargeDepth := 20) [*]

theorem memWf_execSupervisorReflect {s : State} (h : s.MemWf) (k : Nat) (ctx : Ctx) :
    OutcomeWf (execSupervisorReflect k ctx s) := by
  unfold execSupervisorReflect
  dsimp only
  (repeat' split) <;> simp +contextual (maxDischargeDepth := 20) [*]

theorem memWf_execSupervisorEndFault {s : State} (h : s.MemWf) (task : Nat) :
    OutcomeWf (execSupervisorEndFault task s) := by
  unfold execSupervisorEndFault
  (repeat' split) <;> simp +contextual (maxDischargeDepth := 20) [*]

theorem memWf_execScrubError {s : State} (h : s.MemWf) (part kind addr : Nat) :
    OutcomeWf (execScrubError part kind addr s) := by
  unfold execScrubError
  (repeat' split) <;> simp +contextual (maxDischargeDepth := 20) [*]

theorem memWf_execTaskSelect {s : State} (h : s.MemWf) (part : Nat) :
    OutcomeWf (execTaskSelect part s) := by
  unfold execTaskSelect
  dsimp only
  (repeat' split) <;> simp +contextual (maxDischargeDepth := 20) [*]

theorem memWf_execCoreRelease {s : State} (h : s.MemWf) (k : Nat) :
    OutcomeWf (execCoreRelease k s) := by
  unfold execCoreRelease
  (repeat' split) <;> simp +contextual (maxDischargeDepth := 20) [*]

theorem memWf_execReservationRequest {s : State} (h : s.MemWf) (task k : Nat) :
    OutcomeWf (execReservationRequest task k s) := by
  unfold execReservationRequest
  dsimp only
  (repeat' split) <;> simp +contextual (maxDischargeDepth := 20) [*]

theorem memWf_execRaggedDistribute {s : State} (h : s.MemWf) (task : Nat) :
    OutcomeWf (execRaggedDistribute task s) := by
  unfold execRaggedDistribute
  dsimp only
  (repeat' split) <;> simp +contextual (maxDischargeDepth := 20) [*]

theorem memWf_execCoreStart {s : State} (h : s.MemWf) (k : Nat) :
    OutcomeWf (execCoreStart k s) := by
  unfold execCoreStart
  dsimp only
  (repeat' split) <;> simp +contextual (maxDischargeDepth := 20) [*]

theorem memWf_execCoreDrainDone {s : State} (h : s.MemWf) (k : Nat) :
    OutcomeWf (execCoreDrainDone k s) := by
  unfold execCoreDrainDone
  dsimp only
  (repeat' split) <;> simp +contextual (maxDischargeDepth := 20) [*]

theorem memWf_execTaskCommit {s : State} (h : s.MemWf) (part : Nat) :
    OutcomeWf (execTaskCommit part s) := by
  unfold execTaskCommit
  (repeat' split) <;> simp +contextual (maxDischargeDepth := 20) [*]

theorem memWf_execSpecdepthWrite {s : State} (h : s.MemWf) (part : Nat) (v : Word) :
    OutcomeWf (execSpecdepthWrite part v s) := by
  unfold execSpecdepthWrite
  (repeat' split) <;> simp +contextual (maxDischargeDepth := 20) [*]

theorem memWf_execVbquotaWrite {s : State} (h : s.MemWf) (part : Nat) (v : Word) :
    OutcomeWf (execVbquotaWrite part v s) := by
  unfold execVbquotaWrite
  (repeat' split) <;> simp +contextual (maxDischargeDepth := 20) [*]

theorem memWf_execReddlWrite {s : State} (h : s.MemWf) (part : Nat) (v : Word) :
    OutcomeWf (execReddlWrite part v s) := by
  unfold execReddlWrite
  (repeat' split) <;> simp +contextual (maxDischargeDepth := 20) [*]

theorem memWf_execPtbaseWrite {s : State} (h : s.MemWf) (part : Nat) (v : Word) :
    OutcomeWf (execPtbaseWrite part v s) := by
  unfold execPtbaseWrite
  (repeat' split) <;> simp +contextual (maxDischargeDepth := 20) [*]

theorem memWf_execTqspareWrite {s : State} (h : s.MemWf) (part : Nat) (v : Word) :
    OutcomeWf (execTqspareWrite part v s) := by
  unfold execTqspareWrite
  (repeat' split) <;> simp +contextual (maxDischargeDepth := 20) [*]

theorem memWf_execSchctlPre {s : State} (h : s.MemWf) (part : Nat) :
    OutcomeWf (execSchctlPre part s) := by
  unfold execSchctlPre
  (repeat' split) <;> simp +contextual (maxDischargeDepth := 20) [*]

theorem memWf_execSchctlHold {s : State} (h : s.MemWf) (part : Nat) (hold : Bool) :
    OutcomeWf (execSchctlHold part hold s) := by
  unfold execSchctlHold
  (repeat' split) <;> simp +contextual (maxDischargeDepth := 20) [*]

theorem memWf_execPreemptSave {s : State} (h : s.MemWf) (task area : Nat) :
    OutcomeWf (execPreemptSave task area s) := by
  unfold execPreemptSave
  dsimp only
  (repeat' split) <;> simp +contextual (maxDischargeDepth := 20) [State.memWf_foldl, *]

theorem memWf_execFrameBoundary {s : State} (h : s.MemWf)  :
    OutcomeWf (execFrameBoundary s) := by
  exact State.memWf_foldl (s := { s with slotNew := [] }) ⟨h.1, h.2, h.3, h.4⟩ fun u a hu => State.memWf_applySlot hu a

theorem memWf_execWsRefreshWindow {s : State} (h : s.MemWf) (bank : Nat) :
    OutcomeWf (execWsRefreshWindow bank s) := by
  unfold execWsRefreshWindow
  (repeat' split) <;> simp +contextual (maxDischargeDepth := 20) [*]

theorem memWf_execLeaveGrant {s : State} (h : s.MemWf) (island : Nat) :
    OutcomeWf (execLeaveGrant island s) := by
  unfold execLeaveGrant
  (repeat' split) <;> simp +contextual (maxDischargeDepth := 20) [*]

theorem memWf_execIslandPowerGating {s : State} (h : s.MemWf) (island : Nat) (gated : Bool) :
    OutcomeWf (execIslandPowerGating island gated s) := by
  unfold execIslandPowerGating
  (repeat' split) <;> simp +contextual (maxDischargeDepth := 20) [*]

theorem memWf_execLinkFlitRetry {s : State} (h : s.MemWf) (link : Nat) :
    OutcomeWf (execLinkFlitRetry link s) := by
  unfold execLinkFlitRetry
  (repeat' split) <;> simp +contextual (maxDischargeDepth := 20) [*]

theorem memWf_execLinkStateChange {s : State} (h : s.MemWf) (link st peer : Nat) :
    OutcomeWf (execLinkStateChange link st peer s) := by
  unfold execLinkStateChange
  (repeat' split) <;> simp +contextual (maxDischargeDepth := 20) [*]

theorem memWf_execHostPortDown {s : State} (h : s.MemWf) (port : Nat) (up : Bool) :
    OutcomeWf (execHostPortDown port up s) := by
  unfold execHostPortDown
  (repeat' split) <;> simp +contextual (maxDischargeDepth := 20) [*]

theorem memWf_execStageTimeout {s : State} (h : s.MemWf)  :
    OutcomeWf (execStageTimeout s) := by
  unfold execStageTimeout
  (repeat' split) <;> simp +contextual (maxDischargeDepth := 20) [*]

theorem memWf_execPowerOn {s : State} (h : s.MemWf)  :
    OutcomeWf (execPowerOn s) := by
  unfold execPowerOn
  (repeat' split) <;> simp +contextual (maxDischargeDepth := 20) [*]

theorem memWf_execPcieFundamentalReset {s : State} (h : s.MemWf)  :
    OutcomeWf (execPcieFundamentalReset s) := by
  unfold execPcieFundamentalReset
  (repeat' split) <;> simp +contextual (maxDischargeDepth := 20) [*]

theorem memWf_execBootctlCold {s : State} (h : s.MemWf)  :
    OutcomeWf (execBootctlCold s) := by
  unfold execBootctlCold
  (repeat' split) <;> simp +contextual (maxDischargeDepth := 20) [*]

theorem memWf_execBootctlWarm {s : State} (h : s.MemWf)  :
    OutcomeWf (execBootctlWarm s) := by
  unfold execBootctlWarm
  (repeat' split) <;> simp +contextual (maxDischargeDepth := 20) [*]

theorem memWf_execIcarnColdReset {s : State} (h : s.MemWf)  :
    OutcomeWf (execIcarnColdReset s) := by
  unfold execIcarnColdReset
  (repeat' split) <;> simp +contextual (maxDischargeDepth := 20) [*]

theorem memWf_execQueueEnable {s : State} (h : s.MemWf) (q : Nat) (v : Word) :
    OutcomeWf (execQueueEnable q v s) := by
  unfold execQueueEnable
  (repeat' split) <;> simp +contextual (maxDischargeDepth := 20) [*]

theorem memWf_execKick {s : State} (h : s.MemWf) (q : Nat) (tail : BitVec 32) :
    OutcomeWf (execKick q tail s) := by
  unfold execKick
  (repeat' split) <;> simp +contextual (maxDischargeDepth := 20) [*]

theorem memWf_execEntryFetch {s : State} (h : s.MemWf) (q : Nat) :
    OutcomeWf (execEntryFetch q s) := by
  unfold execEntryFetch
  dsimp only
  (repeat' split) <;> simp +contextual (maxDischargeDepth := 20) [*]

theorem memWf_execHostDeviceWrite {s : State} (h : s.MemWf) (pa : Nat) (data : List Byte) :
    OutcomeWf (execHostDeviceWrite pa data s) := by
  unfold execHostDeviceWrite
  (repeat' split) <;> simp +contextual (maxDischargeDepth := 20) [*]

theorem memWf_execLandingProcessorWrite {s : State} (h : s.MemWf) (pa : Nat) (data : List Byte) :
    OutcomeWf (execLandingProcessorWrite pa data s) := by
  unfold execLandingProcessorWrite
  (repeat' split) <;> simp +contextual (maxDischargeDepth := 20) [*]

theorem memWf_execMigrationGo {s : State} (h : s.MemWf) (mva : Nat) (dir : Bool) (part : Nat) :
    OutcomeWf (execMigrationGo mva dir part s) := by
  unfold execMigrationGo
  (repeat' split) <;> simp +contextual (maxDischargeDepth := 20) [*]

theorem memWf_execPageMove {s : State} (h : s.MemWf) (part va dest addr : Nat) :
    OutcomeWf (execPageMove part va dest addr s) := by
  unfold execPageMove
  dsimp only
  (repeat' split) <;> simp +contextual (maxDischargeDepth := 20) [*]

theorem memWf_execHoldWindowExpire {s : State} (h : s.MemWf) (part va : Nat) :
    OutcomeWf (execHoldWindowExpire part va s) := by
  unfold execHoldWindowExpire
  dsimp only
  (repeat' split) <;> simp +contextual (maxDischargeDepth := 20) [*]

theorem memWf_execRegisterWrite {s : State} (h : s.MemWf) (off : Nat) (v : Word) :
    OutcomeWf (execRegisterWrite off v s) := by
  unfold execRegisterWrite
  (repeat' split) <;> simp +contextual (maxDischargeDepth := 20) [*]

theorem memWf_execNop {s : State} (h : s.MemWf) (c : Ctl) :
    OutcomeWf (execNop c s) := by
  refine State.memWf_issue h ?_ ?_ <;> simp +contextual (maxDischargeDepth := 20)

theorem memWf_execAdd {s : State} (h : s.MemWf) (c : Ctl) (xd xa xb : Reg) :
    OutcomeWf (execAdd c xd xa xb s) := by
  refine State.memWf_issue h ?_ ?_ <;> simp +contextual (maxDischargeDepth := 20) [alu2]

theorem memWf_execSub {s : State} (h : s.MemWf) (c : Ctl) (xd xa xb : Reg) :
    OutcomeWf (execSub c xd xa xb s) := by
  refine State.memWf_issue h ?_ ?_ <;> simp +contextual (maxDischargeDepth := 20) [alu2]

theorem memWf_execMul {s : State} (h : s.MemWf) (c : Ctl) (xd xa xb : Reg) :
    OutcomeWf (execMul c xd xa xb s) := by
  refine State.memWf_issue h ?_ ?_ <;> simp +contextual (maxDischargeDepth := 20) [alu2]

theorem memWf_execMulh {s : State} (h : s.MemWf) (c : Ctl) (xd xa xb : Reg) (m : Mulh) :
    OutcomeWf (execMulh c xd xa xb m s) := by
  refine State.memWf_issue h ?_ ?_ <;> simp +contextual (maxDischargeDepth := 20) [alu2]

theorem memWf_execDiv {s : State} (h : s.MemWf) (c : Ctl) (xd xa xb : Reg) (uns : Bool) :
    OutcomeWf (execDiv c xd xa xb uns s) := by
  refine State.memWf_issue h ?_ ?_ <;> simp +contextual (maxDischargeDepth := 20) [alu2]

theorem memWf_execRem {s : State} (h : s.MemWf) (c : Ctl) (xd xa xb : Reg) (uns : Bool) :
    OutcomeWf (execRem c xd xa xb uns s) := by
  refine State.memWf_issue h ?_ ?_ <;> simp +contextual (maxDischargeDepth := 20) [alu2]

theorem memWf_execAnd {s : State} (h : s.MemWf) (c : Ctl) (xd xa xb : Reg) :
    OutcomeWf (execAnd c xd xa xb s) := by
  refine State.memWf_issue h ?_ ?_ <;> simp +contextual (maxDischargeDepth := 20) [alu2]

theorem memWf_execOr {s : State} (h : s.MemWf) (c : Ctl) (xd xa xb : Reg) :
    OutcomeWf (execOr c xd xa xb s) := by
  refine State.memWf_issue h ?_ ?_ <;> simp +contextual (maxDischargeDepth := 20) [alu2]

theorem memWf_execXor {s : State} (h : s.MemWf) (c : Ctl) (xd xa xb : Reg) :
    OutcomeWf (execXor c xd xa xb s) := by
  refine State.memWf_issue h ?_ ?_ <;> simp +contextual (maxDischargeDepth := 20) [alu2]

theorem memWf_execShl {s : State} (h : s.MemWf) (c : Ctl) (xd xa xb : Reg) (imm : BitVec 6) :
    OutcomeWf (execShl c xd xa xb imm s) := by
  refine State.memWf_issue h ?_ ?_ <;> simp +contextual (maxDischargeDepth := 20) [alu2]

theorem memWf_execShr {s : State} (h : s.MemWf) (c : Ctl) (xd xa xb : Reg) (imm : BitVec 6) :
    OutcomeWf (execShr c xd xa xb imm s) := by
  refine State.memWf_issue h ?_ ?_ <;> simp +contextual (maxDischargeDepth := 20) [alu2]

theorem memWf_execSar {s : State} (h : s.MemWf) (c : Ctl) (xd xa xb : Reg) (imm : BitVec 6) :
    OutcomeWf (execSar c xd xa xb imm s) := by
  refine State.memWf_issue h ?_ ?_ <;> simp +contextual (maxDischargeDepth := 20) [alu2]

theorem memWf_execRol {s : State} (h : s.MemWf) (c : Ctl) (xd xa xb : Reg) (imm : BitVec 6) :
    OutcomeWf (execRol c xd xa xb imm s) := by
  refine State.memWf_issue h ?_ ?_ <;> simp +contextual (maxDischargeDepth := 20) [alu2]

theorem memWf_execMin {s : State} (h : s.MemWf) (c : Ctl) (xd xa xb : Reg) (uns : Bool) :
    OutcomeWf (execMin c xd xa xb uns s) := by
  refine State.memWf_issue h ?_ ?_ <;> simp +contextual (maxDischargeDepth := 20) [alu2]

theorem memWf_execMax {s : State} (h : s.MemWf) (c : Ctl) (xd xa xb : Reg) (uns : Bool) :
    OutcomeWf (execMax c xd xa xb uns s) := by
  refine State.memWf_issue h ?_ ?_ <;> simp +contextual (maxDischargeDepth := 20) [alu2]

theorem memWf_execAddi {s : State} (h : s.MemWf) (c : Ctl) (xd xa : Reg) (imm : BitVec 28) :
    OutcomeWf (execAddi c xd xa imm s) := by
  refine State.memWf_issue h ?_ ?_ <;> simp +contextual (maxDischargeDepth := 20) [alu1]

theorem memWf_execAndi {s : State} (h : s.MemWf) (c : Ctl) (xd xa : Reg) (imm : BitVec 28) :
    OutcomeWf (execAndi c xd xa imm s) := by
  refine State.memWf_issue h ?_ ?_ <;> simp +contextual (maxDischargeDepth := 20) [alu1]

theorem memWf_execOri {s : State} (h : s.MemWf) (c : Ctl) (xd xa : Reg) (imm : BitVec 28) :
    OutcomeWf (execOri c xd xa imm s) := by
  refine State.memWf_issue h ?_ ?_ <;> simp +contextual (maxDischargeDepth := 20) [alu1]

theorem memWf_execXori {s : State} (h : s.MemWf) (c : Ctl) (xd xa : Reg) (imm : BitVec 28) :
    OutcomeWf (execXori c xd xa imm s) := by
  refine State.memWf_issue h ?_ ?_ <;> simp +contextual (maxDischargeDepth := 20) [alu1]

theorem memWf_execMuli {s : State} (h : s.MemWf) (c : Ctl) (xd xa : Reg) (imm : BitVec 28) :
    OutcomeWf (execMuli c xd xa imm s) := by
  refine State.memWf_issue h ?_ ?_ <;> simp +contextual (maxDischargeDepth := 20) [alu1]

theorem memWf_execCmp {s : State} (h : s.MemWf) (c : Ctl) (cond : Cond) (xd xa xb : Reg) :
    OutcomeWf (execCmp c cond xd xa xb s) := by
  refine State.memWf_issue h ?_ ?_ <;> simp +contextual (maxDischargeDepth := 20) [alu2]

theorem memWf_execCmpi {s : State} (h : s.MemWf) (c : Ctl) (cond : Cond) (xd xa : Reg) (imm : BitVec 24) :
    OutcomeWf (execCmpi c cond xd xa imm s) := by
  refine State.memWf_issue h ?_ ?_ <;> simp +contextual (maxDischargeDepth := 20) [alu1]

theorem memWf_execCsel {s : State} (h : s.MemWf) (c : Ctl) (xd xs xa xb : Reg) :
    OutcomeWf (execCsel c xd xs xa xb s) := by
  refine State.memWf_issue h ?_ ?_ <;> simp +contextual (maxDischargeDepth := 20)

theorem memWf_execLimm {s : State} (h : s.MemWf) (c : Ctl) (xd : Reg) (part : LPart) (imm : BitVec 32) :
    OutcomeWf (execLimm c xd part imm s) := by
  refine State.memWf_issue h ?_ ?_ <;> simp +contextual (maxDischargeDepth := 20)

theorem memWf_execClz {s : State} (h : s.MemWf) (c : Ctl) (xd xa : Reg) :
    OutcomeWf (execClz c xd xa s) := by
  refine State.memWf_issue h ?_ ?_ <;> simp +contextual (maxDischargeDepth := 20) [alu1]

theorem memWf_execPopc {s : State} (h : s.MemWf) (c : Ctl) (xd xa : Reg) :
    OutcomeWf (execPopc c xd xa s) := by
  refine State.memWf_issue h ?_ ?_ <;> simp +contextual (maxDischargeDepth := 20) [alu1]

theorem memWf_execBswap {s : State} (h : s.MemWf) (c : Ctl) (xd xa : Reg) :
    OutcomeWf (execBswap c xd xa s) := by
  refine State.memWf_issue h ?_ ?_ <;> simp +contextual (maxDischargeDepth := 20) [alu1]

theorem memWf_execExtr {s : State} (h : s.MemWf) (c : Ctl) (xd xa : Reg) (sgn : Bool) (len1 : BitVec 6) (pos : BitVec 6) :
    OutcomeWf (execExtr c xd xa sgn len1 pos s) := by
  refine State.memWf_issue h ?_ ?_ <;> simp +contextual (maxDischargeDepth := 20) [alu1]

theorem memWf_execInsr {s : State} (h : s.MemWf) (c : Ctl) (xd xa : Reg) (len1 : BitVec 6) (pos : BitVec 6) :
    OutcomeWf (execInsr c xd xa len1 pos s) := by
  refine State.memWf_issue h ?_ ?_ <;> simp +contextual (maxDischargeDepth := 20) [aluOld]

theorem memWf_execBr {s : State} (h : s.MemWf) (c : Ctl) (cond : Cond) (xa xb : Reg) (disp : BitVec 24) :
    OutcomeWf (execBr c cond xa xb disp s) := by
  refine State.memWf_issue h ?_ ?_ <;> simp +contextual (maxDischargeDepth := 20)

theorem memWf_execJmpr {s : State} (h : s.MemWf) (c : Ctl) (xd xa : Reg) (imm : BitVec 16) :
    OutcomeWf (execJmpr c xd xa imm s) := by
  refine State.memWf_issue h ?_ ?_ <;> simp +contextual (maxDischargeDepth := 20)

theorem memWf_execLoop {s : State} (h : s.MemWf) (c : Ctl) (xa : Reg) (body : BitVec 16) :
    OutcomeWf (execLoop c xa body s) := by
  refine State.memWf_issue h ?_ ?_ <;> simp +contextual (maxDischargeDepth := 20) [loopIssue]

theorem memWf_execLoopN {s : State} (h : s.MemWf) (c : Ctl) (level : BitVec 3) (body : BitVec 16) :
    OutcomeWf (execLoopN c level body s) := by
  refine State.memWf_issue h ?_ ?_ <;> simp +contextual (maxDischargeDepth := 20) [loopIssue]

theorem memWf_execLoopi {s : State} (h : s.MemWf) (c : Ctl) (count : BitVec 16) (body : BitVec 12) :
    OutcomeWf (execLoopi c count body s) := by
  refine State.memWf_issue h ?_ ?_ <;> simp +contextual (maxDischargeDepth := 20) [loopIssue]

theorem memWf_execCqput {s : State} (h : s.MemWf) (c : Ctl) (dir : Dir6) (xa : Reg) :
    OutcomeWf (execCqput c dir xa s) := by
  refine State.memWf_issue h ?_ ?_ <;> simp +contextual (maxDischargeDepth := 20)

theorem memWf_execCqget {s : State} (h : s.MemWf) (c : Ctl) (xd : Reg) (dir : Dir6) :
    OutcomeWf (execCqget c xd dir s) := by
  refine State.memWf_issue h ?_ ?_ <;> simp +contextual (maxDischargeDepth := 20)

theorem memWf_execCqbr {s : State} (h : s.MemWf) (c : Ctl) (cond : Cond) (dir : Dir6) (disp : BitVec 24) :
    OutcomeWf (execCqbr c cond dir disp s) := by
  refine State.memWf_issue h ?_ ?_ <;> simp +contextual (maxDischargeDepth := 20)

theorem memWf_execTkinc {s : State} (h : s.MemWf) (c : Ctl) (n : BitVec 5) (xa : Reg) (imm : BitVec 16) :
    OutcomeWf (execTkinc c n xa imm s) := by
  refine State.memWf_issue h ?_ ?_ <;> simp +contextual (maxDischargeDepth := 20)

theorem memWf_execTkchk {s : State} (h : s.MemWf) (c : Ctl) (xd : Reg) (n : BitVec 5) :
    OutcomeWf (execTkchk c xd n s) := by
  refine State.memWf_issue h ?_ ?_ <;> simp +contextual (maxDischargeDepth := 20)

theorem memWf_execMode {s : State} (h : s.MemWf) (c : Ctl) (exposed : Bool) (slack : BitVec 4) :
    OutcomeWf (execMode c exposed slack s) := by
  refine State.memWf_issue h ?_ ?_ <;> simp +contextual (maxDischargeDepth := 20)

theorem memWf_execCapr {s : State} (h : s.MemWf) (c : Ctl) (xd xa : Reg) (imm : BitVec 16) :
    OutcomeWf (execCapr c xd xa imm s) := by
  refine State.memWf_issue h ?_ ?_ <;> simp +contextual (maxDischargeDepth := 20)

theorem memWf_execBrk {s : State} (h : s.MemWf) (c : Ctl) (code : BitVec 28) :
    OutcomeWf (execBrk c code s) := by
  refine State.memWf_issue h ?_ ?_ <;> simp +contextual (maxDischargeDepth := 20)

theorem memWf_execVadd {s : State} (h : s.MemWf) (c : Ctl) (v : V3) (ty : ETy) (md : VMode) :
    OutcomeWf (execVadd c v ty md s) := by
  refine State.memWf_issue h (fun wid u hu => ?_) (fun u r hu hr => State.memWf_srcOvf hu _ r hr)
  simp +contextual (maxDischargeDepth := 20) [vword, v3word, hu]

theorem memWf_execVsub {s : State} (h : s.MemWf) (c : Ctl) (v : V3) (ty : ETy) (md : VMode) :
    OutcomeWf (execVsub c v ty md s) := by
  refine State.memWf_issue h (fun wid u hu => ?_) (fun u r hu hr => State.memWf_srcOvf hu _ r hr)
  simp +contextual (maxDischargeDepth := 20) [vword, v3word, hu]

theorem memWf_execVmul {s : State} (h : s.MemWf) (c : Ctl) (v : V3) (ty : ETy) (md : VMode) :
    OutcomeWf (execVmul c v ty md s) := by
  refine State.memWf_issue h (fun wid u hu => ?_) (fun u r hu hr => State.memWf_srcOvf hu _ r hr)
  simp +contextual (maxDischargeDepth := 20) [vword, v3word, hu]

theorem memWf_execVdiv {s : State} (h : s.MemWf) (c : Ctl) (v : V3) (ty : ETy) (md : VMode) :
    OutcomeWf (execVdiv c v ty md s) := by
  refine State.memWf_issue h (fun wid u hu => ?_) (fun u r hu hr => State.memWf_srcOvf hu _ r hr)
  simp +contextual (maxDischargeDepth := 20) [vword, v3word, hu]

theorem memWf_execVmin {s : State} (h : s.MemWf) (c : Ctl) (v : V3) (ty : ETy) :
    OutcomeWf (execVmin c v ty s) := by
  refine State.memWf_issue h (fun wid u hu => ?_) (fun u r hu hr => State.memWf_srcOvf hu _ r hr)
  simp +contextual (maxDischargeDepth := 20) [vword, v3word, hu]

theorem memWf_execVmax {s : State} (h : s.MemWf) (c : Ctl) (v : V3) (ty : ETy) :
    OutcomeWf (execVmax c v ty s) := by
  refine State.memWf_issue h (fun wid u hu => ?_) (fun u r hu hr => State.memWf_srcOvf hu _ r hr)
  simp +contextual (maxDischargeDepth := 20) [vword, v3word, hu]

theorem memWf_execVfmaFp32 {s : State} (h : s.MemWf) (c : Ctl) (v : V4) :
    OutcomeWf (execVfmaFp32 c v s) := by
  refine State.memWf_issue h (fun wid u hu => ?_) (fun u r hu hr => State.memWf_srcOvf hu _ r hr)
  simp +contextual (maxDischargeDepth := 20) [vword, v4word, hu]

theorem memWf_execVfmaBf16 {s : State} (h : s.MemWf) (c : Ctl) (v : V4) :
    OutcomeWf (execVfmaBf16 c v s) := by
  refine State.memWf_issue h (fun wid u hu => ?_) (fun u r hu hr => State.memWf_srcOvf hu _ r hr)
  simp +contextual (maxDischargeDepth := 20) [vword, v4word, hu]

theorem memWf_execVfmaFp16 {s : State} (h : s.MemWf) (c : Ctl) (v : V4) :
    OutcomeWf (execVfmaFp16 c v s) := by
  refine State.memWf_issue h (fun wid u hu => ?_) (fun u r hu hr => State.memWf_srcOvf hu _ r hr)
  simp +contextual (maxDischargeDepth := 20) [vword, v4word, hu]

theorem memWf_execVabs {s : State} (h : s.MemWf) (c : Ctl) (v : V2) (ty : ETy) (sat : Bool) :
    OutcomeWf (execVabs c v ty sat s) := by
  refine State.memWf_issue h (fun wid u hu => ?_) (fun u r hu hr => State.memWf_srcOvf hu _ r hr)
  simp +contextual (maxDischargeDepth := 20) [vword, v2word, hu]

theorem memWf_execVneg {s : State} (h : s.MemWf) (c : Ctl) (v : V2) (ty : ETy) (sat : Bool) :
    OutcomeWf (execVneg c v ty sat s) := by
  refine State.memWf_issue h (fun wid u hu => ?_) (fun u r hu hr => State.memWf_srcOvf hu _ r hr)
  simp +contextual (maxDischargeDepth := 20) [vword, v2word, hu]

theorem memWf_execVand {s : State} (h : s.MemWf) (c : Ctl) (v : V3) :
    OutcomeWf (execVand c v s) := by
  refine State.memWf_issue h (fun wid u hu => ?_) (fun u r hu hr => State.memWf_srcOvf hu _ r hr)
  simp +contextual (maxDischargeDepth := 20) [vword, v3word, hu]

theorem memWf_execVor {s : State} (h : s.MemWf) (c : Ctl) (v : V3) :
    OutcomeWf (execVor c v s) := by
  refine State.memWf_issue h (fun wid u hu => ?_) (fun u r hu hr => State.memWf_srcOvf hu _ r hr)
  simp +contextual (maxDischargeDepth := 20) [vword, v3word, hu]

theorem memWf_execVxor {s : State} (h : s.MemWf) (c : Ctl) (v : V3) :
    OutcomeWf (execVxor c v s) := by
  refine State.memWf_issue h (fun wid u hu => ?_) (fun u r hu hr => State.memWf_srcOvf hu _ r hr)
  simp +contextual (maxDischargeDepth := 20) [vword, v3word, hu]

theorem memWf_execVshl {s : State} (h : s.MemWf) (c : Ctl) (v : V3) (ty : ETy) :
    OutcomeWf (execVshl c v ty s) := by
  refine State.memWf_issue h (fun wid u hu => ?_) (fun u r hu hr => State.memWf_srcOvf hu _ r hr)
  simp +contextual (maxDischargeDepth := 20) [vword, v3word, hu]

theorem memWf_execVshr {s : State} (h : s.MemWf) (c : Ctl) (v : V3) (ty : ETy) (arith : Bool) :
    OutcomeWf (execVshr c v ty arith s) := by
  refine State.memWf_issue h (fun wid u hu => ?_) (fun u r hu hr => State.memWf_srcOvf hu _ r hr)
  simp +contextual (maxDischargeDepth := 20) [vword, v3word, hu]

theorem memWf_execVaddi {s : State} (h : s.MemWf) (c : Ctl) (v : V2) (ty : ETy) (imm : BitVec 15) :
    OutcomeWf (execVaddi c v ty imm s) := by
  refine State.memWf_issue h (fun wid u hu => ?_) (fun u r hu hr => State.memWf_srcOvf hu _ r hr)
  simp +contextual (maxDischargeDepth := 20) [vword, v2word, hu]

theorem memWf_execVmuli {s : State} (h : s.MemWf) (c : Ctl) (v : V2) (ty : ETy) (imm : BitVec 15) :
    OutcomeWf (execVmuli c v ty imm s) := by
  refine State.memWf_issue h (fun wid u hu => ?_) (fun u r hu hr => State.memWf_srcOvf hu _ r hr)
  simp +contextual (maxDischargeDepth := 20) [vword, v2word, hu]

theorem memWf_execVsplatImm {s : State} (h : s.MemWf) (c : Ctl) (vd : QName) (ty : ETy) (imm : BitVec 15) :
    OutcomeWf (execVsplatImm c vd ty imm s) := by
  refine State.memWf_issue h (fun wid u hu => ?_) (fun u r hu hr => State.memWf_srcOvf hu [] r hr)
  simp +contextual (maxDischargeDepth := 20) [vword, hu]

theorem memWf_execVsplatReg {s : State} (h : s.MemWf) (c : Ctl) (vd : QName) (ty : ETy) (xa : Reg) :
    OutcomeWf (execVsplatReg c vd ty xa s) := by
  refine State.memWf_issue h (fun wid u hu => ?_) (fun u r hu hr => State.memWf_srcOvf hu [] r hr)
  simp +contextual (maxDischargeDepth := 20) [vword, hu]

theorem memWf_execVcvt {s : State} (h : s.MemWf) (c : Ctl) (v : V2) (src dst : ETy) (rm : RM) (sat : Bool) :
    OutcomeWf (execVcvt c v src dst rm sat s) := by
  refine State.memWf_issue h (fun wid u hu => ?_) (fun u r hu hr => State.memWf_srcOvf hu _ r hr)
  simp +contextual (maxDischargeDepth := 20) [vword, hu]

theorem memWf_execVcmp {s : State} (h : s.MemWf) (c : Ctl) (v : V3) (ty : ETy) (cond : VCond) :
    OutcomeWf (execVcmp c v ty cond s) := by
  refine State.memWf_issue h (fun wid u hu => ?_) (fun u r hu hr => State.memWf_srcOvf hu _ r hr)
  simp +contextual (maxDischargeDepth := 20) [vword, v3word, hu]

theorem memWf_execVsel32 {s : State} (h : s.MemWf) (c : Ctl) (v : V4) :
    OutcomeWf (execVsel32 c v s) := by
  refine State.memWf_issue h (fun wid u hu => ?_) (fun u r hu hr => State.memWf_srcOvf hu _ r hr)
  simp +contextual (maxDischargeDepth := 20) [vword, v4word, hu]

theorem memWf_execVsel16 {s : State} (h : s.MemWf) (c : Ctl) (v : V4) :
    OutcomeWf (execVsel16 c v s) := by
  refine State.memWf_issue h (fun wid u hu => ?_) (fun u r hu hr => State.memWf_srcOvf hu _ r hr)
  simp +contextual (maxDischargeDepth := 20) [vword, v4word, hu]

theorem memWf_execVsel8 {s : State} (h : s.MemWf) (c : Ctl) (v : V4) :
    OutcomeWf (execVsel8 c v s) := by
  refine State.memWf_issue h (fun wid u hu => ?_) (fun u r hu hr => State.memWf_srcOvf hu _ r hr)
  simp +contextual (maxDischargeDepth := 20) [vword, v4word, hu]

theorem memWf_execVreds {s : State} (h : s.MemWf) (c : Ctl) (v : V3) (ty : ETy) (md : VMode) :
    OutcomeWf (execVreds c v ty md s) := by
  refine State.memWf_issue h (fun wid u hu => ?_) (fun u r hu hr => State.memWf_srcOvf hu _ r hr)
  simp +contextual (maxDischargeDepth := 20) [vword, v3word, hu]

theorem memWf_execVredm {s : State} (h : s.MemWf) (c : Ctl) (v : V2) (ty : ETy) (kind : MaxK) :
    OutcomeWf (execVredm c v ty kind s) := by
  refine State.memWf_issue h (fun wid u hu => ?_) (fun u r hu hr => State.memWf_srcOvf hu _ r hr)
  simp +contextual (maxDischargeDepth := 20) [vword, v2word, hu]

theorem memWf_execVscan {s : State} (h : s.MemWf) (c : Ctl) (v : V3) (ty : ETy) (ex : Bool) (rm : RM) :
    OutcomeWf (execVscan c v ty ex rm s) := by
  refine State.memWf_issue h (fun wid u hu => ?_) (fun u r hu hr => State.memWf_srcOvf hu _ r hr)
  simp +contextual (maxDischargeDepth := 20) [vword, v3word, hu]

theorem memWf_execVsortcCount {s : State} (h : s.MemWf) (c : Ctl) (v : V3) (win : BitVec 2) :
    OutcomeWf (execVsortcCount c v win s) := by
  refine State.memWf_issue h (fun wid u hu => ?_) (fun u r hu hr => State.memWf_srcOvf hu _ r hr)
  simp +contextual (maxDischargeDepth := 20) [vword, v3word, hu]

theorem memWf_execVsortcOrder {s : State} (h : s.MemWf) (c : Ctl) (v : V2) :
    OutcomeWf (execVsortcOrder c v s) := by
  refine State.memWf_issue h (fun wid u hu => ?_) (fun u r hu hr => State.memWf_srcOvf hu _ r hr)
  simp +contextual (maxDischargeDepth := 20) [vword, v2word, hu]

theorem memWf_execVsortcSlot {s : State} (h : s.MemWf) (c : Ctl) (v : V3) (win : BitVec 2) :
    OutcomeWf (execVsortcSlot c v win s) := by
  refine State.memWf_issue h (fun wid u hu => ?_) (fun u r hu hr => State.memWf_srcOvf hu _ r hr)
  simp +contextual (maxDischargeDepth := 20) [vword, v3word, hu]

theorem memWf_execVspselMask {s : State} (h : s.MemWf) (c : Ctl) (v : V2) (ty : ETy) :
    OutcomeWf (execVspselMask c v ty s) := by
  refine State.memWf_issue h (fun wid u hu => ?_) (fun u r hu hr => State.memWf_srcOvf hu _ r hr)
  simp +contextual (maxDischargeDepth := 20) [vword, v2word, hu]

theorem memWf_execVspselMeta {s : State} (h : s.MemWf) (c : Ctl) (v : V2) (ty : ETy) :
    OutcomeWf (execVspselMeta c v ty s) := by
  refine State.memWf_issue h (fun wid u hu => ?_) (fun u r hu hr => State.memWf_srcOvf hu _ r hr)
  simp +contextual (maxDischargeDepth := 20) [vword, v2word, hu]

theorem memWf_execVspselPack {s : State} (h : s.MemWf) (c : Ctl) (v : V2) (ty : ETy) :
    OutcomeWf (execVspselPack c v ty s) := by
  refine State.memWf_issue h (fun wid u hu => ?_) (fun u r hu hr => State.memWf_srcOvf hu _ r hr)
  simp +contextual (maxDischargeDepth := 20) [vword, v2word, hu]

theorem memWf_execVrmsnFp32 {s : State} (h : s.MemWf) (c : Ctl) (v : V4) :
    OutcomeWf (execVrmsnFp32 c v s) := by
  refine State.memWf_issue h (fun wid u hu => ?_) (fun u r hu hr => State.memWf_srcOvf hu _ r hr)
  simp +contextual (maxDischargeDepth := 20) [vword, v4word, hu]

theorem memWf_execVrmsnBf16 {s : State} (h : s.MemWf) (c : Ctl) (v : V4) :
    OutcomeWf (execVrmsnBf16 c v s) := by
  refine State.memWf_issue h (fun wid u hu => ?_) (fun u r hu hr => State.memWf_srcOvf hu _ r hr)
  simp +contextual (maxDischargeDepth := 20) [vword, v4word, hu]

theorem memWf_execVact {s : State} (h : s.MemWf) (c : Ctl) (v : V3) (ty : ETy) (fn : ActFn) :
    OutcomeWf (execVact c v ty fn s) := by
  refine State.memWf_issue h (fun wid u hu => ?_) (fun u r hu hr => ?_)
  · cases fn <;> simp (maxDischargeDepth := 20) [v2word, v3word, vword, hu]
  · cases fn <;> exact State.memWf_srcOvf hu _ r hr

theorem memWf_execVexp {s : State} (h : s.MemWf) (c : Ctl) (v : V2) (ty : ETy) :
    OutcomeWf (execVexp c v ty s) := by
  refine State.memWf_issue h (fun wid u hu => ?_) (fun u r hu hr => State.memWf_srcOvf hu _ r hr)
  simp +contextual (maxDischargeDepth := 20) [vword, v2word, hu]

theorem memWf_execVexp2 {s : State} (h : s.MemWf) (c : Ctl) (v : V2) (ty : ETy) :
    OutcomeWf (execVexp2 c v ty s) := by
  refine State.memWf_issue h (fun wid u hu => ?_) (fun u r hu hr => State.memWf_srcOvf hu _ r hr)
  simp +contextual (maxDischargeDepth := 20) [vword, v2word, hu]

theorem memWf_execVrcp {s : State} (h : s.MemWf) (c : Ctl) (v : V2) (ty : ETy) :
    OutcomeWf (execVrcp c v ty s) := by
  refine State.memWf_issue h (fun wid u hu => ?_) (fun u r hu hr => State.memWf_srcOvf hu _ r hr)
  simp +contextual (maxDischargeDepth := 20) [vword, v2word, hu]

theorem memWf_execVrsq {s : State} (h : s.MemWf) (c : Ctl) (v : V2) (ty : ETy) :
    OutcomeWf (execVrsq c v ty s) := by
  refine State.memWf_issue h (fun wid u hu => ?_) (fun u r hu hr => State.memWf_srcOvf hu _ r hr)
  simp +contextual (maxDischargeDepth := 20) [vword, v2word, hu]

theorem memWf_execVperm {s : State} (h : s.MemWf) (c : Ctl) (v : V3) (ty : ETy) (hi : Bool) :
    OutcomeWf (execVperm c v ty hi s) := by
  refine State.memWf_issue h (fun wid u hu => ?_) (fun u r hu hr => State.memWf_srcOvf hu _ r hr)
  simp +contextual (maxDischargeDepth := 20) [vword, v3word, hu]

theorem memWf_execVlds {s : State} (h : s.MemWf) (c : Ctl) (vd : QName) (xa : Reg) (imm : BitVec 15) :
    OutcomeWf (execVlds c vd xa imm s) := by
  refine State.memWf_issue h ?_ ?_ <;> simp +contextual (maxDischargeDepth := 20)

theorem memWf_execVsts {s : State} (h : s.MemWf) (c : Ctl) (va : QName) (pa : Bool) (xa : Reg) (imm : BitVec 15) :
    OutcomeWf (execVsts c va pa xa imm s) := by
  refine State.memWf_issue h (fun wid u hu => ?_) (fun u r hu hr => State.memWf_srcOvf hu _ r hr)
  simp +contextual (maxDischargeDepth := 20) [hu]

theorem memWf_execVqst {s : State} (h : s.MemWf) (c : Ctl) (xd : Reg) (vn : QName) :
    OutcomeWf (execVqst c xd vn s) := by
  refine State.memWf_issue h ?_ ?_ <;> simp +contextual (maxDischargeDepth := 20)

theorem memWf_execVmov {s : State} (h : s.MemWf) (c : Ctl) (v : V2) :
    OutcomeWf (execVmov c v s) := by
  refine State.memWf_issue h (fun wid u hu => ?_) (fun u r hu hr => State.memWf_srcOvf hu _ r hr)
  simp +contextual (maxDischargeDepth := 20) [vword, v2word, hu]

theorem memWf_execExadd {s : State} (h : s.MemWf) (c : Ctl) (d : BitVec 6) (va : QName) (pa : Bool) (ty : ETy) :
    OutcomeWf (execExadd c d va pa ty s) := by
  refine State.memWf_issue h (fun wid u hu => ?_) (fun u r hu hr => State.memWf_srcOvf hu _ r hr)
  simp +contextual (maxDischargeDepth := 20) [vword, exaddIssue, hu]

theorem memWf_execExaddL {s : State} (h : s.MemWf) (c : Ctl) (d : BitVec 6) (va : QName) (len1 : BitVec 6) (pa : Bool) (ty : ETy) :
    OutcomeWf (execExaddL c d va len1 pa ty s) := by
  refine State.memWf_issue h (fun wid u hu => ?_) (fun u r hu hr => State.memWf_srcOvf hu _ r hr)
  simp +contextual (maxDischargeDepth := 20) [vword, exaddIssue, hu]

theorem memWf_execExrd {s : State} (h : s.MemWf) (c : Ctl) (vd : QName) (a : BitVec 6) (len1 : BitVec 6) (clr : Bool) :
    OutcomeWf (execExrd c vd a len1 clr s) := by
  refine State.memWf_issue h ?_ ?_ <;> simp +contextual (maxDischargeDepth := 20)

theorem memWf_execExclr {s : State} (h : s.MemWf) (c : Ctl) (a : BitVec 6) (len1 : BitVec 6) :
    OutcomeWf (execExclr c a len1 s) := by
  refine State.memWf_issue h ?_ ?_ <;> simp +contextual (maxDischargeDepth := 20)

end Sys2Proof.Machine
end

