-- ==== Sys2Proof/Laws/PerInstr.lean ====
section
/-! SUPPORT. The operand bits that the encoder writes are read back by the decoder, one lemma per constructor (R89, R100). -/

namespace Sys2Proof

/-! ### Fields -/

theorem put_mod {n v r : Nat} (hv : v < 2 ^ n) : put n v r % 2 ^ n = v := by
  unfold put
  rw [Nat.add_mul_mod_self_left, Nat.mod_eq_of_lt hv]

theorem put_div {n v r : Nat} (hv : v < 2 ^ n) : put n v r / 2 ^ n = r := by
  unfold put
  rw [Nat.add_mul_div_left _ _ (Nat.two_pow_pos n), Nat.div_eq_of_lt hv, Nat.zero_add]

/-- A field below fields that fit in `k - n` bits. -/
theorem put_lt {n k v r : Nat} (hk : n ≤ k) (hv : v < 2 ^ n) (hr : r < 2 ^ (k - n)) : put n v r < 2 ^ k := by
  have h : 2 ^ k = 2 ^ n * 2 ^ (k - n) := by rw [← Nat.pow_add]; congr 1; omega
  have h2 : 2 ^ n * (r + 1) ≤ 2 ^ n * 2 ^ (k - n) := Nat.mul_le_mul_left _ hr
  unfold put
  rw [h]
  rw [Nat.mul_add, Nat.mul_one] at h2
  omega

@[simp] theorem rd_put {α : Type} (n r : Nat) (v : BitVec n) (k : BitVec n → Nat → Option α) :
    rd n (put n v.toNat r) k = k v r := by
  unfold rd
  rw [put_div v.isLt]
  congr 1
  apply BitVec.eq_of_toNat_eq
  simp [put_mod v.isLt]

theorem rk_put {α : Type} (n v x r : Nat) (h : v < 2 ^ n) (k : Nat → Option α) :
    rk n x (put n v r) k = if v = x then k r else none := by
  unfold rk
  rw [put_div h, put_mod h]

/-- A fixed field read as a free one. -/
theorem rd_put_nat {α : Type} (n v r : Nat) (h : v < 2 ^ n) (k : BitVec n → Nat → Option α) :
    rd n (put n v r) k = k (BitVec.ofNat n v) r := by
  unfold rd
  rw [put_div h]
  congr 1
  apply BitVec.eq_of_toNat_eq
  simp [put_mod h, Nat.mod_eq_of_lt h]

/-- A fixed field that holds something else. -/
theorem rk_other {α : Type} (n x w : Nat) (h : w % 2 ^ n ≠ x) (k : Nat → Option α) : rk n x w k = none := if_neg h

/-- A free field read as a fixed one. -/
theorem rk_put_toNat {α : Type} (n x r : Nat) (v : BitVec n) (k : Nat → Option α) :
    rk n x (put n v.toNat r) k = if v.toNat = x then k r else none := rk_put n v.toNat x r v.isLt k

@[simp] theorem rb_put {α : Type} (b : Bool) (r : Nat) (k : Bool → Nat → Option α) : rb (put 1 b.toNat r) k = k b r := by
  have h := put_mod (n := 1) (v := b.toNat) (r := r) (by cases b <;> decide)
  have h2 := put_div (n := 1) (v := b.toNat) (r := r) (by cases b <;> decide)
  unfold rb
  simp only [Nat.pow_one] at h h2
  rw [h, h2]
  cases b <;> rfl

theorem rE_put {α β : Type} {n : Nat} (of : BitVec n → Option β) (c : BitVec n) (b : β) (h : of c = some b) (r : Nat)
    (k : β → Nat → Option α) : rE of (put n c.toNat r) k = k b r := by
  unfold rE
  rw [put_div c.isLt]
  have h2 : BitVec.ofNat n (put n c.toNat r) = c := by
    apply BitVec.eq_of_toNat_eq
    simp [put_mod c.isLt]
  rw [h2, h]

@[simp] theorem rE_put_ETy {α : Type} (b : ETy) (r : Nat) (k : ETy → Nat → Option α) :
    rE ETy.ofCode (put 4 b.code.toNat r) k = k b r := rE_put _ _ _ (by cases b <;> rfl) _ _

@[simp] theorem rE_put_Cond {α : Type} (b : Cond) (r : Nat) (k : Cond → Nat → Option α) :
    rE Cond.ofCode (put 4 b.code.toNat r) k = k b r := rE_put _ _ _ (by cases b <;> rfl) _ _

@[simp] theorem rE_put_RM {α : Type} (b : RM) (r : Nat) (k : RM → Nat → Option α) :
    rE RM.ofCode (put 3 b.code.toNat r) k = k b r := rE_put _ _ _ (by cases b <;> rfl) _ _

@[simp] theorem rE_put_Mulh {α : Type} (b : Mulh) (r : Nat) (k : Mulh → Nat → Option α) :
    rE Mulh.ofCode (put 6 b.code.toNat r) k = k b r := rE_put _ _ _ (by cases b <;> rfl) _ _

@[simp] theorem rE_put_LPart {α : Type} (b : LPart) (r : Nat) (k : LPart → Nat → Option α) :
    rE LPart.ofCode (put 2 b.code.toNat r) k = k b r := rE_put _ _ _ (by cases b <;> rfl) _ _

@[simp] theorem rE_put_VCond {α : Type} (b : VCond) (r : Nat) (k : VCond → Nat → Option α) :
    rE VCond.ofCode (put 4 b.code.toNat r) k = k b r := rE_put _ _ _ (by cases b <;> rfl) _ _

@[simp] theorem rE_put_AmoOp {α : Type} (b : AmoOp) (r : Nat) (k : AmoOp → Nat → Option α) :
    rE AmoOp.ofCode (put 4 b.code.toNat r) k = k b r := rE_put _ _ _ (by cases b <;> rfl) _ _

@[simp] theorem rE_put_RedOp {α : Type} (b : RedOp) (r : Nat) (k : RedOp → Nat → Option α) :
    rE RedOp.ofCode (put 4 b.code.toNat r) k = k b r := rE_put _ _ _ (by cases b <;> rfl) _ _

@[simp] theorem rE_put_ActFn {α : Type} (b : ActFn) (r : Nat) (k : ActFn → Nat → Option α) :
    rE ActFn.ofCode (put 4 b.code.toNat r) k = k b r := rE_put _ _ _ (by cases b <;> rfl) _ _

@[simp] theorem rE_put_MaxK {α : Type} (b : MaxK) (r : Nat) (k : MaxK → Nat → Option α) :
    rE MaxK.ofCode (put 4 b.code.toNat r) k = k b r := rE_put _ _ _ (by cases b <;> rfl) _ _

@[simp] theorem rE_put_Dir6 {α : Type} (b : Dir6) (r : Nat) (k : Dir6 → Nat → Option α) :
    rE Dir6.ofCode (put 6 b.code.toNat r) k = k b r := rE_put _ _ _ (by cases b <;> rfl) _ _

@[simp] theorem rE_put_AccTy {α : Type} (b : AccTy) (r : Nat) (k : AccTy → Nat → Option α) :
    rE AccTy.ofCode (put 4 b.code.toNat r) k = k b r := rE_put _ _ _ (by cases b <;> rfl) _ _

@[simp] theorem rend_zero {α : Type} (a : α) : rend 0 a = some a := rfl

/-! ### The family -/

/-- The operand bits fit in bits 39:0, and are read back under the instruction's opcode; an event has no word. -/
def Laws.RoundTrip.Statement (i : Instr) : Prop :=
  match opcodeOf i with
  | some op => operandsOf i < 2 ^ 40 ∧ decodeOperands op (ctlOf i) (operandsOf i) = some i
  | none => encode i = none

theorem Laws.RoundTrip.nop (c : Ctl) : Laws.RoundTrip.Statement (.nop c) := by
  refine ⟨?_, ?_⟩
  · exact put_lt (by decide) (by decide) <| by decide
  · show decNop c (put 40 0 <| 0) = _
    simp [decNop, rk_put]

theorem Laws.RoundTrip.add (c : Ctl) (xd xa xb : Reg) : Laws.RoundTrip.Statement (.add c xd xa xb) := by
  refine ⟨?_, ?_⟩
  · exact put_lt (by decide) (by decide) <| put_lt (by decide) (BitVec.isLt _) <| put_lt (by decide) (BitVec.isLt _) <| put_lt (by decide) (BitVec.isLt _) <| by decide
  · show decAdd c (put 22 0 <| put 6 xb.toNat <| put 6 xa.toNat <| put 6 xd.toNat <| 0) = _
    simp [decAdd, rk_put]

theorem Laws.RoundTrip.sub (c : Ctl) (xd xa xb : Reg) : Laws.RoundTrip.Statement (.sub c xd xa xb) := by
  refine ⟨?_, ?_⟩
  · exact put_lt (by decide) (by decide) <| put_lt (by decide) (BitVec.isLt _) <| put_lt (by decide) (BitVec.isLt _) <| put_lt (by decide) (BitVec.isLt _) <| by decide
  · show decSub c (put 22 0 <| put 6 xb.toNat <| put 6 xa.toNat <| put 6 xd.toNat <| 0) = _
    simp [decSub, rk_put]

theorem Laws.RoundTrip.mul (c : Ctl) (xd xa xb : Reg) : Laws.RoundTrip.Statement (.mul c xd xa xb) := by
  refine ⟨?_, ?_⟩
  · exact put_lt (by decide) (by decide) <| put_lt (by decide) (BitVec.isLt _) <| put_lt (by decide) (BitVec.isLt _) <| put_lt (by decide) (BitVec.isLt _) <| by decide
  · show decMul c (put 22 0 <| put 6 xb.toNat <| put 6 xa.toNat <| put 6 xd.toNat <| 0) = _
    simp [decMul, rk_put]

theorem Laws.RoundTrip.mulh (c : Ctl) (xd xa xb : Reg) (m : Mulh) :
    Laws.RoundTrip.Statement (.mulh c xd xa xb m) := by
  refine ⟨?_, ?_⟩
  · exact put_lt (by decide) (by decide) <| put_lt (by decide) (BitVec.isLt _) <| put_lt (by decide) (BitVec.isLt _) <| put_lt (by decide) (BitVec.isLt _) <| put_lt (by decide) (BitVec.isLt _) <| by decide
  · show decMulh c (put 16 0 <| put 6 m.code.toNat <| put 6 xb.toNat <| put 6 xa.toNat <| put 6 xd.toNat <| 0) = _
    simp [decMulh, rk_put]

theorem Laws.RoundTrip.div (c : Ctl) (xd xa xb : Reg) (uns : Bool) :
    Laws.RoundTrip.Statement (.div c xd xa xb uns) := by
  refine ⟨?_, ?_⟩
  · exact put_lt (by decide) (by decide) <| put_lt (by decide) uns.toNat_lt <| put_lt (by decide) (by decide) <| put_lt (by decide) (BitVec.isLt _) <| put_lt (by decide) (BitVec.isLt _) <| put_lt (by decide) (BitVec.isLt _) <| by decide
  · show decDiv c (put 16 0 <| put 1 uns.toNat <| put 5 0 <| put 6 xb.toNat <| put 6 xa.toNat <| put 6 xd.toNat <| 0) = _
    simp [decDiv, rk_put]

theorem Laws.RoundTrip.rem (c : Ctl) (xd xa xb : Reg) (uns : Bool) :
    Laws.RoundTrip.Statement (.rem c xd xa xb uns) := by
  refine ⟨?_, ?_⟩
  · exact put_lt (by decide) (by decide) <| put_lt (by decide) uns.toNat_lt <| put_lt (by decide) (by decide) <| put_lt (by decide) (BitVec.isLt _) <| put_lt (by decide) (BitVec.isLt _) <| put_lt (by decide) (BitVec.isLt _) <| by decide
  · show decRem c (put 16 0 <| put 1 uns.toNat <| put 5 0 <| put 6 xb.toNat <| put 6 xa.toNat <| put 6 xd.toNat <| 0) = _
    simp [decRem, rk_put]

theorem Laws.RoundTrip.addi (c : Ctl) (xd xa : Reg) (imm : BitVec 28) :
    Laws.RoundTrip.Statement (.addi c xd xa imm) := by
  refine ⟨?_, ?_⟩
  · exact put_lt (by decide) (BitVec.isLt _) <| put_lt (by decide) (BitVec.isLt _) <| put_lt (by decide) (BitVec.isLt _) <| by decide
  · show decAddi c (put 28 imm.toNat <| put 6 xa.toNat <| put 6 xd.toNat <| 0) = _
    simp [decAddi]

theorem Laws.RoundTrip.and (c : Ctl) (xd xa xb : Reg) : Laws.RoundTrip.Statement (.and c xd xa xb) := by
  refine ⟨?_, ?_⟩
  · exact put_lt (by decide) (by decide) <| put_lt (by decide) (BitVec.isLt _) <| put_lt (by decide) (BitVec.isLt _) <| put_lt (by decide) (BitVec.isLt _) <| by decide
  · show decAnd c (put 22 0 <| put 6 xb.toNat <| put 6 xa.toNat <| put 6 xd.toNat <| 0) = _
    simp [decAnd, rk_put]

theorem Laws.RoundTrip.or (c : Ctl) (xd xa xb : Reg) : Laws.RoundTrip.Statement (.or c xd xa xb) := by
  refine ⟨?_, ?_⟩
  · exact put_lt (by decide) (by decide) <| put_lt (by decide) (BitVec.isLt _) <| put_lt (by decide) (BitVec.isLt _) <| put_lt (by decide) (BitVec.isLt _) <| by decide
  · show decOr c (put 22 0 <| put 6 xb.toNat <| put 6 xa.toNat <| put 6 xd.toNat <| 0) = _
    simp [decOr, rk_put]

theorem Laws.RoundTrip.xor (c : Ctl) (xd xa xb : Reg) : Laws.RoundTrip.Statement (.xor c xd xa xb) := by
  refine ⟨?_, ?_⟩
  · exact put_lt (by decide) (by decide) <| put_lt (by decide) (BitVec.isLt _) <| put_lt (by decide) (BitVec.isLt _) <| put_lt (by decide) (BitVec.isLt _) <| by decide
  · show decXor c (put 22 0 <| put 6 xb.toNat <| put 6 xa.toNat <| put 6 xd.toNat <| 0) = _
    simp [decXor, rk_put]

theorem Laws.RoundTrip.andi (c : Ctl) (xd xa : Reg) (imm : BitVec 28) :
    Laws.RoundTrip.Statement (.andi c xd xa imm) := by
  refine ⟨?_, ?_⟩
  · exact put_lt (by decide) (BitVec.isLt _) <| put_lt (by decide) (BitVec.isLt _) <| put_lt (by decide) (BitVec.isLt _) <| by decide
  · show decAndi c (put 28 imm.toNat <| put 6 xa.toNat <| put 6 xd.toNat <| 0) = _
    simp [decAndi]

theorem Laws.RoundTrip.ori (c : Ctl) (xd xa : Reg) (imm : BitVec 28) :
    Laws.RoundTrip.Statement (.ori c xd xa imm) := by
  refine ⟨?_, ?_⟩
  · exact put_lt (by decide) (BitVec.isLt _) <| put_lt (by decide) (BitVec.isLt _) <| put_lt (by decide) (BitVec.isLt _) <| by decide
  · show decOri c (put 28 imm.toNat <| put 6 xa.toNat <| put 6 xd.toNat <| 0) = _
    simp [decOri]

theorem Laws.RoundTrip.xori (c : Ctl) (xd xa : Reg) (imm : BitVec 28) :
    Laws.RoundTrip.Statement (.xori c xd xa imm) := by
  refine ⟨?_, ?_⟩
  · exact put_lt (by decide) (BitVec.isLt _) <| put_lt (by decide) (BitVec.isLt _) <| put_lt (by decide) (BitVec.isLt _) <| by decide
  · show decXori c (put 28 imm.toNat <| put 6 xa.toNat <| put 6 xd.toNat <| 0) = _
    simp [decXori]

theorem Laws.RoundTrip.shl (c : Ctl) (xd xa xb : Reg) (imm : BitVec 6) :
    Laws.RoundTrip.Statement (.shl c xd xa xb imm) := by
  refine ⟨?_, ?_⟩
  · exact put_lt (by decide) (BitVec.isLt _) <| put_lt (by decide) (by decide) <| put_lt (by decide) (by decide) <| put_lt (by decide) (BitVec.isLt _) <| put_lt (by decide) (BitVec.isLt _) <| put_lt (by decide) (BitVec.isLt _) <| by decide
  · show decShl c (put 6 imm.toNat <| put 10 0 <| put 6 0 <| put 6 xb.toNat <| put 6 xa.toNat <| put 6 xd.toNat <| 0) = _
    simp [decShl, rk_put]

theorem Laws.RoundTrip.shr (c : Ctl) (xd xa xb : Reg) (imm : BitVec 6) :
    Laws.RoundTrip.Statement (.shr c xd xa xb imm) := by
  refine ⟨?_, ?_⟩
  · exact put_lt (by decide) (BitVec.isLt _) <| put_lt (by decide) (by decide) <| put_lt (by decide) (by decide) <| put_lt (by decide) (BitVec.isLt _) <| put_lt (by decide) (BitVec.isLt _) <| put_lt (by decide) (BitVec.isLt _) <| by decide
  · show decShr c (put 6 imm.toNat <| put 10 0 <| put 6 0 <| put 6 xb.toNat <| put 6 xa.toNat <| put 6 xd.toNat <| 0) = _
    simp [decShr, rk_put]

theorem Laws.RoundTrip.sar (c : Ctl) (xd xa xb : Reg) (imm : BitVec 6) :
    Laws.RoundTrip.Statement (.sar c xd xa xb imm) := by
  refine ⟨?_, ?_⟩
  · exact put_lt (by decide) (BitVec.isLt _) <| put_lt (by decide) (by decide) <| put_lt (by decide) (by decide) <| put_lt (by decide) (BitVec.isLt _) <| put_lt (by decide) (BitVec.isLt _) <| put_lt (by decide) (BitVec.isLt _) <| by decide
  · show decSar c (put 6 imm.toNat <| put 10 0 <| put 6 0 <| put 6 xb.toNat <| put 6 xa.toNat <| put 6 xd.toNat <| 0) = _
    simp [decSar, rk_put]

theorem Laws.RoundTrip.rol (c : Ctl) (xd xa xb : Reg) (imm : BitVec 6) :
    Laws.RoundTrip.Statement (.rol c xd xa xb imm) := by
  refine ⟨?_, ?_⟩
  · exact put_lt (by decide) (BitVec.isLt _) <| put_lt (by decide) (by decide) <| put_lt (by decide) (by decide) <| put_lt (by decide) (BitVec.isLt _) <| put_lt (by decide) (BitVec.isLt _) <| put_lt (by decide) (BitVec.isLt _) <| by decide
  · show decRol c (put 6 imm.toNat <| put 10 0 <| put 6 0 <| put 6 xb.toNat <| put 6 xa.toNat <| put 6 xd.toNat <| 0) = _
    simp [decRol, rk_put]

theorem Laws.RoundTrip.min (c : Ctl) (xd xa xb : Reg) (uns : Bool) :
    Laws.RoundTrip.Statement (.min c xd xa xb uns) := by
  refine ⟨?_, ?_⟩
  · exact put_lt (by decide) (by decide) <| put_lt (by decide) uns.toNat_lt <| put_lt (by decide) (by decide) <| put_lt (by decide) (BitVec.isLt _) <| put_lt (by decide) (BitVec.isLt _) <| put_lt (by decide) (BitVec.isLt _) <| by decide
  · show decMin c (put 16 0 <| put 1 uns.toNat <| put 5 0 <| put 6 xb.toNat <| put 6 xa.toNat <| put 6 xd.toNat <| 0) = _
    simp [decMin, rk_put]

theorem Laws.RoundTrip.max (c : Ctl) (xd xa xb : Reg) (uns : Bool) :
    Laws.RoundTrip.Statement (.max c xd xa xb uns) := by
  refine ⟨?_, ?_⟩
  · exact put_lt (by decide) (by decide) <| put_lt (by decide) uns.toNat_lt <| put_lt (by decide) (by decide) <| put_lt (by decide) (BitVec.isLt _) <| put_lt (by decide) (BitVec.isLt _) <| put_lt (by decide) (BitVec.isLt _) <| by decide
  · show decMax c (put 16 0 <| put 1 uns.toNat <| put 5 0 <| put 6 xb.toNat <| put 6 xa.toNat <| put 6 xd.toNat <| 0) = _
    simp [decMax, rk_put]

theorem Laws.RoundTrip.cmp (c : Ctl) (cond : Cond) (xd xa xb : Reg) :
    Laws.RoundTrip.Statement (.cmp c cond xd xa xb) := by
  refine ⟨?_, ?_⟩
  · exact put_lt (by decide) (by decide) <| put_lt (by decide) (BitVec.isLt _) <| put_lt (by decide) (by decide) <| put_lt (by decide) (BitVec.isLt _) <| put_lt (by decide) (BitVec.isLt _) <| put_lt (by decide) (BitVec.isLt _) <| by decide
  · show decCmp c (put 16 0 <| put 4 cond.code.toNat <| put 2 0 <| put 6 xb.toNat <| put 6 xa.toNat <| put 6 xd.toNat <| 0) = _
    simp [decCmp, rk_put]

theorem Laws.RoundTrip.cmpi (c : Ctl) (cond : Cond) (xd xa : Reg) (imm : BitVec 24) :
    Laws.RoundTrip.Statement (.cmpi c cond xd xa imm) := by
  refine ⟨?_, ?_⟩
  · exact put_lt (by decide) (BitVec.isLt _) <| put_lt (by decide) (BitVec.isLt _) <| put_lt (by decide) (BitVec.isLt _) <| put_lt (by decide) (BitVec.isLt _) <| by decide
  · show decCmpi c (put 24 imm.toNat <| put 4 cond.code.toNat <| put 6 xa.toNat <| put 6 xd.toNat <| 0) = _
    simp [decCmpi]

theorem Laws.RoundTrip.csel (c : Ctl) (xd xs xa xb : Reg) :
    Laws.RoundTrip.Statement (.csel c xd xs xa xb) := by
  refine ⟨?_, ?_⟩
  · exact put_lt (by decide) (by decide) <| put_lt (by decide) (BitVec.isLt _) <| put_lt (by decide) (BitVec.isLt _) <| put_lt (by decide) (BitVec.isLt _) <| put_lt (by decide) (BitVec.isLt _) <| by decide
  · show decCsel c (put 16 0 <| put 6 xs.toNat <| put 6 xb.toNat <| put 6 xa.toNat <| put 6 xd.toNat <| 0) = _
    simp [decCsel, rk_put]

theorem Laws.RoundTrip.limm (c : Ctl) (xd : Reg) (part : LPart) (imm : BitVec 32) :
    Laws.RoundTrip.Statement (.limm c xd part imm) := by
  refine ⟨?_, ?_⟩
  · exact put_lt (by decide) (BitVec.isLt _) <| put_lt (by decide) (BitVec.isLt _) <| put_lt (by decide) (BitVec.isLt _) <| by decide
  · show decLimm c (put 32 imm.toNat <| put 2 part.code.toNat <| put 6 xd.toNat <| 0) = _
    simp [decLimm]

theorem Laws.RoundTrip.clz (c : Ctl) (xd xa : Reg) : Laws.RoundTrip.Statement (.clz c xd xa) := by
  refine ⟨?_, ?_⟩
  · exact put_lt (by decide) (by decide) <| put_lt (by decide) (BitVec.isLt _) <| put_lt (by decide) (BitVec.isLt _) <| by decide
  · show decClz c (put 28 0 <| put 6 xa.toNat <| put 6 xd.toNat <| 0) = _
    simp [decClz, rk_put]

theorem Laws.RoundTrip.popc (c : Ctl) (xd xa : Reg) : Laws.RoundTrip.Statement (.popc c xd xa) := by
  refine ⟨?_, ?_⟩
  · exact put_lt (by decide) (by decide) <| put_lt (by decide) (BitVec.isLt _) <| put_lt (by decide) (BitVec.isLt _) <| by decide
  · show decPopc c (put 28 0 <| put 6 xa.toNat <| put 6 xd.toNat <| 0) = _
    simp [decPopc, rk_put]

theorem Laws.RoundTrip.extr (c : Ctl) (xd xa : Reg) (sgn : Bool) (len1 : BitVec 6) (pos : BitVec 6) :
    Laws.RoundTrip.Statement (.extr c xd xa sgn len1 pos) := by
  refine ⟨?_, ?_⟩
  · exact put_lt (by decide) (BitVec.isLt _) <| put_lt (by decide) (BitVec.isLt _) <| put_lt (by decide) sgn.toNat_lt <| put_lt (by decide) (by decide) <| put_lt (by decide) (by decide) <| put_lt (by decide) (by decide) <| put_lt (by decide) (BitVec.isLt _) <| put_lt (by decide) (BitVec.isLt _) <| by decide
  · show decExtr c (put 6 pos.toNat <| put 6 len1.toNat <| put 1 sgn.toNat <| put 3 0 <| put 6 0 <| put 6 0 <| put 6 xa.toNat <| put 6 xd.toNat <| 0) = _
    simp [decExtr, rk_put]

theorem Laws.RoundTrip.insr (c : Ctl) (xd xa : Reg) (len1 : BitVec 6) (pos : BitVec 6) :
    Laws.RoundTrip.Statement (.insr c xd xa len1 pos) := by
  refine ⟨?_, ?_⟩
  · exact put_lt (by decide) (BitVec.isLt _) <| put_lt (by decide) (BitVec.isLt _) <| put_lt (by decide) (by decide) <| put_lt (by decide) (by decide) <| put_lt (by decide) (by decide) <| put_lt (by decide) (BitVec.isLt _) <| put_lt (by decide) (BitVec.isLt _) <| by decide
  · show decInsr c (put 6 pos.toNat <| put 6 len1.toNat <| put 4 0 <| put 6 0 <| put 6 0 <| put 6 xa.toNat <| put 6 xd.toNat <| 0) = _
    simp [decInsr, rk_put]

theorem Laws.RoundTrip.bswap (c : Ctl) (xd xa : Reg) : Laws.RoundTrip.Statement (.bswap c xd xa) := by
  refine ⟨?_, ?_⟩
  · exact put_lt (by decide) (by decide) <| put_lt (by decide) (BitVec.isLt _) <| put_lt (by decide) (BitVec.isLt _) <| by decide
  · show decBswap c (put 28 0 <| put 6 xa.toNat <| put 6 xd.toNat <| 0) = _
    simp [decBswap, rk_put]

theorem Laws.RoundTrip.muli (c : Ctl) (xd xa : Reg) (imm : BitVec 28) :
    Laws.RoundTrip.Statement (.muli c xd xa imm) := by
  refine ⟨?_, ?_⟩
  · exact put_lt (by decide) (BitVec.isLt _) <| put_lt (by decide) (BitVec.isLt _) <| put_lt (by decide) (BitVec.isLt _) <| by decide
  · show decMuli c (put 28 imm.toNat <| put 6 xa.toNat <| put 6 xd.toNat <| 0) = _
    simp [decMuli]

theorem Laws.RoundTrip.br (c : Ctl) (cond : Cond) (xa xb : Reg) (disp : BitVec 24) :
    Laws.RoundTrip.Statement (.br c cond xa xb disp) := by
  refine ⟨?_, ?_⟩
  · exact put_lt (by decide) (BitVec.isLt _) <| put_lt (by decide) (BitVec.isLt _) <| put_lt (by decide) (BitVec.isLt _) <| put_lt (by decide) (BitVec.isLt _) <| by decide
  · show decBr c (put 24 disp.toNat <| put 4 cond.code.toNat <| put 6 xb.toNat <| put 6 xa.toNat <| 0) = _
    simp [decBr]

theorem Laws.RoundTrip.jmpr (c : Ctl) (xd xa : Reg) (imm : BitVec 16) :
    Laws.RoundTrip.Statement (.jmpr c xd xa imm) := by
  refine ⟨?_, ?_⟩
  · exact put_lt (by decide) (BitVec.isLt _) <| put_lt (by decide) (by decide) <| put_lt (by decide) (BitVec.isLt _) <| put_lt (by decide) (BitVec.isLt _) <| by decide
  · show decJmpr c (put 16 imm.toNat <| put 12 0 <| put 6 xa.toNat <| put 6 xd.toNat <| 0) = _
    simp [decJmpr, rk_put]

theorem Laws.RoundTrip.loop (c : Ctl) (xa : Reg) (body : BitVec 16) : Laws.RoundTrip.Statement (.loop c xa body) := by
  refine ⟨?_, ?_⟩
  · exact put_lt (by decide) (BitVec.isLt _) <| put_lt (by decide) (by decide) <| put_lt (by decide) (by decide) <| put_lt (by decide) (by decide) <| put_lt (by decide) (BitVec.isLt _) <| put_lt (by decide) (by decide) <| by decide
  · show (fun w => (decLoop c w).orElse fun _ => decLoopN c w) (put 16 body.toNat <| put 3 0 <| put 3 0 <| put 6 0 <| put 6 xa.toNat <| put 6 0 <| 0) = _
    simp [decLoop, rk_put]

theorem Laws.RoundTrip.loopN (c : Ctl) (level : BitVec 3) (body : BitVec 16) :
    Laws.RoundTrip.Statement (.loopN c level body) := by
  refine ⟨?_, ?_⟩
  · exact put_lt (by decide) (BitVec.isLt _) <| put_lt (by decide) (BitVec.isLt _) <| put_lt (by decide) (by decide) <| put_lt (by decide) (by decide) <| put_lt (by decide) (by decide) <| put_lt (by decide) (by decide) <| by decide
  · show (fun w => (decLoop c w).orElse fun _ => decLoopN c w) (put 16 body.toNat <| put 3 level.toNat <| put 3 1 <| put 6 0 <| put 6 0 <| put 6 0 <| 0) = _
    simp [decLoop, decLoopN, rk_put, rk_put_toNat]

theorem Laws.RoundTrip.loopi (c : Ctl) (count : BitVec 16) (body : BitVec 12) :
    Laws.RoundTrip.Statement (.loopi c count body) := by
  refine ⟨?_, ?_⟩
  · exact put_lt (by decide) (BitVec.isLt _) <| put_lt (by decide) (BitVec.isLt _) <| put_lt (by decide) (by decide) <| by decide
  · show decLoopi c (put 12 body.toNat <| put 16 count.toNat <| put 12 0 <| 0) = _
    simp [decLoopi, rk_put]

theorem Laws.RoundTrip.cqput (c : Ctl) (dir : Dir6) (xa : Reg) : Laws.RoundTrip.Statement (.cqput c dir xa) := by
  refine ⟨?_, ?_⟩
  · exact put_lt (by decide) (by decide) <| put_lt (by decide) (BitVec.isLt _) <| put_lt (by decide) (by decide) <| put_lt (by decide) (BitVec.isLt _) <| put_lt (by decide) (by decide) <| by decide
  · show decCqput c (put 16 0 <| put 6 dir.code.toNat <| put 6 0 <| put 6 xa.toNat <| put 6 0 <| 0) = _
    simp [decCqput, rk_put]

theorem Laws.RoundTrip.cqget (c : Ctl) (xd : Reg) (dir : Dir6) : Laws.RoundTrip.Statement (.cqget c xd dir) := by
  refine ⟨?_, ?_⟩
  · exact put_lt (by decide) (by decide) <| put_lt (by decide) (BitVec.isLt _) <| put_lt (by decide) (by decide) <| put_lt (by decide) (by decide) <| put_lt (by decide) (BitVec.isLt _) <| by decide
  · show decCqget c (put 16 0 <| put 6 dir.code.toNat <| put 6 0 <| put 6 0 <| put 6 xd.toNat <| 0) = _
    simp [decCqget, rk_put]

theorem Laws.RoundTrip.cqbr (c : Ctl) (cond : Cond) (dir : Dir6) (disp : BitVec 24) :
    Laws.RoundTrip.Statement (.cqbr c cond dir disp) := by
  refine ⟨?_, ?_⟩
  · exact put_lt (by decide) (BitVec.isLt _) <| put_lt (by decide) (BitVec.isLt _) <| put_lt (by decide) (by decide) <| put_lt (by decide) (BitVec.isLt _) <| by decide
  · show decCqbr c (put 24 disp.toNat <| put 4 cond.code.toNat <| put 6 0 <| put 6 dir.code.toNat <| 0) = _
    simp [decCqbr, rk_put]

theorem Laws.RoundTrip.tkinc (c : Ctl) (n : BitVec 5) (xa : Reg) (imm : BitVec 16) :
    Laws.RoundTrip.Statement (.tkinc c n xa imm) := by
  refine ⟨?_, ?_⟩
  · exact put_lt (by decide) (BitVec.isLt _) <| put_lt (by decide) (BitVec.isLt _) <| put_lt (by decide) (by decide) <| put_lt (by decide) (by decide) <| put_lt (by decide) (BitVec.isLt _) <| put_lt (by decide) (by decide) <| by decide
  · show decTkinc c (put 16 imm.toNat <| put 5 n.toNat <| put 1 0 <| put 6 0 <| put 6 xa.toNat <| put 6 0 <| 0) = _
    simp [decTkinc, rk_put]

theorem Laws.RoundTrip.tkchk (c : Ctl) (xd : Reg) (n : BitVec 5) : Laws.RoundTrip.Statement (.tkchk c xd n) := by
  refine ⟨?_, ?_⟩
  · exact put_lt (by decide) (by decide) <| put_lt (by decide) (BitVec.isLt _) <| put_lt (by decide) (by decide) <| put_lt (by decide) (by decide) <| put_lt (by decide) (BitVec.isLt _) <| by decide
  · show decTkchk c (put 16 0 <| put 5 n.toNat <| put 1 0 <| put 12 0 <| put 6 xd.toNat <| 0) = _
    simp [decTkchk, rk_put]

theorem Laws.RoundTrip.mode (c : Ctl) (exposed : Bool) (slack : BitVec 4) :
    Laws.RoundTrip.Statement (.mode c exposed slack) := by
  refine ⟨?_, ?_⟩
  · exact put_lt (by decide) exposed.toNat_lt <| put_lt (by decide) (by decide) <| put_lt (by decide) (BitVec.isLt _) <| put_lt (by decide) (by decide) <| put_lt (by decide) (by decide) <| by decide
  · show decMode c (put 1 exposed.toNat <| put 3 0 <| put 4 slack.toNat <| put 20 0 <| put 12 0 <| 0) = _
    simp [decMode, rk_put]

theorem Laws.RoundTrip.leave (c : Ctl) (n : BitVec 8) (mask : BitVec 3) : Laws.RoundTrip.Statement (.leave c n mask) := by
  refine ⟨?_, ?_⟩
  · exact put_lt (by decide) (BitVec.isLt _) <| put_lt (by decide) (by decide) <| put_lt (by decide) (BitVec.isLt _) <| put_lt (by decide) (by decide) <| put_lt (by decide) (by decide) <| by decide
  · show decLeave c (put 3 mask.toNat <| put 5 0 <| put 8 n.toNat <| put 12 0 <| put 12 0 <| 0) = _
    simp [decLeave, rk_put]

theorem Laws.RoundTrip.capr (c : Ctl) (xd xa : Reg) (imm : BitVec 16) :
    Laws.RoundTrip.Statement (.capr c xd xa imm) := by
  refine ⟨?_, ?_⟩
  · exact put_lt (by decide) (BitVec.isLt _) <| put_lt (by decide) (by decide) <| put_lt (by decide) (BitVec.isLt _) <| put_lt (by decide) (BitVec.isLt _) <| by decide
  · show decCapr c (put 16 imm.toNat <| put 12 0 <| put 6 xa.toNat <| put 6 xd.toNat <| 0) = _
    simp [decCapr, rk_put]

theorem Laws.RoundTrip.mfs (c : Ctl) (xd : Reg) (sel : BitVec 16) : Laws.RoundTrip.Statement (.mfs c xd sel) := by
  refine ⟨?_, ?_⟩
  · exact put_lt (by decide) (BitVec.isLt _) <| put_lt (by decide) (by decide) <| put_lt (by decide) (BitVec.isLt _) <| by decide
  · show decMfs c (put 16 sel.toNat <| put 18 0 <| put 6 xd.toNat <| 0) = _
    simp [decMfs, rk_put]

theorem Laws.RoundTrip.mts (c : Ctl) (sel : BitVec 16) (xa : Reg) : Laws.RoundTrip.Statement (.mts c sel xa) := by
  refine ⟨?_, ?_⟩
  · exact put_lt (by decide) (BitVec.isLt _) <| put_lt (by decide) (by decide) <| put_lt (by decide) (BitVec.isLt _) <| put_lt (by decide) (by decide) <| by decide
  · show decMts c (put 16 sel.toNat <| put 12 0 <| put 6 xa.toNat <| put 6 0 <| 0) = _
    simp [decMts, rk_put]

theorem Laws.RoundTrip.exit (c : Ctl) : Laws.RoundTrip.Statement (.exit c) := by
  refine ⟨?_, ?_⟩
  · exact put_lt (by decide) (by decide) <| by decide
  · show decExit c (put 40 0 <| 0) = _
    simp [decExit, rk_put]

theorem Laws.RoundTrip.brk (c : Ctl) (code : BitVec 28) : Laws.RoundTrip.Statement (.brk c code) := by
  refine ⟨?_, ?_⟩
  · exact put_lt (by decide) (BitVec.isLt _) <| put_lt (by decide) (by decide) <| by decide
  · show decBrk c (put 28 code.toNat <| put 12 0 <| 0) = _
    simp [decBrk, rk_put]

theorem Laws.RoundTrip.sysc (c : Ctl) (service : BitVec 28) : Laws.RoundTrip.Statement (.sysc c service) := by
  refine ⟨?_, ?_⟩
  · exact put_lt (by decide) (BitVec.isLt _) <| put_lt (by decide) (by decide) <| by decide
  · show decSysc c (put 28 service.toNat <| put 12 0 <| 0) = _
    simp [decSysc, rk_put]

theorem Laws.RoundTrip.ldb (c : Ctl) (xd xb : Reg) (imm : BitVec 24) :
    Laws.RoundTrip.Statement (.ldb c xd xb imm) := by
  refine ⟨?_, ?_⟩
  · exact put_lt (by decide) (BitVec.isLt _) <| put_lt (by decide) (BitVec.isLt _) <| put_lt (by decide) (by decide) <| put_lt (by decide) (BitVec.isLt _) <| by decide
  · show decLdb c (put 24 imm.toNat <| put 6 xd.toNat <| put 4 0 <| put 6 xb.toNat <| 0) = _
    simp [decLdb, rk_put]

theorem Laws.RoundTrip.ldh (c : Ctl) (xd xb : Reg) (imm : BitVec 24) :
    Laws.RoundTrip.Statement (.ldh c xd xb imm) := by
  refine ⟨?_, ?_⟩
  · exact put_lt (by decide) (BitVec.isLt _) <| put_lt (by decide) (BitVec.isLt _) <| put_lt (by decide) (by decide) <| put_lt (by decide) (BitVec.isLt _) <| by decide
  · show decLdh c (put 24 imm.toNat <| put 6 xd.toNat <| put 4 0 <| put 6 xb.toNat <| 0) = _
    simp [decLdh, rk_put]

theorem Laws.RoundTrip.ldw (c : Ctl) (xd xb : Reg) (imm : BitVec 24) :
    Laws.RoundTrip.Statement (.ldw c xd xb imm) := by
  refine ⟨?_, ?_⟩
  · exact put_lt (by decide) (BitVec.isLt _) <| put_lt (by decide) (BitVec.isLt _) <| put_lt (by decide) (by decide) <| put_lt (by decide) (BitVec.isLt _) <| by decide
  · show decLdw c (put 24 imm.toNat <| put 6 xd.toNat <| put 4 0 <| put 6 xb.toNat <| 0) = _
    simp [decLdw, rk_put]

theorem Laws.RoundTrip.ldd (c : Ctl) (xd xb : Reg) (imm : BitVec 24) :
    Laws.RoundTrip.Statement (.ldd c xd xb imm) := by
  refine ⟨?_, ?_⟩
  · exact put_lt (by decide) (BitVec.isLt _) <| put_lt (by decide) (BitVec.isLt _) <| put_lt (by decide) (by decide) <| put_lt (by decide) (BitVec.isLt _) <| by decide
  · show decLdd c (put 24 imm.toNat <| put 6 xd.toNat <| put 4 0 <| put 6 xb.toNat <| 0) = _
    simp [decLdd, rk_put]

theorem Laws.RoundTrip.stb (c : Ctl) (xs xb : Reg) (imm : BitVec 24) :
    Laws.RoundTrip.Statement (.stb c xs xb imm) := by
  refine ⟨?_, ?_⟩
  · exact put_lt (by decide) (BitVec.isLt _) <| put_lt (by decide) (BitVec.isLt _) <| put_lt (by decide) (by decide) <| put_lt (by decide) (BitVec.isLt _) <| by decide
  · show decStb c (put 24 imm.toNat <| put 6 xs.toNat <| put 4 0 <| put 6 xb.toNat <| 0) = _
    simp [decStb, rk_put]

theorem Laws.RoundTrip.sth (c : Ctl) (xs xb : Reg) (imm : BitVec 24) :
    Laws.RoundTrip.Statement (.sth c xs xb imm) := by
  refine ⟨?_, ?_⟩
  · exact put_lt (by decide) (BitVec.isLt _) <| put_lt (by decide) (BitVec.isLt _) <| put_lt (by decide) (by decide) <| put_lt (by decide) (BitVec.isLt _) <| by decide
  · show decSth c (put 24 imm.toNat <| put 6 xs.toNat <| put 4 0 <| put 6 xb.toNat <| 0) = _
    simp [decSth, rk_put]

theorem Laws.RoundTrip.stw (c : Ctl) (xs xb : Reg) (imm : BitVec 24) :
    Laws.RoundTrip.Statement (.stw c xs xb imm) := by
  refine ⟨?_, ?_⟩
  · exact put_lt (by decide) (BitVec.isLt _) <| put_lt (by decide) (BitVec.isLt _) <| put_lt (by decide) (by decide) <| put_lt (by decide) (BitVec.isLt _) <| by decide
  · show decStw c (put 24 imm.toNat <| put 6 xs.toNat <| put 4 0 <| put 6 xb.toNat <| 0) = _
    simp [decStw, rk_put]

theorem Laws.RoundTrip.std (c : Ctl) (xs xb : Reg) (imm : BitVec 24) :
    Laws.RoundTrip.Statement (.std c xs xb imm) := by
  refine ⟨?_, ?_⟩
  · exact put_lt (by decide) (BitVec.isLt _) <| put_lt (by decide) (BitVec.isLt _) <| put_lt (by decide) (by decide) <| put_lt (by decide) (BitVec.isLt _) <| by decide
  · show decStd c (put 24 imm.toNat <| put 6 xs.toNat <| put 4 0 <| put 6 xb.toNat <| 0) = _
    simp [decStd, rk_put]

theorem Laws.RoundTrip.vld (c : Ctl) (vq : QName) (xb : Reg) (imm : BitVec 24) :
    Laws.RoundTrip.Statement (.vld c vq xb imm) := by
  refine ⟨?_, ?_⟩
  · exact put_lt (by decide) (BitVec.isLt _) <| put_lt (by decide) (BitVec.isLt _) <| put_lt (by decide) (BitVec.isLt _) <| by decide
  · show decVld c (put 24 imm.toNat <| put 10 vq.toNat <| put 6 xb.toNat <| 0) = _
    simp [decVld]

theorem Laws.RoundTrip.loadComplete (k : Nat) (ctx : Ctx) : Laws.RoundTrip.Statement (.loadComplete k ctx) := rfl

theorem Laws.RoundTrip.spld (c : Ctl) (e : EArgs) : Laws.RoundTrip.Statement (.spld c e) := by
  refine ⟨?_, ?_⟩
  · exact put_lt (by decide) (BitVec.isLt _) <| put_lt (by decide) (by decide) <| put_lt (by decide) (BitVec.isLt _) <| put_lt (by decide) (BitVec.isLt _) <| put_lt (by decide) (BitVec.isLt _) <| put_lt (by decide) (BitVec.isLt _) <| by decide
  · show decSpld c (put 16 e.rcd.toNat <| put 4 0 <| put 5 e.tki2.toNat <| put 5 e.tki1.toNat <| put 5 e.tki0.toNat <| put 5 e.tko.toNat <| 0) = _
    simp [decSpld, rk_put]

theorem Laws.RoundTrip.spst (c : Ctl) (e : EArgs) : Laws.RoundTrip.Statement (.spst c e) := by
  refine ⟨?_, ?_⟩
  · exact put_lt (by decide) (BitVec.isLt _) <| put_lt (by decide) (by decide) <| put_lt (by decide) (BitVec.isLt _) <| put_lt (by decide) (BitVec.isLt _) <| put_lt (by decide) (BitVec.isLt _) <| put_lt (by decide) (BitVec.isLt _) <| by decide
  · show decSpst c (put 16 e.rcd.toNat <| put 4 0 <| put 5 e.tki2.toNat <| put 5 e.tki1.toNat <| put 5 e.tki0.toNat <| put 5 e.tko.toNat <| 0) = _
    simp [decSpst, rk_put]

theorem Laws.RoundTrip.gath (c : Ctl) (e : EArgs) : Laws.RoundTrip.Statement (.gath c e) := by
  refine ⟨?_, ?_⟩
  · exact put_lt (by decide) (BitVec.isLt _) <| put_lt (by decide) (by decide) <| put_lt (by decide) (BitVec.isLt _) <| put_lt (by decide) (BitVec.isLt _) <| put_lt (by decide) (BitVec.isLt _) <| put_lt (by decide) (BitVec.isLt _) <| by decide
  · show decGath c (put 16 e.rcd.toNat <| put 4 0 <| put 5 e.tki2.toNat <| put 5 e.tki1.toNat <| put 5 e.tki0.toNat <| put 5 e.tko.toNat <| 0) = _
    simp [decGath, rk_put]

theorem Laws.RoundTrip.scat (c : Ctl) (e : EArgs) : Laws.RoundTrip.Statement (.scat c e) := by
  refine ⟨?_, ?_⟩
  · exact put_lt (by decide) (BitVec.isLt _) <| put_lt (by decide) (by decide) <| put_lt (by decide) (BitVec.isLt _) <| put_lt (by decide) (BitVec.isLt _) <| put_lt (by decide) (BitVec.isLt _) <| put_lt (by decide) (BitVec.isLt _) <| by decide
  · show decScat c (put 16 e.rcd.toNat <| put 4 0 <| put 5 e.tki2.toNat <| put 5 e.tki1.toNat <| put 5 e.tki0.toNat <| put 5 e.tko.toNat <| 0) = _
    simp [decScat, rk_put]

theorem Laws.RoundTrip.ldt (c : Ctl) (e : EArgs) : Laws.RoundTrip.Statement (.ldt c e) := by
  refine ⟨?_, ?_⟩
  · exact put_lt (by decide) (BitVec.isLt _) <| put_lt (by decide) (by decide) <| put_lt (by decide) (BitVec.isLt _) <| put_lt (by decide) (BitVec.isLt _) <| put_lt (by decide) (BitVec.isLt _) <| put_lt (by decide) (BitVec.isLt _) <| by decide
  · show decLdt c (put 16 e.rcd.toNat <| put 4 0 <| put 5 e.tki2.toNat <| put 5 e.tki1.toNat <| put 5 e.tki0.toNat <| put 5 e.tko.toNat <| 0) = _
    simp [decLdt, rk_put]

theorem Laws.RoundTrip.ferry (c : Ctl) (e : EArgs) : Laws.RoundTrip.Statement (.ferry c e) := by
  refine ⟨?_, ?_⟩
  · exact put_lt (by decide) (BitVec.isLt _) <| put_lt (by decide) (by decide) <| put_lt (by decide) (BitVec.isLt _) <| put_lt (by decide) (BitVec.isLt _) <| put_lt (by decide) (BitVec.isLt _) <| put_lt (by decide) (BitVec.isLt _) <| by decide
  · show (fun w => (decFerry c w).orElse fun _ => (decFerryTier c w).orElse fun _ => decFerryQ c w) (put 16 e.rcd.toNat <| put 4 0 <| put 5 e.tki2.toNat <| put 5 e.tki1.toNat <| put 5 e.tki0.toNat <| put 5 e.tko.toNat <| 0) = _
    simp [decFerry, rk_put]

theorem Laws.RoundTrip.ferryTier (c : Ctl) (e : EArgs) : Laws.RoundTrip.Statement (.ferryTier c e) := by
  refine ⟨?_, ?_⟩
  · exact put_lt (by decide) (BitVec.isLt _) <| put_lt (by decide) (by decide) <| put_lt (by decide) (BitVec.isLt _) <| put_lt (by decide) (BitVec.isLt _) <| put_lt (by decide) (BitVec.isLt _) <| put_lt (by decide) (BitVec.isLt _) <| by decide
  · show (fun w => (decFerry c w).orElse fun _ => (decFerryTier c w).orElse fun _ => decFerryQ c w) (put 16 e.rcd.toNat <| put 4 1 <| put 5 e.tki2.toNat <| put 5 e.tki1.toNat <| put 5 e.tki0.toNat <| put 5 e.tko.toNat <| 0) = _
    simp [decFerry, decFerryTier, rk_put]

theorem Laws.RoundTrip.ferryQ (c : Ctl) (e : EArgs) : Laws.RoundTrip.Statement (.ferryQ c e) := by
  refine ⟨?_, ?_⟩
  · exact put_lt (by decide) (BitVec.isLt _) <| put_lt (by decide) (by decide) <| put_lt (by decide) (BitVec.isLt _) <| put_lt (by decide) (BitVec.isLt _) <| put_lt (by decide) (BitVec.isLt _) <| put_lt (by decide) (BitVec.isLt _) <| by decide
  · show (fun w => (decFerry c w).orElse fun _ => (decFerryTier c w).orElse fun _ => decFerryQ c w) (put 16 e.rcd.toNat <| put 4 2 <| put 5 e.tki2.toNat <| put 5 e.tki1.toNat <| put 5 e.tki0.toNat <| put 5 e.tko.toNat <| 0) = _
    simp [decFerry, decFerryTier, decFerryQ, rk_put]

theorem Laws.RoundTrip.engineCmdComplete (k : Nat) (ctx : Ctx) (id : Nat) :
    Laws.RoundTrip.Statement (.engineCmdComplete k ctx id) := rfl

theorem Laws.RoundTrip.mark (c : Ctl) (id : BitVec 8) : Laws.RoundTrip.Statement (.mark c id) := by
  refine ⟨?_, ?_⟩
  · exact put_lt (by decide) (BitVec.isLt _) <| put_lt (by decide) (by decide) <| put_lt (by decide) (by decide) <| by decide
  · show decMark c (put 8 id.toNat <| put 20 0 <| put 12 0 <| 0) = _
    simp [decMark, rk_put]

theorem Laws.RoundTrip.fence (c : Ctl) (e : Bool) (scope : BitVec 2) : Laws.RoundTrip.Statement (.fence c e scope) := by
  refine ⟨?_, ?_⟩
  · exact put_lt (by decide) (BitVec.isLt _) <| put_lt (by decide) e.toNat_lt <| put_lt (by decide) (by decide) <| put_lt (by decide) (by decide) <| by decide
  · show decFence c (put 2 scope.toNat <| put 1 e.toNat <| put 25 0 <| put 12 0 <| 0) = _
    simp [decFence, rk_put]

theorem Laws.RoundTrip.amo (c : Ctl) (op : AmoOp) (dbl : Bool) (xd xa xb : Reg) (imm : BitVec 16) :
    Laws.RoundTrip.Statement (.amo c op dbl xd xa xb imm) := by
  refine ⟨?_, ?_⟩
  · exact put_lt (by decide) (BitVec.isLt _) <| put_lt (by decide) (BitVec.isLt _) <| put_lt (by decide) dbl.toNat_lt <| put_lt (by decide) (by decide) <| put_lt (by decide) (BitVec.isLt _) <| put_lt (by decide) (BitVec.isLt _) <| put_lt (by decide) (BitVec.isLt _) <| by decide
  · show decAmo c (put 16 imm.toNat <| put 4 op.code.toNat <| put 1 dbl.toNat <| put 1 0 <| put 6 xb.toNat <| put 6 xa.toNat <| put 6 xd.toNat <| 0) = _
    simp [decAmo, rk_put]

theorem Laws.RoundTrip.red (c : Ctl) (op : RedOp) (e : EArgs) : Laws.RoundTrip.Statement (.red c op e) := by
  refine ⟨?_, ?_⟩
  · exact put_lt (by decide) (BitVec.isLt _) <| put_lt (by decide) (BitVec.isLt _) <| put_lt (by decide) (BitVec.isLt _) <| put_lt (by decide) (BitVec.isLt _) <| put_lt (by decide) (BitVec.isLt _) <| put_lt (by decide) (BitVec.isLt _) <| by decide
  · show decRed c (put 16 e.rcd.toNat <| put 4 op.code.toNat <| put 5 e.tki2.toNat <| put 5 e.tki1.toNat <| put 5 e.tki0.toNat <| put 5 e.tko.toNat <| 0) = _
    simp [decRed]

theorem Laws.RoundTrip.redApply (k : Nat) (ctx : Ctx) (id : Nat) : Laws.RoundTrip.Statement (.redApply k ctx id) := rfl

theorem Laws.RoundTrip.rclaimCfg (c : Ctl) (ring : BitVec 4) (xa : Reg) : Laws.RoundTrip.Statement (.rclaimCfg c ring xa) := by
  refine ⟨?_, ?_⟩
  · exact put_lt (by decide) (by decide) <| put_lt (by decide) (BitVec.isLt _) <| put_lt (by decide) (by decide) <| put_lt (by decide) (by decide) <| put_lt (by decide) (BitVec.isLt _) <| put_lt (by decide) (by decide) <| by decide
  · show (fun w => (decRclaimCfg c w).orElse fun _ => decRclaim c w) (put 16 0 <| put 4 ring.toNat <| put 2 1 <| put 6 0 <| put 6 xa.toNat <| put 6 0 <| 0) = _
    simp [decRclaimCfg, rk_put]

theorem Laws.RoundTrip.rclaim (c : Ctl) (xd : Reg) (ring : BitVec 4) : Laws.RoundTrip.Statement (.rclaim c xd ring) := by
  refine ⟨?_, ?_⟩
  · exact put_lt (by decide) (by decide) <| put_lt (by decide) (BitVec.isLt _) <| put_lt (by decide) (by decide) <| put_lt (by decide) (by decide) <| put_lt (by decide) (BitVec.isLt _) <| by decide
  · show (fun w => (decRclaimCfg c w).orElse fun _ => decRclaim c w) (put 16 0 <| put 4 ring.toNat <| put 2 0 <| put 12 0 <| put 6 xd.toNat <| 0) = _
    simp [decRclaimCfg, decRclaim, rk_put]

theorem Laws.RoundTrip.rfill (c : Ctl) (ring : BitVec 4) : Laws.RoundTrip.Statement (.rfill c ring) := by
  refine ⟨?_, ?_⟩
  · exact put_lt (by decide) (by decide) <| put_lt (by decide) (BitVec.isLt _) <| put_lt (by decide) (by decide) <| put_lt (by decide) (by decide) <| by decide
  · show decRfill c (put 16 0 <| put 4 ring.toNat <| put 2 0 <| put 18 0 <| 0) = _
    simp [decRfill, rk_put]

theorem Laws.RoundTrip.rwaitf (c : Ctl) (xd : Reg) (ring : BitVec 4) (n : BitVec 16) :
    Laws.RoundTrip.Statement (.rwaitf c xd ring n) := by
  refine ⟨?_, ?_⟩
  · exact put_lt (by decide) (BitVec.isLt _) <| put_lt (by decide) (BitVec.isLt _) <| put_lt (by decide) (by decide) <| put_lt (by decide) (by decide) <| put_lt (by decide) (BitVec.isLt _) <| by decide
  · show decRwaitf c (put 16 n.toNat <| put 4 ring.toNat <| put 2 0 <| put 12 0 <| put 6 xd.toNat <| 0) = _
    simp [decRwaitf, rk_put]

theorem Laws.RoundTrip.rwaite (c : Ctl) (xd : Reg) (ring : BitVec 4) (n : BitVec 16) :
    Laws.RoundTrip.Statement (.rwaite c xd ring n) := by
  refine ⟨?_, ?_⟩
  · exact put_lt (by decide) (BitVec.isLt _) <| put_lt (by decide) (BitVec.isLt _) <| put_lt (by decide) (by decide) <| put_lt (by decide) (by decide) <| put_lt (by decide) (BitVec.isLt _) <| by decide
  · show decRwaite c (put 16 n.toNat <| put 4 ring.toNat <| put 2 0 <| put 12 0 <| put 6 xd.toNat <| 0) = _
    simp [decRwaite, rk_put]

theorem Laws.RoundTrip.rtake (c : Ctl) (xd : Reg) (ring : BitVec 4) : Laws.RoundTrip.Statement (.rtake c xd ring) := by
  refine ⟨?_, ?_⟩
  · exact put_lt (by decide) (by decide) <| put_lt (by decide) (BitVec.isLt _) <| put_lt (by decide) (by decide) <| put_lt (by decide) (by decide) <| put_lt (by decide) (BitVec.isLt _) <| by decide
  · show decRtake c (put 16 0 <| put 4 ring.toNat <| put 2 0 <| put 12 0 <| put 6 xd.toNat <| 0) = _
    simp [decRtake, rk_put]

theorem Laws.RoundTrip.rfree (c : Ctl) (ring : BitVec 4) : Laws.RoundTrip.Statement (.rfree c ring) := by
  refine ⟨?_, ?_⟩
  · exact put_lt (by decide) (by decide) <| put_lt (by decide) (BitVec.isLt _) <| put_lt (by decide) (by decide) <| put_lt (by decide) (by decide) <| by decide
  · show decRfree c (put 16 0 <| put 4 ring.toNat <| put 2 0 <| put 18 0 <| 0) = _
    simp [decRfree, rk_put]

theorem Laws.RoundTrip.msend (c : Ctl) (e : EArgs) : Laws.RoundTrip.Statement (.msend c e) := by
  refine ⟨?_, ?_⟩
  · exact put_lt (by decide) (BitVec.isLt _) <| put_lt (by decide) (by decide) <| put_lt (by decide) (BitVec.isLt _) <| put_lt (by decide) (BitVec.isLt _) <| put_lt (by decide) (BitVec.isLt _) <| put_lt (by decide) (BitVec.isLt _) <| by decide
  · show decMsend c (put 16 e.rcd.toNat <| put 4 0 <| put 5 e.tki2.toNat <| put 5 e.tki1.toNat <| put 5 e.tki0.toNat <| put 5 e.tko.toNat <| 0) = _
    simp [decMsend, rk_put]

theorem Laws.RoundTrip.msendGrant (k : Nat) (ctx : Ctx) (id : Nat) : Laws.RoundTrip.Statement (.msendGrant k ctx id) := rfl

theorem Laws.RoundTrip.mrecvCfg (c : Ctl) (mq : BitVec 2) (xa : Reg) : Laws.RoundTrip.Statement (.mrecvCfg c mq xa) := by
  refine ⟨?_, ?_⟩
  · exact put_lt (by decide) (by decide) <| put_lt (by decide) (BitVec.isLt _) <| put_lt (by decide) (by decide) <| put_lt (by decide) (by decide) <| put_lt (by decide) (by decide) <| put_lt (by decide) (BitVec.isLt _) <| put_lt (by decide) (by decide) <| by decide
  · show (fun w => (decMrecvCfg c w).orElse fun _ => (decMrecv c w).orElse fun _ => decMrecvNb c w) (put 16 0 <| put 2 mq.toNat <| put 2 1 <| put 2 0 <| put 6 0 <| put 6 xa.toNat <| put 6 0 <| 0) = _
    simp [decMrecvCfg, rk_put]

theorem Laws.RoundTrip.mrecv (c : Ctl) (xd : Reg) (mq : BitVec 2) : Laws.RoundTrip.Statement (.mrecv c xd mq) := by
  refine ⟨?_, ?_⟩
  · exact put_lt (by decide) (by decide) <| put_lt (by decide) (BitVec.isLt _) <| put_lt (by decide) (by decide) <| put_lt (by decide) (by decide) <| put_lt (by decide) (by decide) <| put_lt (by decide) (BitVec.isLt _) <| by decide
  · show (fun w => (decMrecvCfg c w).orElse fun _ => (decMrecv c w).orElse fun _ => decMrecvNb c w) (put 16 0 <| put 2 mq.toNat <| put 2 0 <| put 2 0 <| put 12 0 <| put 6 xd.toNat <| 0) = _
    simp [decMrecvCfg, decMrecv, rk_put]

theorem Laws.RoundTrip.mrecvNb (c : Ctl) (xd : Reg) (mq : BitVec 2) : Laws.RoundTrip.Statement (.mrecvNb c xd mq) := by
  refine ⟨?_, ?_⟩
  · exact put_lt (by decide) (by decide) <| put_lt (by decide) (BitVec.isLt _) <| put_lt (by decide) (by decide) <| put_lt (by decide) (by decide) <| put_lt (by decide) (by decide) <| put_lt (by decide) (BitVec.isLt _) <| by decide
  · show (fun w => (decMrecvCfg c w).orElse fun _ => (decMrecv c w).orElse fun _ => decMrecvNb c w) (put 16 0 <| put 2 mq.toNat <| put 2 2 <| put 2 0 <| put 12 0 <| put 6 xd.toNat <| 0) = _
    simp [decMrecvCfg, decMrecv, decMrecvNb, rk_put]

theorem Laws.RoundTrip.mqcred (c : Ctl) (mq : BitVec 2) (n : BitVec 16) : Laws.RoundTrip.Statement (.mqcred c mq n) := by
  refine ⟨?_, ?_⟩
  · exact put_lt (by decide) (BitVec.isLt _) <| put_lt (by decide) (BitVec.isLt _) <| put_lt (by decide) (by decide) <| put_lt (by decide) (by decide) <| by decide
  · show decMqcred c (put 16 n.toNat <| put 2 mq.toNat <| put 4 0 <| put 18 0 <| 0) = _
    simp [decMqcred, rk_put]

theorem Laws.RoundTrip.stn (c : Ctl) (e : EArgs) : Laws.RoundTrip.Statement (.stn c e) := by
  refine ⟨?_, ?_⟩
  · exact put_lt (by decide) (BitVec.isLt _) <| put_lt (by decide) (by decide) <| put_lt (by decide) (BitVec.isLt _) <| put_lt (by decide) (BitVec.isLt _) <| put_lt (by decide) (BitVec.isLt _) <| put_lt (by decide) (BitVec.isLt _) <| by decide
  · show (fun w => (decStn c w).orElse fun _ => decStnS c w) (put 16 e.rcd.toNat <| put 4 0 <| put 5 e.tki2.toNat <| put 5 e.tki1.toNat <| put 5 e.tki0.toNat <| put 5 e.tko.toNat <| 0) = _
    simp [decStn, rk_put]

theorem Laws.RoundTrip.stnS (c : Ctl) (e : EArgs) : Laws.RoundTrip.Statement (.stnS c e) := by
  refine ⟨?_, ?_⟩
  · exact put_lt (by decide) (BitVec.isLt _) <| put_lt (by decide) (by decide) <| put_lt (by decide) (BitVec.isLt _) <| put_lt (by decide) (BitVec.isLt _) <| put_lt (by decide) (BitVec.isLt _) <| put_lt (by decide) (BitVec.isLt _) <| by decide
  · show (fun w => (decStn c w).orElse fun _ => decStnS c w) (put 16 e.rcd.toNat <| put 4 1 <| put 5 e.tki2.toNat <| put 5 e.tki1.toNat <| put 5 e.tki0.toNat <| put 5 e.tko.toNat <| 0) = _
    simp [decStn, decStnS, rk_put]

theorem Laws.RoundTrip.stnNameReturn (k : Nat) (ctx : Ctx) (id : Nat) :
    Laws.RoundTrip.Statement (.stnNameReturn k ctx id) := rfl

theorem Laws.RoundTrip.baddr (c : Ctl) (xd xa xb : Reg) (imm : BitVec 16) :
    Laws.RoundTrip.Statement (.baddr c xd xa xb imm) := by
  refine ⟨?_, ?_⟩
  · exact put_lt (by decide) (BitVec.isLt _) <| put_lt (by decide) (by decide) <| put_lt (by decide) (BitVec.isLt _) <| put_lt (by decide) (BitVec.isLt _) <| put_lt (by decide) (BitVec.isLt _) <| by decide
  · show decBaddr c (put 16 imm.toNat <| put 6 0 <| put 6 xb.toNat <| put 6 xa.toNat <| put 6 xd.toNat <| 0) = _
    simp [decBaddr, rk_put]

theorem Laws.RoundTrip.bshare (c : Ctl) (xa : Reg) : Laws.RoundTrip.Statement (.bshare c xa) := by
  refine ⟨?_, ?_⟩
  · exact put_lt (by decide) (by decide) <| put_lt (by decide) (BitVec.isLt _) <| put_lt (by decide) (by decide) <| by decide
  · show decBshare c (put 28 0 <| put 6 xa.toNat <| put 6 0 <| 0) = _
    simp [decBshare, rk_put]

theorem Laws.RoundTrip.rlq (c : Ctl) (xa : Reg) : Laws.RoundTrip.Statement (.rlq c xa) := by
  refine ⟨?_, ?_⟩
  · exact put_lt (by decide) (by decide) <| put_lt (by decide) (BitVec.isLt _) <| put_lt (by decide) (by decide) <| by decide
  · show decRlq c (put 28 0 <| put 6 xa.toNat <| put 6 0 <| 0) = _
    simp [decRlq, rk_put]

theorem Laws.RoundTrip.lbind (c : Ctl) (slot : BitVec 6) (xa : Reg) (shr : Bool) :
    Laws.RoundTrip.Statement (.lbind c slot xa shr) := by
  refine ⟨?_, ?_⟩
  · exact put_lt (by decide) shr.toNat_lt <| put_lt (by decide) (by decide) <| put_lt (by decide) (BitVec.isLt _) <| put_lt (by decide) (by decide) <| put_lt (by decide) (BitVec.isLt _) <| put_lt (by decide) (by decide) <| by decide
  · show decLbind c (put 1 shr.toNat <| put 15 0 <| put 6 slot.toNat <| put 6 0 <| put 6 xa.toNat <| put 6 0 <| 0) = _
    simp [decLbind, rk_put]

theorem Laws.RoundTrip.lunbind (c : Ctl) (slot : BitVec 6) : Laws.RoundTrip.Statement (.lunbind c slot) := by
  refine ⟨?_, ?_⟩
  · exact put_lt (by decide) (by decide) <| put_lt (by decide) (BitVec.isLt _) <| put_lt (by decide) (by decide) <| by decide
  · show decLunbind c (put 16 0 <| put 6 slot.toNat <| put 18 0 <| 0) = _
    simp [decLunbind, rk_put]

theorem Laws.RoundTrip.tspawn (c : Ctl) (e : EArgs) : Laws.RoundTrip.Statement (.tspawn c e) := by
  refine ⟨?_, ?_⟩
  · exact put_lt (by decide) (BitVec.isLt _) <| put_lt (by decide) (by decide) <| put_lt (by decide) (BitVec.isLt _) <| put_lt (by decide) (BitVec.isLt _) <| put_lt (by decide) (BitVec.isLt _) <| put_lt (by decide) (BitVec.isLt _) <| by decide
  · show decTspawn c (put 16 e.rcd.toNat <| put 4 0 <| put 5 e.tki2.toNat <| put 5 e.tki1.toNat <| put 5 e.tki0.toNat <| put 5 e.tko.toNat <| 0) = _
    simp [decTspawn, rk_put]

theorem Laws.RoundTrip.tgraph (c : Ctl) (e : EArgs) : Laws.RoundTrip.Statement (.tgraph c e) := by
  refine ⟨?_, ?_⟩
  · exact put_lt (by decide) (BitVec.isLt _) <| put_lt (by decide) (by decide) <| put_lt (by decide) (BitVec.isLt _) <| put_lt (by decide) (BitVec.isLt _) <| put_lt (by decide) (BitVec.isLt _) <| put_lt (by decide) (BitVec.isLt _) <| by decide
  · show decTgraph c (put 16 e.rcd.toNat <| put 4 0 <| put 5 e.tki2.toNat <| put 5 e.tki1.toNat <| put 5 e.tki0.toNat <| put 5 e.tko.toNat <| 0) = _
    simp [decTgraph, rk_put]

theorem Laws.RoundTrip.tyieldFront (c : Ctl) : Laws.RoundTrip.Statement (.tyieldFront c) := by
  refine ⟨?_, ?_⟩
  · exact put_lt (by decide) (by decide) <| put_lt (by decide) (by decide) <| put_lt (by decide) (by decide) <| put_lt (by decide) (by decide) <| put_lt (by decide) (by decide) <| by decide
  · show (fun w => (decTyieldFront c w).orElse fun _ => decTyieldPast c w) (put 16 0 <| put 6 0 <| put 6 0 <| put 6 0 <| put 6 0 <| 0) = _
    simp [decTyieldFront, rk_put]

theorem Laws.RoundTrip.tyieldPast (c : Ctl) (xa : Reg) : Laws.RoundTrip.Statement (.tyieldPast c xa) := by
  refine ⟨?_, ?_⟩
  · exact put_lt (by decide) (by decide) <| put_lt (by decide) (by decide) <| put_lt (by decide) (by decide) <| put_lt (by decide) (BitVec.isLt _) <| put_lt (by decide) (by decide) <| by decide
  · show (fun w => (decTyieldFront c w).orElse fun _ => decTyieldPast c w) (put 16 0 <| put 6 1 <| put 6 0 <| put 6 xa.toNat <| put 6 0 <| 0) = _
    simp [decTyieldFront, decTyieldPast, rk_put]

theorem Laws.RoundTrip.collAllred (c : Ctl) (e : EArgs) : Laws.RoundTrip.Statement (.collAllred c e) := by
  refine ⟨?_, ?_⟩
  · exact put_lt (by decide) (BitVec.isLt _) <| put_lt (by decide) (by decide) <| put_lt (by decide) (BitVec.isLt _) <| put_lt (by decide) (BitVec.isLt _) <| put_lt (by decide) (BitVec.isLt _) <| put_lt (by decide) (BitVec.isLt _) <| by decide
  · show (fun w => (decCollAllred c w).orElse fun _ => (decCollRed c w).orElse fun _ => (decCollBcast c w).orElse fun _ => decCollBar c w) (put 16 e.rcd.toNat <| put 4 0 <| put 5 e.tki2.toNat <| put 5 e.tki1.toNat <| put 5 e.tki0.toNat <| put 5 e.tko.toNat <| 0) = _
    simp [decCollAllred, rk_put]

theorem Laws.RoundTrip.collRed (c : Ctl) (e : EArgs) : Laws.RoundTrip.Statement (.collRed c e) := by
  refine ⟨?_, ?_⟩
  · exact put_lt (by decide) (BitVec.isLt _) <| put_lt (by decide) (by decide) <| put_lt (by decide) (BitVec.isLt _) <| put_lt (by decide) (BitVec.isLt _) <| put_lt (by decide) (BitVec.isLt _) <| put_lt (by decide) (BitVec.isLt _) <| by decide
  · show (fun w => (decCollAllred c w).orElse fun _ => (decCollRed c w).orElse fun _ => (decCollBcast c w).orElse fun _ => decCollBar c w) (put 16 e.rcd.toNat <| put 4 1 <| put 5 e.tki2.toNat <| put 5 e.tki1.toNat <| put 5 e.tki0.toNat <| put 5 e.tko.toNat <| 0) = _
    simp [decCollAllred, decCollRed, rk_put]

theorem Laws.RoundTrip.collBcast (c : Ctl) (e : EArgs) : Laws.RoundTrip.Statement (.collBcast c e) := by
  refine ⟨?_, ?_⟩
  · exact put_lt (by decide) (BitVec.isLt _) <| put_lt (by decide) (by decide) <| put_lt (by decide) (BitVec.isLt _) <| put_lt (by decide) (BitVec.isLt _) <| put_lt (by decide) (BitVec.isLt _) <| put_lt (by decide) (BitVec.isLt _) <| by decide
  · show (fun w => (decCollAllred c w).orElse fun _ => (decCollRed c w).orElse fun _ => (decCollBcast c w).orElse fun _ => decCollBar c w) (put 16 e.rcd.toNat <| put 4 2 <| put 5 e.tki2.toNat <| put 5 e.tki1.toNat <| put 5 e.tki0.toNat <| put 5 e.tko.toNat <| 0) = _
    simp [decCollAllred, decCollRed, decCollBcast, rk_put]

theorem Laws.RoundTrip.collBar (c : Ctl) (e : EArgs) : Laws.RoundTrip.Statement (.collBar c e) := by
  refine ⟨?_, ?_⟩
  · exact put_lt (by decide) (BitVec.isLt _) <| put_lt (by decide) (by decide) <| put_lt (by decide) (BitVec.isLt _) <| put_lt (by decide) (BitVec.isLt _) <| put_lt (by decide) (BitVec.isLt _) <| put_lt (by decide) (BitVec.isLt _) <| by decide
  · show (fun w => (decCollAllred c w).orElse fun _ => (decCollRed c w).orElse fun _ => (decCollBcast c w).orElse fun _ => decCollBar c w) (put 16 e.rcd.toNat <| put 4 3 <| put 5 e.tki2.toNat <| put 5 e.tki1.toNat <| put 5 e.tki0.toNat <| put 5 e.tko.toNat <| 0) = _
    simp [decCollAllred, decCollRed, decCollBcast, decCollBar, rk_put]

theorem Laws.RoundTrip.collContribution (k : Nat) (ctx : Ctx) (id : Nat) :
    Laws.RoundTrip.Statement (.collContribution k ctx id) := rfl

theorem Laws.RoundTrip.collDeadlineExpire (part group cnum : Nat) :
    Laws.RoundTrip.Statement (.collDeadlineExpire part group cnum) := rfl

theorem Laws.RoundTrip.collMemberTimeout (k : Nat) (ctx : Ctx) (id : Nat) :
    Laws.RoundTrip.Statement (.collMemberTimeout k ctx id) := rfl

theorem Laws.RoundTrip.vadd (c : Ctl) (v : V3) (ty : ETy) (md : VMode) : Laws.RoundTrip.Statement (.vadd c v ty md) := by
  refine ⟨?_, ?_⟩
  · exact put_lt (by decide) (BitVec.isLt _) <| put_lt (by decide) md.sat.toNat_lt <| put_lt (by decide) (BitVec.isLt _) <| put_lt (by decide) v.pb.toNat_lt <| put_lt (by decide) v.pa.toNat_lt <| put_lt (by decide) (BitVec.isLt _) <| put_lt (by decide) (BitVec.isLt _) <| put_lt (by decide) (BitVec.isLt _) <| by decide
  · show decVadd c (put 3 md.rm.code.toNat <| put 1 md.sat.toNat <| put 4 ty.code.toNat <| put 1 v.pb.toNat <| put 1 v.pa.toNat <| put 10 v.vb.toNat <| put 10 v.va.toNat <| put 10 v.vd.toNat <| 0) = _
    simp [decVadd]

theorem Laws.RoundTrip.vsub (c : Ctl) (v : V3) (ty : ETy) (md : VMode) : Laws.RoundTrip.Statement (.vsub c v ty md) := by
  refine ⟨?_, ?_⟩
  · exact put_lt (by decide) (BitVec.isLt _) <| put_lt (by decide) md.sat.toNat_lt <| put_lt (by decide) (BitVec.isLt _) <| put_lt (by decide) v.pb.toNat_lt <| put_lt (by decide) v.pa.toNat_lt <| put_lt (by decide) (BitVec.isLt _) <| put_lt (by decide) (BitVec.isLt _) <| put_lt (by decide) (BitVec.isLt _) <| by decide
  · show decVsub c (put 3 md.rm.code.toNat <| put 1 md.sat.toNat <| put 4 ty.code.toNat <| put 1 v.pb.toNat <| put 1 v.pa.toNat <| put 10 v.vb.toNat <| put 10 v.va.toNat <| put 10 v.vd.toNat <| 0) = _
    simp [decVsub]

theorem Laws.RoundTrip.vmul (c : Ctl) (v : V3) (ty : ETy) (md : VMode) : Laws.RoundTrip.Statement (.vmul c v ty md) := by
  refine ⟨?_, ?_⟩
  · exact put_lt (by decide) (BitVec.isLt _) <| put_lt (by decide) md.sat.toNat_lt <| put_lt (by decide) (BitVec.isLt _) <| put_lt (by decide) v.pb.toNat_lt <| put_lt (by decide) v.pa.toNat_lt <| put_lt (by decide) (BitVec.isLt _) <| put_lt (by decide) (BitVec.isLt _) <| put_lt (by decide) (BitVec.isLt _) <| by decide
  · show decVmul c (put 3 md.rm.code.toNat <| put 1 md.sat.toNat <| put 4 ty.code.toNat <| put 1 v.pb.toNat <| put 1 v.pa.toNat <| put 10 v.vb.toNat <| put 10 v.va.toNat <| put 10 v.vd.toNat <| 0) = _
    simp [decVmul]

theorem Laws.RoundTrip.vdiv (c : Ctl) (v : V3) (ty : ETy) (md : VMode) : Laws.RoundTrip.Statement (.vdiv c v ty md) := by
  refine ⟨?_, ?_⟩
  · exact put_lt (by decide) (BitVec.isLt _) <| put_lt (by decide) md.sat.toNat_lt <| put_lt (by decide) (BitVec.isLt _) <| put_lt (by decide) v.pb.toNat_lt <| put_lt (by decide) v.pa.toNat_lt <| put_lt (by decide) (BitVec.isLt _) <| put_lt (by decide) (BitVec.isLt _) <| put_lt (by decide) (BitVec.isLt _) <| by decide
  · show decVdiv c (put 3 md.rm.code.toNat <| put 1 md.sat.toNat <| put 4 ty.code.toNat <| put 1 v.pb.toNat <| put 1 v.pa.toNat <| put 10 v.vb.toNat <| put 10 v.va.toNat <| put 10 v.vd.toNat <| 0) = _
    simp [decVdiv]

theorem Laws.RoundTrip.vmin (c : Ctl) (v : V3) (ty : ETy) : Laws.RoundTrip.Statement (.vmin c v ty) := by
  refine ⟨?_, ?_⟩
  · exact put_lt (by decide) (by decide) <| put_lt (by decide) (BitVec.isLt _) <| put_lt (by decide) v.pb.toNat_lt <| put_lt (by decide) v.pa.toNat_lt <| put_lt (by decide) (BitVec.isLt _) <| put_lt (by decide) (BitVec.isLt _) <| put_lt (by decide) (BitVec.isLt _) <| by decide
  · show decVmin c (put 4 0 <| put 4 ty.code.toNat <| put 1 v.pb.toNat <| put 1 v.pa.toNat <| put 10 v.vb.toNat <| put 10 v.va.toNat <| put 10 v.vd.toNat <| 0) = _
    simp [decVmin, rk_put]

theorem Laws.RoundTrip.vmax (c : Ctl) (v : V3) (ty : ETy) : Laws.RoundTrip.Statement (.vmax c v ty) := by
  refine ⟨?_, ?_⟩
  · exact put_lt (by decide) (by decide) <| put_lt (by decide) (BitVec.isLt _) <| put_lt (by decide) v.pb.toNat_lt <| put_lt (by decide) v.pa.toNat_lt <| put_lt (by decide) (BitVec.isLt _) <| put_lt (by decide) (BitVec.isLt _) <| put_lt (by decide) (BitVec.isLt _) <| by decide
  · show decVmax c (put 4 0 <| put 4 ty.code.toNat <| put 1 v.pb.toNat <| put 1 v.pa.toNat <| put 10 v.vb.toNat <| put 10 v.va.toNat <| put 10 v.vd.toNat <| 0) = _
    simp [decVmax, rk_put]

theorem Laws.RoundTrip.vfmaFp32 (c : Ctl) (v : V4) : Laws.RoundTrip.Statement (.vfmaFp32 c v) := by
  refine ⟨?_, ?_⟩
  · exact put_lt (by decide) (BitVec.isLt _) <| put_lt (by decide) (BitVec.isLt _) <| put_lt (by decide) (BitVec.isLt _) <| put_lt (by decide) (BitVec.isLt _) <| by decide
  · show decVfmaFp32 c (put 10 v.vc.toNat <| put 10 v.vb.toNat <| put 10 v.va.toNat <| put 10 v.vd.toNat <| 0) = _
    simp [decVfmaFp32]

theorem Laws.RoundTrip.vfmaBf16 (c : Ctl) (v : V4) : Laws.RoundTrip.Statement (.vfmaBf16 c v) := by
  refine ⟨?_, ?_⟩
  · exact put_lt (by decide) (BitVec.isLt _) <| put_lt (by decide) (BitVec.isLt _) <| put_lt (by decide) (BitVec.isLt _) <| put_lt (by decide) (BitVec.isLt _) <| by decide
  · show decVfmaBf16 c (put 10 v.vc.toNat <| put 10 v.vb.toNat <| put 10 v.va.toNat <| put 10 v.vd.toNat <| 0) = _
    simp [decVfmaBf16]

theorem Laws.RoundTrip.vfmaFp16 (c : Ctl) (v : V4) : Laws.RoundTrip.Statement (.vfmaFp16 c v) := by
  refine ⟨?_, ?_⟩
  · exact put_lt (by decide) (BitVec.isLt _) <| put_lt (by decide) (BitVec.isLt _) <| put_lt (by decide) (BitVec.isLt _) <| put_lt (by decide) (BitVec.isLt _) <| by decide
  · show decVfmaFp16 c (put 10 v.vc.toNat <| put 10 v.vb.toNat <| put 10 v.va.toNat <| put 10 v.vd.toNat <| 0) = _
    simp [decVfmaFp16]

theorem Laws.RoundTrip.vabs (c : Ctl) (v : V2) (ty : ETy) (sat : Bool) : Laws.RoundTrip.Statement (.vabs c v ty sat) := by
  refine ⟨?_, ?_⟩
  · exact put_lt (by decide) (by decide) <| put_lt (by decide) sat.toNat_lt <| put_lt (by decide) (BitVec.isLt _) <| put_lt (by decide) (by decide) <| put_lt (by decide) v.pa.toNat_lt <| put_lt (by decide) (by decide) <| put_lt (by decide) (BitVec.isLt _) <| put_lt (by decide) (BitVec.isLt _) <| by decide
  · show decVabs c (put 3 0 <| put 1 sat.toNat <| put 4 ty.code.toNat <| put 1 0 <| put 1 v.pa.toNat <| put 10 0 <| put 10 v.va.toNat <| put 10 v.vd.toNat <| 0) = _
    simp [decVabs, rk_put]

theorem Laws.RoundTrip.vneg (c : Ctl) (v : V2) (ty : ETy) (sat : Bool) : Laws.RoundTrip.Statement (.vneg c v ty sat) := by
  refine ⟨?_, ?_⟩
  · exact put_lt (by decide) (by decide) <| put_lt (by decide) sat.toNat_lt <| put_lt (by decide) (BitVec.isLt _) <| put_lt (by decide) (by decide) <| put_lt (by decide) v.pa.toNat_lt <| put_lt (by decide) (by decide) <| put_lt (by decide) (BitVec.isLt _) <| put_lt (by decide) (BitVec.isLt _) <| by decide
  · show decVneg c (put 3 0 <| put 1 sat.toNat <| put 4 ty.code.toNat <| put 1 0 <| put 1 v.pa.toNat <| put 10 0 <| put 10 v.va.toNat <| put 10 v.vd.toNat <| 0) = _
    simp [decVneg, rk_put]

theorem Laws.RoundTrip.vand (c : Ctl) (v : V3) : Laws.RoundTrip.Statement (.vand c v) := by
  refine ⟨?_, ?_⟩
  · exact put_lt (by decide) (by decide) <| put_lt (by decide) v.pb.toNat_lt <| put_lt (by decide) v.pa.toNat_lt <| put_lt (by decide) (BitVec.isLt _) <| put_lt (by decide) (BitVec.isLt _) <| put_lt (by decide) (BitVec.isLt _) <| by decide
  · show decVand c (put 8 0 <| put 1 v.pb.toNat <| put 1 v.pa.toNat <| put 10 v.vb.toNat <| put 10 v.va.toNat <| put 10 v.vd.toNat <| 0) = _
    simp [decVand, rk_put]

theorem Laws.RoundTrip.vor (c : Ctl) (v : V3) : Laws.RoundTrip.Statement (.vor c v) := by
  refine ⟨?_, ?_⟩
  · exact put_lt (by decide) (by decide) <| put_lt (by decide) v.pb.toNat_lt <| put_lt (by decide) v.pa.toNat_lt <| put_lt (by decide) (BitVec.isLt _) <| put_lt (by decide) (BitVec.isLt _) <| put_lt (by decide) (BitVec.isLt _) <| by decide
  · show decVor c (put 8 0 <| put 1 v.pb.toNat <| put 1 v.pa.toNat <| put 10 v.vb.toNat <| put 10 v.va.toNat <| put 10 v.vd.toNat <| 0) = _
    simp [decVor, rk_put]

theorem Laws.RoundTrip.vxor (c : Ctl) (v : V3) : Laws.RoundTrip.Statement (.vxor c v) := by
  refine ⟨?_, ?_⟩
  · exact put_lt (by decide) (by decide) <| put_lt (by decide) v.pb.toNat_lt <| put_lt (by decide) v.pa.toNat_lt <| put_lt (by decide) (BitVec.isLt _) <| put_lt (by decide) (BitVec.isLt _) <| put_lt (by decide) (BitVec.isLt _) <| by decide
  · show decVxor c (put 8 0 <| put 1 v.pb.toNat <| put 1 v.pa.toNat <| put 10 v.vb.toNat <| put 10 v.va.toNat <| put 10 v.vd.toNat <| 0) = _
    simp [decVxor, rk_put]

theorem Laws.RoundTrip.vshl (c : Ctl) (v : V3) (ty : ETy) : Laws.RoundTrip.Statement (.vshl c v ty) := by
  refine ⟨?_, ?_⟩
  · exact put_lt (by decide) (by decide) <| put_lt (by decide) (BitVec.isLt _) <| put_lt (by decide) v.pb.toNat_lt <| put_lt (by decide) v.pa.toNat_lt <| put_lt (by decide) (BitVec.isLt _) <| put_lt (by decide) (BitVec.isLt _) <| put_lt (by decide) (BitVec.isLt _) <| by decide
  · show decVshl c (put 4 0 <| put 4 ty.code.toNat <| put 1 v.pb.toNat <| put 1 v.pa.toNat <| put 10 v.vb.toNat <| put 10 v.va.toNat <| put 10 v.vd.toNat <| 0) = _
    simp [decVshl, rk_put]

theorem Laws.RoundTrip.vshr (c : Ctl) (v : V3) (ty : ETy) (arith : Bool) : Laws.RoundTrip.Statement (.vshr c v ty arith) := by
  refine ⟨?_, ?_⟩
  · exact put_lt (by decide) arith.toNat_lt <| put_lt (by decide) (by decide) <| put_lt (by decide) (BitVec.isLt _) <| put_lt (by decide) v.pb.toNat_lt <| put_lt (by decide) v.pa.toNat_lt <| put_lt (by decide) (BitVec.isLt _) <| put_lt (by decide) (BitVec.isLt _) <| put_lt (by decide) (BitVec.isLt _) <| by decide
  · show decVshr c (put 1 arith.toNat <| put 3 0 <| put 4 ty.code.toNat <| put 1 v.pb.toNat <| put 1 v.pa.toNat <| put 10 v.vb.toNat <| put 10 v.va.toNat <| put 10 v.vd.toNat <| 0) = _
    simp [decVshr, rk_put]

theorem Laws.RoundTrip.vaddi (c : Ctl) (v : V2) (ty : ETy) (imm : BitVec 15) :
    Laws.RoundTrip.Statement (.vaddi c v ty imm) := by
  refine ⟨?_, ?_⟩
  · exact put_lt (by decide) (BitVec.isLt _) <| put_lt (by decide) (BitVec.isLt _) <| put_lt (by decide) v.pa.toNat_lt <| put_lt (by decide) (BitVec.isLt _) <| put_lt (by decide) (BitVec.isLt _) <| by decide
  · show decVaddi c (put 15 imm.toNat <| put 4 ty.code.toNat <| put 1 v.pa.toNat <| put 10 v.va.toNat <| put 10 v.vd.toNat <| 0) = _
    simp [decVaddi]

theorem Laws.RoundTrip.vmuli (c : Ctl) (v : V2) (ty : ETy) (imm : BitVec 15) :
    Laws.RoundTrip.Statement (.vmuli c v ty imm) := by
  refine ⟨?_, ?_⟩
  · exact put_lt (by decide) (BitVec.isLt _) <| put_lt (by decide) (BitVec.isLt _) <| put_lt (by decide) v.pa.toNat_lt <| put_lt (by decide) (BitVec.isLt _) <| put_lt (by decide) (BitVec.isLt _) <| by decide
  · show decVmuli c (put 15 imm.toNat <| put 4 ty.code.toNat <| put 1 v.pa.toNat <| put 10 v.va.toNat <| put 10 v.vd.toNat <| 0) = _
    simp [decVmuli]

theorem Laws.RoundTrip.vsplatImm (c : Ctl) (vd : QName) (ty : ETy) (imm : BitVec 15) :
    Laws.RoundTrip.Statement (.vsplatImm c vd ty imm) := by
  refine ⟨?_, ?_⟩
  · exact put_lt (by decide) (BitVec.isLt _) <| put_lt (by decide) (BitVec.isLt _) <| put_lt (by decide) (by decide) <| put_lt (by decide) (by decide) <| put_lt (by decide) (BitVec.isLt _) <| by decide
  · show (fun w => (decVsplatImm c w).orElse fun _ => decVsplatReg c w) (put 15 imm.toNat <| put 4 ty.code.toNat <| put 1 0 <| put 10 0 <| put 10 vd.toNat <| 0) = _
    simp [decVsplatImm, rk_put]

theorem Laws.RoundTrip.vsplatReg (c : Ctl) (vd : QName) (ty : ETy) (xa : Reg) :
    Laws.RoundTrip.Statement (.vsplatReg c vd ty xa) := by
  refine ⟨?_, ?_⟩
  · exact put_lt (by decide) (by decide) <| put_lt (by decide) (BitVec.isLt _) <| put_lt (by decide) (by decide) <| put_lt (by decide) (BitVec.isLt _) <| put_lt (by decide) (by decide) <| put_lt (by decide) (BitVec.isLt _) <| by decide
  · show (fun w => (decVsplatImm c w).orElse fun _ => decVsplatReg c w) (put 15 0 <| put 4 ty.code.toNat <| put 1 1 <| put 6 xa.toNat <| put 4 0 <| put 10 vd.toNat <| 0) = _
    simp [decVsplatImm, decVsplatReg, rk_put, rd_put_nat]

theorem Laws.RoundTrip.vcvt (c : Ctl) (v : V2) (src dst : ETy) (rm : RM) (sat : Bool) :
    Laws.RoundTrip.Statement (.vcvt c v src dst rm sat) := by
  refine ⟨?_, ?_⟩
  · exact put_lt (by decide) (BitVec.isLt _) <| put_lt (by decide) (BitVec.isLt _) <| put_lt (by decide) sat.toNat_lt <| put_lt (by decide) (by decide) <| put_lt (by decide) (BitVec.isLt _) <| put_lt (by decide) v.pa.toNat_lt <| put_lt (by decide) (BitVec.isLt _) <| put_lt (by decide) (BitVec.isLt _) <| by decide
  · show decVcvt c (put 4 dst.code.toNat <| put 3 rm.code.toNat <| put 1 sat.toNat <| put 7 0 <| put 4 src.code.toNat <| put 1 v.pa.toNat <| put 10 v.va.toNat <| put 10 v.vd.toNat <| 0) = _
    simp [decVcvt, rk_put]

theorem Laws.RoundTrip.vcmp (c : Ctl) (v : V3) (ty : ETy) (cond : VCond) : Laws.RoundTrip.Statement (.vcmp c v ty cond) := by
  refine ⟨?_, ?_⟩
  · exact put_lt (by decide) (BitVec.isLt _) <| put_lt (by decide) (BitVec.isLt _) <| put_lt (by decide) v.pb.toNat_lt <| put_lt (by decide) v.pa.toNat_lt <| put_lt (by decide) (BitVec.isLt _) <| put_lt (by decide) (BitVec.isLt _) <| put_lt (by decide) (BitVec.isLt _) <| by decide
  · show decVcmp c (put 4 cond.code.toNat <| put 4 ty.code.toNat <| put 1 v.pb.toNat <| put 1 v.pa.toNat <| put 10 v.vb.toNat <| put 10 v.va.toNat <| put 10 v.vd.toNat <| 0) = _
    simp [decVcmp]

theorem Laws.RoundTrip.vsel32 (c : Ctl) (v : V4) : Laws.RoundTrip.Statement (.vsel32 c v) := by
  refine ⟨?_, ?_⟩
  · exact put_lt (by decide) (BitVec.isLt _) <| put_lt (by decide) (BitVec.isLt _) <| put_lt (by decide) (BitVec.isLt _) <| put_lt (by decide) (BitVec.isLt _) <| by decide
  · show decVsel32 c (put 10 v.vc.toNat <| put 10 v.vb.toNat <| put 10 v.va.toNat <| put 10 v.vd.toNat <| 0) = _
    simp [decVsel32]

theorem Laws.RoundTrip.vsel16 (c : Ctl) (v : V4) : Laws.RoundTrip.Statement (.vsel16 c v) := by
  refine ⟨?_, ?_⟩
  · exact put_lt (by decide) (BitVec.isLt _) <| put_lt (by decide) (BitVec.isLt _) <| put_lt (by decide) (BitVec.isLt _) <| put_lt (by decide) (BitVec.isLt _) <| by decide
  · show decVsel16 c (put 10 v.vc.toNat <| put 10 v.vb.toNat <| put 10 v.va.toNat <| put 10 v.vd.toNat <| 0) = _
    simp [decVsel16]

theorem Laws.RoundTrip.vsel8 (c : Ctl) (v : V4) : Laws.RoundTrip.Statement (.vsel8 c v) := by
  refine ⟨?_, ?_⟩
  · exact put_lt (by decide) (BitVec.isLt _) <| put_lt (by decide) (BitVec.isLt _) <| put_lt (by decide) (BitVec.isLt _) <| put_lt (by decide) (BitVec.isLt _) <| by decide
  · show decVsel8 c (put 10 v.vc.toNat <| put 10 v.vb.toNat <| put 10 v.va.toNat <| put 10 v.vd.toNat <| 0) = _
    simp [decVsel8]

theorem Laws.RoundTrip.vreds (c : Ctl) (v : V3) (ty : ETy) (md : VMode) : Laws.RoundTrip.Statement (.vreds c v ty md) := by
  refine ⟨?_, ?_⟩
  · exact put_lt (by decide) (BitVec.isLt _) <| put_lt (by decide) md.sat.toNat_lt <| put_lt (by decide) (BitVec.isLt _) <| put_lt (by decide) v.pb.toNat_lt <| put_lt (by decide) v.pa.toNat_lt <| put_lt (by decide) (BitVec.isLt _) <| put_lt (by decide) (BitVec.isLt _) <| put_lt (by decide) (BitVec.isLt _) <| by decide
  · show decVreds c (put 3 md.rm.code.toNat <| put 1 md.sat.toNat <| put 4 ty.code.toNat <| put 1 v.pb.toNat <| put 1 v.pa.toNat <| put 10 v.vb.toNat <| put 10 v.va.toNat <| put 10 v.vd.toNat <| 0) = _
    simp [decVreds]

theorem Laws.RoundTrip.vredm (c : Ctl) (v : V2) (ty : ETy) (kind : MaxK) : Laws.RoundTrip.Statement (.vredm c v ty kind) := by
  refine ⟨?_, ?_⟩
  · exact put_lt (by decide) (BitVec.isLt _) <| put_lt (by decide) (BitVec.isLt _) <| put_lt (by decide) (by decide) <| put_lt (by decide) v.pa.toNat_lt <| put_lt (by decide) (by decide) <| put_lt (by decide) (BitVec.isLt _) <| put_lt (by decide) (BitVec.isLt _) <| by decide
  · show decVredm c (put 4 kind.code.toNat <| put 4 ty.code.toNat <| put 1 0 <| put 1 v.pa.toNat <| put 10 0 <| put 10 v.va.toNat <| put 10 v.vd.toNat <| 0) = _
    simp [decVredm, rk_put]

theorem Laws.RoundTrip.vscan (c : Ctl) (v : V3) (ty : ETy) (ex : Bool) (rm : RM) :
    Laws.RoundTrip.Statement (.vscan c v ty ex rm) := by
  refine ⟨?_, ?_⟩
  · exact put_lt (by decide) (BitVec.isLt _) <| put_lt (by decide) ex.toNat_lt <| put_lt (by decide) (BitVec.isLt _) <| put_lt (by decide) v.pb.toNat_lt <| put_lt (by decide) v.pa.toNat_lt <| put_lt (by decide) (BitVec.isLt _) <| put_lt (by decide) (BitVec.isLt _) <| put_lt (by decide) (BitVec.isLt _) <| by decide
  · show decVscan c (put 3 rm.code.toNat <| put 1 ex.toNat <| put 4 ty.code.toNat <| put 1 v.pb.toNat <| put 1 v.pa.toNat <| put 10 v.vb.toNat <| put 10 v.va.toNat <| put 10 v.vd.toNat <| 0) = _
    simp [decVscan]

theorem Laws.RoundTrip.vsortcCount (c : Ctl) (v : V3) (win : BitVec 2) : Laws.RoundTrip.Statement (.vsortcCount c v win) := by
  refine ⟨?_, ?_⟩
  · exact put_lt (by decide) (by decide) <| put_lt (by decide) (BitVec.isLt _) <| put_lt (by decide) (by decide) <| put_lt (by decide) v.pb.toNat_lt <| put_lt (by decide) v.pa.toNat_lt <| put_lt (by decide) (BitVec.isLt _) <| put_lt (by decide) (BitVec.isLt _) <| put_lt (by decide) (BitVec.isLt _) <| by decide
  · show (fun w => (decVsortcCount c w).orElse fun _ => (decVsortcOrder c w).orElse fun _ => decVsortcSlot c w) (put 2 0 <| put 2 win.toNat <| put 4 5 <| put 1 v.pb.toNat <| put 1 v.pa.toNat <| put 10 v.vb.toNat <| put 10 v.va.toNat <| put 10 v.vd.toNat <| 0) = _
    simp [decVsortcCount, rk_put]

theorem Laws.RoundTrip.vsortcOrder (c : Ctl) (v : V2) : Laws.RoundTrip.Statement (.vsortcOrder c v) := by
  refine ⟨?_, ?_⟩
  · exact put_lt (by decide) (by decide) <| put_lt (by decide) (by decide) <| put_lt (by decide) (by decide) <| put_lt (by decide) (by decide) <| put_lt (by decide) v.pa.toNat_lt <| put_lt (by decide) (by decide) <| put_lt (by decide) (BitVec.isLt _) <| put_lt (by decide) (BitVec.isLt _) <| by decide
  · show (fun w => (decVsortcCount c w).orElse fun _ => (decVsortcOrder c w).orElse fun _ => decVsortcSlot c w) (put 2 1 <| put 2 0 <| put 4 5 <| put 1 0 <| put 1 v.pa.toNat <| put 10 0 <| put 10 v.va.toNat <| put 10 v.vd.toNat <| 0) = _
    simp [decVsortcCount, decVsortcOrder, rk_put]

theorem Laws.RoundTrip.vsortcSlot (c : Ctl) (v : V3) (win : BitVec 2) : Laws.RoundTrip.Statement (.vsortcSlot c v win) := by
  refine ⟨?_, ?_⟩
  · exact put_lt (by decide) (by decide) <| put_lt (by decide) (BitVec.isLt _) <| put_lt (by decide) (by decide) <| put_lt (by decide) v.pb.toNat_lt <| put_lt (by decide) v.pa.toNat_lt <| put_lt (by decide) (BitVec.isLt _) <| put_lt (by decide) (BitVec.isLt _) <| put_lt (by decide) (BitVec.isLt _) <| by decide
  · show (fun w => (decVsortcCount c w).orElse fun _ => (decVsortcOrder c w).orElse fun _ => decVsortcSlot c w) (put 2 2 <| put 2 win.toNat <| put 4 5 <| put 1 v.pb.toNat <| put 1 v.pa.toNat <| put 10 v.vb.toNat <| put 10 v.va.toNat <| put 10 v.vd.toNat <| 0) = _
    simp [decVsortcCount, decVsortcOrder, decVsortcSlot, rk_put]

theorem Laws.RoundTrip.vspselMask (c : Ctl) (v : V2) (ty : ETy) : Laws.RoundTrip.Statement (.vspselMask c v ty) := by
  refine ⟨?_, ?_⟩
  · exact put_lt (by decide) (by decide) <| put_lt (by decide) (BitVec.isLt _) <| put_lt (by decide) (by decide) <| put_lt (by decide) v.pa.toNat_lt <| put_lt (by decide) (by decide) <| put_lt (by decide) (BitVec.isLt _) <| put_lt (by decide) (BitVec.isLt _) <| by decide
  · show (fun w => (decVspselMask c w).orElse fun _ => (decVspselMeta c w).orElse fun _ => decVspselPack c w) (put 4 0 <| put 4 ty.code.toNat <| put 1 0 <| put 1 v.pa.toNat <| put 10 0 <| put 10 v.va.toNat <| put 10 v.vd.toNat <| 0) = _
    simp [decVspselMask, rk_put]

theorem Laws.RoundTrip.vspselMeta (c : Ctl) (v : V2) (ty : ETy) : Laws.RoundTrip.Statement (.vspselMeta c v ty) := by
  refine ⟨?_, ?_⟩
  · exact put_lt (by decide) (by decide) <| put_lt (by decide) (BitVec.isLt _) <| put_lt (by decide) (by decide) <| put_lt (by decide) v.pa.toNat_lt <| put_lt (by decide) (by decide) <| put_lt (by decide) (BitVec.isLt _) <| put_lt (by decide) (BitVec.isLt _) <| by decide
  · show (fun w => (decVspselMask c w).orElse fun _ => (decVspselMeta c w).orElse fun _ => decVspselPack c w) (put 4 1 <| put 4 ty.code.toNat <| put 1 0 <| put 1 v.pa.toNat <| put 10 0 <| put 10 v.va.toNat <| put 10 v.vd.toNat <| 0) = _
    simp [decVspselMask, decVspselMeta, rk_put]

theorem Laws.RoundTrip.vspselPack (c : Ctl) (v : V2) (ty : ETy) : Laws.RoundTrip.Statement (.vspselPack c v ty) := by
  refine ⟨?_, ?_⟩
  · exact put_lt (by decide) (by decide) <| put_lt (by decide) (BitVec.isLt _) <| put_lt (by decide) (by decide) <| put_lt (by decide) v.pa.toNat_lt <| put_lt (by decide) (by decide) <| put_lt (by decide) (BitVec.isLt _) <| put_lt (by decide) (BitVec.isLt _) <| by decide
  · show (fun w => (decVspselMask c w).orElse fun _ => (decVspselMeta c w).orElse fun _ => decVspselPack c w) (put 4 2 <| put 4 ty.code.toNat <| put 1 0 <| put 1 v.pa.toNat <| put 10 0 <| put 10 v.va.toNat <| put 10 v.vd.toNat <| 0) = _
    simp [decVspselMask, decVspselMeta, decVspselPack, rk_put]

theorem Laws.RoundTrip.vrmsnFp32 (c : Ctl) (v : V4) : Laws.RoundTrip.Statement (.vrmsnFp32 c v) := by
  refine ⟨?_, ?_⟩
  · exact put_lt (by decide) (BitVec.isLt _) <| put_lt (by decide) (BitVec.isLt _) <| put_lt (by decide) (BitVec.isLt _) <| put_lt (by decide) (BitVec.isLt _) <| by decide
  · show decVrmsnFp32 c (put 10 v.vc.toNat <| put 10 v.vb.toNat <| put 10 v.va.toNat <| put 10 v.vd.toNat <| 0) = _
    simp [decVrmsnFp32]

theorem Laws.RoundTrip.vrmsnBf16 (c : Ctl) (v : V4) : Laws.RoundTrip.Statement (.vrmsnBf16 c v) := by
  refine ⟨?_, ?_⟩
  · exact put_lt (by decide) (BitVec.isLt _) <| put_lt (by decide) (BitVec.isLt _) <| put_lt (by decide) (BitVec.isLt _) <| put_lt (by decide) (BitVec.isLt _) <| by decide
  · show decVrmsnBf16 c (put 10 v.vc.toNat <| put 10 v.vb.toNat <| put 10 v.va.toNat <| put 10 v.vd.toNat <| 0) = _
    simp [decVrmsnBf16]

theorem Laws.RoundTrip.vact (c : Ctl) (v : V3) (ty : ETy) (fn : ActFn) : Laws.RoundTrip.Statement (.vact c v ty fn) := by
  refine ⟨?_, ?_⟩
  · exact put_lt (by decide) (BitVec.isLt _) <| put_lt (by decide) (BitVec.isLt _) <| put_lt (by decide) v.pb.toNat_lt <| put_lt (by decide) v.pa.toNat_lt <| put_lt (by decide) (BitVec.isLt _) <| put_lt (by decide) (BitVec.isLt _) <| put_lt (by decide) (BitVec.isLt _) <| by decide
  · show decVact c (put 4 fn.code.toNat <| put 4 ty.code.toNat <| put 1 v.pb.toNat <| put 1 v.pa.toNat <| put 10 v.vb.toNat <| put 10 v.va.toNat <| put 10 v.vd.toNat <| 0) = _
    simp [decVact]

theorem Laws.RoundTrip.vexp (c : Ctl) (v : V2) (ty : ETy) : Laws.RoundTrip.Statement (.vexp c v ty) := by
  refine ⟨?_, ?_⟩
  · exact put_lt (by decide) (by decide) <| put_lt (by decide) (BitVec.isLt _) <| put_lt (by decide) (by decide) <| put_lt (by decide) v.pa.toNat_lt <| put_lt (by decide) (by decide) <| put_lt (by decide) (BitVec.isLt _) <| put_lt (by decide) (BitVec.isLt _) <| by decide
  · show (fun w => (decVexp c w).orElse fun _ => decVexp2 c w) (put 4 0 <| put 4 ty.code.toNat <| put 1 0 <| put 1 v.pa.toNat <| put 10 0 <| put 10 v.va.toNat <| put 10 v.vd.toNat <| 0) = _
    simp [decVexp, rk_put]

theorem Laws.RoundTrip.vexp2 (c : Ctl) (v : V2) (ty : ETy) : Laws.RoundTrip.Statement (.vexp2 c v ty) := by
  refine ⟨?_, ?_⟩
  · exact put_lt (by decide) (by decide) <| put_lt (by decide) (BitVec.isLt _) <| put_lt (by decide) (by decide) <| put_lt (by decide) v.pa.toNat_lt <| put_lt (by decide) (by decide) <| put_lt (by decide) (BitVec.isLt _) <| put_lt (by decide) (BitVec.isLt _) <| by decide
  · show (fun w => (decVexp c w).orElse fun _ => decVexp2 c w) (put 4 1 <| put 4 ty.code.toNat <| put 1 0 <| put 1 v.pa.toNat <| put 10 0 <| put 10 v.va.toNat <| put 10 v.vd.toNat <| 0) = _
    simp [decVexp, decVexp2, rk_put]

theorem Laws.RoundTrip.vrcp (c : Ctl) (v : V2) (ty : ETy) : Laws.RoundTrip.Statement (.vrcp c v ty) := by
  refine ⟨?_, ?_⟩
  · exact put_lt (by decide) (by decide) <| put_lt (by decide) (BitVec.isLt _) <| put_lt (by decide) (by decide) <| put_lt (by decide) v.pa.toNat_lt <| put_lt (by decide) (by decide) <| put_lt (by decide) (BitVec.isLt _) <| put_lt (by decide) (BitVec.isLt _) <| by decide
  · show decVrcp c (put 4 0 <| put 4 ty.code.toNat <| put 1 0 <| put 1 v.pa.toNat <| put 10 0 <| put 10 v.va.toNat <| put 10 v.vd.toNat <| 0) = _
    simp [decVrcp, rk_put]

theorem Laws.RoundTrip.vrsq (c : Ctl) (v : V2) (ty : ETy) : Laws.RoundTrip.Statement (.vrsq c v ty) := by
  refine ⟨?_, ?_⟩
  · exact put_lt (by decide) (by decide) <| put_lt (by decide) (BitVec.isLt _) <| put_lt (by decide) (by decide) <| put_lt (by decide) v.pa.toNat_lt <| put_lt (by decide) (by decide) <| put_lt (by decide) (BitVec.isLt _) <| put_lt (by decide) (BitVec.isLt _) <| by decide
  · show decVrsq c (put 4 0 <| put 4 ty.code.toNat <| put 1 0 <| put 1 v.pa.toNat <| put 10 0 <| put 10 v.va.toNat <| put 10 v.vd.toNat <| 0) = _
    simp [decVrsq, rk_put]

theorem Laws.RoundTrip.vperm (c : Ctl) (v : V3) (ty : ETy) (hi : Bool) : Laws.RoundTrip.Statement (.vperm c v ty hi) := by
  refine ⟨?_, ?_⟩
  · exact put_lt (by decide) hi.toNat_lt <| put_lt (by decide) (by decide) <| put_lt (by decide) (BitVec.isLt _) <| put_lt (by decide) v.pb.toNat_lt <| put_lt (by decide) v.pa.toNat_lt <| put_lt (by decide) (BitVec.isLt _) <| put_lt (by decide) (BitVec.isLt _) <| put_lt (by decide) (BitVec.isLt _) <| by decide
  · show decVperm c (put 1 hi.toNat <| put 3 0 <| put 4 ty.code.toNat <| put 1 v.pb.toNat <| put 1 v.pa.toNat <| put 10 v.vb.toNat <| put 10 v.va.toNat <| put 10 v.vd.toNat <| 0) = _
    simp [decVperm, rk_put]

theorem Laws.RoundTrip.vlds (c : Ctl) (vd : QName) (xa : Reg) (imm : BitVec 15) :
    Laws.RoundTrip.Statement (.vlds c vd xa imm) := by
  refine ⟨?_, ?_⟩
  · exact put_lt (by decide) (BitVec.isLt _) <| put_lt (by decide) (by decide) <| put_lt (by decide) (by decide) <| put_lt (by decide) (BitVec.isLt _) <| put_lt (by decide) (by decide) <| put_lt (by decide) (BitVec.isLt _) <| by decide
  · show decVlds c (put 15 imm.toNat <| put 4 0 <| put 1 0 <| put 6 xa.toNat <| put 4 0 <| put 10 vd.toNat <| 0) = _
    simp [decVlds, rk_put]

theorem Laws.RoundTrip.vsts (c : Ctl) (va : QName) (pa : Bool) (xa : Reg) (imm : BitVec 15) :
    Laws.RoundTrip.Statement (.vsts c va pa xa imm) := by
  refine ⟨?_, ?_⟩
  · exact put_lt (by decide) (BitVec.isLt _) <| put_lt (by decide) (by decide) <| put_lt (by decide) pa.toNat_lt <| put_lt (by decide) (BitVec.isLt _) <| put_lt (by decide) (BitVec.isLt _) <| put_lt (by decide) (by decide) <| by decide
  · show decVsts c (put 15 imm.toNat <| put 4 0 <| put 1 pa.toNat <| put 10 va.toNat <| put 6 xa.toNat <| put 4 0 <| 0) = _
    simp [decVsts, rk_put]

theorem Laws.RoundTrip.vqst (c : Ctl) (xd : Reg) (vn : QName) : Laws.RoundTrip.Statement (.vqst c xd vn) := by
  refine ⟨?_, ?_⟩
  · exact put_lt (by decide) (by decide) <| put_lt (by decide) (BitVec.isLt _) <| put_lt (by decide) (BitVec.isLt _) <| put_lt (by decide) (by decide) <| by decide
  · show decVqst c (put 20 0 <| put 10 vn.toNat <| put 6 xd.toNat <| put 4 0 <| 0) = _
    simp [decVqst, rk_put]

theorem Laws.RoundTrip.vmov (c : Ctl) (v : V2) : Laws.RoundTrip.Statement (.vmov c v) := by
  refine ⟨?_, ?_⟩
  · exact put_lt (by decide) (by decide) <| put_lt (by decide) (by decide) <| put_lt (by decide) v.pa.toNat_lt <| put_lt (by decide) (by decide) <| put_lt (by decide) (BitVec.isLt _) <| put_lt (by decide) (BitVec.isLt _) <| by decide
  · show decVmov c (put 8 0 <| put 1 0 <| put 1 v.pa.toNat <| put 10 0 <| put 10 v.va.toNat <| put 10 v.vd.toNat <| 0) = _
    simp [decVmov, rk_put]

theorem Laws.RoundTrip.exadd (c : Ctl) (d : BitVec 6) (va : QName) (pa : Bool) (ty : ETy) :
    Laws.RoundTrip.Statement (.exadd c d va pa ty) := by
  refine ⟨?_, ?_⟩
  · exact put_lt (by decide) (by decide) <| put_lt (by decide) (BitVec.isLt _) <| put_lt (by decide) (by decide) <| put_lt (by decide) pa.toNat_lt <| put_lt (by decide) (by decide) <| put_lt (by decide) (BitVec.isLt _) <| put_lt (by decide) (BitVec.isLt _) <| put_lt (by decide) (by decide) <| by decide
  · show (fun w => (decExadd c w).orElse fun _ => decExaddL c w) (put 4 0 <| put 4 ty.code.toNat <| put 1 0 <| put 1 pa.toNat <| put 10 0 <| put 10 va.toNat <| put 6 d.toNat <| put 4 0 <| 0) = _
    simp [decExadd, rk_put]

theorem Laws.RoundTrip.exaddL (c : Ctl) (d : BitVec 6) (va : QName) (len1 : BitVec 6) (pa : Bool) (ty : ETy) :
    Laws.RoundTrip.Statement (.exaddL c d va len1 pa ty) := by
  refine ⟨?_, ?_⟩
  · exact put_lt (by decide) (by decide) <| put_lt (by decide) (BitVec.isLt _) <| put_lt (by decide) (by decide) <| put_lt (by decide) pa.toNat_lt <| put_lt (by decide) (BitVec.isLt _) <| put_lt (by decide) (by decide) <| put_lt (by decide) (BitVec.isLt _) <| put_lt (by decide) (BitVec.isLt _) <| put_lt (by decide) (by decide) <| by decide
  · show (fun w => (decExadd c w).orElse fun _ => decExaddL c w) (put 4 1 <| put 4 ty.code.toNat <| put 1 0 <| put 1 pa.toNat <| put 6 len1.toNat <| put 4 0 <| put 10 va.toNat <| put 6 d.toNat <| put 4 0 <| 0) = _
    simp [decExadd, decExaddL, rk_put]

theorem Laws.RoundTrip.exrd (c : Ctl) (vd : QName) (a : BitVec 6) (len1 : BitVec 6) (clr : Bool) :
    Laws.RoundTrip.Statement (.exrd c vd a len1 clr) := by
  refine ⟨?_, ?_⟩
  · exact put_lt (by decide) clr.toNat_lt <| put_lt (by decide) (by decide) <| put_lt (by decide) (by decide) <| put_lt (by decide) (by decide) <| put_lt (by decide) (BitVec.isLt _) <| put_lt (by decide) (by decide) <| put_lt (by decide) (BitVec.isLt _) <| put_lt (by decide) (by decide) <| put_lt (by decide) (BitVec.isLt _) <| by decide
  · show decExrd c (put 1 clr.toNat <| put 3 0 <| put 4 0 <| put 2 0 <| put 6 len1.toNat <| put 4 0 <| put 6 a.toNat <| put 4 0 <| put 10 vd.toNat <| 0) = _
    simp [decExrd, rk_put]

theorem Laws.RoundTrip.exclr (c : Ctl) (a : BitVec 6) (len1 : BitVec 6) : Laws.RoundTrip.Statement (.exclr c a len1) := by
  refine ⟨?_, ?_⟩
  · exact put_lt (by decide) (BitVec.isLt _) <| put_lt (by decide) (by decide) <| put_lt (by decide) (by decide) <| put_lt (by decide) (by decide) <| put_lt (by decide) (BitVec.isLt _) <| put_lt (by decide) (by decide) <| put_lt (by decide) (by decide) <| by decide
  · show decExclr c (put 6 len1.toNat <| put 9 0 <| put 4 0 <| put 1 0 <| put 6 a.toNat <| put 4 0 <| put 10 0 <| 0) = _
    simp [decExclr, rk_put]

theorem Laws.RoundTrip.fqpush (c : Ctl) (xa : Reg) : Laws.RoundTrip.Statement (.fqpush c xa) := by
  refine ⟨?_, ?_⟩
  · exact put_lt (by decide) (by decide) <| put_lt (by decide) (BitVec.isLt _) <| put_lt (by decide) (by decide) <| by decide
  · show decFqpush c (put 28 0 <| put 6 xa.toNat <| put 6 0 <| 0) = _
    simp [decFqpush, rk_put]

theorem Laws.RoundTrip.fqmode (c : Ctl) (rm : RM) : Laws.RoundTrip.Statement (.fqmode c rm) := by
  refine ⟨?_, ?_⟩
  · exact put_lt (by decide) (BitVec.isLt _) <| put_lt (by decide) (by decide) <| put_lt (by decide) (by decide) <| by decide
  · show decFqmode c (put 3 rm.code.toNat <| put 25 0 <| put 12 0 <| 0) = _
    simp [decFqmode, rk_put]

theorem Laws.RoundTrip.scw (c : Ctl) (sc : BitVec 4) (xa : Reg) (imm : BitVec 16) :
    Laws.RoundTrip.Statement (.scw c sc xa imm) := by
  refine ⟨?_, ?_⟩
  · exact put_lt (by decide) (BitVec.isLt _) <| put_lt (by decide) (BitVec.isLt _) <| put_lt (by decide) (by decide) <| put_lt (by decide) (by decide) <| put_lt (by decide) (BitVec.isLt _) <| put_lt (by decide) (by decide) <| by decide
  · show decScw c (put 16 imm.toNat <| put 4 sc.toNat <| put 2 0 <| put 6 0 <| put 6 xa.toNat <| put 6 0 <| 0) = _
    simp [decScw, rk_put]

theorem Laws.RoundTrip.ctwr (c : Ctl) (bank : Bool) (entry : BitVec 4) (xa : Reg) (imm : BitVec 16) :
    Laws.RoundTrip.Statement (.ctwr c bank entry xa imm) := by
  refine ⟨?_, ?_⟩
  · exact put_lt (by decide) (BitVec.isLt _) <| put_lt (by decide) (BitVec.isLt _) <| put_lt (by decide) bank.toNat_lt <| put_lt (by decide) (by decide) <| put_lt (by decide) (by decide) <| put_lt (by decide) (BitVec.isLt _) <| put_lt (by decide) (by decide) <| by decide
  · show decCtwr c (put 16 imm.toNat <| put 4 entry.toNat <| put 1 bank.toNat <| put 1 0 <| put 6 0 <| put 6 xa.toNat <| put 6 0 <| 0) = _
    simp [decCtwr, rk_put]

theorem Laws.RoundTrip.nestw (c : Ctl) (nest : BitVec 3) (xa : Reg) (imm : BitVec 16) :
    Laws.RoundTrip.Statement (.nestw c nest xa imm) := by
  refine ⟨?_, ?_⟩
  · exact put_lt (by decide) (BitVec.isLt _) <| put_lt (by decide) (BitVec.isLt _) <| put_lt (by decide) (by decide) <| put_lt (by decide) (by decide) <| put_lt (by decide) (BitVec.isLt _) <| put_lt (by decide) (by decide) <| by decide
  · show decNestw c (put 16 imm.toNat <| put 3 nest.toNat <| put 3 0 <| put 6 0 <| put 6 xa.toNat <| put 6 0 <| 0) = _
    simp [decNestw, rk_put]

theorem Laws.RoundTrip.tgo (c : Ctl) (t : Tile) : Laws.RoundTrip.Statement (.tgo c t) := by
  refine ⟨?_, ?_⟩
  · exact put_lt (by decide) t.accum.toNat_lt <| put_lt (by decide) t.adv.toNat_lt <| put_lt (by decide) (by decide) <| put_lt (by decide) (BitVec.isLt _) <| put_lt (by decide) (BitVec.isLt _) <| put_lt (by decide) (BitVec.isLt _) <| put_lt (by decide) (BitVec.isLt _) <| put_lt (by decide) (BitVec.isLt _) <| put_lt (by decide) (BitVec.isLt _) <| put_lt (by decide) (BitVec.isLt _) <| by decide
  · show decTgo c (put 1 t.accum.toNat <| put 1 t.adv.toNat <| put 2 0 <| put 3 t.gang.toNat <| put 6 t.xk.toNat <| put 6 t.xn.toNat <| put 6 t.xm.toNat <| put 8 t.profile.toNat <| put 3 t.nest.toNat <| put 4 t.acc.toNat <| 0) = _
    simp [decTgo, rk_put]

theorem Laws.RoundTrip.tgoG (c : Ctl) (t : Tile) : Laws.RoundTrip.Statement (.tgoG c t) := by
  refine ⟨?_, ?_⟩
  · exact put_lt (by decide) t.accum.toNat_lt <| put_lt (by decide) t.adv.toNat_lt <| put_lt (by decide) (by decide) <| put_lt (by decide) (BitVec.isLt _) <| put_lt (by decide) (BitVec.isLt _) <| put_lt (by decide) (BitVec.isLt _) <| put_lt (by decide) (BitVec.isLt _) <| put_lt (by decide) (BitVec.isLt _) <| put_lt (by decide) (BitVec.isLt _) <| put_lt (by decide) (BitVec.isLt _) <| by decide
  · show decTgoG c (put 1 t.accum.toNat <| put 1 t.adv.toNat <| put 2 0 <| put 3 t.gang.toNat <| put 6 t.xk.toNat <| put 6 t.xn.toNat <| put 6 t.xm.toNat <| put 8 t.profile.toNat <| put 3 t.nest.toNat <| put 4 t.acc.toNat <| 0) = _
    simp [decTgoG, rk_put]

theorem Laws.RoundTrip.tgoSp (c : Ctl) (t : Tile) : Laws.RoundTrip.Statement (.tgoSp c t) := by
  refine ⟨?_, ?_⟩
  · exact put_lt (by decide) t.accum.toNat_lt <| put_lt (by decide) t.adv.toNat_lt <| put_lt (by decide) (by decide) <| put_lt (by decide) (BitVec.isLt _) <| put_lt (by decide) (BitVec.isLt _) <| put_lt (by decide) (BitVec.isLt _) <| put_lt (by decide) (BitVec.isLt _) <| put_lt (by decide) (BitVec.isLt _) <| put_lt (by decide) (BitVec.isLt _) <| put_lt (by decide) (BitVec.isLt _) <| by decide
  · show decTgoSp c (put 1 t.accum.toNat <| put 1 t.adv.toNat <| put 2 0 <| put 3 t.gang.toNat <| put 6 t.xk.toNat <| put 6 t.xn.toNat <| put 6 t.xm.toNat <| put 8 t.profile.toNat <| put 3 t.nest.toNat <| put 4 t.acc.toNat <| 0) = _
    simp [decTgoSp, rk_put]

theorem Laws.RoundTrip.tileCmdHead (k : Nat) : Laws.RoundTrip.Statement (.tileCmdHead k) := rfl

theorem Laws.RoundTrip.tileCmdAccept (k : Nat) : Laws.RoundTrip.Statement (.tileCmdAccept k) := rfl

theorem Laws.RoundTrip.tileCmdComplete (k id : Nat) : Laws.RoundTrip.Statement (.tileCmdComplete k id) := rfl

theorem Laws.RoundTrip.accz (c : Ctl) (acc : BitVec 4) : Laws.RoundTrip.Statement (.accz c acc) := by
  refine ⟨?_, ?_⟩
  · exact put_lt (by decide) (by decide) <| put_lt (by decide) (BitVec.isLt _) <| by decide
  · show decAccz c (put 36 0 <| put 4 acc.toNat <| 0) = _
    simp [decAccz, rk_put]

theorem Laws.RoundTrip.accrd (c : Ctl) (vd : QName) (acc : BitVec 4) (ty : AccTy) (xa : Reg) (row : BitVec 7) :
    Laws.RoundTrip.Statement (.accrd c vd acc ty xa row) := by
  refine ⟨?_, ?_⟩
  · exact put_lt (by decide) (BitVec.isLt _) <| put_lt (by decide) (by decide) <| put_lt (by decide) (BitVec.isLt _) <| put_lt (by decide) (by decide) <| put_lt (by decide) (BitVec.isLt _) <| put_lt (by decide) (by decide) <| put_lt (by decide) (BitVec.isLt _) <| put_lt (by decide) (by decide) <| put_lt (by decide) (BitVec.isLt _) <| by decide
  · show decAccrd c (put 7 row.toNat <| put 1 0 <| put 6 xa.toNat <| put 1 0 <| put 4 ty.code.toNat <| put 1 0 <| put 4 acc.toNat <| put 6 0 <| put 10 vd.toNat <| 0) = _
    simp [decAccrd, rk_put]

theorem Laws.RoundTrip.accmov (c : Ctl) (accD : BitVec 4) (accS : BitVec 4) (add : Bool) :
    Laws.RoundTrip.Statement (.accmov c accD accS add) := by
  refine ⟨?_, ?_⟩
  · exact put_lt (by decide) (by decide) <| put_lt (by decide) add.toNat_lt <| put_lt (by decide) (by decide) <| put_lt (by decide) (BitVec.isLt _) <| put_lt (by decide) (by decide) <| put_lt (by decide) (by decide) <| put_lt (by decide) (by decide) <| put_lt (by decide) (by decide) <| put_lt (by decide) (BitVec.isLt _) <| by decide
  · show decAccmov c (put 4 0 <| put 1 add.toNat <| put 2 0 <| put 4 accS.toNat <| put 2 0 <| put 12 0 <| put 8 0 <| put 3 0 <| put 4 accD.toNat <| 0) = _
    simp [decAccmov, rk_put]

theorem Laws.RoundTrip.accst (c : Ctl) (w : Win) : Laws.RoundTrip.Statement (.accst c w) := by
  refine ⟨?_, ?_⟩
  · exact put_lt (by decide) (by decide) <| put_lt (by decide) w.adv.toNat_lt <| put_lt (by decide) (by decide) <| put_lt (by decide) (by decide) <| put_lt (by decide) (by decide) <| put_lt (by decide) (BitVec.isLt _) <| put_lt (by decide) (BitVec.isLt _) <| put_lt (by decide) (by decide) <| put_lt (by decide) (BitVec.isLt _) <| put_lt (by decide) (BitVec.isLt _) <| by decide
  · show decAccst c (put 1 0 <| put 1 w.adv.toNat <| put 2 0 <| put 3 0 <| put 6 0 <| put 6 w.xn.toNat <| put 6 w.xm.toNat <| put 8 0 <| put 3 w.nest.toNat <| put 4 w.acc.toNat <| 0) = _
    simp [decAccst, rk_put]

theorem Laws.RoundTrip.accld (c : Ctl) (w : Win) : Laws.RoundTrip.Statement (.accld c w) := by
  refine ⟨?_, ?_⟩
  · exact put_lt (by decide) (by decide) <| put_lt (by decide) w.adv.toNat_lt <| put_lt (by decide) (by decide) <| put_lt (by decide) (by decide) <| put_lt (by decide) (by decide) <| put_lt (by decide) (BitVec.isLt _) <| put_lt (by decide) (BitVec.isLt _) <| put_lt (by decide) (by decide) <| put_lt (by decide) (BitVec.isLt _) <| put_lt (by decide) (BitVec.isLt _) <| by decide
  · show decAccld c (put 1 0 <| put 1 w.adv.toNat <| put 2 0 <| put 3 0 <| put 6 0 <| put 6 w.xn.toNat <| put 6 w.xm.toNat <| put 8 0 <| put 3 w.nest.toNat <| put 4 w.acc.toNat <| 0) = _
    simp [decAccld, rk_put]

theorem Laws.RoundTrip.lapp (c : Ctl) (slot : BitVec 6) (qa qb : QName) (bf : Bool) :
    Laws.RoundTrip.Statement (.lapp c slot qa qb bf) := by
  refine ⟨?_, ?_⟩
  · exact put_lt (by decide) bf.toNat_lt <| put_lt (by decide) (by decide) <| put_lt (by decide) (by decide) <| put_lt (by decide) (BitVec.isLt _) <| put_lt (by decide) (BitVec.isLt _) <| put_lt (by decide) (BitVec.isLt _) <| by decide
  · show decLapp c (put 1 bf.toNat <| put 3 0 <| put 10 0 <| put 10 qb.toNat <| put 10 qa.toNat <| put 6 slot.toNat <| 0) = _
    simp [decLapp, rk_put]

theorem Laws.RoundTrip.lappb (c : Ctl) (slot : BitVec 6) (qa qb : QName) (j : BitVec 4) (bf : Bool) :
    Laws.RoundTrip.Statement (.lappb c slot qa qb j bf) := by
  refine ⟨?_, ?_⟩
  · exact put_lt (by decide) bf.toNat_lt <| put_lt (by decide) (by decide) <| put_lt (by decide) (BitVec.isLt _) <| put_lt (by decide) (by decide) <| put_lt (by decide) (BitVec.isLt _) <| put_lt (by decide) (BitVec.isLt _) <| put_lt (by decide) (BitVec.isLt _) <| by decide
  · show decLappb c (put 1 bf.toNat <| put 3 0 <| put 4 j.toNat <| put 6 0 <| put 10 qb.toNat <| put 10 qa.toNat <| put 6 slot.toNat <| 0) = _
    simp [decLappb, rk_put]

theorem Laws.RoundTrip.lreadOrd (c : Ctl) (slot : BitVec 6) (qa qb qc : QName) (bf div : Bool) :
    Laws.RoundTrip.Statement (.lreadOrd c slot qa qb qc bf div) := by
  refine ⟨?_, ?_⟩
  · exact put_lt (by decide) (by decide) <| put_lt (by decide) div.toNat_lt <| put_lt (by decide) bf.toNat_lt <| put_lt (by decide) (BitVec.isLt _) <| put_lt (by decide) (BitVec.isLt _) <| put_lt (by decide) (BitVec.isLt _) <| put_lt (by decide) (BitVec.isLt _) <| by decide
  · show (fun w => (decLreadOrd c w).orElse fun _ => (decLreadExa c w).orElse fun _ => decLreadRungs c w) (put 2 0 <| put 1 div.toNat <| put 1 bf.toNat <| put 10 qc.toNat <| put 10 qb.toNat <| put 10 qa.toNat <| put 6 slot.toNat <| 0) = _
    simp [decLreadOrd, rk_put]

theorem Laws.RoundTrip.lreadExa (c : Ctl) (slot : BitVec 6) (qa qb qc : QName) (bf div : Bool) :
    Laws.RoundTrip.Statement (.lreadExa c slot qa qb qc bf div) := by
  refine ⟨?_, ?_⟩
  · exact put_lt (by decide) (by decide) <| put_lt (by decide) div.toNat_lt <| put_lt (by decide) bf.toNat_lt <| put_lt (by decide) (BitVec.isLt _) <| put_lt (by decide) (BitVec.isLt _) <| put_lt (by decide) (BitVec.isLt _) <| put_lt (by decide) (BitVec.isLt _) <| by decide
  · show (fun w => (decLreadOrd c w).orElse fun _ => (decLreadExa c w).orElse fun _ => decLreadRungs c w) (put 2 1 <| put 1 div.toNat <| put 1 bf.toNat <| put 10 qc.toNat <| put 10 qb.toNat <| put 10 qa.toNat <| put 6 slot.toNat <| 0) = _
    simp [decLreadOrd, decLreadExa, rk_put]

theorem Laws.RoundTrip.lreadRungs (c : Ctl) (slot : BitVec 6) (qa qb qc : QName) (bf : Bool) :
    Laws.RoundTrip.Statement (.lreadRungs c slot qa qb qc bf) := by
  refine ⟨?_, ?_⟩
  · exact put_lt (by decide) (by decide) <| put_lt (by decide) (by decide) <| put_lt (by decide) bf.toNat_lt <| put_lt (by decide) (BitVec.isLt _) <| put_lt (by decide) (BitVec.isLt _) <| put_lt (by decide) (BitVec.isLt _) <| put_lt (by decide) (BitVec.isLt _) <| by decide
  · show (fun w => (decLreadOrd c w).orElse fun _ => (decLreadExa c w).orElse fun _ => decLreadRungs c w) (put 2 2 <| put 1 0 <| put 1 bf.toNat <| put 10 qc.toNat <| put 10 qb.toNat <| put 10 qa.toNat <| put 6 slot.toNat <| 0) = _
    simp [decLreadOrd, decLreadExa, decLreadRungs, rk_put]

theorem Laws.RoundTrip.lfork (c : Ctl) (slotD : BitVec 6) (slotS : BitVec 6) :
    Laws.RoundTrip.Statement (.lfork c slotD slotS) := by
  refine ⟨?_, ?_⟩
  · exact put_lt (by decide) (by decide) <| put_lt (by decide) (BitVec.isLt _) <| put_lt (by decide) (by decide) <| put_lt (by decide) (BitVec.isLt _) <| by decide
  · show decLfork c (put 24 0 <| put 6 slotS.toNat <| put 4 0 <| put 6 slotD.toNat <| 0) = _
    simp [decLfork, rk_put]

theorem Laws.RoundTrip.ltruncLow (c : Ctl) (slot : BitVec 6) (xm : Reg) : Laws.RoundTrip.Statement (.ltruncLow c slot xm) := by
  refine ⟨?_, ?_⟩
  · exact put_lt (by decide) (by decide) <| put_lt (by decide) (by decide) <| put_lt (by decide) (BitVec.isLt _) <| put_lt (by decide) (by decide) <| put_lt (by decide) (BitVec.isLt _) <| by decide
  · show (fun w => (decLtruncLow c w).orElse fun _ => decLtruncCkpt c w) (put 4 0 <| put 20 0 <| put 6 xm.toNat <| put 4 0 <| put 6 slot.toNat <| 0) = _
    simp [decLtruncLow, rk_put]

theorem Laws.RoundTrip.ltruncCkpt (c : Ctl) (slot : BitVec 6) (slotC : BitVec 6) :
    Laws.RoundTrip.Statement (.ltruncCkpt c slot slotC) := by
  refine ⟨?_, ?_⟩
  · exact put_lt (by decide) (by decide) <| put_lt (by decide) (by decide) <| put_lt (by decide) (BitVec.isLt _) <| put_lt (by decide) (by decide) <| put_lt (by decide) (BitVec.isLt _) <| by decide
  · show (fun w => (decLtruncLow c w).orElse fun _ => decLtruncCkpt c w) (put 4 1 <| put 20 0 <| put 6 slotC.toNat <| put 4 0 <| put 6 slot.toNat <| 0) = _
    simp [decLtruncLow, decLtruncCkpt, rk_put]

theorem Laws.RoundTrip.ldrop (c : Ctl) (slot : BitVec 6) : Laws.RoundTrip.Statement (.ldrop c slot) := by
  refine ⟨?_, ?_⟩
  · exact put_lt (by decide) (by decide) <| put_lt (by decide) (BitVec.isLt _) <| by decide
  · show decLdrop c (put 34 0 <| put 6 slot.toNat <| 0) = _
    simp [decLdrop, rk_put]

theorem Laws.RoundTrip.lstat (c : Ctl) (slot : BitVec 6) (qc : QName) : Laws.RoundTrip.Statement (.lstat c slot qc) := by
  refine ⟨?_, ?_⟩
  · exact put_lt (by decide) (by decide) <| put_lt (by decide) (BitVec.isLt _) <| put_lt (by decide) (by decide) <| put_lt (by decide) (BitVec.isLt _) <| by decide
  · show decLstat c (put 4 0 <| put 10 qc.toNat <| put 20 0 <| put 6 slot.toNat <| 0) = _
    simp [decLstat, rk_put]

theorem Laws.RoundTrip.ladderCmdComplete (k id : Nat) : Laws.RoundTrip.Statement (.ladderCmdComplete k id) := rfl

theorem Laws.RoundTrip.tapchk (c : Ctl) (xb : Reg) (first : BitVec 6) (cnt1 : BitVec 4) :
    Laws.RoundTrip.Statement (.tapchk c xb first cnt1) := by
  refine ⟨?_, ?_⟩
  · exact put_lt (by decide) (BitVec.isLt _) <| put_lt (by decide) (BitVec.isLt _) <| put_lt (by decide) (by decide) <| put_lt (by decide) (by decide) <| put_lt (by decide) (by decide) <| put_lt (by decide) (BitVec.isLt _) <| put_lt (by decide) (by decide) <| by decide
  · show (fun w => (decTapchk c w).orElse fun _ => (decTapchkBind c w).orElse fun _ => decTapchkMask c w) (put 6 first.toNat <| put 4 cnt1.toNat <| put 2 0 <| put 4 0 <| put 6 0 <| put 6 xb.toNat <| put 12 0 <| 0) = _
    simp [decTapchk, rk_put]

theorem Laws.RoundTrip.tapchkBind (c : Ctl) (xa : Reg) : Laws.RoundTrip.Statement (.tapchkBind c xa) := by
  refine ⟨?_, ?_⟩
  · exact put_lt (by decide) (by decide) <| put_lt (by decide) (by decide) <| put_lt (by decide) (by decide) <| put_lt (by decide) (by decide) <| put_lt (by decide) (by decide) <| put_lt (by decide) (BitVec.isLt _) <| put_lt (by decide) (by decide) <| by decide
  · show (fun w => (decTapchk c w).orElse fun _ => (decTapchkBind c w).orElse fun _ => decTapchkMask c w) (put 6 0 <| put 4 0 <| put 2 0 <| put 4 1 <| put 12 0 <| put 6 xa.toNat <| put 6 0 <| 0) = _
    simp [decTapchk, decTapchkBind, rk_put, rd_put_nat]

theorem Laws.RoundTrip.tapchkMask (c : Ctl) (xd : Reg) (wd : BitVec 2) : Laws.RoundTrip.Statement (.tapchkMask c xd wd) := by
  refine ⟨?_, ?_⟩
  · exact put_lt (by decide) (BitVec.isLt _) <| put_lt (by decide) (by decide) <| put_lt (by decide) (by decide) <| put_lt (by decide) (by decide) <| put_lt (by decide) (BitVec.isLt _) <| by decide
  · show (fun w => (decTapchk c w).orElse fun _ => (decTapchkBind c w).orElse fun _ => decTapchkMask c w) (put 2 wd.toNat <| put 10 0 <| put 4 2 <| put 18 0 <| put 6 xd.toNat <| 0) = _
    have hw : ∀ r, put 2 wd.toNat (put 10 0 (put 4 2 r)) = wd.toNat + 8192 + 65536 * r := by
      intro r
      unfold put
      omega
    have h1 : ∀ r, decTapchk c (put 2 wd.toNat (put 10 0 (put 4 2 r))) = none := by
      intro r
      rw [hw]
      have := wd.isLt
      simp only [decTapchk, rd, rk]
      rw [if_pos (by omega), if_neg (by omega)]
    have h2 : ∀ r, decTapchkBind c (put 2 wd.toNat (put 10 0 (put 4 2 r))) = none := by
      intro r
      rw [hw]
      have := wd.isLt
      simp only [decTapchkBind, rk]
      split
      · rw [if_pos (by omega), if_pos (by omega), if_neg (by omega)]
      · rfl
    simp [h1, h2, decTapchkMask, rk_put]

theorem Laws.RoundTrip.vshort (c : Ctl) (v : V3) (bf : Bool) : Laws.RoundTrip.Statement (.vshort c v bf) := by
  refine ⟨?_, ?_⟩
  · exact put_lt (by decide) (by decide) <| put_lt (by decide) bf.toNat_lt <| put_lt (by decide) (by decide) <| put_lt (by decide) v.pb.toNat_lt <| put_lt (by decide) v.pa.toNat_lt <| put_lt (by decide) (BitVec.isLt _) <| put_lt (by decide) (BitVec.isLt _) <| put_lt (by decide) (BitVec.isLt _) <| by decide
  · show decVshort c (put 4 0 <| put 1 bf.toNat <| put 3 0 <| put 1 v.pb.toNat <| put 1 v.pa.toNat <| put 10 v.vb.toNat <| put 10 v.va.toNat <| put 10 v.vd.toNat <| 0) = _
    simp [decVshort, rk_put]

theorem Laws.RoundTrip.vsort (c : Ctl) (v : V3) : Laws.RoundTrip.Statement (.vsort c v) := by
  refine ⟨?_, ?_⟩
  · exact put_lt (by decide) (by decide) <| put_lt (by decide) (by decide) <| put_lt (by decide) v.pb.toNat_lt <| put_lt (by decide) v.pa.toNat_lt <| put_lt (by decide) (BitVec.isLt _) <| put_lt (by decide) (BitVec.isLt _) <| put_lt (by decide) (BitVec.isLt _) <| by decide
  · show (fun w => (decVsort c w).orElse fun _ => decVsortMerge c w) (put 4 0 <| put 4 0 <| put 1 v.pb.toNat <| put 1 v.pa.toNat <| put 10 v.vb.toNat <| put 10 v.va.toNat <| put 10 v.vd.toNat <| 0) = _
    simp [decVsort, rk_put]

theorem Laws.RoundTrip.vsortMerge (c : Ctl) (v : V3) : Laws.RoundTrip.Statement (.vsortMerge c v) := by
  refine ⟨?_, ?_⟩
  · exact put_lt (by decide) (by decide) <| put_lt (by decide) (by decide) <| put_lt (by decide) v.pb.toNat_lt <| put_lt (by decide) v.pa.toNat_lt <| put_lt (by decide) (BitVec.isLt _) <| put_lt (by decide) (BitVec.isLt _) <| put_lt (by decide) (BitVec.isLt _) <| by decide
  · show (fun w => (decVsort c w).orElse fun _ => decVsortMerge c w) (put 4 1 <| put 4 0 <| put 1 v.pb.toNat <| put 1 v.pa.toNat <| put 10 v.vb.toNat <| put 10 v.va.toNat <| put 10 v.vd.toNat <| 0) = _
    simp [decVsort, decVsortMerge, rk_put]

theorem Laws.RoundTrip.vsamp (c : Ctl) (v : V3) (f : Bool) : Laws.RoundTrip.Statement (.vsamp c v f) := by
  refine ⟨?_, ?_⟩
  · exact put_lt (by decide) (by decide) <| put_lt (by decide) f.toNat_lt <| put_lt (by decide) (by decide) <| put_lt (by decide) (by decide) <| put_lt (by decide) v.pb.toNat_lt <| put_lt (by decide) v.pa.toNat_lt <| put_lt (by decide) (BitVec.isLt _) <| put_lt (by decide) (BitVec.isLt _) <| put_lt (by decide) (BitVec.isLt _) <| by decide
  · show (fun w => (decVsamp c w).orElse fun _ => decVsampU c w) (put 1 0 <| put 1 f.toNat <| put 2 0 <| put 4 0 <| put 1 v.pb.toNat <| put 1 v.pa.toNat <| put 10 v.vb.toNat <| put 10 v.va.toNat <| put 10 v.vd.toNat <| 0) = _
    simp [decVsamp, rk_put]

theorem Laws.RoundTrip.vsampU (c : Ctl) (vd vb : QName) (pa pb : Bool) :
    Laws.RoundTrip.Statement (.vsampU c vd vb pa pb) := by
  refine ⟨?_, ?_⟩
  · exact put_lt (by decide) (by decide) <| put_lt (by decide) (by decide) <| put_lt (by decide) pb.toNat_lt <| put_lt (by decide) pa.toNat_lt <| put_lt (by decide) (BitVec.isLt _) <| put_lt (by decide) (by decide) <| put_lt (by decide) (BitVec.isLt _) <| by decide
  · show (fun w => (decVsamp c w).orElse fun _ => decVsampU c w) (put 4 1 <| put 4 0 <| put 1 pb.toNat <| put 1 pa.toNat <| put 10 vb.toNat <| put 10 1023 <| put 10 vd.toNat <| 0) = _
    simp only [decVsamp]
    rw [rk_other]
    · simp [decVsampU, rk_put]
    · unfold put
      omega

theorem Laws.RoundTrip.rngget (c : Ctl) (xd xa : Reg) : Laws.RoundTrip.Statement (.rngget c xd xa) := by
  refine ⟨?_, ?_⟩
  · exact put_lt (by decide) (by decide) <| put_lt (by decide) (by decide) <| put_lt (by decide) (by decide) <| put_lt (by decide) (BitVec.isLt _) <| put_lt (by decide) (BitVec.isLt _) <| by decide
  · show (fun w => (decRngget c w).orElse fun _ => decRnggetPeek c w) (put 16 0 <| put 6 0 <| put 6 0 <| put 6 xa.toNat <| put 6 xd.toNat <| 0) = _
    simp [decRngget, rk_put]

theorem Laws.RoundTrip.rnggetPeek (c : Ctl) (xd xa : Reg) : Laws.RoundTrip.Statement (.rnggetPeek c xd xa) := by
  refine ⟨?_, ?_⟩
  · exact put_lt (by decide) (by decide) <| put_lt (by decide) (by decide) <| put_lt (by decide) (by decide) <| put_lt (by decide) (BitVec.isLt _) <| put_lt (by decide) (BitVec.isLt _) <| by decide
  · show (fun w => (decRngget c w).orElse fun _ => decRnggetPeek c w) (put 16 0 <| put 6 1 <| put 6 0 <| put 6 xa.toNat <| put 6 xd.toNat <| 0) = _
    simp [decRngget, decRnggetPeek, rk_put]

theorem Laws.RoundTrip.rngjmp (c : Ctl) (xa xb : Reg) : Laws.RoundTrip.Statement (.rngjmp c xa xb) := by
  refine ⟨?_, ?_⟩
  · exact put_lt (by decide) (by decide) <| put_lt (by decide) (BitVec.isLt _) <| put_lt (by decide) (BitVec.isLt _) <| put_lt (by decide) (by decide) <| by decide
  · show decRngjmp c (put 22 0 <| put 6 xb.toNat <| put 6 xa.toNat <| put 6 0 <| 0) = _
    simp [decRngjmp, rk_put]

theorem Laws.RoundTrip.gstep (c : Ctl) (v : V2) : Laws.RoundTrip.Statement (.gstep c v) := by
  refine ⟨?_, ?_⟩
  · exact put_lt (by decide) (by decide) <| put_lt (by decide) (by decide) <| put_lt (by decide) (by decide) <| put_lt (by decide) v.pa.toNat_lt <| put_lt (by decide) (by decide) <| put_lt (by decide) (BitVec.isLt _) <| put_lt (by decide) (BitVec.isLt _) <| by decide
  · show decGstep c (put 4 0 <| put 4 5 <| put 1 0 <| put 1 v.pa.toNat <| put 10 0 <| put 10 v.va.toNat <| put 10 v.vd.toNat <| 0) = _
    simp [decGstep, rk_put]

theorem Laws.RoundTrip.vgmask (c : Ctl) (v : V3) (bf : Bool) : Laws.RoundTrip.Statement (.vgmask c v bf) := by
  refine ⟨?_, ?_⟩
  · exact put_lt (by decide) (by decide) <| put_lt (by decide) bf.toNat_lt <| put_lt (by decide) (by decide) <| put_lt (by decide) v.pb.toNat_lt <| put_lt (by decide) v.pa.toNat_lt <| put_lt (by decide) (BitVec.isLt _) <| put_lt (by decide) (BitVec.isLt _) <| put_lt (by decide) (BitVec.isLt _) <| by decide
  · show decVgmask c (put 4 0 <| put 1 bf.toNat <| put 3 0 <| put 1 v.pb.toNat <| put 1 v.pa.toNat <| put 10 v.vb.toNat <| put 10 v.va.toNat <| put 10 v.vd.toNat <| 0) = _
    simp [decVgmask, rk_put]

theorem Laws.RoundTrip.gsave (c : Ctl) (xd xa : Reg) : Laws.RoundTrip.Statement (.gsave c xd xa) := by
  refine ⟨?_, ?_⟩
  · exact put_lt (by decide) (by decide) <| put_lt (by decide) (BitVec.isLt _) <| put_lt (by decide) (BitVec.isLt _) <| by decide
  · show decGsave c (put 28 0 <| put 6 xa.toNat <| put 6 xd.toNat <| 0) = _
    simp [decGsave, rk_put]

theorem Laws.RoundTrip.grest (c : Ctl) (xa xb : Reg) : Laws.RoundTrip.Statement (.grest c xa xb) := by
  refine ⟨?_, ?_⟩
  · exact put_lt (by decide) (by decide) <| put_lt (by decide) (BitVec.isLt _) <| put_lt (by decide) (BitVec.isLt _) <| put_lt (by decide) (by decide) <| by decide
  · show decGrest c (put 22 0 <| put 6 xb.toNat <| put 6 xa.toNat <| put 6 0 <| 0) = _
    simp [decGrest, rk_put]

theorem Laws.RoundTrip.tokout (c : Ctl) (v : V2) : Laws.RoundTrip.Statement (.tokout c v) := by
  refine ⟨?_, ?_⟩
  · exact put_lt (by decide) (by decide) <| put_lt (by decide) (by decide) <| put_lt (by decide) (by decide) <| put_lt (by decide) v.pa.toNat_lt <| put_lt (by decide) (by decide) <| put_lt (by decide) (BitVec.isLt _) <| put_lt (by decide) (BitVec.isLt _) <| by decide
  · show decTokout c (put 4 0 <| put 4 5 <| put 1 0 <| put 1 v.pa.toNat <| put 10 0 <| put 10 v.va.toNat <| put 10 v.vd.toNat <| 0) = _
    simp [decTokout, rk_put]

theorem Laws.RoundTrip.wsw (c : Ctl) (xa xb xc : Reg) : Laws.RoundTrip.Statement (.wsw c xa xb xc) := by
  refine ⟨?_, ?_⟩
  · exact put_lt (by decide) (by decide) <| put_lt (by decide) (BitVec.isLt _) <| put_lt (by decide) (BitVec.isLt _) <| put_lt (by decide) (BitVec.isLt _) <| put_lt (by decide) (by decide) <| by decide
  · show decWsw c (put 16 0 <| put 6 xc.toNat <| put 6 xb.toNat <| put 6 xa.toNat <| put 6 0 <| 0) = _
    simp [decWsw, rk_put]

theorem Laws.RoundTrip.ptbw (c : Ctl) (xa : Reg) (idx : BitVec 6) : Laws.RoundTrip.Statement (.ptbw c xa idx) := by
  refine ⟨?_, ?_⟩
  · exact put_lt (by decide) (BitVec.isLt _) <| put_lt (by decide) (by decide) <| put_lt (by decide) (by decide) <| put_lt (by decide) (by decide) <| put_lt (by decide) (BitVec.isLt _) <| put_lt (by decide) (by decide) <| by decide
  · show (fun w => (decPtbw c w).orElse fun _ => decPtbwH c w) (put 6 idx.toNat <| put 6 0 <| put 4 0 <| put 12 0 <| put 6 xa.toNat <| put 6 0 <| 0) = _
    simp [decPtbw, rk_put]

theorem Laws.RoundTrip.ptbwH (c : Ctl) (xa : Reg) : Laws.RoundTrip.Statement (.ptbwH c xa) := by
  refine ⟨?_, ?_⟩
  · exact put_lt (by decide) (by decide) <| put_lt (by decide) (by decide) <| put_lt (by decide) (by decide) <| put_lt (by decide) (by decide) <| put_lt (by decide) (BitVec.isLt _) <| put_lt (by decide) (by decide) <| by decide
  · show (fun w => (decPtbw c w).orElse fun _ => decPtbwH c w) (put 6 0 <| put 6 0 <| put 4 1 <| put 12 0 <| put 6 xa.toNat <| put 6 0 <| 0) = _
    simp [decPtbw, decPtbwH, rk_put, rd_put_nat]

theorem Laws.RoundTrip.tlbiPg (c : Ctl) (xa : Reg) : Laws.RoundTrip.Statement (.tlbiPg c xa) := by
  refine ⟨?_, ?_⟩
  · exact put_lt (by decide) (by decide) <| put_lt (by decide) (by decide) <| put_lt (by decide) (by decide) <| put_lt (by decide) (BitVec.isLt _) <| put_lt (by decide) (by decide) <| by decide
  · show (fun w => (decTlbiPg c w).orElse fun _ => (decTlbiBlk c w).orElse fun _ => decTlbiAll c w) (put 12 0 <| put 4 0 <| put 12 0 <| put 6 xa.toNat <| put 6 0 <| 0) = _
    simp [decTlbiPg, rk_put]

theorem Laws.RoundTrip.tlbiBlk (c : Ctl) (xa : Reg) : Laws.RoundTrip.Statement (.tlbiBlk c xa) := by
  refine ⟨?_, ?_⟩
  · exact put_lt (by decide) (by decide) <| put_lt (by decide) (by decide) <| put_lt (by decide) (by decide) <| put_lt (by decide) (BitVec.isLt _) <| put_lt (by decide) (by decide) <| by decide
  · show (fun w => (decTlbiPg c w).orElse fun _ => (decTlbiBlk c w).orElse fun _ => decTlbiAll c w) (put 12 0 <| put 4 1 <| put 12 0 <| put 6 xa.toNat <| put 6 0 <| 0) = _
    simp [decTlbiPg, decTlbiBlk, rk_put]

theorem Laws.RoundTrip.tlbiAll (c : Ctl) : Laws.RoundTrip.Statement (.tlbiAll c) := by
  refine ⟨?_, ?_⟩
  · exact put_lt (by decide) (by decide) <| put_lt (by decide) (by decide) <| put_lt (by decide) (by decide) <| by decide
  · show (fun w => (decTlbiPg c w).orElse fun _ => (decTlbiBlk c w).orElse fun _ => decTlbiAll c w) (put 12 0 <| put 4 2 <| put 24 0 <| 0) = _
    simp [decTlbiPg, decTlbiBlk, decTlbiAll, rk_put]

theorem Laws.RoundTrip.quar (c : Ctl) (xa xb : Reg) (wd : BitVec 2) : Laws.RoundTrip.Statement (.quar c xa xb wd) := by
  refine ⟨?_, ?_⟩
  · exact put_lt (by decide) (BitVec.isLt _) <| put_lt (by decide) (by decide) <| put_lt (by decide) (by decide) <| put_lt (by decide) (by decide) <| put_lt (by decide) (BitVec.isLt _) <| put_lt (by decide) (BitVec.isLt _) <| put_lt (by decide) (by decide) <| by decide
  · show decQuar c (put 2 wd.toNat <| put 10 0 <| put 4 0 <| put 6 0 <| put 6 xb.toNat <| put 6 xa.toNat <| put 6 0 <| 0) = _
    simp [decQuar, rk_put]

theorem Laws.RoundTrip.slotw (c : Ctl) (xa : Reg) (n : BitVec 6) : Laws.RoundTrip.Statement (.slotw c xa n) := by
  refine ⟨?_, ?_⟩
  · exact put_lt (by decide) (BitVec.isLt _) <| put_lt (by decide) (by decide) <| put_lt (by decide) (by decide) <| put_lt (by decide) (by decide) <| put_lt (by decide) (BitVec.isLt _) <| put_lt (by decide) (by decide) <| by decide
  · show decSlotw c (put 6 n.toNat <| put 6 0 <| put 4 0 <| put 12 0 <| put 6 xa.toNat <| put 6 0 <| 0) = _
    simp [decSlotw, rk_put]

theorem Laws.RoundTrip.bmapwFree (c : Ctl) (xa : Reg) : Laws.RoundTrip.Statement (.bmapwFree c xa) := by
  refine ⟨?_, ?_⟩
  · exact put_lt (by decide) (by decide) <| put_lt (by decide) (by decide) <| put_lt (by decide) (by decide) <| put_lt (by decide) (BitVec.isLt _) <| put_lt (by decide) (by decide) <| by decide
  · show (fun w => (decBmapwFree c w).orElse fun _ => decBmapwSet c w) (put 12 0 <| put 4 0 <| put 12 0 <| put 6 xa.toNat <| put 6 0 <| 0) = _
    simp [decBmapwFree, rk_put]

theorem Laws.RoundTrip.bmapwSet (c : Ctl) (xa xb : Reg) : Laws.RoundTrip.Statement (.bmapwSet c xa xb) := by
  refine ⟨?_, ?_⟩
  · exact put_lt (by decide) (by decide) <| put_lt (by decide) (by decide) <| put_lt (by decide) (by decide) <| put_lt (by decide) (BitVec.isLt _) <| put_lt (by decide) (BitVec.isLt _) <| put_lt (by decide) (by decide) <| by decide
  · show (fun w => (decBmapwFree c w).orElse fun _ => decBmapwSet c w) (put 12 0 <| put 4 1 <| put 6 0 <| put 6 xb.toNat <| put 6 xa.toNat <| put 6 0 <| 0) = _
    simp [decBmapwFree, decBmapwSet, rk_put]

theorem Laws.RoundTrip.halt (c : Ctl) (xa : Reg) : Laws.RoundTrip.Statement (.halt c xa) := by
  refine ⟨?_, ?_⟩
  · exact put_lt (by decide) (by decide) <| put_lt (by decide) (BitVec.isLt _) <| put_lt (by decide) (by decide) <| by decide
  · show decHalt c (put 28 0 <| put 6 xa.toNat <| put 6 0 <| 0) = _
    simp [decHalt, rk_put]

theorem Laws.RoundTrip.resume (c : Ctl) (xa : Reg) : Laws.RoundTrip.Statement (.resume c xa) := by
  refine ⟨?_, ?_⟩
  · exact put_lt (by decide) (by decide) <| put_lt (by decide) (BitVec.isLt _) <| put_lt (by decide) (by decide) <| by decide
  · show decResume c (put 28 0 <| put 6 xa.toNat <| put 6 0 <| 0) = _
    simp [decResume, rk_put]

theorem Laws.RoundTrip.eret (c : Ctl) : Laws.RoundTrip.Statement (.eret c) := by
  refine ⟨?_, ?_⟩
  · exact put_lt (by decide) (by decide) <| by decide
  · show decEret c (put 40 0 <| 0) = _
    simp [decEret, rk_put]

theorem Laws.RoundTrip.ipi (c : Ctl) (xa : Reg) (code : BitVec 12) : Laws.RoundTrip.Statement (.ipi c xa code) := by
  refine ⟨?_, ?_⟩
  · exact put_lt (by decide) (BitVec.isLt _) <| put_lt (by decide) (by decide) <| put_lt (by decide) (by decide) <| put_lt (by decide) (BitVec.isLt _) <| put_lt (by decide) (by decide) <| by decide
  · show decIpi c (put 12 code.toNat <| put 4 0 <| put 12 0 <| put 6 xa.toNat <| put 6 0 <| 0) = _
    simp [decIpi, rk_put]

theorem Laws.RoundTrip.partw (c : Ctl) (xa xb : Reg) (sel : BitVec 5) :
    Laws.RoundTrip.Statement (.partw c xa xb sel) := by
  refine ⟨?_, ?_⟩
  · exact put_lt (by decide) (BitVec.isLt _) <| put_lt (by decide) (by decide) <| put_lt (by decide) (by decide) <| put_lt (by decide) (by decide) <| put_lt (by decide) (BitVec.isLt _) <| put_lt (by decide) (BitVec.isLt _) <| put_lt (by decide) (by decide) <| by decide
  · show decPartw c (put 5 sel.toNat <| put 7 0 <| put 4 0 <| put 6 0 <| put 6 xb.toNat <| put 6 xa.toNat <| put 6 0 <| 0) = _
    simp [decPartw, rk_put]

theorem Laws.RoundTrip.islw (c : Ctl) (xa xb : Reg) : Laws.RoundTrip.Statement (.islw c xa xb) := by
  refine ⟨?_, ?_⟩
  · exact put_lt (by decide) (by decide) <| put_lt (by decide) (BitVec.isLt _) <| put_lt (by decide) (BitVec.isLt _) <| put_lt (by decide) (by decide) <| by decide
  · show decIslw c (put 22 0 <| put 6 xb.toNat <| put 6 xa.toNat <| put 6 0 <| 0) = _
    simp [decIslw, rk_put]

theorem Laws.RoundTrip.forcedStopPoint (k : Nat) (ctx : Ctx) : Laws.RoundTrip.Statement (.forcedStopPoint k ctx) := rfl

theorem Laws.RoundTrip.deadlk (k : Nat) : Laws.RoundTrip.Statement (.deadlk k) := rfl

theorem Laws.RoundTrip.tlbWalk (k va : Nat) : Laws.RoundTrip.Statement (.tlbWalk k va) := rfl

theorem Laws.RoundTrip.xlateService (k who id : Nat) (mapped : Bool) :
    Laws.RoundTrip.Statement (.xlateService k who id mapped) := rfl

theorem Laws.RoundTrip.pageMove (part va dest addr : Nat) :
    Laws.RoundTrip.Statement (.pageMove part va dest addr) := rfl

theorem Laws.RoundTrip.pageSupplyAnswer (k : Nat) (ctx : Ctx) (id : Nat) (page : Option Nat) :
    Laws.RoundTrip.Statement (.pageSupplyAnswer k ctx id page) := rfl

theorem Laws.RoundTrip.holdWindowExpire (part va : Nat) : Laws.RoundTrip.Statement (.holdWindowExpire part va) := rfl

theorem Laws.RoundTrip.migrationGo (mva : Nat) (dir : Bool) (part : Nat) :
    Laws.RoundTrip.Statement (.migrationGo mva dir part) := rfl

theorem Laws.RoundTrip.hostDeviceWrite (pa : Nat) (data : List Byte) :
    Laws.RoundTrip.Statement (.hostDeviceWrite pa data) := rfl

theorem Laws.RoundTrip.taskSelect (part : Nat) : Laws.RoundTrip.Statement (.taskSelect part) := rfl

theorem Laws.RoundTrip.reservationRequest (task k : Nat) : Laws.RoundTrip.Statement (.reservationRequest task k) := rfl

theorem Laws.RoundTrip.coreRelease (k : Nat) : Laws.RoundTrip.Statement (.coreRelease k) := rfl

theorem Laws.RoundTrip.raggedDistribute (task : Nat) : Laws.RoundTrip.Statement (.raggedDistribute task) := rfl

theorem Laws.RoundTrip.coreStart (k : Nat) : Laws.RoundTrip.Statement (.coreStart k) := rfl

theorem Laws.RoundTrip.coreDrainDone (k : Nat) : Laws.RoundTrip.Statement (.coreDrainDone k) := rfl

theorem Laws.RoundTrip.taskCommit (part : Nat) : Laws.RoundTrip.Statement (.taskCommit part) := rfl

theorem Laws.RoundTrip.supervisorResume (k : Nat) (ctx : Ctx) (x56 x57 : Word) :
    Laws.RoundTrip.Statement (.supervisorResume k ctx x56 x57) := rfl

theorem Laws.RoundTrip.supervisorReflect (k : Nat) (ctx : Ctx) : Laws.RoundTrip.Statement (.supervisorReflect k ctx) := rfl

theorem Laws.RoundTrip.supervisorEndFault (task : Nat) : Laws.RoundTrip.Statement (.supervisorEndFault task) := rfl

theorem Laws.RoundTrip.preemptSave (task area : Nat) : Laws.RoundTrip.Statement (.preemptSave task area) := rfl

theorem Laws.RoundTrip.scrubError (part kind addr : Nat) :
    Laws.RoundTrip.Statement (.scrubError part kind addr) := rfl

theorem Laws.RoundTrip.specdepthWrite (part : Nat) (v : Word) : Laws.RoundTrip.Statement (.specdepthWrite part v) := rfl

theorem Laws.RoundTrip.vbquotaWrite (part : Nat) (v : Word) : Laws.RoundTrip.Statement (.vbquotaWrite part v) := rfl

theorem Laws.RoundTrip.reddlWrite (part : Nat) (v : Word) : Laws.RoundTrip.Statement (.reddlWrite part v) := rfl

theorem Laws.RoundTrip.ptbaseWrite (part : Nat) (v : Word) : Laws.RoundTrip.Statement (.ptbaseWrite part v) := rfl

theorem Laws.RoundTrip.tqspareWrite (part : Nat) (v : Word) : Laws.RoundTrip.Statement (.tqspareWrite part v) := rfl

theorem Laws.RoundTrip.schctlPre (part : Nat) : Laws.RoundTrip.Statement (.schctlPre part) := rfl

theorem Laws.RoundTrip.schctlHold (part : Nat) (hold : Bool) : Laws.RoundTrip.Statement (.schctlHold part hold) := rfl

theorem Laws.RoundTrip.registerWrite (off : Nat) (v : Word) : Laws.RoundTrip.Statement (.registerWrite off v) := rfl

theorem Laws.RoundTrip.queueEnable (q : Nat) (v : Word) : Laws.RoundTrip.Statement (.queueEnable q v) := rfl

theorem Laws.RoundTrip.kick (q : Nat) (tail : BitVec 32) : Laws.RoundTrip.Statement (.kick q tail) := rfl

theorem Laws.RoundTrip.entryFetch (q : Nat) : Laws.RoundTrip.Statement (.entryFetch q) := rfl

theorem Laws.RoundTrip.frameBoundary : Laws.RoundTrip.Statement (.frameBoundary) := rfl

theorem Laws.RoundTrip.wsRefreshWindow (bank : Nat) : Laws.RoundTrip.Statement (.wsRefreshWindow bank) := rfl

theorem Laws.RoundTrip.leaveGrant (island : Nat) : Laws.RoundTrip.Statement (.leaveGrant island) := rfl

theorem Laws.RoundTrip.linkFlitRetry (link : Nat) : Laws.RoundTrip.Statement (.linkFlitRetry link) := rfl

theorem Laws.RoundTrip.powerOn : Laws.RoundTrip.Statement (.powerOn) := rfl

theorem Laws.RoundTrip.pcieFundamentalReset : Laws.RoundTrip.Statement (.pcieFundamentalReset) := rfl

theorem Laws.RoundTrip.bootctlCold : Laws.RoundTrip.Statement (.bootctlCold) := rfl

theorem Laws.RoundTrip.bootctlWarm : Laws.RoundTrip.Statement (.bootctlWarm) := rfl

theorem Laws.RoundTrip.stageTimeout : Laws.RoundTrip.Statement (.stageTimeout) := rfl

theorem Laws.RoundTrip.icarnColdReset : Laws.RoundTrip.Statement (.icarnColdReset) := rfl

theorem Laws.RoundTrip.writeInFlightCompletes (k : Nat) (ctx : Ctx) (wid : Nat) :
    Laws.RoundTrip.Statement (.writeInFlightCompletes k ctx wid) := rfl

theorem Laws.RoundTrip.postedStorePerformed (k : Nat) (ctx : Ctx) (idx die : Nat) :
    Laws.RoundTrip.Statement (.postedStorePerformed k ctx idx die) := rfl

theorem Laws.RoundTrip.hostPortDown (port : Nat) (up : Bool) : Laws.RoundTrip.Statement (.hostPortDown port up) := rfl

theorem Laws.RoundTrip.linkStateChange (link st peer : Nat) :
    Laws.RoundTrip.Statement (.linkStateChange link st peer) := rfl

theorem Laws.RoundTrip.islandPowerGating (island : Nat) (gated : Bool) :
    Laws.RoundTrip.Statement (.islandPowerGating island gated) := rfl

theorem Laws.RoundTrip.landingProcessorWrite (pa : Nat) (data : List Byte) :
    Laws.RoundTrip.Statement (.landingProcessorWrite pa data) := rfl

end Sys2Proof
end

