-- ==== Sys2Proof/Tests/Slice0.lean ====
section
/-! SUPPORT. Tests: words decode as the spec lays them out, ill-formed terms are refused, single steps give the rules' results,
and every statement's hypotheses are met by a state and operands written out here. -/

namespace Sys2Proof.Tests

open Sys2Proof Sys2Proof.Machine

-- One theorem at a time: each of these evaluates in the kernel, and threads have large stacks.
set_option Elab.async false
set_option linter.unusedVariables false

/-! ### Decoding: words laid out from the spec's formats, and the words that the spec itself works out -/

/-- A value of fields laid side by side, each given by its width and its value, the first in the highest bits. -/
def laid (fs : List (Nat × Nat)) : Nat := fs.foldl (fun n f => n * 2 ^ f.1 + f.2 % 2 ^ f.1) 0

/-- The word with a control half of zeros, this opcode and these operand fields (R82, R89). -/
def wordOf (op : Nat) (fs : List (Nat × Nat)) : Word := BitVec.ofNat 64 (op * 2 ^ 40 + laid fs)

/-- Each word, laid out by its opcode and 40 bits of fields, decodes to its instruction. -/
def decodesAll (l : List (Nat × List (Nat × Nat) × Instr)) : Bool :=
  l.all fun r => (r.2.1.map (·.1)).sum == 40 && (match decode (wordOf r.1 r.2.1) with | .ok i => i == r.2.2 | .error _ => false)

/-- Each word decodes to its instruction. -/
def wordsDecode (l : List (Word × Instr)) : Bool :=
  l.all fun r => match decode r.1 with | .ok i => i == r.2 | .error _ => false

/-- The control half of a word that is marked STOP and does nothing else. -/
def stops : Ctl := { Ctl.none with stop := true }

/-- A word laid out as `wordOf` says, with STOP. -/
def stopsAll (l : List (Nat × List (Nat × Nat) × Instr)) : Bool :=
  l.all fun r => (r.2.1.map (·.1)).sum == 40 &&
    (match decode (wordOf r.1 r.2.1 ||| 0x8000000000000000) with | .ok i => i == r.2.2 | .error _ => false)

-- Format S3: xd 6, xa 6, xb 6, fn 6, imm 16 (the table before R134).
theorem test_decode_register_words : decodesAll [
    (0x00, [(40, 0)], .nop .none),
    (0x01, [(6, 5), (6, 7), (6, 9), (6, 0), (16, 0)], .add .none 5 7 9),
    (0x02, [(6, 5), (6, 7), (6, 9), (6, 0), (16, 0)], .sub .none 5 7 9),
    (0x03, [(6, 5), (6, 7), (6, 9), (6, 0), (16, 0)], .mul .none 5 7 9),
    (0x04, [(6, 63), (6, 1), (6, 2), (6, 2), (16, 0)], .mulh .none 63 1 2 .su),
    (0x04, [(6, 63), (6, 1), (6, 2), (6, 1), (16, 0)], .mulh .none 63 1 2 .uu),
    (0x05, [(6, 1), (6, 2), (6, 3), (6, 1), (16, 0)], .div .none 1 2 3 true),
    (0x06, [(6, 1), (6, 2), (6, 3), (6, 0), (16, 0)], .rem .none 1 2 3 false),
    (0x08, [(6, 1), (6, 2), (6, 3), (6, 0), (16, 0)], .and .none 1 2 3),
    (0x09, [(6, 1), (6, 2), (6, 3), (6, 0), (16, 0)], .or .none 1 2 3),
    (0x0A, [(6, 1), (6, 2), (6, 3), (6, 0), (16, 0)], .xor .none 1 2 3),
    (0x0E, [(6, 1), (6, 2), (6, 3), (6, 0), (16, 63)], .shl .none 1 2 3 63),
    (0x0F, [(6, 1), (6, 2), (6, 3), (6, 0), (16, 33)], .shr .none 1 2 3 33),
    (0x10, [(6, 1), (6, 2), (6, 3), (6, 0), (16, 1)], .sar .none 1 2 3 1),
    (0x11, [(6, 1), (6, 2), (6, 3), (6, 0), (16, 2)], .rol .none 1 2 3 2),
    (0x12, [(6, 1), (6, 2), (6, 3), (6, 1), (16, 0)], .min .none 1 2 3 true),
    (0x13, [(6, 1), (6, 2), (6, 3), (6, 0), (16, 0)], .max .none 1 2 3 false),
    (0x14, [(6, 1), (6, 2), (6, 3), (6, 4), (16, 0)], .cmp .none .ltu 1 2 3),
    (0x16, [(6, 1), (6, 2), (6, 3), (6, 63), (16, 0)], .csel .none 1 63 2 3),
    (0x18, [(6, 1), (6, 2), (6, 0), (6, 0), (16, 0)], .clz .none 1 2),
    (0x19, [(6, 1), (6, 2), (6, 0), (6, 0), (16, 0)], .popc .none 1 2),
    (0x1C, [(6, 1), (6, 2), (6, 0), (6, 0), (16, 0)], .bswap .none 1 2),
    (0x1A, [(6, 1), (6, 2), (6, 0), (6, 0), (3, 0), (1, 1), (6, 7), (6, 56)], .extr .none 1 2 true 7 56),
    (0x1B, [(6, 1), (6, 2), (6, 0), (6, 0), (3, 0), (1, 0), (6, 63), (6, 0)], .insr .none 1 2 63 0)] = true := by decide +kernel

-- Formats SI (xd 6, xa 6, imm 28) and SL (xd 6, part 2, imm 32); R136, R137, R139.
theorem test_decode_immediate_words : decodesAll [
    (0x07, [(6, 5), (6, 7), (28, 2 ^ 28 - 1)], .addi .none 5 7 (-1)),
    (0x0B, [(6, 5), (6, 7), (28, 0x7FFFFFF)], .andi .none 5 7 0x7FFFFFF),
    (0x0C, [(6, 5), (6, 7), (28, 1)], .ori .none 5 7 1),
    (0x0D, [(6, 5), (6, 7), (28, 2)], .xori .none 5 7 2),
    (0x1D, [(6, 5), (6, 7), (28, 3)], .muli .none 5 7 3),
    (0x15, [(6, 5), (6, 7), (4, 3), (24, 2 ^ 24 - 2)], .cmpi .none .ge 5 7 (-2)),
    (0x17, [(6, 5), (2, 0), (32, 0x12345678)], .limm .none 5 .lo 0x12345678),
    (0x17, [(6, 5), (2, 1), (32, 1)], .limm .none 5 .hi 1),
    (0x17, [(6, 5), (2, 2), (32, 0xFFFFFFFF)], .limm .none 5 .s 0xFFFFFFFF),
    (0x17, [(6, 5), (2, 3), (32, 2)], .limm .none 5 .z 2)] = true := by decide +kernel

-- R142 to R159.
theorem test_decode_control_words : decodesAll [
    (0x20, [(6, 0), (6, 0), (4, 6), (24, 2 ^ 24 - 5)], .br .none .al 0 0 (-5)),
    (0x21, [(6, 1), (6, 2), (6, 0), (6, 0), (16, 0xFFFF)], .jmpr .none 1 2 0xFFFF),
    (0x22, [(6, 0), (6, 4), (6, 0), (6, 0), (16, 9)], .loop .none 4 9),
    (0x22, [(6, 0), (6, 0), (6, 0), (6, 0b001101), (16, 9)], .loopN .none 5 9),
    (0x23, [(6, 0), (6, 0), (16, 65535), (12, 4095)], .loopi .none 65535 4095),
    (0x28, [(6, 0), (6, 4), (6, 0), (6, 0), (16, 0)], .cqput .none .p 4),
    (0x29, [(6, 3), (6, 0), (6, 0), (6, 1), (16, 0)], .cqget .none 3 .n),
    (0x2A, [(6, 1), (6, 0), (4, 5), (24, 7)], .cqbr .none .geu .n 7),
    (0x2C, [(6, 0), (6, 4), (6, 0), (6, 31), (16, 300)], .tkinc .none 31 4 300),
    (0x2D, [(6, 3), (6, 0), (6, 0), (6, 17), (16, 0)], .tkchk .none 3 17),
    (0x30, [(6, 0), (6, 0), (20, 0), (4, 15), (3, 0), (1, 1)], .mode .none true 15),
    (0x31, [(6, 0), (6, 0), (12, 0), (8, 200), (5, 0), (3, 5)], .leave .none 200 5),
    (0x32, [(6, 5), (6, 1), (6, 0), (6, 0), (16, 0x18)], .capr .none 5 1 0x18),
    (0x33, [(6, 5), (6, 0), (6, 0), (6, 0), (16, 0x8000)], .mfs .none 5 0x8000),
    (0x34, [(6, 0), (6, 5), (6, 0), (6, 0), (16, 2)], .mts .none 2 5),
    (0x39, [(6, 0), (6, 0), (28, 0xABCDEF1)], .brk .none 0xABCDEF1),
    (0x3A, [(6, 0), (6, 0), (28, 1)], .sysc .none 1)] = true ∧
  stopsAll [(0x38, [(40, 0)], .exit stops)] = true := by decide +kernel

-- Format A: xb 6, then 4 zero bits and an x register of 6, or a queue of 10, imm 24 (R225).
theorem test_decode_loads_and_stores : decodesAll [
    (0x40, [(6, 9), (4, 0), (6, 5), (24, 1)], .ldb .none 5 9 1),
    (0x41, [(6, 9), (4, 0), (6, 5), (24, 2)], .ldh .none 5 9 2),
    (0x42, [(6, 9), (4, 0), (6, 5), (24, 4)], .ldw .none 5 9 4),
    (0x43, [(6, 9), (4, 0), (6, 5), (24, 2 ^ 24 - 8)], .ldd .none 5 9 (-8)),
    (0x44, [(6, 9), (4, 0), (6, 5), (24, 1)], .stb .none 5 9 1),
    (0x45, [(6, 9), (4, 0), (6, 5), (24, 2)], .sth .none 5 9 2),
    (0x46, [(6, 9), (4, 0), (6, 5), (24, 4)], .stw .none 5 9 4),
    (0x47, [(6, 9), (4, 0), (6, 5), (24, 8)], .std .none 5 9 8),
    (0x48, [(6, 9), (10, 639), (24, 64)], .vld .none 639 9 64),
    (0x54, [(6, 5), (6, 9), (6, 6), (1, 0), (1, 0), (4, 8), (16, 4)], .amo .none .maxu false 5 9 6 4)] = true := by
  decide +kernel

-- Format E: tko 5, tki0 5, tki1 5, tki2 5, sub 4, rec 16.
theorem test_decode_engine_words : decodesAll [
    (0x49, [(5, 31), (5, 1), (5, 2), (5, 3), (4, 0), (16, 0xC001)], .spld .none ⟨31, 1, 2, 3, 0xC001⟩),
    (0x4A, [(5, 31), (5, 1), (5, 2), (5, 3), (4, 0), (16, 7)], .spst .none ⟨31, 1, 2, 3, 7⟩),
    (0x4B, [(5, 31), (5, 1), (5, 2), (5, 3), (4, 0), (16, 7)], .gath .none ⟨31, 1, 2, 3, 7⟩),
    (0x4C, [(5, 31), (5, 1), (5, 2), (5, 3), (4, 0), (16, 7)], .scat .none ⟨31, 1, 2, 3, 7⟩),
    (0x4D, [(5, 31), (5, 1), (5, 2), (5, 3), (4, 0), (16, 7)], .ldt .none ⟨31, 1, 2, 3, 7⟩),
    (0x50, [(5, 0), (5, 0), (5, 0), (5, 0), (4, 0), (16, 7)], .ferry .none ⟨0, 0, 0, 0, 7⟩),
    (0x50, [(5, 2), (5, 3), (5, 0), (5, 0), (4, 1), (16, 0x800)], .ferryTier .none ⟨2, 3, 0, 0, 0x800⟩),
    (0x50, [(5, 2), (5, 3), (5, 0), (5, 0), (4, 2), (16, 1)], .ferryQ .none ⟨2, 3, 0, 0, 1⟩),
    (0x55, [(5, 2), (5, 3), (5, 0), (5, 0), (4, 0), (16, 1)], .red .none .addF32 ⟨2, 3, 0, 0, 1⟩),
    (0x55, [(5, 2), (5, 3), (5, 0), (5, 0), (4, 1), (16, 1)], .red .none .addI32 ⟨2, 3, 0, 0, 1⟩),
    (0x55, [(5, 2), (5, 3), (5, 0), (5, 0), (4, 5), (16, 1)], .red .none .minI32 ⟨2, 3, 0, 0, 1⟩),
    (0x60, [(5, 2), (5, 3), (5, 0), (5, 0), (4, 0), (16, 1)], .msend .none ⟨2, 3, 0, 0, 1⟩),
    (0x64, [(5, 2), (5, 3), (5, 0), (5, 0), (4, 0), (16, 1)], .stn .none ⟨2, 3, 0, 0, 1⟩),
    (0x64, [(5, 2), (5, 3), (5, 0), (5, 0), (4, 1), (16, 1)], .stnS .none ⟨2, 3, 0, 0, 1⟩),
    (0x6A, [(5, 2), (5, 3), (5, 0), (5, 0), (4, 0), (16, 1)], .tspawn .none ⟨2, 3, 0, 0, 1⟩),
    (0x6B, [(5, 2), (5, 3), (5, 0), (5, 0), (4, 0), (16, 1)], .tgraph .none ⟨2, 3, 0, 0, 1⟩),
    (0x6D, [(5, 2), (5, 3), (5, 0), (5, 0), (4, 0), (16, 1)], .collAllred .none ⟨2, 3, 0, 0, 1⟩),
    (0x6D, [(5, 2), (5, 3), (5, 0), (5, 0), (4, 1), (16, 1)], .collRed .none ⟨2, 3, 0, 0, 1⟩),
    (0x6D, [(5, 2), (5, 3), (5, 0), (5, 0), (4, 2), (16, 1)], .collBcast .none ⟨2, 3, 0, 0, 1⟩),
    (0x6D, [(5, 2), (5, 3), (5, 0), (5, 0), (4, 3), (16, 1)], .collBar .none ⟨2, 3, 0, 0, 1⟩)] = true := by decide +kernel

-- R238, R239, R242 to R245, R252 to R255, R312.
theorem test_decode_ring_and_berth_words : decodesAll [
    (0x52, [(6, 0), (6, 0), (20, 0), (8, 255)], .mark .none 255),
    (0x53, [(6, 0), (6, 0), (25, 0), (1, 1), (2, 2)], .fence .none true 2),
    (0x58, [(6, 0), (6, 7), (6, 0), (1, 0), (1, 1), (4, 15), (16, 0)], .rclaimCfg .none 15 7),
    (0x58, [(6, 7), (6, 0), (6, 0), (1, 0), (1, 0), (4, 15), (16, 0)], .rclaim .none 7 15),
    (0x59, [(6, 0), (6, 0), (6, 0), (6, 14), (16, 0)], .rfill .none 14),
    (0x5A, [(6, 1), (6, 0), (6, 0), (6, 3), (16, 256)], .rwaitf .none 1 3 256),
    (0x5B, [(6, 1), (6, 0), (6, 0), (6, 3), (16, 2)], .rwaite .none 1 3 2),
    (0x5C, [(6, 1), (6, 0), (6, 0), (6, 3), (16, 0)], .rtake .none 1 3),
    (0x5D, [(6, 0), (6, 0), (6, 0), (6, 3), (16, 0)], .rfree .none 3),
    (0x61, [(6, 0), (6, 9), (6, 0), (2, 0), (2, 1), (2, 3), (16, 0)], .mrecvCfg .none 3 9),
    (0x61, [(6, 9), (6, 0), (6, 0), (2, 0), (2, 0), (2, 3), (16, 0)], .mrecv .none 9 3),
    (0x61, [(6, 9), (6, 0), (6, 0), (2, 0), (2, 2), (2, 1), (16, 0)], .mrecvNb .none 9 1),
    (0x62, [(6, 0), (6, 0), (6, 0), (2, 0), (2, 0), (2, 1), (16, 256)], .mqcred .none 1 256),
    (0x65, [(6, 11), (6, 8), (6, 4), (6, 0), (16, 5)], .baddr .none 11 8 4 5),
    (0x66, [(6, 0), (6, 8), (6, 0), (6, 0), (16, 0)], .bshare .none 8),
    (0x67, [(6, 0), (6, 8), (6, 0), (6, 0), (16, 0)], .rlq .none 8),
    (0x68, [(6, 0), (6, 8), (6, 0), (6, 63), (15, 0), (1, 1)], .lbind .none 63 8 true),
    (0x69, [(6, 0), (6, 0), (6, 0), (6, 62), (16, 0)], .lunbind .none 62),
    (0x6C, [(6, 0), (6, 0), (6, 0), (6, 0), (16, 0)], .tyieldFront .none),
    (0x6C, [(6, 0), (6, 5), (6, 0), (6, 1), (16, 0)], .tyieldPast .none 5)] = true := by decide +kernel

-- Formats V3 (vd, va, vb 10 each, peek-a, peek-b, type 4, fn 4) and V4 (10 each); R168 to R172, R175, R176.
theorem test_decode_vector_arithmetic : decodesAll [
    (0x80, [(10, 1), (10, 2), (10, 3), (1, 1), (1, 0), (4, 0), (1, 1), (3, 4)], .vadd .none ⟨1, 2, 3, true, false⟩ .fp32 ⟨true, .rna⟩),
    (0x81, [(10, 1), (10, 2), (10, 3), (1, 0), (1, 1), (4, 7), (1, 1), (3, 0)], .vsub .none ⟨1, 2, 3, false, true⟩ .int8 ⟨true, .rne⟩),
    (0x82, [(10, 1022), (10, 1023), (10, 3), (1, 0), (1, 0), (4, 1), (1, 0), (3, 1)],
      .vmul .none ⟨1022, 1023, 3, false, false⟩ .bf16 ⟨false, .rtz⟩),
    (0x83, [(10, 1), (10, 2), (10, 3), (1, 0), (1, 0), (4, 2), (1, 0), (3, 3)], .vdiv .none ⟨1, 2, 3, false, false⟩ .fp16 ⟨false, .rup⟩),
    (0x84, [(10, 1), (10, 2), (10, 3), (1, 0), (1, 0), (4, 6), (4, 0)], .vmin .none ⟨1, 2, 3, false, false⟩ .int16),
    (0x85, [(10, 1), (10, 2), (10, 3), (1, 0), (1, 0), (4, 8), (4, 0)], .vmax .none ⟨1, 2, 3, false, false⟩ .uint8),
    (0x86, [(10, 1), (10, 2), (10, 3), (10, 4)], .vfmaFp32 .none ⟨1, 2, 3, 4⟩),
    (0x87, [(10, 1), (10, 2), (10, 3), (10, 4)], .vfmaBf16 .none ⟨1, 2, 3, 4⟩),
    (0x88, [(10, 1), (10, 2), (10, 3), (10, 4)], .vfmaFp16 .none ⟨1, 2, 3, 4⟩),
    (0x89, [(10, 1), (10, 2), (10, 0), (1, 1), (1, 0), (4, 5), (4, 8)], .vabs .none ⟨1, 2, true⟩ .int32 true),
    (0x8A, [(10, 1), (10, 2), (10, 0), (1, 0), (1, 0), (4, 0), (4, 0)], .vneg .none ⟨1, 2, false⟩ .fp32 false),
    (0x8B, [(10, 1), (10, 2), (10, 3), (1, 0), (1, 0), (4, 0), (4, 0)], .vand .none ⟨1, 2, 3, false, false⟩),
    (0x8C, [(10, 1), (10, 2), (10, 3), (1, 0), (1, 0), (4, 0), (4, 0)], .vor .none ⟨1, 2, 3, false, false⟩),
    (0x8D, [(10, 1), (10, 2), (10, 3), (1, 0), (1, 0), (4, 0), (4, 0)], .vxor .none ⟨1, 2, 3, false, false⟩),
    (0x8E, [(10, 1), (10, 2), (10, 3), (1, 0), (1, 0), (4, 5), (4, 0)], .vshl .none ⟨1, 2, 3, false, false⟩ .int32),
    (0x8F, [(10, 1), (10, 2), (10, 3), (1, 0), (1, 0), (4, 5), (4, 1)], .vshr .none ⟨1, 2, 3, false, false⟩ .int32 true),
    (0x94, [(10, 1), (10, 2), (10, 3), (1, 0), (1, 0), (4, 3), (4, 5)], .vcmp .none ⟨1, 2, 3, false, false⟩ .e4m3 .ge),
    (0x95, [(10, 1), (10, 2), (10, 3), (10, 4)], .vsel32 .none ⟨1, 2, 3, 4⟩),
    (0x96, [(10, 1), (10, 2), (10, 3), (10, 4)], .vsel16 .none ⟨1, 2, 3, 4⟩),
    (0x97, [(10, 1), (10, 2), (10, 3), (10, 4)], .vsel8 .none ⟨1, 2, 3, 4⟩)] = true := by decide +kernel

-- R173, R177 to R189.
theorem test_decode_vector_functions : decodesAll [
    (0x90, [(10, 1), (10, 2), (1, 1), (4, 0), (15, 0x1FC0)], .vaddi .none ⟨1, 2, true⟩ .fp32 0x1FC0),
    (0x91, [(10, 1), (10, 2), (1, 0), (4, 5), (15, 3)], .vmuli .none ⟨1, 2, false⟩ .int32 3),
    (0x92, [(10, 1), (10, 0), (1, 0), (4, 3), (15, 7)], .vsplatImm .none 1 .e4m3 7),
    (0x92, [(10, 1), (4, 0), (6, 40), (1, 1), (4, 4), (15, 0)], .vsplatReg .none 1 .e5m2 40),
    (0x98, [(10, 1), (10, 2), (10, 3), (1, 0), (1, 0), (4, 0), (4, 9)], .vreds .none ⟨1, 2, 3, false, false⟩ .fp32 ⟨true, .rtz⟩),
    (0x99, [(10, 1), (10, 2), (10, 0), (1, 0), (1, 0), (4, 0), (4, 2)], .vredm .none ⟨1, 2, false⟩ .fp32 .amax),
    (0x9A, [(10, 1), (10, 2), (10, 3), (1, 0), (1, 0), (4, 5), (4, 8)], .vscan .none ⟨1, 2, 3, false, false⟩ .int32 true .rne),
    (0x9B, [(10, 1), (10, 2), (10, 3), (1, 0), (1, 0), (4, 5), (2, 3), (2, 0)], .vsortcCount .none ⟨1, 2, 3, false, false⟩ 3),
    (0x9B, [(10, 1), (10, 2), (10, 0), (1, 1), (1, 0), (4, 5), (2, 0), (2, 1)], .vsortcOrder .none ⟨1, 2, true⟩),
    (0x9B, [(10, 1), (10, 2), (10, 3), (1, 0), (1, 0), (4, 5), (2, 1), (2, 2)], .vsortcSlot .none ⟨1, 2, 3, false, false⟩ 1),
    (0x9C, [(10, 1), (10, 2), (10, 0), (1, 0), (1, 0), (4, 7), (4, 0)], .vspselMask .none ⟨1, 2, false⟩ .int8),
    (0x9C, [(10, 1), (10, 2), (10, 0), (1, 0), (1, 0), (4, 1), (4, 1)], .vspselMeta .none ⟨1, 2, false⟩ .bf16),
    (0x9C, [(10, 1), (10, 2), (10, 0), (1, 0), (1, 0), (4, 1), (4, 2)], .vspselPack .none ⟨1, 2, false⟩ .bf16),
    (0x9D, [(10, 1), (10, 2), (10, 3), (10, 4)], .vrmsnFp32 .none ⟨1, 2, 3, 4⟩),
    (0x9E, [(10, 1), (10, 2), (10, 3), (10, 4)], .vrmsnBf16 .none ⟨1, 2, 3, 4⟩),
    (0x9F, [(10, 1), (10, 2), (10, 3), (1, 0), (1, 1), (4, 0), (4, 5)], .vact .none ⟨1, 2, 3, false, true⟩ .fp32 .swiglu),
    (0x9F, [(10, 1), (10, 2), (10, 0), (1, 0), (1, 0), (4, 0), (4, 4)], .vact .none ⟨1, 2, 0, false, false⟩ .fp32 .tanh),
    (0xA0, [(10, 1), (10, 2), (10, 0), (1, 0), (1, 0), (4, 0), (4, 0)], .vexp .none ⟨1, 2, false⟩ .fp32),
    (0xA0, [(10, 1), (10, 2), (10, 0), (1, 0), (1, 0), (4, 1), (4, 1)], .vexp2 .none ⟨1, 2, false⟩ .bf16),
    (0xA1, [(10, 1), (10, 2), (10, 0), (1, 0), (1, 0), (4, 0), (4, 0)], .vrcp .none ⟨1, 2, false⟩ .fp32),
    (0xA2, [(10, 1), (10, 2), (10, 0), (1, 0), (1, 0), (4, 2), (4, 0)], .vrsq .none ⟨1, 2, false⟩ .fp16),
    (0xA3, [(10, 1), (10, 2), (10, 3), (1, 0), (1, 0), (4, 7), (4, 1)], .vperm .none ⟨1, 2, 3, false, false⟩ .int8 true),
    (0xA4, [(10, 1), (4, 0), (6, 33), (1, 0), (4, 0), (15, 9)], .vlds .none 1 33 9),
    (0xA5, [(4, 0), (6, 33), (10, 2), (1, 1), (4, 0), (15, 9)], .vsts .none 2 true 33 9),
    (0xA6, [(4, 0), (6, 33), (10, 2), (1, 0), (4, 0), (15, 0)], .vqst .none 33 2),
    (0xA7, [(10, 1), (10, 2), (10, 0), (1, 0), (1, 0), (4, 0), (4, 0)], .vmov .none ⟨1, 2, false⟩),
    (0xA8, [(4, 0), (6, 63), (10, 2), (10, 0), (1, 1), (1, 0), (4, 2), (4, 0)], .exadd .none 63 2 true .fp16),
    (0xA8, [(4, 0), (6, 60), (10, 2), (4, 0), (6, 3), (1, 0), (1, 0), (4, 0), (4, 1)], .exaddL .none 60 2 3 false .fp32),
    (0xA9, [(10, 1), (4, 0), (6, 60), (4, 0), (6, 3), (1, 0), (1, 0), (4, 0), (3, 0), (1, 1)], .exrd .none 1 60 3 true),
    (0xAA, [(10, 0), (4, 0), (6, 60), (1, 0), (4, 0), (9, 0), (6, 3)], .exclr .none 60 3)] = true := by decide +kernel

-- Format M: acc 4, nest 3, profile 8, xrow 6, xcol 6, xdep 6, mode 3, flags 4; R198 to R202, R216.
theorem test_decode_matrix_words : decodesAll [
    (0xC0, [(6, 0), (6, 9), (6, 0), (6, 0), (16, 0)], .fqpush .none 9),
    (0xC1, [(6, 0), (6, 0), (25, 0), (3, 4)], .fqmode .none .rna),
    (0xC2, [(6, 0), (6, 9), (6, 0), (6, 15), (16, 0x7F)], .scw .none 15 9 0x7F),
    (0xC3, [(6, 0), (6, 9), (6, 0), (1, 0), (1, 1), (4, 6), (16, 0x7F)], .ctwr .none true 6 9 0x7F),
    (0xC4, [(6, 0), (6, 9), (6, 0), (6, 5), (16, 0xC000)], .nestw .none 5 9 0xC000),
    (0xC8, [(4, 15), (3, 5), (8, 255), (6, 1), (6, 2), (6, 3), (3, 4), (2, 0), (1, 1), (1, 0)],
      .tgo .none ⟨15, 5, 255, 1, 2, 3, 4, true, false⟩),
    (0xC9, [(4, 1), (3, 2), (8, 1), (6, 1), (6, 2), (6, 3), (3, 1), (2, 0), (1, 0), (1, 0)],
      .tgoG .none ⟨1, 2, 1, 1, 2, 3, 1, false, false⟩),
    (0xCA, [(4, 1), (3, 2), (8, 1), (6, 1), (6, 2), (6, 3), (3, 3), (2, 0), (1, 0), (1, 1)],
      .tgoSp .none ⟨1, 2, 1, 1, 2, 3, 3, false, true⟩),
    (0xD0, [(4, 9), (36, 0)], .accz .none 9),
    (0xD1, [(10, 1), (6, 0), (4, 9), (1, 0), (4, 5), (1, 0), (6, 33), (1, 0), (7, 100)], .accrd .none 1 9 .int32 33 100),
    (0xD2, [(4, 9), (3, 0), (8, 0), (6, 0), (6, 0), (2, 0), (4, 7), (3, 1), (4, 0)], .accmov .none 9 7 true),
    (0xD3, [(4, 9), (3, 1), (8, 0), (6, 4), (6, 5), (6, 0), (3, 0), (2, 0), (1, 1), (1, 0)], .accst .none ⟨9, 1, 4, 5, true⟩),
    (0xD4, [(4, 9), (3, 1), (8, 0), (6, 4), (6, 5), (6, 0), (3, 0), (2, 0), (1, 0), (1, 0)], .accld .none ⟨9, 1, 4, 5, false⟩)] = true := by
  decide +kernel

-- Format L: slot 6, qa 10, qb 10, qc 10, fn 4 (R262).
theorem test_decode_ladder_words : decodesAll [
    (0xD8, [(6, 63), (10, 1), (10, 2), (10, 0), (4, 1)], .lapp .none 63 1 2 true),
    (0xD9, [(6, 63), (10, 600), (10, 601), (6, 0), (4, 12), (4, 0)], .lappb .none 63 600 601 12 false),
    (0xDA, [(6, 63), (10, 1), (10, 2), (10, 620), (1, 1), (1, 1), (2, 0)], .lreadOrd .none 63 1 2 620 true true),
    (0xDA, [(6, 63), (10, 1), (10, 2), (10, 620), (1, 0), (1, 0), (2, 1)], .lreadExa .none 63 1 2 620 false false),
    (0xDA, [(6, 63), (10, 1), (10, 2), (10, 620), (1, 1), (1, 0), (2, 2)], .lreadRungs .none 63 1 2 620 true),
    (0xDB, [(6, 63), (4, 0), (6, 62), (10, 0), (10, 0), (4, 0)], .lfork .none 63 62),
    (0xDC, [(6, 63), (4, 0), (6, 62), (10, 0), (10, 0), (4, 0)], .ltruncLow .none 63 62),
    (0xDC, [(6, 63), (4, 0), (6, 62), (10, 0), (10, 0), (4, 1)], .ltruncCkpt .none 63 62),
    (0xDD, [(6, 63), (10, 0), (10, 0), (10, 0), (4, 0)], .ldrop .none 63),
    (0xDE, [(6, 63), (10, 0), (10, 0), (10, 1022), (4, 0)], .lstat .none 63 1022)] = true := by decide +kernel

-- R318, R324, R329, R333.
theorem test_decode_generation_words : decodesAll [
    (0xE1, [(10, 1), (10, 2), (10, 3), (1, 0), (1, 1), (4, 1), (4, 0)], .vshort .none ⟨1, 2, 3, false, true⟩ true),
    (0xE2, [(10, 1), (10, 2), (10, 3), (1, 0), (1, 0), (4, 0), (4, 0)], .vsort .none ⟨1, 2, 3, false, false⟩),
    (0xE2, [(10, 1), (10, 2), (10, 3), (1, 0), (1, 0), (4, 0), (4, 1)], .vsortMerge .none ⟨1, 2, 3, false, false⟩),
    (0xE3, [(10, 1), (10, 2), (10, 3), (1, 0), (1, 0), (4, 0), (4, 0)], .vsamp .none ⟨1, 2, 3, false, false⟩ false),
    (0xE3, [(10, 1), (10, 2), (10, 3), (1, 0), (1, 0), (4, 0), (4, 2)], .vsamp .none ⟨1, 2, 3, false, false⟩ true),
    (0xE3, [(10, 1), (10, 1023), (10, 3), (1, 0), (1, 1), (4, 0), (4, 1)], .vsampU .none 1 3 false true),
    (0xE4, [(6, 1), (6, 2), (6, 0), (6, 0), (16, 0)], .rngget .none 1 2),
    (0xE4, [(6, 1), (6, 2), (6, 0), (6, 1), (16, 0)], .rnggetPeek .none 1 2),
    (0xE5, [(6, 0), (6, 2), (6, 3), (6, 0), (16, 0)], .rngjmp .none 2 3),
    (0xE6, [(10, 1), (10, 2), (10, 0), (1, 1), (1, 0), (4, 5), (4, 0)], .gstep .none ⟨1, 2, true⟩),
    (0xE7, [(10, 1), (10, 2), (10, 3), (1, 0), (1, 0), (4, 0), (4, 0)], .vgmask .none ⟨1, 2, 3, false, false⟩ false),
    (0xE8, [(6, 1), (6, 2), (6, 0), (6, 0), (16, 0)], .gsave .none 1 2),
    (0xE9, [(6, 0), (6, 2), (6, 3), (6, 0), (16, 0)], .grest .none 2 3),
    (0xEA, [(10, 1), (10, 2), (10, 0), (1, 0), (1, 0), (4, 5), (4, 0)], .tokout .none ⟨1, 2, false⟩)] = true ∧
  stopsAll [
    (0xE0, [(6, 0), (6, 0), (6, 4), (6, 0), (4, 0), (2, 0), (4, 1), (6, 62)], .tapchk stops 4 62 1),
    (0xE0, [(6, 0), (6, 4), (6, 0), (6, 0), (4, 1), (12, 0)], .tapchkBind stops 4),
    (0xE0, [(6, 4), (6, 0), (6, 0), (6, 0), (4, 2), (10, 0), (2, 3)], .tapchkMask stops 4 3)] = true := by decide +kernel

-- Format T: xd 6, xa 6, xb 6, xc 6, fn 4, imm 12 (the table of R369).
theorem test_decode_system_words : decodesAll [
    (0xF0, [(6, 0), (6, 1), (6, 2), (6, 3), (4, 0), (12, 0)], .wsw .none 1 2 3),
    (0xF1, [(6, 0), (6, 1), (6, 0), (6, 0), (4, 0), (6, 0), (6, 63)], .ptbw .none 1 63),
    (0xF1, [(6, 0), (6, 1), (6, 0), (6, 0), (4, 1), (12, 0)], .ptbwH .none 1),
    (0xF2, [(6, 0), (6, 1), (6, 0), (6, 0), (4, 0), (12, 0)], .tlbiPg .none 1),
    (0xF2, [(6, 0), (6, 1), (6, 0), (6, 0), (4, 1), (12, 0)], .tlbiBlk .none 1),
    (0xF2, [(6, 0), (6, 0), (6, 0), (6, 0), (4, 2), (12, 0)], .tlbiAll .none),
    (0xF3, [(6, 0), (6, 1), (6, 2), (6, 0), (4, 0), (10, 0), (2, 3)], .quar .none 1 2 3),
    (0xF4, [(6, 0), (6, 1), (6, 0), (6, 0), (4, 0), (6, 0), (6, 63)], .slotw .none 1 63),
    (0xF5, [(6, 0), (6, 1), (6, 0), (6, 0), (4, 0), (12, 0)], .bmapwFree .none 1),
    (0xF5, [(6, 0), (6, 1), (6, 2), (6, 0), (4, 1), (12, 0)], .bmapwSet .none 1 2),
    (0xF6, [(6, 0), (6, 1), (6, 0), (6, 0), (4, 0), (12, 0)], .halt .none 1),
    (0xF7, [(6, 0), (6, 1), (6, 0), (6, 0), (4, 0), (12, 0)], .resume .none 1),
    (0xF9, [(6, 0), (6, 1), (6, 0), (6, 0), (4, 0), (12, 0xFFF)], .ipi .none 1 0xFFF),
    (0xFA, [(6, 0), (6, 1), (6, 2), (6, 0), (4, 0), (7, 0), (5, 29)], .partw .none 1 2 29),
    (0xFB, [(6, 0), (6, 1), (6, 2), (6, 0), (4, 0), (12, 0)], .islw .none 1 2)] = true ∧
  stopsAll [(0xF8, [(40, 0)], .eret stops)] = true := by decide +kernel

-- Words that the spec works out itself, with the operands it names; the file of each stands beside it.
theorem test_decode_words_of_the_spec : wordsDecode [
    (0x4040000000000000, .nop { Ctl.none with popp := true, pushn := true }),                      -- 02, (6)
    (0x0000230000004002, .loopi .none 4 2),                                                        -- 06, (2)
    (0x000064000000000C, .stn .none ⟨0, 0, 0, 0, 12⟩),                                               -- 09, R253
    (0x0000DA165A96E6C1, .lreadExa .none 5 602 603 620 false false),                               -- 10, R273
    (0x000247780F300060, .std { Ctl.none with stk := 1 } 15 30 0x300060),                          -- 11
    (0x0000580070100000, .rclaimCfg .none 0 7),                                                    -- 11, (12)
    (0x0080590000000000, .rfill { Ctl.none with pushp := true } 0),                                -- 11, (13)
    (0x0440000000000000, .nop { Ctl.none with wtk := 4, pushn := true }),                          -- 11, (14)
    (0x4300C80002516630, .tgo { Ctl.none with popp := true, wtk := 3 } ⟨0, 0, 1, 10, 11, 12, 3, false, false⟩),  -- 11, (18)
    (0x0040D30000516000, .accst { Ctl.none with pushn := true } ⟨0, 0, 10, 11, false⟩),            -- 11, (19)
    (0x40004A314000C003, .spst { Ctl.none with popp := true } ⟨6, 5, 0, 0, 0xC003⟩),               -- 11, (22)
    (0x00406803F0000000, .lbind { Ctl.none with pushn := true } 0 63 false),                       -- 12, (6)
    (0x0000A40040500001, .vlds .none 1 5 1),                                                       -- 12, (8)
    (0x8000D80000004001, .lapp stops 0 0 1 true),                                                  -- 12, (8)
    (0x0000DE00000026C0, .lstat .none 0 620),                                                      -- 12, (11)
    (0x0040A50026C00810, .vsts { Ctl.none with pushn := true } 620 false 0 0x810),                 -- 12, (13)
    (0x00006C0050010000, .tyieldPast .none 5),                                                     -- 13, R312
    (0x8000E00001000040, .tapchk stops 4 0 1),                                                     -- 14, R318
    (0x00009B00658FFE50, .vsortcCount .none ⟨1, 600, 1023, true, false⟩ 0),                        -- 15, (6)
    (0x06006031C000C006, .msend { Ctl.none with wtk := 6 } ⟨6, 7, 0, 0, 0xC006⟩),            -- 15, (21)
    (0x00086800A0000001, .lbind { Ctl.none with stk := 4 } 0 10 true),        -- 16, (7)
    (0x00006A314E700901, .tspawn .none ⟨6, 5, 7, 7, 0x901⟩),                                       -- 16, (14)
    (0x8000E00010001000, .tapchkBind stops 1),                                                     -- 16, (16)
    (0x0000E90040C00000, .grest .none 4 3),                                                        -- 16, (17)
    (0x0000E6FFA5900050, .gstep .none ⟨1022, 601, false⟩),                                         -- 16, (19)
    (0x0000530000000006, .fence .none true 2),                                                     -- 17
    (0x00006540F0000000, .baddr .none 16 15 0 0),                                                  -- 18, (6)
    (0x00005010C0010800, .ferryTier .none ⟨2, 3, 0, 0, 0x800⟩),                                    -- 18, (8)
    (0x0002DA000400E6C2, .lreadRungs { Ctl.none with stk := 1 } 0 4 3 620 false),                  -- 18, (10)
    (0x8100A60166C00000, .vqst { Ctl.none with stop := true, wtk := 1 } 5 620),                    -- 18, (11)
    (0x0000A80026C00401, .exaddL .none 0 620 1 false .fp32),                                       -- 18, (12)
    (0x0000A30166C01D50, .vperm .none ⟨5, 620, 7, false, true⟩ .int32 false),                      -- 18, (14)
    (0x0000A902C0000400, .exrd .none 11 0 1 false),                                                -- 18, (18)
    (0x00003A0000000000, .sysc .none 0),                                                           -- 21, R410
    (0x0000A70040200000, .vmov .none ⟨1, 2, false⟩),                                               -- 21
    (0x00006D2040000080, .collAllred .none ⟨4, 1, 0, 0, 0x80⟩)] = true := by decide +kernel        -- 23, R443

-- Every allocated opcode of the map of R100, and no other.
theorem test_opcodes_of_the_map : (List.range 256).filter opAllocated =
    List.range 0x1E ++ [0x20, 0x21, 0x22, 0x23, 0x28, 0x29, 0x2A, 0x2C, 0x2D, 0x30, 0x31, 0x32, 0x33, 0x34, 0x38, 0x39, 0x3A] ++
    List.range' 0x40 14 ++ [0x50, 0x52, 0x53, 0x54, 0x55] ++ List.range' 0x58 6 ++ [0x60, 0x61, 0x62] ++
    List.range' 0x64 10 ++ List.range' 0x80 43 ++ List.range' 0xC0 5 ++ [0xC8, 0xC9, 0xCA] ++ List.range' 0xD0 5 ++
    List.range' 0xD8 7 ++ List.range' 0xE0 11 ++ List.range' 0xF0 12 := by decide +kernel

/-! ### Well-formedness: a term that breaks each check of R87's step 5, R88 and R457, which the check refuses -/

/-- Each term is refused, and the word that the encoder writes for it is refused by the decoder. -/
def refusedAll (l : List Instr) : Bool :=
  l.all fun i => !i.wf && (match encode i with
    | some w => (match decode w with | .ok _ => false | .error e => e == .badField)
    | none => false)

theorem test_wf_refuses_scalar_words : refusedAll [
    .cmp .none .al 1 2 3, .cmpi .none .al 1 2 3, .extr .none 1 2 false 63 1, .insr .none 1 2 1 63,
    .br .none .al 1 0 0, .br .none .al 0 1 0, .loop .none 1 0, .loopN .none 1 0, .loopN .none 6 1, .loopi .none 1 0,
    .tkinc .none 0 1 1, .tkchk .none 1 0, .leave .none 1 0, .exit .none, .mqcred .none 0 0, .mqcred .none 0 257, .eret .none] =
    true := by decide +kernel

theorem test_wf_refuses_queue_names : refusedAll [
    .vld .none 640 1 0, .vld .none vnull 1 0, .vld .none vz 1 0, .vand .none ⟨vz, 1, 2, false, false⟩,
    .vand .none ⟨640, 1, 2, false, false⟩, .vand .none ⟨1, vnull, 2, false, false⟩, .vand .none ⟨1, 2, 1021, false, false⟩,
    .vfmaFp32 .none ⟨1, 2, 3, vnull⟩, .vmov .none ⟨1, vnull, false⟩, .vlds .none vz 1 0, .vsts .none vnull false 1 0,
    .vqst .none 1 vz, .accrd .none vz 0 .fp32 0 0, .vsampU .none vz 1 false false, .vsampU .none 1 vnull false false,
    .lapp .none 0 vnull 1 false, .lreadOrd .none 0 1 2 vz false false, .lstat .none 0 vz, .exrd .none vz 0 0 false] = true := by
  decide +kernel

theorem test_wf_refuses_types_and_modes : refusedAll [
    .vadd .none ⟨1, 2, 3, false, false⟩ .e4m3 ⟨false, .rne⟩, .vadd .none ⟨1, 2, 3, false, false⟩ .int32 ⟨false, .rtz⟩,
    .vdiv .none ⟨1, 2, 3, false, false⟩ .int32 ⟨false, .rne⟩, .vabs .none ⟨1, 2, false⟩ .fp32 true,
    .vshl .none ⟨1, 2, 3, false, false⟩ .fp32, .vshr .none ⟨1, 2, 3, false, false⟩ .uint8 true,
    .vaddi .none ⟨1, 2, false⟩ .e5m2 0, .vcvt .none ⟨1, 2, false⟩ .fp32 .fp32 .rne false,
    .vcvt .none ⟨1, 2, false⟩ .fp32 .int32 .rne true, .vcvt .none ⟨1, 2, true⟩ .fp32 .bf16 .rne false,
    .vscan .none ⟨1, 2, 3, false, false⟩ .bf16 false .rne, .vscan .none ⟨1, 2, 3, false, false⟩ .int32 false .rtz,
    .vspselMask .none ⟨1, 2, false⟩ .int32, .vact .none ⟨1, 2, 3, false, false⟩ .fp32 .relu, .vact .none ⟨1, 2, 0, false, true⟩ .fp32 .relu,
    .vexp .none ⟨1, 2, false⟩ .int8, .vperm .none ⟨1, 2, 3, false, false⟩ .int16 true, .exadd .none 0 1 false .int32] = true := by
  decide +kernel

theorem test_wf_refuses_ranges : refusedAll [
    .exaddL .none 61 1 3 false .fp32, .exrd .none 1 61 3 false, .exclr .none 63 1, .nestw .none 6 1 0,
    .tgo .none ⟨0, 6, 1, 1, 2, 3, 1, false, false⟩, .tgo .none ⟨0, 0, 1, 1, 2, 3, 0, false, false⟩,
    .tgoG .none ⟨0, 0, 1, 1, 2, 3, 5, false, false⟩, .tgoSp .none ⟨0, 0, 1, 1, 2, 3, 7, false, false⟩,
    .accst .none ⟨0, 7, 1, 2, false⟩, .accld .none ⟨0, 6, 1, 2, false⟩, .lappb .none 0 1 2 13 false, .lfork .none 3 3,
    .tapchk stops 1 63 1, .tapchk .none 1 0 0, .tapchkBind .none 1, .tapchkMask .none 1 0] = true := by decide +kernel

theorem test_wf_refuses_ladder_pushes : refusedAll [
    .lapp { Ctl.none with pushn := true } 0 1 2 false, .ldrop { Ctl.none with pushp := true } 0,
    .ltruncLow { Ctl.none with pushn := true } 0 1, .ltruncCkpt { Ctl.none with pushp := true } 0 1,
    .lstat { Ctl.none with pushn := true } 0 1, .lfork { Ctl.none with pushp := true } 0 1] = true := by decide +kernel

-- The largest values that the same checks let through.
theorem test_wf_accepts_the_bounds : [
    .extr .none 1 2 false 63 0, .insr .none 1 2 0 63, .br .none .al 0 0 0, .loopN .none 5 1, .mqcred .none 0 256, .vld .none 639 1 0,
    .vand .none ⟨vnull, vz, 639, true, false⟩, .exaddL .none 60 1 3 false .fp32, .exclr .none 0 63, .nestw .none 5 1 0,
    .tgo .none ⟨0, 5, 255, 1, 2, 3, 4, false, false⟩, .lappb .none 0 1 2 12 false, .tapchk stops 1 62 1, .exit stops, .eret stops,
    .vperm .none ⟨1, 2, 3, false, false⟩ .e5m2 true, .vact .none ⟨1, 2, vz, false, true⟩ .fp32 .geglu].all Instr.wf = true := by
  decide +kernel

-- Fields that an entry leaves unused or unallocated are refused at step 5 (R87, R89, R90).
theorem test_reserved_fields_refused : [
    (0x01, [(24, 0), (16, 1)]), (0x01, [(18, 0), (6, 1), (16, 0)]), (0x04, [(18, 0), (6, 3), (16, 0)]),
    (0x0E, [(24, 0), (16, 64)]), (0x14, [(18, 0), (6, 7), (16, 0)]), (0x16, [(24, 0), (16, 1)]), (0x18, [(12, 0), (6, 1), (22, 0)]),
    (0x1A, [(24, 0), (3, 1), (13, 0)]), (0x1B, [(24, 0), (3, 0), (1, 1), (12, 0)]), (0x20, [(12, 0), (4, 7), (24, 0)]),
    (0x28, [(18, 0), (6, 2), (16, 0)]), (0x2A, [(6, 2), (34, 0)]), (0x2C, [(18, 0), (6, 32), (16, 0)]),
    (0x30, [(39, 1), (1, 0)]), (0x40, [(6, 0), (4, 1), (30, 0)]), (0x49, [(20, 0), (4, 1), (16, 0)]), (0x50, [(20, 0), (4, 3), (16, 0)]),
    (0x54, [(18, 0), (6, 10), (16, 0)]), (0x55, [(20, 0), (4, 6), (16, 0)]), (0x58, [(18, 0), (6, 32), (16, 0)]),
    (0x61, [(18, 0), (6, 12), (16, 0)]), (0x64, [(20, 0), (4, 2), (16, 0)]), (0x68, [(24, 0), (16, 2)]), (0x6C, [(18, 0), (6, 2), (16, 0)]),
    (0x6D, [(20, 0), (4, 4), (16, 0)]), (0x80, [(33, 0), (4, 0), (3, 5)]), (0x94, [(36, 0), (4, 6)]), (0x99, [(36, 0), (4, 4)]),
    (0x9F, [(36, 0), (4, 7)]), (0xC1, [(37, 0), (3, 5)]), (0xC3, [(18, 0), (6, 32), (16, 0)]), (0xD0, [(39, 0), (1, 1)]),
    (0xDA, [(36, 0), (4, 3)]), (0xDA, [(36, 0), (4, 6)]), (0xE3, [(36, 0), (4, 3)]), (0xE4, [(18, 0), (6, 2), (16, 0)]),
    (0xF2, [(24, 0), (4, 3), (12, 0)]), (0xFB, [(39, 0), (1, 1)])].all
      (fun r => match decode (wordOf r.1 r.2) with | .ok _ => false | .error e => e == .badField) = true := by decide +kernel

/-! ### Small states for the witnesses: core 3 of partition 0 runs task 1 -/

/-- A running context. -/
def ctx0 (lvl base : Nat) : CtxSt :=
  { CtxSt.reset with
    run := .running, level := lvl, wwords := 64, wbase := base
    regs := [(1, 11), (2, 0xFFFFFFFFFFFFFFF0), (3, 7), (4, 64)] }

/-- A core whose three contexts run. -/
def core0 (lvl : Nat) : CoreSt :=
  { CoreSt.reset with
    status := .active, task := 1, cL := ctx0 lvl 0, cX := ctx0 lvl 0x1000, cS := ctx0 lvl 0x2000, nextId := 9 }

/-- A running task of one core. -/
def task1 : Task :=
  { seq := 1, ts := 5, part := 0, parent := 0, level := 0, nspec := false, kimg := 0, args := 0, cwa := 0,
    origin := .spawn, hdr := 0, st := .running, spec := false, prov := false, target := [0], got := [], reqs := [],
    lists := [], ragged := true, left := [], reads := [], deps := [], berths := [], shares := [], rlqs := [],
    parked := none, rst := false, failed := false, draining := false, saved := [], areas := [], caps := [], since := 0 }

/-- The device with core 3 as changed, at a privilege level, a context of it being next to issue. -/
def dev (lvl : Nat) (x : Ctx) (f : CoreSt → CoreSt) : State :=
  { State.reset with who := ⟨3, x⟩, tasks := [(1, task1)], cores := [(3, f (core0 lvl))], nextSeq := 2, now := 100 }

/-- The same with task 1 speculative behind an earlier task. -/
def specDev (s : State) : State :=
  { s with tasks := [(0, { task1 with seq := 0, ts := 1 }), (1, { task1 with spec := true, prov := true })] }

/-- Every context changed alike. -/
def each (g : CtxSt → CtxSt) (c : CoreSt) : CoreSt := { c with cL := g c.cL, cX := g c.cX, cS := g c.cS }

/-- Further registers in every context. -/
def withRegs (l : List (Nat × Word)) (c : CoreSt) : CoreSt := each (fun m => { m with regs := m.regs ++ l }) c

/-- A leaf of the page table: valid, the flags, the address. -/
def leaf (flags addr : Nat) : Word := w64 (addr + flags * 4 + 3)

/-- Pages 1 to 5: HBM, host, read-only HBM, pooled, replicated. -/
def mapped (c : CoreSt) : CoreSt :=
  withRegs [(10, 0xFFF0000000010000), (11, 0x10008), (12, 0x20000), (13, 0x30010), (14, 0xFFF0000000400000),
    (15, 0x0010000000000000), (16, 0x40000), (17, 0x50000), (18, 0x90000), (19, 0xFFF0000000001000)]
    { c with tlb := [⟨0, false, false, 1, leaf 3 0x30000⟩, ⟨0, false, false, 2, leaf (3 + 8) 0x30000⟩, ⟨0, false, false, 3, leaf 1 0x50000⟩,
      ⟨0, false, false, 4, leaf (3 + 4) 0x40000⟩, ⟨0, false, false, 5, leaf (3 + 128) 0x60000⟩] }

/-- A control half that pops, waits, pushes and signals. -/
def full : Ctl := ⟨true, true, true, 5, true, true, 6⟩

/-- Tokens for `full`. -/
def tokens (c : CoreSt) : CoreSt :=
  each (fun m => { m with fifoP := 2, fifoN := 1 }) { c with tks := [(5, ⟨3, false⟩), (6, ⟨1, false⟩)] }

/-! ### Witnesses for results that are computed -/

theorem exists_some {α : Type} {o : Option α} {P : α → Prop} [∀ a, Decidable (P a)]
    (h : (match o with | some a => decide (P a) | none => false) = true) : ∃ a, o = some a ∧ P a := by
  cases o with
  | none => simp at h
  | some a => exact ⟨a, rfl, by simpa using h⟩

theorem exists_ok {α : Type} {x : Lk α} {P : α → List ReadEnt → Prop} [∀ a n, Decidable (P a n)]
    (h : (match x with | .ok a n => decide (P a n) | _ => false) = true) : ∃ a n, x = .ok a n ∧ P a n := by
  cases x <;> simp at h
  exact ⟨_, _, rfl, h⟩

theorem exists_read {x : Rd} {P : List Byte → List ReadEnt → Prop} [∀ a n, Decidable (P a n)]
    (h : (match x with | .ok a n => decide (P a n) | _ => false) = true) : ∃ a n, x = .ok a n ∧ P a n := by
  cases x <;> simp at h
  exact ⟨_, _, rfl, h⟩

theorem exists_reads {x y : Rd} {P : List Byte → List ReadEnt → List Byte → List ReadEnt → Prop}
    [∀ a n b m, Decidable (P a n b m)]
    (h : (match x, y with | .ok a n, .ok b m => decide (P a n b m) | _, _ => false) = true) :
    ∃ a n b m, x = .ok a n ∧ y = .ok b m ∧ P a n b m := by
  cases x <;> cases y <;> simp at h
  exact ⟨_, _, _, _, rfl, rfl, h⟩

/-- The counters of a core that hold a count or have one in flight. -/
def tkKeys (k : CoreSt) : List Nat :=
  k.tks.map (·.1) ++ [k.cL, k.cX, k.cS].flatMap fun c =>
    c.sigs.map (·.stk.toNat) ++ c.flights.filterMap fun f => match f.land with | .tk m _ => some m | _ => none

theorem get_of_not_key {n : Nat} : ∀ {m : Sparse Tk}, n ∉ m.map (·.1) → Sparse.get ⟨0, false⟩ m n = ⟨0, false⟩
  | [], _ => rfl
  | (j, v) :: r, h => by
    simp only [List.map_cons, List.mem_cons, not_or] at h
    rw [Sparse.get, if_neg (Ne.symm h.1), get_of_not_key h.2]

theorem inFlightTk_of_not_key {n : Nat} {c : CtxSt}
    (h : n ∉ c.sigs.map (·.stk.toNat) ++ c.flights.filterMap fun f => match f.land with | .tk m _ => some m | _ => none) :
    c.inFlightTk n = 0 := by
  simp only [List.mem_append, List.mem_map, List.mem_filterMap, not_or, not_exists, not_and] at h
  have hs : (c.sigs.filter fun g => g.stk.toNat == n) = [] := List.filter_eq_nil_iff.2 fun g hg => by simpa using h.1 g hg
  have hf : (c.flights.map fun f => match f.land with | .tk m a => if m = n then a else 0 | _ => 0).sum = 0 := by
    refine List.sum_eq_zero fun x hx => ?_
    obtain ⟨f, hm, rfl⟩ := List.mem_map.1 hx
    have := h.2 f hm
    split <;> simp_all
  rw [CtxSt.inFlightTk, hs, List.length_nil, Nat.zero_add]
  exact hf

/-- Only counters that hold a count or have one in flight matter. -/
theorem tkFits_iff (k : CoreSt) : TkFits k ↔ ∀ n, n ∈ tkKeys k → (k.tk n).count + k.inFlightTk n ≤ 65535 := by
  refine ⟨fun h n _ => h n, fun h n => ?_⟩
  by_cases hn : n ∈ tkKeys k
  · exact h n hn
  · simp only [tkKeys, List.flatMap_cons, List.flatMap_nil, List.append_nil, List.mem_append, not_or] at hn
    have hz (c : CtxSt) (a : n ∉ c.sigs.map (·.stk.toNat))
        (b : n ∉ c.flights.filterMap fun f => match f.land with | .tk m _ => some m | _ => none) : c.inFlightTk n = 0 :=
      inFlightTk_of_not_key (by simp only [List.mem_append, not_or]; exact ⟨a, b⟩)
    rw [CoreSt.tk, get_of_not_key hn.1, CoreSt.inFlightTk, hz _ hn.2.1.1 hn.2.1.2, hz _ hn.2.2.1.1 hn.2.2.1.2, hz _ hn.2.2.2.1 hn.2.2.2.2]
    decide

/-- A berth name of partition 0, stack 1. -/
def berthName (gen gran lenm : Nat) : Word := w64 (gen * 2 ^ 56 + 2 ^ 53 + gran * 2 ^ 24 + lenm * 2 ^ 8)

/-- Registers with names. -/
def named (c : CoreSt) : CoreSt := withRegs [(20, berthName 7 3 1), (23, 8191)] c

/-- Partition 0 has a berth window and a pool in stack 1 with two granules in use. -/
def berths (s : State) : State :=
  { s with
    parts := [(0, { Part.reset with regs := [(8, 0x8000000000000), (17, w64 (100 * 2 ^ 24 + 50))] })]
    grans := [(2 ^ 25 + 103, ⟨7, 1⟩), (2 ^ 25 + 104, ⟨7, 2⟩)] }

/-- A ring between L and S with two full slots and one claimed. -/
def ring1 : Ring :=
  { base := 0x10000, size := 64, slots := 4, prod := .L, cons := .S, st := [(0, .full), (1, .full), (2, .claimed)],
    claim := 3, fill := 2, take := 0, free := 0 }

/-- The same further on: one slot taken. -/
def ring2 : Ring := { ring1 with st := [(1, .taken), (2, .full), (3, .claimed)], claim := 4, fill := 3, take := 2, free := 1 }

/-- A message queue of L with a message. -/
def ringL : Ring := { ring2 with prod := .L, cons := .L }

/-- An empty message queue of S. -/
def ringS : Ring := { ring1 with prod := .S, cons := .S, st := [], claim := 0, fill := 0 }

/-- A core with rings and message queues. -/
def rings (c : CoreSt) : CoreSt := { c with rings := [(1, ring1), (2, ring2)], mqs := [(1, ringL), (2, ringS)] }

/-- A record from its 64-bit words at byte offsets. -/
def record (f : List (Nat × Nat)) : Nat := (f.map fun p => p.2 % 2 ^ 64 * 2 ^ (8 * p.1)).sum

/-- A core with records in scratchpad, by block. -/
def withRecords (recs : List (Nat × Nat)) (c : CoreSt) : CoreSt :=
  { c with sp := recs.foldl (fun m r => m.setBytes (r.1 * 64) (leBytes 64 r.2)) c.sp }

/-- Two rows of 64 bytes from scratchpad to host memory, and a spawn record. -/
def engines (c : CoreSt) : CoreSt :=
  withRecords [
    (0x100, record [(0, 0xFFF0000000010000), (8, 0xFFF0000000020000), (0x20, 2 ^ 48 + 2 * 2 ^ 32 + 64),
      (0x10, 64 * 2 ^ 32), (0x18, 64 * 2 ^ 32), (0x38, 1)]),
    (0x102, record [(0, 0xFFF0000000010000), (8, 0x20000), (0x20, 2 ^ 48 + 2 * 2 ^ 32 + 64), (0x38, 1)]),
    (0x108, record [(0x10, 9)])] (mapped c)

/-- A data element of a vector queue. -/
def element (n id : Nat) : QEl := ⟨BitVec.ofNat 4096 n, id, true, false, none⟩

/-- Queue 1 with three elements, queue 4 empty, both register queues; queue 600 fed by L. -/
def queues (c : CoreSt) : CoreSt :=
  { mapped c with
    qs := [(1, ⟨8, 0, [element 0x3F803F80 1, element 0xBF800003 2, element 0x123456 3]⟩), (4, ⟨8, 0, []⟩),
      (600, ⟨2, 1, [element 0x3F80 4, element 0x4000 5]⟩)] }

/-- A core with exact accumulators and bytes in scratchpad; x30 points at them. -/
def scratch (c : CoreSt) : CoreSt :=
  withRegs [(30, 0x10000)]
    { queues c with sp := Memory.setBytes [] 0x10000 (List.replicate 8 0x5A), ex := [(3, ⟨5, .finite, false, false⟩)] }

/-- Nest slot 0: A, B, C at 0x40000, 0x140000, 0x50000. -/
def nest0 : BitVec 512 :=
  BitVec.ofNat 512 (0x40000 + 64 * 2 ^ 22 + 64 * 2 ^ 38 + (0x140000 + 64 * 2 ^ 22 + 64 * 2 ^ 38) * 2 ^ 64 +
    (0x50000 + 512 * 2 ^ 22 + 4 * 2 ^ 38) * 2 ^ 128)

/-- A core with a nest record, a format word and a tile; x40 is 2, x41 is 1. -/
def matrix (c : CoreSt) : CoreSt :=
  withRegs [(40, 2), (41, 1)]
    { queues c with
      nests := [(0, nest0)], fq := [.fmt 0x1100000000000000]
      tiles := [(2, ⟨[(0, 0x3F800000)], 0, 0, false, .rne, 0, none, false, false⟩)] }

/-- A core with bound ladder slots. -/
def ladders (c : CoreSt) : CoreSt :=
  { queues c with slots := [(1, ⟨0x10000, false⟩), (2, ⟨0x10100, true⟩), (3, ⟨0x10200, false⟩)] }

/-- A row entry of a batch table. -/
def rowBytes (q : Nat) : List Byte :=
  leBytes 8 (5 + q) ++ leBytes 8 7 ++ leBytes 8 (0x3F80000000000000 + 2 ^ 31) ++ leBytes 8 (0x3F0000003F800000) ++
    leBytes 16 0 ++ leBytes 8 (3 * 2 ^ 32 + 2) ++ leBytes 8 9

/-- A batch table of two rows. -/
def tableBytes : Memory :=
  ((Memory.setBytes [] 0x20000 (leBytes 8 (2 + 2 ^ 16 + 16 * 2 ^ 32) ++ leBytes 8 (0x30000 + 64 * 2 ^ 32) ++
    leBytes 8 (0x400 + 0x31000 * 2 ^ 32))).setBytes 0x20100 (rowBytes 0)).setBytes 0x20200 (rowBytes 1)

/-- A control element: row, token, flags, valid lanes. -/
def control (r tok fl n : Nat) : Elem := ofLanes 32 [r, tok, fl, n]

/-- A core with the table bound, row 1 quarantined, control elements for both rows in queues 2 and 3. -/
def batches (c : CoreSt) : CoreSt :=
  withRegs [(40, 0), (41, 1), (42, 0x20000), (43, 0x21000), (44, w64 (9 * 2 ^ 32 + 3))]
    { queues c with
      batch := some 0x20000, qmask := 2, sp := tableBytes
      qs := [(1, ⟨8, 0, [element 0x3F803F80 1, element 0xBF800003 2]⟩),
        (2, ⟨8, 0, [⟨control 0 3 1 2, 11, true, false, none⟩]⟩), (3, ⟨8, 0, [⟨control 1 3 1 2, 12, true, false, none⟩]⟩),
        (4, ⟨8, 0, []⟩)] }

/-- A core about to bind the table. -/
def unbound (c : CoreSt) : CoreSt := { batches c with batch := none, qmask := 0 }

/-- A probe table whose probes count, and trap, on lane sums. -/
def probes (s : State) : State :=
  { s with
    parts := [(0, { Part.reset with ptbase := 0x10000 })], slotTab := [(0, 128)]
    hbm := (((s.hbm.setBytes 0x30000 (leBytes 8 0x11000 ++ leBytes 8 2)).setBytes 0x30040
      (leBytes 8 0x10800 ++ leBytes 8 0x3F80000000000000 ++ leBytes 8 (2 ^ 63 + 16))).setBytes 0x30080
      (leBytes 8 0x10800 ++ leBytes 8 0x3F80000000000000 ++ leBytes 8 (2 ^ 63 + 16 + 2 * 2 ^ 16))) }

/-! ### States for the system words -/

/-- A probe and a probe table header, as words. -/
def probe : List Byte := leBytes 8 0x10800 ++ leBytes 8 0x3F80000000000000 ++ leBytes 8 (2 ^ 63 + 16 + 2 * 2 ^ 16) ++ leBytes 40 0

/-- Operands of system words: x20 on. -/
def operands (c : CoreSt) : CoreSt :=
  let c := mapped c
  withRegs [(20, 0x10000), (21, 0), (22, 64), (23, 5), (24, 7), (25, 2), (28, 6), (29, 1), (30, 0x20000), (31, 0x21000),
    (32, 0x0000000005000203), (33, 0xFF0003)]
    { c with sp := (Memory.setBytes [] 0x20000 probe).setBytes 0x21000 (leBytes 8 0x11000 ++ leBytes 8 2) }

/-- Cores 3, 5 (halted), 6 (stopped) and 7 of partition 0, with a probe table. -/
def system (lvl : Nat) (x : Ctx) : State :=
  let s := dev lvl x operands
  { s with
    cores := s.cores ++
      [(5, { CoreSt.reset with halted := true }), (6, { core0 0 with cL := { ctx0 0 0 with run := .exited }, cX := { ctx0 0 0 with run := .exited }, cS := { ctx0 0 0 with run := .exited } }), (7, core0 0)]
    parts := [(0, { Part.reset with ptbase := 0x10000, regs := [(0, 0xE8), (16, 0x000010000FFF0000), (24, 1)] })]
    slotTab := [(0, 0x85)] }

/-- A reflection frame. -/
def frame0 : Frame := ⟨1, 2, 3, 4⟩

/-! ### States for the events of memory and engines -/

/-- Contexts with these accesses; queue 3 waits for a VLD; a page of HBM with bytes; the given stores posted. -/
def accesses (q : List Access) (p : List Posted) : State :=
  let s := dev 0 .L fun c =>
    { each (fun m => { m with accq := q, pend := [5] }) (mapped c) with
      qs := [(3, ⟨8, 1, [⟨0, 64, false, false, none⟩]⟩)], sp := Memory.setBytes [] 0x1000 (leBytes 8 0x8877665544332211)
      posted := p }
  { s with slotTab := [(0, 0x85)], hbm := s.hbm.setBytes 0x30000 (leBytes 8 0x123456789ABCDEF0) }

/-- A context with writes in flight and signals owed. -/
def flying (f : List Flight) (g : List Sig) (ns : Nat) : State :=
  dev 0 .L (each fun m => { m with flights := f, sigs := g, nonStop := ns, pc := 9 })

/-- An engine command. -/
def command (id : Nat) (op : EngOp) (r : Nat) (st : Nat) (fin : Bool) : EngCmd :=
  { id := id, ctx := .L, op := op, rcd := BitVec.ofNat 512 r, off := 0x1000, tko := 7, pos := 3, word := 9, taken := true, stage := st,
    row := 0, buf := leBytes 64 0x3F8000003F800000BF800000, done := 0, aux := 4, idx := none, srcTr := [], dstTr := [],
    pages := [], after := [], limit := 500, name := 77, halt := none, fail := none, fin := fin }

/-- A record of a RED or MSEND to physical core 5. -/
def toCore5 (mq ttk : Nat) : Nat := 64 * 2 ^ 256 + 0x8040 * 2 ^ 64 + 4 * 2 ^ 448 + 5 * 2 ^ 460 + ttk * 2 ^ 472 + mq * 2 ^ 477 + 2 ^ 479

/-- A collective's record: CNUM 9, group 0. -/
def collRecord : Nat := 9 * 2 ^ 160 + 64 * 2 ^ 128 + 2 ^ 464 + 2 ^ 448

/-- A collective with one of two contributions. -/
def coll0 : Coll := ⟨0, 0, 9, 0, 64, 1, 1, 2, [⟨1, [], 5, .L, 3, true⟩], 5, 0, 500⟩

/-- The device with these commands in L's queue, core 5 of the gang, and a collective group. -/
def engineDev (q : List EngCmd) (now : Nat) (colls : List Coll) : State :=
  let s := dev 0 .L fun c => let c := mapped c; { c with cL := { c.cL with engq := q, pend := [5, 6] } }
  { s with
    now := now, colls := colls, cores := s.cores ++ [(5, { core0 0 with rank := 1, mqs := [(1, { ringS with size := 128 })] })]
    parts := [(0, { Part.reset with regs := [(0, 0x28), (13, 0x10)] })], slotTab := [(0, 0x85)]
    hbm := s.hbm.setBytes 0x10000 (leBytes 8 2 ++ leBytes 8 3 ++ leBytes 8 5) }

/-- An ALLRED of core 3. -/
def coll21 : EngCmd := command 21 (.coll 0) collRecord 2 false

/-- A command of core 3, the first of two members of group 0. -/
def groupDev (e : EngCmd) : State :=
  { engineDev [e] 100 [] with
    hbm := [(0x10000, 2), (0x10008, 3), (0x1000E, Config.deviceNumber.setWidth 8), (0x1000F, (Config.deviceNumber >>> 8).setWidth 8)] }

/-- The rank of core 3 by the words of group 0 alone. -/
theorem rank_of_words {s : State} (hr : (s.part 0).reg 13 = 0x10) (hm : s.hbm = (groupDev coll21).hbm) :
    s.collRank 0 0 3 = some 0 := by
  have hw (i : Nat) : s.groupWord 0 0 i = Memory.num [(0x10000, 2), (0x10008, 3), (0x1000E, Config.deviceNumber.setWidth 8),
      (0x1000F, (Config.deviceNumber >>> 8).setWidth 8)] (0x10000 + 8 * i) 8 := by
    rw [State.groupWord, hr, hm]
    rfl
  have h0 : s.groupSize 0 0 = 2 := by
    rw [State.groupSize, hw]
    simp [Memory.num, Memory.bytes, Memory.byte, Sparse.get, bytesToNat]
  have h2 : isMember (s.groupWord 0 0 1) 3 = true := by
    have := Config.deviceNumber.isLt
    rw [hw]
    simp [isMember, Memory.num, Memory.bytes, Memory.byte, Sparse.get, bytesToNat, Nat.shiftRight_eq_div_pow]
    omega
  simp only [State.collRank, h0]
  show ([0, 1] : List Nat).find? _ = _
  simp [h2]

theorem rank_isSome {s : State} {p g k : Nat} (hr : (s.part 0).reg 13 = 0x10) (hm : s.hbm = (groupDev coll21).hbm)
    (hp : p = 0) (hg : g = 0) (hk : k = 3) : (s.collRank p g k).isSome = true := by
  rw [hp, hg, hk, rank_of_words hr hm]
  rfl

theorem rank_of_first (e : EngCmd) : (groupDev e).collRank 0 0 3 = some 0 := rank_of_words rfl rfl

/-- The same with the record of a second collective command of that number in core 3's scratchpad. -/
def secondColl : State :=
  (groupDev coll21).updCore 3 fun c => { c with nextId := 22, sp := Memory.setBytes [] 0x4000 (leBytes 64 collRecord) }

/-- A tile command. -/
def tileCommand (id : Nat) (op : MatOp) (acc st : Nat) : MatCmd :=
  { id := id, wid := id, pos := 3, word := 9, op := op, acc := acc, profile := 1, gang := gangFor 1 1, accum := false,
    m := 2, n := 2, kk := 2, groups := [⟨2, 0, 0, 0⟩], nest := nest0, sc := [], ct := [], qmask := 0, rbase := 0, stage := st,
    claim := true, fqEnd := 2, cfmt := 0, fw := 0x1100000000000000, mode := .rne, asked := false, leave := false, snap := [] }

/-- The matrix engine with these commands. -/
def tileDev (q : List MatCmd) : State :=
  dev 0 .L fun c => { c with matq := q, fq := [.mode .rtz, .fmt 0x1100000000000000], claimed := 1 }

/-- A ladder command that has ended. -/
def ladder0 : LadCmd := ⟨31, 31, 3, 9, .lapp true, 1, false, [1], [], 8, false, false, [], [], [], 0, [], [], none, none⟩

/-! ### States for translation, tasks, the host and the device's start -/

/-- Leaves for pages 1 to 5 of partition 0: HBM, pooled, host, in migration, HBM; page 6 is the table itself. -/
def tableLeaves : List (Nat × Nat) := [(1, 0x80000F), (2, 0x81001F), (3, 0x82002F), (4, 0x830007), (5, 0x84080F)]

/-- The page table of partition 0 at 0x200000, one block at 0x400000. -/
def pageTable (m : Memory) : Memory :=
  tableLeaves.foldl (fun m e => m.setBytes (0x400000 + 8 * e.1) (leBytes 8 e.2)) (m.setBytes 0x200000 (leBytes 8 0x400001))

/-- A tier page awaits supply at command 42; accesses of L and S and the command 43 have missed; windows are held. -/
def paging (now : Nat) : State :=
  let e (id : Nat) (op : EngOp) (h : Option Halt) : EngCmd :=
    { command id op (0x20000 + 64 * 2 ^ 256 + 2 ^ 288 + 2 ^ 304) 2 false with halt := h }
  let s := dev 0 .L fun c =>
    { c with
      ferry := [e 42 .ferryTier none, e 43 .ferry (some ⟨0, 0x20000, false, none⟩)]
      cL := { c.cL with accHalt := some ⟨3, 0x70000, false, none⟩, accq := [⟨3, 3, 5, .load 3 8, 0x70000⟩] }
      cS := { c.cS with accHalt := some ⟨3, 0x70000, false, none⟩ } }
  { s with
    hbm := pageTable s.hbm, slotTab := [(0, 0x8085)], parts := [(0, { Part.reset with regs := [(10, 0x8000000000200000)] })]
    now := now, holds := [⟨0, 5, false, 50⟩] }

/-- A header of two cores, its ragged list at 0x100 where asked. -/
def header2 (rag : Bool) : BitVec 2048 :=
  BitVec.ofNat 2048 (1 + 2 * 2 ^ 32 + 2 * 2 ^ 41 + 8 * 2 ^ 64 + 8 * 2 ^ 80 + 8 * 2 ^ 96 + 1 * 2 ^ 128 + 4 * 2 ^ 144 +
    7 * 2 ^ 160 + (2 + 2 ^ 16 + b2n rag * 2 ^ 18) * 2 ^ 320 + (0x100 + 1 * 2 ^ 32 + 48 * 2 ^ 52) * 2 ^ 256)

/-- A task of two cores. -/
def pairTask (q ts : Nat) (st : TaskSt) (rag : Bool) : Task :=
  { task1 with seq := q, ts := ts, st := st, hdr := header2 rag, kimg := 0x1000, args := 0x8000 }

/-- A core of a task, its contexts idle. -/
def ofTask (q rank : Nat) (st : CoreStatus) : CoreSt :=
  { CoreSt.reset with status := st, task := q, rank := rank }

/-- The scheduler of partition 0 with these tasks and cores; pages 0 and 1 are known to die 0. -/
def scheduling (hold : Bool) (tasks : List Task) (cores : List (Nat × CoreSt)) : State :=
  { State.reset with
    tasks := tasks.map fun t => (t.seq, t), cores := cores, parts := [(0, { Part.reset with hold := hold, regs := [(0, 0xFC)] })]
    nextSeq := 50, slotTab := [(0, 0x8085)], now := 500, boot := { Boot.reset with ready := true }
    tlb2 := [(0, [⟨0, false, false, 0, 0x8000F⟩, ⟨0, false, false, 1, 0x9000F⟩])]
    hbm := Memory.setBytes [] 0x88100 (leBytes 4 40 ++ leBytes 4 17) }

/-- A task placed on cores 2 and 3, its list not yet distributed. -/
def ragged2 (n : Nat) : State :=
  let s := scheduling false [{ pairTask 1 1 .placed true with ragged := false }] [(2, ofTask 1 0 .placed), (3, ofTask 1 1 .placed)]
  { s with hbm := s.hbm.setBytes 0x88100 (leBytes 4 n) }

/-- What a read gives. -/
def gotBytes : Rd → List Byte
  | .ok b _ => b
  | _ => []

/-- What a read notes. -/
def gotNotes : Rd → List ReadEnt
  | .ok _ n => n
  | _ => []

/-- Cores 2 and 3 placed for task 1, with these saved states. -/
def placed2 (d : Sparse CoreSt) : State :=
  scheduling false [{ pairTask 1 1 .placed false with saved := d }] [(2, ofTask 1 0 .placed), (3, ofTask 1 1 .placed)]

/-- Tasks 1 and 4 wait. -/
def waiting1 (hold : Bool) : State := scheduling hold [pairTask 1 1 .waiting false, pairTask 4 5 .waiting false] []

/-- Tasks 1, with this timestamp, and 4 reserve: what task 1 asks for and what task 4 has. -/
def reserving2 (ts : Nat) (asks has : List Nat) (cores : List (Nat × CoreSt)) : State :=
  scheduling false
    [{ pairTask 1 ts .reserving false with target := [2, 3], got := [2], reqs := asks },
      { pairTask 4 5 .reserving false with target := [3, 4], got := has, reqs := if has = [] then [3, 4] else [4] }] cores

/-- Core 3 drains, its contexts having exited. -/
def draining1 : State :=
  dev 0 .L fun c => { each (fun m => { m with run := .exited, ended := true }) c with status := .draining }

/-- A core all of whose contexts wait for good. -/
def deadlock0 : State :=
  dev 0 .L fun c => { each (fun m => { m with blocked := true }) c with starved := [.L, .X, .S], still := 2 ^ 20 }

/-- A record of a cause. -/
def faultOf (cause : Cause) (info : Word) : FaultRecord := (dev 0 .L id).record 3 0 { cause := cause, info := info } false 0 9 0 0

/-- Core 3's L trapped. -/
def trappedL (f : CoreSt → CoreSt) (r : FaultRecord) : State :=
  dev 0 .L fun c => let c := f c; { c with cL := { c.cL with run := .trapped r } }

/-- Core 3 stopped for a save; where `spec`, its task is speculative. -/
def saving (spec : Bool) : State :=
  let s := dev 0 .L fun c => { each (fun m => { m with run := .exited, ended := true }) c with preReq := true }
  let s := { s with slotTab := [(0, 0x8085)] }
  if spec then specDev s else s

/-- The host's ring of launch queue 2, 16 entries: the entry's image address, the entry's phase, the tries so far. -/
def launching (img ph tries : Nat) : State :=
  let ent := leBytes 8 img ++ leBytes 8 0x7000 ++ leBytes 8 33 ++ leBytes 8 0x55 ++ leBytes 24 0 ++ leBytes 8 (ph * 2 ^ 63 + 10)
  let hdr := 1 + 1 * 2 ^ 32 + 2 * 2 ^ 41 + 8 * 2 ^ 64 + 8 * 2 ^ 80 + 8 * 2 ^ 96 + 1 * 2 ^ 128 + 4 * 2 ^ 144 + 7 * 2 ^ 160 +
    2 ^ 10 * 2 + (2 + 2 ^ 16) * 2 ^ 320
  { State.reset with
    queues := [(2, ⟨0x4000, 0x8000, w64 (2 ^ 63 + 2 ^ 52 + 7 * 2 ^ 32 + 4 * 2 ^ 8 + 4), 20, 4, 0, 7, 1, 1, tries⟩)]
    boot := { Boot.reset with ready := true }, slotTab := [(0, 0x85)], tlb2 := [(0, [⟨0, false, false, 0, 0x8000F⟩])]
    host := Memory.setBytes [] 0x4100 ent, nextSeq := 4
    hbm := ((Memory.setBytes [] 0x81000 (leBytes 256 hdr)).setBytes 0x200000 (leBytes 8 0x400001)).setBytes 0x400000 (leBytes 8 0x8000F)
    parts := [(0, { Part.reset with regs := [(0, 0xFC), (10, 0x8000000000200000)], segs := [⟨2, 0x100000, [0]⟩] })] }

/-- Context L about to issue this word. -/
def issuing (w : Word) : State := dev 0 .L fun c => { c with sp := Memory.setBytes [] 0 (leBytes 8 w.toNat) }

/-- The machine with this event next. -/
def turned (a : Turn) : State := { dev 0 .L id with turn := a }

theorem exists_exec {o : Host.Outcome State Fault Refusal} (h : (match o with | .next _ => true | _ => false) = true) :
    ∃ t, o = .next t := by
  cases o <;> simp at h
  exact ⟨_, rfl⟩

theorem exists_image {o : Image} {P : Hdr → List ReadEnt → Prop} [∀ h n, Decidable (P h n)]
    (h : (match o with | .ok h n => decide (P h n) | _ => false) = true) : ∃ h n, o = .ok h n ∧ P h n := by
  cases o <;> simp at h
  exact ⟨_, _, rfl, h⟩

/-- A read succeeds. -/
def isOk : Rd → Bool
  | .ok .. => true
  | _ => false

theorem foldl_append_ok {α : Type} {f : α → Rd} : ∀ (l : List α) (bs : List Byte) (ns : List ReadEnt),
    l.all (fun e => isOk (f e)) = true →
    ∃ ms, l.foldl (fun (r : Rd) e => r.append (f e)) (.ok bs ns) = .ok (bs ++ l.flatMap fun e => gotBytes (f e)) ms
  | [], bs, ns, _ => ⟨ns, by simp⟩
  | e :: l, bs, ns, h => by
    simp only [List.all_cons, Bool.and_eq_true] at h
    cases he : f e with
    | ok b n =>
      obtain ⟨ms, hm⟩ := foldl_append_ok l (bs ++ b) (ns ++ n) h.2
      have hg : gotBytes (f e) = b := by rw [he]; rfl
      refine ⟨ms, ?_⟩
      rw [List.foldl_cons, show (Rd.ok bs ns).append (f e) = .ok (bs ++ b) (ns ++ n) by rw [he]; rfl, hm]
      simp [hg]
    | wait => simp [he, isOk] at h
    | bad => simp [he, isOk] at h
    | lost => simp [he, isOk] at h

/-- The reads of an image's body for core `k`. -/
def bodyReads (s : State) (k : Nat) (t : Task) : List Rd :=
  (pieces (t.kimg.toNat + 256) (spOffset t.hdr - 256 + hdrSpsz t.hdr)).map fun e => s.readOne k t.part (t.acc false) e.1 e.2

theorem imageBody_ok {s : State} {k : Nat} {t : Task} (h : (bodyReads s k t).all isOk = true) :
    ∃ m, s.imageBody k t = .ok ((bodyReads s k t).flatMap gotBytes) m := by
  obtain ⟨m, hm⟩ := foldl_append_ok (pieces (t.kimg.toNat + 256) (spOffset t.hdr - 256 + hdrSpsz t.hdr)) [] [] (f := fun e =>
    s.readOne k t.part (t.acc false) e.1 e.2) (by simpa [bodyReads, List.all_map, Function.comp_def] using h)
  exact ⟨m, by simpa [State.imageBody, State.readIn, bodyReads, List.flatMap_map] using hm⟩

/-- Context X about to issue these two words. -/
def issuingX (a b : Word) : State :=
  dev 0 .X fun c => { c with sp := Memory.setBytes [] 0x1000 (leBytes 8 a.toNat ++ leBytes 8 b.toNat) }

/-- The two words issue beside each other. -/
theorem exists_pair {s : State} {i : Instr} {P : State → State → Prop} [∀ u v, Decidable (P u v)]
    (h : (match exec i s with
      | .next t => match t.second? with
        | some j => match exec j (s.beside t), exec j t with
          | .next u, .next v => decide (P u v)
          | _, _ => false
        | none => false
      | _ => false) = true) :
    ∃ t j u v, exec i s = .next t ∧ t.second? = some j ∧ exec j (s.beside t) = .next u ∧ exec j t = .next v ∧ P u v := by
  split at h
  · rename_i t ht
    split at h
    · rename_i j hj
      split at h
      · rename_i u v hu hv
        exact ⟨t, j, u, v, ht, hj, hu, hv, of_decide_eq_true h⟩
      · simp at h
    · simp at h
  · simp at h

/-! ### Single steps, with the results that the rules give -/

/-- What holds after a word. -/
def afterWord (i : Instr) (s : State) (p : State → Bool) : Bool :=
  match exec i s with
  | .next t => p t
  | _ => false

/-- The word traps with this cause. -/
def trapsWith (i : Instr) (s : State) (cause : Cause) : Bool :=
  afterWord i s fun t => match t.me.run with | .trapped r => r.cause == cause | _ => false

/-- The lanes of the only new element of queue 4, as a number. -/
def pushed (t : State) : Nat := ((Sparse.get ⟨0, 0, []⟩ t.cur.qs 4).els.map fun e => e.e.toNat).sum

/-- Queues 1 and 2 hold an element each. -/
def twoQueues (a b : Nat) (c : CoreSt) : CoreSt :=
  { queues c with qs := [(1, ⟨8, 0, [element a 1]⟩), (2, ⟨8, 0, [element b 2]⟩), (4, ⟨8, 0, []⟩)] }

-- x1 = 11, x2 = -16, x3 = 7, x4 = 64 in every test. R148: sums wrap; R94: x0 stays 0.
theorem test_add_wraps : afterWord (.add .none 5 2 4) (dev 0 .L id) (fun t => t.reg 5 == 48) = true := by decide +kernel

theorem test_x0_stays_zero : afterWord (.addi .none 0 1 9) (dev 0 .L id) (fun t => t.reg 0 == 0) = true := by decide +kernel

-- Quotients round toward zero, and a remainder has the sign of the dividend.
theorem test_div_truncates : afterWord (.div .none 5 2 3 false) (dev 0 .L id) (fun t => t.reg 5 == -2) = true := by decide +kernel

theorem test_rem_sign : afterWord (.rem .none 5 2 3 false) (dev 0 .L id) (fun t => t.reg 5 == -2) = true := by decide +kernel

theorem test_mulh_signed : afterWord (.mulh .none 5 2 3 .ss) (dev 0 .L id) (fun t => t.reg 5 == -1) = true := by decide +kernel

theorem test_popc : afterWord (.popc .none 5 2) (dev 0 .L id) (fun t => t.reg 5 == 60) = true := by decide +kernel

theorem test_extr_signed : afterWord (.extr .none 5 2 true 3 4) (dev 0 .L id) (fun t => t.reg 5 == -1) = true := by decide +kernel

theorem test_loopi_opens : afterWord (.loopi .none 3 4) (dev 0 .L id) (fun t => t.me.loops.length == 1 && t.me.pc == 1) = true := by
  decide +kernel

-- BF16: 2 + 1 = 3 in lane 0, 0 + 0 elsewhere.
theorem test_vadd_bf16 : afterWord (.vadd .none ⟨4, 1, 2, false, false⟩ .bf16 ⟨false, .rne⟩) (dev 0 .X (twoQueues 0x4000 0x3F80))
    (fun t => pushed t == 0x4040) = true := by decide +kernel

-- INT32: 7 times -2 in lane 0.
theorem test_vmul_int32 : afterWord (.vmul .none ⟨4, 1, 2, false, false⟩ .int32 ⟨false, .rne⟩) (dev 0 .X (twoQueues 7 0xFFFFFFFE))
    (fun t => pushed t == 0xFFFFFFF2) = true := by decide +kernel

theorem test_brk_traps : trapsWith (.brk .none 5) (dev 0 .S id) .brk = true := by decide +kernel

theorem test_monitor_word_in_user_mode : trapsWith (.partw .none 1 2 3) (dev 0 .L id) .priv = true := by decide +kernel

theorem test_context_without_the_word : trapsWith (.vmov .none ⟨4, 1, false⟩) (dev 0 .L id) .ctxop = true := by decide +kernel

theorem test_exit_stops : afterWord (.exit { Ctl.none with stop := true }) (dev 0 .L id) (fun t => t.me.run == .exited) = true := by
  decide +kernel

-- A word placed where the next step fetches runs: ADDI x5, x0, 9 by its encoding.
theorem test_step_runs_a_placed_word :
    (match step (State.reset.withFetchWord 64 (wordOf 0x07 [(6, 5), (6, 0), (28, 9)]).toNat) with
     | .next t => (t.core 0).cL.reg 5 == 9
     | _ => false) = true := by decide +kernel

/-! ### Witnesses: the hypotheses of each statement, met together -/

theorem witness_ScalarWords :
    (let i := Instr.add full 1 2 3; let s := dev 0 .L tokens;
      ∃ (uses : List Reg) (xd : Reg) (lat : Nat) (x : Word), scalarWord (s.seen (ctlOf i) 0) i = some (uses, xd, lat, x) ∧
      s.clear (ctlOf i) 0 [] uses = true) :=
  ⟨_, _, _, _, rfl, by decide +kernel⟩

theorem witness_Branches :
    (let c := Ctl.none; let xa := (1 : Reg); let xb := (2 : Reg); let s := dev 0 .L id; s.clear c 0 [] [xa, xb] = true ∧
      (s.seen c 0).me.closing = false) ∧
    (let c := Ctl.none; let xd := (0 : Reg); let xa := (1 : Reg); let s := dev 0 .L id; s.clear c 0 [] [xd, xa] = true ∧
      (s.seen c 0).me.closing = false) ∧
    (let c := Ctl.none; let dir := Dir6.p; let s := dev 0 .L (each fun m => { m with cqN := [5] }); s.clear c 0 [] [] = true ∧
      (s.seen c 0).me.closing = false ∧ (s.seen c 0).cur.cqIn s.who.ctx dir ≠ []) ∧
    (let cond := Cond.al; let xa := (0 : Reg); let xb := (0 : Reg); let disp := (0 : BitVec 24); (cond ≠ .al ∨ (xa = 0 ∧
      xb = 0))) ∧
    (let cond := Cond.ne; let xa := (63 : Reg); let xb := (1 : Reg); let disp := (-1 : BitVec 24); (cond ≠ .al ∨ (xa = 0 ∧
      xb = 0))) ∧
    (let w := (0x0000210000010000 : Word); field w 40 8 = 0x21 ∧ field w 16 12 ≠ 0) :=
  by
  refine ⟨?_,
    ?_,
    ?_,
    ?_,
    ?_,
    ?_⟩ <;> decide +kernel

theorem witness_Loops :
    (let c := Ctl.none; let xa := (3 : Reg); let body := (63 : BitVec 16); let s := dev 0 .L id; s.clear c 0 [] [xa] = true ∧
      (s.seen c 0).me.closing = false ∧ LoopLegal (s.seen c 0) ((s.seen c 0).reg xa) body.toNat) ∧
    (let c := Ctl.none; let xa := (3 : Reg); let body := (20 : BitVec 16);
      let s := dev 0 .L (each fun m => { m with loops := [⟨1, 40, 2⟩] }); s.clear c 0 [] [xa] = true ∧
      (s.seen c 0).me.closing = false ∧ LoopLegal (s.seen c 0) ((s.seen c 0).reg xa) body.toNat) ∧
    (let c := Ctl.none; let level := (0 : BitVec 3); let body := (10 : BitVec 16);
      let s := dev 0 .L fun c => { c with nest := [⟨0, 3, false⟩] }; s.clear c 0 [] [] = true ∧
      (s.seen c 0).me.closing = false ∧ (((s.seen c 0).cur.level level.toNat).extent = 0 ∨ ((s.seen c 0).cur.level level.toNat).kind = 0) ∧ LoopLegal (s.seen c 0) (w64 ((s.seen c 0).cur.level level.toNat).extent) body.toNat) ∧
    (let c := Ctl.none; let level := (2 : BitVec 3); let body := (10 : BitVec 16); let s := dev 0 .L id;
      s.clear c 0 [] [] = true ∧ (s.seen c 0).me.closing = false ∧
      (((s.seen c 0).cur.level level.toNat).extent = 0 ∨ ((s.seen c 0).cur.level level.toNat).kind = 0) ∧
      LoopLegal (s.seen c 0) (w64 ((s.seen c 0).cur.level level.toNat).extent) body.toNat) ∧
    (let c := Ctl.none; let count := (0 : BitVec 12); let body := (63 : BitVec 16); let s := dev 0 .L id;
      s.clear c 0 [] [] = true ∧ (s.seen c 0).me.closing = false ∧ LoopLegal (s.seen c 0) (count.setWidth 64) body.toNat) :=
  ⟨by unfold LoopLegal; decide +kernel,
   by unfold LoopLegal; decide +kernel,
   by unfold LoopLegal; decide +kernel,
   by unfold LoopLegal; decide +kernel,
   by unfold LoopLegal; decide +kernel⟩

theorem witness_DivisionSelectionConstants :
    (let c := Ctl.none; let xd := (5 : Reg); let xa := (2 : Reg); let xb := (0 : Reg); let s := dev 0 .L id;
      s.clear c 0 [] [xd, xa, xb] = true ∧ (s.seen c 0).reg xb = 0) ∧
    (let c := Ctl.none; let xd := (5 : Reg); let xa := (10 : Reg); let xb := (11 : Reg);
      let s := dev 0 .L (withRegs [(10, BitVec.intMin 64), (11, -1)]); s.clear c 0 [] [xd, xa, xb] = true ∧
      (s.seen c 0).reg xa = BitVec.intMin 64 ∧ (s.seen c 0).reg xb = -1) ∧
    (let c := Ctl.none; let xd := (5 : Reg); let xs := (1 : Reg); let xa := (2 : Reg); let xb := (3 : Reg);
      let s := dev 0 .L id; s.clear c 0 [] [xd, xs, xa, xb] = true) ∧
    (let w := (0x0000160000000001 : Word); field w 40 8 = 0x16 ∧ field w 0 16 ≠ 0) ∧
    (let c := Ctl.none; let xd := (5 : Reg); let s := dev 0 .L id; s.clear c 0 [] [xd] = true) ∧
    (let p := LPart.z; let n := 3; (p, n) ∈ [(LPart.lo, 0), (.hi, 1), (.s, 2), (.z, 3)]) :=
  by
  refine ⟨?_,
    ?_,
    ?_,
    ?_,
    ?_,
    ?_⟩ <;> decide +kernel

theorem witness_CountsAndBitFields :
    (let c := Ctl.none; let xd := (5 : Reg); let xa := (2 : Reg); let s := dev 0 .L id; s.clear c 0 [] [xd, xa] = true) ∧
    (let c := Ctl.none; let xd := (5 : Reg); let xa := (2 : Reg); let s := dev 0 .L id; s.clear c 0 [] [xd, xa] = true) ∧
    (let c := Ctl.none; let xd := (5 : Reg); let xa := (2 : Reg); let s := dev 0 .L id; s.clear c 0 [] [xd, xa] = true) ∧
    (let w := (0x0000180000000001 : Word); (field w 40 8 = 0x18 ∨ field w 40 8 = 0x19 ∨ field w 40 8 = 0x1C) ∧
      field w 0 28 ≠ 0) ∧
    (let c := Ctl.none; let xd := (5 : Reg); let xa := (2 : Reg); let len1 := (63 : BitVec 6); let pos := (0 : BitVec 6);
      let s := dev 0 .L id; let len := 64; s.clear c 0 [] [xd, xa] = true ∧ len = len1.toNat + 1 ∧ pos.toNat + len ≤ 64) ∧
    (let c := Ctl.none; let xd := (5 : Reg); let xa := (2 : Reg); let len1 := (0 : BitVec 6); let pos := (63 : BitVec 6);
      let s := dev 0 .L id; let len := 1; s.clear c 0 [] [xd, xa] = true ∧ len = len1.toNat + 1 ∧ pos.toNat + len ≤ 64) ∧
    (let c := Ctl.none; let xd := (5 : Reg); let xa := (2 : Reg); let len1 := (0 : BitVec 6); let pos := (63 : BitVec 6);
      let s := dev 0 .L id; let len := 1; s.clear c 0 [] [xd, xa] = true ∧ len = len1.toNat + 1 ∧ pos.toNat + len ≤ 64) ∧
    (let len1 := (31 : BitVec 6); let pos := (32 : BitVec 6); pos.toNat + len1.toNat + 1 ≤ 64) ∧
    (let w := (0x00001A0000002000 : Word); (field w 40 8 = 0x1A ∨ field w 40 8 = 0x1B) ∧
      (field w 13 3 ≠ 0 ∨ 64 < field w 0 6 + (field w 6 6 + 1) ∨ (field w 40 8 = 0x1B ∧ bitOf w 12 = true))) ∧
    (let w := (0x00001B0000001000 : Word); (field w 40 8 = 0x1A ∨ field w 40 8 = 0x1B) ∧
      (field w 13 3 ≠ 0 ∨ 64 < field w 0 6 + (field w 6 6 + 1) ∨ (field w 40 8 = 0x1B ∧ bitOf w 12 = true))) ∧
    (let w := (0x00001A0000000FC1 : Word); (field w 40 8 = 0x1A ∨ field w 40 8 = 0x1B) ∧
      (field w 13 3 ≠ 0 ∨ 64 < field w 0 6 + (field w 6 6 + 1) ∨ (field w 40 8 = 0x1B ∧ bitOf w 12 = true))) :=
  by
  refine ⟨?_,
    ?_,
    ?_,
    ?_,
    ?_,
    ?_,
    ?_,
    ?_,
    ?_,
    ?_,
    ?_⟩ <;> decide +kernel

theorem witness_PlainControlWords :
    (let c := full; let s := dev 0 .L tokens; s.clear c 0 [] [] = true) ∧
    (let c := Ctl.none; let dir := Dir6.n; let xa := (3 : Reg); let s := dev 0 .L id; s.clear c 0 [] [xa] = true ∧
      (s.seen c 0).me.cqCount dir < 32) ∧
    (let c := Ctl.none; let xd := (3 : Reg); let dir := Dir6.p; let s := dev 0 .L (each fun m => { m with cqN := [5] });
      s.clear c 0 [] [xd] = true ∧ (s.seen c 0).cur.cqIn s.who.ctx dir ≠ []) ∧
    (let c := Ctl.none; let n := (6 : BitVec 5); let xa := (3 : Reg); let imm := (65528 : BitVec 16); let s := dev 0 .L id;
      s.clear c 0 [] [xa] = true ∧ ((s.seen c 0).cur.tk n.toNat).count - (ctlCounts c []).count n.toNat + ((s.seen c 0).cur.takeTokens s.who.ctx c []).inFlightTk n.toNat + (((s.seen c 0).reg xa).toNat + imm.toNat) ≤ 65535) ∧
    (let c := Ctl.none; let n := (6 : BitVec 5); let xa := (3 : Reg); let imm := (65529 : BitVec 16); let s := dev 0 .L id;
      s.clear c 0 [] [xa] = true ∧ s.isSpec s.k = false ∧ s.me.exposed = false ∧
      65535 < (s.cur.tk n.toNat).count - (ctlCounts c []).count n.toNat + (s.cur.takeTokens s.who.ctx c []).inFlightTk n.toNat + ((s.reg xa).toNat + imm.toNat)) ∧
    (let c := Ctl.none; let xd := (3 : Reg); let s := dev 0 .L id; s.clear c 0 [] [xd] = true) :=
  by
  refine ⟨?_,
    ?_,
    ?_,
    ?_,
    ?_,
    ?_⟩ <;> decide +kernel

theorem witness_ModeLeaveAndCapability :
    (let c := Ctl.none; let s := dev 0 .L id; s.clear c 0 [] [] = true) ∧
    (let c := Ctl.none; let mask := (7 : BitVec 3); let s := dev 0 .L id; mask ≠ 0 ∧ s.clear c 0 [] [] = true) ∧
    (let c := Ctl.none; let xd := (5 : Reg); let xa := (0 : Reg); let imm := (0xFF8 : BitVec 16); let s := dev 0 .L id;
      let off := 0xFF8; s.clear c 0 [] [xd, xa] = true ∧ off = ((s.seen c 0).reg xa).toNat + imm.toNat ∧ off % 8 = 0) ∧
    (let c := Ctl.none; let xd := (5 : Reg); let xa := (0 : Reg); let imm := (5 : BitVec 16); let s := dev 0 .L id;
      let off := 5; s.clear c 0 [] [xd, xa] = true ∧ s.isSpec s.k = false ∧ s.me.exposed = false ∧
      off = (s.reg xa).toNat + imm.toNat ∧ off % 8 ≠ 0) :=
  by
  refine ⟨?_,
    ?_,
    ?_,
    ?_⟩ <;> decide +kernel

theorem witness_SpecialReads :
    (let c := Ctl.none; let xd := (5 : Reg); let sel := (0x0003 : BitVec 16); let s := dev 0 .L id;
      ∃ x : Word, s.clear c 0 [] [xd] = true ∧ (0x8000 ≤ sel.toNat → (s.seen c 0).me.level ≠ 0) ∧
      (s.seen c 0).special sel.toNat = some x) ∧
    (let c := Ctl.none; let xd := (5 : Reg); let sel := (0x8005 : BitVec 16); let s := dev 1 .L id;
      ∃ x : Word, s.clear c 0 [] [xd] = true ∧ (0x8000 ≤ sel.toNat → (s.seen c 0).me.level ≠ 0) ∧
      (s.seen c 0).special sel.toNat = some x) ∧
    (let c := Ctl.none; let sel := (0x8000 : BitVec 16); let s := dev 0 .L id; WordComes s c ∧ s.me.exposed = false ∧
      s.isSpec s.k = false ∧ 0x8000 ≤ sel.toNat ∧ s.me.level = 0) ∧
    (let c := Ctl.none; let sel := (0xFFFF : BitVec 16); let s := dev 0 .L id; WordComes s c ∧ s.me.exposed = false ∧
      s.isSpec s.k = false ∧ 0x8000 ≤ sel.toNat ∧ s.me.level = 0) :=
  ⟨⟨_, by decide +kernel, by decide +kernel, rfl⟩,
   ⟨_, by decide +kernel, by decide +kernel, rfl⟩,
   (by refine ⟨⟨by decide +kernel, by decide +kernel, by decide +kernel, fun _ => rfl⟩, ?_, ?_, ?_, ?_⟩ <;> decide +kernel),
   (by refine ⟨⟨by decide +kernel, by decide +kernel, by decide +kernel, fun _ => rfl⟩, ?_, ?_, ?_, ?_⟩ <;> decide +kernel)⟩

theorem witness_SpecialWrites :
    (let c := Ctl.none; let xa := (3 : Reg); let s := dev 0 .L id; s.clear c 0 [] [xa] = true ∧
      ((s.seen c 0).reg xa).toNat < 2 ^ 32) ∧
    (let c := Ctl.none; let xa := (3 : Reg); let s := dev 0 .L id; s.clear c 0 [] [xa] = true ∧
      ((s.seen c 0).reg xa).toNat < 8) ∧
    (let c := Ctl.none; let sel := (0x8002 : BitVec 16); let xa := (20 : Reg); let s := dev 1 .L (withRegs [(20, 2048)]);
      let f := fun (q : Part) => ({ q with specdepth := (s.seen c 0).reg xa } : Part); s.clear c 0 [] [xa] = true ∧
      (s.seen c 0).me.level ≠ 0 ∧ ((sel = 0x8002 ∧ 1 ≤ ((s.seen c 0).reg xa).toNat ∧ ((s.seen c 0).reg xa).toNat ≤ 2048 ∧
      f = fun q => { q with specdepth := (s.seen c 0).reg xa }) ∨ (sel = 0x8003 ∧ ((s.seen c 0).reg xa).toNat ≤ 2 ^ 20 ∧
      f = fun q => { q with vbquota := (s.seen c 0).reg xa }) ∨ (sel = 0x8004 ∧ 1 ≤ ((s.seen c 0).reg xa).toNat ∧
      ((s.seen c 0).reg xa).toNat < 65536 ∧ f = fun q => { q with reddl := (s.seen c 0).reg xa }) ∨ (sel = 0x8005 ∧
      ((s.seen c 0).reg xa).toNat < 2 ^ 52 ∧ ((s.seen c 0).reg xa).toNat % 64 = 0 ∧
      f = fun q => { q with ptbase := (s.seen c 0).reg xa }) ∨ (sel = 0x8012 ∧ ((s.seen c 0).reg xa).toNat < 2 ∧
      f = fun q => { q with hold := bitOf ((s.seen c 0).reg xa) 0 }))) ∧
    (let c := Ctl.none; let sel := (0x8003 : BitVec 16); let xa := (20 : Reg); let s := dev 1 .L (withRegs [(20, 0x100000)]);
      let f := fun (q : Part) => ({ q with vbquota := (s.seen c 0).reg xa } : Part); s.clear c 0 [] [xa] = true ∧
      (s.seen c 0).me.level ≠ 0 ∧ ((sel = 0x8002 ∧ 1 ≤ ((s.seen c 0).reg xa).toNat ∧ ((s.seen c 0).reg xa).toNat ≤ 2048 ∧
      f = fun q => { q with specdepth := (s.seen c 0).reg xa }) ∨ (sel = 0x8003 ∧ ((s.seen c 0).reg xa).toNat ≤ 2 ^ 20 ∧
      f = fun q => { q with vbquota := (s.seen c 0).reg xa }) ∨ (sel = 0x8004 ∧ 1 ≤ ((s.seen c 0).reg xa).toNat ∧
      ((s.seen c 0).reg xa).toNat < 65536 ∧ f = fun q => { q with reddl := (s.seen c 0).reg xa }) ∨ (sel = 0x8005 ∧
      ((s.seen c 0).reg xa).toNat < 2 ^ 52 ∧ ((s.seen c 0).reg xa).toNat % 64 = 0 ∧
      f = fun q => { q with ptbase := (s.seen c 0).reg xa }) ∨ (sel = 0x8012 ∧ ((s.seen c 0).reg xa).toNat < 2 ∧
      f = fun q => { q with hold := bitOf ((s.seen c 0).reg xa) 0 }))) ∧
    (let c := Ctl.none; let sel := (0x8004 : BitVec 16); let xa := (20 : Reg); let s := dev 1 .L (withRegs [(20, 65535)]);
      let f := fun (q : Part) => ({ q with reddl := (s.seen c 0).reg xa } : Part); s.clear c 0 [] [xa] = true ∧
      (s.seen c 0).me.level ≠ 0 ∧ ((sel = 0x8002 ∧ 1 ≤ ((s.seen c 0).reg xa).toNat ∧ ((s.seen c 0).reg xa).toNat ≤ 2048 ∧
      f = fun q => { q with specdepth := (s.seen c 0).reg xa }) ∨ (sel = 0x8003 ∧ ((s.seen c 0).reg xa).toNat ≤ 2 ^ 20 ∧
      f = fun q => { q with vbquota := (s.seen c 0).reg xa }) ∨ (sel = 0x8004 ∧ 1 ≤ ((s.seen c 0).reg xa).toNat ∧
      ((s.seen c 0).reg xa).toNat < 65536 ∧ f = fun q => { q with reddl := (s.seen c 0).reg xa }) ∨ (sel = 0x8005 ∧
      ((s.seen c 0).reg xa).toNat < 2 ^ 52 ∧ ((s.seen c 0).reg xa).toNat % 64 = 0 ∧
      f = fun q => { q with ptbase := (s.seen c 0).reg xa }) ∨ (sel = 0x8012 ∧ ((s.seen c 0).reg xa).toNat < 2 ∧
      f = fun q => { q with hold := bitOf ((s.seen c 0).reg xa) 0 }))) ∧
    (let c := Ctl.none; let sel := (0x8005 : BitVec 16); let xa := (20 : Reg);
      let s := dev 1 .L (withRegs [(20, 0xFFFFFFFFFFFC0)]);
      let f := fun (q : Part) => ({ q with ptbase := (s.seen c 0).reg xa } : Part); s.clear c 0 [] [xa] = true ∧
      (s.seen c 0).me.level ≠ 0 ∧ ((sel = 0x8002 ∧ 1 ≤ ((s.seen c 0).reg xa).toNat ∧ ((s.seen c 0).reg xa).toNat ≤ 2048 ∧
      f = fun q => { q with specdepth := (s.seen c 0).reg xa }) ∨ (sel = 0x8003 ∧ ((s.seen c 0).reg xa).toNat ≤ 2 ^ 20 ∧
      f = fun q => { q with vbquota := (s.seen c 0).reg xa }) ∨ (sel = 0x8004 ∧ 1 ≤ ((s.seen c 0).reg xa).toNat ∧
      ((s.seen c 0).reg xa).toNat < 65536 ∧ f = fun q => { q with reddl := (s.seen c 0).reg xa }) ∨ (sel = 0x8005 ∧
      ((s.seen c 0).reg xa).toNat < 2 ^ 52 ∧ ((s.seen c 0).reg xa).toNat % 64 = 0 ∧
      f = fun q => { q with ptbase := (s.seen c 0).reg xa }) ∨ (sel = 0x8012 ∧ ((s.seen c 0).reg xa).toNat < 2 ∧
      f = fun q => { q with hold := bitOf ((s.seen c 0).reg xa) 0 }))) ∧
    (let c := Ctl.none; let sel := (0x8012 : BitVec 16); let xa := (20 : Reg); let s := dev 1 .L (withRegs [(20, 1)]);
      let f := fun (q : Part) => ({ q with hold := bitOf ((s.seen c 0).reg xa) 0 } : Part); s.clear c 0 [] [xa] = true ∧
      (s.seen c 0).me.level ≠ 0 ∧ ((sel = 0x8002 ∧ 1 ≤ ((s.seen c 0).reg xa).toNat ∧ ((s.seen c 0).reg xa).toNat ≤ 2048 ∧
      f = fun q => { q with specdepth := (s.seen c 0).reg xa }) ∨ (sel = 0x8003 ∧ ((s.seen c 0).reg xa).toNat ≤ 2 ^ 20 ∧
      f = fun q => { q with vbquota := (s.seen c 0).reg xa }) ∨ (sel = 0x8004 ∧ 1 ≤ ((s.seen c 0).reg xa).toNat ∧
      ((s.seen c 0).reg xa).toNat < 65536 ∧ f = fun q => { q with reddl := (s.seen c 0).reg xa }) ∨ (sel = 0x8005 ∧
      ((s.seen c 0).reg xa).toNat < 2 ^ 52 ∧ ((s.seen c 0).reg xa).toNat % 64 = 0 ∧
      f = fun q => { q with ptbase := (s.seen c 0).reg xa }) ∨ (sel = 0x8012 ∧ ((s.seen c 0).reg xa).toNat < 2 ∧
      f = fun q => { q with hold := bitOf ((s.seen c 0).reg xa) 0 }))) :=
  ⟨by decide +kernel,
   by decide +kernel,
   ⟨by decide +kernel, by decide +kernel, .inl ⟨rfl, by decide +kernel, by decide +kernel, rfl⟩⟩,
   ⟨by decide +kernel, by decide +kernel, .inr <| .inl ⟨rfl, by decide +kernel, rfl⟩⟩,
   ⟨by decide +kernel, by decide +kernel, .inr <| .inr <| .inl ⟨rfl, by decide +kernel, by decide +kernel, rfl⟩⟩,
   ⟨by decide +kernel, by decide +kernel, .inr <| .inr <| .inr <| .inl ⟨rfl, by decide +kernel, by decide +kernel, rfl⟩⟩,
   ⟨by decide +kernel, by decide +kernel, .inr <| .inr <| .inr <| .inr ⟨rfl, by decide +kernel, rfl⟩⟩⟩

theorem witness_ContextEnds :
    (let c := Ctl.none; let s := dev 0 .L id; s.clear c 0 [] [] = true ∧ (s.seen c 0).me.closing = false ∧
      (s.seen c 0).cur.haltReq = false ∧ TkFits (s.seen c 0).cur) ∧
    (let c := Ctl.none; let s := dev 0 .L id; s.clear c 0 [] [] = true ∧ (s.seen c 0).isSpec s.k = false ∧
      TkFits (s.seen c 0).cur) ∧
    (let c := Ctl.none; let s := specDev (dev 0 .L id); let tk := ({ task1 with spec := true, prov := true } : Task);
      s.clear c 0 [] [] = true ∧ (s.seen c 0).taskOf s.k = some tk ∧ tk.spec = true ∧ TkFits (s.seen c 0).cur) ∧
    (let c := Ctl.none; let s := specDev (dev 0 .L id); s.clear c 0 [] [] = true ∧ s.me.exposed = false ∧ s.me.pair = none ∧
      s.isSpec s.k = true) ∧
    (let c := Ctl.none; let s := dev 0 .L id; s.clear c 0 [] [] = true ∧ (s.seen c 0).isSpec s.k = false ∧
      TkFits (s.seen c 0).cur) :=
  ⟨by simp only [tkFits_iff]; decide +kernel,
   by simp only [tkFits_iff]; decide +kernel,
   by simp only [tkFits_iff]; decide +kernel,
   by decide +kernel,
   by simp only [tkFits_iff]; decide +kernel⟩

theorem witness_ScalarAccessesEnterTheQueue :
    (let i := Instr.ldd Ctl.none 5 11 0; let s := dev 0 .L mapped;
      ∃ a : Queued, scalarAccess (s.seen (ctlOf i) 0) i = some a ∧ s.clear (ctlOf i) 0 [] a.uses = true ∧ s.who.ctx ≠ .X ∧
      (s.seen (ctlOf i) 0).me.accHalt = none ∧ (s.seen (ctlOf i) 0).accTrap a.ea a.op.size a.op.size a.op.isStore = none ∧
      (match a.op with | .store n _ => (s.seen (ctlOf i) 0).mayStore a.ea n = true | .amo op _ _ _ _ => (s.seen (ctlOf i) 0).amoTrap op a.ea = none ∧ ((s.seen (ctlOf i) 0).isSpec s.k = false ∨ isVirt a.ea = false) ∧ (s.seen (ctlOf i) 0).lostTrap a.ea a.op.size = none | _ => (s.seen (ctlOf i) 0).lostTrap a.ea a.op.size = none)) ∧
    (let i := Instr.stb full 3 11 1; let s := dev 0 .S fun c => tokens (mapped c);
      ∃ a : Queued, scalarAccess (s.seen (ctlOf i) 0) i = some a ∧ s.clear (ctlOf i) 0 [] a.uses = true ∧ s.who.ctx ≠ .X ∧
      (s.seen (ctlOf i) 0).me.accHalt = none ∧ (s.seen (ctlOf i) 0).accTrap a.ea a.op.size a.op.size a.op.isStore = none ∧
      (match a.op with | .store n _ => (s.seen (ctlOf i) 0).mayStore a.ea n = true | .amo op _ _ _ _ => (s.seen (ctlOf i) 0).amoTrap op a.ea = none ∧ ((s.seen (ctlOf i) 0).isSpec s.k = false ∨ isVirt a.ea = false) ∧ (s.seen (ctlOf i) 0).lostTrap a.ea a.op.size = none | _ => (s.seen (ctlOf i) 0).lostTrap a.ea a.op.size = none)) ∧
    (let i := Instr.amo Ctl.none .add true 5 11 3 0; let s := dev 0 .L mapped;
      ∃ a : Queued, scalarAccess (s.seen (ctlOf i) 0) i = some a ∧ s.clear (ctlOf i) 0 [] a.uses = true ∧ s.who.ctx ≠ .X ∧
      (s.seen (ctlOf i) 0).me.accHalt = none ∧ (s.seen (ctlOf i) 0).accTrap a.ea a.op.size a.op.size a.op.isStore = none ∧
      (match a.op with | .store n _ => (s.seen (ctlOf i) 0).mayStore a.ea n = true | .amo op _ _ _ _ => (s.seen (ctlOf i) 0).amoTrap op a.ea = none ∧ ((s.seen (ctlOf i) 0).isSpec s.k = false ∨ isVirt a.ea = false) ∧ (s.seen (ctlOf i) 0).lostTrap a.ea a.op.size = none | _ => (s.seen (ctlOf i) 0).lostTrap a.ea a.op.size = none)) :=
  ⟨⟨_, rfl, by decide +kernel⟩,
   ⟨_, rfl, by decide +kernel⟩,
   ⟨_, rfl, by decide +kernel⟩⟩

theorem witness_BadAddressesTrap :
    (let i := Instr.ldd Ctl.none 5 11 1; let s := dev 0 .L mapped; ∃ a : Queued, scalarAccess s i = some a ∧
      s.clear (ctlOf i) 0 [] a.uses = true ∧ s.who.ctx ≠ .X ∧ s.me.exposed = false ∧ s.me.accHalt = none ∧
      s.isSpec s.k = false ∧ a.ea.toNat % a.op.size ≠ 0) ∧
    (let i := Instr.ldd Ctl.none 5 15 0; let s := dev 0 .L mapped; ∃ a : Queued, scalarAccess s i = some a ∧
      s.clear (ctlOf i) 0 [] a.uses = true ∧ s.who.ctx ≠ .X ∧ s.me.exposed = false ∧ s.me.accHalt = none ∧
      s.isSpec s.k = false ∧ a.ea.toNat % a.op.size = 0 ∧ classOfAddr a.ea = .third) ∧
    (let i := Instr.stb Ctl.none 3 14 0; let s := dev 0 .L mapped; ∃ a : Queued, scalarAccess s i = some a ∧
      s.clear (ctlOf i) 0 [] a.uses = true ∧ s.who.ctx ≠ .X ∧ s.me.exposed = false ∧ s.me.accHalt = none ∧
      s.isSpec s.k = false ∧ a.ea.toNat % a.op.size = 0 ∧ classOfAddr a.ea = .beyond) ∧
    (let i := Instr.stb Ctl.none 3 10 (-0xF000); let s := dev 0 .L mapped; ∃ a : Queued, scalarAccess s i = some a ∧
      s.clear (ctlOf i) 0 [] a.uses = true ∧ s.who.ctx ≠ .X ∧ s.me.exposed = false ∧ s.me.accHalt = none ∧
      s.isSpec s.k = false ∧ a.ea.toNat % a.op.size = 0 ∧ classOfAddr a.ea = .scratch 0x1000 ∧ a.op.isStore = true ∧
      s.cur.meetsWindow 0x1000 a.op.size = true) :=
  ⟨⟨_, rfl, by decide +kernel⟩,
   ⟨_, rfl, by decide +kernel⟩,
   ⟨_, rfl, by decide +kernel⟩,
   ⟨_, rfl, by decide +kernel⟩⟩

theorem witness_OtherAccessesEnterTheQueue :
    (let c := Ctl.none; let vq := (600 : BitVec 10); let xb := (11 : Reg); let imm := (-8 : BitVec 24);
      let s := dev 0 .L fun c => { mapped c with qs := [(600, ⟨2, 1, []⟩)] }; s.clear c 0 [] [xb] = true ∧ s.who.ctx = .L ∧
      (s.seen c 0).me.accHalt = none ∧ ((s.seen c 0).cur.queue vq.toNat).kind = 1 ∧
      ((s.seen c 0).cur.queue vq.toNat).els.length < ((s.seen c 0).cur.queue vq.toNat).depth ∧
      (s.seen c 0).accTrap ((s.seen c 0).reg xb + imm.signExtend 64) 512 64 false = none ∧
      (s.seen c 0).lostTrap ((s.seen c 0).reg xb + imm.signExtend 64) 512 = none) ∧
    (let c := Ctl.none; let s := dev 0 .S mapped; s.clear c 0 [] [] = true ∧ s.who.ctx ≠ .X ∧ (s.seen c 0).me.accHalt = none) ∧
    (let c := Ctl.none; let s := dev 0 .S mapped; s.clear c 0 [] [] = true ∧ s.who.ctx ≠ .X ∧ (s.seen c 0).me.accHalt = none) ∧
    (let c := Ctl.none; let xa := (20 : Reg); let s := berths (dev 0 .L named); ∃ b : Berth, s.clear c 0 [] [xa] = true ∧
      s.who.ctx ≠ .X ∧ (s.seen c 0).me.accHalt = none ∧
      (s.seen c 0).checkBerth ((s.seen c 0).partOf s.k) ((s.seen c 0).reg xa) = .ok b) :=
  by
  refine ⟨?_,
    ?_,
    ?_,
    (by refine ⟨_, ?_, ?_, ?_, rfl⟩ <;> decide +kernel)⟩ <;> decide +kernel

theorem witness_RingAndQueueWords :
    (let c := Ctl.none; let ring := (5 : BitVec 4); let xa := (24 : Reg);
      let s := dev 0 .L (withRegs [(24, w64 (2 ^ 41 + 3 * 2 ^ 32 + 5 * 2 ^ 22 + 0x20000))]); s.clear c 0 [] [xa] = true ∧
      s.who.ctx ≠ .X ∧ (s.seen c 0).cur.ringTrap ((s.seen c 0).reg xa) 42 ((s.seen c 0).cur.ring ring.toNat) = none) ∧
    (let c := Ctl.none; let xd := (5 : Reg); let ring := (1 : BitVec 4); let s := dev 0 .L rings; let r := ring1;
      s.clear c 0 [] [xd] = true ∧ s.who.ctx = r.prod ∧ r.prod ≠ .X ∧ (s.seen c 0).cur.ring ring.toNat = some r ∧
      r.slot r.claim = .empty) ∧
    (let c := Ctl.none; let ring := (1 : BitVec 4); let s := dev 0 .L rings; let r := ring1; s.clear c 0 [] [] = true ∧
      s.who.ctx = r.prod ∧ r.prod ≠ .X ∧ (s.seen c 0).me.accHalt = none ∧ (s.seen c 0).cur.ring ring.toNat = some r ∧
      r.fill < r.claim) ∧
    (let c := Ctl.none; let xd := (5 : Reg); let n := (2 : BitVec 16); let ring := (1 : BitVec 4); let s := dev 0 .S rings;
      let r := ring1; s.clear c 0 [] [xd] = true ∧ s.who.ctx = r.cons ∧ r.cons ≠ .X ∧
      (s.seen c 0).cur.ring ring.toNat = some r ∧ n.toNat ≤ r.slots ∧ n.toNat ≤ r.count .full) ∧
    (let c := Ctl.none; let xd := (5 : Reg); let n := (1 : BitVec 16); let ring := (1 : BitVec 4); let s := dev 0 .L rings;
      let r := ring1; s.clear c 0 [] [xd] = true ∧ s.who.ctx = r.prod ∧ r.prod ≠ .X ∧
      (s.seen c 0).cur.ring ring.toNat = some r ∧ n.toNat ≤ r.slots ∧ n.toNat ≤ r.empties) ∧
    (let c := Ctl.none; let xd := (5 : Reg); let ring := (1 : BitVec 4); let s := dev 0 .S rings; let r := ring1;
      s.clear c 0 [] [xd] = true ∧ s.who.ctx = r.cons ∧ r.cons ≠ .X ∧ (s.seen c 0).cur.ring ring.toNat = some r ∧
      r.slot r.take = .full) ∧
    (let c := Ctl.none; let ring := (2 : BitVec 4); let s := dev 0 .S rings; let r := ring2; s.clear c 0 [] [] = true ∧
      s.who.ctx = r.cons ∧ r.cons ≠ .X ∧ (s.seen c 0).me.accHalt = none ∧ (s.seen c 0).cur.ring ring.toNat = some r ∧
      r.free < r.take) ∧
    (let c := Ctl.none; let mq := (3 : BitVec 2); let xa := (24 : Reg);
      let s := dev 0 .L (withRegs [(24, w64 (3 * 2 ^ 32 + 5 * 2 ^ 22 + 0x20000))]); s.clear c 0 [] [xa] = true ∧
      s.who.ctx ≠ .X ∧ (s.seen c 0).cur.ringTrap ((s.seen c 0).reg xa) 40 ((s.seen c 0).cur.mq mq.toNat) = none) ∧
    (let c := Ctl.none; let xd := (5 : Reg); let mq := (1 : BitVec 2); let s := dev 0 .L rings; let r := ringL;
      s.clear c 0 [] [xd] = true ∧ s.who.ctx = r.cons ∧ r.cons ≠ .X ∧ (s.seen c 0).cur.mq mq.toNat = some r ∧
      r.slot r.take = .full) ∧
    (let c := Ctl.none; let xd := (5 : Reg); let mq := (2 : BitVec 2); let s := dev 0 .S rings; let r := ringS;
      s.clear c 0 [] [xd] = true ∧ s.who.ctx = r.cons ∧ r.cons ≠ .X ∧ (s.seen c 0).cur.mq mq.toNat = some r ∧
      r.slot r.take ≠ .full) ∧
    (let c := Ctl.none; let n := (1 : BitVec 16); let mq := (1 : BitVec 2); let s := dev 0 .L rings; let r := ringL;
      s.clear c 0 [] [] = true ∧ s.who.ctx = r.cons ∧ r.cons ≠ .X ∧ (s.seen c 0).me.accHalt = none ∧
      (s.seen c 0).cur.mq mq.toNat = some r ∧ r.free + n.toNat ≤ r.take) :=
  by
  refine ⟨?_,
    ?_,
    ?_,
    ?_,
    ?_,
    ?_,
    ?_,
    ?_,
    ?_,
    ?_,
    ?_⟩ <;> decide +kernel

theorem witness_BerthWords :
    (let c := Ctl.none; let xd := (5 : Reg); let xa := (20 : Reg); let xb := (23 : Reg); let imm := (0 : BitVec 16);
      let s := berths (dev 0 .L named); ∃ b : Berth, s.clear c 0 [] [xd, xa, xb] = true ∧ s.who.ctx ≠ .X ∧
      (s.seen c 0).checkBerth ((s.seen c 0).partOf s.k) ((s.seen c 0).reg xa) = .ok b ∧
      ((s.seen c 0).part ((s.seen c 0).partOf s.k)).reg 8 ≠ 0 ∧ ((s.seen c 0).reg xb).toNat + imm.toNat < b.count * 4096) ∧
    (let c := Ctl.none; let xd := (5 : Reg); let xa := (20 : Reg); let xb := (23 : Reg); let imm := (0xFFFF : BitVec 16);
      let s := berths (dev 0 .L named); ∃ b : Berth, s.clear c 0 [] [xd, xa, xb] = true ∧ s.who.ctx ≠ .X ∧
      s.isSpec s.k = false ∧ s.me.exposed = false ∧ s.checkBerth (s.partOf s.k) (s.reg xa) = .ok b ∧
      b.count * 4096 ≤ (s.reg xb).toNat + imm.toNat) ∧
    (let c := Ctl.none; let xa := (20 : Reg); let s := berths (dev 0 .L named); ∃ b : Berth, s.clear c 0 [] [xa] = true ∧
      s.who.ctx ≠ .X ∧ (s.seen c 0).checkBerth ((s.seen c 0).partOf s.k) ((s.seen c 0).reg xa) = .ok b) :=
  ⟨(by refine ⟨_, ?_, ?_, rfl, ?_⟩ <;> decide +kernel),
   (by refine ⟨_, ?_, ?_, ?_, ?_, rfl, ?_⟩ <;> decide +kernel),
   ⟨_, by decide +kernel, by decide +kernel, rfl⟩⟩

theorem witness_EngineWordsEnterTheirQueue :
    (let i := Instr.spld Ctl.none ⟨3, 0, 0, 0, 0x100⟩; let s := dev 0 .S engines;
      ∃ a : EngineWord, engineWord (s.seen (ctlOf i) 0) i = some a ∧
      s.clear (ctlOf i) 0 [a.args.tki0, a.args.tki1, a.args.tki2] [] = true ∧
      (if a.onlyL then s.who.ctx = .L else s.who.ctx ≠ .X) ∧ a.trap = none ∧ a.twice = false ∧ (a.front = true →
      (s.seen (ctlOf i) 0).isSpec s.k = false) ∧ (s.seen (ctlOf i) 0).rcdLost a.args = none ∧
      (s.seen (ctlOf i) 0).me.regsReady a.awaits = true ∧ (a.ferry = false → (s.seen (ctlOf i) 0).me.engq.length < 16)) ∧
    (let i := Instr.tspawn Ctl.none ⟨3, 0, 0, 0, 0x108⟩; let s := dev 0 .L engines;
      ∃ a : EngineWord, engineWord (s.seen (ctlOf i) 0) i = some a ∧
      s.clear (ctlOf i) 0 [a.args.tki0, a.args.tki1, a.args.tki2] [] = true ∧
      (if a.onlyL then s.who.ctx = .L else s.who.ctx ≠ .X) ∧ a.trap = none ∧ a.twice = false ∧ (a.front = true →
      (s.seen (ctlOf i) 0).isSpec s.k = false) ∧ (s.seen (ctlOf i) 0).rcdLost a.args = none ∧
      (s.seen (ctlOf i) 0).me.regsReady a.awaits = true ∧ (a.ferry = false → (s.seen (ctlOf i) 0).me.engq.length < 16)) ∧
    (let i := Instr.collAllred Ctl.none ⟨3, 0, 0, 0, 0x100⟩; let s := secondColl; let v := s.seen (ctlOf i) 0; let g := 0;
      let n := 9; ∃ a : EngineWord, v = s.seen (ctlOf i) 0 ∧ engineWord v i = some a ∧
      s.clear (ctlOf i) 0 [a.args.tki0, a.args.tki1, a.args.tki2] [] = true ∧ s.who.ctx ≠ .X ∧ a.trap = none ∧
      a.twice = true ∧ v.isSpec s.k = false ∧ v.rcdLost a.args = none ∧ v.me.engq.length < 16 ∧
      g = collGroup (v.rcdAt a.args) ∧ n = collNum (v.rcdAt a.args) ∧ (v.collRank (v.partOf s.k) g s.k).isSome = true ∧
      (v.cur.transfers.map (·.id)).Nodup ∧ (∀ e, e ∈ v.cur.transfers → e.id < v.cur.nextId)) ∧
    (let i := Instr.spst Ctl.none ⟨3, 0, 0, 0, 0x102⟩; let s := specDev (dev 0 .L engines);
      ∃ a : EngineWord, s.me.exposed = false ∧ engineWord s i = some a ∧
      s.clear (ctlOf i) 0 [a.args.tki0, a.args.tki1, a.args.tki2] [] = true ∧
      (if a.onlyL then s.who.ctx = .L else s.who.ctx ≠ .X) ∧ s.me.pair = none ∧ (a.op = .tgraph ∨ (a.trap = none ∧
      s.rcdLost a.args = none)) ∧ a.front = true ∧ s.isSpec s.k = true) :=
  ⟨⟨_, rfl, by decide +kernel⟩,
   ⟨_, rfl, by decide +kernel⟩,
   (by refine ⟨_, rfl, rfl, ?_, ?_, ?_, ?_, ?_, ?_, ?_, ?_, ?_,
      rank_isSome (by decide +kernel) rfl (by decide +kernel) rfl (by decide +kernel), ?_, ?_⟩ <;> decide +kernel),
   ⟨_, by decide +kernel, rfl, by decide +kernel⟩⟩

theorem witness_YieldAndBindWords :
    (let c := Ctl.none; let s := dev 0 .S id; s.clear c 0 [] [] = true ∧ s.who.ctx ≠ .X ∧ (s.seen c 0).isSpec s.k = false) ∧
    (let c := Ctl.none; let xa := (20 : Reg); let s := dev 0 .L (withRegs [(20, 5)]); s.clear c 0 [] [xa] = true ∧
      s.who.ctx ≠ .X ∧ ((s.seen c 0).reg xa).toNat ≤ (s.seen c 0).taskt ∧
      ((s.seen c 0).reg xa).toNat ≤ ((s.seen c 0).frontKey s.k).1) ∧
    (let c := Ctl.none; let xa := (20 : Reg); let s := dev 0 .L (withRegs [(20, 6)]); s.clear c 0 [] [xa] = true ∧
      s.who.ctx ≠ .X ∧ s.isSpec s.k = false ∧ s.me.exposed = false ∧ s.taskt < (s.reg xa).toNat) ∧
    (let c := Ctl.none; let slot := (9 : BitVec 6); let xa := (20 : Reg); let shr := true;
      let s := { dev 0 .L (withRegs [(20, 0x10080)] ∘ mapped) with slotTab := [(0, 128)] }; let l := (⟨0, 0x30080⟩ : Loc);
      s.clear c 0 [] [xa] = true ∧ s.who.ctx = .L ∧ (s.seen c 0).lbindTrap slot.toNat ((s.seen c 0).reg xa) shr = none ∧
      (s.seen c 0).descPlace ((s.seen c 0).reg xa).toNat = .ok l) ∧
    (let c := Ctl.none; let slot := (1 : BitVec 6); let s := dev 0 .L ladders; s.clear c 0 [] [] = true ∧ s.who.ctx = .L ∧
      ((s.seen c 0).cur.slot slot.toNat).isSome = true ∧ (s.seen c 0).cur.ladderOn slot.toNat = false) :=
  by
  refine ⟨?_,
    ?_,
    ?_,
    ?_,
    ?_⟩ <;> decide +kernel

theorem witness_VectorWords :
    (let i := Instr.vadd Ctl.none ⟨4, 1, 1, true, false⟩ .fp32 ⟨false, .rne⟩; let s := dev 0 .X queues;
      ∃ a : VectorWord, vectorWord (s.seen (ctlOf i) 1) i = some a ∧ s.clear (ctlOf i) 1 [] a.uses = true ∧ s.who.ctx = .X ∧
      CanRead (s.seen (ctlOf i) 1) a.srcs ∧ (s.seen (ctlOf i) 1).dstTrap a.vd a.pushes a.srcs = none) ∧
    (let i := Instr.vmov Ctl.none ⟨vnull, 600, false⟩; let s := dev 0 .X queues;
      ∃ a : VectorWord, vectorWord (s.seen (ctlOf i) 1) i = some a ∧ s.clear (ctlOf i) 1 [] a.uses = true ∧ s.who.ctx = .X ∧
      CanRead (s.seen (ctlOf i) 1) a.srcs ∧ (s.seen (ctlOf i) 1).dstTrap a.vd a.pushes a.srcs = none) :=
  ⟨⟨_, rfl, by unfold CanRead; decide +kernel⟩,
   ⟨_, rfl, by unfold CanRead; decide +kernel⟩⟩

theorem witness_EmptyQueuesTrap :
    (let i := Instr.vmov Ctl.none ⟨1, 4, false⟩; let s := dev 0 .X queues; let pre := ([] : List (Nat × Nat));
      let post := ([] : List (Nat × Nat)); let q := 4; let n := 1; ∃ a : VectorWord, vectorWord s i = some a ∧
      needs a.srcs [] = pre ++ (q, n) :: post ∧ (∀ e, e ∈ pre → (s.cur.queue e.1).kind = 0 →
      e.2 ≤ (s.cur.queue e.1).els.length) ∧ s.clear (ctlOf i) 1 [] a.uses = true ∧ s.who.ctx = .X ∧ s.me.exposed = false ∧
      s.srcOvf a.srcs = none ∧ s.isSpec s.k = false ∧ (s.cur.queue q).kind = 0 ∧ (s.cur.queue q).els.length < n) ∧
    (let i := Instr.vadd Ctl.none ⟨2, 1, 4, false, false⟩ .fp32 ⟨false, .rne⟩; let s := dev 0 .X queues; let pre := [(1, 1)];
      let post := ([] : List (Nat × Nat)); let q := 4; let n := 1; ∃ a : VectorWord, vectorWord s i = some a ∧
      needs a.srcs [] = pre ++ (q, n) :: post ∧ (∀ e, e ∈ pre → (s.cur.queue e.1).kind = 0 →
      e.2 ≤ (s.cur.queue e.1).els.length) ∧ s.clear (ctlOf i) 1 [] a.uses = true ∧ s.who.ctx = .X ∧ s.me.exposed = false ∧
      s.srcOvf a.srcs = none ∧ s.isSpec s.k = false ∧ (s.cur.queue q).kind = 0 ∧ (s.cur.queue q).els.length < n) :=
  ⟨⟨_, rfl, by decide +kernel⟩,
   ⟨_, rfl, by decide +kernel⟩⟩

theorem witness_VectorLanes :
    (let ty := ETy.int32; fmtOf ty = none) ∧
    (let ty := ETy.int8; let a := 255; a < 2 ^ ty.bits) ∧
    (let ty := ETy.fp32; let a := 0xFFFFFFFF; a < 2 ^ ty.bits) ∧
    (let ty := ETy.uint8; fmtOf ty = none) ∧
    (let ty := ETy.bf16; let f := (fmtOf ty).getD FFmt.fp32; let a := 0x7FC0; let b := 0; fmtOf ty = some f ∧
      ((f.dec a).isNaN = true ∨ (f.dec b).isNaN = true)) ∧
    (let ty := ETy.fp32; let f := FFmt.fp32; let a := 0; let b := 0xFFC00000; fmtOf ty = some f ∧
      ((f.dec a).isNaN = true ∨ (f.dec b).isNaN = true)) ∧
    (let ty := ETy.int8; let a := (255 : Elem); let b := (7 : Elem); let x := (6 : Int); fmtOf ty = none ∧
      x = ((List.range (lanesOf ty)).map fun i => intLane ty (lane ty.bits a i)).sum + intLane .int32 (lane 32 b 0)) :=
  by
  refine ⟨?_,
    ?_,
    ?_,
    ?_,
    ?_,
    ?_,
    ?_⟩ <;> decide +kernel

theorem witness_ScratchAndExactWords :
    (let c := Ctl.none; let vd := (4 : BitVec 10); let xa := (30 : Reg); let imm := (0 : BitVec 15);
      let s := dev 0 .X scratch; s.clear c 1 [] [xa] = true ∧ s.who.ctx = .X ∧ (s.seen c 1).cur.genq = [] ∧
      scratchTrap (scratchOff (s.seen c 1) xa imm) = none ∧ (s.seen c 1).dstTrap vd 1 [] = none ∧
      (s.seen c 1).cur.withScratch.spLost (scratchOff (s.seen c 1) xa imm) 512 = false) ∧
    (let c := Ctl.none; let va := (1 : BitVec 10); let pa := true; let xa := (30 : Reg); let imm := (0 : BitVec 15);
      let s := dev 0 .X scratch; s.clear c 1 [] [xa] = true ∧ s.who.ctx = .X ∧ (s.seen c 1).cur.genq = [] ∧
      scratchTrap (scratchOff (s.seen c 1) xa imm) = none ∧
      (s.seen c 1).cur.meetsWindow (scratchOff (s.seen c 1) xa imm) 512 = false ∧
      CanRead (s.seen c 1) [{ q := va, peek := pa }]) ∧
    (let c := Ctl.none; let xd := (5 : Reg); let s := dev 0 .X scratch; s.clear c 1 [] [xd] = true ∧ s.who.ctx = .X) ∧
    (let c := Ctl.none; let va := (1 : BitVec 10); let pa := false; let s := dev 0 .X scratch; s.clear c 1 [] [] = true ∧
      s.who.ctx = .X ∧ CanRead (s.seen c 1) [{ q := va, peek := pa }]) ∧
    (let c := Ctl.none; let va := (1 : BitVec 10); let pa := true; let s := dev 0 .X scratch; s.clear c 1 [] [] = true ∧
      s.who.ctx = .X ∧ CanRead (s.seen c 1) [{ q := va, peek := pa }]) ∧
    (let c := Ctl.none; let vd := (4 : BitVec 10); let a := (3 : BitVec 6); let len1 := (0 : BitVec 6);
      let s := dev 0 .X scratch; s.clear c 1 [] [] = true ∧ s.who.ctx = .X ∧ (s.seen c 1).dstTrap vd 1 [] = none ∧
      ((s.seen c 1).me.exposed = false → (s.seen c 1).me.flights.any (fun f => f.touches a.toNat (len1.toNat + 1)) = false)) ∧
    (let c := Ctl.none; let s := dev 0 .X scratch; s.clear c 1 [] [] = true ∧ s.who.ctx = .X) :=
  by
  refine ⟨?_,
    by unfold CanRead; decide +kernel,
    ?_,
    by unfold CanRead; decide +kernel,
    by unfold CanRead; decide +kernel,
    ?_,
    ?_⟩ <;> decide +kernel

theorem witness_EngineStateWords :
    (let c := Ctl.none; let xa := (3 : Reg); let s := dev 0 .X matrix; s.clear c 2 [] [xa] = true ∧ s.who.ctx = .X ∧
      (s.seen c 2).cur.fq.length < 32) ∧
    (let c := Ctl.none; let s := dev 0 .X matrix; s.clear c 2 [] [] = true ∧ s.who.ctx = .X ∧ (s.seen c 2).cur.fq.length < 32) ∧
    (let c := Ctl.none; let xa := (3 : Reg); let s := dev 0 .X fun c => { c with fq := List.replicate 32 (.mode .rne) };
      s.clear c 2 [] [xa] = true ∧ s.who.ctx = .X ∧ s.me.exposed = false ∧ s.isSpec s.k = false ∧ 32 ≤ s.cur.fq.length ∧
      s.cur.tilesWait = false) ∧
    (let c := Ctl.none; let xa := (3 : Reg); let s := dev 0 .X matrix; s.clear c 2 [] [xa] = true ∧ s.who.ctx = .X) ∧
    (let c := Ctl.none; let xa := (3 : Reg); let s := dev 0 .X matrix; s.clear c 2 [] [xa] = true ∧ s.who.ctx = .X) ∧
    (let c := Ctl.none; let xa := (0 : Reg); let imm := (0x400 : BitVec 16); let s := dev 0 .X matrix; let off := 0x10000;
      s.clear c 2 [] [xa] = true ∧ s.who.ctx = .X ∧ off = ((s.seen c 2).reg xa).toNat + imm.toNat * 64 ∧ off % 64 = 0 ∧
      off + 64 ≤ spSize ∧ nestReserved ((s.seen c 2).xRecord off) = false ∧
      (s.seen c 2).cur.withScratch.spLost off 64 = false) :=
  by
  refine ⟨?_,
    ?_,
    ?_,
    ?_,
    ?_,
    ?_⟩ <;> decide +kernel

theorem witness_TileCommandsIssue :
    (let c := Ctl.none; let w := (⟨3, 0, 1, 40, 41, 41, gangFor 1 1, true, false⟩ : Tile); let s := dev 0 .X matrix;
      s.clear c 2 [] [w.xm, w.xn, w.xk] = true ∧ s.who.ctx = .X ∧ (s.seen c 2).tgoTrap .tgo w = none ∧
      (s.seen c 2).tgoOrdered .tgo w = none ∧ accumReady (s.seen c 2) w) ∧
    (let c := Ctl.none; let w := (⟨3, 0, 1, 41, 41, 41, gangFor 1 1, true, false⟩ : Tile); let s := dev 0 .X matrix;
      s.clear c 2 [] [w.xm, w.xn, w.xk] = true ∧ s.who.ctx = .X ∧ (s.seen c 2).tgoTrap .tgoG w = none ∧
      (s.seen c 2).tgoOrdered .tgoG w = none ∧ accumReady (s.seen c 2) w ∧
      (s.seen c 2).cur.withScratch.spLost (nestGtab ((s.seen c 2).cur.nestSlot w.nest.toNat)) (8 * ((s.seen c 2).reg w.xm).toNat) = false) ∧
    (let c := Ctl.none; let w := (⟨3, 0, 1, 40, 41, 41, gangFor 1 1, true, false⟩ : Tile); let s := dev 0 .X matrix;
      s.clear c 2 [] [w.xm, w.xn, w.xk] = true ∧ s.who.ctx = .X ∧ (s.seen c 2).tgoTrap .tgoSp w = none ∧
      (s.seen c 2).tgoOrdered .tgoSp w = none ∧ accumReady (s.seen c 2) w) :=
  ⟨by unfold accumReady; decide +kernel,
   by unfold accumReady; decide +kernel,
   by unfold accumReady; decide +kernel⟩

theorem witness_TileMoves :
    (let c := Ctl.none; let s := dev 0 .X matrix; s.clear c 2 [] [] = true ∧ s.who.ctx = .X) ∧
    (let c := Ctl.none; let accS := (2 : BitVec 4); let accD := (2 : BitVec 4); let add := true; let s := dev 0 .X matrix;
      s.clear c 2 [] [] = true ∧ s.who.ctx = .X ∧ TileReady (s.seen c 2) accS.toNat ∧ (add = true →
      (s.seen c 2).tileOvf accD.toNat = none)) ∧
    (let c := Ctl.none; let w := (⟨2, 0, 40, 41, true⟩ : Win); let s := dev 0 .X matrix; s.clear c 2 [] [w.xm, w.xn] = true ∧
      s.who.ctx = .X ∧ (s.seen c 2).winBad w = false ∧ TileReady (s.seen c 2) w.acc.toNat ∧
      (s.seen c 2).winTrap w ((s.seen c 2).cur.tile w.acc.toNat).size true = none ∧
      (s.seen c 2).winOvlap w ((s.seen c 2).cur.tile w.acc.toNat).size true = none) ∧
    (let c := Ctl.none; let w := (⟨2, 0, 40, 41, true⟩ : Win); let s := dev 0 .X matrix; s.clear c 2 [] [w.xm, w.xn] = true ∧
      s.who.ctx = .X ∧ (s.seen c 2).winBad w = false ∧ (s.seen c 2).winTrap w 4 false = none ∧
      (s.seen c 2).winOvlap w 4 false = none) ∧
    (let c := Ctl.none; let vd := (4 : BitVec 10); let acc := (2 : BitVec 4); let xa := (3 : Reg); let s := dev 0 .X matrix;
      s.clear c 2 [] [xa] = true ∧ s.who.ctx = .X ∧ TileReady (s.seen c 2) acc.toNat ∧ (s.seen c 2).dstTrap vd 1 [] = none) :=
  ⟨by decide +kernel,
   by unfold TileReady; decide +kernel,
   by unfold TileReady; decide +kernel,
   by decide +kernel,
   by unfold TileReady; decide +kernel⟩

theorem witness_LadderWordsEnterTheQueue :
    (let i := Instr.lapp Ctl.none 1 1 1 true; let s := dev 0 .X ladders;
      ∃ a : LadderWord, ladderWord (s.seen (ctlOf i) 0) i = some a ∧ s.clear (ctlOf i) 0 [] a.uses = true ∧ s.who.ctx = .X ∧
      CanRead (s.seen (ctlOf i) 0) a.srcs ∧ (s.seen (ctlOf i) 0).cur.ladTrap a.op a.slot = none ∧
      a.op.batchTrap (s.seen (ctlOf i) 0).cur = none ∧ a.op.batchWait (s.seen (ctlOf i) 0).cur = false ∧
      (s.seen (ctlOf i) 0).cur.ladq.length < 16) ∧
    (let i := Instr.lfork Ctl.none 3 2; let s := dev 0 .X ladders;
      ∃ a : LadderWord, ladderWord (s.seen (ctlOf i) 0) i = some a ∧ s.clear (ctlOf i) 0 [] a.uses = true ∧ s.who.ctx = .X ∧
      CanRead (s.seen (ctlOf i) 0) a.srcs ∧ (s.seen (ctlOf i) 0).cur.ladTrap a.op a.slot = none ∧
      a.op.batchTrap (s.seen (ctlOf i) 0).cur = none ∧ a.op.batchWait (s.seen (ctlOf i) 0).cur = false ∧
      (s.seen (ctlOf i) 0).cur.ladq.length < 16) :=
  ⟨⟨_, rfl, by unfold CanRead; decide +kernel⟩,
   ⟨_, rfl, by unfold CanRead; decide +kernel⟩⟩

theorem witness_TapWords :
    (let c := Ctl.none; let xa := (42 : Reg); let s := dev 0 .X unbound; ∃ (rows : BitVec 256) (notes : List ReadEnt),
      s.clear c 3 [] [xa] = true ∧ s.who.ctx = .X ∧ (s.seen c 3).cur.genq = [] ∧
      offsetTrap ((s.seen c 3).reg xa).toNat = none ∧ (s.seen c 3).bindTrap ((s.seen c 3).reg xa).toNat = none ∧
      (s.seen c 3).rangeLost ((s.seen c 3).reg xa).toNat 256 = none ∧
      (s.seen c 3).tableRows ((s.seen c 3).reg xa).toNat = .ok rows notes ∧
      (s.seen c 3).settleScratch.tableRows ((s.seen c 3).reg xa).toNat = .ok rows notes) ∧
    (let c := Ctl.none; let xd := (5 : Reg); let s := dev 0 .X batches; s.clear c 3 [] [xd] = true ∧ s.who.ctx = .X ∧
      (s.seen c 3).cur.genq = [] ∧ (s.seen c 3).cur.batch.isSome = true ∧
      (s.seen c 3).rangeLost (s.seen c 3).cur.tab 256 = none) ∧
    (let c := Ctl.none; let xb := (43 : Reg); let first := (0 : BitVec 6); let cnt1 := (0 : BitVec 4);
      let s := probes (dev 0 .X batches); (s.clear c 3 [] [xb] = true ∧ s.who.ctx = .X ∧ (s.seen c 3).cur.genq = [] ∧
      (s.seen c 3).cur.batch.isSome = true ∧ ((s.seen c 3).reg xb).toNat % 64 = 0 ∧
      (s.seen c 3).rangeLost (s.seen c 3).cur.tab 256 = none ∧
      (s.seen c 3).rangeLost (s.seen c 3).cur.tab (256 + 256 * tabRows (s.seen c 3).xsp (s.seen c 3).cur.tab) = none ∧
      (∀ r, r ∈ (s.seen c 3).activeRows →
      (s.seen c 3).cur.spLost (((s.seen c 3).reg xb).toNat + r * tabPitch (s.seen c 3).xsp (s.seen c 3).cur.tab) (tabRowBytes (s.seen c 3).xsp (s.seen c 3).cur.tab) = false)) ∧ ∃ (p : TapPlan) (notes : List ReadEnt), (s.seen c 3).tapPlan ((s.seen c 3).reg xb).toNat first.toNat (cnt1.toNat + 1) = .ok p notes ∧ p.least = none) ∧
    (let c := Ctl.none; let xb := (43 : Reg); let first := (0 : BitVec 6); let cnt1 := (1 : BitVec 4);
      let s := probes (dev 0 .X batches); (s.clear c 3 [] [xb] = true ∧ s.who.ctx = .X ∧ (s.seen c 3).cur.genq = [] ∧
      (s.seen c 3).cur.batch.isSome = true ∧ ((s.seen c 3).reg xb).toNat % 64 = 0 ∧
      (s.seen c 3).rangeLost (s.seen c 3).cur.tab 256 = none ∧
      (s.seen c 3).rangeLost (s.seen c 3).cur.tab (256 + 256 * tabRows (s.seen c 3).xsp (s.seen c 3).cur.tab) = none ∧
      (∀ r, r ∈ (s.seen c 3).activeRows →
      (s.seen c 3).cur.spLost (((s.seen c 3).reg xb).toNat + r * tabPitch (s.seen c 3).xsp (s.seen c 3).cur.tab) (tabRowBytes (s.seen c 3).xsp (s.seen c 3).cur.tab) = false) ∧ (s.seen c 3).isSpec s.k = false) ∧ ∃ (p : TapPlan) (notes : List ReadEnt), (s.seen c 3).tapPlan ((s.seen c 3).reg xb).toNat first.toNat (cnt1.toNat + 1) = .ok p notes ∧ p.least = some 1) :=
  ⟨(by refine ⟨_, _, ?_, ?_, ?_, ?_, ?_, ?_, rfl, rfl⟩ <;> decide +kernel),
   by decide +kernel,
   ⟨by decide +kernel, exists_ok (by decide +kernel)⟩,
   ⟨by decide +kernel, exists_ok (by decide +kernel)⟩⟩

theorem witness_GenerationWords :
    (let i := Instr.vshort Ctl.none ⟨4, 1, 2, false, true⟩ false; let s := dev 0 .X batches;
      ∃ a : GenWord, genWordOf (s.seen (ctlOf i) 3) (s.seen (ctlOf i) 3).settleScratch i = some a ∧
      s.clear (ctlOf i) 3 [] [] = true ∧ s.who.ctx = .X ∧ (s.seen (ctlOf i) 3).cur.batch.isSome = true ∧
      (s.seen (ctlOf i) 3).cur.genq = [] ∧ CanRead (s.seen (ctlOf i) 3) a.srcs ∧ a.trap = none ∧
      (s.seen (ctlOf i) 3).dstTrap a.vd a.pushes a.srcs = none) ∧
    (let i := Instr.vsampU Ctl.none 4 2 false true; let s := dev 0 .X batches;
      ∃ a : GenWord, genWordOf (s.seen (ctlOf i) 3) (s.seen (ctlOf i) 3).settleScratch i = some a ∧
      s.clear (ctlOf i) 3 [] [] = true ∧ s.who.ctx = .X ∧ (s.seen (ctlOf i) 3).cur.batch.isSome = true ∧
      (s.seen (ctlOf i) 3).cur.genq = [] ∧ CanRead (s.seen (ctlOf i) 3) a.srcs ∧ a.trap = none ∧
      (s.seen (ctlOf i) 3).dstTrap a.vd a.pushes a.srcs = none) ∧
    (let c := Ctl.none; let x := (⟨4, 2, true⟩ : V2); let s := dev 0 .X batches;
      ∃ ctl : Elem, ctl = listElem (s.seen c 3) (v2srcs x) ∧ s.clear c 3 [] [] = true ∧ s.who.ctx = .X ∧
      (s.seen c 3).cur.batch.isSome = true ∧ (s.seen c 3).cur.genq = [] ∧ CanRead (s.seen c 3) (v2srcs x) ∧
      (s.seen c 3).rowTrap (ctlRow ctl) = none ∧ (s.seen c 3).rowLost (ctlRow ctl) = none ∧
      (s.seen c 3).dstTrap x.vd 1 (v2srcs x) = none ∧ (s.seen c 3).outFull = false) ∧
    (let c := Ctl.none; let x := (⟨4, 1, 2, true, false⟩ : V3); let bf := true; let s := dev 0 .X batches;
      ∃ ctl : Elem, ctl = ctlElem (s.seen c 3) (v3srcs x) ∧ s.clear c 3 [] [] = true ∧ s.who.ctx = .X ∧
      (s.seen c 3).cur.batch.isSome = true ∧ (s.seen c 3).cur.genq = [] ∧ CanRead (s.seen c 3) (v3srcs x) ∧
      chunkTrap bf ((s.seen c 3).srcElems (v3srcs x)) = none ∧ (s.seen c 3).rowTrap (ctlRow ctl) = none ∧
      (s.seen c 3).rowLost (ctlRow ctl) = none ∧ (s.seen c 3).dstTrap x.vd 1 (v3srcs x) = none) :=
  ⟨⟨_, rfl, by unfold CanRead; decide +kernel⟩,
   ⟨_, rfl, by unfold CanRead; decide +kernel⟩,
   ⟨_, rfl, by unfold CanRead; decide +kernel⟩,
   ⟨_, rfl, by unfold CanRead; decide +kernel⟩⟩

theorem witness_RowWords :
    (let c := Ctl.none; let xd := (5 : Reg); let xa := (40 : Reg); let s := dev 0 .X batches; let v := s.seen c 3;
      let w := v.settleScratch; let r := 0; let st := streamStep (rowStream w.cur.sp w.cur.tab r); v = s.seen c 3 ∧
      w = v.settleScratch ∧ r = (v.reg xa).toNat ∧ s.clear c 3 [] [xd, xa] = true ∧ s.who.ctx = .X ∧ RowReady v r ∧
      st = streamStep (rowStream w.cur.sp w.cur.tab r) ∧ v.cur.rowQuar r = false) ∧
    (let c := Ctl.none; let xd := (5 : Reg); let xa := (41 : Reg); let s := dev 0 .X batches; let v := s.seen c 3;
      let w := v.settleScratch; let r := 1; let st := streamStep (rowStream w.cur.sp w.cur.tab r); v = s.seen c 3 ∧
      w = v.settleScratch ∧ r = (v.reg xa).toNat ∧ s.clear c 3 [] [xd, xa] = true ∧ s.who.ctx = .X ∧ RowReady v r ∧
      st = streamStep (rowStream w.cur.sp w.cur.tab r) ∧ v.cur.rowQuar r = true) ∧
    (let c := Ctl.none; let xa := (40 : Reg); let xb := (3 : Reg); let s := dev 0 .X batches; let v := s.seen c 3;
      let w := v.settleScratch; let r := 0; v = s.seen c 3 ∧ w = v.settleScratch ∧ r = (v.reg xa).toNat ∧
      s.clear c 3 [] [xa, xb] = true ∧ s.who.ctx = .X ∧ RowReady v r) ∧
    (let c := Ctl.none; let xd := (5 : Reg); let xa := (41 : Reg); let s := dev 0 .X batches; let v := s.seen c 3;
      let w := v.settleScratch; let r := 1; v = s.seen c 3 ∧ w = v.settleScratch ∧ r = (v.reg xa).toNat ∧
      s.clear c 3 [] [xd, xa] = true ∧ s.who.ctx = .X ∧ RowReady v r) ∧
    (let c := Ctl.none; let xa := (40 : Reg); let xb := (44 : Reg); let s := dev 0 .X batches; let v := s.seen c 3;
      let w := v.settleScratch; let r := 0; v = s.seen c 3 ∧ w = v.settleScratch ∧ r = (v.reg xa).toNat ∧
      s.clear c 3 [] [xa, xb] = true ∧ s.who.ctx = .X ∧ RowReady v r ∧ (v.reg xb).toNat < 2 ^ 47 ∧
      (v.reg xb).toNat % 2 ^ 32 < rowGnext v.xsp v.cur.tab r) :=
  ⟨by unfold RowReady; decide +kernel,
   by unfold RowReady; decide +kernel,
   by unfold RowReady; decide +kernel,
   by unfold RowReady; decide +kernel,
   by unfold RowReady; decide +kernel⟩

theorem witness_ExcludedWordsTrap :
    (let i := Instr.tlbiAll Ctl.none; let s := dev 0 .X id; let m := false; systemWord i = some m ∧ WordComes s (ctlOf i) ∧
      s.me.level = 0 ∧ s.isSpec s.k = false) ∧
    (let i := Instr.islw Ctl.none 1 2; let s := dev 1 .S id; systemWord i = some true ∧ s.clear (ctlOf i) 0 [] [] = true ∧
      s.me.pend = [] ∧ s.me.exposed = false ∧ s.me.level = 1 ∧ s.isSpec s.k = false) ∧
    (let i := Instr.ldb Ctl.none 5 1 0; let s := dev 0 .X id; let op := 0x40; opcodeOf i = some op ∧ excluded op s.who.ctx ∧
      WordComes s (ctlOf i) ∧ s.isSpec s.k = false) ∧
    (let i := Instr.tgraph Ctl.none ⟨3, 0, 0, 0, 0x108⟩; let s := dev 0 .S id; let op := 0x6B; opcodeOf i = some op ∧
      excluded op s.who.ctx ∧ WordComes s (ctlOf i) ∧ s.isSpec s.k = false) ∧
    (let i := Instr.vmov Ctl.none ⟨4, 1, false⟩; let s := dev 0 .L id; let op := (opcodeOf i).getD 0; opcodeOf i = some op ∧
      excluded op s.who.ctx ∧ WordComes s (ctlOf i) ∧ s.isSpec s.k = false) :=
  ⟨(by refine ⟨?_, ⟨by decide +kernel, by decide +kernel, by decide +kernel, fun _ => rfl⟩, ?_, ?_⟩ <;> decide +kernel),
   by decide +kernel,
   ⟨by decide +kernel, by unfold excluded; decide +kernel, ⟨by decide +kernel, by decide +kernel, by decide +kernel,
      fun _ => rfl⟩, by decide +kernel⟩,
   ⟨by decide +kernel, by unfold excluded; decide +kernel, ⟨by decide +kernel, by decide +kernel, by decide +kernel,
      fun _ => rfl⟩, by decide +kernel⟩,
   ⟨by decide +kernel, by unfold excluded; decide +kernel, ⟨by decide +kernel, by decide +kernel, by decide +kernel,
      fun _ => rfl⟩, by decide +kernel⟩⟩

theorem witness_CopyingSystemWords :
    (let c := Ctl.none; let xa := (20 : Reg); let xb := (21 : Reg); let xc := (22 : Reg); let s := system 1 .L;
      (s.clear c 0 [] [xa, xb, xc] = true ∧ s.me.level ≠ 0 ∧ (s.seen c 0).isSpec s.k = false ∧
      (s.seen c 0).wswTrap ((s.seen c 0).reg xa) ((s.seen c 0).reg xb) ((s.seen c 0).reg xc) = none ∧
      (s.seen c 0).quiet ((s.seen c 0).partOf s.k) (s.seen c 0).cur.task = true ∧
      (∀ b, b ∈ banksOf ((s.seen c 0).reg xb).toNat ((s.seen c 0).reg xc).toNat →
      (s.seen c 0).portOpen ⟨3, b * 2 ^ 24⟩ = true) ∧ NoReaders (s.seen c 0)) ∧ ∃ (bs : List Byte) (notes : List ReadEnt),
      (s.seen c 0).superRead ((s.seen c 0).reg xa).toNat ((s.seen c 0).reg xc).toNat = .ok bs notes ∧ notes = notes) ∧
    (let c := Ctl.none; let xa := (30 : Reg); let idx := (1 : BitVec 8); let s := system 1 .L; (s.clear c 0 [] [xa] = true ∧
      s.me.level ≠ 0 ∧ (s.seen c 0).isSpec s.k = false ∧ (s.seen c 0).ptbwTrap ((s.seen c 0).reg xa) probeBad = none ∧
      (s.seen c 0).rangeLost ((s.seen c 0).reg xa).toNat 64 = none ∧ NoReaders (s.seen c 0)) ∧
      ∃ (l : Loc) (notes : List ReadEnt), (s.seen c 0).ptbwAt (64 + 64 * idx.toNat) = .ok l notes ∧
      (s.seen c 0).wayFree l 64 = true) ∧
    (let c := Ctl.none; let xa := (31 : Reg); let s := system 1 .X; (s.clear c 0 [] [xa] = true ∧ s.me.level ≠ 0 ∧
      (s.seen c 0).isSpec s.k = false ∧ (s.seen c 0).ptbwTrap ((s.seen c 0).reg xa) probeHdrBad = none ∧
      (s.seen c 0).rangeLost ((s.seen c 0).reg xa).toNat 64 = none ∧ NoReaders (s.seen c 0)) ∧
      ∃ (l : Loc) (notes : List ReadEnt), (s.seen c 0).ptbwAt 0 = .ok l notes ∧ (s.seen c 0).wayFree l 64 = true) :=
  ⟨⟨by unfold NoReaders; decide +kernel, exists_ok (by decide +kernel)⟩,
   ⟨by unfold NoReaders; decide +kernel, exists_ok (by decide +kernel)⟩,
   ⟨by unfold NoReaders; decide +kernel, exists_ok (by decide +kernel)⟩⟩

theorem witness_MonitorWords :
    (let c := Ctl.none; let xa := (25 : Reg); let s := system 2 .L; s.clear c 0 [] [xa] = true ∧ 2 ≤ s.me.level ∧
      (s.seen c 0).isSpec s.k = false ∧ slotBad (((s.seen c 0).reg xa).setWidth 16) = false) ∧
    (let c := Ctl.none; let xa := (32 : Reg); let s := system 2 .L; ∃ b : Berth, s.clear c 0 [] [xa] = true ∧ 2 ≤ s.me.level ∧
      (s.seen c 0).isSpec s.k = false ∧ berthOf ((s.seen c 0).reg xa) = some b ∧ b.part < 16) ∧
    (let c := Ctl.none; let xa := (32 : Reg); let xb := (33 : Reg); let s := system 2 .L;
      ∃ b : Berth, s.clear c 0 [] [xa, xb] = true ∧ 2 ≤ s.me.level ∧ (s.seen c 0).isSpec s.k = false ∧
      berthOf ((s.seen c 0).reg xa) = some b ∧ b.part < 16 ∧ ((s.seen c 0).reg xb).toNat % 256 ≠ 0) ∧
    (let c := Ctl.none; let xa := (29 : Reg); let xb := (21 : Reg); let sel := (24 : BitVec 5); let s := system 2 .L;
      let p := 1; s.clear c 0 [] [xa, xb] = true ∧ 2 ≤ s.me.level ∧ (s.seen c 0).isSpec s.k = false ∧
      p = ((s.seen c 0).reg xa).toNat ∧ p < 16 ∧ p ≠ (s.seen c 0).partOf s.k ∧
      (s.seen c 0).partBad p sel.toNat ((s.seen c 0).reg xb) = false ∧ (s.seen c 0).quiet p 0 = true) ∧
    (let c := Ctl.none; let xa := (25 : Reg); let xb := (29 : Reg); let s := system 2 .L; s.clear c 0 [] [xa, xb] = true ∧
      2 ≤ s.me.level ∧ (s.seen c 0).isSpec s.k = false ∧ ((s.seen c 0).reg xa).toNat < 32) :=
  by
  refine ⟨?_,
    (by refine ⟨_, ?_, ?_, ?_, rfl, ?_⟩ <;> decide +kernel),
    (by refine ⟨_, ?_, ?_, ?_, rfl, ?_⟩ <;> decide +kernel),
    ?_,
    ?_⟩ <;> decide +kernel

theorem witness_HaltAndResume :
    (let c := Ctl.none; let xa := (23 : Reg); let s := system 1 .L; let k := 5; s.clear c 0 [] [xa] = true ∧ s.me.level ≠ 0 ∧
      (s.seen c 0).isSpec s.k = false ∧ k = ((s.seen c 0).reg xa).toNat ∧ k ≠ s.k ∧
      (s.seen c 0).owns ((s.seen c 0).partOf s.k) k = true ∧ ((s.seen c 0).core k).halted = true) ∧
    (let c := Ctl.none; let xa := (24 : Reg); let s := system 1 .L; let k := 7; s.clear c 0 [] [xa] = true ∧ s.me.level ≠ 0 ∧
      (s.seen c 0).isSpec s.k = false ∧ k = ((s.seen c 0).reg xa).toNat ∧ k ≠ s.k ∧
      (s.seen c 0).owns ((s.seen c 0).partOf s.k) k = true ∧ ((s.seen c 0).core k).halted = false ∧
      ((s.seen c 0).core k).stopped = false) ∧
    (let c := Ctl.none; let xa := (28 : Reg); let s := system 1 .L; let k := 6; s.clear c 0 [] [xa] = true ∧ s.me.level ≠ 0 ∧
      (s.seen c 0).isSpec s.k = false ∧ k = ((s.seen c 0).reg xa).toNat ∧ k ≠ s.k ∧
      (s.seen c 0).owns ((s.seen c 0).partOf s.k) k = true ∧ ((s.seen c 0).core k).halted = false ∧
      ((s.seen c 0).core k).stopped = true) ∧
    (let c := Ctl.none; let xa := (23 : Reg); let s := system 1 .L; let k := 5; s.clear c 0 [] [xa] = true ∧ s.me.level ≠ 0 ∧
      (s.seen c 0).isSpec s.k = false ∧ k = ((s.seen c 0).reg xa).toNat ∧
      (s.seen c 0).owns ((s.seen c 0).partOf s.k) k = true) :=
  by
  refine ⟨?_,
    ?_,
    ?_,
    ?_⟩ <;> decide +kernel

theorem witness_ReturnFromReflection :
    (let c := Ctl.none; let s := dev 1 .L (each fun m => { m with frame := some frame0, regs := m.regs ++ [(56, 8), (59,
      130)] }); let f := frame0; s.clear c 0 [] [56, 57, 58, 59] = true ∧ s.me.level ≠ 0 ∧ (s.seen c 0).isSpec s.k = false ∧
      (s.seen c 0).me.frame = some f) ∧
    (let c := Ctl.none; let s := dev 1 .X id; s.clear c 0 [] [56, 57, 58, 59] = true ∧ s.me.level ≠ 0 ∧ s.isSpec s.k = false ∧
      s.me.exposed = false ∧ s.me.frame = none) :=
  ⟨by decide +kernel,
   by decide +kernel⟩

theorem witness_CrossCoreWords :
    (let i := Instr.tlbiPg Ctl.none 22; let c := Ctl.none; let s := system 1 .L; let uses := ([22] : List Reg);
      let d := Shoot.page ((s.seen c 0).reg 22).toNat; ((∃ xa, uses = [xa] ∧ (i = .tlbiPg c xa ∧
      d = .page ((s.seen c 0).reg xa).toNat ∨ i = .tlbiBlk c xa ∧ d = .block ((s.seen c 0).reg xa).toNat)) ∨ (uses = [] ∧
      i = .tlbiAll c ∧ d = .all)) ∧ s.clear c 0 [] uses = true ∧ s.me.level ≠ 0 ∧ (s.seen c 0).isSpec s.k = false ∧
      (s.seen c 0).storesAt 2 = true ∧ (s.seen c 0).translated ((s.seen c 0).partOf s.k) d = false) ∧
    (let i := Instr.tlbiAll Ctl.none; let c := Ctl.none; let s := dev 1 .L id; let uses := ([] : List Reg);
      let d := Shoot.all; ((∃ xa, uses = [xa] ∧ (i = .tlbiPg c xa ∧
      d = .page ((s.seen c 0).reg xa).toNat ∨ i = .tlbiBlk c xa ∧ d = .block ((s.seen c 0).reg xa).toNat)) ∨ (uses = [] ∧
      i = .tlbiAll c ∧ d = .all)) ∧ s.clear c 0 [] uses = true ∧ s.me.level ≠ 0 ∧ (s.seen c 0).isSpec s.k = false ∧
      (s.seen c 0).storesAt 2 = true ∧ (s.seen c 0).translated ((s.seen c 0).partOf s.k) d = false) ∧
    (let c := Ctl.none; let xa := (23 : Reg); let xb := (29 : Reg); let w := (1 : BitVec 2); let s := system 1 .L;
      let e := (none : Option (Nat × Loc)); let notes := ([] : List ReadEnt); let k := 5;
      let rows := rowsAt (BitVec.toNat w) ((s.seen c 0).reg xb).toNat; s.clear c 0 [] [xa, xb] = true ∧ s.me.level ≠ 0 ∧
      (s.seen c 0).isSpec s.k = false ∧ k = ((s.seen c 0).reg xa).toNat ∧ k < 384 ∧
      (s.seen c 0).owns ((s.seen c 0).partOf s.k) k = true ∧ (s.seen c 0).quarAt k = .ok e notes ∧ (∀ va l, e = some (va, l) →
      (s.seen c 0).wayFree l 32 = true) ∧ NoReaders (s.seen c 0) ∧ rows = rowsAt (BitVec.toNat w) ((s.seen c 0).reg xb).toNat) ∧
    (let c := Ctl.none; let xa := (28 : Reg); let s := system 1 .L; let n := 6; s.clear c 0 [] [xa] = true ∧ s.me.level ≠ 0 ∧
      (s.seen c 0).isSpec s.k = false ∧ n = ((s.seen c 0).reg xa).toNat ∧ n ≤ 6 ∧
      (s.seen c 0).storesAt (if n = 6 then 3 else 2) = true) ∧
    (let c := Ctl.none; let xa := (29 : Reg); let s := system 1 .L; let n := 1; s.clear c 0 [] [xa] = true ∧ s.me.level ≠ 0 ∧
      (s.seen c 0).isSpec s.k = false ∧ n = ((s.seen c 0).reg xa).toNat ∧ n ≤ 6 ∧
      (s.seen c 0).storesAt (if n = 6 then 3 else 2) = true) :=
  ⟨(by refine ⟨.inl ⟨22, rfl, .inl ⟨rfl, rfl⟩⟩, ?_, ?_, ?_⟩ <;> decide +kernel),
   (by refine ⟨.inr ⟨rfl, rfl, rfl⟩, ?_, ?_, ?_⟩ <;> decide +kernel),
   (by refine ⟨?_, ?_, ?_, ?_, ?_, ?_, rfl, fun _ _ h => (nomatch h), (by unfold NoReaders; decide +kernel),
      ?_⟩ <;> decide +kernel),
   by decide +kernel,
   by decide +kernel⟩

theorem witness_LoadsComplete :
    (let k := 3; let x := Ctx.L; let a := (⟨2, 2, 0, .load 5 8, 0x10000⟩ : Access); let s := accesses [a] [];
      let xd := (5 : Reg); let n := 8; (k < 384 ∧ (s.ctxOf k x).accq.find? (fun a => a.op.isLoad) = some a ∧
      a.op = .load xd n ∧ s.loadReady k x a = true) ∧ ∃ (bs : List Byte) (notes : List ReadEnt),
      s.readEa k ((s.ctxOf k x).acc false) a.ea n = .ok bs notes ∧ bs = leBytes 8 0x123456789ABCDEF0) ∧
    (let k := 3; let x := Ctx.L; let a := (⟨2, 2, 0, .vld 3 64, 0x10000⟩ : Access); let s := accesses [a] []; let q := 3;
      let id := 64; (k < 384 ∧ (s.ctxOf k x).accq.find? (fun a => a.op.isLoad) = some a ∧ a.op = .vld q id ∧
      s.loadReady k x a = true) ∧ ∃ (bs : List Byte) (notes : List ReadEnt),
      s.readEa k ((s.ctxOf k x).acc false) a.ea 512 = .ok bs notes ∧ bs.length = 512) ∧
    (let k := 3; let x := Ctx.L; let a := (⟨2, 2, 0, .amo .cas false 5 3 0, 0xFFF0000000001000⟩ : Access);
      let s := accesses [a] []; let op := AmoOp.cas; let dbl := false; let xd := (5 : Reg); let b := (3 : Word);
      let old := (0 : Word); let off := 0x1000; let n := 4; k < 384 ∧
      (s.ctxOf k x).accq.find? (fun a => a.op.isLoad) = some a ∧ a.op = .amo op dbl xd b old ∧ s.loadReady k x a = true ∧
      classOfAddr a.ea = .scratch off ∧ n = (if dbl then 8 else 4) ∧ (s.core k).spLost off n = false) ∧
    (let k := 3; let x := Ctx.L; let a := (⟨2, 2, 0, .amo .add true 5 3 0, 0x10008⟩ : Access); let s := accesses [a] [];
      let op := AmoOp.add; let dbl := true; let xd := (5 : Reg); let b := (3 : Word); let old := (0 : Word);
      let va := 0x10008; let l := (⟨0, 0x30008⟩ : Loc); let n := 8; k < 384 ∧
      (s.ctxOf k x).accq.find? (fun a => a.op.isLoad) = some a ∧ a.op = .amo op dbl xd b old ∧ s.loadReady k x a = true ∧
      classOfAddr a.ea = .virt va ∧ n = (if dbl then 8 else 4) ∧ s.translate k ((s.ctxOf k x).acc true) va = .ok l ∧
      (l.space = 1 ∨ l.space = 2 → amoRemote op = true) ∧ s.lostAt k l n = false ∧ (s.core k).postedMeets l n = false ∧
      s.isSpec k = false ∧ s.portOpen l = true ∧ NoReaders s) :=
  ⟨⟨by decide +kernel, exists_read (by decide +kernel)⟩,
   ⟨by decide +kernel, exists_read (by decide +kernel)⟩,
   by decide +kernel,
   by unfold NoReaders; decide +kernel⟩

theorem witness_StoresArePerformed :
    (let k := 3; let x := Ctx.S; let a := (⟨2, 2, 0, .store 4 7, 0xFFF0000000001000⟩ : Access); let s := accesses [a] [];
      let pre := ([] : List Access); let rest := ([] : List Access); let n := 4; let v := (7 : Word); let off := 0x1000;
      k < 384 ∧ (s.ctxOf k x).accq = pre ++ a :: rest ∧ (∀ b, b ∈ pre → b.op.isStore = false) ∧ a.op = .store n v ∧
      s.storeReady k x a = true ∧ classOfAddr a.ea = .scratch off) ∧
    (let k := 3; let x := Ctx.S; let a := (⟨2, 2, 0, .store 4 7, 0x10008⟩ : Access); let s := accesses [a] [];
      let pre := ([] : List Access); let rest := ([] : List Access); let n := 4; let v := (7 : Word); let va := 0x10008;
      let l := (⟨0, 0x30008⟩ : Loc); k < 384 ∧ (s.ctxOf k x).accq = pre ++ a :: rest ∧ (∀ b, b ∈ pre → b.op.isStore = false) ∧
      a.op = .store n v ∧ s.storeReady k x a = true ∧ classOfAddr a.ea = .virt va ∧
      s.translate k ((s.ctxOf k x).acc true) va = .ok l ∧ s.isSpec k = false) ∧
    (let k := 3; let x := Ctx.S; let a := (⟨2, 2, 0, .store 4 7, 0x10008⟩ : Access); let s := specDev (accesses [a] []);
      let pre := ([] : List Access); let rest := ([] : List Access); let n := 4; let v := (7 : Word); let va := 0x10008;
      let l := (⟨0, 0x30008⟩ : Loc); let tk := ({ task1 with spec := true, prov := true } : Task); k < 384 ∧
      (s.ctxOf k x).accq = pre ++ a :: rest ∧ (∀ b, b ∈ pre → b.op.isStore = false) ∧ a.op = .store n v ∧
      s.storeReady k x a = true ∧ classOfAddr a.ea = .virt va ∧ s.translate k ((s.ctxOf k x).acc true) va = .ok l ∧
      s.taskOf k = some tk ∧ tk.spec = true ∧ l.space ≠ 1 ∧ s.vroom k tk va n = true ∧ s.conflicts tk (va / 64) = [] ∧
      va % 64 + n ≤ 64) ∧
    (let k := 3; let p := (⟨.L, 1, 0, 0x30002, 0x10002, [1, 2]⟩ : Posted);
      let s := accesses [] [⟨.S, 0, 0, 0x30004, 0x10004, [9]⟩, p]; let n := 1; k < 384 ∧ (s.core k).posted[n]? = some p ∧
      s.portOpen ⟨p.space, p.addr⟩ = true ∧ (∀ q, q ∈ (s.core k).posted.take n → q.space = p.space →
      meets q.addr q.data.length p.addr p.data.length = false)) :=
  by
  refine ⟨?_,
    ?_,
    ?_,
    ?_⟩ <;> decide +kernel

theorem witness_WritesLandAndWordsRetire :
    (let k := 3; let x := Ctx.X; let s := flying [⟨4, 21, 1, 0, .reg 3 77⟩] [] 0; k < 384 ∧ (s.ctxOf k x).exposed = false ∧
      TkFits (s.core k)) ∧
    (let k := 3; let x := Ctx.X; let wid := 4; let g := (⟨4, true, false, 5, false, true, 3, 9⟩ : Sig);
      let s := flying [] [g] 0; let l := (s.ctxOf k x).sigs.filter (fun g => g.wid == wid); k < 384 ∧
      (s.ctxOf k x).flights = [] ∧ l = (s.ctxOf k x).sigs.filter (fun g => g.wid == wid) ∧ (∀ g, g ∈ l →
      (s.ctxOf k x).releasable x g = true) ∧ TkFits (s.core k)) ∧
    (let k := 3; let x := Ctx.X; let wid := 4; let g := (⟨4, true, false, 5, true, true, 3, 9⟩ : Sig);
      let s := flying [] [g] 0; k < 384 ∧ (s.ctxOf k x).flights = [] ∧ (s.ctxOf k x).sigs = [g] ∧
      (s.ctxOf k x).releasable x g = false) ∧
    (let k := 3; let x := Ctx.X; let wid := 4; let g := (⟨4, true, false, 5, false, true, 3, 9⟩ : Sig);
      let s := { flying [] [g] 0 with cores := [(3, { (flying [] [g] 0).core 3 with tks := [(5, ⟨65535, false⟩)] })] };
      k < 384 ∧ (s.ctxOf k x).flights = [] ∧ (s.ctxOf k x).sigs = [g] ∧ (s.ctxOf k x).releasable x g = true ∧ g.stk ≠ 0 ∧
      65535 ≤ ((s.core k).tk g.stk.toNat).count ∧ NoReaders s) ∧
    (let k := 3; let x := Ctx.S; let s := flying [] [] 48; k < 384 ∧ (s.ctxOf k x).run = .running ∧
      (s.ctxOf k x).nonStop = 48 ∧ (s.ctxOf k x).attached = [] ∧ bitOf ((s.core k).nextWord x) 63 = false ∧
      (s.core k).settled x = true ∧ TkFits (s.core k)) :=
  ⟨by simp only [tkFits_iff]; decide +kernel,
   by simp only [tkFits_iff]; decide +kernel,
   by decide +kernel,
   by unfold NoReaders; decide +kernel,
   by simp only [tkFits_iff]; decide +kernel⟩

theorem witness_EngineEvents :
    (let k := 3; let id := 21; let e := command 21 .spld 0 4 true; let s := engineDev [e] 100 []; k < 384 ∧
      s.engines k = true ∧ (s.core k).eng? id = some e ∧ e.fin = true ∧ e.fail = none ∧ (s.core k).completesNow e = true ∧
      s.tierClear (s.partOf k) e = true ∧ s.writesDone k id = true ∧ e.op ≠ .tspawn) ∧
    (let k := 3; let id := 21; let e := command 21 .tspawn (5 * 2 ^ 460 + 6 * 2 ^ 466) 4 true; let s := engineDev [e] 100 [];
      k < 384 ∧ s.engines k = true ∧ (s.core k).eng? id = some e ∧ e.fin = true ∧ e.fail = none ∧
      (s.core k).completesNow e = true ∧ s.tierClear (s.partOf k) e = true ∧ s.writesDone k id = true ∧ e.op = .tspawn ∧
      (∀ n, ((s.core k).tk n).count < 65535)) ∧
    (let k := 3; let id := 21; let e := command 21 (.red .addF32) (toCore5 0 6) 2 false; let s := engineDev [e] 100 [];
      let op := RedOp.addF32; let t' := 5; k < 384 ∧ s.engines k = true ∧ (s.core k).eng? id = some e ∧ e.op = .red op ∧
      e.stage = 2 ∧ e.open = true ∧ s.target k e.rcd = .at t' ∧ rcdOffset e.rcd + rcdLen e.rcd ≤ spSize ∧
      (s.core t').meetsWindow (rcdOffset e.rcd) (rcdLen e.rcd) = false ∧
      (s.core t').spLost (rcdOffset e.rcd) (rcdLen e.rcd) = false ∧ ((s.core t').tk (rcdTtk e.rcd)).count < 65535) ∧
    (let k := 3; let id := 21; let e := command 21 .msend (toCore5 1 6) 2 false; let s := engineDev [e] 100 []; let t' := 5;
      let r := { ringS with size := 128 }; k < 384 ∧ s.engines k = true ∧ (s.core k).eng? id = some e ∧ e.op = .msend ∧
      e.stage = 2 ∧ e.open = true ∧ s.firstMessage k e = true ∧ s.target k e.rcd = .at t' ∧
      (s.core t').mq (rcdTmq e.rcd) = some r ∧ rcdLen e.rcd + 64 ≤ r.size ∧ r.slot r.claim = .empty ∧
      ((s.core t').tk (rcdTtk e.rcd)).count < 65535) ∧
    (let k := 3; let id := 21; let e := command 21 (.stn true) (5 * 2 ^ 460 + 6 * 2 ^ 466) 3 false;
      let s := engineDev [e] 100 []; let status := true; k < 384 ∧ s.engines k = true ∧ (s.core k).eng? id = some e ∧
      e.op = .stn status ∧ (e.stage = 2 ∨ e.stage = 3) ∧ (∀ y, y ∈ (s.ctxOf k e.ctx).engq.takeWhile (fun y => y.id != id) →
      ∀ b, y.op = .stn b → 4 ≤ y.stage)) ∧
    (let k := 3; let id := 21; let e := command 21 (.coll 0) collRecord 2 false; let s := groupDev e; let form := 0;
      let rank := 0; k < 384 ∧ s.engines k = true ∧ (s.core k).eng? id = some e ∧ e.op = .coll form ∧ e.stage = 2 ∧
      e.open = true ∧ s.collRank (s.partOf k) (collGroup e.rcd) k = some rank ∧
      s.colls.find? (fun c => c.is (s.partOf k) (collGroup e.rcd) (collNum e.rcd)) = none) ∧
    (let p := 0; let g := 0; let n := 9; let c := coll0; let s := engineDev [] 100000000 [c]; s.boot.safe = false ∧
      s.colls.find? (fun c => c.is p g n) = some c ∧ c.state = 0 ∧ c.got.length < c.n ∧ c.limit ≤ s.now - c.since) ∧
    (let k := 3; let id := 21; let e := command 21 (.coll 3) collRecord 3 false; let s := engineDev [e] 100000000 [];
      let form := 3; k < 384 ∧ s.engines k = true ∧ (s.core k).eng? id = some e ∧ e.op = .coll form ∧ e.stage < 4 ∧
      e.fail = none ∧ 2 * e.limit ≤ s.now - e.aux) :=
  by
  refine ⟨?_,
    (by refine ⟨?_, ?_, ?_, ?_, ?_, ?_, ?_, ?_, ?_, fun _ => by show (0 : Nat) < 65535; decide⟩ <;> decide +kernel),
    ?_,
    ?_,
    ?_,
    (by refine ⟨(by decide), ?_, ?_, ?_, ?_, ?_, rank_of_first _, ?_⟩ <;> decide +kernel),
    ?_,
    ?_⟩ <;> decide +kernel

theorem witness_EngineQueueEvents :
    (let k := 3; let m := tileCommand 21 .tgo 2 0; let s := tileDev [m]; let w := (0x1100000000000000 : Word);
      let mine := (s.core k).fq.take (m.fqEnd - (s.core k).fqOut); let rest := ([] : List FqEntry); let mode := RM.rtz;
      k < 384 ∧ s.engines k = true ∧ (s.core k).headMat = some m ∧ (m.op = .tgo ∨ m.op = .tgoG ∨ m.op = .tgoSp) ∧
      mine = (s.core k).fq.take (m.fqEnd - (s.core k).fqOut) ∧ leadModes mine (s.core k).emode = (mode, .fmt w :: rest) ∧
      m.headTrap w = none ∧ (m.accum = true → ((s.core k).tile m.acc).bad = false) ∧
      ({ m with fw := w, mode := mode, stage := 1 } : MatCmd).atoms ≤ 64) ∧
    (let k := 3; let m := tileCommand 21 .tgo 2 0; let w := (-1 : Word);
      let s := { tileDev [m] with cores := [(3, { (tileDev [m]).core 3 with fq := [.mode .rtz, .fmt w] })] };
      let mine := (s.core k).fq.take (m.fqEnd - (s.core k).fqOut); let rest := ([] : List FqEntry); let mode := RM.rtz;
      let tr := (m.headTrap w).getD { cause := .xlate }; k < 384 ∧ s.engines k = true ∧ (s.core k).headMat = some m ∧
      (m.op = .tgo ∨ m.op = .tgoG ∨ m.op = .tgoSp) ∧ mine = (s.core k).fq.take (m.fqEnd - (s.core k).fqOut) ∧
      leadModes mine (s.core k).emode = (mode, .fmt w :: rest) ∧ m.headTrap w = some tr ∧ TkFits (s.core k)) ∧
    (let k := 3; let m := tileCommand 21 .tgo 2 0;
      let s := { tileDev [m] with cores := [(3, { (tileDev [m]).core 3 with fq := [.mode .rtz] })] };
      let mine := (s.core k).fq.take (m.fqEnd - (s.core k).fqOut); let mode := RM.rtz; k < 384 ∧ s.engines k = true ∧
      (s.core k).headMat = some m ∧ (m.op = .tgo ∨ m.op = .tgoG ∨ m.op = .tgoSp) ∧
      mine = (s.core k).fq.take (m.fqEnd - (s.core k).fqOut) ∧ leadModes mine (s.core k).emode = (mode, []) ∧
      TkFits (s.core k)) ∧
    (let k := 3; let m := tileCommand 21 .accst 2 0; let s := tileDev [m]; k < 384 ∧ s.engines k = true ∧
      (s.core k).headMat = some m ∧ (m.op = .accst ∨ m.op = .accld)) ∧
    (let k := 3; let m := tileCommand 21 .accld 2 0; let s := tileDev [m]; k < 384 ∧ s.engines k = true ∧
      (s.core k).headMat = some m ∧ (m.op = .accst ∨ m.op = .accld)) ∧
    (let k := 3; let m := tileCommand 21 .tgoG 2 1; let s := tileDev [m]; k < 384 ∧ s.engines k = true ∧
      (s.core k).matHold = false ∧ (s.core k).matq.find? (fun m => m.stage == 1 && (!m.asked || m.leave)) = some m ∧
      (m.op = .tgo ∨ m.op = .tgoG ∨ m.op = .tgoSp) ∧
      (s.core k).lostBlock (tgoSpans m.op m.nest m.m m.n m.kk m.groups m.fw) = none ∧ TkFits (s.core k)) ∧
    (let k := 3; let m := tileCommand 21 .accst 2 1; let s := tileDev [m]; k < 384 ∧ s.engines k = true ∧
      (s.core k).matHold = false ∧ (s.core k).matq.find? (fun m => m.stage == 1 && (!m.asked || m.leave)) = some m ∧
      m.op = .accst ∧ TkFits (s.core k)) ∧
    (let k := 3; let id := 21; let m := tileCommand 21 (.accmov 3 true) 2 2; let s := tileDev [m]; k < 384 ∧
      s.engines k = true ∧ (s.core k).matq.find? (fun m => m.id == id && m.stage == 2) = some m ∧
      (s.core k).mayComplete m = true) ∧
    (let k := 3; let id := 31; let m := ladder0; let s := dev 0 .L fun c => { c with ladq := [m] }; k < 384 ∧
      s.engines k = true ∧ (s.core k).ladq.find? (fun m => m.id == id) = some m ∧ m.fail = none ∧ m.stage = 8 ∧
      TkFits (s.core k)) :=
  by
  refine ⟨?_,
    by simp only [tkFits_iff]; decide +kernel,
    by simp only [tkFits_iff]; decide +kernel,
    ?_,
    ?_,
    by simp only [tkFits_iff]; decide +kernel,
    by simp only [tkFits_iff]; decide +kernel,
    ?_,
    by simp only [tkFits_iff]; decide +kernel⟩ <;> decide +kernel

theorem witness_TranslationEvents :
    (let k := 3; let va := 0x10000; let s := paging 60; let p := 0; let w := (0x80000F : Word); let block := false;
      let n := (⟨0, false, false, 1, w⟩ : TlbEntry); k < 384 ∧ s.hbmServed = true ∧ (s.core k).status ≠ .free ∧
      p = s.partOf k ∧ (s.part p).inWindow va = false ∧ s.walkOn (dieOf k) p va = .leaf w block ∧ leafMig w = false ∧
      n = ⟨p, false, block, va / (if block then 2 ^ 34 else 2 ^ 16), w⟩) ∧
    (let k := 3; let va := 0x8001000003123; let p := 0; let s := berths (dev 0 .L mapped);
      let s := { s with slotTab := [(0, 0x85)] }; let n := (s.windowEntry p va).getD ⟨9, false, false, 0, 0⟩; k < 384 ∧
      s.hbmServed = true ∧ (s.core k).status ≠ .free ∧ p = s.partOf k ∧ (s.part p).inWindow va = true ∧
      s.windowEntry p va = some n) ∧
    (let k := 3; let id := 9; let mapped := true; let s := paging 60; let h := (⟨3, 0x70000, false, none⟩ : Halt); k < 384 ∧
      (s.ctxOf k .L).accHalt = some h ∧ h.failed = none ∧ (mapped = true ∨ s.walksNow k h.va = true)) ∧
    (let k := 3; let id := 9; let mapped := true; let s := paging 60; let h := (⟨3, 0x70000, false, none⟩ : Halt); k < 384 ∧
      (s.ctxOf k .S).accHalt = some h ∧ h.failed = none ∧ (mapped = true ∨ s.walksNow k h.va = true)) ∧
    (let k := 3; let id := 9; let s := paging 60; let h := (⟨3, 0x70000, false, none⟩ : Halt);
      let a := (⟨3, 3, 5, .load 3 8, 0x70000⟩ : Access); k < 384 ∧ (s.ctxOf k .L).accHalt = some h ∧ h.failed = none ∧
      s.walksNow k h.va = false ∧ (s.ctxOf k .L).accq.find? (fun a => a.wid == h.wid) = some a) ∧
    (let k := 3; let who := 4; let id := 43; let mapped := false; let s := paging 60;
      let e := ((s.core k).eng? id).getD (command 0 .spld 0 0 false); let h := (⟨0, 0x20000, false, none⟩ : Halt); k < 384 ∧
      (who = 2 ∨ who = 3 ∨ who = 4) ∧ (s.core k).eng? id = some e ∧ e.halt = some h) :=
  by
  refine ⟨?_,
    ?_,
    ?_,
    ?_,
    ?_,
    ?_⟩ <;> decide +kernel

theorem witness_PageEvents :
    (let part := 0; let va := 0x10005; let dest := 0; let addr := 0x860000; let s := paging 60;
      let h := PageAt.leaf 0x400008 (0x80000F : Word); s.boot.safe = false ∧ dest < 3 ∧
      s.mayMove part (va / 2 ^ 16) dest addr = true ∧ s.movable part (va / 2 ^ 16 * 2 ^ 16) = some h ∧ ((h.loc.space = 0 ∧
      dest = 0) ∨ s.ports ≠ [])) ∧
    (let part := 0; let va := 0x8001000003123; let dest := 2; let addr := 0x70000; let s := berths (dev 0 .L mapped);
      let h := (s.movable part (va / 2 ^ 16 * 2 ^ 16)).getD (.berth ⟨0, 0⟩); s.boot.safe = false ∧ dest < 3 ∧
      s.mayMove part (va / 2 ^ 16) dest addr = true ∧ s.movable part (va / 2 ^ 16 * 2 ^ 16) = some h ∧ ((h.loc.space = 0 ∧
      dest = 0) ∨ s.ports ≠ [])) ∧
    (let k := 3; let x := Ctx.L; let id := 42; let s := paging 60;
      let e := ((s.core k).eng? id).getD (command 0 .spld 0 0 false); let pa := 0x860000;
      let h := PageAt.leaf 0x400010 0x81001F; k < 384 ∧ s.engines k = true ∧
      (s.core k).ferry.find? (fun e => e.id == id && e.op == .ferryTier && e.stage == 2 && e.open) = some e ∧
      s.ferryServed (s.partOf k) = true ∧ s.hbmServed = true ∧ s.ports ≠ [] ∧ pa % 2 ^ 16 = 0 ∧ hbmOk pa = true ∧
      s.movable (s.partOf k) e.tierPage = some h ∧ h.loc.space = 2 ∧ s.lost 2 h.loc.addr 65536 = false) ∧
    (let k := 3; let x := Ctx.L; let id := 42; let s := paging 60;
      let e := ((s.core k).eng? id).getD (command 0 .spld 0 0 false); let h := PageAt.leaf 0x400010 0x81001F; k < 384 ∧
      s.engines k = true ∧ (s.core k).ferry.find? (fun e => e.id == id && e.op == .ferryTier && e.stage == 2 && e.open) = some e ∧ s.ferryServed (s.partOf k) = true ∧ s.hbmServed = true ∧ s.ports ≠ [] ∧ s.movable (s.partOf k) e.tierPage = some h ∧ h.loc.space = 2) ∧
    (let k := 3; let x := Ctx.L; let id := 42; let page := (none : Option Nat); let s := { paging 60 with slotTab := [] };
      k < 384 ∧ s.engines k = true ∧ (s.ferryServed (s.partOf k) = false ∨ s.hbmServed = false)) ∧
    (let part := 0; let va := 0x50000; let s := paging 2500050; let h := (⟨0, 5, false, 50⟩ : HoldWin); s.boot.safe = false ∧
      s.holdOf part (va / 2 ^ 16) = some h ∧ 2500000 ≤ s.now - h.since) ∧
    (let part := 0; let va := 0x50000; let s := paging 2500049; let h := (⟨0, 5, false, 50⟩ : HoldWin);
      s.holdOf part (va / 2 ^ 16) = some h ∧ s.now - h.since < 2500000) ∧
    (let mva := 0x10000; let dir := true; let part := 16; let s := paging 60; let mv := (0x10000 : Word);
      let ct := (0x100 : Word); s.boot.safe = false ∧ s.mbox.res ≠ 0 ∧ s.holdOf (part % 16) (mva / 2 ^ 16 % 2 ^ 36) = none ∧
      s.devMig.contains (part % 16, mva / 2 ^ 16 % 2 ^ 36) = false ∧ mv = w64 (mva / 2 ^ 16 % 2 ^ 36 * 2 ^ 16) ∧
      ct = w64 (b2n dir * 2 ^ 8 + part % 16)) ∧
    (let mva := 0x10000; let dir := true; let part := 0; let s := { paging 60 with mbox := ⟨0, 0, 0, 0, 0⟩ };
      s.boot.safe = false ∧ s.mbox.res = 0) :=
  by
  refine ⟨?_,
    ?_,
    ?_,
    ?_,
    ?_,
    ?_,
    ?_,
    ?_,
    ?_⟩ <;> decide +kernel

theorem witness_ReservationEvents :
    (let part := 0; let s := waiting1 false; let u := (s.handAll part).placeHeld part;
      let tk := (u.candidate part).getD task1; let ks := (u.targetOf tk).getD [];
      u = ((s.handAll part).placeHeld part).markCrowded ∧ u.boot.ready = true ∧ (u.part part).hold = false ∧
      u.candidate part = some tk ∧ u.targetOf tk = some ks ∧ u.turnOf tk = true) ∧
    (let part := 0; let s := waiting1 true; let u := (s.handAll part).placeHeld part;
      u = ((s.handAll part).placeHeld part).markCrowded ∧ (u.boot.ready = false ∨ (u.part part).hold = true)) ∧
    (let q := 1; let k := 3; let s := reserving2 1 [3] [] []; let u := s.handOver k; let tk := (u.task? q).getD task1;
      k < 384 ∧ u = s.handOver k ∧ u.task? q = some tk ∧ tk.st = .reserving ∧ tk.reqs.contains k = true ∧
      (u.core k).status = .free ∧ u.owns tk.part k = true ∧ u.reserver k = none) ∧
    (let q := 1; let k := 3; let s := reserving2 1 [3] [3] []; let u := s.handOver k; let tk := (u.task? q).getD task1;
      let v := (u.reserver k).getD task1; k < 384 ∧ u = s.handOver k ∧ u.task? q = some tk ∧ tk.st = .reserving ∧
      tk.reqs.contains k = true ∧ (u.core k).status = .free ∧ u.owns tk.part k = true ∧ u.reserver k = some v ∧
      tk.before v = true ∧ v.seq ≠ tk.seq) ∧
    (let q := 1; let k := 3; let s := reserving2 9 [3] [3] []; let u := s.handOver k; let tk := (u.task? q).getD task1;
      k < 384 ∧ u = s.handOver k ∧ u.task? q = some tk ∧ tk.st = .reserving ∧ tk.reqs.contains k = true ∧
      (∃ v, u.reserver k = some v ∧ tk.before v = false)) ∧
    (let q := 1; let k := 3; let s := reserving2 1 [3] [] [(3, ofTask 9 0 .active)]; let u := s.handOver k;
      let tk := (u.task? q).getD task1; k < 384 ∧ u = s.handOver k ∧ u.task? q = some tk ∧ tk.st = .reserving ∧
      tk.reqs.contains k = true ∧ (u.core k).status ≠ .free) ∧
    (let k := 3; let s := reserving2 1 [] [] []; let tk := (earliest (s.allTasks.filter fun t => t.waitsFor k)).getD task1;
      k < 384 ∧ (s.core k).status = .free ∧ s.reserver k = none ∧
      earliest (s.allTasks.filter fun t => t.waitsFor k && s.owns t.part k) = some tk) :=
  by
  refine ⟨?_,
    ?_,
    ?_,
    ?_,
    (by refine ⟨?_, ?_, ?_, ?_, ?_, _, rfl, ?_⟩ <;> decide +kernel),
    ?_,
    ?_⟩ <;> decide +kernel

theorem witness_StartEvents :
    (let q := 1; let s := ragged2 40; let tk := (s.task? q).getD task1; let lv := ((hdrRagged tk.hdr).getD (9, 9)).1;
      let e := ((hdrRagged tk.hdr).getD (9, 9)).2; let k := (s.coresOf tk.seq).headD sequencer;
      let r := s.readIn k tk.part (tk.acc false) (tk.args.toNat + hdrGoff tk.hdr) (4 * hdrGroups tk.hdr);
      let bs := gotBytes r; let n := gotNotes r; let body := (bodyReads s k tk).flatMap gotBytes; TasksByNumber s ∧
      s.task? q = some tk ∧ tk.st = .placed ∧ tk.ragged = false ∧ hdrRagged tk.hdr = some (lv, e) ∧
      s.readIn ((s.coresOf tk.seq).headD sequencer) tk.part (tk.acc false) (tk.args.toNat + hdrGoff tk.hdr) (4 * hdrGroups tk.hdr) = .ok bs n ∧ ((words32 bs).any fun v => decide (65535 < ceilDiv v (hdrChunk tk.hdr))) = false ∧ (((distribute e (hdrChunk tk.hdr) (words32 bs)).map chunkBytes).any fun l => listBad tk.hdr (bodyRecords tk.hdr body) l.length) = false ∧ ∃ m, s.imageBody k tk = .ok body m) ∧
    (let q := 1; let s := ragged2 0xFFFFFFFF; let tk := (s.task? q).getD task1; let lv := ((hdrRagged tk.hdr).getD (9, 9)).1;
      let e := ((hdrRagged tk.hdr).getD (9, 9)).2; let k := (s.coresOf tk.seq).headD sequencer;
      let r := s.readIn k tk.part (tk.acc false) (tk.args.toNat + hdrGoff tk.hdr) (4 * hdrGroups tk.hdr);
      let bs := gotBytes r; let n := gotNotes r; let body := (bodyReads s k tk).flatMap gotBytes; TasksByNumber s ∧
      s.task? q = some tk ∧ tk.st = .placed ∧ tk.ragged = false ∧ hdrRagged tk.hdr = some (lv, e) ∧
      s.readIn ((s.coresOf tk.seq).headD sequencer) tk.part (tk.acc false) (tk.args.toNat + hdrGoff tk.hdr) (4 * hdrGroups tk.hdr) = .ok bs n ∧ ((words32 bs).any fun v => decide (65535 < ceilDiv v (hdrChunk tk.hdr))) = true ∧ s.wordReady tk = true ∧ ∃ m, s.imageBody k tk = .ok body m) ∧
    (let k := 2; let s := placed2 []; let tk := (s.taskOf k).getD task1; k < 384 ∧ s.boot.ready = true ∧
      s.taskOf k = some tk ∧ (s.core k).status = .placed ∧ tk.st = .placed ∧ tk.ragged = true ∧
      s.gated.contains (quadOf k) = false ∧ tk.left.contains (s.core k).rank = false ∧
      Sparse.find tk.saved (s.core k).rank = none ∧ (s.core k).msgs = [] ∧ (s.core k).halted = false ∧
      ∃ body n, s.imageBody k tk = .ok body n) ∧
    (let k := 2; let s := placed2 [(0, ofTask 1 0 .active)]; let tk := (s.taskOf k).getD task1; let d := ofTask 1 0 .active;
      let base := Sparse.get 0 tk.areas 0; k < 384 ∧ s.boot.ready = true ∧ s.taskOf k = some tk ∧
      (s.core k).status = .placed ∧ tk.st = .placed ∧ tk.ragged = true ∧ s.gated.contains (quadOf k) = false ∧
      tk.left.contains (s.core k).rank = false ∧ Sparse.find tk.saved (s.core k).rank = some d ∧
      base = Sparse.get 0 tk.areas (s.core k).rank ∧ (s.core k).msgs = [] ∧ s.ferryServed tk.part = true ∧ s.hbmServed = true) ∧
    (let k := 2; let s := { placed2 [] with boot := Boot.reset }; k < 384 ∧ s.boot.ready = false) :=
  ⟨(by refine ⟨(by unfold TasksByNumber; decide +kernel), ?_, ?_, ?_, ?_, ?_, ?_, ?_,
      imageBody_ok (by decide +kernel)⟩ <;> decide +kernel),
   (by refine ⟨(by unfold TasksByNumber; decide +kernel), ?_, ?_, ?_, ?_, ?_, ?_, ?_,
      imageBody_ok (by decide +kernel)⟩ <;> decide +kernel),
   (by refine ⟨?_, ?_, ?_, ?_, ?_, ?_, ?_, ?_, ?_, ?_, ?_, _, imageBody_ok (by decide +kernel)⟩ <;> decide +kernel),
   by decide +kernel,
   by decide +kernel⟩

theorem witness_EndEvents :
    (let k := 3; let s := draining1; let tk := task1; k < 384 ∧ s.taskOf k = some tk ∧ TasksByNumber s ∧
      (s.core k).status = .draining ∧ (s.core k).untrapped = true ∧ s.engines k = true ∧ (s.core k).faulty = none ∧
      s.drained k = true) ∧
    (let part := 0; let s := scheduling false [pairTask 1 1 .done false] []; let tk := pairTask 1 1 .done false;
      s.front part = some tk ∧ TasksByNumber s ∧ tk.st = .done ∧ (s.lostLines tk = false ∨ tk.failed = true) ∧
      s.canFlush tk = true ∧ s.wordReady tk = true ∧ s.released tk = true) :=
  ⟨by unfold TasksByNumber; decide +kernel,
   by unfold TasksByNumber; decide +kernel⟩

theorem witness_StuckAndResumedTasks :
    (let k := 3; let s := deadlock0; k < 384 ∧ (s.core k).status = .active ∧ (s.core k).deadlocked = true ∧
      (s.core k).mustStop = false ∧ (s.core k).landedAll = true ∧ s.coreQuiet k = true ∧ 2 ^ 20 ≤ (s.core k).still ∧
      s.isSpec k = false ∧ NoReaders s) ∧
    (let k := 3; let s := specDev deadlock0; let tk := { task1 with spec := true, prov := true }; k < 384 ∧
      (s.core k).status = .active ∧ (s.core k).deadlocked = true ∧ (s.core k).mustStop = false ∧ (s.core k).landedAll = true ∧
      s.coreQuiet k = true ∧ 2 ^ 20 ≤ (s.core k).still ∧ s.taskOf k = some tk ∧ tk.spec = true) ∧
    (let k := 3; let s := dev 0 .L id; k < 384 ∧
      ((s.core k).status ≠ .active ∨ (s.core k).deadlocked = false ∨ (s.core k).landedAll = false ∨ s.coreQuiet k = false ∨ (s.core k).still < 2 ^ 20)) ∧
    (let k := 3; let x := Ctx.L; let x56 := (8 : Word); let x57 := (9 : Word); let r := faultOf .xlate 0;
      let s := trappedL id r; k < 384 ∧ (s.ctxOf k x).run = .trapped r ∧ r.cause ≠ .deadlk ∧ r.cause ≠ .sysc ∧
      (s.ctxOf k x).frame = none) ∧
    (let k := 3; let x := Ctx.L; let x56 := (8 : Word); let x57 := (9 : Word); let r := faultOf .xlate 0;
      let s := trappedL (fun c => { c with cL := { c.cL with frame := some frame0 } }) r; k < 384 ∧
      (s.ctxOf k x).run = .trapped r ∧ r.cause ≠ .deadlk ∧ r.cause ≠ .sysc ∧ (s.ctxOf k x).frame ≠ none) ∧
    (let k := 3; let x := Ctx.L; let x56 := (8 : Word); let x57 := (9 : Word); let r := faultOf .sysc 5;
      let s := trappedL id r; k < 384 ∧ (s.ctxOf k x).run = .trapped r ∧ r.cause = .sysc ∧ r.info ≠ 0) ∧
    (let k := 3; let x := Ctx.L; let x56 := (8 : Word); let x57 := (9 : Word); let r := faultOf .sysc 0;
      let s := trappedL (fun c => { c with cL := { c.cL with frame := some frame0 } }) r; let f := frame0; k < 384 ∧
      (s.ctxOf k x).run = .trapped r ∧ r.cause = .sysc ∧ r.info = 0 ∧ (s.ctxOf k x).frame = some f) ∧
    (let k := 3; let x := Ctx.L; let x56 := (8 : Word); let x57 := (9 : Word); let r := faultOf .sysc 0;
      let s := trappedL id r; k < 384 ∧ (s.ctxOf k x).run = .trapped r ∧ r.cause = .sysc ∧ r.info = 0 ∧
      (s.ctxOf k x).frame = none ∧ NoReaders s) ∧
    (let k := 3; let x := Ctx.L; let x56 := (8 : Word); let x57 := (9 : Word); let r := faultOf .deadlk 7;
      let s := trappedL id r; k < 384 ∧ (s.ctxOf k x).run = .trapped r ∧ r.cause = .deadlk) :=
  by
  refine ⟨by unfold NoReaders; decide +kernel,
    ?_,
    ?_,
    ?_,
    ?_,
    ?_,
    ?_,
    by unfold NoReaders; decide +kernel,
    ?_⟩ <;> decide +kernel

theorem witness_ReflectAndEnd :
    (let k := 3; let x := Ctx.L; let r := faultOf .xlate 0; let s := trappedL (fun c => { c with hfl := 0x8005 }) r;
      let h := (s.core k).handler x r.cause; k < 384 ∧ (s.ctxOf k x).run = .trapped r ∧ h = (s.core k).handler x r.cause ∧
      r.cause.reflectable = true ∧ (s.ctxOf k x).frame = none ∧ (s.ctxOf k x).ended = false ∧ (s.core k).status = .active ∧
      h / 2 ^ 15 = 1) ∧
    (let q := 1; let s := trappedL id (faultOf .xlate 0); let tk := task1; s.task? q = some tk ∧ tk.st = .running ∧
      s.trapped q = true) ∧
    (let q := 1; let s := dev 0 .L id; let tk := task1; s.task? q = some tk ∧ (tk.st ≠ .running ∨ s.trapped q = false)) :=
  by
  refine ⟨?_,
    ?_,
    ?_⟩ <;> decide +kernel

theorem witness_SaveAndScrub :
    (let q := 1; let area := 0x400000; let s := saving false; let tk := task1; s.task? q = some tk ∧ TasksByNumber s ∧
      NoReaders s ∧ tk.st = .running ∧ tk.spec = false ∧ (s.coresOf q).any (fun k => (s.core k).preReq) = true ∧
      (∀ k, k ∈ s.coresOf q → s.saveReady k = true) ∧ s.ferryServed tk.part = true ∧ s.hbmServed = true ∧
      (∀ k, k ∈ s.coresOf q → areaOk (tk.areaOf area (s.core k).rank) = true)) ∧
    (let q := 1; let area := 0x400000; let k := 3; let s := saving false; let tk := task1; s.task? q = some tk ∧ NoReaders s ∧
      tk.st = .running ∧ tk.spec = false ∧ s.coresOf q = [k] ∧ (s.core k).preReq = true ∧ s.saveReady k = true ∧
      s.ferryServed tk.part = true ∧ s.hbmServed = true ∧ areaOk (tk.areaOf area (s.core k).rank) = true ∧
      field ((s.part (s.partOf k)).reg 11) 16 30 = 0) ∧
    (let q := 1; let area := 0x400000; let s := saving true; let tk := { task1 with spec := true, prov := true };
      s.task? q = some tk ∧ tk.st = .running ∧ tk.spec = true ∧ (s.coresOf q).any (fun k => (s.core k).preReq) = true) ∧
    (let part := 17; let kind := 2; let addr := 0x1000; let s := dev 0 .L id;
      let base := field ((s.part (part % 16)).reg 11) 16 30 * 2 ^ 16;
      let n := (s.part (part % 16)).flogp.toNat % (2 ^ field ((s.part (part % 16)).reg 11) 0 4 * 1024); s.boot.safe = false ∧
      base = field ((s.part (part % 16)).reg 11) 16 30 * 2 ^ 16 ∧
      n = (s.part (part % 16)).flogp.toNat % (2 ^ field ((s.part (part % 16)).reg 11) 0 4 * 1024)) :=
  ⟨by unfold NoReaders TasksByNumber; decide +kernel,
   by unfold NoReaders; decide +kernel,
   by decide +kernel,
   by decide +kernel⟩

theorem witness_RegisterWrites :
    (let p := 15; let v := (2048 : Word); let s := dev 0 .L id; p < 16) ∧
    (let p := 15; let v := (0 : Word); let s := dev 0 .L id; p < 16) ∧
    (let p := 15; let v := (65536 : Word); let s := dev 0 .L id; p < 16) ∧
    (let p := 15; let v := (64 : Word); let s := dev 0 .L id; p < 16) ∧
    (let p := 0; let v := (0x100001 : Word); let s := dev 0 .L id; p < 16 ∧ specialOk 0x8010 v = some true ∧
      bitOf v 0 = true ∧ (s.part p).waiting = []) ∧
    (let p := 1; let v := (2 : Word); let s := { dev 0 .L id with parts := [(1, { Part.reset with waiting := [⟨task1, 3, .L,
      21⟩] })] }; p < 16 ∧ specialOk 0x8010 v = some true ∧ bitOf v 0 = false ∧ bitOf v 1 = true) ∧
    (let p := 15; let hold := true; let s := dev 0 .L id; p < 16) ∧
    (let p := 0; let s := dev 0 .L id; let tk := task1; p < 16 ∧ s.front p = some tk ∧ tk.st = .running) ∧
    (let p := 1; let s := dev 0 .L id; p < 16 ∧ ∀ tk, s.front p = some tk → tk.st ≠ .running) ∧
    (let off := 0x30000; let v := (0 : Word); let s := { dev 0 .L id with boot := { Boot.reset with safe := true } };
      s.boot.safe = true) ∧
    (let q := 31; let v := (0 : Word); let s := dev 0 .L id; s.boot.safe = false ∧ q < 32) ∧
    (let v := (0 : Word); let s := dev 0 .L id; s.boot.safe = false) ∧
    (let v := (0x80000107 : Word); let s := { dev 0 .L id with mbox := ⟨0, 0, 0, 0, 0⟩ }; s.boot.safe = false ∧
      s.mbox.res = 0) ∧
    (let n := 31; let v := (0 : Word); let s := dev 0 .L id; s.boot.safe = false ∧ n < 32) ∧
    (let p := 15; let sel := 31; let v := (0 : Word); let s := dev 0 .L id; s.boot.safe = false ∧ p < 16 ∧ sel < 32) ∧
    (let n := 63; let v := (0 : Word); let s := dev 0 .L id; s.boot.safe = false ∧ n < 64 ∧ slotBad (v.setWidth 16) = false) ∧
    (let n := 31; let v := (0 : Word); let s := dev 0 .L id; s.boot.safe = false ∧ n < 32) :=
  by
  refine ⟨?_,
    ?_,
    ?_,
    ?_,
    ?_,
    ?_,
    ?_,
    ?_,
    ⟨by decide, fun tk h => absurd h (by rw [show (dev 0 .L id).front 1 = none by decide +kernel]; exact nofun)⟩,
    ?_,
    ?_,
    ?_,
    ?_,
    ?_,
    ?_,
    ?_,
    ?_⟩ <;> decide +kernel

theorem witness_LaunchQueueEvents :
    (let q := 31; let v := w64 (2 ^ 63 + 4 * 2 ^ 8 + 4); let s := launching 0 0 0; q < 32 ∧ s.boot.safe = false ∧
      bitOf v 63 = true ∧ (s.queue? q).state = 0 ∧ ∃ t, exec (.queueEnable q v) s = .next t) ∧
    (let q := 31; let v := (0 : Word); let s := launching 0 0 0; q < 32 ∧ s.boot.safe = false) ∧
    (let q := 2; let tail := (20 : BitVec 32); let s := launching 0 0 0; q < 32 ∧ s.boot.safe = false ∧
      (tail - (s.queue? q).lhead).toNat ≤ 2 ^ (s.queue? q).esz) ∧
    (let q := 2; let tail := (21 : BitVec 32); let s := launching 0 0 0; q < 32 ∧ s.boot.safe = false ∧
      2 ^ (s.queue? q).esz < (tail - (s.queue? q).lhead).toNat) ∧
    (let q := 2; let s := launching 0x1000 0 63; let b := s.queue? q; q < 32 ∧ s.fetches q = true ∧ b = s.queue? q ∧
      s.host.num (b.entryAt b.lhead.toNat + 0x38) 8 / 2 ^ 63 ≠ b.phase b.lhead.toNat ∧ b.tries + 1 < 65) ∧
    (let q := 2; let s := launching 0x1000 0 64; let b := s.queue? q; q < 32 ∧ s.fetches q = true ∧ b = s.queue? q ∧
      s.host.num (b.entryAt b.lhead.toNat + 0x38) 8 / 2 ^ 63 ≠ b.phase b.lhead.toNat ∧ 65 ≤ b.tries + 1) ∧
    (let q := 2; let s := launching 0x1003 1 0; let b := s.queue? q; let e := s.host.bytes (b.entryAt b.lhead.toNat) 64;
      q < 32 ∧ s.fetches q = true ∧ b = s.queue? q ∧
      s.host.num (b.entryAt b.lhead.toNat + 0x38) 8 / 2 ^ 63 = b.phase b.lhead.toNat ∧
      e = s.host.bytes (b.entryAt b.lhead.toNat) 64 ∧ word64 e 0 % 64 ≠ 0) ∧
    (let q := 2; let s := launching 0x1000 1 0; let b := s.queue? q; let e := s.host.bytes (b.entryAt b.lhead.toNat) 64;
      (q < 32 ∧ s.fetches q = true ∧ b = s.queue? q ∧
      s.host.num (b.entryAt b.lhead.toNat + 0x38) 8 / 2 ^ 63 = b.phase b.lhead.toNat ∧
      e = s.host.bytes (b.entryAt b.lhead.toNat) 64 ∧ word64 e 0 % 64 = 0 ∧ word64 e 7 / 2 % 4 ≤ b.maxlvl ∧
      word64 e 7 / 2 % 4 ≠ 3 ∧ s.tsPast b.partition (word64 e 2) = false ∧ NoReaders s ∧ (∀ u, u ∈ s.allTasks →
      u.seq < s.nextSeq) ∧ s.tasks.length < 8192) ∧ ∃ (h : Hdr) (n : List ReadEnt),
      s.image sequencer b.partition ⟨false, word64 e 7 / 2 % 4 == 0⟩ (word64 e 0) = .ok h n ∧
      (s.part b.partition).hasRoom (4 * b.partition + hdrPrio h) = true) :=
  by
  refine ⟨(by refine ⟨?_, ?_, ?_, ?_, exists_exec (by decide +kernel)⟩ <;> decide +kernel),
    ?_,
    ?_,
    ?_,
    ?_,
    ?_,
    ?_,
    ⟨by unfold NoReaders; decide +kernel, exists_image (by decide +kernel)⟩⟩ <;> decide +kernel

theorem witness_PowerAndLinkEvents :
    (let bank := 383; let s := { dev 0 .L id with windows := [(383, 5)] }; bank < 384 ∧ Sparse.find s.refresh bank = none ∧
      s.nextWindow bank ≤ s.now) ∧
    (let bank := 383; let s := { dev 0 .L id with windows := [(383, 101)] }; s.now < s.nextWindow bank) ∧
    (let island := 5; let r := (⟨3, 0, 1, none⟩ : LeaveReq); let rest := ([r] : List LeaveReq);
      let s := { dev 0 .L id with gov := [(5, r :: rest)] }; Sparse.get [] s.gov island = r :: rest ∧ r.op = none) ∧
    (let island := 5; let r := (⟨3, 0, 1, some 31⟩ : LeaveReq); let rest := ([] : List LeaveReq); let id := 31;
      let s := { dev 0 .L fun c => c with gov := [(5, r :: rest)] }; Sparse.get [] s.gov island = r :: rest ∧ r.op = some id) ∧
    (let l := 17; let s := State.reset; l < 18 ∧ s.boot.safe = false) ∧
    (let l := 17; let st := 2; let peer := 5; let s := State.reset; l < 18 ∧ st < 3 ∧ s.boot.safe = false) ∧
    (let l := 17; let st := 2; let peer := 5; let s := { State.reset with boot := { Boot.reset with safe := true } };
      s.boot.safe = true) ∧
    (let port := 1; let up := false; let s := State.reset; port < 2) ∧
    (let island := 23; let s := dev 0 .L id; island < 24 ∧ (∀ k, k < 384 → quadOf k = island → (s.core k).status = .free)) ∧
    (let island := 23; let s := dev 0 .L id; island < 24) :=
  by
  refine ⟨?_,
    ?_,
    ?_,
    ?_,
    ?_,
    ?_,
    ?_,
    ?_,
    ?_,
    ?_⟩ <;> decide +kernel

theorem witness_DeviceStarts :
    (let s := dev 0 .L id; s.boot.safe = false) ∧
    (let s := { dev 0 .L id with boot := { Boot.reset with safe := true } }; s.boot.safe = true) :=
  ⟨by decide +kernel,
   by decide +kernel⟩

theorem witness_AgentsWriteMemory :
    (let pa := 0x10001; let data := ([1, 2] : List Byte); let s := dev 0 .L id; let i := Instr.hostDeviceWrite pa data;
      (i = .hostDeviceWrite pa data ∨ i = .landingProcessorWrite pa data) ∧ s.boot.safe = false ∧ data ≠ [] ∧
      hbmOk pa = true ∧ hbmOk (pa + data.length - 1) = true ∧ pa / 2 ^ 37 = (pa + data.length - 1) / 2 ^ 37) ∧
    (let pa := 2 ^ 52; let data := ([1, 2] : List Byte); let s := dev 0 .L id; let i := Instr.landingProcessorWrite pa data;
      (i = .hostDeviceWrite pa data ∨ i = .landingProcessorWrite pa data) ∧ s.boot.safe = false ∧ hbmOk pa = false) ∧
    (let p := 1; let off := 0x40; let data := (List.replicate 128 7 : List Byte);
      let s := { dev 0 .L id with slotTab := [(0, 0x85)], parts := [(1, { Part.reset with regs := [(9, 0x4000000), (24,
      3)] })] }; s.boot.safe = false ∧ p < 16 ∧ off < 2 ^ 56 ∧ off % 64 = 0 ∧ data.length % 64 = 0 ∧ data ≠ [] ∧
      data.length ≤ 2 ^ 30 ∧ s.quiet p 0 = true ∧ (∀ b, b ∈ banksOf off data.length → (s.part p).hasBank b = true ∧
      s.portOpen ⟨3, b * 2 ^ 24⟩ = true) ∧ NoReaders s) :=
  ⟨by decide +kernel,
   by decide +kernel,
   by unfold NoReaders; decide +kernel⟩

theorem witness_AbortsDiscard :
    (let q := 1; let s := specDev (dev 0 .L id); let tk := ({ task1 with spec := true, prov := true } : Task);
      TasksByNumber s ∧ s.task? q = some tk ∧ q ≠ 0) :=
  by unfold TasksByNumber; decide +kernel

theorem witness_StepRunsDecoded :
    (let s := issuing 0; s.turn = .issue ∧ s.me.run = .running ∧
      ∃ i, decode (BitVec.ofNat 64 (bytesToNat (s.cur.sp.bytes (s.me.wbase + 8 * s.me.pc) 8))) = .ok i ∧
      ∃ t, exec i s = .next t) ∧
    (let s := issuingX 0x0000020461000000 0x0000800000000000; s.turn = .issue ∧ s.me.run = .running ∧
      ∃ i, decode (BitVec.ofNat 64 (bytesToNat (s.cur.sp.bytes (s.me.wbase + 8 * s.me.pc) 8))) = .ok i ∧
      ∃ t j u v, exec i s = .next t ∧ t.second? = some j ∧ exec j (s.beside t) = .next u ∧ exec j t = .next v ∧
      u.heldBack = .go ∧ v.me.pair = none) ∧
    (let s := issuingX 0x0000020461000000 0x0140000000000000; s.turn = .issue ∧ s.me.run = .running ∧
      ∃ i, decode (BitVec.ofNat 64 (bytesToNat (s.cur.sp.bytes (s.me.wbase + 8 * s.me.pc) 8))) = .ok i ∧
      ∃ t j u v, exec i s = .next t ∧ t.second? = some j ∧ exec j (s.beside t) = .next u ∧ exec j t = .next v ∧
      u.heldBack = .starve) ∧
    (let s := issuing (-1); s.turn = .issue ∧ s.me.run = .running ∧ (s.me.nonStop ≠ 48 ∨ bitOf s.wordAtPc 63 = true) ∧
      (s.atCycle (s.me.icycle + 1)).me.attached = [] ∧ (s.cur.mustStop = false ∨ (s.me.blocked = false ∧ s.me.forced = false ∧
      bitOf s.wordAtPc 63 = false)) ∧ ∃ e,
      decode (BitVec.ofNat 64 (bytesToNat (s.cur.sp.bytes (s.me.wbase + 8 * s.me.pc) 8))) = .error e) ∧
    (let i := Instr.linkFlitRetry 3; let s := turned (.event i); s.turn = .event i ∧ opcodeOf i = none ∧
      ∃ t, exec i s = .next t) ∧
    (let i := Instr.coreRelease 384; let s := turned (.event i); let f := Fault.noSuchCore; s.turn = .event i ∧
      opcodeOf i = none ∧ exec i s = .fault f) ∧
    (let a := Inner.bootStage 0; let s := turned (.inner a); s.turn = .inner a) :=
  ⟨(by refine ⟨?_, ?_, Instr.nop Ctl.none, ?_, exists_exec (by decide +kernel)⟩ <;> decide +kernel),
   ⟨by decide +kernel, by decide +kernel, _, rfl, exists_pair (by decide +kernel)⟩,
   ⟨by decide +kernel, by decide +kernel, _, rfl, exists_pair (by decide +kernel)⟩,
   (by refine ⟨?_, ?_, ?_, ?_, ?_, .allOnes, ?_⟩ <;> decide +kernel),
   ⟨by decide +kernel, by decide +kernel, exists_exec (by decide +kernel)⟩,
   ⟨by decide +kernel, by decide +kernel, rfl⟩,
   by decide +kernel⟩

theorem witness_StepStopsOnlyAtNoCore :
    (let i := Instr.coreRelease 384; let s := State.reset; let k := 384; eventCore i = some k ∧ 384 ≤ k) :=
  by decide +kernel

theorem witness_OnlyMonitorsWritePartitions :
    (let i := Instr.nop Ctl.none; let s := issuing 0; (opcodeOf i).isSome = true ∧ (∀ c xa xb sel, i = .partw c xa xb sel →
      s.me.level < 2) ∧ ∃ t, exec i s = .next t) ∧
    (let i := Instr.partw Ctl.none 1 2 3; let s := dev 1 .S id; (opcodeOf i).isSome = true ∧
      (∀ c xa xb sel, i = .partw c xa xb sel → s.me.level < 2) ∧ ∃ t, exec i s = .next t) :=
  ⟨⟨by decide +kernel, nofun, exists_exec (by decide +kernel)⟩,
   ⟨by decide +kernel, fun _ _ _ _ _ => by decide +kernel, exists_exec (by decide +kernel)⟩⟩

theorem witness_RoundTrip :
    (let i := Instr.add full 1 2 3; i.wf = true ∧ (opcodeOf i).isSome = true) ∧
    (let i := Instr.linkFlitRetry 3; i.wf = true ∧ (opcodeOf i).isSome = false) :=
  ⟨by decide +kernel,
   by decide +kernel⟩

theorem witness_StepKeepsMemWf :
    (let s := issuing 0; s.MemWf ∧ ∃ t, step s = .next t) :=
  ⟨⟨rfl, rfl, rfl, rfl⟩, exists_exec (by decide +kernel)⟩

end Sys2Proof.Tests
end

/-! PROOFS. Scalar words, rule by rule (R135, R138 to R141): the issue of a word whose only effect is a scalar result, the values of
R140 and R141 bit by bit, the words that do not decode, and the two statements about them. -/

namespace Sys2Proof.Machine

open Sys2Proof

/-! ### Scalar words go through -/

/-- Nothing but the common conditions stands in the way of a word whose only effect is a scalar result, in any context: it writes
the value that it computes from what it finds. -/
theorem State.issue_result {s : State} {i : Instr} {uses reads writes : List Reg} (lat : Nat) (xd : Reg) (f : State → Word)
    (hf : ∀ v c j n, f (State.pay v c j n) = f v) (h : s.clear (ctlOf i) 0 [] uses = true) :
    ∃ t, s.issue i { allowed := .all, uses := uses, reads := reads, writes := writes
                     effect := fun wid s => s.result wid lat xd (f s) } = .next t ∧
      Wrote (s.seen (ctlOf i) 0) t (ctlOf i) lat xd (f (s.seen (ctlOf i) 0)) := by
  refine ⟨_, State.issue_goes s i _ h rfl nofun rfl nofun nofun rfl rfl rfl rfl, ?_⟩
  obtain ⟨hreg, hconf, hhalf, hgoes⟩ := State.commit_result (s.seen (ctlOf i) 0) (ctlOf i)
    { allowed := .all, uses := uses, reads := reads, writes := writes, effect := fun wid s => s.result wid lat xd (f s) }
    (s.me.nextCycle (ctlOf i) 0) lat xd (f (s.seen (ctlOf i) 0)) (by dsimp only; rw [hf]) rfl rfl rfl rfl
  exact ⟨hreg, hhalf, hconf, hgoes⟩

theorem State.issue_alu1 {s : State} {i : Instr} {lat : Nat} {xd xa : Reg} {f : Word → Word}
    (h : s.clear (ctlOf i) 0 [] [xd, xa] = true) :
    ∃ t, s.issue i (alu1 lat xd xa f) = .next t ∧
      Wrote (s.seen (ctlOf i) 0) t (ctlOf i) lat xd (f ((s.seen (ctlOf i) 0).reg xa)) :=
  State.issue_result lat xd (fun v => f (v.reg xa)) (fun v c j n => by rw [State.reg_pay]) h

theorem State.issue_aluOld {s : State} {i : Instr} {xd xa : Reg} {f : Word → Word → Word}
    (h : s.clear (ctlOf i) 0 [] [xd, xa] = true) :
    ∃ t, s.issue i (aluOld xd xa f) = .next t ∧
      Wrote (s.seen (ctlOf i) 0) t (ctlOf i) 1 xd (f ((s.seen (ctlOf i) 0).reg xa) ((s.seen (ctlOf i) 0).reg xd)) :=
  State.issue_result 1 xd (fun v => f (v.reg xa) (v.reg xd)) (fun v c j n => by rw [State.reg_pay, State.reg_pay]) h

/-! ### The values of R140, bit by bit -/

theorem getLsbD_w64 (n j : Nat) : (w64 n).getLsbD j = (decide (j < 64) && n.testBit j) := by
  simp [w64, BitVec.getLsbD_ofNat]

/-- The number of leading zero bits of a word. -/
def leadingZeros (a : Word) : Nat := if a.toNat = 0 then 64 else 63 - a.toNat.log2

theorem clzOf_eq (a : Word) : clzOf a = w64 (leadingZeros a) := rfl

theorem leadingZeros_le (a : Word) : leadingZeros a ≤ 64 := by
  unfold leadingZeros
  split <;> omega

theorem getLsbD_leadingZeros_above (a : Word) (j : Nat) (h : 64 - leadingZeros a ≤ j) : a.getLsbD j = false := by
  apply Nat.testBit_lt_two_pow
  unfold leadingZeros at h
  split at h
  · next h0 => rw [h0]; exact Nat.two_pow_pos j
  · next h0 =>
    have hlog : a.toNat.log2 < 64 := (Nat.log2_lt h0).2 a.isLt
    exact (Nat.log2_lt h0).1 (by omega)

theorem getLsbD_leadingZeros_first (a : Word) (h : leadingZeros a < 64) : a.getLsbD (63 - leadingZeros a) = true := by
  unfold leadingZeros at h ⊢
  split at h
  · omega
  · next h0 =>
    have hlog : a.toNat.log2 < 64 := (Nat.log2_lt h0).2 a.isLt
    rw [if_neg h0, show 63 - (63 - a.toNat.log2) = a.toNat.log2 by omega]
    exact Nat.testBit_log2 h0

theorem popCount_eq (n v : Nat) : popCount n v = ((List.range n).filter v.testBit).length := by
  induction n generalizing v with
  | zero => rfl
  | succ n ih =>
    have hbits : (fun j => v.testBit j) ∘ Nat.succ = (v / 2).testBit := by
      funext j
      exact Nat.testBit_succ v j
    rw [popCount, ih, List.range_succ_eq_map, List.filter_cons, List.filter_map, hbits]
    rcases Nat.mod_two_eq_zero_or_one v with h | h <;> simp [Nat.testBit_zero, h, Nat.add_comm]

theorem bytesToNat_lt (bs : List Byte) : bytesToNat bs < 2 ^ (8 * bs.length) := by
  induction bs with
  | nil => decide
  | cons b bs ih =>
    have hb : b.toNat < 256 := b.isLt
    rw [bytesToNat, List.length_cons, Nat.mul_add, Nat.pow_add]
    omega

/-- The byte at place `j` of a number is the one that the list of bytes holds there. -/
theorem bytesToNat_div_mod (bs : List Byte) (j : Nat) (hj : j < bs.length) :
    bytesToNat bs / 2 ^ (8 * j) % 2 ^ 8 = bs[j].toNat := by
  induction bs generalizing j with
  | nil => simp at hj
  | cons b bs ih =>
    have hb : b.toNat < 256 := b.isLt
    cases j with
    | zero => simp only [bytesToNat, List.getElem_cons_zero]; omega
    | succ j =>
      have hshift : (b.toNat + 256 * bytesToNat bs) / 2 ^ (8 * (j + 1)) = bytesToNat bs / 2 ^ (8 * j) := by
        rw [Nat.mul_add, Nat.add_comm (8 * j), Nat.pow_add, ← Nat.div_div_eq_div_mul]
        congr 1
        omega
      rw [bytesToNat, hshift, List.getElem_cons_succ]
      exact ih j (by simpa using hj)

theorem getElem_leBytes (n v j : Nat) (hj : j < (leBytes n v).length) : (leBytes n v)[j] = BitVec.ofNat 8 (v / 2 ^ (8 * j)) := by
  induction n generalizing v j with
  | zero => simp [leBytes] at hj
  | succ n ih =>
    cases j with
    | zero => simp [leBytes]
    | succ j =>
      have hshift : v / 256 / 2 ^ (8 * j) = v / 2 ^ (8 * (j + 1)) := by
        rw [Nat.div_div_eq_div_mul, Nat.mul_add, Nat.add_comm (8 * j), Nat.pow_add]
      simp only [leBytes, List.getElem_cons_succ]
      rw [ih _ _ (by simpa using hj), hshift]

/-- BSWAP puts byte `7 - j` in place `j`. -/
theorem extractLsb'_bswapOf (a : Word) (j : Nat) (hj : j < 8) :
    (bswapOf a).extractLsb' (8 * j) 8 = a.extractLsb' (8 * (7 - j)) 8 := by
  apply BitVec.eq_of_toNat_eq
  have hlt : bytesToNat (leBytes 8 a.toNat).reverse < 2 ^ 64 := by
    simpa using bytesToNat_lt (leBytes 8 a.toNat).reverse
  have hlen : j < (leBytes 8 a.toNat).reverse.length := by simpa using hj
  simp only [BitVec.extractLsb'_toNat, Nat.shiftRight_eq_div_pow, bswapOf, w64, BitVec.toNat_ofNat, Nat.mod_eq_of_lt hlt]
  rw [bytesToNat_div_mod _ _ hlen, List.getElem_reverse, getElem_leBytes]
  simp

/-! ### Bit fields (R141) -/

theorem field_eq_extractLsb' {n : Nat} (w : BitVec n) (lo len : Nat) : field w lo len = (w.extractLsb' lo len).toNat := by
  rw [BitVec.extractLsb'_toNat, Nat.shiftRight_eq_div_pow, field]

theorem field_lt {n : Nat} (w : BitVec n) (lo len : Nat) : field w lo len < 2 ^ len := Nat.mod_lt _ (Nat.two_pow_pos len)

theorem testBit_field {n : Nat} (w : BitVec n) (lo len i : Nat) :
    (field w lo len).testBit i = (decide (i < len) && w.getLsbD (lo + i)) := by
  rw [field_eq_extractLsb', BitVec.testBit_toNat, BitVec.getLsbD_extractLsb']

theorem signedNat_toNat {n : Nat} (x : BitVec n) (h : 0 < n) : signedNat n x.toNat = x.toInt := by
  have hpow : 2 ^ n = 2 * 2 ^ (n - 1) := by rw [← Nat.pow_succ']; congr 1; omega
  rw [BitVec.toInt_eq_toNat_cond, signedNat]
  congr 1
  simp only [eq_iff_iff]
  omega

theorem extrOf_eq (sgn : Bool) (pos len : Nat) (a : Word) (h : 0 < len) :
    extrOf sgn pos len a = if sgn then (a.extractLsb' pos len).signExtend 64 else (a.extractLsb' pos len).setWidth 64 := by
  unfold extrOf sfield
  rw [field_eq_extractLsb', signedNat_toNat _ h]
  cases sgn
  · exact BitVec.ofNat_toNat 64 _
  · rfl

theorem getLsbD_extrOf (sgn : Bool) (pos len : Nat) (a : Word) (h : 0 < len) (j : Nat) (hj : j < 64) :
    (extrOf sgn pos len a).getLsbD j =
      if j < len then a.getLsbD (pos + j) else sgn && a.getLsbD (pos + len - 1) := by
  rw [extrOf_eq _ _ _ _ h]
  cases sgn
  · by_cases hl : j < len <;> simp [hj, hl]
  · have hmsb : (a.extractLsb' pos len).msb = a.getLsbD (pos + len - 1) := by
      rw [BitVec.msb_eq_getLsbD_last, BitVec.getLsbD_extractLsb', decide_eq_true (by omega), Bool.true_and]
      congr 1
      omega
    simp only [if_true, BitVec.getLsbD_signExtend, hj, hmsb, BitVec.getLsbD_extractLsb', decide_true, Bool.true_and]
    by_cases hl : j < len <;> simp [hl]

/-- A number cut below, inside and above a field. -/
theorem eq_below_field_above (v pos len : Nat) :
    v = 2 ^ pos * (2 ^ len * (v / 2 ^ pos / 2 ^ len) + v / 2 ^ pos % 2 ^ len) + v % 2 ^ pos := by
  rw [Nat.div_add_mod, Nat.div_add_mod]

theorem testBit_below_field_above (lo mid hi pos len j : Nat) (hlo : lo < 2 ^ pos) (hmid : mid < 2 ^ len) :
    (2 ^ pos * (2 ^ len * hi + mid) + lo).testBit j =
      if j < pos then lo.testBit j else if j < pos + len then mid.testBit (j - pos) else hi.testBit (j - pos - len) := by
  rw [Nat.testBit_two_pow_mul_add _ hlo, Nat.testBit_two_pow_mul_add _ hmid]
  by_cases h : j < pos
  · simp [h]
  · have h2 : j - pos < len ↔ j < pos + len := by omega
    simp [h, h2]

/-- INSR keeps what lies below and above the field, and puts the low bits of `a` inside. -/
theorem insrOf_eq (pos len : Nat) (a old : Word) :
    insrOf pos len a old =
      w64 (2 ^ pos * (2 ^ len * (old.toNat / 2 ^ pos / 2 ^ len) + field a 0 len) + old.toNat % 2 ^ pos) := by
  have hold := eq_below_field_above old.toNat pos len
  unfold insrOf
  change w64 (old.toNat - old.toNat / 2 ^ pos % 2 ^ len * 2 ^ pos + field a 0 len * 2 ^ pos) = _
  rw [Nat.mul_add] at hold ⊢
  rw [Nat.mul_comm _ (2 ^ pos), Nat.mul_comm _ (2 ^ pos)]
  congr 1
  omega

theorem getLsbD_insrOf (pos len : Nat) (a old : Word) (j : Nat) (hj : j < 64) :
    (insrOf pos len a old).getLsbD j =
      if pos ≤ j ∧ j < pos + len then a.getLsbD (j - pos) else old.getLsbD j := by
  have hlo : old.toNat % 2 ^ pos < 2 ^ pos := Nat.mod_lt _ (Nat.two_pow_pos pos)
  rw [insrOf_eq, getLsbD_w64, testBit_below_field_above _ _ _ _ _ _ hlo (field_lt a 0 len), decide_eq_true hj, Bool.true_and]
  by_cases hbelow : j < pos
  · rw [if_pos hbelow, if_neg (by omega), Nat.testBit_mod_two_pow, decide_eq_true hbelow, Bool.true_and]
    rfl
  · by_cases hin : j < pos + len
    · rw [if_neg hbelow, if_pos hin, if_pos ⟨by omega, hin⟩, testBit_field, decide_eq_true (by omega), Bool.true_and, Nat.zero_add]
    · rw [if_neg hbelow, if_neg hin, if_neg (by omega), Nat.testBit_div_two_pow, Nat.testBit_div_two_pow,
        show j - pos - len + len + pos = j by omega]
      rfl

/-! ### Words that do not decode (R87), and words laid out by their fields (R82) -/

/-- A word with an opcode below MFS is for every context and every level, so that one that does not decode traps ILLOP. -/
theorem State.decodeTrap_scalar (s : State) (w : Word) (e : DecodeError) (h : field w 40 8 < 0x33) :
    (s.decodeTrap w e).cause = .illop := by
  cases e
  case badField =>
    have hclass : classOf (field w 40 8) = .all := if_pos (by omega)
    have hpriv : privileged w = false := by
      have h33 : field w 40 8 ≠ 0x33 := by omega
      have h34 : field w 40 8 ≠ 0x34 := by omega
      simp [privileged, h33, h34]
      omega
    simp [State.decodeTrap, hclass, hpriv, Allowed.ok]
  all_goals rfl

/-- A scalar word whose operand bits give no well-formed instruction is illegal. -/
theorem illegal_of_operands {w : Word} (hop : field w 40 8 < 0x33)
    (h : ∀ c i, decodeOperands (field w 40 8) c (w.toNat % 2 ^ 40) = some i → i.wf = false) : Illegal w := by
  suffices hd : ∃ e, decode w = .error e by
    obtain ⟨e, he⟩ := hd
    exact ⟨e, he, fun s => s.decodeTrap_scalar w e hop⟩
  have hfield : w.toNat / 2 ^ 40 % 256 = field w 40 8 := rfl
  unfold decode
  dsimp only
  rw [hfield]
  split
  · exact ⟨_, rfl⟩
  split
  · exact ⟨_, rfl⟩
  split
  · exact ⟨_, rfl⟩
  split
  · next i hi =>
    rw [h _ i hi]
    exact ⟨_, rfl⟩
  · exact ⟨_, rfl⟩

/-- A field of the operand bits, read from the whole word. -/
theorem field_operands (w : Word) (lo len : Nat) (h : lo + len ≤ 40) :
    w.toNat % 2 ^ 40 / 2 ^ lo % 2 ^ len = field w lo len := by
  apply Nat.eq_of_testBit_eq
  intro j
  simp only [field, Nat.testBit_mod_two_pow, Nat.testBit_div_two_pow]
  by_cases hj : j < len
  · simp [show j + lo < 40 by omega]
  · simp [hj]

theorem decodeCtl_zero : decodeCtl 0 = Ctl.none := rfl

/-- A word with nothing in its control half decodes to the well-formed instruction whose operand bits it holds. -/
theorem decode_plainWord {i : Instr} {op n : Nat} (hop : opcodeOf i = some op) (hc : ctlOf i = Ctl.none)
    (hn : operandsOf i = n) (hrt : Laws.RoundTrip.Statement i) (hlt : op < 255) (ha : opAllocated op = true) (hwf : i.wf = true) :
    decode (plainWord op n) = .ok i := by
  simp only [Laws.RoundTrip.Statement, hop, hc, hn] at hrt
  obtain ⟨hfit, hread⟩ := hrt
  have hval : (plainWord op n).toNat = op * 2 ^ 40 + n := by
    rw [plainWord, w64, BitVec.toNat_ofNat, Nat.mod_eq_of_lt (by omega)]
  unfold decode
  dsimp only
  rw [hval, show (op * 2 ^ 40 + n) / 2 ^ 40 % 256 = op by omega, show (op * 2 ^ 40 + n) / 2 ^ 49 = 0 by omega,
    show (op * 2 ^ 40 + n) % 2 ^ 40 = n by omega, decodeCtl_zero, hread]
  simp only [ha, hwf]
  rw [if_neg (by omega), if_neg (by simp), if_neg (by omega)]
  rfl

/-! ### The words that trap (R140, R141) -/

theorem rk_eq_some {α : Type} {n v w : Nat} {k : Nat → Option α} {a : α} :
    rk n v w k = some a ↔ w % 2 ^ n = v ∧ k (w / 2 ^ n) = some a := by
  unfold rk
  split <;> simp [*]

theorem rend_eq_some {α : Type} {w : Nat} {a b : α} : rend w a = some b ↔ w = 0 ∧ a = b := by
  unfold rend
  split <;> simp [*]

theorem illegal_count_word {w : Word} (hop : field w 40 8 = 0x18 ∨ field w 40 8 = 0x19 ∨ field w 40 8 = 0x1C)
    (h : field w 0 28 ≠ 0) : Illegal w := by
  have hlow : w.toNat % 2 ^ 40 % 2 ^ 28 ≠ 0 := by
    have := field_operands w 0 28 (by decide)
    rw [Nat.pow_zero, Nat.div_one] at this
    rwa [this]
  refine illegal_of_operands (by omega) fun c i hi => ?_
  rcases hop with hop | hop | hop <;> rw [hop] at hi
  · exact absurd (rk_eq_some.1 (show decClz c _ = some i from hi)).1 hlow
  · exact absurd (rk_eq_some.1 (show decPopc c _ = some i from hi)).1 hlow
  · exact absurd (rk_eq_some.1 (show decBswap c _ = some i from hi)).1 hlow

/-- EXTR's operands: bits 15:13 are reserved, bit 12 is its suffix, LEN and POS stand in bits 11:6 and 5:0 (R141). -/
theorem decExtr_eq_some {c : Ctl} {n : Nat} {i : Instr} (h : decExtr c n = some i) :
    n / 2 ^ 13 % 2 ^ 3 = 0 ∧ ∃ xd xa sgn, i = .extr c xd xa sgn (BitVec.ofNat 6 (n / 2 ^ 6)) (BitVec.ofNat 6 n) := by
  simp only [decExtr, rd, rb, rk_eq_some, rend_eq_some] at h
  obtain ⟨hres, -, -, -, rfl⟩ := h
  exact ⟨by omega, _, _, _, rfl⟩

/-- INSR's operands: bits 15:12 are reserved, LEN and POS stand in bits 11:6 and 5:0 (R141). -/
theorem decInsr_eq_some {c : Ctl} {n : Nat} {i : Instr} (h : decInsr c n = some i) :
    n / 2 ^ 12 % 2 ^ 4 = 0 ∧ ∃ xd xa, i = .insr c xd xa (BitVec.ofNat 6 (n / 2 ^ 6)) (BitVec.ofNat 6 n) := by
  simp only [decInsr, rd, rk_eq_some, rend_eq_some] at h
  obtain ⟨hres, -, -, -, rfl⟩ := h
  exact ⟨by omega, _, _, rfl⟩

/-- A field that ends past bit 63 is not well formed. -/
theorem field_past_63 {w : Word} (h : 64 < field w 0 6 + (field w 6 6 + 1)) :
    decide ((BitVec.ofNat 6 (w.toNat % 2 ^ 40)).toNat + (BitVec.ofNat 6 (w.toNat % 2 ^ 40 / 2 ^ 6)).toNat + 1 ≤ 64) = false := by
  have h0 := field_operands w 0 6 (by decide)
  have h6 := field_operands w 6 6 (by decide)
  rw [Nat.pow_zero, Nat.div_one] at h0
  rw [BitVec.toNat_ofNat, BitVec.toNat_ofNat, h0, h6]
  exact decide_eq_false (by omega)

theorem illegal_extr {w : Word} (hop : field w 40 8 = 0x1A)
    (h : field w 13 3 ≠ 0 ∨ 64 < field w 0 6 + (field w 6 6 + 1)) : Illegal w := by
  refine illegal_of_operands (by omega) fun c i hi => ?_
  rw [hop] at hi
  obtain ⟨hres, xd, xa, sgn, rfl⟩ := decExtr_eq_some hi
  rw [field_operands w 13 3 (by decide)] at hres
  exact field_past_63 (h.resolve_left (· hres))

theorem illegal_insr {w : Word} (hop : field w 40 8 = 0x1B)
    (h : field w 13 3 ≠ 0 ∨ 64 < field w 0 6 + (field w 6 6 + 1) ∨ bitOf w 12 = true) : Illegal w := by
  refine illegal_of_operands (by omega) fun c i hi => ?_
  rw [hop] at hi
  obtain ⟨hres, xd, xa, rfl⟩ := decInsr_eq_some hi
  rw [field_operands w 12 4 (by decide)] at hres
  have h13 : field w 13 3 = 0 := by unfold field at hres ⊢; omega
  have h12 : bitOf w 12 = false := by
    have : w.toNat / 2 ^ 12 % 2 ≠ 1 := by unfold field at hres; omega
    simpa [bitOf] using this
  rcases h with h | h | h
  · exact absurd h13 h
  · exact field_past_63 h
  · rw [h12] at h
    cases h

/-- The sum by which R141 lays out EXTR's operands. -/
theorem operandsOf_extr (xd xa : Reg) (sgn : Bool) (len1 pos : BitVec 6) :
    operandsOf (.extr Ctl.none xd xa sgn len1 pos) =
      xd.toNat * 2 ^ 34 + xa.toNat * 2 ^ 28 + b2n sgn * 2 ^ 12 + len1.toNat * 2 ^ 6 + pos.toNat := by
  have hsgn : sgn.toNat = b2n sgn := by cases sgn <;> rfl
  show put 6 pos.toNat (put 6 len1.toNat (put 1 sgn.toNat (put 3 0 (put 6 0 (put 6 0 (put 6 xa.toNat (put 6 xd.toNat 0))))))) = _
  simp only [put, hsgn]
  ring

/-- The sum by which R141 lays out INSR's operands. -/
theorem operandsOf_insr (xd xa : Reg) (len1 pos : BitVec 6) :
    operandsOf (.insr Ctl.none xd xa len1 pos) = xd.toNat * 2 ^ 34 + xa.toNat * 2 ^ 28 + len1.toNat * 2 ^ 6 + pos.toNat := by
  show put 6 pos.toNat (put 6 len1.toNat (put 4 0 (put 6 0 (put 6 0 (put 6 xa.toNat (put 6 xd.toNat 0)))))) = _
  simp only [put]
  ring

/-! ### The statements -/

/-- Settles O5: each word issues as `State.issue_alu1` or `State.issue_aluOld` says, and the lemmas above give its value bit by bit,
its encoding, and the words that trap. -/
theorem countsAndBitFields : Obligations.CountsAndBitFields := by
  unfold Obligations.CountsAndBitFields
  refine ⟨?clz, ?popc, ?bswap, ?reserved, ?extr, ?insr, ?encoded, ?illegal⟩
  case clz =>
    intro c xd xa s h
    obtain ⟨t, ht, hw⟩ := State.issue_alu1 (i := .clz c xd xa) (lat := 1) (f := clzOf) h
    rw [clzOf_eq] at hw
    exact ⟨t, leadingZeros ((s.seen c 0).reg xa), ht, hw, leadingZeros_le _, getLsbD_leadingZeros_above _,
      getLsbD_leadingZeros_first _⟩
  case popc =>
    intro c xd xa s h
    obtain ⟨t, ht, hw⟩ := State.issue_alu1 (i := .popc c xd xa) (lat := 1) (f := popcOf) h
    rw [popcOf, popCount_eq] at hw
    exact ⟨t, ht, hw⟩
  case bswap =>
    intro c xd xa s h
    obtain ⟨t, ht, hw⟩ := State.issue_alu1 (i := .bswap c xd xa) (lat := 1) (f := bswapOf) h
    exact ⟨t, _, ht, hw, extractLsb'_bswapOf _⟩
  case reserved => exact fun w => illegal_count_word
  case extr =>
    rintro c xd xa sgn len1 pos s len h rfl -
    obtain ⟨t, ht, hw⟩ := State.issue_alu1 (i := .extr c xd xa sgn len1 pos) (lat := 1)
      (f := extrOf sgn pos.toNat (len1.toNat + 1)) h
    exact ⟨t, _, ht, hw, getLsbD_extrOf _ _ _ _ (Nat.succ_pos _)⟩
  case insr =>
    rintro c xd xa len1 pos s len h rfl -
    obtain ⟨t, ht, hw⟩ := State.issue_aluOld (i := .insr c xd xa len1 pos) (f := insrOf pos.toNat (len1.toNat + 1)) h
    exact ⟨t, _, ht, hw, getLsbD_insrOf _ _ _ _⟩
  case encoded =>
    intro xd xa sgn len1 pos h
    exact ⟨decode_plainWord rfl rfl (operandsOf_extr ..) (Laws.RoundTrip.extr ..) (by decide) (by decide) (decide_eq_true h),
      decode_plainWord rfl rfl (operandsOf_insr ..) (Laws.RoundTrip.insr ..) (by decide) (by decide) (decide_eq_true h)⟩
  case illegal =>
    rintro w (hop | hop) h
    · exact illegal_extr hop (by simpa [hop] using h)
    · exact illegal_insr hop (by simpa [hop] using h)

/-! ### A landing that aborts the task of the word (R135, R73, R296)

`State.clear` asks that the context runs before the writes due land, and the word is judged on the state after they have landed. A
landing can abort the very task: a TKINC that lands past 65,535 writes a record to the fault log, and the write aborts the
speculative tasks that have read its line. The word then goes through on a core that the abort has released. -/

/-- Task 1 of partition 0, which is speculative behind another task and has read the line at HBM address 0x10000. -/
def logReader : Task :=
  { seq := 1, ts := 5, part := 0, parent := 0, level := 0, nspec := false, kimg := 0, args := 0, cwa := 0, origin := .spawn, hdr := 0
    st := .running, spec := true, prov := true, target := [0], got := [], reqs := [], lists := [], ragged := true, left := []
    reads := [⟨0, 0, 0x10000 / 64, true, []⟩], deps := [], berths := [], shares := [], rlqs := [], parked := none, rst := false
    failed := false, draining := false, saved := [], areas := [], caps := [], since := 0 }

/-- A context in exposed mode whose TKINC of counter 1 is due before its next word. -/
def incrementInFlight : CtxSt :=
  { CtxSt.reset with run := .running, wwords := 64, exposed := true, flights := [⟨0, 0, 0, 0, .tk 1 1⟩] }

/-- The task runs on core 0 with counter 1 full; the fault log of its partition begins at 0x10000, and task 2 is the frontier. -/
def landingAborts : State :=
  { State.reset with
    nextSeq := 3
    tasks := [(1, logReader), (2, { logReader with seq := 2, ts := 1, target := [], spec := false, prov := false, reads := [] })]
    parts := [(0, { Part.reset with regs := [(11, 0x10000)] })]
    cores := [(0, { CoreSt.reset with
      status := .active, task := 1, cL := incrementInFlight, tks := [(1, ⟨65535, false⟩)], nextId := 1 })] }

theorem landingAborts_clear : landingAborts.clear Ctl.none 0 [] [1, 2, 3] = true := by decide +kernel

/-- The abort has released the core: the word finds its context idle. -/
theorem landingAborts_seen_idle : (landingAborts.seen Ctl.none 0).me.run = .idle := by decide +kernel

/-- A scalar result leaves the context running or not, as the word found it. -/
theorem Wrote.run_eq {v t : State} {c : Ctl} {lat : Nat} {xd : Reg} {x : Word} (h : Wrote v t c lat xd x) :
    t.me.run = v.me.run := by
  obtain ⟨-, hthrough⟩ := h
  have hrun := congrArg CtxSt.run hthrough.confined.me
  exact hrun

/-- Refutes O4: in exposed mode the writes due land before DIV issues, and such a landing can abort the task of the word itself
(`landingAborts`). DIV then goes through in an idle context, where the statement claims that the context still runs. -/
theorem not_divisionSelectionConstants : ¬ Obligations.DivisionSelectionConstants := by
  unfold Obligations.DivisionSelectionConstants
  rintro ⟨hdiv, -⟩
  obtain ⟨t, -, q, -, -, -, hwrote, -, hruns, -⟩ := hdiv Ctl.none 1 2 3 false landingAborts landingAborts_clear
  have hidle : t.me.run = .idle := hwrote.run_eq.trans landingAborts_seen_idle
  rw [hruns] at hidle
  cases hidle

end Sys2Proof.Machine

/-! PROOFS. The round trip (R82 to R89, R100): the control half, the opcode and the operands of a word are read back as they were
written. -/

namespace Sys2Proof.Machine

open Sys2Proof

/-- Every instruction has its lemma of the family. -/
theorem roundTrip_operands : ∀ i : Instr, Laws.RoundTrip.Statement i
  | .nop .. => Laws.RoundTrip.nop ..
  | .add .. => Laws.RoundTrip.add ..
  | .sub .. => Laws.RoundTrip.sub ..
  | .mul .. => Laws.RoundTrip.mul ..
  | .mulh .. => Laws.RoundTrip.mulh ..
  | .div .. => Laws.RoundTrip.div ..
  | .rem .. => Laws.RoundTrip.rem ..
  | .addi .. => Laws.RoundTrip.addi ..
  | .and .. => Laws.RoundTrip.and ..
  | .or .. => Laws.RoundTrip.or ..
  | .xor .. => Laws.RoundTrip.xor ..
  | .andi .. => Laws.RoundTrip.andi ..
  | .ori .. => Laws.RoundTrip.ori ..
  | .xori .. => Laws.RoundTrip.xori ..
  | .shl .. => Laws.RoundTrip.shl ..
  | .shr .. => Laws.RoundTrip.shr ..
  | .sar .. => Laws.RoundTrip.sar ..
  | .rol .. => Laws.RoundTrip.rol ..
  | .min .. => Laws.RoundTrip.min ..
  | .max .. => Laws.RoundTrip.max ..
  | .cmp .. => Laws.RoundTrip.cmp ..
  | .cmpi .. => Laws.RoundTrip.cmpi ..
  | .csel .. => Laws.RoundTrip.csel ..
  | .limm .. => Laws.RoundTrip.limm ..
  | .clz .. => Laws.RoundTrip.clz ..
  | .popc .. => Laws.RoundTrip.popc ..
  | .extr .. => Laws.RoundTrip.extr ..
  | .insr .. => Laws.RoundTrip.insr ..
  | .bswap .. => Laws.RoundTrip.bswap ..
  | .muli .. => Laws.RoundTrip.muli ..
  | .br .. => Laws.RoundTrip.br ..
  | .jmpr .. => Laws.RoundTrip.jmpr ..
  | .loop .. => Laws.RoundTrip.loop ..
  | .loopN .. => Laws.RoundTrip.loopN ..
  | .loopi .. => Laws.RoundTrip.loopi ..
  | .cqput .. => Laws.RoundTrip.cqput ..
  | .cqget .. => Laws.RoundTrip.cqget ..
  | .cqbr .. => Laws.RoundTrip.cqbr ..
  | .tkinc .. => Laws.RoundTrip.tkinc ..
  | .tkchk .. => Laws.RoundTrip.tkchk ..
  | .mode .. => Laws.RoundTrip.mode ..
  | .leave .. => Laws.RoundTrip.leave ..
  | .capr .. => Laws.RoundTrip.capr ..
  | .mfs .. => Laws.RoundTrip.mfs ..
  | .mts .. => Laws.RoundTrip.mts ..
  | .exit .. => Laws.RoundTrip.exit ..
  | .brk .. => Laws.RoundTrip.brk ..
  | .sysc .. => Laws.RoundTrip.sysc ..
  | .ldb .. => Laws.RoundTrip.ldb ..
  | .ldh .. => Laws.RoundTrip.ldh ..
  | .ldw .. => Laws.RoundTrip.ldw ..
  | .ldd .. => Laws.RoundTrip.ldd ..
  | .stb .. => Laws.RoundTrip.stb ..
  | .sth .. => Laws.RoundTrip.sth ..
  | .stw .. => Laws.RoundTrip.stw ..
  | .std .. => Laws.RoundTrip.std ..
  | .vld .. => Laws.RoundTrip.vld ..
  | .loadComplete .. => Laws.RoundTrip.loadComplete ..
  | .spld .. => Laws.RoundTrip.spld ..
  | .spst .. => Laws.RoundTrip.spst ..
  | .gath .. => Laws.RoundTrip.gath ..
  | .scat .. => Laws.RoundTrip.scat ..
  | .ldt .. => Laws.RoundTrip.ldt ..
  | .ferry .. => Laws.RoundTrip.ferry ..
  | .ferryTier .. => Laws.RoundTrip.ferryTier ..
  | .ferryQ .. => Laws.RoundTrip.ferryQ ..
  | .engineCmdComplete .. => Laws.RoundTrip.engineCmdComplete ..
  | .mark .. => Laws.RoundTrip.mark ..
  | .fence .. => Laws.RoundTrip.fence ..
  | .amo .. => Laws.RoundTrip.amo ..
  | .red .. => Laws.RoundTrip.red ..
  | .redApply .. => Laws.RoundTrip.redApply ..
  | .rclaimCfg .. => Laws.RoundTrip.rclaimCfg ..
  | .rclaim .. => Laws.RoundTrip.rclaim ..
  | .rfill .. => Laws.RoundTrip.rfill ..
  | .rwaitf .. => Laws.RoundTrip.rwaitf ..
  | .rwaite .. => Laws.RoundTrip.rwaite ..
  | .rtake .. => Laws.RoundTrip.rtake ..
  | .rfree .. => Laws.RoundTrip.rfree ..
  | .msend .. => Laws.RoundTrip.msend ..
  | .msendGrant .. => Laws.RoundTrip.msendGrant ..
  | .mrecvCfg .. => Laws.RoundTrip.mrecvCfg ..
  | .mrecv .. => Laws.RoundTrip.mrecv ..
  | .mrecvNb .. => Laws.RoundTrip.mrecvNb ..
  | .mqcred .. => Laws.RoundTrip.mqcred ..
  | .stn .. => Laws.RoundTrip.stn ..
  | .stnS .. => Laws.RoundTrip.stnS ..
  | .stnNameReturn .. => Laws.RoundTrip.stnNameReturn ..
  | .baddr .. => Laws.RoundTrip.baddr ..
  | .bshare .. => Laws.RoundTrip.bshare ..
  | .rlq .. => Laws.RoundTrip.rlq ..
  | .lbind .. => Laws.RoundTrip.lbind ..
  | .lunbind .. => Laws.RoundTrip.lunbind ..
  | .tspawn .. => Laws.RoundTrip.tspawn ..
  | .tgraph .. => Laws.RoundTrip.tgraph ..
  | .tyieldFront .. => Laws.RoundTrip.tyieldFront ..
  | .tyieldPast .. => Laws.RoundTrip.tyieldPast ..
  | .collAllred .. => Laws.RoundTrip.collAllred ..
  | .collRed .. => Laws.RoundTrip.collRed ..
  | .collBcast .. => Laws.RoundTrip.collBcast ..
  | .collBar .. => Laws.RoundTrip.collBar ..
  | .collContribution .. => Laws.RoundTrip.collContribution ..
  | .collDeadlineExpire .. => Laws.RoundTrip.collDeadlineExpire ..
  | .collMemberTimeout .. => Laws.RoundTrip.collMemberTimeout ..
  | .vadd .. => Laws.RoundTrip.vadd ..
  | .vsub .. => Laws.RoundTrip.vsub ..
  | .vmul .. => Laws.RoundTrip.vmul ..
  | .vdiv .. => Laws.RoundTrip.vdiv ..
  | .vmin .. => Laws.RoundTrip.vmin ..
  | .vmax .. => Laws.RoundTrip.vmax ..
  | .vfmaFp32 .. => Laws.RoundTrip.vfmaFp32 ..
  | .vfmaBf16 .. => Laws.RoundTrip.vfmaBf16 ..
  | .vfmaFp16 .. => Laws.RoundTrip.vfmaFp16 ..
  | .vabs .. => Laws.RoundTrip.vabs ..
  | .vneg .. => Laws.RoundTrip.vneg ..
  | .vand .. => Laws.RoundTrip.vand ..
  | .vor .. => Laws.RoundTrip.vor ..
  | .vxor .. => Laws.RoundTrip.vxor ..
  | .vshl .. => Laws.RoundTrip.vshl ..
  | .vshr .. => Laws.RoundTrip.vshr ..
  | .vaddi .. => Laws.RoundTrip.vaddi ..
  | .vmuli .. => Laws.RoundTrip.vmuli ..
  | .vsplatImm .. => Laws.RoundTrip.vsplatImm ..
  | .vsplatReg .. => Laws.RoundTrip.vsplatReg ..
  | .vcvt .. => Laws.RoundTrip.vcvt ..
  | .vcmp .. => Laws.RoundTrip.vcmp ..
  | .vsel32 .. => Laws.RoundTrip.vsel32 ..
  | .vsel16 .. => Laws.RoundTrip.vsel16 ..
  | .vsel8 .. => Laws.RoundTrip.vsel8 ..
  | .vreds .. => Laws.RoundTrip.vreds ..
  | .vredm .. => Laws.RoundTrip.vredm ..
  | .vscan .. => Laws.RoundTrip.vscan ..
  | .vsortcCount .. => Laws.RoundTrip.vsortcCount ..
  | .vsortcOrder .. => Laws.RoundTrip.vsortcOrder ..
  | .vsortcSlot .. => Laws.RoundTrip.vsortcSlot ..
  | .vspselMask .. => Laws.RoundTrip.vspselMask ..
  | .vspselMeta .. => Laws.RoundTrip.vspselMeta ..
  | .vspselPack .. => Laws.RoundTrip.vspselPack ..
  | .vrmsnFp32 .. => Laws.RoundTrip.vrmsnFp32 ..
  | .vrmsnBf16 .. => Laws.RoundTrip.vrmsnBf16 ..
  | .vact .. => Laws.RoundTrip.vact ..
  | .vexp .. => Laws.RoundTrip.vexp ..
  | .vexp2 .. => Laws.RoundTrip.vexp2 ..
  | .vrcp .. => Laws.RoundTrip.vrcp ..
  | .vrsq .. => Laws.RoundTrip.vrsq ..
  | .vperm .. => Laws.RoundTrip.vperm ..
  | .vlds .. => Laws.RoundTrip.vlds ..
  | .vsts .. => Laws.RoundTrip.vsts ..
  | .vqst .. => Laws.RoundTrip.vqst ..
  | .vmov .. => Laws.RoundTrip.vmov ..
  | .exadd .. => Laws.RoundTrip.exadd ..
  | .exaddL .. => Laws.RoundTrip.exaddL ..
  | .exrd .. => Laws.RoundTrip.exrd ..
  | .exclr .. => Laws.RoundTrip.exclr ..
  | .fqpush .. => Laws.RoundTrip.fqpush ..
  | .fqmode .. => Laws.RoundTrip.fqmode ..
  | .scw .. => Laws.RoundTrip.scw ..
  | .ctwr .. => Laws.RoundTrip.ctwr ..
  | .nestw .. => Laws.RoundTrip.nestw ..
  | .tgo .. => Laws.RoundTrip.tgo ..
  | .tgoG .. => Laws.RoundTrip.tgoG ..
  | .tgoSp .. => Laws.RoundTrip.tgoSp ..
  | .tileCmdHead .. => Laws.RoundTrip.tileCmdHead ..
  | .tileCmdAccept .. => Laws.RoundTrip.tileCmdAccept ..
  | .tileCmdComplete .. => Laws.RoundTrip.tileCmdComplete ..
  | .accz .. => Laws.RoundTrip.accz ..
  | .accrd .. => Laws.RoundTrip.accrd ..
  | .accmov .. => Laws.RoundTrip.accmov ..
  | .accst .. => Laws.RoundTrip.accst ..
  | .accld .. => Laws.RoundTrip.accld ..
  | .lapp .. => Laws.RoundTrip.lapp ..
  | .lappb .. => Laws.RoundTrip.lappb ..
  | .lreadOrd .. => Laws.RoundTrip.lreadOrd ..
  | .lreadExa .. => Laws.RoundTrip.lreadExa ..
  | .lreadRungs .. => Laws.RoundTrip.lreadRungs ..
  | .lfork .. => Laws.RoundTrip.lfork ..
  | .ltruncLow .. => Laws.RoundTrip.ltruncLow ..
  | .ltruncCkpt .. => Laws.RoundTrip.ltruncCkpt ..
  | .ldrop .. => Laws.RoundTrip.ldrop ..
  | .lstat .. => Laws.RoundTrip.lstat ..
  | .ladderCmdComplete .. => Laws.RoundTrip.ladderCmdComplete ..
  | .tapchk .. => Laws.RoundTrip.tapchk ..
  | .tapchkBind .. => Laws.RoundTrip.tapchkBind ..
  | .tapchkMask .. => Laws.RoundTrip.tapchkMask ..
  | .vshort .. => Laws.RoundTrip.vshort ..
  | .vsort .. => Laws.RoundTrip.vsort ..
  | .vsortMerge .. => Laws.RoundTrip.vsortMerge ..
  | .vsamp .. => Laws.RoundTrip.vsamp ..
  | .vsampU .. => Laws.RoundTrip.vsampU ..
  | .rngget .. => Laws.RoundTrip.rngget ..
  | .rnggetPeek .. => Laws.RoundTrip.rnggetPeek ..
  | .rngjmp .. => Laws.RoundTrip.rngjmp ..
  | .gstep .. => Laws.RoundTrip.gstep ..
  | .vgmask .. => Laws.RoundTrip.vgmask ..
  | .gsave .. => Laws.RoundTrip.gsave ..
  | .grest .. => Laws.RoundTrip.grest ..
  | .tokout .. => Laws.RoundTrip.tokout ..
  | .wsw .. => Laws.RoundTrip.wsw ..
  | .ptbw .. => Laws.RoundTrip.ptbw ..
  | .ptbwH .. => Laws.RoundTrip.ptbwH ..
  | .tlbiPg .. => Laws.RoundTrip.tlbiPg ..
  | .tlbiBlk .. => Laws.RoundTrip.tlbiBlk ..
  | .tlbiAll .. => Laws.RoundTrip.tlbiAll ..
  | .quar .. => Laws.RoundTrip.quar ..
  | .slotw .. => Laws.RoundTrip.slotw ..
  | .bmapwFree .. => Laws.RoundTrip.bmapwFree ..
  | .bmapwSet .. => Laws.RoundTrip.bmapwSet ..
  | .halt .. => Laws.RoundTrip.halt ..
  | .resume .. => Laws.RoundTrip.resume ..
  | .eret .. => Laws.RoundTrip.eret ..
  | .ipi .. => Laws.RoundTrip.ipi ..
  | .partw .. => Laws.RoundTrip.partw ..
  | .islw .. => Laws.RoundTrip.islw ..
  | .forcedStopPoint .. => Laws.RoundTrip.forcedStopPoint ..
  | .deadlk .. => Laws.RoundTrip.deadlk ..
  | .tlbWalk .. => Laws.RoundTrip.tlbWalk ..
  | .xlateService .. => Laws.RoundTrip.xlateService ..
  | .pageMove .. => Laws.RoundTrip.pageMove ..
  | .pageSupplyAnswer .. => Laws.RoundTrip.pageSupplyAnswer ..
  | .holdWindowExpire .. => Laws.RoundTrip.holdWindowExpire ..
  | .migrationGo .. => Laws.RoundTrip.migrationGo ..
  | .hostDeviceWrite .. => Laws.RoundTrip.hostDeviceWrite ..
  | .taskSelect .. => Laws.RoundTrip.taskSelect ..
  | .reservationRequest .. => Laws.RoundTrip.reservationRequest ..
  | .coreRelease .. => Laws.RoundTrip.coreRelease ..
  | .raggedDistribute .. => Laws.RoundTrip.raggedDistribute ..
  | .coreStart .. => Laws.RoundTrip.coreStart ..
  | .coreDrainDone .. => Laws.RoundTrip.coreDrainDone ..
  | .taskCommit .. => Laws.RoundTrip.taskCommit ..
  | .supervisorResume .. => Laws.RoundTrip.supervisorResume ..
  | .supervisorReflect .. => Laws.RoundTrip.supervisorReflect ..
  | .supervisorEndFault .. => Laws.RoundTrip.supervisorEndFault ..
  | .preemptSave .. => Laws.RoundTrip.preemptSave ..
  | .scrubError .. => Laws.RoundTrip.scrubError ..
  | .specdepthWrite .. => Laws.RoundTrip.specdepthWrite ..
  | .vbquotaWrite .. => Laws.RoundTrip.vbquotaWrite ..
  | .reddlWrite .. => Laws.RoundTrip.reddlWrite ..
  | .ptbaseWrite .. => Laws.RoundTrip.ptbaseWrite ..
  | .tqspareWrite .. => Laws.RoundTrip.tqspareWrite ..
  | .schctlPre .. => Laws.RoundTrip.schctlPre ..
  | .schctlHold .. => Laws.RoundTrip.schctlHold ..
  | .registerWrite .. => Laws.RoundTrip.registerWrite ..
  | .queueEnable .. => Laws.RoundTrip.queueEnable ..
  | .kick .. => Laws.RoundTrip.kick ..
  | .entryFetch .. => Laws.RoundTrip.entryFetch ..
  | .frameBoundary .. => Laws.RoundTrip.frameBoundary ..
  | .wsRefreshWindow .. => Laws.RoundTrip.wsRefreshWindow ..
  | .leaveGrant .. => Laws.RoundTrip.leaveGrant ..
  | .linkFlitRetry .. => Laws.RoundTrip.linkFlitRetry ..
  | .powerOn .. => Laws.RoundTrip.powerOn ..
  | .pcieFundamentalReset .. => Laws.RoundTrip.pcieFundamentalReset ..
  | .bootctlCold .. => Laws.RoundTrip.bootctlCold ..
  | .bootctlWarm .. => Laws.RoundTrip.bootctlWarm ..
  | .stageTimeout .. => Laws.RoundTrip.stageTimeout ..
  | .icarnColdReset .. => Laws.RoundTrip.icarnColdReset ..
  | .writeInFlightCompletes .. => Laws.RoundTrip.writeInFlightCompletes ..
  | .postedStorePerformed .. => Laws.RoundTrip.postedStorePerformed ..
  | .hostPortDown .. => Laws.RoundTrip.hostPortDown ..
  | .linkStateChange .. => Laws.RoundTrip.linkStateChange ..
  | .islandPowerGating .. => Laws.RoundTrip.islandPowerGating ..
  | .landingProcessorWrite .. => Laws.RoundTrip.landingProcessorWrite ..

/-- The opcodes that the encoder writes are allocated, and none of them is 0xFF. -/
theorem opAllocated_opcodeOf {i : Instr} {op : Nat} (h : opcodeOf i = some op) : op < 255 ∧ opAllocated op = true := by
  cases i <;> cases h <;> decide

theorem beq_one_of_eq_toNat {n : Nat} {b : Bool} (h : n = b.toNat) : (n == 1) = b := by subst h; cases b <;> rfl

theorem toNat_lt_two_pow_one (b : Bool) : b.toNat < 2 ^ 1 := by cases b <;> decide

theorem encodeCtl_lt (c : Ctl) : encodeCtl c < 2 ^ 15 :=
  put_lt (by decide) c.stk.isLt <| put_lt (by decide) (toNat_lt_two_pow_one _) <| put_lt (by decide) (toNat_lt_two_pow_one _) <|
    put_lt (by decide) c.wtk.isLt <| put_lt (by decide) (toNat_lt_two_pow_one _) <|
      put_lt (by decide) (toNat_lt_two_pow_one _) (toNat_lt_two_pow_one _)

/-- The control half is read back (R82). -/
theorem decodeCtl_encodeCtl (c : Ctl) : decodeCtl (encodeCtl c) = c := by
  obtain ⟨stop, popp, popn, wtk, pushp, pushn, stk⟩ := c
  have hstk := stk.isLt
  have hwtk := wtk.isLt
  have hpushn := toNat_lt_two_pow_one pushn
  have hpushp := toNat_lt_two_pow_one pushp
  have hpopn := toNat_lt_two_pow_one popn
  have hpopp := toNat_lt_two_pow_one popp
  have hstop := toNat_lt_two_pow_one stop
  simp only [decodeCtl, encodeCtl, put, Ctl.mk.injEq, ← BitVec.toNat_inj, BitVec.toNat_ofNat]
  refine ⟨beq_one_of_eq_toNat ?_, beq_one_of_eq_toNat ?_, beq_one_of_eq_toNat ?_, ?_,
    beq_one_of_eq_toNat ?_, beq_one_of_eq_toNat ?_, ?_⟩ <;> omega

/-- A word laid out as operands, opcode, a bit 48 of 0 and control half is read as the well-formed instruction that the operands
stand for. -/
theorem decode_put {i : Instr} {op operands : Nat} {c : Ctl} (hfit : operands < 2 ^ 40)
    (hread : decodeOperands op c operands = some i) (hlt : op < 255) (halloc : opAllocated op = true) (hwf : i.wf = true) :
    decode (BitVec.ofNat 64 (put 40 operands (put 8 op (put 1 0 (encodeCtl c))))) = .ok i := by
  have hctl := encodeCtl_lt c
  have hback := decodeCtl_encodeCtl c
  generalize encodeCtl c = h at hctl hback
  have hnum : (BitVec.ofNat 64 (put 40 operands (put 8 op (put 1 0 h)))).toNat = operands + 2 ^ 40 * op + 2 ^ 49 * h := by
    rw [BitVec.toNat_ofNat, Nat.mod_eq_of_lt] <;> simp only [put] <;> omega
  unfold decode
  dsimp only
  rw [hnum, show (operands + 2 ^ 40 * op + 2 ^ 49 * h) / 2 ^ 40 % 256 = op by omega,
    show (operands + 2 ^ 40 * op + 2 ^ 49 * h) / 2 ^ 49 = h by omega,
    show (operands + 2 ^ 40 * op + 2 ^ 49 * h) % 2 ^ 40 = operands by omega, hback, hread, halloc, if_neg (by omega),
    if_neg (by decide), if_neg (by omega)]
  exact if_pos hwf

/-- Settles O57: the lemma of each instruction gives its operands back (`roundTrip_operands`), and `decode_put` reads the rest of the
word. -/
theorem roundTrip : Obligations.RoundTrip := by
  unfold Obligations.RoundTrip
  intro i hwf
  have hfamily := roundTrip_operands i
  unfold Laws.RoundTrip.Statement at hfamily
  cases hop : opcodeOf i with
  | none =>
    rw [hop] at hfamily
    exact ⟨nofun, fun _ => hfamily⟩
  | some op =>
    rw [hop] at hfamily
    obtain ⟨hfit, hread⟩ := hfamily
    obtain ⟨hlt, halloc⟩ := opAllocated_opcodeOf hop
    refine ⟨fun _ => ⟨_, ?_, decode_put hfit hread hlt halloc hwf⟩, nofun⟩
    unfold encode
    rw [hop]

end Sys2Proof.Machine

/-! PROOFS. Every step keeps the canonical form of the four memories: the meaning of each instruction and event keeps it
(Laws/MemExec.lean), and so do the turn of a context, a pair of X and the passing of time. -/

namespace Sys2Proof.Machine

open Sys2Proof

theorem memWf_exec {s : State} (h : s.MemWf) : ∀ i : Instr, OutcomeWf (exec i s)
  | .nop .. => memWf_execNop h ..
  | .add .. => memWf_execAdd h ..
  | .sub .. => memWf_execSub h ..
  | .mul .. => memWf_execMul h ..
  | .mulh .. => memWf_execMulh h ..
  | .div .. => memWf_execDiv h ..
  | .rem .. => memWf_execRem h ..
  | .addi .. => memWf_execAddi h ..
  | .and .. => memWf_execAnd h ..
  | .or .. => memWf_execOr h ..
  | .xor .. => memWf_execXor h ..
  | .andi .. => memWf_execAndi h ..
  | .ori .. => memWf_execOri h ..
  | .xori .. => memWf_execXori h ..
  | .shl .. => memWf_execShl h ..
  | .shr .. => memWf_execShr h ..
  | .sar .. => memWf_execSar h ..
  | .rol .. => memWf_execRol h ..
  | .min .. => memWf_execMin h ..
  | .max .. => memWf_execMax h ..
  | .cmp .. => memWf_execCmp h ..
  | .cmpi .. => memWf_execCmpi h ..
  | .csel .. => memWf_execCsel h ..
  | .limm .. => memWf_execLimm h ..
  | .clz .. => memWf_execClz h ..
  | .popc .. => memWf_execPopc h ..
  | .extr .. => memWf_execExtr h ..
  | .insr .. => memWf_execInsr h ..
  | .bswap .. => memWf_execBswap h ..
  | .muli .. => memWf_execMuli h ..
  | .br .. => memWf_execBr h ..
  | .jmpr .. => memWf_execJmpr h ..
  | .loop .. => memWf_execLoop h ..
  | .loopN .. => memWf_execLoopN h ..
  | .loopi .. => memWf_execLoopi h ..
  | .cqput .. => memWf_execCqput h ..
  | .cqget .. => memWf_execCqget h ..
  | .cqbr .. => memWf_execCqbr h ..
  | .tkinc .. => memWf_execTkinc h ..
  | .tkchk .. => memWf_execTkchk h ..
  | .mode .. => memWf_execMode h ..
  | .leave .. => memWf_execLeave h ..
  | .capr .. => memWf_execCapr h ..
  | .mfs .. => memWf_execMfs h ..
  | .mts .. => memWf_execMts h ..
  | .exit .. => memWf_execExit h ..
  | .brk .. => memWf_execBrk h ..
  | .sysc .. => memWf_execSysc h ..
  | .ldb .. => memWf_execLdb h ..
  | .ldh .. => memWf_execLdh h ..
  | .ldw .. => memWf_execLdw h ..
  | .ldd .. => memWf_execLdd h ..
  | .stb .. => memWf_execStb h ..
  | .sth .. => memWf_execSth h ..
  | .stw .. => memWf_execStw h ..
  | .std .. => memWf_execStd h ..
  | .vld .. => memWf_execVld h ..
  | .loadComplete .. => memWf_execLoadComplete h ..
  | .spld .. => memWf_execSpld h ..
  | .spst .. => memWf_execSpst h ..
  | .gath .. => memWf_execGath h ..
  | .scat .. => memWf_execScat h ..
  | .ldt .. => memWf_execLdt h ..
  | .ferry .. => memWf_execFerry h ..
  | .ferryTier .. => memWf_execFerryTier h ..
  | .ferryQ .. => memWf_execFerryQ h ..
  | .engineCmdComplete k x id => memWf_execEngineCmdComplete h k x id
  | .mark .. => memWf_execMark h ..
  | .fence .. => memWf_execFence h ..
  | .amo .. => memWf_execAmo h ..
  | .red .. => memWf_execRed h ..
  | .redApply k x id => memWf_execRedApply h k x id
  | .rclaimCfg .. => memWf_execRclaimCfg h ..
  | .rclaim .. => memWf_execRclaim h ..
  | .rfill .. => memWf_execRfill h ..
  | .rwaitf .. => memWf_execRwaitf h ..
  | .rwaite .. => memWf_execRwaite h ..
  | .rtake .. => memWf_execRtake h ..
  | .rfree .. => memWf_execRfree h ..
  | .msend .. => memWf_execMsend h ..
  | .msendGrant k x id => memWf_execMsendGrant h k x id
  | .mrecvCfg .. => memWf_execMrecvCfg h ..
  | .mrecv .. => memWf_execMrecv h ..
  | .mrecvNb .. => memWf_execMrecvNb h ..
  | .mqcred .. => memWf_execMqcred h ..
  | .stn .. => memWf_execStn h ..
  | .stnS .. => memWf_execStnS h ..
  | .stnNameReturn k x id => memWf_execStnNameReturn h k x id
  | .baddr .. => memWf_execBaddr h ..
  | .bshare .. => memWf_execBshare h ..
  | .rlq .. => memWf_execRlq h ..
  | .lbind .. => memWf_execLbind h ..
  | .lunbind .. => memWf_execLunbind h ..
  | .tspawn .. => memWf_execTspawn h ..
  | .tgraph .. => memWf_execTgraph h ..
  | .tyieldFront .. => memWf_execTyieldFront h ..
  | .tyieldPast .. => memWf_execTyieldPast h ..
  | .collAllred .. => memWf_execCollAllred h ..
  | .collRed .. => memWf_execCollRed h ..
  | .collBcast .. => memWf_execCollBcast h ..
  | .collBar .. => memWf_execCollBar h ..
  | .collContribution k x id => memWf_execCollContribution h k x id
  | .collDeadlineExpire .. => memWf_execCollDeadlineExpire h ..
  | .collMemberTimeout k x id => memWf_execCollMemberTimeout h k x id
  | .vadd .. => memWf_execVadd h ..
  | .vsub .. => memWf_execVsub h ..
  | .vmul .. => memWf_execVmul h ..
  | .vdiv .. => memWf_execVdiv h ..
  | .vmin .. => memWf_execVmin h ..
  | .vmax .. => memWf_execVmax h ..
  | .vfmaFp32 .. => memWf_execVfmaFp32 h ..
  | .vfmaBf16 .. => memWf_execVfmaBf16 h ..
  | .vfmaFp16 .. => memWf_execVfmaFp16 h ..
  | .vabs .. => memWf_execVabs h ..
  | .vneg .. => memWf_execVneg h ..
  | .vand .. => memWf_execVand h ..
  | .vor .. => memWf_execVor h ..
  | .vxor .. => memWf_execVxor h ..
  | .vshl .. => memWf_execVshl h ..
  | .vshr .. => memWf_execVshr h ..
  | .vaddi .. => memWf_execVaddi h ..
  | .vmuli .. => memWf_execVmuli h ..
  | .vsplatImm .. => memWf_execVsplatImm h ..
  | .vsplatReg .. => memWf_execVsplatReg h ..
  | .vcvt .. => memWf_execVcvt h ..
  | .vcmp .. => memWf_execVcmp h ..
  | .vsel32 .. => memWf_execVsel32 h ..
  | .vsel16 .. => memWf_execVsel16 h ..
  | .vsel8 .. => memWf_execVsel8 h ..
  | .vreds .. => memWf_execVreds h ..
  | .vredm .. => memWf_execVredm h ..
  | .vscan .. => memWf_execVscan h ..
  | .vsortcCount .. => memWf_execVsortcCount h ..
  | .vsortcOrder .. => memWf_execVsortcOrder h ..
  | .vsortcSlot .. => memWf_execVsortcSlot h ..
  | .vspselMask .. => memWf_execVspselMask h ..
  | .vspselMeta .. => memWf_execVspselMeta h ..
  | .vspselPack .. => memWf_execVspselPack h ..
  | .vrmsnFp32 .. => memWf_execVrmsnFp32 h ..
  | .vrmsnBf16 .. => memWf_execVrmsnBf16 h ..
  | .vact .. => memWf_execVact h ..
  | .vexp .. => memWf_execVexp h ..
  | .vexp2 .. => memWf_execVexp2 h ..
  | .vrcp .. => memWf_execVrcp h ..
  | .vrsq .. => memWf_execVrsq h ..
  | .vperm .. => memWf_execVperm h ..
  | .vlds .. => memWf_execVlds h ..
  | .vsts .. => memWf_execVsts h ..
  | .vqst .. => memWf_execVqst h ..
  | .vmov .. => memWf_execVmov h ..
  | .exadd .. => memWf_execExadd h ..
  | .exaddL .. => memWf_execExaddL h ..
  | .exrd .. => memWf_execExrd h ..
  | .exclr .. => memWf_execExclr h ..
  | .fqpush .. => memWf_execFqpush h ..
  | .fqmode .. => memWf_execFqmode h ..
  | .scw .. => memWf_execScw h ..
  | .ctwr .. => memWf_execCtwr h ..
  | .nestw .. => memWf_execNestw h ..
  | .tgo .. => memWf_execTgo h ..
  | .tgoG .. => memWf_execTgoG h ..
  | .tgoSp .. => memWf_execTgoSp h ..
  | .tileCmdHead .. => memWf_execTileCmdHead h ..
  | .tileCmdAccept .. => memWf_execTileCmdAccept h ..
  | .tileCmdComplete .. => memWf_execTileCmdComplete h ..
  | .accz .. => memWf_execAccz h ..
  | .accrd .. => memWf_execAccrd h ..
  | .accmov .. => memWf_execAccmov h ..
  | .accst .. => memWf_execAccst h ..
  | .accld .. => memWf_execAccld h ..
  | .lapp .. => memWf_execLapp h ..
  | .lappb .. => memWf_execLappb h ..
  | .lreadOrd .. => memWf_execLreadOrd h ..
  | .lreadExa .. => memWf_execLreadExa h ..
  | .lreadRungs .. => memWf_execLreadRungs h ..
  | .lfork .. => memWf_execLfork h ..
  | .ltruncLow .. => memWf_execLtruncLow h ..
  | .ltruncCkpt .. => memWf_execLtruncCkpt h ..
  | .ldrop .. => memWf_execLdrop h ..
  | .lstat .. => memWf_execLstat h ..
  | .ladderCmdComplete .. => memWf_execLadderCmdComplete h ..
  | .tapchk .. => memWf_execTapchk h ..
  | .tapchkBind .. => memWf_execTapchkBind h ..
  | .tapchkMask .. => memWf_execTapchkMask h ..
  | .vshort .. => memWf_execVshort h ..
  | .vsort .. => memWf_execVsort h ..
  | .vsortMerge .. => memWf_execVsortMerge h ..
  | .vsamp .. => memWf_execVsamp h ..
  | .vsampU .. => memWf_execVsampU h ..
  | .rngget .. => memWf_execRngget h ..
  | .rnggetPeek .. => memWf_execRnggetPeek h ..
  | .rngjmp .. => memWf_execRngjmp h ..
  | .gstep .. => memWf_execGstep h ..
  | .vgmask .. => memWf_execVgmask h ..
  | .gsave .. => memWf_execGsave h ..
  | .grest .. => memWf_execGrest h ..
  | .tokout .. => memWf_execTokout h ..
  | .wsw .. => memWf_execWsw h ..
  | .ptbw .. => memWf_execPtbw h ..
  | .ptbwH .. => memWf_execPtbwH h ..
  | .tlbiPg .. => memWf_execTlbiPg h ..
  | .tlbiBlk .. => memWf_execTlbiBlk h ..
  | .tlbiAll .. => memWf_execTlbiAll h ..
  | .quar .. => memWf_execQuar h ..
  | .slotw .. => memWf_execSlotw h ..
  | .bmapwFree .. => memWf_execBmapwFree h ..
  | .bmapwSet .. => memWf_execBmapwSet h ..
  | .halt .. => memWf_execHalt h ..
  | .resume .. => memWf_execResume h ..
  | .eret .. => memWf_execEret h ..
  | .ipi .. => memWf_execIpi h ..
  | .partw .. => memWf_execPartw h ..
  | .islw .. => memWf_execIslw h ..
  | .forcedStopPoint .. => memWf_execForcedStopPoint h ..
  | .deadlk .. => memWf_execDeadlk h ..
  | .tlbWalk .. => memWf_execTlbWalk h ..
  | .xlateService .. => memWf_execXlateService h ..
  | .pageMove .. => memWf_execPageMove h ..
  | .pageSupplyAnswer k x id page => memWf_execPageSupplyAnswer h k x id page
  | .holdWindowExpire .. => memWf_execHoldWindowExpire h ..
  | .migrationGo .. => memWf_execMigrationGo h ..
  | .hostDeviceWrite .. => memWf_execHostDeviceWrite h ..
  | .taskSelect .. => memWf_execTaskSelect h ..
  | .reservationRequest .. => memWf_execReservationRequest h ..
  | .coreRelease .. => memWf_execCoreRelease h ..
  | .raggedDistribute .. => memWf_execRaggedDistribute h ..
  | .coreStart .. => memWf_execCoreStart h ..
  | .coreDrainDone .. => memWf_execCoreDrainDone h ..
  | .taskCommit .. => memWf_execTaskCommit h ..
  | .supervisorResume .. => memWf_execSupervisorResume h ..
  | .supervisorReflect .. => memWf_execSupervisorReflect h ..
  | .supervisorEndFault .. => memWf_execSupervisorEndFault h ..
  | .preemptSave .. => memWf_execPreemptSave h ..
  | .scrubError .. => memWf_execScrubError h ..
  | .specdepthWrite .. => memWf_execSpecdepthWrite h ..
  | .vbquotaWrite .. => memWf_execVbquotaWrite h ..
  | .reddlWrite .. => memWf_execReddlWrite h ..
  | .ptbaseWrite .. => memWf_execPtbaseWrite h ..
  | .tqspareWrite .. => memWf_execTqspareWrite h ..
  | .schctlPre .. => memWf_execSchctlPre h ..
  | .schctlHold .. => memWf_execSchctlHold h ..
  | .registerWrite .. => memWf_execRegisterWrite h ..
  | .queueEnable .. => memWf_execQueueEnable h ..
  | .kick .. => memWf_execKick h ..
  | .entryFetch .. => memWf_execEntryFetch h ..
  | .frameBoundary .. => memWf_execFrameBoundary h ..
  | .wsRefreshWindow .. => memWf_execWsRefreshWindow h ..
  | .leaveGrant .. => memWf_execLeaveGrant h ..
  | .linkFlitRetry .. => memWf_execLinkFlitRetry h ..
  | .powerOn .. => memWf_execPowerOn h ..
  | .pcieFundamentalReset .. => memWf_execPcieFundamentalReset h ..
  | .bootctlCold .. => memWf_execBootctlCold h ..
  | .bootctlWarm .. => memWf_execBootctlWarm h ..
  | .stageTimeout .. => memWf_execStageTimeout h ..
  | .icarnColdReset .. => memWf_execIcarnColdReset h ..
  | .writeInFlightCompletes .. => memWf_execWriteInFlightCompletes h ..
  | .postedStorePerformed .. => memWf_execPostedStorePerformed h ..
  | .hostPortDown .. => memWf_execHostPortDown h ..
  | .linkStateChange .. => memWf_execLinkStateChange h ..
  | .islandPowerGating .. => memWf_execIslandPowerGating h ..
  | .landingProcessorWrite .. => memWf_execLandingProcessorWrite h ..

theorem State.memWf_undecoded {s : State} (h : s.MemWf) (w : Word) (e : DecodeError) : (s.undecoded w e).MemWf := by
  have hcycle := State.memWf_atCycle h (s.me.icycle + 1)
  unfold State.undecoded
  split
  · split
    · exact State.memWf_forceStop h ..
    · exact h
  · split
    · next hu => exact State.memWf_oldestCause (pre := none) hcycle (fun _ hr => nomatch hr) hu
    · split
      · exact State.memWf_stopHere h
      · exact State.memWf_trap h ..

theorem State.memWf_unpair {s : State} (h : s.MemWf) : s.unpair.MemWf := by
  unfold State.unpair
  split
  · exact State.memWf_updMe h _
  · exact h

theorem State.memWf_beside {s t : State} (h : t.MemWf) : (s.beside t).MemWf := State.memWf_updMe (State.memWf_updCur h _) _

theorem State.memWf_pairUp {s t : State} (hs : s.MemWf) (ht : t.MemWf) : OutcomeWf (s.pairUp t) := by
  unfold State.pairUp
  split
  · exact State.memWf_unpair ht
  · next i _ =>
    have hv := memWf_exec ht i
    split
    · next hu hv' =>
      rw [hv'] at hv
      repeat' split
      · exact hs
      · exact State.memWf_starve hs
      · exact State.memWf_block hs
      · exact State.memWf_unpair ht
      · exact hv
    · exact hv

theorem State.memWf_paired {s : State} {o : Host.Outcome State Fault Refusal} (hs : s.MemWf) (ho : OutcomeWf o) :
    OutcomeWf (s.paired o) := by
  cases o with
  | next t =>
    unfold State.paired
    dsimp only
    split
    · exact State.memWf_pairUp hs ho
    · exact ho
  | fault f => trivial
  | refused r => trivial

theorem State.memWf_act {s : State} (h : s.MemWf) : OutcomeWf s.act := by
  unfold State.act
  split
  · unfold State.fetch
    split
    · next heq =>
      split at heq
      · cases heq
        exact State.memWf_haltDone h _
      · split at heq
        · cases heq
        · cases heq
          exact State.memWf_undecoded h _ _
    · exact State.memWf_paired h (memWf_exec h _)
  · next i _ =>
    split
    · exact h
    · exact memWf_exec h i
  · exact State.memWf_inner h _

/-- Settles O58: what the turn does keeps the form (`State.memWf_act`), and time that passes touches no memory. -/
theorem stepKeepsMemWf : Obligations.StepKeepsMemWf := by
  unfold Obligations.StepKeepsMemWf
  intro s t h hstep
  have hact := State.memWf_act h
  unfold step at hstep
  cases ho : s.act with
  | next u =>
    rw [ho] at hstep hact
    cases hstep
    exact State.memWf_tick hact
  | fault f => rw [ho] at hstep; cases hstep
  | refused r => rw [ho] at hstep; cases hstep

end Sys2Proof.Machine

/-! PROOFS. What reset leaves, and words written out from the formats. -/

namespace Sys2Proof.Machine

open Sys2Proof

/-- At reset every partition is at its own reset. -/
theorem State.part_reset (p : Nat) : State.reset.part p = Part.reset := rfl

/-- At reset every launch queue is at its own reset. -/
theorem State.queue_reset (q : Nat) : State.reset.queue? q = LaunchQ.reset := rfl

/-- At reset every core is at its own reset. -/
theorem State.core_reset (k : Nat) : State.reset.core k = CoreSt.reset := rfl

/-- Settles O59: nothing is listed in the tables of `State.reset`, so that each entry reads as its own reset. -/
theorem resetHolds : Obligations.ResetHolds := by
  unfold Obligations.ResetHolds
  refine ⟨⟨rfl, rfl, rfl, rfl⟩, fun p => ?partitions, fun q => ?queues, ⟨rfl, rfl, rfl⟩, ⟨rfl, rfl, rfl, rfl, rfl, rfl, rfl⟩,
    fun i => rfl, fun l => rfl, rfl, fun k => ?cores⟩
  case partitions =>
    rw [State.part_reset]
    exact ⟨rfl, rfl, rfl, rfl, rfl, rfl, fun sel => rfl⟩
  case queues =>
    rw [State.queue_reset]
    exact ⟨rfl, rfl, rfl, rfl, rfl, rfl, rfl, rfl, rfl⟩
  case cores => rw [State.core_reset]; rfl

/-- Settles O60: the decoder evaluates each word. -/
theorem decodeWords : Obligations.DecodeWords := by
  unfold Obligations.DecodeWords
  refine ⟨?_, ?_, ?_, ?_, ?_, ?_, ?_, ?_, ?_, ?_, ?_, ?_, ?_, ?_, ?_, ?_, ?_, ?_⟩ <;> decide +kernel

end Sys2Proof.Machine

/-! PROOFS. When a step goes on (R11): a word always does, and an event unless it names a core that the device does not have. -/

namespace Sys2Proof.Machine

open Sys2Proof

/-- The outcome goes on to a next state. -/
def Goes (o : Host.Outcome State Fault Refusal) : Prop := ∃ t, o = .next t

theorem goes_next (t : State) : Goes (.next t) := ⟨t, rfl⟩

/-- A word goes on whatever stands in its way. -/
theorem State.goes_issue (s : State) (i : Instr) (j : Issue) : Goes (s.issue i j) := by
  unfold State.issue
  dsimp only
  repeat' split
  all_goals exact goes_next _

/-- The meaning of a word is an issue. -/
theorem exec_word (i : Instr) (h : (opcodeOf i).isSome = true) : ∃ j, ∀ s, exec i s = s.issue i j := by
  cases i <;> first | exact ⟨_, fun s => rfl⟩ | exact nomatch h

theorem goes_word {i : Instr} (h : (opcodeOf i).isSome = true) (s : State) : Goes (exec i s) := by
  obtain ⟨j, hj⟩ := exec_word i h
  rw [hj]
  exact s.goes_issue i j

theorem goes_event {i : Instr} (h : opcodeOf i = none) (s : State) (hcore : ∀ k, eventCore i = some k → k < 384) :
    Goes (exec i s) := by
  cases i <;> cases h
  all_goals
    simp only [exec, execLoadComplete, execEngineCmdComplete, execRedApply, execMsendGrant, execStnNameReturn,
      execCollContribution, execCollDeadlineExpire, execCollMemberTimeout, execTileCmdHead, execTileCmdAccept,
      execTileCmdComplete, execLadderCmdComplete, execForcedStopPoint, execDeadlk, execTlbWalk, execXlateService,
      execPageMove, execPageSupplyAnswer, execHoldWindowExpire, execMigrationGo, execHostDeviceWrite,
      execTaskSelect, execReservationRequest, execCoreRelease, execRaggedDistribute, execCoreStart,
      execCoreDrainDone, execTaskCommit, execSupervisorResume, execSupervisorReflect, execSupervisorEndFault,
      execPreemptSave, execScrubError, execSpecdepthWrite, execVbquotaWrite, execReddlWrite, execPtbaseWrite,
      execTqspareWrite, execSchctlPre, execSchctlHold, execRegisterWrite, execQueueEnable, execKick, execEntryFetch,
      execFrameBoundary, execWsRefreshWindow, execLeaveGrant, execLinkFlitRetry, execPowerOn,
      execPcieFundamentalReset, execBootctlCold, execBootctlWarm, execStageTimeout, execIcarnColdReset,
      execWriteInFlightCompletes, execPostedStorePerformed, execHostPortDown, execLinkStateChange,
      execIslandPowerGating, execLandingProcessorWrite]
    repeat' split
    all_goals first | exact goes_next _ | (have := hcore _ rfl; omega)

/-- An event that names a core above 383 is the fault that says so. -/
theorem exec_noSuchCore {i : Instr} {k : Nat} (hi : eventCore i = some k) (hk : 384 ≤ k) (s : State) :
    exec i s = .fault .noSuchCore := by
  cases i <;> cases hi <;> exact if_pos hk

/-- An instruction or event goes on, or faults at an event that names no core of the device. -/
theorem goes_exec (i : Instr) (s : State) :
    Goes (exec i s) ∨ (exec i s = .fault .noSuchCore ∧ ∃ k, eventCore i = some k ∧ 384 ≤ k) := by
  cases hop : opcodeOf i with
  | some op => exact .inl (goes_word (by rw [hop]; rfl) s)
  | none =>
    by_cases hcore : ∀ k, eventCore i = some k → k < 384
    · exact .inl (goes_event hop s hcore)
    · push Not at hcore
      obtain ⟨k, hi, hk⟩ := hcore
      exact .inr ⟨exec_noSuchCore hi hk s, k, hi, hk⟩

/-- What a decoder of operands gives, if anything, is a word. -/
def GivesWord (o : Option Instr) : Prop := ∀ i, o = some i → (opcodeOf i).isSome = true

theorem givesWord_none : GivesWord none := fun _ h => nomatch h

theorem givesWord_rend {w : Nat} {i : Instr} (h : (opcodeOf i).isSome = true) : GivesWord (rend w i) := by
  intro j hj
  obtain ⟨-, rfl⟩ := rend_eq_some.1 hj
  exact h

theorem givesWord_rd {n w : Nat} {k : BitVec n → Nat → Option Instr} (h : ∀ v r, GivesWord (k v r)) : GivesWord (rd n w k) := h _ _

theorem givesWord_rb {w : Nat} {k : Bool → Nat → Option Instr} (h : ∀ b r, GivesWord (k b r)) : GivesWord (rb w k) := h _ _

theorem givesWord_rk {n v w : Nat} {k : Nat → Option Instr} (h : ∀ r, GivesWord (k r)) : GivesWord (rk n v w k) :=
  fun i hi => h _ i (rk_eq_some.1 hi).2

theorem givesWord_rE {β : Type} {n w : Nat} {of : BitVec n → Option β} {k : β → Nat → Option Instr}
    (h : ∀ b r, GivesWord (k b r)) : GivesWord (rE of w k) := by
  unfold rE
  split
  · exact h _ _
  · exact givesWord_none

/-- The forms of an opcode are tried in turn. -/
theorem givesWord_orElse {a : Option Instr} {b : Unit → Option Instr} (ha : GivesWord a) (hb : GivesWord (b ())) :
    GivesWord (a.orElse b) := by
  cases a with
  | none => exact hb
  | some i => exact ha

set_option maxRecDepth 8000 in
/-- The decoder gives no event. -/
theorem givesWord_decodeOperands (op : Nat) (c : Ctl) (w : Nat) : GivesWord (decodeOperands op c w) := by
  unfold decodeOperands
  split
  any_goals exact givesWord_none
  all_goals
    delta decAccld decAccmov decAccrd decAccst decAccz decAdd decAddi decAmo decAnd decAndi decBaddr decBmapwFree
      decBmapwSet decBr decBrk decBshare decBswap decCapr decClz decCmp decCmpi decCollAllred decCollBar
      decCollBcast decCollRed decCqbr decCqget decCqput decCsel decCtwr decDiv decEret decExadd decExaddL decExclr
      decExit decExrd decExtr decFence decFerry decFerryQ decFerryTier decFqmode decFqpush decGath decGrest decGsave
      decGstep decHalt decInsr decIpi decIslw decJmpr decLapp decLappb decLbind decLdb decLdd decLdh decLdrop decLdt
      decLdw decLeave decLfork decLimm decLoop decLoopN decLoopi decLreadExa decLreadOrd decLreadRungs decLstat
      decLtruncCkpt decLtruncLow decLunbind decMark decMax decMfs decMin decMode decMqcred decMrecv decMrecvCfg
      decMrecvNb decMsend decMts decMul decMulh decMuli decNestw decNop decOr decOri decPartw decPopc decPtbw
      decPtbwH decQuar decRclaim decRclaimCfg decRed decRem decResume decRfill decRfree decRlq decRngget
      decRnggetPeek decRngjmp decRol decRtake decRwaite decRwaitf decSar decScat decScw decShl decShr decSlotw
      decSpld decSpst decStb decStd decSth decStn decStnS decStw decSub decSysc decTapchk decTapchkBind
      decTapchkMask decTgo decTgoG decTgoSp decTgraph decTkchk decTkinc decTlbiAll decTlbiBlk decTlbiPg decTokout
      decTspawn decTyieldFront decTyieldPast decVabs decVact decVadd decVaddi decVand decVcmp decVcvt decVdiv
      decVexp decVexp2 decVfmaBf16 decVfmaFp16 decVfmaFp32 decVgmask decVld decVlds decVmax decVmin decVmov decVmul
      decVmuli decVneg decVor decVperm decVqst decVrcp decVredm decVreds decVrmsnBf16 decVrmsnFp32 decVrsq decVsamp
      decVsampU decVscan decVsel16 decVsel32 decVsel8 decVshl decVshort decVshr decVsort decVsortMerge
      decVsortcCount decVsortcOrder decVsortcSlot decVsplatImm decVsplatReg decVspselMask decVspselMeta
      decVspselPack decVsts decVsub decVxor decWsw decXor decXori
    repeat' first
      | with_reducible exact givesWord_rend rfl
      | with_reducible refine givesWord_rd fun _ _ => ?_
      | with_reducible refine givesWord_rk fun _ => ?_
      | with_reducible refine givesWord_rb fun _ _ => ?_
      | with_reducible refine givesWord_rE fun _ _ => ?_
      | with_reducible refine givesWord_orElse ?_ ?_

/-- A decoded instruction is a word. -/
theorem opcodeOf_isSome_of_decode {w : Word} {i : Instr} (h : decode w = .ok i) : (opcodeOf i).isSome = true := by
  unfold decode at h
  dsimp only at h
  split at h
  · cases h
  split at h
  · cases h
  split at h
  · cases h
  split at h
  · next j hj =>
    split at h
    · cases h
      exact givesWord_decodeOperands _ _ _ _ hj
    · cases h
  · cases h

theorem State.opcodeOf_isSome_of_fetch {s : State} {i : Instr} (h : s.fetch = .word i) : (opcodeOf i).isSome = true := by
  unfold State.fetch at h
  split at h
  · cases h
  split at h
  · next hd =>
    cases h
    exact opcodeOf_isSome_of_decode hd
  · cases h

theorem State.opcodeOf_isSome_of_second {t : State} {i : Instr} (h : t.second? = some i) : (opcodeOf i).isSome = true := by
  unfold State.second? at h
  repeat' split at h
  all_goals cases h
  next hd _ => exact opcodeOf_isSome_of_decode hd

/-- A pair of X goes on. -/
theorem State.goes_pairUp (s t : State) : Goes (s.pairUp t) := by
  unfold State.pairUp
  split
  · exact goes_next _
  · next i hi =>
    have hword := State.opcodeOf_isSome_of_second hi
    obtain ⟨u, hu⟩ := goes_word hword (s.beside t)
    obtain ⟨v, hv⟩ := goes_word hword t
    rw [hu, hv]
    dsimp only
    repeat' split
    all_goals exact goes_next _

theorem State.goes_paired {s : State} {o : Host.Outcome State Fault Refusal} (h : Goes o) : Goes (s.paired o) := by
  obtain ⟨t, rfl⟩ := h
  unfold State.paired
  dsimp only
  split
  · exact s.goes_pairUp t
  · exact goes_next _

/-- A turn goes on but at an event that names no core of the device. -/
theorem State.goes_act (s : State) :
    Goes s.act ∨ (s.act = .fault .noSuchCore ∧ ∃ i k, s.turn = .event i ∧ eventCore i = some k ∧ 384 ≤ k) := by
  unfold State.act
  cases hturn : s.turn with
  | issue =>
    dsimp only
    split
    · exact .inl (goes_next _)
    · next hf => exact .inl (State.goes_paired (goes_word (State.opcodeOf_isSome_of_fetch hf) s))
  | event i =>
    dsimp only
    split
    · exact .inl (goes_next _)
    · rcases goes_exec i s with h | ⟨h, k, hi, hk⟩
      · exact .inl h
      · exact .inr ⟨h, i, k, rfl, hi, hk⟩
  | inner a => exact .inl (goes_next _)

/-- Settles O55: `exec_noSuchCore` for the events, and `State.goes_act` for the step. -/
theorem stepStopsOnlyAtNoCore : Obligations.StepStopsOnlyAtNoCore := by
  unfold Obligations.StepStopsOnlyAtNoCore
  refine ⟨fun i s k hi hk => exec_noSuchCore hi hk s, fun s => ?_⟩
  unfold step
  rcases s.goes_act with ⟨t, ht⟩ | ⟨hfault, hcore⟩
  · rw [ht]
    exact .inl ⟨t.tick, rfl⟩
  · rw [hfault]
    exact .inr ⟨rfl, hcore⟩

end Sys2Proof.Machine

/-! PROOFS. What a step runs (R57, R59, R70, R72, R84, R87). -/

namespace Sys2Proof.Machine

open Sys2Proof

/-- A running context fetches the word at its program counter. -/
theorem State.fetch_word {s : State} {i : Instr} (hrun : s.me.run = .running) (hd : decode s.wordAtPc = .ok i) :
    s.fetch = .word i := by
  unfold State.fetch
  rw [if_neg (not_not.2 hrun), hd]

theorem State.fetch_undecoded {s : State} {e : DecodeError} (hrun : s.me.run = .running) (hd : decode s.wordAtPc = .error e) :
    s.fetch = .done (s.undecoded s.wordAtPc e) := by
  unfold State.fetch
  rw [if_neg (not_not.2 hrun), hd]

/-- An issue turn runs the word at the program counter. -/
theorem step_word {s t : State} {i : Instr} (hturn : s.turn = .issue) (hrun : s.me.run = .running)
    (hd : decode s.wordAtPc = .ok i) (hexec : exec i s = .next t) :
    step s = tickAfter (if s.who.ctx = .X then s.pairUp t else .next t) := by
  unfold step State.act
  rw [hturn]
  dsimp only
  rw [State.fetch_word hrun hd]
  dsimp only
  rw [hexec]
  rfl

theorem step_event {s : State} {i : Instr} (hturn : s.turn = .event i) (hop : opcodeOf i = none) :
    step s = tickAfter (exec i s) := by
  unfold step State.act
  rw [hturn]
  dsimp only
  rw [hop]
  rfl

theorem step_inner {s : State} {a : Inner} (hturn : s.turn = .inner a) : step s = .next (after (s.inner a)) := by
  unfold step State.act
  rw [hturn]
  rfl

/-- The second word of a pair, where there is one, issues or holds the pair back. -/
theorem State.pairUp_second {s t u v : State} {j : Instr} (hj : t.second? = some j) (hu : exec j (s.beside t) = .next u)
    (hv : exec j t = .next v) :
    (u.heldBack = .hold → s.pairUp t = .next s) ∧ (u.heldBack = .starve → s.pairUp t = .next s.starve) ∧
      (u.heldBack = .block → s.pairUp t = .next s.block) ∧
      (u.heldBack = .go → s.pairUp t = if v.me.pair.isSome then .next t.unpair else .next v) := by
  unfold State.pairUp
  rw [hj]
  dsimp only
  rw [hu, hv]
  dsimp only
  refine ⟨?_, ?_, ?_, ?_⟩ <;> (intro hheld; rw [hheld])

theorem State.pairUp_single {s t : State} (h : t.second? = none) : s.pairUp t = .next t.unpair := by
  unfold State.pairUp
  rw [h]

/-- A word that does not decode traps, where no forced STOP point, no attached cause and no stop comes first. -/
theorem State.undecoded_traps {s : State} {w : Word} {e : DecodeError} (hforced : s.me.nonStop ≠ 48 ∨ bitOf w 63 = true)
    (hattached : (s.atCycle (s.me.icycle + 1)).me.attached = [])
    (hstop : s.cur.mustStop = false ∨ (s.me.blocked = false ∧ s.me.forced = false ∧ bitOf w 63 = false)) :
    s.undecoded w e = s.trap w (s.decodeTrap w e) := by
  have hdue : s.me.forcedDue (bitOf w 63) = false := by
    rcases hforced with h | h <;> simp [CtxSt.forcedDue, h]
  have hcause : (s.atCycle (s.me.icycle + 1)).oldestCause none = none := by simp [State.oldestCause, hattached]
  have hhere : s.stopsHere (bitOf w 63) = false := by
    rcases hstop with h | ⟨hb, hf, hw⟩
    · simp [State.stopsHere, h]
    · simp [State.stopsHere, hb, hf, hw]
  simp [State.undecoded, hdue, hcause, hhere]

/-- Settles O54: the turn of a context is `step_word`, with `State.pairUp_single` and `State.pairUp_second` for X, and
`State.undecoded_traps` for a word that does not decode. -/
theorem stepRunsDecoded : Obligations.StepRunsDecoded := by
  unfold Obligations.StepRunsDecoded
  refine ⟨?word, ?undecoded, ?event, ?fault, fun s a => step_inner⟩
  case word =>
    intro s i t hturn hrun hd hexec
    have hstep := step_word hturn hrun hd hexec
    refine ⟨fun hx => ?_, fun hx hsecond => ?_, fun j u v hx hj hu hv => ?_⟩
    · rw [hstep, if_neg hx]
      rfl
    · rw [hstep, if_pos hx, State.pairUp_single hsecond]
      rfl
    · rw [if_pos hx] at hstep
      obtain ⟨hhold, hstarve, hblock, hgo⟩ := State.pairUp_second (s := s) hj hu hv
      refine ⟨fun h => ?_, fun h => ?_, fun h => ?_, fun h hp => ?_, fun h hp => ?_⟩
      · rw [hstep, hhold h]; rfl
      · rw [hstep, hstarve h]; rfl
      · rw [hstep, hblock h]; rfl
      · rw [hstep, hgo h, if_neg (by rw [hp]; decide)]; rfl
      · rw [hstep, hgo h, if_pos (Option.isSome_iff_ne_none.2 hp)]; rfl
  case undecoded =>
    intro s e hturn hrun hforced hattached hstop hd
    refine ⟨_, ?_, rfl⟩
    unfold step State.act
    rw [hturn]
    dsimp only
    rw [State.fetch_undecoded hrun hd, ← State.undecoded_traps (e := e) hforced hattached hstop]
    rfl
  case event =>
    intro s i t hturn hop hexec
    rw [step_event hturn hop, hexec]
    rfl
  case fault =>
    intro s i f hturn hop hexec
    rw [step_event hturn hop, hexec]
    rfl

end Sys2Proof.Machine

/-! PROOFS. The registers of the partitions (R366, R369, R379): every operation that a word can set off keeps them but the write of
PARTW. -/

namespace Sys2Proof.Machine

open Sys2Proof

/-- The registers of every partition. -/
def State.partRegs (s : State) (p sel : Nat) : Word := (s.part p).reg sel

theorem State.partRegs_foldl {α : Type} (f : State → α → State) (hf : ∀ s a, (f s a).partRegs = s.partRegs) (l : List α) (s : State) :
    (l.foldl f s).partRegs = s.partRegs := by
  induction l generalizing s with
  | nil => rfl
  | cons a l ih => rw [List.foldl_cons, ih, hf]

/-- A change of a partition that keeps its registers. -/
theorem State.partRegs_updPart (s : State) (p : Nat) (f : Part → Part) (hf : ∀ q, (f q).regs = q.regs) :
    (s.updPart p f).partRegs = s.partRegs := by
  funext q sel
  show (Sparse.get Part.reset (Sparse.put s.parts p (f (s.part p))) q).reg sel = _
  rw [Sparse.get_put]
  split
  · next h => subst h; unfold Part.reg; rw [hf]; rfl
  · rfl

theorem Sparse.get_map {α : Type} (d : α) (f : α → α) (hd : f d = d) (m : Sparse α) (j : Nat) :
    Sparse.get d (m.map fun e => (e.1, f e.2)) j = f (Sparse.get d m j) := by
  induction m with
  | nil => exact hd.symm
  | cons e r ih =>
    obtain ⟨k, v⟩ := e
    simp only [List.map_cons, Sparse.get]
    split
    · rfl
    · exact ih

/-- A change of every partition that keeps its registers. -/
theorem State.partRegs_mapParts (s : State) (f : Part → Part) (hf : ∀ q, (f q).regs = q.regs) (hd : f .reset = .reset) :
    ({ s with parts := s.parts.map fun (e : Nat × Part) => (e.1, f e.2) } : State).partRegs = s.partRegs := by
  funext q sel
  show (Sparse.get Part.reset (s.parts.map fun (e : Nat × Part) => (e.1, f e.2)) q).reg sel = _
  rw [Sparse.get_map _ _ hd]
  unfold Part.reg
  rw [hf]
  rfl

theorem State.partRegs_lpInts (s : State) (l : List (Nat × Nat)) : ({ s with lpInts := l } : State).partRegs = s.partRegs := rfl

@[simp] theorem State.partRegs_ite {p : Prop} [Decidable p] (a b : State) :
    (if p then a else b).partRegs = if p then a.partRegs else b.partRegs := apply_ite State.partRegs p a b

/-! ### Cores, tasks and memories -/

@[simp] theorem State.partRegs_setCore (s : State) (k c) : (s.setCore k c).partRegs = s.partRegs := rfl

@[simp] theorem State.partRegs_updCore (s : State) (k c) : (s.updCore k c).partRegs = s.partRegs := rfl

@[simp] theorem State.partRegs_updCtx (s : State) (k x c) : (s.updCtx k x c).partRegs = s.partRegs := rfl

@[simp] theorem State.partRegs_updCur (s : State) (c) : (s.updCur c).partRegs = s.partRegs := rfl

@[simp] theorem State.partRegs_updMe (s : State) (c) : (s.updMe c).partRegs = s.partRegs := rfl

@[simp] theorem State.partRegs_setTask (s : State) (c) : (s.setTask c).partRegs = s.partRegs := rfl

@[simp] theorem State.partRegs_updTask (s : State) (q : Nat) (f : Task → Task) : (s.updTask q f).partRegs = s.partRegs := by
  unfold State.updTask
  repeat' split
  all_goals simp

@[simp] theorem State.partRegs_forCores (s : State) (ks : List Nat) (f : CoreSt → CoreSt) :
    (s.forCores ks f).partRegs = s.partRegs := by
  unfold State.forCores
  exact State.partRegs_foldl _ (fun s k => by simp) _ s

@[simp] theorem State.partRegs_setGran (s : State) (stack g : Nat) (v : Gran) : (s.setGran stack g v).partRegs = s.partRegs := rfl

@[simp] theorem State.partRegs_shareRun (s : State) (b : Berth) (f : Nat → Nat) : (s.shareRun b f).partRegs = s.partRegs := by
  unfold State.shareRun
  exact State.partRegs_foldl (fun s i => s.setGran b.stack _ _) (fun _ _ => rfl) _ s

@[simp] theorem State.partRegs_shareName (s : State) (w : Word) : (s.shareName w).partRegs = s.partRegs := by
  unfold State.shareName
  repeat' split
  all_goals simp

@[simp] theorem State.partRegs_relinquish (s : State) (w : Word) : (s.relinquish w).partRegs = s.partRegs := by
  unfold State.relinquish
  repeat' split
  all_goals simp

@[simp] theorem State.partRegs_freeName (s : State) (w : Word) : (s.freeName w).partRegs = s.partRegs := by
  unfold State.freeName
  repeat' split
  all_goals simp

@[simp] theorem State.partRegs_putBytes (s : State) (space a : Nat) (bs : List Byte) :
    (s.putBytes space a bs).partRegs = s.partRegs := by
  unfold State.putBytes
  dsimp only
  split <;> rfl

@[simp] theorem State.partRegs_segWord (s : State) (pa v : Nat) : (s.segWord pa v).partRegs = s.partRegs := by
  simp [State.segWord]

@[simp] theorem State.partRegs_writeChain (s : State) (l : List Seg) : (s.writeChain l).partRegs = s.partRegs := by
  induction l generalizing s with
  | nil => rfl
  | cons g r ih => simp [State.writeChain, ih]

/-! ### Aborts (R298, R299) -/

@[simp] theorem State.partRegs_reclaim (s : State) (p : Nat) (g : Seg) : (s.reclaim p g).partRegs = s.partRegs := by
  unfold State.reclaim
  split
  · rfl
  · simp [State.partRegs_updPart]

@[simp] theorem State.partRegs_dropEntry (s : State) (p q : Nat) : (s.dropEntry p q).partRegs = s.partRegs := by
  unfold State.dropEntry
  split
  · rfl
  · simp [State.partRegs_updPart]

@[simp] theorem State.partRegs_discard (s : State) (t : Task) : (s.discard t).partRegs = s.partRegs := by
  have hdrop : ∀ v : State, v.partRegs = s.partRegs →
      (t.shares.foldl (fun s w => s.relinquish w) (t.berths.foldl (fun s w => s.freeName w) v)).partRegs = s.partRegs := by
    intro v hv
    rw [State.partRegs_foldl _ (fun s w => by simp), State.partRegs_foldl _ (fun s w => by simp), hv]
  unfold State.discard
  rw [State.partRegs_forCores]
  split
  · rw [State.partRegs_updPart]
    · exact hdrop _ rfl
    · exact fun _ => rfl
  · exact hdrop _ rfl

@[simp] theorem State.partRegs_requeue (s : State) (t : Task) (remove : Bool) : (s.requeue t remove).partRegs = s.partRegs := by
  unfold State.requeue
  split
  · exact State.partRegs_dropEntry s t.part t.seq
  · rfl

@[simp] theorem State.partRegs_abortOne (s : State) (a : List Nat) (q : Nat) : (s.abortOne a q).partRegs = s.partRegs := by
  unfold State.abortOne
  split <;> simp

@[simp] theorem State.partRegs_abort (s : State) (q : Nat) : (s.abort q).partRegs = s.partRegs := by
  unfold State.abort
  dsimp only
  refine (State.partRegs_mapParts _ (fun p => { p with waiting := p.waiting.filter _ }) (fun _ => rfl) rfl).trans ?_
  exact State.partRegs_foldl _ (fun s i => by simp) _ s

@[simp] theorem State.partRegs_abortAll (s : State) (qs : List Nat) : (s.abortAll qs).partRegs = s.partRegs := by
  unfold State.abortAll
  exact State.partRegs_foldl _ (fun s i => by simp) _ s

/-! ### Writes of memory and the fault log (R296, R406) -/

@[simp] theorem State.partRegs_poke (s : State) (space a : Nat) (bs : List Byte) : (s.poke space a bs).partRegs = s.partRegs := by
  unfold State.poke
  dsimp only
  generalize (if space = 0 then _ else _ : List Nat) = hit
  split
  · exact State.partRegs_putBytes ..
  · exact State.partRegs_putBytes s space a bs

@[simp] theorem State.partRegs_outsideWrite (s : State) (space a : Nat) (bs : List Byte) :
    (s.outsideWrite space a bs).partRegs = s.partRegs := by
  simp [State.outsideWrite]

@[simp] theorem State.partRegs_partWrite (s : State) (p space a : Nat) (bs : List Byte) :
    (s.partWrite p space a bs).partRegs = s.partRegs := by
  simp [State.partWrite]

@[simp] theorem State.partRegs_logAt (s : State) (die : Nat) (r : FaultRecord) : (s.logAt die r).partRegs = s.partRegs := by
  unfold State.logAt
  dsimp only
  rw [State.partRegs_lpInts, State.partRegs_updPart]
  · split <;> simp
  · exact fun _ => rfl

@[simp] theorem State.partRegs_log (s : State) (r : FaultRecord) : (s.log r).partRegs = s.partRegs := by
  simp [State.log]

/-! ### Landing, retirement and causes (R66, R73, R401) -/

@[simp] theorem State.partRegs_incTkFrom (s : State) (die k n amount : Nat) (flag : Bool) (r : FaultRecord) :
    (s.incTkFrom die k n amount flag r).partRegs = s.partRegs := by
  unfold State.incTkFrom
  dsimp only
  repeat' split
  all_goals simp

@[simp] theorem State.partRegs_incTk (s : State) (k n amount : Nat) (flag : Bool) (r : FaultRecord) :
    (s.incTk k n amount flag r).partRegs = s.partRegs := by
  simp [State.incTk]

@[simp] theorem State.partRegs_attach (s : State) (k : Nat) (x : Ctx) (t : Trap) (eng : Bool) (pos : Nat) (w : Word) :
    (s.attach k x t eng pos w).partRegs = s.partRegs := by
  simp [State.attach]

@[simp] theorem State.partRegs_landOne (s : State) (k : Nat) (x : Ctx) (f : Flight) : (s.landOne k x f).partRegs = s.partRegs := by
  unfold State.landOne
  dsimp only
  repeat' split
  all_goals simp

@[simp] theorem State.partRegs_landWhere (s : State) (k : Nat) (x : Ctx) (p : Flight → Bool) :
    (s.landWhere k x p).partRegs = s.partRegs := by
  unfold State.landWhere
  dsimp only
  rw [State.partRegs_foldl _ (fun s f => by simp)]
  rfl

@[simp] theorem State.partRegs_drain (s : State) (k : Nat) (x : Ctx) : (s.drain k x).partRegs = s.partRegs := by
  simp [State.drain]

@[simp] theorem State.partRegs_release (s : State) (k : Nat) (x : Ctx) (g : Sig) : (s.release k x g).partRegs = s.partRegs := by
  unfold State.release
  dsimp only
  repeat' split
  all_goals simp

@[simp] theorem State.partRegs_releaseWid (s : State) (k : Nat) (x : Ctx) (wid : Nat) :
    (s.releaseWid k x wid).partRegs = s.partRegs := by
  unfold State.releaseWid
  exact State.partRegs_foldl _ (fun s g => by split <;> simp) _ s

@[simp] theorem State.partRegs_unhold (s : State) (k : Nat) (x : Ctx) (wid : Nat) : (s.unhold k x wid).partRegs = s.partRegs := by
  unfold State.unhold
  simp

@[simp] theorem State.partRegs_park (s : State) (t : Task) (r : FaultRecord) : (s.park t r).partRegs = s.partRegs := by
  simp [State.park]

@[simp] theorem State.partRegs_takeCause (s : State) (k : Nat) (x : Ctx) (r : FaultRecord) (deferrable : Bool) :
    (s.takeCause k x r deferrable).partRegs = s.partRegs := by
  unfold State.takeCause
  dsimp only
  repeat' split
  all_goals simp

@[simp] theorem State.partRegs_trap (s : State) (w : Word) (t : Trap) : (s.trap w t).partRegs = s.partRegs := by
  simp [State.trap]

@[simp] theorem State.partRegs_takeAttached (s : State) (r : FaultRecord) (rest : List FaultRecord) :
    (s.takeAttached r rest).partRegs = s.partRegs := by
  simp [State.takeAttached]

theorem State.partRegs_oldestCause {s u : State} {pre : Option (FaultRecord × State)} (hpre : ∀ r, pre = some r → r.2.partRegs = s.partRegs)
    (h : s.oldestCause pre = some u) : u.partRegs = s.partRegs := by
  unfold State.oldestCause at h
  dsimp only at h
  split at h <;> cases h
  · split
    · rw [State.partRegs_takeCause, hpre _ rfl]
    · rw [State.partRegs_takeAttached]
  · rw [State.partRegs_takeAttached]
  · rw [State.partRegs_takeCause, hpre _ rfl]

@[simp] theorem State.partRegs_atCycle (s : State) (n : Nat) : (s.atCycle n).partRegs = s.partRegs := by
  unfold State.atCycle
  repeat' split
  all_goals simp

@[simp] theorem State.partRegs_block (s : State) : (s.block).partRegs = s.partRegs := by
  simp [State.block]

@[simp] theorem State.partRegs_starve (s : State) : (s.starve).partRegs = s.partRegs := by
  unfold State.starve
  simp

@[simp] theorem State.partRegs_forceStop (s : State) (k : Nat) (x : Ctx) : (s.forceStop k x).partRegs = s.partRegs := by
  unfold State.forceStop
  simp

@[simp] theorem State.partRegs_pay (s : State) (ctl : Ctl) (j : Issue) (n : Nat) : (s.pay ctl j n).partRegs = s.partRegs := by
  unfold State.pay
  dsimp only
  repeat' split
  all_goals simp

@[simp] theorem State.partRegs_stall (s : State) (ctl : Ctl) (j : Issue) (w : Wait) : (s.stall ctl j w).partRegs = s.partRegs := by
  unfold State.stall
  repeat' split
  all_goals simp

@[simp] theorem State.partRegs_haltDone (s : State) (k : Nat) : (s.haltDone k).partRegs = s.partRegs := by
  unfold State.haltDone
  dsimp only
  split
  · rw [State.partRegs_foldl _ (fun s m => by simp)]
    simp
  · rfl

@[simp] theorem State.partRegs_stopHere (s : State) : (s.stopHere).partRegs = s.partRegs := by
  unfold State.stopHere
  dsimp only
  (repeat' split) <;> simp

/-! ### Effects of words -/

@[simp] theorem State.partRegs_inFlight (s : State) (wid lat : Nat) (l : Landing) : (s.inFlight wid lat l).partRegs = s.partRegs := by
  simp [State.inFlight]

@[simp] theorem State.partRegs_result (s : State) (wid lat : Nat) (x : Reg) (v : Word) :
    (s.result wid lat x v).partRegs = s.partRegs := by
  unfold State.result
  repeat' split
  all_goals simp

@[simp] theorem State.partRegs_setSpecial (s : State) (sel : Nat) (v : Word) : (s.setSpecial sel v).partRegs = s.partRegs := by
  unfold State.setSpecial
  repeat' split
  all_goals simp

@[simp] theorem State.partRegs_note (s : State) (k : Nat) (ns : List ReadEnt) : (s.note k ns).partRegs = s.partRegs := by
  unfold State.note
  repeat' split
  all_goals simp

@[simp] theorem State.partRegs_sequence (s : State) (a : Nat) (bs : List Byte) (k : Nat) (x : Ctx) (wid p va : Nat) :
    (s.sequence a bs k x wid p va).partRegs = s.partRegs := rfl

@[simp] theorem State.partRegs_requestLeave (s : State) (k n : Nat) (h : Heavy) : (s.requestLeave k n h).partRegs = s.partRegs := rfl

@[simp] theorem State.partRegs_devWrite (s : State) (k : Nat) (x : Ctx) (wid : Nat) (own : Bool) (l : Loc) (va : Nat) (bs : List Byte) :
    (s.devWrite k x wid own l va bs).partRegs = s.partRegs := by
  unfold State.devWrite
  dsimp only
  repeat' split
  all_goals simp

@[simp] theorem State.partRegs_enqueue (s : State) (wid : Nat) (op : AccOp) (ea : Word) :
    (s.enqueue wid op ea).partRegs = s.partRegs := by
  simp [State.enqueue]

@[simp] theorem State.partRegs_ringResult (s : State) (wid : Nat) (xd : Reg) (r : Option Ring) (f : Ring → Word) :
    (s.ringResult wid xd r f).partRegs = s.partRegs := by
  unfold State.ringResult
  repeat' split
  all_goals simp

@[simp] theorem State.partRegs_mqTake (s : State) (wid : Nat) (xd : Reg) (mq : BitVec 2) :
    (s.mqTake wid xd mq).partRegs = s.partRegs := by
  simp [State.mqTake]

@[simp] theorem State.partRegs_popSrcs (s : State) (vs : List VSrc) : (s.popSrcs vs).partRegs = s.partRegs := by
  unfold State.popSrcs
  exact State.partRegs_foldl _ (fun s e => by simp) _ s

@[simp] theorem State.partRegs_pushOne (s : State) (wid lat j : Nat) (vd : QName) (e : Elem) :
    (s.pushOne wid lat j vd e).partRegs = s.partRegs := by
  unfold State.pushOne
  dsimp only
  repeat' split
  all_goals simp

@[simp] theorem State.partRegs_pushAll (s : State) (wid lat : Nat) (vd : QName) (es : List Elem) :
    (s.pushAll wid lat vd es).partRegs = s.partRegs := by
  unfold State.pushAll
  exact State.partRegs_foldl _ (fun s e => by simp) _ s

@[simp] theorem State.partRegs_owe (s : State) (wid lat : Nat) (f : BitVec 3) : (s.owe wid lat f).partRegs = s.partRegs := by
  unfold State.owe
  repeat' split
  all_goals simp

@[simp] theorem State.partRegs_winPush (s : State) (wid : Nat) (op : MatOp) (w : Win) :
    (s.winPush wid op w).partRegs = s.partRegs := by
  unfold State.winPush
  dsimp only
  repeat' split
  all_goals simp

@[simp] theorem State.partRegs_pushEng (s : State) (c : EngCmd) : (s.pushEng c).partRegs = s.partRegs := by
  simp [State.pushEng]

@[simp] theorem State.partRegs_updEng (s : State) (k id : Nat) (f : EngCmd → EngCmd) : (s.updEng k id f).partRegs = s.partRegs := by
  simp [State.updEng]

@[simp] theorem State.partRegs_collVerdict (s : State) (cause : Cause) (info : Nat) (x : Contrib) :
    (s.collVerdict cause info x).partRegs = s.partRegs := by
  unfold State.collVerdict
  repeat' split
  all_goals simp

@[simp] theorem State.partRegs_collFail (s : State) (p g n : Nat) (test : Nat → EngCmd → Bool) :
    (s.collFail p g n test).partRegs = s.partRegs := by
  unfold State.collFail
  exact State.partRegs_foldl _ (fun s c => State.partRegs_foldl _ (fun s e => by simp) _ s) _ s

@[simp] theorem State.partRegs_putColl (s : State) (d : Coll) : (s.putColl d).partRegs = s.partRegs := by
  rfl

@[simp] theorem State.partRegs_collDouble (s : State) (k : Nat) (first e : EngCmd) (form : Nat) :
    (s.collDouble k first e form).partRegs = s.partRegs := by
  unfold State.collDouble
  dsimp only
  repeat' split
  all_goals simp

@[simp] theorem State.partRegs_settleScratch (s : State) : (s.settleScratch).partRegs = s.partRegs := by
  unfold State.settleScratch
  simp

@[simp] theorem State.partRegs_pushGen (s : State) (wid : Nat) (op : GenOp) (vd : QName) (ctl chunk : Elem) :
    (s.pushGen wid op vd ctl chunk).partRegs = s.partRegs := by
  unfold State.pushGen
  dsimp only
  repeat' split
  all_goals simp

@[simp] theorem State.partRegs_shoot (s : State) (p : Nat) (d : Shoot) : (s.shoot p d).partRegs = s.partRegs := rfl

end Sys2Proof.Machine

namespace Sys2Proof.Machine

open Sys2Proof

/-! ### Creations and their answers, and what the registers of a partition's scheduler set off -/

@[simp] theorem State.partRegs_enterQueue (s : State) (t : Task) : (s.enterQueue t).partRegs = s.partRegs := by
  unfold State.enterQueue
  dsimp only
  split
  · rfl
  · next g _ =>
    rw [State.partRegs_putBytes, State.partRegs_segWord]
    exact State.partRegs_updPart s t.part
      (fun v => { v with segs := updFirst (fun x => x.pa == g.pa) (fun x => { x with used := x.used ++ [s.nextSeq] }) v.segs })
      fun _ => rfl

@[simp] theorem State.partRegs_takeSpare (s : State) (p q pa : Nat) : (s.takeSpare p q pa).partRegs = s.partRegs := by
  unfold State.takeSpare
  rw [State.partRegs_writeChain]
  exact State.partRegs_updPart s _ _ fun _ => rfl

@[simp] theorem State.partRegs_updQueue (s : State) (q : Nat) (f : LaunchQ → LaunchQ) : (s.updQueue q f).partRegs = s.partRegs := rfl

@[simp] theorem State.partRegs_raiseVec (s : State) (q : Nat) : (s.raiseVec q).partRegs = s.partRegs := rfl

@[simp] theorem State.partRegs_completionRecord (s : State) (q : Nat) (tag : Word) (irq : Bool) (seq status : Nat) :
    (s.completionRecord q tag irq seq status).partRegs = s.partRegs := by
  unfold State.completionRecord
  dsimp only
  split
  · rw [State.partRegs_raiseVec, State.partRegs_updQueue, State.partRegs_poke]
  · rw [State.partRegs_updQueue, State.partRegs_poke]

@[simp] theorem State.partRegs_spawned (s : State) (k id st seq : Nat) : (s.spawned k id st seq).partRegs = s.partRegs := by
  simp [State.spawned]

@[simp] theorem State.partRegs_answer (s : State) (w : Creation) (seq : Option Nat) : (s.answer w seq).partRegs = s.partRegs := by
  unfold State.answer
  repeat' split
  all_goals simp

theorem State.partRegs_create_done {s u : State} {t : Task} {k id : Nat} {x : Ctx} (h : s.create t k x id = .done u) :
    u.partRegs = s.partRegs := by
  unfold State.create at h
  repeat' split at h
  all_goals cases h
  all_goals simp

theorem State.partRegs_create_wait {s u : State} {t : Task} {k id : Nat} {x : Ctx} (h : s.create t k x id = .wait u) :
    u.partRegs = s.partRegs := by
  unfold State.create at h
  repeat' split at h
  all_goals cases h
  · simp [State.partRegs_updPart]
  · rw [State.partRegs_updPart]
    · rfl
    · exact fun _ => rfl

@[simp] theorem State.partRegs_proceed (s : State) (p fuel : Nat) : (s.proceed p fuel).partRegs = s.partRegs := by
  induction fuel generalizing s with
  | zero => rfl
  | succ n ih =>
    unfold State.proceed
    dsimp only
    split
    · exact State.partRegs_updPart s p (fun v => { v with tqfull := false }) fun _ => rfl
    · split
      · simp [ih, State.partRegs_updPart]
      · split
        · next u hu => simp [ih, State.partRegs_create_done hu, State.partRegs_updPart]
        · simp [ih, State.partRegs_updPart]
        · next u hu => simp [State.partRegs_create_wait hu, State.partRegs_updPart]

@[simp] theorem State.partRegs_refuseWaiting (s : State) (p : Nat) : (s.refuseWaiting p).partRegs = s.partRegs := by
  unfold State.refuseWaiting
  dsimp only
  rw [State.partRegs_foldl _ fun s w => State.partRegs_answer s w none]
  exact State.partRegs_updPart s p _ fun _ => rfl

@[simp] theorem State.partRegs_writeTqspare (s : State) (p : Nat) (v : Word) : (s.writeTqspare p v).partRegs = s.partRegs := by
  have hset : (s.updPart p fun q => q.setTqspare v).partRegs = s.partRegs :=
    State.partRegs_updPart s p _ fun _ => rfl
  unfold State.writeTqspare
  dsimp only
  repeat' split
  all_goals simp [hset]

@[simp] theorem State.partRegs_orderPreempt (s : State) (t : Task) : (s.orderPreempt t).partRegs = s.partRegs := by
  simp [State.orderPreempt]

@[simp] theorem State.partRegs_writePre (s : State) (p : Nat) : (s.writePre p).partRegs = s.partRegs := by
  unfold State.writePre
  repeat' split
  · simp [State.partRegs_updPart]
  all_goals rfl

@[simp] theorem State.partRegs_writeSchctl (s : State) (p : Nat) (v : Word) : (s.writeSchctl p v).partRegs = s.partRegs := by
  have hset : (s.updPart p fun q => { q with hold := bitOf v 0 }).partRegs = s.partRegs :=
    State.partRegs_updPart s p _ fun _ => rfl
  unfold State.writeSchctl
  dsimp only
  split
  all_goals simp [hset]

@[simp] theorem State.partRegs_writePartSpecial (s : State) (p sel : Nat) (v : Word) :
    (s.writePartSpecial p sel v).partRegs = s.partRegs := by
  unfold State.writePartSpecial
  repeat' split
  · exact State.partRegs_updPart s p _ fun _ => rfl
  · exact State.partRegs_updPart s p _ fun _ => rfl
  · exact State.partRegs_updPart s p _ fun _ => rfl
  · exact State.partRegs_updPart s p _ fun _ => rfl
  all_goals simp

/-! ### System words -/

@[simp] theorem State.partRegs_wswWrite (s : State) (wid off : Nat) (bs : List Byte) : (s.wswWrite wid off bs).partRegs = s.partRegs := by
  simp [State.wswWrite]

@[simp] theorem State.partRegs_quarStore (s : State) (wid : Nat) (rows : BitVec 256) (e : Option (Nat × Loc)) :
    (s.quarStore wid rows e).partRegs = s.partRegs := by
  unfold State.quarStore
  split
  · rfl
  · simp

@[simp] theorem State.partRegs_mapRun (s : State) (w : Word) (f : Gran → Gran) : (s.mapRun w f).partRegs = s.partRegs := by
  unfold State.mapRun
  split
  · exact State.partRegs_foldl _ (fun u g => State.partRegs_setGran u _ g _) _ s
  · rfl

@[simp] theorem State.partRegs_unhalt (s : State) (k : Nat) : (s.unhalt k).partRegs = s.partRegs := by
  unfold State.unhalt
  dsimp only
  split
  · simp
  · rfl

@[simp] theorem State.partRegs_handlerDone (s : State) (k : Nat) (x : Ctx) : (s.handlerDone k x).partRegs = s.partRegs := by
  unfold State.handlerDone
  split
  · simp
  · rfl

@[simp] theorem State.partRegs_interrupt (s : State) (target code : Nat) : (s.interrupt target code).partRegs = s.partRegs := by
  unfold State.interrupt
  split <;> rfl

@[simp] theorem State.partRegs_writeIsland (s : State) (n : Nat) (v : Word) : (s.writeIsland n v).partRegs = s.partRegs := rfl

/-! ### The issue of a word -/

/-- A word whose effect, and whose causes of R118, leave the registers of the partitions. -/
structure Issue.KeepsPartRegs (j : Issue) : Prop where
  effect : ∀ wid u, (j.effect wid u).partRegs = u.partRegs
  pre : ∀ u r, j.pre u = some r → r.2.partRegs = u.partRegs

theorem State.partRegs_srcOvf {s : State} {vs : List VSrc} {r : FaultRecord × State} (h : s.srcOvf vs = some r) :
    r.2.partRegs = s.partRegs := by
  unfold State.srcOvf at h
  split at h
  · cases h
  · cases h
    exact State.partRegs_updCur s _

theorem State.partRegs_tileOvf {s : State} {n : Nat} {r : FaultRecord × State} (h : s.tileOvf n = some r) :
    r.2.partRegs = s.partRegs := by
  unfold State.tileOvf at h
  dsimp only at h
  repeat' split at h
  all_goals cases h
  exact State.partRegs_updCur s _

theorem State.partRegs_commit (s : State) (c : Ctl) {j : Issue} (n : Nat) (h : ∀ wid u, (j.effect wid u).partRegs = u.partRegs) :
    (s.commit c j n).partRegs = s.partRegs := by
  unfold State.commit
  dsimp only
  split <;> simp [h]

/-- What the issue of a word may come to: its effect once its check lets it through, or a cause, a stop, or a stall. -/
inductive Issued (s : State) (i : Instr) (j : Issue) : State → Prop
  | idle : Issued s i j s
  | forced : Issued s i j (s.forceStop s.k s.who.ctx)
  | stopped : Issued s i j s.stopHere
  | trapped (tr : Trap) : Issued s i j (s.trap (wordOf i) tr)
  | stalled (v : Wait) : Issued s i j (s.stall (ctlOf i) j v)
  | cause (t : State) (h : (s.seen (ctlOf i) j.unit).oldestCause
      (if j.allowed.ok s.who.ctx then j.pre (s.seen (ctlOf i) j.unit) else none) = some t) : Issued s i j t
  | done (h : j.check (s.seen (ctlOf i) j.unit) = none) :
      Issued s i j ((s.seen (ctlOf i) j.unit).commit (ctlOf i) j (s.me.nextCycle (ctlOf i) j.unit))

theorem State.issued_of_issue {s t : State} {i : Instr} {j : Issue} (h : s.issue i j = .next t) : Issued s i j t := by
  unfold State.issue at h
  dsimp only at h
  repeat' split at h
  all_goals
    cases h
    first
    | exact .idle
    | exact .forced
    | exact .stopped
    | exact .trapped _
    | exact .stalled _
    | exact .cause _ (by assumption)
    | exact .done (by assumption)

theorem State.partRegs_issue {s t : State} {i : Instr} {j : Issue} (hj : j.KeepsPartRegs) (h : s.issue i j = .next t) :
    t.partRegs = s.partRegs := by
  cases State.issued_of_issue h with
  | idle => rfl
  | forced => exact State.partRegs_forceStop s _ _
  | stopped => exact State.partRegs_stopHere s
  | trapped tr => exact State.partRegs_trap s _ _
  | stalled v => exact State.partRegs_stall s _ _ _
  | cause _ hcause =>
    rw [State.partRegs_oldestCause (fun r hr => ?_) hcause, State.seen, State.partRegs_atCycle]
    split at hr
    · exact hj.pre _ _ hr
    · cases hr
  | done _ => rw [State.partRegs_commit _ _ _ hj.effect, State.seen, State.partRegs_atCycle]

end Sys2Proof.Machine

namespace Sys2Proof.Machine

open Sys2Proof

/-! ### The shared forms of words -/

theorem Issue.KeepsPartRegs.of_noCause {j : Issue} (hpre : j.pre = fun _ => none)
    (h : ∀ wid u, (j.effect wid u).partRegs = u.partRegs) : j.KeepsPartRegs :=
  ⟨h, fun u r hr => by rw [hpre] at hr; cases hr⟩

theorem keepsPartRegs_alu1 (lat : Nat) (xd xa : Reg) (f : Word → Word) : (alu1 lat xd xa f).KeepsPartRegs :=
  .of_noCause rfl fun _ _ => State.partRegs_result ..

theorem keepsPartRegs_alu2 (lat : Nat) (xd xa xb : Reg) (f : Word → Word → Word) : (alu2 lat xd xa xb f).KeepsPartRegs :=
  .of_noCause rfl fun _ _ => State.partRegs_result ..

theorem keepsPartRegs_aluOld (xd xa : Reg) (f : Word → Word → Word) : (aluOld xd xa f).KeepsPartRegs :=
  .of_noCause rfl fun _ _ => State.partRegs_result ..

theorem keepsPartRegs_loopIssue (uses : List Reg) (n : State → Word) (body : Nat) (extra : State → Bool) :
    (loopIssue uses n body extra).KeepsPartRegs :=
  .of_noCause rfl fun _ _ => State.partRegs_updMe ..

theorem keepsPartRegs_loadIssue (xd xb : Reg) (imm : BitVec 24) (n : Nat) : (loadIssue xd xb imm n).KeepsPartRegs :=
  .of_noCause rfl fun wid u => by simp [loadIssue]

theorem keepsPartRegs_storeIssue (xs xb : Reg) (imm : BitVec 24) (n : Nat) : (storeIssue xs xb imm n).KeepsPartRegs :=
  .of_noCause rfl fun wid u => by simp [storeIssue]

theorem keepsPartRegs_vword (lat : Nat) (vs : List VSrc) (vd : QName) (pushes : Nat)
    (f : State → List (List Elem) → List Elem × BitVec 3) : (vword lat vs vd pushes f).KeepsPartRegs :=
  ⟨fun wid u => by simp [vword], fun _ _ hr => State.partRegs_srcOvf hr⟩

theorem keepsPartRegs_v2word (lat : Nat) (v : V2) (f : Elem → Elem × BitVec 3) : (v2word lat v f).KeepsPartRegs :=
  keepsPartRegs_vword ..

theorem keepsPartRegs_v3word (lat : Nat) (v : V3) (f : Elem → Elem → Elem × BitVec 3) : (v3word lat v f).KeepsPartRegs :=
  keepsPartRegs_vword ..

theorem keepsPartRegs_exaddIssue (t : ETy) (va : QName) (pa : Bool) (d : Nat) (len : Option Nat) :
    (exaddIssue t va pa d len).KeepsPartRegs :=
  ⟨fun wid u => by simp [exaddIssue], fun _ _ hr => State.partRegs_srcOvf hr⟩

theorem keepsPartRegs_fqIssue (uses : List Reg) (f : State → FqEntry) : (fqIssue uses f).KeepsPartRegs :=
  .of_noCause rfl fun wid u => by simp [fqIssue]

theorem keepsPartRegs_tgoIssue (op : MatOp) (t : Tile) : (tgoIssue op t).KeepsPartRegs := by
  refine ⟨fun wid u => State.partRegs_updCur u _, fun u r hr => ?_⟩
  dsimp only [tgoIssue] at hr
  split at hr
  · exact State.partRegs_tileOvf hr
  · cases hr

theorem keepsPartRegs_transferIssue (op : EngOp) (e : EArgs) : (transferIssue op e).KeepsPartRegs :=
  .of_noCause rfl fun wid u => by simp [transferIssue]

theorem keepsPartRegs_ferryIssue (op : EngOp) (e : EArgs) : (ferryIssue op e).KeepsPartRegs :=
  .of_noCause rfl fun wid u => by simp [ferryIssue]

theorem keepsPartRegs_remoteIssue (op : EngOp) (e : EArgs) : (remoteIssue op e).KeepsPartRegs :=
  .of_noCause rfl fun wid u => by simp [remoteIssue]

theorem keepsPartRegs_stnIssue (status : Bool) (e : EArgs) : (stnIssue status e).KeepsPartRegs :=
  .of_noCause rfl fun wid u => by simp [stnIssue]

theorem keepsPartRegs_collIssue (form : Nat) (e : EArgs) : (collIssue form e).KeepsPartRegs := by
  refine .of_noCause rfl fun wid u => ?_
  dsimp only [collIssue]
  split <;> simp

theorem keepsPartRegs_ladIssue (op : State → LadOp) (slot : Nat) (vs : List VSrc) (uses : List Reg) :
    (ladIssue op slot vs uses).KeepsPartRegs :=
  ⟨fun wid u => by simp [ladIssue], fun _ _ hr => State.partRegs_srcOvf hr⟩

theorem keepsPartRegs_genIssue {hold : Bool} {vs : List VSrc} {vd : QName} {busy : State → Bool} {pushes : State → Nat}
    {bad : List (List Elem) → Bool} {table lost : State → List (List Elem) → Option Trap}
    {effect : Nat → State → List (List Elem) → State} (h : ∀ wid u es, (effect wid u es).partRegs = u.partRegs) :
    (genIssue hold vs vd busy pushes bad table lost effect).KeepsPartRegs :=
  ⟨fun wid u => by simp [genIssue, h], fun _ _ hr => State.partRegs_srcOvf hr⟩

theorem keepsPartRegs_genWord (lat : Nat) (vs : List VSrc) (vd : QName) (pushes : State → Nat) (bad : List (List Elem) → Bool)
    (table lost : State → List (List Elem) → Option Trap) (f : State → List (List Elem) → List Elem × Memory) :
    (genWord lat vs vd pushes bad table lost f).KeepsPartRegs :=
  keepsPartRegs_genIssue fun wid u es => by simp

theorem keepsPartRegs_rowIssue {uses : List Reg} {xa : Reg} {bad : State → Bool} {late : State → Option Trap}
    {effect : Nat → Nat → State → State} (h : ∀ r wid u, (effect r wid u).partRegs = u.partRegs) :
    (rowIssue uses xa bad late effect).KeepsPartRegs :=
  .of_noCause rfl fun wid u => by simp [rowIssue, h]

theorem keepsPartRegs_rnggetIssue (peek : Bool) (xd xa : Reg) : (rnggetIssue peek xd xa).KeepsPartRegs := by
  refine keepsPartRegs_rowIssue fun r wid u => ?_
  dsimp only
  repeat' split
  all_goals simp

theorem keepsPartRegs_sysIssue {monitor : Bool} {uses : List Reg} {check : State → Option Trap} {effect : Nat → State → State}
    (h : ∀ wid u, (effect wid u).partRegs = u.partRegs) : (sysIssue monitor uses check effect).KeepsPartRegs :=
  .of_noCause rfl h

theorem Issue.KeepsPartRegs.until {j : Issue} (h : j.KeepsPartRegs) (p : State → Bool) : (j.until p).KeepsPartRegs :=
  ⟨h.effect, h.pre⟩

theorem keepsPartRegs_ptbwIssue (xa : Reg) (bad : List Byte → Bool) (o : Nat) : (ptbwIssue xa bad o).KeepsPartRegs := by
  refine .of_noCause rfl fun wid u => ?_
  dsimp only [ptbwIssue, Issue.until, sysIssue]
  split <;> simp

theorem keepsPartRegs_tlbiIssue (uses : List Reg) (what : State → Shoot) : (tlbiIssue uses what).KeepsPartRegs :=
  (keepsPartRegs_sysIssue fun _ u => State.partRegs_shoot u _ _).until _

/-- Every word but PARTW leaves the registers of the partitions. -/
theorem word_keepsPartRegs (i : Instr) (h : (opcodeOf i).isSome = true) (hp : ∀ c xa xb sel, i ≠ .partw c xa xb sel) :
    ∃ j, (∀ s, exec i s = s.issue i j) ∧ j.KeepsPartRegs := by
  cases i
  case add | sub | mul | mulh | div | rem | and | or | xor | shl | shr | sar | rol | min | max | cmp => exact ⟨_, fun _ => rfl, keepsPartRegs_alu2 ..⟩
  case addi | andi | ori | xori | cmpi | clz | popc | extr | bswap | muli => exact ⟨_, fun _ => rfl, keepsPartRegs_alu1 ..⟩
  case insr => exact ⟨_, fun _ => rfl, keepsPartRegs_aluOld ..⟩
  case loop | loopN | loopi => exact ⟨_, fun _ => rfl, keepsPartRegs_loopIssue ..⟩
  case ldb | ldh | ldw | ldd => exact ⟨_, fun _ => rfl, keepsPartRegs_loadIssue ..⟩
  case stb | sth | stw | std => exact ⟨_, fun _ => rfl, keepsPartRegs_storeIssue ..⟩
  case spld | spst | gath | scat | ldt => exact ⟨_, fun _ => rfl, keepsPartRegs_transferIssue ..⟩
  case ferry | ferryTier | ferryQ => exact ⟨_, fun _ => rfl, keepsPartRegs_ferryIssue ..⟩
  case red | msend => exact ⟨_, fun _ => rfl, keepsPartRegs_remoteIssue ..⟩
  case collAllred | collRed | collBcast | collBar => exact ⟨_, fun _ => rfl, keepsPartRegs_collIssue ..⟩
  case vadd | vsub | vmul | vdiv | vmin | vmax | vand | vor | vxor | vshl | vshr | vcmp | vreds | vscan | vsortcCount | vsortcSlot | vperm => exact ⟨_, fun _ => rfl, keepsPartRegs_v3word ..⟩
  case vfmaFp32 | vfmaBf16 | vfmaFp16 | vsel32 | vsel16 | vsel8 | vrmsnFp32 | vrmsnBf16 | vsplatImm | vcvt => exact ⟨_, fun _ => rfl, keepsPartRegs_vword ..⟩
  case vabs | vneg | vaddi | vmuli | vredm | vsortcOrder | vspselMask | vspselMeta | vspselPack | vexp | vexp2 | vrcp | vrsq | vmov => exact ⟨_, fun _ => rfl, keepsPartRegs_v2word ..⟩
  case exadd | exaddL => exact ⟨_, fun _ => rfl, keepsPartRegs_exaddIssue ..⟩
  case fqpush | fqmode => exact ⟨_, fun _ => rfl, keepsPartRegs_fqIssue ..⟩
  case tgo | tgoG | tgoSp => exact ⟨_, fun _ => rfl, keepsPartRegs_tgoIssue ..⟩
  case lapp | lappb | lreadOrd | lreadExa | lreadRungs | lfork | ltruncLow | ltruncCkpt | ldrop | lstat => exact ⟨_, fun _ => rfl, keepsPartRegs_ladIssue ..⟩
  case vshort | vsort | vsortMerge | vsamp | vsampU => exact ⟨_, fun _ => rfl, keepsPartRegs_genWord ..⟩
  case rngget | rnggetPeek => exact ⟨_, fun _ => rfl, keepsPartRegs_rnggetIssue ..⟩
  case stn | stnS => exact ⟨_, fun _ => rfl, keepsPartRegs_stnIssue ..⟩
  case ptbw | ptbwH => exact ⟨_, fun _ => rfl, keepsPartRegs_ptbwIssue ..⟩
  case tlbiPg | tlbiBlk | tlbiAll => exact ⟨_, fun _ => rfl, keepsPartRegs_tlbiIssue ..⟩
  case nop => exact ⟨_, fun _ => rfl, .of_noCause rfl fun wid u => by simp⟩
  case csel => exact ⟨_, fun _ => rfl, .of_noCause rfl fun wid u => by simp⟩
  case limm => exact ⟨_, fun _ => rfl, .of_noCause rfl fun wid u => by simp⟩
  case br => exact ⟨_, fun _ => rfl, .of_noCause rfl fun wid u => by simp⟩
  case jmpr => exact ⟨_, fun _ => rfl, .of_noCause rfl fun wid u => by simp⟩
  case cqput => exact ⟨_, fun _ => rfl, .of_noCause rfl fun wid u => by simp⟩
  case cqget => exact ⟨_, fun _ => rfl, .of_noCause rfl fun wid u => by simp⟩
  case cqbr => exact ⟨_, fun _ => rfl, .of_noCause rfl fun wid u => by simp⟩
  case tkinc => exact ⟨_, fun _ => rfl, .of_noCause rfl fun wid u => by simp⟩
  case tkchk => exact ⟨_, fun _ => rfl, .of_noCause rfl fun wid u => by simp⟩
  case mode => exact ⟨_, fun _ => rfl, .of_noCause rfl fun wid u => by simp⟩
  case capr => exact ⟨_, fun _ => rfl, .of_noCause rfl fun wid u => by simp⟩
  case mfs => exact ⟨_, fun _ => rfl, .of_noCause rfl fun wid u => by simp⟩
  case mts => exact ⟨_, fun _ => rfl, .of_noCause rfl fun wid u => by simp⟩
  case exit => exact ⟨_, fun _ => rfl, .of_noCause rfl fun wid u => by simp⟩
  case brk => exact ⟨_, fun _ => rfl, .of_noCause rfl fun wid u => by simp⟩
  case sysc => exact ⟨_, fun _ => rfl, .of_noCause rfl fun wid u => by simp⟩
  case vld => exact ⟨_, fun _ => rfl, .of_noCause rfl fun wid u => by simp⟩
  case mark => exact ⟨_, fun _ => rfl, .of_noCause rfl fun wid u => by simp⟩
  case fence => exact ⟨_, fun _ => rfl, .of_noCause rfl fun wid u => by simp⟩
  case amo => exact ⟨_, fun _ => rfl, .of_noCause rfl fun wid u => by simp⟩
  case rclaimCfg => exact ⟨_, fun _ => rfl, .of_noCause rfl fun wid u => by simp⟩
  case rclaim => exact ⟨_, fun _ => rfl, .of_noCause rfl fun wid u => by simp⟩
  case rfill => exact ⟨_, fun _ => rfl, .of_noCause rfl fun wid u => by simp⟩
  case rwaitf => exact ⟨_, fun _ => rfl, .of_noCause rfl fun wid u => by simp⟩
  case rwaite => exact ⟨_, fun _ => rfl, .of_noCause rfl fun wid u => by simp⟩
  case rtake => exact ⟨_, fun _ => rfl, .of_noCause rfl fun wid u => by simp⟩
  case rfree => exact ⟨_, fun _ => rfl, .of_noCause rfl fun wid u => by simp⟩
  case mrecvCfg => exact ⟨_, fun _ => rfl, .of_noCause rfl fun wid u => by simp⟩
  case mrecv => exact ⟨_, fun _ => rfl, .of_noCause rfl fun wid u => by simp⟩
  case mrecvNb => exact ⟨_, fun _ => rfl, .of_noCause rfl fun wid u => by simp⟩
  case mqcred => exact ⟨_, fun _ => rfl, .of_noCause rfl fun wid u => by simp⟩
  case baddr => exact ⟨_, fun _ => rfl, .of_noCause rfl fun wid u => by simp⟩
  case bshare => exact ⟨_, fun _ => rfl, .of_noCause rfl fun wid u => by simp⟩
  case rlq => exact ⟨_, fun _ => rfl, .of_noCause rfl fun wid u => by simp⟩
  case tspawn => exact ⟨_, fun _ => rfl, .of_noCause rfl fun wid u => by simp⟩
  case tgraph => exact ⟨_, fun _ => rfl, .of_noCause rfl fun wid u => by simp⟩
  case tyieldFront => exact ⟨_, fun _ => rfl, .of_noCause rfl fun wid u => by simp⟩
  case tyieldPast => exact ⟨_, fun _ => rfl, .of_noCause rfl fun wid u => by simp⟩
  case vlds => exact ⟨_, fun _ => rfl, .of_noCause rfl fun wid u => by simp⟩
  case vqst => exact ⟨_, fun _ => rfl, .of_noCause rfl fun wid u => by simp⟩
  case exrd => exact ⟨_, fun _ => rfl, .of_noCause rfl fun wid u => by simp⟩
  case exclr => exact ⟨_, fun _ => rfl, .of_noCause rfl fun wid u => by simp⟩
  case scw => exact ⟨_, fun _ => rfl, .of_noCause rfl fun wid u => by simp⟩
  case ctwr => exact ⟨_, fun _ => rfl, .of_noCause rfl fun wid u => by simp⟩
  case nestw => exact ⟨_, fun _ => rfl, .of_noCause rfl fun wid u => by simp⟩
  case accz => exact ⟨_, fun _ => rfl, .of_noCause rfl fun wid u => by simp⟩
  case accld => exact ⟨_, fun _ => rfl, .of_noCause rfl fun wid u => by simp⟩
  case tapchkMask => exact ⟨_, fun _ => rfl, .of_noCause rfl fun wid u => by simp⟩
  case leave c n mask =>
    refine ⟨_, fun _ => rfl, .of_noCause rfl fun wid u => ?_⟩
    dsimp only
    split
    · exact State.partRegs_updCur u _
    · exact State.partRegs_foldl _ (fun u h => State.partRegs_requestLeave u _ _ h) _ u
  case lbind c slot xa shr =>
    refine ⟨_, fun _ => rfl, .of_noCause rfl fun wid u => ?_⟩
    dsimp only
    split
    · rw [State.partRegs_updCur]
      rfl
    · rfl
  case lunbind c slot =>
    refine ⟨_, fun _ => rfl, .of_noCause rfl fun wid u => ?_⟩
    dsimp only
    rw [State.partRegs_updCur]
    rfl
  case tapchk c xb first cnt1 =>
    refine ⟨_, fun _ => rfl, .of_noCause rfl fun wid u => ?_⟩
    dsimp only
    repeat' split
    all_goals simp
  case tapchkBind c xa =>
    refine ⟨_, fun _ => rfl, .of_noCause rfl fun wid u => ?_⟩
    dsimp only
    split
    · simp
    · simp
  case vsts => exact ⟨_, fun _ => rfl, fun wid u => by simp, fun _ _ hr => State.partRegs_srcOvf hr⟩
  case vsplatReg => exact ⟨_, fun _ => rfl, fun wid u => by simp [vword], fun _ _ hr => State.partRegs_srcOvf (vs := []) hr⟩
  case vact c v ty fn =>
    refine ⟨_, fun _ => rfl, ?_⟩
    dsimp only
    split
    case h_6 | h_7 => exact keepsPartRegs_v3word ..
    all_goals exact keepsPartRegs_v2word ..
  case accrd => exact ⟨_, fun _ => rfl, fun wid u => by simp, fun _ _ hr => State.partRegs_tileOvf hr⟩
  case accst => exact ⟨_, fun _ => rfl, fun wid u => by simp, fun _ _ hr => State.partRegs_tileOvf hr⟩
  case accmov c accD accS add =>
    refine ⟨_, fun _ => rfl, fun wid u => State.partRegs_updCur u _, fun u r hr => ?_⟩
    simp only [Option.or_eq_some_iff] at hr
    rcases hr with hr | ⟨_, hr⟩
    · exact State.partRegs_tileOvf hr
    · split at hr
      · exact State.partRegs_tileOvf hr
      · cases hr
  case gstep | vgmask | tokout => exact ⟨_, fun _ => rfl, keepsPartRegs_genIssue fun _ u _ => by simp⟩
  case rngjmp | gsave | grest => exact ⟨_, fun _ => rfl, keepsPartRegs_rowIssue fun _ _ u => by simp⟩
  case bmapwFree | bmapwSet | resume | islw => exact ⟨_, fun _ => rfl, keepsPartRegs_sysIssue fun _ u => by simp⟩
  case slotw => exact ⟨_, fun _ => rfl, .of_noCause rfl fun _ _ => rfl⟩
  case eret => exact ⟨_, fun _ => rfl, .of_noCause rfl fun _ u => by simp [sysIssue]⟩
  case ipi => exact ⟨_, fun _ => rfl, .of_noCause rfl fun _ u => by simp [sysIssue, Issue.until]⟩
  case halt =>
    refine ⟨_, fun _ => rfl, .of_noCause rfl fun wid u => ?_⟩
    dsimp only [sysIssue]
    split <;> simp
  case wsw =>
    refine ⟨_, fun _ => rfl, .of_noCause rfl fun wid u => ?_⟩
    dsimp only [sysIssue, Issue.until]
    split <;> simp
  case quar =>
    refine ⟨_, fun _ => rfl, .of_noCause rfl fun wid u => ?_⟩
    dsimp only [sysIssue, Issue.until]
    split <;> simp
  case partw c xa xb sel => exact absurd rfl (hp c xa xb sel)
  all_goals exact nomatch h

end Sys2Proof.Machine

namespace Sys2Proof.Machine

open Sys2Proof

/-! ### What an abort leaves of a core (R299) -/

theorem CoreSt.cleared_cleared (c : CoreSt) : c.cleared.cleared = c.cleared := rfl

/-- Every core of `t` is as in `s`, or cleared. -/
def State.CoresKept (s t : State) : Prop := ∀ k, t.core k = s.core k ∨ t.core k = (s.core k).cleared

theorem State.CoresKept.refl (s : State) : s.CoresKept s := fun _ => .inl rfl

theorem State.CoresKept.of_cores {s t : State} (h : t.cores = s.cores) : s.CoresKept t := fun k => .inl (by simp [State.core, h])

theorem State.CoresKept.trans {s t u : State} (h : s.CoresKept t) (h' : t.CoresKept u) : s.CoresKept u := by
  intro k
  rcases h k with hk | hk <;> rcases h' k with hk' | hk' <;> rw [hk', hk]
  · exact .inl rfl
  · exact .inr rfl
  · exact .inr rfl
  · exact .inr (CoreSt.cleared_cleared _)

theorem State.coresKept_foldl {α : Type} (l : List α) (f : State → α → State) (hf : ∀ (s : State) a, s.CoresKept (f s a)) (s : State) :
    s.CoresKept (l.foldl f s) := by
  induction l generalizing s with
  | nil => exact .refl s
  | cons a l ih => exact (hf s a).trans (ih _)

theorem State.coresKept_clear (s : State) (ks : List Nat) : s.CoresKept (s.forCores ks CoreSt.cleared) := by
  refine State.coresKept_foldl _ _ (fun u k j => ?_) s
  rw [State.core_updCore]
  split
  · next h => exact .inr (by rw [h])
  · exact .inl rfl

@[simp] theorem State.cores_putBytes (s : State) (space a : Nat) (bs : List Byte) : (s.putBytes space a bs).cores = s.cores := by
  unfold State.putBytes
  dsimp only
  split <;> rfl

@[simp] theorem State.cores_poke (s : State) (space a : Nat) (bs : List Byte) : (s.poke space a bs).cores = s.cores := by
  unfold State.poke
  dsimp only
  generalize (if space = 0 then _ else _ : List Nat) = hit
  split
  · exact s.cores_putBytes space a bs
  · exact s.cores_putBytes space a bs

@[simp] theorem State.cores_segWord (s : State) (pa v : Nat) : (s.segWord pa v).cores = s.cores := by
  rw [State.segWord_eq]

@[simp] theorem State.cores_writeChain (s : State) (l : List Seg) : (s.writeChain l).cores = s.cores := by
  induction l generalizing s with
  | nil => rfl
  | cons g r ih => simp [State.writeChain, ih]

@[simp] theorem State.cores_reclaim (s : State) (p : Nat) (g : Seg) : (s.reclaim p g).cores = s.cores := by
  unfold State.reclaim
  split
  · rfl
  · simp

@[simp] theorem State.cores_dropEntry (s : State) (p q : Nat) : (s.dropEntry p q).cores = s.cores := by
  unfold State.dropEntry
  split
  · rfl
  · simp

theorem State.cores_shareRun (s : State) (b : Berth) (f : Nat → Nat) : (s.shareRun b f).cores = s.cores := by
  unfold State.shareRun
  generalize (List.range b.count) = l
  induction l generalizing s with
  | nil => rfl
  | cons i l ih => exact ih _

@[simp] theorem State.cores_freeName (s : State) (w : Word) : (s.freeName w).cores = s.cores := by
  unfold State.freeName
  split
  · exact s.cores_shareRun _ _
  · rfl

@[simp] theorem State.cores_relinquish (s : State) (w : Word) : (s.relinquish w).cores = s.cores := by
  unfold State.relinquish
  split
  · exact s.cores_shareRun _ _
  · rfl

theorem State.coresKept_discard (s : State) (t : Task) : s.CoresKept (s.discard t) := by
  have hnames : ∀ v : State, v.cores = s.cores →
      s.CoresKept (t.shares.foldl (fun s w => s.relinquish w) (t.berths.foldl (fun s w => s.freeName w) v)) := fun v hv =>
    ((State.CoresKept.of_cores hv).trans
      (State.coresKept_foldl t.berths _ (fun u w => .of_cores (u.cores_freeName w)) v)).trans
      (State.coresKept_foldl t.shares _ (fun u w => .of_cores (u.cores_relinquish w)) _)
  unfold State.discard
  refine State.CoresKept.trans ?_ (State.coresKept_clear _ _)
  split
  · refine State.CoresKept.trans ?_ (.of_cores (State.cores_updPart _ _ _))
    exact hnames _ rfl
  · exact hnames _ rfl

theorem State.coresKept_abortOne (s : State) (a : List Nat) (q : Nat) : s.CoresKept (s.abortOne a q) := by
  unfold State.abortOne
  split
  · exact .refl s
  · next t _ =>
    refine (s.coresKept_discard t).trans (.of_cores ?_)
    unfold State.requeue
    split
    · exact State.cores_dropEntry _ _ _
    · rfl

theorem State.coresKept_abort (s : State) (q : Nat) : s.CoresKept (s.abort q) :=
  (State.coresKept_foldl _ _ (fun s i => s.coresKept_abortOne _ i) s).trans (.of_cores rfl)

theorem State.coresKept_abortAll (s : State) (qs : List Nat) : s.CoresKept (s.abortAll qs) :=
  State.coresKept_foldl _ _ (fun s q => s.coresKept_abort q) s

theorem State.coresKept_partWrite (s : State) (p space a : Nat) (bs : List Byte) : s.CoresKept (s.partWrite p space a bs) :=
  (State.CoresKept.of_cores (s.cores_poke space a bs)).trans (State.coresKept_abortAll _ _)

theorem State.coresKept_logAt (s : State) (die : Nat) (r : FaultRecord) : s.CoresKept (s.logAt die r) := by
  unfold State.logAt
  dsimp only
  split
  · exact .of_cores rfl
  · exact (s.coresKept_partWrite r.part 0 _ r.bytes).trans (.of_cores rfl)

/-! ### No landing raises a level (R369) -/

/-- No context of `t` has a higher level than in `s`. -/
def State.NoRise (s t : State) : Prop := ∀ k x, (t.ctxOf k x).level ≤ (s.ctxOf k x).level

theorem State.NoRise.trans {s t u : State} (h : s.NoRise t) (h' : t.NoRise u) : s.NoRise u :=
  fun k x => (h' k x).trans (h k x)

theorem State.CoresKept.noRise {s t : State} (h : s.CoresKept t) : s.NoRise t := by
  intro k x
  unfold State.ctxOf
  rcases h k with hk | hk <;> rw [hk]
  cases x <;> exact Nat.zero_le _

theorem State.noRise_updCore (s : State) (k : Nat) (f : CoreSt → CoreSt)
    (hf : ∀ x, ((f (s.core k)).ctx x).level = ((s.core k).ctx x).level) : s.NoRise (s.updCore k f) := by
  intro j x
  unfold State.ctxOf
  rw [State.core_updCore]
  split
  · next h => subst h; exact (hf x).le
  · exact Nat.le_refl _

theorem State.noRise_updCtx (s : State) (k : Nat) (x : Ctx) (f : CtxSt → CtxSt) (hf : ∀ c, (f c).level = c.level) :
    s.NoRise (s.updCtx k x f) := by
  refine s.noRise_updCore k _ fun y => ?_
  by_cases h : y = x
  · rw [h, CoreSt.ctx_updCtx_same, hf]
  · rw [CoreSt.ctx_updCtx_other _ _ _ _ h]

theorem CoreSt.ctx_exAddAll (c : CoreSt) (l : List (Nat × List (BitVec 32))) (x : Ctx) : (c.exAddAll l).1.ctx x = c.ctx x := by
  induction l generalizing c with
  | nil => rfl
  | cons e r ih =>
    unfold CoreSt.exAddAll
    dsimp only
    rw [ih]
    cases x <;> rfl

theorem CoreSt.ctx_exClear (c : CoreSt) (a n : Nat) (x : Ctx) : (c.exClear a n).ctx x = c.ctx x := by
  unfold CoreSt.exClear
  generalize List.range n = l
  induction l generalizing c with
  | nil => rfl
  | cons i l ih =>
    rw [List.foldl_cons, ih]
    cases x <;> rfl

theorem CoreSt.ctx_putSp (c : CoreSt) (m : Memory) (bad : List Nat) (x : Ctx) :
    ({ c with sp := m, spBad := bad } : CoreSt).ctx x = c.ctx x := by
  cases x <;> rfl

/-- A landing of EXADD may mark its context and attach ACCOVF, which raises no level. -/
theorem State.noRise_exAdd (s : State) (k : Nat) (t : Trap) (pos : Nat) (w : Word) :
    s.NoRise (let s := s.updCtx k .X fun c => { c with sflags := c.sflags ||| 1 }
      if (s.core k).extrap then s.attach k .X t false pos w else s) := by
  have hflag := s.noRise_updCtx k .X (fun c => { c with sflags := c.sflags ||| 1 }) fun _ => rfl
  dsimp only
  split
  · exact hflag.trans (State.noRise_updCtx _ k .X _ fun _ => rfl)
  · exact hflag

theorem State.noRise_incTk (s : State) (k n a : Nat) (r : FaultRecord) : s.NoRise (s.incTk k n a false r) := by
  have hinc : s.NoRise (s.updCore k fun c => c.incTk n a false) :=
    s.noRise_updCore k _ fun y => by cases y <;> rfl
  unfold State.incTk State.incTkFrom
  dsimp only
  split
  · exact hinc.trans (State.coresKept_logAt _ _ _).noRise
  · exact hinc

theorem State.noRise_landOne (s : State) (k : Nat) (x : Ctx) (f : Flight) : s.NoRise (s.landOne k x f) := by
  unfold State.landOne
  cases f.land with
  | reg r v => exact s.noRise_updCtx k x _ fun c => c.level_setReg r v
  | push q id => exact s.noRise_updCore k _ fun y => by cases y <;> rfl
  | exAdd adds =>
    have hadd : s.NoRise (s.setCore k ((s.core k).exAddAll adds).1) :=
      s.noRise_updCore k (fun _ => ((s.core k).exAddAll adds).1) fun y => by rw [CoreSt.ctx_exAddAll]
    dsimp only
    split
    · exact hadd
    · exact hadd.trans (State.noRise_exAdd _ _ _ _ _)
  | exClr a n => exact s.noRise_updCore k _ fun y => by rw [CoreSt.ctx_exClear]
  | scratch off e => exact s.noRise_updCore k _ fun y => by rw [CoreSt.ctx_putSp]
  | cq succ v =>
    refine (s.noRise_updCtx k x _ fun c => ?_).trans (State.noRise_updCore _ k _ fun y => by cases y <;> rfl)
    split <;> rfl
  | tk n a => exact s.noRise_incTk k n a _
  | flags g => exact s.noRise_updCtx k x _ fun _ => rfl

theorem State.noRise_landWhere (s : State) (k : Nat) (x : Ctx) (p : Flight → Bool) : s.NoRise (s.landWhere k x p) := by
  have hfold : ∀ (l : List Flight) (u : State), u.NoRise (l.foldl (fun s f => s.landOne k x f) u) := by
    intro l
    induction l with
    | nil => exact fun u _ _ => Nat.le_refl _
    | cons f l ih => exact fun u => (u.noRise_landOne k x f).trans (ih _)
  exact (s.noRise_updCtx k x (fun c => { c with flights := c.flights.filter fun f => !p f }) fun _ => rfl).trans (hfold _ _)

theorem State.who_atCycle (s : State) (n : Nat) : (s.atCycle n).who = s.who := by
  unfold State.atCycle
  split
  · exact State.who_landWhere s _ _ _
  · rfl

theorem State.level_atCycle_le (s : State) (n : Nat) : (s.atCycle n).me.level ≤ s.me.level := by
  have h : s.NoRise (s.atCycle n) := by
    unfold State.atCycle
    split
    · exact (s.noRise_landWhere _ _ _).trans (State.noRise_updCtx _ _ _ _ fun _ => rfl)
    · exact fun _ _ => Nat.le_refl _
  have hwho := s.who_atCycle n
  unfold State.me State.cur State.k
  rw [hwho]
  exact h s.k s.who.ctx

/-- PARTW below monitor level does not come to its effect. -/
theorem State.partRegs_partw {s t : State} {c : Ctl} {xa xb : Reg} {sel : BitVec 5} (hlevel : s.me.level < 2)
    (h : exec (.partw c xa xb sel) s = .next t) : t.partRegs = s.partRegs := by
  rcases State.issued_of_issue h with _ | _ | _ | tr | v | ⟨_, hcause⟩ | hcheck
  · rfl
  · exact State.partRegs_forceStop s _ _
  · exact State.partRegs_stopHere s
  · exact State.partRegs_trap s _ _
  · exact State.partRegs_stall s _ _ _
  · rw [State.partRegs_oldestCause (fun r hr => ?_) hcause, State.seen, State.partRegs_atCycle]
    split at hr <;> cases hr
  · have hseen : (s.seen c 0).me.level < 2 := (s.level_atCycle_le _).trans_lt hlevel
    have hpriv : (s.seen c 0).me.level < 2 → False := fun hl => by
      simp only [Issue.until, sysIssue, ctlOf, hl] at hcheck
      cases hcheck
    exact absurd hseen hpriv

/-- Settles O56: every word but PARTW leaves the partitions' registers (`word_keepsPartRegs`), and PARTW traps PRIV below monitor
level. -/
theorem onlyMonitorsWritePartitions : Obligations.OnlyMonitorsWritePartitions := by
  unfold Obligations.OnlyMonitorsWritePartitions
  intro i s t hword hlevel h p sel
  have hregs : t.partRegs = s.partRegs := by
    by_cases hi : ∀ c xa xb n, i ≠ .partw c xa xb n
    · obtain ⟨j, hj, hkeep⟩ := word_keepsPartRegs i hword hi
      exact State.partRegs_issue hkeep (hj s ▸ h)
    · push Not at hi
      obtain ⟨c, xa, xb, n, rfl⟩ := hi
      exact State.partRegs_partw (hlevel c xa xb n rfl) h
  exact congrFun (congrFun hregs p) sel

end Sys2Proof.Machine

/-! PROOFS. The scalar words (R134 to R141). -/

namespace Sys2Proof.Machine

open Sys2Proof

theorem State.issue_alu2 {s : State} {i : Instr} {lat : Nat} {xd xa xb : Reg} {f : Word → Word → Word}
    (h : s.clear (ctlOf i) 0 [] [xd, xa, xb] = true) :
    ∃ t, s.issue i (alu2 lat xd xa xb f) = .next t ∧
      Wrote (s.seen (ctlOf i) 0) t (ctlOf i) lat xd (f ((s.seen (ctlOf i) 0).reg xa) ((s.seen (ctlOf i) 0).reg xb)) :=
  State.issue_result lat xd (fun v => f (v.reg xa) (v.reg xb)) (fun v c j n => by rw [State.reg_pay, State.reg_pay]) h

theorem w64_b2n (b : Bool) : w64 (b2n b) = if b then 1 else 0 := by cases b <;> rfl

/-- A scalar word writes its value and does nothing else. -/
theorem exec_scalarWord {i : Instr} {s : State} {uses : List Reg} {xd : Reg} {lat : Nat} {x : Word}
    (hw : scalarWord (s.seen (ctlOf i) 0) i = some (uses, xd, lat, x)) (h : s.clear (ctlOf i) 0 [] uses = true) :
    ∃ t, exec i s = .next t ∧ Wrote (s.seen (ctlOf i) 0) t (ctlOf i) lat xd x := by
  cases i <;> cases hw
  case add | sub | mul | mulh | div | rem | and | or | xor | shl | shr | sar | rol | min | max => exact State.issue_alu2 h
  case addi | andi | ori | xori | muli | clz | popc | bswap | extr => exact State.issue_alu1 h
  case cmp c cond xa xb =>
    rw [← w64_b2n]
    exact State.issue_alu2 h
  case cmpi c cond xa imm =>
    rw [← w64_b2n]
    exact State.issue_alu1 h
  case insr => exact State.issue_aluOld h
  case csel c xs xa xb =>
    obtain ⟨t, ht, hwrote⟩ := State.issue_result 1 xd (fun v => if v.reg xs ≠ 0 then v.reg xa else v.reg xb)
      (fun v c j n => by simp only [State.reg_pay]) h
    rw [ite_not] at hwrote
    exact ⟨t, ht, hwrote⟩
  case limm c part imm =>
    exact State.issue_result 1 xd (fun v => limmOf part imm (v.reg xd)) (fun v c j n => by rw [State.reg_pay]) h

/-- Settles O1: `exec_scalarWord`. -/
theorem scalarWords : Obligations.ScalarWords := by
  unfold Obligations.ScalarWords
  intro i s uses xd lat x hw h
  obtain ⟨t, ht, hreg, hthrough⟩ := exec_scalarWord hw h
  exact ⟨t, ht, hreg, hthrough.confined, hthrough.half, hthrough.goes⟩

end Sys2Proof.Machine

/-! PROOFS. Statements that a landing refutes.

A context that takes a cause first lets its writes in flight land (R401). A TKINC that lands past 65,535 writes a record to the fault
log (R68), and that write aborts the tasks that have read its line (R296), the context's own among them: its core is then released and
names no task. Where the state lists a speculative task under number 0, the cause parks that task instead of stopping the context. The statements below say of every state that the context has trapped, and leave out neither the landing
(`TkFits`, as other statements do) nor such a task. -/

namespace Sys2Proof.Machine

open Sys2Proof

/-- The outcome goes on with the issuing context idle. -/
def leavesIdle (o : Host.Outcome State Fault Refusal) : Bool :=
  match o with
  | .next t => t.me.run == .idle
  | _ => false

theorem not_trapped_of_leavesIdle {o : Host.Outcome State Fault Refusal} {t : State} {r : FaultRecord} (h : leavesIdle o = true)
    (ht : o = .next t) : t.me.run ≠ .trapped r := by
  subst ht
  have hidle : t.me.run = .idle := eq_of_beq h
  rw [hidle]
  exact nofun

/-- The running context of the counterexamples, in interlocked mode, with the TKINC of counter 1 in flight, at level `level`; x1 and x2
hold 9. -/
def lastIncrement (level : Nat) : CtxSt :=
  { incrementInFlight with exposed := false, level := level, regs := [(1, 9), (2, 9)] }

/-- Context `x` of core 0 issues for task 1, which is not speculative and has read the line of the fault log; counter 1 is full. Task 2
is the frontier, and a speculative task is listed under number 0. Granule 0 is shared once. -/
def unseated (x : Ctx) (level : Nat) : State :=
  { State.reset with
    who := ⟨0, x⟩
    nextSeq := 3
    tasks := [(0, { logReader with seq := 0, st := .waiting, target := [], reads := [] }), (1, { logReader with spec := false, prov := false, ts := 5 }),
      (2, { logReader with seq := 2, ts := 1, target := [], spec := false, prov := false, reads := [] })]
    parts := [(0, { Part.reset with regs := [(11, 0x10000), (16, 1)] })]
    grans := [(0, ⟨0, 1⟩)]
    cores := [(0, { CoreSt.reset with
      status := .active, task := 1, cL := lastIncrement level, cX := lastIncrement level, cS := lastIncrement level
      tks := [(1, ⟨65535, false⟩)], nextId := 1, fq := List.replicate 32 (.mode .rne) })] }

/-- Refutes O6: TKINC past 65,535, where the landing of an earlier one takes the core from the context (`unseated`). -/
theorem not_plainControlWords : ¬ Obligations.PlainControlWords := by
  unfold Obligations.PlainControlWords
  rintro ⟨-, -, -, -, htkinc, -⟩
  obtain ⟨t, r, ht, hrun, -⟩ := htkinc Ctl.none 1 1 0 (unseated .L 0) (by decide +kernel) (by decide +kernel) (by decide +kernel)
    (by decide +kernel)
  exact not_trapped_of_leavesIdle (by decide +kernel) ht hrun

/-- Refutes O7: CAPR at an offset that is no multiple of 8 (`unseated`). -/
theorem not_modeLeaveAndCapability : ¬ Obligations.ModeLeaveAndCapability := by
  unfold Obligations.ModeLeaveAndCapability
  rintro ⟨-, -, -, hcapr⟩
  obtain ⟨t, r, ht, hrun, -⟩ := hcapr Ctl.none 3 1 0 (unseated .L 0) 9 (by decide +kernel) (by decide +kernel) (by decide +kernel)
    (by decide +kernel) (by decide)
  exact not_trapped_of_leavesIdle (by decide +kernel) ht hrun

/-- In interlocked mode a word with no cause attached comes to its checks. -/
theorem unseated_wordComes (x : Ctx) (level : Nat) (hx : (unseated x level).stopsHere false = false) :
    WordComes (unseated x level) Ctl.none := by
  refine ⟨?_, ?_, hx, fun u => ?_⟩
  · cases x <;> rfl
  · exact .inl (by cases x <;> exact nofun)
  · rw [State.seen_interlocked _ _ _ (by cases x <;> rfl)]
    cases x <;> rfl

/-- Refutes O8: MFS of a supervisor's register at level 0 (`unseated`). -/
theorem not_specialReads : ¬ Obligations.SpecialReads := by
  unfold Obligations.SpecialReads
  rintro ⟨-, hpriv, -⟩
  obtain ⟨t, r, ht, hrun, -⟩ := hpriv Ctl.none 3 0x8000 (unseated .L 0) (unseated_wordComes .L 0 (by decide +kernel))
    (by decide +kernel) (by decide +kernel) (by decide +kernel) (by decide +kernel)
  exact not_trapped_of_leavesIdle (by decide +kernel) ht hrun

/-- Refutes O12: LDH at an odd address (`unseated`). -/
theorem not_badAddressesTrap : ¬ Obligations.BadAddressesTrap := by
  unfold Obligations.BadAddressesTrap
  intro h
  obtain ⟨halign, -⟩ := h (.ldh Ctl.none 3 1 0) (unseated .L 0) ⟨[3, 1], .load 3 2, 9, some 3⟩ rfl (by decide +kernel)
    (by decide +kernel) (by decide +kernel) (by decide +kernel) (by decide +kernel)
  obtain ⟨t, r, ht, hrun, -⟩ := halign (by decide +kernel)
  exact not_trapped_of_leavesIdle (by decide +kernel) ht hrun

/-- Refutes O15: BADDR past the end of its run (`unseated`); the name 0 names granule 0. -/
theorem not_berthWords : ¬ Obligations.BerthWords := by
  unfold Obligations.BerthWords
  rintro ⟨-, hpast, -⟩
  obtain ⟨t, r, ht, hrun, -⟩ := hpast Ctl.none 3 0 1 0x1000 (unseated .L 0) ⟨0, 0, 0, 1, 0⟩ (by decide +kernel) (by decide +kernel)
    (by decide +kernel) (by decide +kernel) (by decide +kernel) (by decide +kernel)
  exact not_trapped_of_leavesIdle (by decide +kernel) ht hrun

/-- Refutes O17: TYIELD.PAST with a bound later than TASKT (`unseated`). -/
theorem not_yieldAndBindWords : ¬ Obligations.YieldAndBindWords := by
  unfold Obligations.YieldAndBindWords
  rintro ⟨-, -, hpast, -⟩
  obtain ⟨t, r, ht, hrun, -⟩ := hpast Ctl.none 1 (unseated .L 0) (by decide +kernel) (by decide +kernel) (by decide +kernel)
    (by decide +kernel) (by decide +kernel)
  exact not_trapped_of_leavesIdle (by decide +kernel) ht hrun

/-- Refutes O19: VMOV of an empty register queue (`unseated`). -/
theorem not_emptyQueuesTrap : ¬ Obligations.EmptyQueuesTrap := by
  unfold Obligations.EmptyQueuesTrap
  intro h
  obtain ⟨t, r, ht, hrun, -⟩ := h (.vmov Ctl.none ⟨vnull, 0, false⟩) (unseated .X 0)
    (vector2 2 ⟨vnull, 0, false⟩ fun a => (a, 0)) [] [] 0 1 rfl (by decide +kernel) nofun (by decide +kernel) rfl (by decide +kernel)
    (by decide +kernel) (by decide +kernel) (by decide +kernel) (by decide +kernel)
  exact not_trapped_of_leavesIdle (by decide +kernel) ht hrun

/-- Refutes O22: FQPUSH into a full queue (`unseated`). -/
theorem not_engineStateWords : ¬ Obligations.EngineStateWords := by
  unfold Obligations.EngineStateWords
  rintro ⟨-, -, hfull, -⟩
  obtain ⟨t, r, ht, hrun, -⟩ := hfull Ctl.none 1 (unseated .X 0) (by decide +kernel) rfl (by decide +kernel)
    (by decide +kernel) (by decide +kernel) (by decide +kernel)
  exact not_trapped_of_leavesIdle (by decide +kernel) ht hrun

/-- Refutes O29: HALT at kernel level (`unseated`). -/
theorem not_excludedWordsTrap : ¬ Obligations.ExcludedWordsTrap := by
  unfold Obligations.ExcludedWordsTrap
  rintro ⟨hpriv, -⟩
  obtain ⟨t, r, ht, hrun, -⟩ := hpriv (.halt Ctl.none 1) (unseated .L 0) false (by decide +kernel)
    (unseated_wordComes .L 0 (by decide +kernel)) (by decide +kernel) (by decide +kernel)
  exact not_trapped_of_leavesIdle (by decide +kernel) ht hrun

/-- Refutes O33: ERET without a frame (`unseated`). -/
theorem not_returnFromReflection : ¬ Obligations.ReturnFromReflection := by
  unfold Obligations.ReturnFromReflection
  rintro ⟨-, hnoFrame⟩
  obtain ⟨t, r, ht, hrun, -⟩ := hnoFrame Ctl.none (unseated .L 1) (by decide +kernel) (by decide +kernel) (by decide +kernel)
    (by decide +kernel) (by decide +kernel)
  exact not_trapped_of_leavesIdle (by decide +kernel) ht hrun

end Sys2Proof.Machine

/-! PROOFS. What a landing write, a fault record and an abort leave of the state (R68, R299, R406), and what a change of several
cores does to each. -/

namespace Sys2Proof.Machine

open Sys2Proof

/-- `t` differs from `s` at most in what landing writes, fault records and the aborts that a record's bytes cause may change. -/
def State.Logged (s t : State) : Prop :=
  t = { s with cores := t.cores, hbm := t.hbm, bad := t.bad, tampered := t.tampered, grans := t.grans, parts := t.parts,
               tasks := t.tasks, vlines := t.vlines, binds := t.binds, gov := t.gov, lpInts := t.lpInts }

theorem State.Logged.refl (s : State) : s.Logged s := rfl

theorem State.Logged.trans {s t u : State} (h : s.Logged t) (h' : t.Logged u) : s.Logged u := by
  have e := h'
  unfold State.Logged at e ⊢
  rw [h] at e
  exact e

theorem State.Aborted.logged {s t : State} (h : s.Aborted t) : s.Logged t := by
  unfold State.Logged
  rw [h.rest]

theorem State.logged_updCore (s : State) (k : Nat) (f : CoreSt → CoreSt) : s.Logged (s.updCore k f) := rfl

theorem State.logged_updCtx (s : State) (k : Nat) (x : Ctx) (f : CtxSt → CtxSt) : s.Logged (s.updCtx k x f) := rfl

theorem State.logged_updPart (s : State) (p : Nat) (f : Part → Part) : s.Logged (s.updPart p f) := rfl

theorem State.logged_foldl {α : Type} (l : List α) (f : State → α → State) (hf : ∀ (s : State) a, s.Logged (f s a)) (s : State) :
    s.Logged (l.foldl f s) := by
  induction l generalizing s with
  | nil => exact .refl s
  | cons a l ih => exact (hf s a).trans (ih _)

theorem State.logged_poke (s : State) (a : Nat) (bs : List Byte) : s.Logged (s.poke 0 a bs) := by
  unfold State.poke
  simp only [if_pos]
  split <;> rfl

theorem State.logged_partWrite (s : State) (p a : Nat) (bs : List Byte) : s.Logged (s.partWrite p 0 a bs) :=
  (s.logged_poke a bs).trans (State.aborted_abortAll _ _).logged

theorem State.logged_logAt (s : State) (die : Nat) (r : FaultRecord) : s.Logged (s.logAt die r) := by
  unfold State.logAt
  dsimp only
  split
  · rfl
  · exact ((s.logged_partWrite _ _ _).trans (State.logged_updPart _ _ _)).trans rfl

theorem State.logged_incTkFrom (s : State) (die k n amount : Nat) (flag : Bool) (r : FaultRecord) :
    s.Logged (s.incTkFrom die k n amount flag r) := by
  unfold State.incTkFrom
  dsimp only
  split
  · exact (s.logged_updCore _ _).trans (State.logged_logAt _ _ _)
  · exact s.logged_updCore _ _

theorem State.logged_incTk (s : State) (k n amount : Nat) (flag : Bool) (r : FaultRecord) : s.Logged (s.incTk k n amount flag r) :=
  s.logged_incTkFrom ..

theorem State.logged_release (s : State) (k : Nat) (x : Ctx) (g : Sig) : s.Logged (s.release k x g) := by
  unfold State.release
  dsimp only
  split
  · rfl
  · exact (s.logged_updCtx _ _ _).trans (State.logged_incTk ..)

theorem State.logged_releaseWid (s : State) (k : Nat) (x : Ctx) (wid : Nat) : s.Logged (s.releaseWid k x wid) := by
  refine State.logged_foldl _ _ (fun u g => ?_) s
  split
  · exact u.logged_release k x g
  · exact .refl u

theorem State.logged_unhold (s : State) (k : Nat) (x : Ctx) (wid : Nat) : s.Logged (s.unhold k x wid) :=
  (s.logged_updCtx _ _ _).trans (State.logged_releaseWid _ _ _ _)

theorem State.logged_landOne (s : State) (k : Nat) (x : Ctx) (f : Flight) : s.Logged (s.landOne k x f) := by
  unfold State.landOne
  split
  case h_3 adds _ =>
    dsimp only
    split
    · rfl
    · split <;> rfl
  case h_7 => exact s.logged_incTk ..
  all_goals rfl

theorem State.logged_landWhere (s : State) (k : Nat) (x : Ctx) (p : Flight → Bool) : s.Logged (s.landWhere k x p) := by
  unfold State.landWhere
  dsimp only
  exact (s.logged_updCtx _ _ _).trans (State.logged_foldl _ _ (fun u f => u.logged_landOne k x f) _)

theorem State.logged_drain (s : State) (k : Nat) (x : Ctx) : s.Logged (s.drain k x) := s.logged_landWhere ..

/-! ### A change of several cores -/

/-- A change of the cores alone. -/
theorem State.forCores_eq (s : State) (ks : List Nat) (f : CoreSt → CoreSt) :
    s.forCores ks f = { s with cores := (s.forCores ks f).cores } := by
  unfold State.forCores
  induction ks generalizing s with
  | nil => rfl
  | cons k ks ih => exact ih (s.updCore k f)

/-- A core that is not named stays as it is. -/
theorem State.core_forCores_of_not_mem (s : State) {ks : List Nat} (f : CoreSt → CoreSt) {k : Nat} (hk : k ∉ ks) :
    (s.forCores ks f).core k = s.core k := by
  unfold State.forCores
  induction ks generalizing s with
  | nil => rfl
  | cons j ks ih =>
    rw [List.mem_cons, not_or] at hk
    rw [List.foldl_cons, ih _ hk.2, State.core_updCore_other _ _ _ _ hk.1]

/-- A change that does nothing more when it is made again changes each of the cores named. -/
theorem State.core_forCores (s : State) (ks : List Nat) {f : CoreSt → CoreSt} (hf : ∀ c, f (f c) = f c) (k : Nat) :
    (s.forCores ks f).core k = if k ∈ ks then f (s.core k) else s.core k := by
  unfold State.forCores
  induction ks generalizing s with
  | nil => rfl
  | cons j ks ih =>
    rw [List.foldl_cons, ih, State.core_updCore]
    by_cases hkj : k = j
    · subst hkj
      simp [hf]
    · simp [hkj]

end Sys2Proof.Machine

/-! PROOFS. What begins a start, a failed stage, and the safe state (R448 to R450). -/

namespace Sys2Proof.Machine

open Sys2Proof

/-- Stopping the work of the device leaves each partition its registers. -/
@[simp] theorem State.part_stopWork (s : State) (p : Nat) : s.stopWork.part p = (s.part p).emptied :=
  Sparse.get_map Part.reset Part.emptied rfl s.parts p

/-- A start that begins, from a state whose `BOOTSTAT` holds the count of attempts. -/
theorem State.started_beginStart (s : State) (b : Boot) (warm : Bool) (hsafe : b.safe = false) :
    Started s (({ s with boot := b } : State).beginStart warm) warm b.attempt := by
  have hpart (p : Nat) : (({ s with boot := b } : State).beginStart warm).part p = (s.part p).emptied := s.part_stopWork p
  exact ⟨fun _ => rfl, rfl, rfl, rfl, fun p => by rw [hpart]; rfl, fun _ => rfl, rfl, hsafe, rfl, rfl, rfl, rfl, rfl, rfl,
    fun p sel => by rw [hpart]; rfl⟩

/-- A start that the host asks for begins unless the device is in the safe state. -/
theorem State.started_askStart (s : State) (warm : Bool) (hsafe : s.boot.safe = false) :
    Started s (s.askStart warm) warm s.boot.attempt := by
  unfold State.askStart
  rw [if_neg (by simp [hsafe])]
  exact s.started_beginStart s.boot warm hsafe

/-- In the safe state no start begins. -/
theorem State.askStart_safe (s : State) (warm : Bool) (hsafe : s.boot.safe = true) : s.askStart warm = s := if_pos hsafe

/-- A failed stage while attempts are left: the next attempt begins. -/
theorem State.stageFails_again (s : State) (code : Nat) (h : s.boot.attempt + 1 < 3) : s.stageFails code =
    { s.stopWork with boot := { s.boot with
        attempt := s.boot.attempt + 1, fstage := s.boot.stage, fcode := code, stage := 1, listed := false } } :=
  if_neg (by omega)

/-- A failed stage of the last attempt: the safe state. -/
theorem State.stageFails_last (s : State) (code : Nat) (h : 3 ≤ s.boot.attempt + 1) : s.stageFails code =
    { s.stopWork with boot := { s.boot with
        attempt := 3, fstage := s.boot.stage, fcode := code, safe := true, ready := false, stage := 0, listed := false } } :=
  if_pos h

/-- A stage that takes too long fails with code 5. -/
theorem exec_stageTimeout (s : State) (hstage : s.boot.stage ≠ 0) (hsafe : s.boot.safe = false) :
    exec .stageTimeout s = .next (s.stageFails 5) := if_neg (by simp [hstage, hsafe])

end Sys2Proof.Machine

open Sys2Proof Sys2Proof.Machine in
/-- Settles O51: each start is one stop of the device's work that leaves the partitions' registers, with its own BOOTSTAT. -/
theorem deviceStarts : Obligations.DeviceStarts := by
  unfold Obligations.DeviceStarts
  refine ⟨fun s hsafe => ⟨?_, ⟨_, rfl, s.started_askStart false hsafe⟩, ⟨_, rfl, s.started_askStart false hsafe⟩,
    ⟨_, rfl, s.started_askStart true hsafe⟩, ?_, ?_⟩, ?_, ?_⟩
  · refine ⟨_, congrArg Host.Outcome.next (if_neg (by simp [hsafe])), ?_⟩
    exact s.started_beginStart { Boot.reset with trained := s.boot.trained } false rfl
  · intro hstage hagain
    refine ⟨_, exec_stageTimeout s hstage hsafe, ?_⟩
    rw [s.stageFails_again 5 hagain]
    exact ⟨rfl, rfl, rfl, rfl, hsafe, rfl⟩
  · intro hstage hlast
    refine ⟨_, exec_stageTimeout s hstage hsafe, ?_⟩
    rw [s.stageFails_last 5 hlast]
    exact ⟨rfl, rfl, rfl, rfl, rfl, rfl⟩
  · exact fun s => ⟨_, rfl, s.started_beginStart { s.boot with safe := false, attempt := 0 } false rfl⟩
  · intro s hsafe
    have hask (warm : Bool) : (Host.Outcome.next (s.askStart warm) : Host.Outcome State Fault Refusal) = .next s :=
      congrArg _ (s.askStart_safe warm hsafe)
    exact ⟨congrArg Host.Outcome.next (if_pos hsafe), hask false, hask false, hask true, if_pos (.inr hsafe)⟩

/-! PROOFS. Frames, refresh windows, leave, links, host ports and power gating (R14, R374, R390, R400, R441, R452, R453). -/

namespace Sys2Proof.Machine

open Sys2Proof

/-! ### The slot table (R374) -/

theorem State.slotTab_applySlot (s : State) (n : SlotNew) : (s.applySlot n).slotTab = Sparse.set 0 s.slotTab n.slot n.entry := by
  unfold State.applySlot
  dsimp only
  split
  · rw [State.logged_unhold _ n.core n.ctx n.wid]
  · rfl

theorem State.slotNew_applySlot (s : State) (n : SlotNew) : (s.applySlot n).slotNew = s.slotNew := by
  unfold State.applySlot
  dsimp only
  split
  · rw [State.logged_unhold _ n.core n.ctx n.wid]
  · rfl

theorem State.slotNew_applySlots (l : List SlotNew) (s : State) : (l.foldl State.applySlot s).slotNew = s.slotNew := by
  induction l generalizing s with
  | nil => rfl
  | cons n l ih => rw [List.foldl_cons, ih, State.slotNew_applySlot]

/-- Of the writes to a slot the last one holds. -/
theorem State.slotTab_applySlots (l : List SlotNew) (s : State) (i : Nat) : Sparse.get 0 (l.foldl State.applySlot s).slotTab i =
    ((l.filter fun n => n.slot == i).getLast?.map (·.entry)).getD (Sparse.get 0 s.slotTab i) := by
  induction l generalizing s with
  | nil => rfl
  | cons n l ih =>
    rw [List.foldl_cons, ih, State.slotTab_applySlot, Sparse.get_set]
    by_cases hn : n.slot = i
    · rw [List.filter_cons_of_pos (by simp [hn]), List.getLast?_cons, if_pos hn.symm]
      cases (l.filter fun n => n.slot == i).getLast? <;> rfl
    · rw [List.filter_cons_of_neg (by simp [hn]), if_neg (Ne.symm hn)]

/-! ### Leave, links, ports and islands -/

/-- A kind of leave that is kept counts to 255 (R453). -/
theorem CoreSt.kept_keep (c : CoreSt) (h : Heavy) (n : Nat) : (c.keep h n).kept h = min 255 (c.kept h + n) := by
  cases h <;> rfl

/-- A core whose request for leave is granted: kept leave, or an operation that goes on (R452, R453). -/
def LeaveReq.grant (r : LeaveReq) (c : CoreSt) : CoreSt :=
  match r.op with
  | none => c.keep (heavyOf r.kind) r.n
  | some id => c.grantOp (heavyOf r.kind) id

theorem LeaveReq.grant_none {r : LeaveReq} (h : r.op = none) (c : CoreSt) : r.grant c = c.keep (heavyOf r.kind) r.n := by
  unfold LeaveReq.grant
  rw [h]

theorem LeaveReq.grant_some {r : LeaveReq} {id : Nat} (h : r.op = some id) (c : CoreSt) : r.grant c = c.grantOp (heavyOf r.kind) id := by
  unfold LeaveReq.grant
  rw [h]

/-- An island governor's oldest request is granted. -/
theorem exec_leaveGrant {island : Nat} {s : State} {r : LeaveReq} {rest : List LeaveReq} (hgov : Sparse.get [] s.gov island = r :: rest) :
    exec (.leaveGrant island) s = .next (({ s with gov := Sparse.put s.gov island rest } : State).updCore r.core r.grant) := by
  simp only [exec, execLeaveGrant, hgov]
  rfl

theorem State.link_put (s : State) (l : Nat) (x : Link) (j : Nat) :
    ({ s with links := Sparse.put s.links l x } : State).link j = if j = l then x else s.link j := Sparse.get_put ..

theorem mem_insertNat {n m : Nat} {l : List Nat} : m ∈ insertNat n l ↔ m = n ∨ m ∈ l := by
  induction l with
  | nil => simp [insertNat]
  | cons a l ih =>
    unfold insertNat
    split
    · exact List.mem_cons
    · rw [List.mem_cons, ih, List.mem_cons]
      tauto

theorem mem_islandCores {island k : Nat} : k ∈ islandCores island ↔ k < 384 ∧ quadOf k = island := by
  simp [islandCores]

end Sys2Proof.Machine

open Sys2Proof Sys2Proof.Machine in
/-- Settles O50: each event is its own equation; a frame boundary applies its writes in turn, so the last to a slot holds. -/
theorem powerAndLinkEvents : Obligations.PowerAndLinkEvents := by
  unfold Obligations.PowerAndLinkEvents
  refine ⟨?_, ?_, ?_, ?_, ?_, ?_, ?_, ?_, ?_, ?_, ?_⟩
  · exact fun s => ⟨_, rfl, State.slotNew_applySlots _ _, State.slotTab_applySlots _ _⟩
  · exact fun bank s hbank hshut hdue => ⟨_, if_pos ⟨hbank, by simp [hshut], hdue⟩, rfl⟩
  · exact fun bank s hearly => if_neg fun h => absurd h.2.2 (by omega)
  · intro island s r rest hgov hop
    refine ⟨_, exec_leaveGrant hgov, Sparse.get_put_same .., ?_⟩
    rw [State.core_updCore_same, LeaveReq.grant_none hop]
    exact CoreSt.kept_keep ..
  · intro island s r rest id hgov hop
    refine ⟨_, exec_leaveGrant hgov, Sparse.get_put_same .., ?_⟩
    rw [State.core_updCore_same, LeaveReq.grant_some hop]
    rfl
  · intro l s hl hsafe
    refine ⟨_, if_pos ⟨hl, by simp [hsafe]⟩, fun j hj => ?_, ?_⟩
    · rw [State.link_put, if_neg hj]
    · rw [State.link_put, if_pos rfl]
  · intro l st peer s hl hst hsafe
    refine ⟨_, if_pos ⟨hl, hst, by simp [hsafe]⟩, fun j hj => ?_, ?_⟩
    · rw [State.link_put, if_neg hj]
    · rw [State.link_put, if_pos rfl]
  · exact fun l st peer s hsafe => ⟨if_neg (by simp [hsafe]), if_neg (by simp [hsafe])⟩
  · intro port up s hport
    refine ⟨_, if_neg (by omega), rfl, fun p => ?_⟩
    cases up
    · by_cases hp : p = port <;> simp [hp]
    · by_cases hp : p = port <;> simp [hp, mem_insertNat]
  · intro island s hisland hfree
    have hall : (islandCores island).all (fun k => (s.core k).status == .free) = true := by
      rw [List.all_eq_true]
      intro k hk
      rw [mem_islandCores] at hk
      simp [hfree k hk.1 hk.2]
    refine ⟨_, (if_neg (by omega)).trans ((if_neg (by simp)).trans (if_pos hall)), ?_, fun k hk => ?_⟩
    · rw [State.forCores_eq]
      dsimp only
      split
      · next h => exact List.contains_iff_mem.1 h
      · exact List.mem_append_right _ (List.mem_singleton_self _)
    · rw [State.core_forCores _ _ (by intro; rfl)]
      simp only [mem_islandCores, hk, true_and]
      rfl
  · exact fun island s hisland => ⟨_, (if_neg (by omega)).trans (if_pos rfl), rfl⟩

/-! PROOFS. A register write of the port in the safe state (R449). -/

namespace Sys2Proof.Machine

open Sys2Proof

/-- The device at reset, but in the safe state (R450). -/
def inSafeState : State := { State.reset with boot := { Boot.reset with safe := true } }

end Sys2Proof.Machine

open Sys2Proof Sys2Proof.Machine in
/-- Refutes O48: in the safe state the port takes no write (R449), so a legal SPECDEPTH of 2 leaves the register at 1. -/
theorem not_registerWrites : ¬ Obligations.RegisterWrites := by
  unfold Obligations.RegisterWrites
  rintro ⟨hspecdepth, -⟩
  have hwrite : (Host.Outcome.next inSafeState : Host.Outcome State Fault Refusal) =
      .next (inSafeState.updPart 0 fun q => { q with specdepth := 2 }) := hspecdepth 0 2 inSafeState (by decide)
  injection hwrite with hstate
  have hpart : (inSafeState.part 0).specdepth = 2 := by rw [hstate]; rfl
  exact absurd hpart (by decide)

/-! PROOFS. Launch queues: enabling, a kick, and the fetch of an entry (R433 to R437). -/

namespace Sys2Proof.Machine

open Sys2Proof

/-! ### The control word that the host writes (R433) -/

/-- The control word as the host leaves it: its own fields from `v`, the monitor's as they were. -/
theorem LaunchQ.toNat_hostCtl (b : LaunchQ) (v : Word) : (b.hostCtl v).toNat = field v 63 1 * 2 ^ 63 + b.partition * 2 ^ 56 +
    b.maxlvl * 2 ^ 52 + field v 32 11 * 2 ^ 32 + field v 8 4 * 2 ^ 8 + field v 0 4 := by
  have h63 := field_lt v 63 1
  have hpart : b.partition < 2 ^ 4 := field_lt ..
  have hlvl : b.maxlvl < 2 ^ 2 := field_lt ..
  have hvec := field_lt v 32 11
  have hesz := field_lt v 8 4
  have hcsz := field_lt v 0 4
  unfold LaunchQ.hostCtl w64
  rw [BitVec.toNat_ofNat, Nat.mod_eq_of_lt]
  omega

section HostCtl

variable (b : LaunchQ) (v : Word)

theorem LaunchQ.field_hostCtl : field (b.hostCtl v) 63 1 = field v 63 1 ∧ field (b.hostCtl v) 56 4 = b.partition ∧
    field (b.hostCtl v) 52 2 = b.maxlvl ∧ field (b.hostCtl v) 8 4 = field v 8 4 ∧ field (b.hostCtl v) 0 4 = field v 0 4 := by
  have h63 := field_lt v 63 1
  have hpart : b.partition < 2 ^ 4 := field_lt ..
  have hlvl : b.maxlvl < 2 ^ 2 := field_lt ..
  have hvec := field_lt v 32 11
  have hesz := field_lt v 8 4
  have hcsz := field_lt v 0 4
  have hsum (lo len : Nat) : field (b.hostCtl v) lo len = (field v 63 1 * 2 ^ 63 + b.partition * 2 ^ 56 +
      b.maxlvl * 2 ^ 52 + field v 32 11 * 2 ^ 32 + field v 8 4 * 2 ^ 8 + field v 0 4) / 2 ^ lo % 2 ^ len := by
    rw [← LaunchQ.toNat_hostCtl]
    rfl
  simp only [hsum]
  generalize field v 63 1 = a at *
  generalize field v 32 11 = x at *
  generalize field v 8 4 = e at *
  generalize field v 0 4 = c at *
  generalize b.partition = p at *
  generalize b.maxlvl = m at *
  refine ⟨?_, ?_, ?_, ?_, ?_⟩ <;> omega

theorem bitOf_eq_field {n : Nat} (w : BitVec n) (i : Nat) : bitOf w i = (field w i 1 == 1) := rfl

end HostCtl

/-! ### A queue's block after a change -/

@[simp] theorem State.queue?_updQueue (s : State) (q : Nat) (f : LaunchQ → LaunchQ) : (s.updQueue q f).queue? q = f (s.queue? q) :=
  Sparse.get_put_same ..

/-- Enabling changes STATE and the count of reads alone. -/
theorem LaunchQ.enable_eq (b : LaunchQ) : b.enable = { b with state := b.enable.state, tries := b.enable.tries } := by
  unfold LaunchQ.enable
  split
  · split <;> rfl
  · split <;> rfl

/-- A queue at rest that is enabled waits for a kick, or is refused. -/
theorem LaunchQ.enable_rest {b : LaunchQ} (hen : b.en = true) (hrest : b.state = 0 ∨ b.state = 2 ∨ b.state = 3) :
    b.enable = { b with state := if b.ok then 1 else 4, tries := 0 } := by
  unfold LaunchQ.enable
  rw [if_pos hen, if_pos hrest]

/-- What a write of the control word leaves in the queue's block. -/
theorem State.queue?_writeCtl (s : State) (q : Nat) (v : Word) : ∃ st n, (s.writeCtl q v).queue? q =
    { s.queue? q with ctl := (s.queue? q).hostCtl v, state := st, tries := n } := by
  unfold State.writeCtl State.restQueue
  rw [State.queue?_updQueue, State.queue?_updQueue, LaunchQ.enable_eq]
  split <;> exact ⟨_, _, rfl⟩

/-- STATE after a write of the control word that enables a queue at rest. -/
theorem State.state_writeCtl (s : State) (q : Nat) (v : Word) (hen : bitOf v 63 = true)
    (hrest : (s.queue? q).state = 0 ∨ (s.queue? q).state = 2 ∨ (s.queue? q).state = 3) :
    ((s.writeCtl q v).queue? q).state =
      if 4 ≤ field v 8 4 ∧ 4 ≤ field v 0 4 ∧ (s.queue? q).maxlvl ≠ 3 then 1 else 4 := by
  obtain ⟨hf63, -, hlvl, hesz, hcsz⟩ := (s.queue? q).field_hostCtl v
  have hen' : bitOf ((s.queue? q).hostCtl v) 63 = true := by rw [bitOf_eq_field, hf63, ← bitOf_eq_field, hen]
  have hok : ({ s.queue? q with ctl := (s.queue? q).hostCtl v } : LaunchQ).ok = true ↔
      4 ≤ field v 8 4 ∧ 4 ≤ field v 0 4 ∧ (s.queue? q).maxlvl ≠ 3 := by
    simp [LaunchQ.ok, LaunchQ.esz, LaunchQ.csz, hesz, hcsz, show field ((s.queue? q).hostCtl v) 52 2 = _ from hlvl,
      LaunchQ.maxlvl, and_assoc]
  have henabled := LaunchQ.enable_rest (b := { s.queue? q with ctl := (s.queue? q).hostCtl v }) hen' hrest
  unfold State.writeCtl State.restQueue
  rw [State.queue?_updQueue, State.queue?_updQueue, henabled, if_neg (fun h => by simp [LaunchQ.en, hen'] at h)]
  exact ite_congr (propext hok) (fun _ => rfl) fun _ => rfl

theorem State.queue?_of_queues {s t : State} (h : t.queues = s.queues) (q : Nat) : t.queue? q = s.queue? q := by
  unfold State.queue?
  rw [h]

theorem State.queue?_logged {s t : State} (h : s.Logged t) (q : Nat) : t.queue? q = s.queue? q := by
  unfold State.queue?
  rw [h]

@[simp] theorem State.queue?_raiseVec (s : State) (q r : Nat) : (s.raiseVec q).queue? r = s.queue? r := rfl

/-- A consumed entry moves LHEAD on; no other field that a completion record goes by changes. -/
theorem State.queue?_consumed (s : State) (q : Nat) : ∃ st, (s.consumed q).queue? q =
    { s.queue? q with lhead := (s.queue? q).lhead + 1, tries := 0, state := st } := by
  unfold State.consumed State.restQueue
  rw [State.queue?_updQueue, State.queue?_updQueue]
  split <;> exact ⟨_, rfl⟩

/-! ### A kick, and the fetch of an entry (R434 to R436) -/

/-- A kick past the ring's end fails. -/
theorem State.writeKtail_past {s : State} {q : Nat} {tail : BitVec 32}
    (h : 2 ^ (s.queue? q).esz < (tail - (s.queue? q).lhead).toNat) : s.writeKtail q tail =
      ((s.updQueue q fun b => { b with ktail := tail }).updQueue q fun b => { b with state := 3, kidx := b.lhead }).raiseVec q := by
  unfold State.writeKtail
  dsimp only
  rw [State.queue?_updQueue]
  exact if_pos h

theorem State.writeKtail_within {s : State} {q : Nat} {tail : BitVec 32}
    (h : (tail - (s.queue? q).lhead).toNat ≤ 2 ^ (s.queue? q).esz) : s.writeKtail q tail =
      s.updQueue q fun b => { b with ktail := tail } := by
  unfold State.writeKtail
  dsimp only
  rw [State.queue?_updQueue]
  exact if_neg (Nat.not_lt.2 h)

/-- What the fetch of an entry does by the phase that it finds. -/
theorem exec_entryFetch {q : Nat} {s : State} (hq : q < 32) (hf : s.fetches q = true) : exec (.entryFetch q) s = .next
    (if s.host.num ((s.queue? q).entryAt (s.queue? q).lhead.toNat + 0x38) 8 / 2 ^ 63 = (s.queue? q).phase (s.queue? q).lhead.toNat
      then s.consume q
      else if 65 ≤ (s.queue? q).tries + 1 then s.kickFails q else s.updQueue q fun b => { b with tries := b.tries + 1 }) := by
  refine (if_neg (by simp [hf, hq])).trans ?_
  split
  · rfl
  · split <;> rfl

/-- The 66th read that finds the wrong phase ends the fetch. -/
theorem State.queue?_kickFails (s : State) (q : Nat) : (s.kickFails q).queue? q =
    { s.queue? q with state := 2, kidx := (s.queue? q).lhead, tries := 0 } := by
  unfold State.kickFails State.log
  dsimp only
  rw [State.queue?_logged (State.logged_logAt ..), State.queue?_raiseVec, State.queue?_updQueue]

/-! ### Completion records and launches (R436, R437) -/

/-- A write of host memory leaves the rest of the state, but that the bytes it covers are good again (R417). -/
theorem State.putBytes_host (s : State) (a : Nat) (bs : List Byte) :
    ∃ bad, s.putBytes 1 a bs = { s with host := s.host.setBytes a bs, bad := bad } := ⟨_, rfl⟩

theorem State.poke_host (s : State) (a : Nat) (bs : List Byte) :
    ∃ bad, s.poke 1 a bs = { s with host := s.host.setBytes a bs, bad := bad } := by
  unfold State.poke
  rw [if_neg Nat.one_ne_zero]
  exact s.putBytes_host a bs

@[simp] theorem State.queue?_pokeHost (s : State) (a : Nat) (bs : List Byte) (q : Nat) : (s.poke 1 a bs).queue? q = s.queue? q := by
  obtain ⟨bad, hpoke⟩ := s.poke_host a bs
  exact State.queue?_of_queues (by rw [hpoke]) q

theorem State.queue?_completionRecord (s : State) (q : Nat) (tag : Word) (irq : Bool) (seq status : Nat) :
    (s.completionRecord q tag irq seq status).queue? q = { s.queue? q with ctail := (s.queue? q).ctail + 1 } := by
  unfold State.completionRecord
  dsimp only
  split
  · rw [State.queue?_raiseVec, State.queue?_updQueue, State.queue?_pokeHost]
  · rw [State.queue?_updQueue, State.queue?_pokeHost]

theorem State.host_completionRecord (s : State) (q : Nat) (tag : Word) (irq : Bool) (seq status : Nat) :
    (s.completionRecord q tag irq seq status).host = s.host.setBytes
      (field (s.queue? q).cbase 6 58 * 64 + 32 * ((s.queue? q).ctail.toNat % 2 ^ (s.queue? q).csz))
      (completionBytes (s.queue? q).ctail.toNat (s.queue? q).csz q tag seq status) := by
  unfold State.completionRecord
  dsimp only
  obtain ⟨bad, hpoke⟩ := s.poke_host (field (s.queue? q).cbase 6 58 * 64 + 32 * ((s.queue? q).ctail.toNat % 2 ^ field (s.queue? q).ctl 0 4))
    (completionBytes (s.queue? q).ctail.toNat (field (s.queue? q).ctl 0 4) q tag seq status)
  rw [hpoke]
  split <;> rfl

/-- An entry that is refused leaves its ring with a completion record. -/
theorem State.refuseEntry_leaves (s : State) (q : Nat) (tag : Word) (irq : Bool) (status : Nat) :
    ((s.refuseEntry q tag irq status).queue? q).lhead = (s.queue? q).lhead + 1 ∧
    ((s.refuseEntry q tag irq status).queue? q).ctail = (s.queue? q).ctail + 1 ∧
    (s.refuseEntry q tag irq status).host = s.host.setBytes
      (field (s.queue? q).cbase 6 58 * 64 + 32 * ((s.queue? q).ctail.toNat % 2 ^ (s.queue? q).csz))
      (completionBytes (s.queue? q).ctail.toNat (s.queue? q).csz q tag 0 status) := by
  obtain ⟨st, hq⟩ := s.queue?_consumed q
  unfold State.refuseEntry
  rw [State.queue?_completionRecord, State.host_completionRecord, hq]
  exact ⟨rfl, rfl, rfl⟩

/-- An entry whose image address is no multiple of 64 is refused. -/
theorem State.consume_misaligned {s : State} {q : Nat} {e : List Byte}
    (he : e = s.host.bytes ((s.queue? q).entryAt (s.queue? q).lhead.toNat) 64) (h : word64 e 0 % 64 ≠ 0) :
    s.consume q = s.refuseEntry q (w64 (word64 e 3)) (word64 e 7 / 8 % 2 == 1) 1 := by
  subst he
  unfold State.consume
  dsimp only
  rw [if_pos h]

/-- An entry whose image is found is launched. -/
theorem State.consume_image {s : State} {q : Nat} {e : List Byte} {h : Hdr} {n : List ReadEnt}
    (he : e = s.host.bytes ((s.queue? q).entryAt (s.queue? q).lhead.toNat) 64) (halign : word64 e 0 % 64 = 0)
    (himage : s.image sequencer (s.queue? q).partition ⟨false, word64 e 7 / 2 % 4 == 0⟩ (word64 e 0) = .ok h n) :
    s.consume q = s.launch q e h := by
  subst he
  unfold State.consume
  dsimp only
  rw [if_neg (not_not.2 halign), himage]

/-- A task enters a scheduler queue that has a place: it is found under the next sequence number, waiting. -/
theorem State.enterQueue_enters {s : State} {t : Task} (hroom : (s.part t.part).hasRoom t.queue = true) :
    (s.enterQueue t).task? s.nextSeq = some { t with seq := s.nextSeq, since := s.now } ∧
    (s.enterQueue t).nextSeq = s.nextSeq + 1 ∧ (s.enterQueue t).queues = s.queues := by
  obtain ⟨g, hg⟩ : ∃ g, ((s.part t.part).segsOf t.queue).getLast? = some g := by
    unfold Part.hasRoom at hroom
    split at hroom
    · exact ⟨_, by assumption⟩
    · cases hroom
  unfold State.enterQueue
  dsimp only
  split
  · next hnone => exact absurd (hg.symm.trans hnone) nofun
  · exact ⟨Sparse.find_put_same .., rfl, rfl⟩

/-- The task of an entry. -/
def entryTask (q : Nat) (b : LaunchQ) (e : List Byte) (h : Hdr) : Task :=
  newTask (word64 e 2) b.partition 0 (word64 e 7 / 2 % 4) (word64 e 7 % 2 == 1) (w64 (word64 e 0)) (w64 (word64 e 1)) 0
    (.host q (w64 (word64 e 3)) (word64 e 7 / 8 % 2 == 1)) h

/-- An entry of a level and a timestamp that its queue allows becomes a task where the scheduler queue has a place. -/
theorem State.launch_enters {s : State} {q : Nat} {e : List Byte} {h : Hdr}
    (hlvl : word64 e 7 / 2 % 4 ≤ (s.queue? q).maxlvl) (hlvl3 : word64 e 7 / 2 % 4 ≠ 3)
    (hts : s.tsPast (s.queue? q).partition (word64 e 2) = false) (htasks : s.tasks.length < 8192)
    (hroom : (s.part (s.queue? q).partition).hasRoom (4 * (s.queue? q).partition + hdrPrio h) = true) :
    s.launch q e h = (s.enterQueue (entryTask q (s.queue? q) e h)).consumed q := by
  have hmade : s.create (entryTask q (s.queue? q) e h) sequencer .L q = .done (s.enterQueue (entryTask q (s.queue? q) e h)) := by
    unfold State.create
    rw [if_neg (Nat.not_le.2 htasks), if_pos (by exact hroom)]
  unfold entryTask at hmade
  unfold State.launch
  dsimp only
  rw [if_neg (by omega), if_neg (by simp [hts]), hmade]
  rfl

end Sys2Proof.Machine

open Sys2Proof Sys2Proof.Machine in
/-- Settles O49: the write of a control word by its fields, a kick by its distance, and a fetch by the phase that it finds. -/
theorem launchQueueEvents : Obligations.LaunchQueueEvents := by
  unfold Obligations.LaunchQueueEvents
  have enable_eq {q : Nat} {s : State} (v : Word) (hq : q < 32) (hsafe : s.boot.safe = false) :
      exec (.queueEnable q v) s = .next (s.writeCtl q v) := if_neg (by simp [hsafe, hq])
  have kick_eq {q : Nat} {s : State} (tail : BitVec 32) (hq : q < 32) (hsafe : s.boot.safe = false) :
      exec (.kick q tail) s = .next (s.writeKtail q tail) := if_neg (by simp [hsafe, hq])
  refine ⟨?_, fun q v s hq hsafe => ⟨_, enable_eq v hq hsafe⟩, ?_, ?_, ?_, ?_, ?_⟩
  · intro q v s t hq hsafe ht
    rw [enable_eq v hq hsafe] at ht
    injection ht with ht
    subst ht
    obtain ⟨h63, hpart, hlvl, hesz, hcsz⟩ := (s.queue? q).field_hostCtl v
    obtain ⟨st, n, hblock⟩ := s.queue?_writeCtl q v
    refine ⟨?_, ?_, ?_, ?_, ?_, s.state_writeCtl q v⟩ <;> rw [hblock]
    · exact congrArg (· == 1) h63
    · exact hesz
    · exact hcsz
    · exact hpart
    · exact hlvl
  · intro q tail s hq hsafe hin
    exact ⟨_, kick_eq tail hq hsafe, State.writeKtail_within hin⟩
  · intro q tail s hq hsafe hpast
    refine ⟨_, kick_eq tail hq hsafe, ?_⟩
    rw [State.writeKtail_past hpast, State.queue?_raiseVec, State.queue?_updQueue, State.queue?_updQueue]
    refine ⟨rfl, rfl, ?_⟩
    unfold State.raiseVec
    rw [State.queue?_updQueue, State.queue?_updQueue]
    rfl
  · rintro q s b hq hf rfl hphase
    refine ⟨fun hfew => ⟨_, exec_entryFetch hq hf, ?_⟩, fun hmany => ⟨_, exec_entryFetch hq hf, ?_⟩⟩
    · rw [if_neg hphase, if_neg (by omega)]
    · rw [if_neg hphase, if_pos hmany, State.queue?_kickFails]
      exact ⟨rfl, rfl⟩
  · rintro q s b e hq hf rfl hphase he hbad
    refine ⟨_, exec_entryFetch hq hf, ?_⟩
    rw [if_pos hphase, State.consume_misaligned he hbad]
    exact s.refuseEntry_leaves ..
  · rintro q s b e h n hq hf rfl hphase he halign himage hlvl hlvl3 hts - - htasks hroom
    obtain ⟨htask, hseq, hqueues⟩ := State.enterQueue_enters (s := s) (t := entryTask q (s.queue? q) e h) hroom
    obtain ⟨st, hblock⟩ := (s.enterQueue (entryTask q (s.queue? q) e h)).queue?_consumed q
    refine ⟨_, { entryTask q (s.queue? q) e h with seq := s.nextSeq, since := s.now }, exec_entryFetch hq hf, ?_⟩
    rw [if_pos hphase, State.consume_image he halign himage, State.launch_enters hlvl hlvl3 hts htasks hroom]
    refine ⟨?_, hseq, htask, rfl, rfl, rfl, rfl, rfl, rfl, rfl, rfl⟩
    rw [hblock, State.queue?_of_queues hqueues]

/-! PROOFS. What an abort leaves in memory, in the task list and in the cores (R298, R299, R421). -/

namespace Sys2Proof.Machine

open Sys2Proof

/-! ### Memory outside the queues' segments (R421) -/

/-- Off the segments of the scheduler's queues in `s`, `t` has the byte at `a` that `s` has; and `a` is off them in `t` too. -/
def State.KeepsByte (a : Nat) (s t : State) : Prop := OffQueues s a 1 → OffQueues t a 1 ∧ t.hbm.byte a = s.hbm.byte a

theorem State.KeepsByte.refl (a : Nat) (s : State) : s.KeepsByte a s := fun h => ⟨h, rfl⟩

theorem State.KeepsByte.trans {a : Nat} {s t u : State} (h : s.KeepsByte a t) (h' : t.KeepsByte a u) : s.KeepsByte a u := by
  intro hoff
  obtain ⟨hoff', hbyte⟩ := h hoff
  obtain ⟨hoff'', hbyte'⟩ := h' hoff'
  exact ⟨hoff'', hbyte'.trans hbyte⟩

theorem State.KeepsByte.of_eq {a : Nat} {s t : State} (hparts : t.parts = s.parts) (hhbm : t.hbm = s.hbm) : s.KeepsByte a t := by
  intro hoff
  unfold OffQueues at hoff ⊢
  rw [hparts, hhbm]
  exact ⟨hoff, rfl⟩

theorem State.keepsByte_foldl {α : Type} {a : Nat} (l : List α) (f : State → α → State)
    (hf : ∀ (s : State) x, s.KeepsByte a (f s x)) (s : State) : s.KeepsByte a (l.foldl f s) := by
  induction l generalizing s with
  | nil => exact .refl a s
  | cons x l ih => exact (hf s x).trans (ih _)

/-- What a sparse table reads as is the default or listed. -/
theorem Sparse.get_mem {α : Type} (d : α) (m : Sparse α) (j : Nat) : Sparse.get d m j = d ∨ (j, Sparse.get d m j) ∈ m := by
  induction m with
  | nil => exact .inl rfl
  | cons e m ih =>
    obtain ⟨i, x⟩ := e
    unfold Sparse.get
    split
    · next hij => exact .inr (by rw [hij]; exact List.mem_cons_self)
    · exact ih.imp id (List.mem_cons_of_mem _)

/-- The segments of a partition's queues are off the address. -/
theorem OffQueues.part {s : State} {a n : Nat} (hoff : OffQueues s a n) (p : Nat) {g : Seg} (hg : g ∈ (s.part p).segs) :
    meets g.pa 65536 a n = false := by
  rcases Sparse.get_mem .reset s.parts p with hreset | hmem
  · rw [State.part, hreset] at hg
    exact absurd hg List.not_mem_nil
  · exact hoff _ hmem g hg

/-- A change of a partition whose segments are still off the address. -/
theorem State.keepsByte_updPart {a : Nat} {s : State} {p : Nat} {f : Part → Part}
    (hf : OffQueues s a 1 → ∀ g, g ∈ (f (s.part p)).segs → meets g.pa 65536 a 1 = false) : s.KeepsByte a (s.updPart p f) := by
  refine fun hoff => ⟨fun e he g hg => ?_, rfl⟩
  rcases Sparse.mem_put he with rfl | he
  · exact hf hoff g hg
  · exact hoff e he g hg

/-- A change of a partition that adds no segment. -/
theorem State.keepsByte_updPart_of_subset {a : Nat} {s : State} {p : Nat} {f : Part → Part}
    (hf : ∀ g, g ∈ (f (s.part p)).segs → g ∈ (s.part p).segs) : s.KeepsByte a (s.updPart p f) :=
  State.keepsByte_updPart fun hoff g hg => hoff.part p (hf g hg)

theorem State.parts_segWord (s : State) (pa v : Nat) : (s.segWord pa v).parts = s.parts := by rw [State.segWord_eq]

/-- A word of a segment's header lies in the segment. -/
theorem State.keepsByte_segWord {a : Nat} {s : State} {pa off v : Nat} (hoff : off + 8 ≤ 65536)
    (hpa : meets pa 65536 a 1 = false) : s.KeepsByte a (s.segWord (pa + off) v) := by
  rw [State.segWord_eq]
  refine fun h => ⟨h, Memory.byte_setBytes_outside _ _ _ _ ?_⟩
  simp only [meets, Bool.and_eq_false_iff, decide_eq_false_iff_not] at hpa
  rw [leBytes_length]
  omega

theorem State.keepsByte_writeChain {a : Nat} (l : List Seg) (hl : ∀ g, g ∈ l → meets g.pa 65536 a 1 = false) (s : State) :
    s.KeepsByte a (s.writeChain l) := by
  induction l generalizing s with
  | nil => exact .refl a s
  | cons g l ih =>
    have hg := hl g List.mem_cons_self
    exact ((State.keepsByte_segWord (off := 0) (by decide) hg).trans (State.keepsByte_segWord (by decide) hg)).trans
      (ih (fun x hx => hl x (List.mem_cons_of_mem _ hx)) _)

theorem mem_of_mem_delFirst {α : Type} {p : α → Bool} {l : List α} {x : α} (h : x ∈ delFirst p l) : x ∈ l := by
  induction l with
  | nil => exact h
  | cons y l ih =>
    unfold delFirst at h
    split at h
    · exact List.mem_cons_of_mem _ h
    · exact (List.mem_cons.1 h).elim (fun e => e ▸ List.mem_cons_self) fun h => List.mem_cons_of_mem _ (ih h)

theorem mem_of_mem_updFirst {α : Type} {p : α → Bool} {f : α → α} {l : List α} {x : α} (h : x ∈ updFirst p f l) :
    x ∈ l ∨ ∃ y, y ∈ l ∧ x = f y := by
  induction l with
  | nil => exact .inl h
  | cons y l ih =>
    unfold updFirst at h
    split at h
    · exact (List.mem_cons.1 h).elim (fun e => .inr ⟨y, List.mem_cons_self, e⟩) fun h => .inl (List.mem_cons_of_mem _ h)
    · rcases List.mem_cons.1 h with rfl | h
      · exact .inl List.mem_cons_self
      · exact (ih h).imp (List.mem_cons_of_mem _) fun ⟨z, hz, e⟩ => ⟨z, List.mem_cons_of_mem _ hz, e⟩

theorem State.keepsByte_reclaim {a : Nat} {s : State} (p : Nat) {g : Seg} (hg : OffQueues s a 1 → meets g.pa 65536 a 1 = false) :
    s.KeepsByte a (s.reclaim p g) := by
  intro hoff
  have hg := hg hoff
  unfold State.reclaim
  split
  · exact ⟨hoff, rfl⟩
  · dsimp only
    have hupd : s.KeepsByte a (s.updPart p fun v =>
        { v with segs := delFirst (fun x => x.pa == g.pa) v.segs, tqhead := spareWord g.pa true }) :=
      State.keepsByte_updPart_of_subset fun x hx => mem_of_mem_delFirst hx
    have hhead := (hupd.trans (State.keepsByte_segWord (off := 0) (v := segLink ((s.part p).spare.getD 0) (s.part p).spare.isSome)
      (by decide) hg)).trans (State.keepsByte_segWord (off := 8) (v := 0) (by decide) hg)
    refine (hhead.trans (State.keepsByte_writeChain _ (fun x hx => ?_) _)) hoff
    exact (hhead hoff).1.part p (List.mem_of_mem_filter hx)

theorem State.keepsByte_dropEntry (a : Nat) (s : State) (p q : Nat) : s.KeepsByte a (s.dropEntry p q) := by
  unfold State.dropEntry
  split
  · exact .refl a s
  · next g hfind =>
    intro hoff
    have hg : meets g.pa 65536 a 1 = false := hoff.part p (List.mem_of_find?_eq_some hfind)
    dsimp only
    refine ((State.keepsByte_updPart fun hoff' x hx => ?_).trans ((State.keepsByte_segWord (off := 8) (by decide) hg).trans
      (State.keepsByte_reclaim p (g := { g with used := g.used.filter (· != q) }) fun _ => hg))) hoff
    rcases mem_of_mem_updFirst hx with hx | ⟨-, -, rfl⟩
    · exact hoff'.part p hx
    · exact hg

/-! ### The names that an abort gives back, and its cores -/

theorem State.shareRun_eq (s : State) (b : Berth) (f : Nat → Nat) : s.shareRun b f = { s with grans := (s.shareRun b f).grans } := by
  unfold State.shareRun
  generalize List.range b.count = l
  induction l generalizing s with
  | nil => rfl
  | cons i l ih => exact ih _

theorem State.freeName_eq (s : State) (w : Word) : s.freeName w = { s with grans := (s.freeName w).grans } := by
  unfold State.freeName
  split
  · exact s.shareRun_eq ..
  · rfl

theorem State.relinquish_eq (s : State) (w : Word) : s.relinquish w = { s with grans := (s.relinquish w).grans } := by
  unfold State.relinquish
  split
  · exact s.shareRun_eq ..
  · rfl

theorem State.freeNames_eq (s : State) (l : List Word) : l.foldl (fun s w => s.freeName w) s =
    { s with grans := (l.foldl (fun s w => s.freeName w) s).grans } := by
  induction l generalizing s with
  | nil => rfl
  | cons w l ih =>
    rw [List.foldl_cons, ih, s.freeName_eq w]

theorem State.relinquishAll_eq (s : State) (l : List Word) : l.foldl (fun s w => s.relinquish w) s =
    { s with grans := (l.foldl (fun s w => s.relinquish w) s).grans } := by
  induction l generalizing s with
  | nil => rfl
  | cons w l ih =>
    rw [List.foldl_cons, ih, s.relinquish_eq w]

section Discard

variable (s : State) (t : Task)

/-- What an abort discards of one task, but for its cores. -/
def State.discardKept : State :=
  let s := { s with
    vlines := s.vlines.filter fun (v : VLine) => v.task != t.seq
    binds := s.binds.filter fun (b : Bind) => b.task != t.seq
    gov := s.gov.map fun (e : Nat × List LeaveReq) => (e.1, e.2.filter fun (r : LeaveReq) => !(s.coresOf t.seq).contains r.core) }
  let s := t.berths.foldl (fun s w => s.freeName w) s
  let s := t.shares.foldl (fun s w => s.relinquish w) s
  if s.isFront t then s.updPart t.part fun p => { p with pre := false } else s

theorem State.discard_eq : s.discard t = (s.discardKept t).forCores ((s.discardKept t).coresOf t.seq) CoreSt.cleared := rfl

theorem State.discardKept_eq : s.discardKept t = { s with
    vlines := s.vlines.filter fun v => v.task != t.seq, binds := s.binds.filter fun b => b.task != t.seq
    gov := (s.discardKept t).gov, grans := (s.discardKept t).grans, parts := (s.discardKept t).parts } := by
  unfold State.discardKept
  dsimp only
  rw [State.relinquishAll_eq, State.freeNames_eq]
  split <;> rfl

@[simp] theorem State.vlines_discard : (s.discard t).vlines = s.vlines.filter fun v => v.task != t.seq := by
  rw [State.discard_eq, State.forCores_eq, State.discardKept_eq]

@[simp] theorem State.binds_discard : (s.discard t).binds = s.binds.filter fun b => b.task != t.seq := by
  rw [State.discard_eq, State.forCores_eq, State.discardKept_eq]

@[simp] theorem State.tasks_discard : (s.discard t).tasks = s.tasks := by
  rw [State.discard_eq, State.forCores_eq, State.discardKept_eq]

/-- The cores of the task are cleared. -/
theorem State.core_discard (k : Nat) : (s.discard t).core k = if k ∈ s.coresOf t.seq then (s.core k).cleared else s.core k := by
  have hcores : (s.discardKept t).cores = s.cores := by rw [State.discardKept_eq]
  have hof : (s.discardKept t).coresOf t.seq = s.coresOf t.seq := by unfold State.coresOf; rw [hcores]
  have hcore : (s.discardKept t).core k = s.core k := by unfold State.core; rw [hcores]
  rw [State.discard_eq, State.core_forCores _ _ CoreSt.cleared_cleared, hof, hcore]

theorem State.keepsByte_discard (a : Nat) : s.KeepsByte a (s.discard t) := by
  rw [State.discard_eq, State.forCores_eq]
  refine State.KeepsByte.trans (t := s.discardKept t) ?_ (.of_eq rfl rfl)
  unfold State.discardKept
  dsimp only
  rw [State.relinquishAll_eq, State.freeNames_eq]
  split
  · exact State.KeepsByte.trans (.of_eq rfl rfl)
      (State.keepsByte_updPart_of_subset (f := fun p => { p with pre := false }) fun _ hg => hg)
  · exact .of_eq rfl rfl

end Discard

/-! ### One task of a cascade, and the cascade -/

theorem State.keepsByte_abortOne (a : Nat) (s : State) (l : List Nat) (q : Nat) : s.KeepsByte a (s.abortOne l q) := by
  unfold State.abortOne
  split
  · exact .refl a s
  · next t _ =>
    refine (s.keepsByte_discard t a).trans ?_
    unfold State.requeue
    split
    · exact (State.keepsByte_dropEntry a _ _ _).trans (.of_eq rfl rfl)
    · exact .of_eq rfl rfl

/-- Taking away creations that wait adds no segment. -/
theorem State.keepsByte_abort (a : Nat) (s : State) (q : Nat) : s.KeepsByte a (s.abort q) := by
  unfold State.abort
  refine (State.keepsByte_foldl _ _ (fun u i => State.keepsByte_abortOne a u _ i) s).trans fun hoff => ⟨?_, rfl⟩
  intro e he g hg
  obtain ⟨e', he', rfl⟩ := List.mem_map.1 he
  exact hoff e' he' g hg

/-- Aborts write HBM in segments of the scheduler's queues alone. -/
theorem State.keepsByte_abortAll (a : Nat) (s : State) (qs : List Nat) : s.KeepsByte a (s.abortAll qs) :=
  State.keepsByte_foldl _ _ (fun u q => State.keepsByte_abort a u q) s

/-- The cascade of one task begins with it, and names it no second time. -/
theorem cascade_head (ts : List Task) (q : Nat) (fuel : Nat) {r : List Nat} (hr : q ∉ r) :
    ∃ r', cascade ts fuel (q :: r) = q :: r' ∧ q ∉ r' := by
  induction fuel generalizing r with
  | zero => exact ⟨r, rfl, hr⟩
  | succ fuel ih =>
    unfold cascade cascadeOnce
    refine ih (r := r ++ _) ?_
    rw [List.mem_append, not_or, List.mem_map]
    refine ⟨hr, ?_⟩
    rintro ⟨t, ht, rfl⟩
    simp at ht

/-- The task of number `q` is undone in `u`: nothing of it is left in the Version Buffers and the bindings, and it waits as it was
created or is gone. -/
structure State.Undone (u : State) (q : Nat) (tk : Task) : Prop where
  byNumber : TasksByNumber u
  vlines   : ∀ v, v ∈ u.vlines → v.task ≠ q
  binds    : ∀ b, b ∈ u.binds → b.task ≠ q
  task     : u.task? q = none ∨ ∃ t, u.task? q = some t ∧ t.st = .waiting ∧ t.reads = [] ∧ t.berths = [] ∧
    t.ts = tk.ts ∧ t.kimg = tk.kimg ∧ t.args = tk.args

theorem Sparse.mem_of_find {α : Type} {m : Sparse α} {j : Nat} {x : α} (h : Sparse.find m j = some x) : (j, x) ∈ m := by
  induction m with
  | nil => cases h
  | cons e m ih =>
    obtain ⟨i, y⟩ := e
    unfold Sparse.find at h
    split at h
    · next hij => cases h; exact hij ▸ List.mem_cons_self
    · exact List.mem_cons_of_mem _ (ih h)

/-- A task that is found by its number has that number. -/
theorem TasksByNumber.seq {s : State} (h : TasksByNumber s) {q : Nat} {t : Task} (ht : s.task? q = some t) : t.seq = q :=
  h _ (Sparse.mem_of_find ht)

/-! The queue loses an entry: partitions and HBM alone change. -/

/-- `t` differs from `s` at most in HBM and in the partitions. -/
def State.OnlyQueues (s t : State) : Prop := t = { s with hbm := t.hbm, parts := t.parts }

theorem State.OnlyQueues.trans {s t u : State} (h : s.OnlyQueues t) (h' : t.OnlyQueues u) : s.OnlyQueues u := by
  have e := h'
  unfold State.OnlyQueues at e ⊢
  rw [h] at e
  exact e

theorem State.onlyQueues_segWord (s : State) (pa v : Nat) : s.OnlyQueues (s.segWord pa v) := by
  rw [State.segWord_eq]
  rfl

theorem State.onlyQueues_updPart (s : State) (p : Nat) (f : Part → Part) : s.OnlyQueues (s.updPart p f) := rfl

theorem State.onlyQueues_writeChain (s : State) (l : List Seg) : s.OnlyQueues (s.writeChain l) := by
  induction l generalizing s with
  | nil => rfl
  | cons g l ih => exact ((s.onlyQueues_segWord _ _).trans (State.onlyQueues_segWord _ _ _)).trans (ih _)

theorem State.onlyQueues_reclaim (s : State) (p : Nat) (g : Seg) : s.OnlyQueues (s.reclaim p g) := by
  unfold State.reclaim
  split
  · rfl
  · exact (((s.onlyQueues_updPart _ _).trans (State.onlyQueues_segWord _ _ _)).trans (State.onlyQueues_segWord _ _ _)).trans
      (State.onlyQueues_writeChain _ _)

theorem State.onlyQueues_dropEntry (s : State) (p q : Nat) : s.OnlyQueues (s.dropEntry p q) := by
  unfold State.dropEntry
  split
  · rfl
  · exact ((s.onlyQueues_updPart _ _).trans (State.onlyQueues_segWord _ _ _)).trans (State.onlyQueues_reclaim _ _ _)

section AbortOne

variable {s : State} {t : Task} {i : Nat} (l : List Nat)

theorem State.abortOne_eq (ht : s.task? i = some t) : s.abortOne l i = (s.discard t).requeue t (l.contains t.parent) := by
  unfold State.abortOne
  rw [ht]

theorem State.vlines_requeue (s : State) (t : Task) (b : Bool) : (s.requeue t b).vlines = s.vlines := by
  unfold State.requeue
  split
  · rw [s.onlyQueues_dropEntry t.part t.seq]
  · rfl

theorem State.binds_requeue (s : State) (t : Task) (b : Bool) : (s.requeue t b).binds = s.binds := by
  unfold State.requeue
  split
  · rw [s.onlyQueues_dropEntry t.part t.seq]
  · rfl

theorem State.cores_requeue (s : State) (t : Task) (b : Bool) : (s.requeue t b).cores = s.cores := by
  unfold State.requeue
  split
  · rw [s.onlyQueues_dropEntry t.part t.seq]
  · rfl

/-- A task back in the queue, or gone. -/
theorem State.task?_requeue_same (s : State) (t : Task) (b : Bool) : (s.requeue t b).task? t.seq = none ∨
    ∃ u, (s.requeue t b).task? t.seq = some u ∧ u.st = .waiting ∧ u.reads = [] ∧ u.berths = [] ∧
      u.ts = t.ts ∧ u.kimg = t.kimg ∧ u.args = t.args := by
  unfold State.requeue
  split
  · exact .inl (Sparse.find_erase_same ..)
  · exact .inr ⟨_, Sparse.find_put_same .., rfl, rfl, rfl, rfl, rfl, rfl⟩

theorem Sparse.find_erase_other {α : Type} (m : Sparse α) (i j : Nat) (h : i ≠ j) :
    Sparse.find (Sparse.erase m j) i = Sparse.find m i := by
  induction m with
  | nil => rfl
  | cons e m ih =>
    obtain ⟨k, x⟩ := e
    simp only [Sparse.erase]
    split
    · next hk => simp [Sparse.find, hk, Ne.symm h, ih]
    · simp [Sparse.find, ih]

theorem State.task?_requeue_other (s : State) (t : Task) (b : Bool) {q : Nat} (hq : q ≠ t.seq) :
    (s.requeue t b).task? q = s.task? q := by
  unfold State.requeue
  split
  · rw [s.onlyQueues_dropEntry t.part t.seq]
    exact Sparse.find_erase_other _ _ _ hq
  · exact Sparse.find_put_other _ _ _ _ hq

theorem TasksByNumber.requeue {s : State} (h : TasksByNumber s) (t : Task) (b : Bool) : TasksByNumber (s.requeue t b) := by
  intro e he
  unfold State.requeue at he
  split at he
  · rw [s.onlyQueues_dropEntry t.part t.seq] at he
    exact h e (Sparse.mem_erase he)
  · rcases Sparse.mem_put he with rfl | he
    · rfl
    · exact h e he

/-- The abort of a task undoes it. -/
theorem State.undone_abortOne (hnum : TasksByNumber s) (ht : s.task? i = some t) : (s.abortOne l i).Undone i t := by
  obtain rfl := hnum.seq ht
  rw [State.abortOne_eq l ht]
  have hnum' : TasksByNumber (s.discard t) := by unfold TasksByNumber; rw [State.tasks_discard]; exact hnum
  refine ⟨hnum'.requeue t _, fun v hv => ?_, fun b hb => ?_, State.task?_requeue_same _ t _⟩
  · rw [State.vlines_requeue, State.vlines_discard, List.mem_filter] at hv
    simpa using hv.2
  · rw [State.binds_requeue, State.binds_discard, List.mem_filter] at hb
    simpa using hb.2

/-- And the abort of another one leaves it undone. -/
theorem State.Undone.abortOne {q : Nat} {tk : Task} (h : s.Undone q tk) (hi : i ≠ q) : (s.abortOne l i).Undone q tk := by
  cases ht : s.task? i with
  | none =>
    unfold State.abortOne
    rw [ht]
    exact h
  | some t =>
    obtain ⟨hnum, hvlines, hbinds, htask⟩ := h
    obtain rfl := hnum.seq ht
    rw [State.abortOne_eq l ht]
    have hnum' : TasksByNumber (s.discard t) := by unfold TasksByNumber; rw [State.tasks_discard]; exact hnum
    refine ⟨hnum'.requeue t _, fun v hv => ?_, fun b hb => ?_, ?_⟩
    · rw [State.vlines_requeue, State.vlines_discard, List.mem_filter] at hv
      exact hvlines v hv.1
    · rw [State.binds_requeue, State.binds_discard, List.mem_filter] at hb
      exact hbinds b hb.1
    · rw [State.task?_requeue_other _ _ _ (Ne.symm hi), State.task?, State.tasks_discard]
      exact htask

/-- A core of the task is free after its abort. -/
theorem State.core_abortOne (hnum : TasksByNumber s) (ht : s.task? i = some t) (hi : i ≠ 0) {k : Nat} (hk : (s.core k).task = i) :
    (s.abortOne l i).core k = (s.core k).cleared := by
  obtain rfl := hnum.seq ht
  have hmem : k ∈ s.coresOf t.seq := by
    rcases Sparse.get_mem .reset s.cores k with hreset | hmem
    · rw [State.core, hreset] at hk
      exact absurd hk.symm hi
    · exact List.mem_map.2 ⟨_, List.mem_filter.2 ⟨hmem, by simp [State.core, ← hk] at hi ⊢; exact hi⟩, rfl⟩
  rw [State.abortOne_eq l ht, State.core, State.cores_requeue, ← State.core, State.core_discard, if_pos hmem]

end AbortOne

end Sys2Proof.Machine

open Sys2Proof Sys2Proof.Machine in
/-- Settles O53: the cascade begins with the task itself, whose abort undoes it, and no later abort brings anything of it back. -/
theorem abortsDiscard : Obligations.AbortsDiscard := by
  unfold Obligations.AbortsDiscard
  intro q s tk hnum htk hq
  obtain ⟨r, hcascade, hr⟩ := cascade_head s.allTasks q s.tasks.length (r := []) List.not_mem_nil
  have hundone : State.Undone (r.foldl (fun u i => u.abortOne (q :: r) i) (s.abortOne (q :: r) q)) q tk := by
    have := State.undone_abortOne (q :: r) hnum htk
    generalize q :: r = l at *
    generalize s.abortOne l q = u at *
    induction r generalizing u with
    | nil => exact this
    | cons i r ih =>
      rw [List.mem_cons, not_or] at hr
      exact ih hr.2 _ (this.abortOne l (Ne.symm hr.1))
  have habort : s.abort q = { r.foldl (fun u i => u.abortOne (q :: r) i) (s.abortOne (q :: r) q) with parts := (s.abort q).parts } := by
    unfold State.abort
    rw [hcascade]
    rfl
  have hrest := (s.aborted_abort q).rest
  refine ⟨?_, fun a hoff => (State.keepsByte_abort a s q hoff).2, ?_, ?_, ?_, ?_⟩
  · unfold SameMemory
    rw [hrest]
    exact ⟨rfl, rfl, rfl, rfl, rfl, rfl⟩
  · rw [habort]
    exact hundone.vlines
  · rw [habort]
    exact hundone.binds
  · intro k hk
    have hkept : State.CoresKept (s.abortOne (q :: r) q) (s.abort q) := by
      rw [habort]
      exact (State.coresKept_foldl _ _ (fun u i => u.coresKept_abortOne _ i) _).trans (.of_cores rfl)
    rcases hkept k with h | h <;> rw [h, State.core_abortOne _ hnum htk hq hk] <;> rfl
  · rw [habort]
    exact hundone.task

/-! PROOFS. The host and the landing processors write device memory (R296, R355, R364, R381). -/

namespace Sys2Proof.Machine

open Sys2Proof

/-- A write of HBM leaves the rest of the state, but that the bytes it covers are good again, and that a queue segment which it meets is
noted (R417, R421). -/
theorem State.poke_hbm (s : State) (a : Nat) (bs : List Byte) :
    ∃ bad tampered, s.poke 0 a bs = { s with hbm := s.hbm.setBytes a bs, bad := bad, tampered := tampered } := by
  have hput : ∃ bad, s.putBytes 0 a bs = { s with hbm := s.hbm.setBytes a bs, bad := bad } := ⟨_, rfl⟩
  obtain ⟨bad, hput⟩ := hput
  unfold State.poke
  rw [if_pos rfl, hput]
  dsimp only
  split
  · exact ⟨_, _, rfl⟩
  · exact ⟨_, _, rfl⟩

/-- A write by an agent outside the tasks: the other memories stay, and so does every byte of HBM outside it that no abort writes. -/
theorem State.outsideWrite_hbm (s : State) (pa : Nat) (bs : List Byte) :
    (s.outsideWrite 0 pa bs).host = s.host ∧ (s.outsideWrite 0 pa bs).tier = s.tier ∧ (s.outsideWrite 0 pa bs).ws = s.ws ∧
    ∀ a, (NoReaders s ∨ OffQueues s a 1) → (s.outsideWrite 0 pa bs).hbm.byte a =
      if pa ≤ a ∧ a < pa + bs.length then bs.getD (a - pa) 0 else s.hbm.byte a := by
  obtain ⟨bad, tampered, hpoke⟩ := s.poke_hbm pa bs
  have hbyte (a : Nat) : (s.poke 0 pa bs).hbm.byte a =
      if pa ≤ a ∧ a < pa + bs.length then bs.getD (a - pa) 0 else s.hbm.byte a := by
    rw [hpoke]
    exact Memory.byte_setBytes ..
  refine ⟨?_, ?_, ?_, fun a ha => ?_⟩
  · rw [State.outsideWrite, State.host_abortAll, hpoke]
  · rw [State.outsideWrite, State.tier_abortAll, hpoke]
  · rw [State.outsideWrite, State.ws_abortAll, hpoke]
  · rcases ha with hreaders | hoff
    · rw [State.outsideWrite_eq hreaders, hbyte]
    · have hoff' : OffQueues (s.poke 0 pa bs) a 1 := by rw [hpoke]; exact hoff
      exact (State.keepsByte_abortAll a _ _ hoff').2.trans (hbyte a)

/-- An agent's write of bytes that are all HBM. -/
theorem State.agentWrite_eq {s : State} {pa : Nat} {bs : List Byte} (hsafe : s.boot.safe = false) (hbs : bs ≠ [])
    (hfirst : hbmOk pa = true) (hlast : hbmOk (pa + bs.length - 1) = true)
    (hdie : pa / 2 ^ 37 = (pa + bs.length - 1) / 2 ^ 37) : s.agentWrite pa bs = s.outsideWrite 0 pa bs :=
  if_neg (by simpa [hsafe, hbs, hfirst, hlast] using hdie)

theorem State.agentWrite_noHbm {s : State} {pa : Nat} (bs : List Byte) (h : hbmOk pa = false) : s.agentWrite pa bs = s :=
  if_pos (by simp [h])

/-- Below 2^60 a landing processor's address is HBM's. -/
theorem exec_landingProcessorWrite_hbm {pa : Nat} (data : List Byte) (s : State) (h : pa < 2 ^ 60) :
    exec (.landingProcessorWrite pa data) s = .next (s.agentWrite pa data) := by
  simp only [exec, execLandingProcessorWrite, Nat.div_eq_of_lt h]

/-- The addresses of the register port that stand for WSW (assumption 46). -/
theorem exec_landingProcessorWrite_wsw {p off : Nat} (data : List Byte) (s : State) (hp : p < 16) (hoff : off < 2 ^ 56) :
    exec (.landingProcessorWrite (2 ^ 60 + p * 2 ^ 56 + off) data) s = .next (s.portWsw p off data) := by
  have hop : (2 ^ 60 + p * 2 ^ 56 + off) / 2 ^ 60 = 1 := by omega
  have hpart : (2 ^ 60 + p * 2 ^ 56 + off) / 2 ^ 56 % 16 = p := by omega
  have hplace : (2 ^ 60 + p * 2 ^ 56 + off) % 2 ^ 56 = off := by omega
  simp only [exec, execLandingProcessorWrite, hop, hpart, hplace]

end Sys2Proof.Machine

open Sys2Proof Sys2Proof.Machine in
/-- Settles O52: an agent's write is the bytes and the aborts of their readers, which write HBM in queue segments alone. -/
theorem agentsWriteMemory : Obligations.AgentsWriteMemory := by
  unfold Obligations.AgentsWriteMemory
  refine ⟨fun pa data s i hi hsafe => ⟨fun hdata hfirst hlast hdie => ?_, fun hbad hport => ?_⟩, ?_⟩
  · have hpa : pa < 2 ^ 60 := by
      simp only [hbmOk, Bool.and_eq_true, decide_eq_true_eq] at hfirst
      omega
    refine ⟨_, ?_, s.outsideWrite_hbm pa data⟩
    rw [← State.agentWrite_eq hsafe hdata hfirst hlast hdie]
    rcases hi with rfl | rfl
    · rfl
    · exact exec_landingProcessorWrite_hbm data s hpa
  · have hsame := State.agentWrite_noHbm (s := s) data hbad
    rcases hi with rfl | rfl
    · exact congrArg Host.Outcome.next hsame
    · rw [exec_landingProcessorWrite_hbm data s (hport.resolve_right nofun), hsame]
  · intro p off data s hsafe hp hoff halign hlen hdata hmax hquiet hbanks hreaders
    refine ⟨_, exec_landingProcessorWrite_wsw data s hp hoff, ?_⟩
    have hhas : (banksOf off data.length).all (s.part p).hasBank = true := List.all_eq_true.2 fun b hb => (hbanks b hb).1
    have hopen : (banksOf off data.length).all (fun b => s.portOpen ⟨3, b * 2 ^ 24⟩) = true :=
      List.all_eq_true.2 fun b hb => (hbanks b hb).2
    have hlength : data.length ≠ 0 := fun h => hdata (List.length_eq_zero_iff.1 h)
    have hwsw : s.portWsw p off data = s.partWrite p 3 off data := by
      refine if_neg ?_
      rw [hhas, hopen, hquiet, hsafe]
      simp only [Bool.not_true, Bool.false_eq_true, or_false, false_or]
      omega
    rw [hwsw, State.partWrite_eq hreaders]

/-! PROOFS. A cause that is reflected, and a task that ends with FAULT (R407, R408, R437). -/

namespace Sys2Proof.Machine

open Sys2Proof

/-! ### The handler entry (R408) -/

theorem CtxSt.reg_of_regs {c d : CtxSt} (h : c.regs = d.regs) (y : Reg) : c.reg y = d.reg y := by
  unfold CtxSt.reg
  rw [h]

/-- A context whose registers x56 to x59 have been set. -/
theorem CtxSt.reg_setFour (c : CtxSt) (a b d e : Word) (y : Reg) : ((((c.setReg 56 a).setReg 57 b).setReg 58 d).setReg 59 e).reg y =
    if y = 56 then a else if y = 57 then b else if y = 58 then d else if y = 59 then e else c.reg y := by
  have hne {x : Reg} (hx : x ≠ 0) : (y = x ∧ x ≠ 0) = (y = x) := propext (and_iff_left hx)
  simp only [CtxSt.reg_setReg, hne (x := 56) (by decide), hne (x := 57) (by decide), hne (x := 58) (by decide),
    hne (x := 59) (by decide)]
  by_cases h56 : y = 56
  · subst h56; simp
  · by_cases h57 : y = 57
    · subst h57; simp
    · by_cases h58 : y = 58
      · subst h58; simp
      · simp only [h56, h57, h58, if_false]

/-- A reflected context finds its record in x56 to x59. -/
theorem CtxSt.reg_reflect (c : CtxSt) (r : FaultRecord) (pc : Nat) (y : Reg) : (c.reflect r pc).reg y =
    if y = 56 then r.words.getD 0 0 else if y = 57 then r.addr else if y = 58 then r.info
      else if y = 59 then w64 r.resume else c.reg y := by
  unfold CtxSt.reflect
  exact (CtxSt.reg_of_regs rfl y).trans (CtxSt.reg_setFour ..)

/-- A context that runs on a halted core is held. -/
theorem CtxSt.release_running {c : CtxSt} (hrun : c.run = .running) (halted : Bool) :
    c.release halted = { c with run := if halted then .held else .running } := by
  unfold CtxSt.release
  rw [hrun]
  cases halted
  · change c = { c with run := .running }
    rw [← hrun]
  · rfl

/-! ### The end with FAULT (R407, R437) -/

/-- 32 bytes cover no line. -/
theorem wholeLines_short (a n : Nat) (h : n < 64) : wholeLines a n = [] := by
  unfold wholeLines
  rw [List.filter_eq_nil_iff]
  intro l _
  simp only [Bool.and_eq_true, decide_eq_true_eq]
  omega

theorem length_completionBytes (n csz q : Nat) (tag : Word) (seq status : Nat) :
    (completionBytes n csz q tag seq status).length = 32 := by simp [completionBytes]

/-- Fewer than 64 bytes written to host memory change nothing else. -/
theorem State.poke_host_short (s : State) (a : Nat) (bs : List Byte) (h : bs.length < 64) :
    s.poke 1 a bs = { s with host := s.host.setBytes a bs } := by
  unfold State.poke State.putBytes
  rw [if_neg Nat.one_ne_zero, wholeLines_short _ _ h]
  rfl

/-- `t` differs from `s` at most in host memory, the queues' blocks and the interrupts raised. -/
def State.OnlyHost (s t : State) : Prop := t = { s with host := t.host, queues := t.queues, msix := t.msix }

theorem State.OnlyHost.trans {s t u : State} (h : s.OnlyHost t) (h' : t.OnlyHost u) : s.OnlyHost u := by
  have e := h'
  unfold State.OnlyHost at e ⊢
  rw [h] at e
  exact e

theorem State.onlyHost_updQueue (s : State) (q : Nat) (f : LaunchQ → LaunchQ) : s.OnlyHost (s.updQueue q f) := rfl

theorem State.onlyHost_raiseVec (s : State) (q : Nat) : s.OnlyHost (s.raiseVec q) := rfl

theorem State.onlyHost_poke (s : State) (a : Nat) (bs : List Byte) (h : bs.length < 64) : s.OnlyHost (s.poke 1 a bs) := by
  rw [s.poke_host_short a bs h]
  rfl

theorem State.onlyHost_completionRecord (s : State) (q : Nat) (tag : Word) (irq : Bool) (seq status : Nat) :
    s.OnlyHost (s.completionRecord q tag irq seq status) := by
  have hpoke (a n csz : Nat) : s.OnlyHost (s.poke 1 a (completionBytes n csz q tag seq status)) :=
    s.onlyHost_poke a _ (by rw [length_completionBytes]; decide)
  unfold State.completionRecord
  dsimp only
  split
  · exact ((hpoke _ _ _).trans (State.onlyHost_updQueue ..)).trans (State.onlyHost_raiseVec ..)
  · exact (hpoke _ _ _).trans (State.onlyHost_updQueue ..)

/-- The completion record of a task writes host memory alone of the memories, where a launch queue asked for it. -/
theorem State.complete_host (s : State) (t : Task) (status : Nat) : s.OnlyHost (s.complete t status) ∧
    ((∀ q tag irq, t.origin ≠ .host q tag irq) → (s.complete t status).host = s.host) ∧
    ∀ q tag irq, t.origin = .host q tag irq → (s.complete t status).host = s.host.setBytes
      (field (s.queue? q).cbase 6 58 * 64 + 32 * ((s.queue? q).ctail.toNat % 2 ^ field (s.queue? q).ctl 0 4))
      (completionBytes (s.queue? q).ctail.toNat (field (s.queue? q).ctl 0 4) q tag t.seq status) := by
  unfold State.complete
  split
  · next q tag irq horigin =>
    refine ⟨s.onlyHost_completionRecord .., fun h => absurd horigin (h q tag irq), fun q' tag' irq' h => ?_⟩
    rw [horigin] at h
    cases h
    exact s.host_completionRecord ..
  · next horigin => exact ⟨rfl, fun _ => rfl, fun q tag irq h => absurd h (horigin q tag irq)⟩

/-- What an end leaves of an access queue, a second end leaves too. -/
theorem CtxSt.endFault_endFault (c : CtxSt) : c.endFault.endFault = c.endFault := by
  have haccess : c.endFault.endFault.accq = c.endFault.accq ∧ c.endFault.endFault.accHalt = c.endFault.accHalt := by
    unfold CtxSt.endFault CtxSt.endAccesses
    cases c.accHalt with
    | none => simp
    | some h =>
      cases hf : h.failed with
      | none =>
        by_cases hany : ∃ a, a ∈ c.accq ∧ a.op.outlives = true ∧ a.wid = h.wid
        · simp [hf, Option.filter, hany]
        · simp [hf, Option.filter, hany]
      | some t =>
        simp only [hf, Option.filter, List.filter_filter]
        refine ⟨List.filter_congr fun a _ => ?_, rfl⟩
        cases a.op.outlives <;> rfl
  have hrun : c.endFault.endFault.run = c.endFault.run := by
    unfold CtxSt.endFault
    dsimp only
    by_cases h : c.run = .idle <;> simp [h]
  calc c.endFault.endFault = { c.endFault with accq := c.endFault.endFault.accq, accHalt := c.endFault.endFault.accHalt,
                                               run := c.endFault.endFault.run } := rfl
    _ = c.endFault := by rw [haccess.1, haccess.2, hrun]

theorem CoreSt.endFault_endFault (c : CoreSt) : c.endFault.endFault = c.endFault := by
  unfold CoreSt.endFault
  simp only [CtxSt.endFault_endFault]
  split <;> simp_all

theorem CoreSt.ctx_endFault (c : CoreSt) (x : Ctx) : c.endFault.ctx x = (c.ctx x).endFault := by cases x <;> rfl

/-- The accesses that outlive the end of the task (assumption 37). -/
theorem CtxSt.mem_accq_endFault (c : CtxSt) (a : Access) : a ∈ c.endFault.accq ↔ a ∈ c.accq ∧ a.op.outlives = true ∧
    ∀ h, c.accHalt = some h → h.failed ≠ none → h.wid ≠ a.wid := by
  change a ∈ (c.accq.filter _) ↔ _
  rw [List.mem_filter]
  cases hhalt : c.accHalt with
  | none => simp
  | some h =>
    cases hf : h.failed <;> simp [hf, Option.filter]

/-- The end of a running task with FAULT: its cores, its mark, and its completion record. -/
theorem State.endFault_running (s : State) {t : Task} (hst : t.st = .running) : ∃ vlines, s.endFault t =
    (({ (if t.failed then s else s.complete t 5).forCores (s.coresOf t.seq) CoreSt.endFault with vlines := vlines } : State).setTask
      { t with failed := true, draining := true }) := by
  have hof : (if t.failed then s else s.complete t 5).coresOf t.seq = s.coresOf t.seq := by
    unfold State.coresOf
    split
    · rfl
    · rw [(s.complete_host t 5).1]
  unfold State.endFault
  dsimp only
  rw [hst, hof]
  cases t.spec
  · exact ⟨_, rfl⟩
  · exact ⟨_, rfl⟩

end Sys2Proof.Machine

open Sys2Proof Sys2Proof.Machine in
/-- Settles O46: the entry sets the four registers and the frame; the end is one change of each of the gang's cores. -/
theorem reflectAndEnd : Obligations.ReflectAndEnd := by
  unfold Obligations.ReflectAndEnd
  refine ⟨?_, ?_, ?_⟩
  · rintro k x s r h hk hrun rfl hcause hframe hended hactive hentry
    have hexec : exec (.supervisorReflect k x) s = .next (s.updCtx k x fun c =>
        (c.reflect r ((s.core k).handler x r.cause % 2 ^ 14)).release (s.core k).halted) := by
      simp only [exec, execSupervisorReflect, hrun]
      rw [if_neg (Nat.not_le.2 hk), if_pos ⟨hcause, hframe, by simp [hended], hactive, hentry⟩]
    refine ⟨_, hexec, fun j hj => State.core_updCtx_other _ _ _ _ _ hj, ?_⟩
    rw [State.ctxOf_updCtx_same, CtxSt.release_running rfl]
    refine ⟨rfl, rfl, rfl, rfl, rfl, fun y => ?_⟩
    exact (CtxSt.reg_of_regs rfl y).trans ((s.ctxOf k x).reg_reflect r ((s.core k).handler x r.cause % 2 ^ 14) y)
  · intro q s tk htk hst htrapped
    have hexec : exec (.supervisorEndFault q) s = .next (s.endFault tk) := by
      simp only [exec, execSupervisorEndFault, htk]
      exact if_pos ⟨hst, htrapped⟩
    obtain ⟨vlines, hend⟩ := s.endFault_running hst
    obtain ⟨honly, hnone, hrecord⟩ := s.complete_host tk 5
    have hbase : s.OnlyHost (if tk.failed then s else s.complete tk 5) := by
      split
      · rfl
      · exact honly
    generalize hv : (if tk.failed then s else s.complete tk 5) = v at *
    have hcore (k : Nat) : (s.endFault tk).core k = if k ∈ s.coresOf tk.seq then (s.core k).endFault else s.core k := by
      rw [hend]
      refine (State.core_forCores v _ CoreSt.endFault_endFault k).trans ?_
      rw [hbase]
      rfl
    have hhost : (s.endFault tk).host = v.host := by
      rw [hend, State.forCores_eq]
      rfl
    refine ⟨_, _, hexec, by rw [hend]; exact Sparse.find_put_same .., rfl, ?_, ?_, ?_, fun k hk => ?_, fun k hk => ?_⟩
    · rw [hend, State.forCores_eq, hbase]
      exact ⟨rfl, rfl, rfl, rfl, rfl, rfl⟩
    · rw [hhost, ← hv]
      rintro (hfailed | horigin)
      · rw [if_pos hfailed]
      · split
        · rfl
        · exact hnone horigin
    · rintro qu tag irq b hfailed horigin rfl
      rw [hhost, ← hv, if_neg (by simp [hfailed])]
      exact hrecord qu tag irq horigin
    · rw [hcore, if_pos hk]
      refine ⟨fun hactive => if_pos hactive, fun x => ?_⟩
      have hctx : (s.endFault tk).ctxOf k x = (s.ctxOf k x).endFault := by
        rw [State.ctxOf, hcore, if_pos hk, CoreSt.ctx_endFault]
        rfl
      rw [hctx]
      exact ⟨rfl, rfl, rfl, CtxSt.mem_accq_endFault _⟩
    · rw [hcore, if_neg hk]
  · intro q s tk htk hno
    simp only [exec, execSupervisorEndFault, htk]
    refine if_neg fun h => ?_
    rcases hno with hno | hno
    · exact hno h.1
    · rw [hno] at h
      exact absurd h.2 Bool.false_ne_true

/-! PROOFS. What writes in flight change as they land, where no abort follows (R66, R68, R73, R75). -/

namespace Sys2Proof.Machine

open Sys2Proof

/-- What landing writes may change of a context. -/
def CtxSt.Landed (c d : CtxSt) : Prop :=
  d = { c with regs := d.regs, flights := d.flights, sflags := d.sflags, attached := d.attached, cqP := d.cqP, cqN := d.cqN }

theorem CtxSt.Landed.refl (c : CtxSt) : c.Landed c := rfl

theorem CtxSt.Landed.trans {c d e : CtxSt} (h : c.Landed d) (h' : d.Landed e) : c.Landed e := by
  have e := h'
  unfold CtxSt.Landed at e ⊢
  rw [h] at e
  exact e

theorem CtxSt.landed_setReg (c : CtxSt) (r : Reg) (v : Word) : c.Landed (c.setReg r v) := by
  unfold CtxSt.setReg
  split <;> rfl

/-- What landing writes may change of a core. -/
structure CoreSt.Landed (c d : CoreSt) : Prop where
  rest : d = { c with cL := d.cL, cX := d.cX, cS := d.cS, tks := d.tks, qs := d.qs, starved := d.starved, ex := d.ex
                      sp := d.sp, spBad := d.spBad }
  ctx  : ∀ y, (c.ctx y).Landed (d.ctx y)

theorem CoreSt.Landed.refl (c : CoreSt) : c.Landed c := ⟨rfl, fun _ => rfl⟩

theorem CoreSt.Landed.trans {c d e : CoreSt} (h : c.Landed d) (h' : d.Landed e) : c.Landed e := by
  refine ⟨?_, fun y => (h.ctx y).trans (h'.ctx y)⟩
  have e := h'.rest
  rw [h.rest] at e
  exact e

/-- A change of a core that touches no context. -/
theorem CoreSt.Landed.of_ctx {c d : CoreSt} (hrest : d = { c with tks := d.tks, qs := d.qs, starved := d.starved, ex := d.ex
                                                                  sp := d.sp, spBad := d.spBad }) : c.Landed d := by
  refine ⟨by rw [hrest], fun y => ?_⟩
  rw [hrest]
  cases y <;> rfl

theorem CoreSt.Landed.of_updCtx {c : CoreSt} {x : Ctx} {f : CtxSt → CtxSt} (h : (c.ctx x).Landed (f (c.ctx x))) :
    c.Landed (c.updCtx x f) := by
  refine ⟨by cases x <;> rfl, fun y => ?_⟩
  by_cases hy : y = x
  · rw [hy, CoreSt.ctx_updCtx_same]
    exact h
  · rw [CoreSt.ctx_updCtx_other _ _ _ _ hy]
    exact .refl _

theorem CoreSt.landed_exAddAll (c : CoreSt) (l : List (Nat × List (BitVec 32))) : c.Landed (c.exAddAll l).1 := by
  induction l generalizing c with
  | nil => exact .refl c
  | cons e r ih => exact CoreSt.Landed.trans (.of_ctx rfl) (ih _)

theorem CoreSt.landed_exClear (c : CoreSt) (a n : Nat) : c.Landed (c.exClear a n) := by
  unfold CoreSt.exClear
  generalize List.range n = l
  induction l generalizing c with
  | nil => exact .refl c
  | cons i l ih => exact CoreSt.Landed.trans (.of_ctx rfl) (ih _)

theorem CoreSt.landed_putSp (c : CoreSt) (m : Memory) (bad : List Nat) : c.Landed { c with sp := m, spBad := bad } := .of_ctx rfl

/-- What landing writes of core `k` change of the state, where no abort follows. -/
structure State.Landed (k : Nat) (s t : State) : Prop where
  logged : s.Logged t
  tasks  : t.tasks = s.tasks
  others : ∀ j, j ≠ k → t.core j = s.core j
  core   : (s.core k).Landed (t.core k)

theorem State.Landed.refl (k : Nat) (s : State) : s.Landed k s := ⟨.refl s, rfl, fun _ _ => rfl, .refl _⟩

theorem State.Landed.trans {k : Nat} {s t u : State} (h : s.Landed k t) (h' : t.Landed k u) : s.Landed k u :=
  ⟨h.logged.trans h'.logged, h'.tasks.trans h.tasks, fun j hj => (h'.others j hj).trans (h.others j hj), h.core.trans h'.core⟩

theorem State.Landed.ctxOf {k : Nat} {s t : State} (h : s.Landed k t) (y : Ctx) : (s.ctxOf k y).Landed (t.ctxOf k y) := h.core.ctx y

/-- Whether an abort can follow is seen in the task list. -/
theorem NoReaders.of_tasks {s t : State} (h : NoReaders s) (htasks : t.tasks = s.tasks) : NoReaders t := by
  unfold NoReaders State.isFront State.front State.domain State.allTasks at *
  rw [htasks]
  exact h

theorem State.landed_updCore (s : State) (k : Nat) {f : CoreSt → CoreSt} (hf : (s.core k).Landed (f (s.core k))) :
    s.Landed k (s.updCore k f) :=
  ⟨s.logged_updCore k f, rfl, fun j hj => State.core_updCore_other _ _ _ _ hj, by rw [State.core_updCore_same]; exact hf⟩

theorem State.landed_updCtx (s : State) (k : Nat) (x : Ctx) {f : CtxSt → CtxSt} (hf : (s.ctxOf k x).Landed (f (s.ctxOf k x))) :
    s.Landed k (s.updCtx k x f) := s.landed_updCore k (CoreSt.Landed.of_updCtx hf)

theorem State.landed_mark (s : State) (k : Nat) (n : BitVec 3) :
    s.Landed k (s.updCtx k .X fun c => { c with sflags := c.sflags ||| n }) := s.landed_updCtx k .X rfl

theorem State.landed_attach (s : State) (k : Nat) (x : Ctx) (t : Trap) (eng : Bool) (pos : Nat) (w : Word) :
    s.Landed k (s.attach k x t eng pos w) := s.landed_updCtx k x rfl

/-- A fault record changes no core and no task. -/
theorem State.landed_logAt {s : State} (h : NoReaders s) (k die : Nat) (r : FaultRecord) : s.Landed k (s.logAt die r) := by
  have hcores : (s.logAt die r).cores = s.cores ∧ (s.logAt die r).tasks = s.tasks := by
    obtain ⟨bad, tampered, hpoke⟩ := s.poke_hbm (field ((s.part r.part).reg 11) 16 30 * 2 ^ 16 +
      64 * ((s.part r.part).flogp.toNat % (2 ^ field ((s.part r.part).reg 11) 0 4 * 1024))) r.bytes
    unfold State.logAt
    dsimp only
    split
    · exact ⟨rfl, rfl⟩
    · rw [State.partWrite_eq h, hpoke]
      exact ⟨rfl, rfl⟩
  have hcore (j : Nat) : (s.logAt die r).core j = s.core j := by rw [State.core, hcores.1]; rfl
  exact ⟨s.logged_logAt die r, hcores.2, fun j _ => hcore j, by rw [hcore]; exact .refl _⟩

theorem State.landed_incTk {s : State} (h : NoReaders s) (k n amount : Nat) (flag : Bool) (r : FaultRecord) :
    s.Landed k (s.incTk k n amount flag r) := by
  have hinc : s.Landed k (s.updCore k fun c => c.incTk n amount flag) := s.landed_updCore k (.of_ctx rfl)
  unfold State.incTk State.incTkFrom
  dsimp only
  split
  · exact hinc.trans (State.landed_logAt (s := s.updCore k fun c => c.incTk n amount flag) (h.of_tasks rfl) k _ _)
  · exact hinc

theorem State.landed_landOne {s : State} (h : NoReaders s) (k : Nat) (x : Ctx) (f : Flight) : s.Landed k (s.landOne k x f) := by
  unfold State.landOne
  cases f.land with
  | reg r v => exact s.landed_updCtx k x (CtxSt.landed_setReg ..)
  | push q id => exact s.landed_updCore k (.of_ctx rfl)
  | exAdd adds =>
    have hadd : s.Landed k (s.setCore k ((s.core k).exAddAll adds).1) :=
      s.landed_updCore k (f := fun _ => ((s.core k).exAddAll adds).1) (CoreSt.landed_exAddAll ..)
    dsimp only
    split
    · exact hadd
    · split
      · exact (hadd.trans (State.landed_mark _ k 1)).trans (State.landed_attach ..)
      · exact hadd.trans (State.landed_mark _ k 1)
  | exClr a n => exact s.landed_updCore k (CoreSt.landed_exClear ..)
  | scratch off e => exact s.landed_updCore k (CoreSt.landed_putSp ..)
  | cq succ v =>
    refine (s.landed_updCtx k x ?_).trans (State.landed_updCore _ k (.of_ctx rfl))
    split <;> rfl
  | tk n a => exact State.landed_incTk h ..
  | flags g => exact s.landed_updCtx k x rfl

theorem State.landed_landWhere {s : State} (h : NoReaders s) (k : Nat) (x : Ctx) (p : Flight → Bool) :
    s.Landed k (s.landWhere k x p) := by
  have hfold (l : List Flight) : ∀ u : State, NoReaders u → u.Landed k (l.foldl (fun s f => s.landOne k x f) u) := by
    induction l with
    | nil => exact fun u _ => .refl k u
    | cons f l ih =>
      intro u hu
      have hland := State.landed_landOne hu k x f
      exact hland.trans (ih _ (hu.of_tasks hland.tasks))
  have hflights : s.Landed k (s.updCtx k x fun c => { c with flights := c.flights.filter fun f => !p f }) := s.landed_updCtx k x rfl
  exact hflights.trans (hfold _ _ (h.of_tasks rfl))

theorem State.landed_drain {s : State} (h : NoReaders s) (k : Nat) (x : Ctx) : s.Landed k (s.drain k x) :=
  State.landed_landWhere h k x _

end Sys2Proof.Machine

/-! PROOFS. A core that stands still, and the supervisor's answers (R69, R407, R409 to R411). -/

namespace Sys2Proof.Machine

open Sys2Proof

/-! ### DEADLK (R69, R411) -/

/-- DEADLK stops one context. -/
theorem State.deadCtx_stops {s : State} (h : NoReaders s) (k : Nat) (r : FaultRecord) (x : Ctx) :
    NoReaders (s.deadCtx k r x) ∧ ∀ y, ((s.deadCtx k r x).ctxOf k y).pc = (s.ctxOf k y).pc ∧
      ((s.deadCtx k r x).ctxOf k y).run = if y = x then .trapped { r with resume := (s.ctxOf k x).pc } else (s.ctxOf k y).run := by
  have hland := State.landed_drain h k x
  refine ⟨h.of_tasks hland.tasks, fun y => ?_⟩
  have hctx := hland.ctxOf y
  unfold State.deadCtx
  by_cases hy : y = x
  · subst hy
    rw [State.ctxOf_updCtx_same, if_pos rfl, hctx]
    exact ⟨rfl, rfl⟩
  · rw [State.ctxOf, State.core_updCtx_same, CoreSt.ctx_updCtx_other _ _ _ _ hy, if_neg hy]
    change ((s.drain k x).ctxOf k y).pc = _ ∧ ((s.drain k x).ctxOf k y).run = _
    rw [hctx]
    exact ⟨rfl, rfl⟩

/-- DEADLK stops each context of a list, before the word that it stands at. -/
theorem State.deadCtxs_stop (k : Nat) (r : FaultRecord) (l : List Ctx) (s : State) (h : NoReaders s) (y : Ctx) :
    ((l.foldl (fun s x => s.deadCtx k r x) s).ctxOf k y).pc = (s.ctxOf k y).pc ∧
    ((l.foldl (fun s x => s.deadCtx k r x) s).ctxOf k y).run =
      if y ∈ l then .trapped { r with resume := (s.ctxOf k y).pc } else (s.ctxOf k y).run := by
  induction l generalizing s with
  | nil => exact ⟨rfl, rfl⟩
  | cons x l ih =>
    obtain ⟨hreaders, hstop⟩ := State.deadCtx_stops h k r x
    obtain ⟨hpc, hrun⟩ := hstop y
    obtain ⟨hpc', hrun'⟩ := ih _ hreaders
    rw [List.foldl_cons, hpc', hrun', hpc, hrun]
    refine ⟨rfl, ?_⟩
    by_cases hy : y = x
    · subst hy; simp
    · simp [hy]

theorem CoreSt.mem_unended (c : CoreSt) (x : Ctx) : x ∈ c.unended ↔ (c.ctx x).ended = false := by
  unfold CoreSt.unended
  cases x <;> simp

/-- A core that stands stops with DEADLK, where its task is not speculative. -/
theorem exec_deadlk_stops {k : Nat} {s : State} (hk : k < 384) (hstands : s.stands k = true) (hstill : 2 ^ 20 ≤ (s.core k).still)
    (hspec : s.isSpec k = false) : exec (.deadlk k) s =
      .next ((s.core k).unended.foldl (fun u x => u.deadCtx k (s.coreRecord k .deadlk (s.core k).deadInfo) x)
        (s.log (s.coreRecord k .deadlk (s.core k).deadInfo))) := by
  simp only [exec, execDeadlk]
  rw [if_neg (Nat.not_le.2 hk), if_pos ⟨hstands, hstill⟩]
  unfold State.isSpec at hspec
  split
  · next t ht =>
    rw [ht] at hspec
    rw [if_neg (by simp [show t.spec = false from hspec])]
  · rfl

/-- A speculative task parks with it. -/
theorem exec_deadlk_parks {k : Nat} {s : State} {tk : Task} (hk : k < 384) (hstands : s.stands k = true)
    (hstill : 2 ^ 20 ≤ (s.core k).still) (htask : s.taskOf k = some tk) (hspec : tk.spec = true) : exec (.deadlk k) s =
      .next (s.park tk (s.coreRecord k .deadlk (s.core k).deadInfo)) := by
  simp only [exec, execDeadlk, htask]
  rw [if_neg (Nat.not_le.2 hk), if_pos ⟨hstands, hstill⟩, if_pos hspec]

theorem State.stands_eq (s : State) (k : Nat) : s.stands k = ((s.core k).status == .active && (s.core k).deadlocked &&
    !(s.core k).mustStop && (s.core k).landedAll && s.coreQuiet k) := rfl

/-- A parked task is found parked. -/
theorem State.task?_park (s : State) (t : Task) (r : FaultRecord) :
    (s.park t r).task? t.seq = some { t with st := .parked, parked := some r } := by
  unfold State.park
  dsimp only
  rw [State.forCores_eq]
  exact Sparse.find_put_same ..

/-! ### The supervisor's answers (R407, R409) -/

/-- The matrix engine's hold is all that the end of a handler changes besides. -/
theorem State.handlerDone_eq (s : State) (k : Nat) (x : Ctx) :
    (∀ j, j ≠ k → (s.handlerDone k x).core j = s.core j) ∧ (∀ y, (s.handlerDone k x).ctxOf k y = s.ctxOf k y) ∧
    ((s.handlerDone k x).core k).halted = (s.core k).halted := by
  unfold State.handlerDone
  split
  · refine ⟨fun j hj => State.core_updCore_other _ _ _ _ hj, fun y => ?_, ?_⟩
    · rw [State.ctxOf, State.core_updCore_same]
      cases y <;> rfl
    · rw [State.core_updCore_same]
  · exact ⟨fun _ _ => rfl, fun _ => rfl, rfl⟩

theorem CtxSt.resumed_eq (c : CtxSt) (pc : Nat) (halted : Bool) :
    (c.resumeAt pc).dropHalt.release halted = resumed c halted pc := by
  unfold CtxSt.resumeAt CtxSt.dropHalt CtxSt.release resumed
  cases c.ended <;> cases halted <;> rfl

/-- A context continues at a resume point; the core's other contexts and the other cores stay as they are. -/
theorem State.resumeCtx_resumes (s : State) (k : Nat) (x : Ctx) (r : FaultRecord) :
    (∀ j, j ≠ k → (s.resumeCtx k x r).core j = s.core j) ∧
    (s.resumeCtx k x r).ctxOf k x = resumed (s.ctxOf k x) (s.core k).halted r.resume ∧
    (∀ y, y ≠ x → (s.resumeCtx k x r).ctxOf k y = s.ctxOf k y) ∧
    ((s.resumeCtx k x r).core k).halted = (s.core k).halted := by
  unfold State.resumeCtx
  dsimp only
  obtain ⟨hothers, hctx, hhalted⟩ := (s.updCtx k x fun c => (c.resumeAt r.resume).dropHalt.release (s.core k).halted).handlerDone_eq k x
  refine ⟨fun j hj => (hothers j hj).trans (State.core_updCtx_other _ _ _ _ _ hj), ?_, fun y hy => ?_, ?_⟩
  · rw [hctx, State.ctxOf_updCtx_same, CtxSt.resumed_eq]
  · rw [hctx, State.ctxOf, State.core_updCtx_same, CoreSt.ctx_updCtx_other _ _ _ _ hy]
    rfl
  · rw [hhalted, State.core_updCtx_same]
    cases x <;> rfl

/-- A context after the answer to DEADLK. -/
def CtxSt.answered (c : CtxSt) (halted : Bool) : CtxSt :=
  match c.dead with
  | some r => resumed c halted r.resume
  | none => c

/-- The answer to DEADLK, for one context. -/
def State.answerDead (k : Nat) (s : State) (x : Ctx) : State :=
  match (s.ctxOf k x).dead with
  | some r => s.resumeCtx k x r
  | none => s

theorem State.answerDead_answers (k : Nat) (s : State) (x : Ctx) :
    (s.answerDead k x).ctxOf k x = (s.ctxOf k x).answered (s.core k).halted ∧
    (∀ y, y ≠ x → (s.answerDead k x).ctxOf k y = s.ctxOf k y) ∧
    ((s.answerDead k x).core k).halted = (s.core k).halted := by
  unfold State.answerDead CtxSt.answered
  split
  · exact (s.resumeCtx_resumes k x _).2
  · exact ⟨rfl, fun _ _ => rfl, rfl⟩

/-- Each context of a list is answered. -/
theorem State.answerDeads_answer (k : Nat) (l : List Ctx) (hl : l.Nodup) (s : State) (y : Ctx) :
    (l.foldl (State.answerDead k) s).ctxOf k y =
      if y ∈ l then (s.ctxOf k y).answered (s.core k).halted else s.ctxOf k y := by
  induction l generalizing s with
  | nil => rfl
  | cons x l ih =>
    rw [List.nodup_cons] at hl
    obtain ⟨hsame, hother, hhalted⟩ := State.answerDead_answers k s x
    rw [List.foldl_cons, ih hl.2, hhalted]
    by_cases hy : y = x
    · subst hy
      rw [if_neg hl.1, if_pos List.mem_cons_self, hsame]
    · rw [hother y hy]
      simp [hy]

theorem State.resumeDead_eq (s : State) (k : Nat) : s.resumeDead k = [Ctx.L, .X, .S].foldl (State.answerDead k) s := rfl

/-- DEADLK's contexts continue together (R411). -/
theorem State.ctxOf_resumeDead (s : State) (k : Nat) (y : Ctx) :
    (s.resumeDead k).ctxOf k y = (s.ctxOf k y).answered (s.core k).halted := by
  rw [State.resumeDead_eq, State.answerDeads_answer k _ (by decide), if_pos (by cases y <;> decide)]

theorem CtxSt.answered_dead {c : CtxSt} {q : FaultRecord} (hrun : c.run = .trapped q) (hcause : q.cause = .deadlk) (halted : Bool) :
    c.answered halted = resumed c halted q.resume := by
  unfold CtxSt.answered CtxSt.dead
  rw [hrun]
  dsimp only
  rw [if_pos hcause]

theorem CtxSt.answered_other {c : CtxSt} (h : ∀ q, c.run = .trapped q → q.cause ≠ .deadlk) (halted : Bool) :
    c.answered halted = c := by
  unfold CtxSt.answered CtxSt.dead
  split
  · next r hr =>
    split at hr
    · next q hq => rw [if_neg (h q hq)] at hr; cases hr
    · cases hr
  · rfl

/-- The registers that a reflection has saved come back (R409). -/
theorem CtxSt.reg_reflectReturn (c : CtxSt) (f : Frame) (y : Reg) : (c.reflectReturn f).reg y =
    if y = 56 then f.x56 else if y = 57 then f.x57 else if y = 58 then f.x58 else if y = 59 then f.x59 else c.reg y := by
  unfold CtxSt.reflectReturn
  refine (CtxSt.reg_of_regs (d := (((c.setReg 56 f.x56).setReg 57 f.x57).setReg 58 f.x58).setReg 59 f.x59) rfl y).trans ?_
  exact CtxSt.reg_setFour ..

theorem CtxSt.wrap_natCast (c : CtxSt) (n : Nat) : c.wrap n = n % c.wwords := by
  unfold CtxSt.wrap
  rw [← Int.natCast_mod, Int.toNat_natCast]

/-- SYSC 0 in a handler ends the reflection. -/
theorem State.ctxOf_answerSysc0 {s : State} {k : Nat} {x : Ctx} {r : FaultRecord} {f : Frame} (hframe : (s.ctxOf k x).frame = some f) :
    (s.answerSysc0 k x r).ctxOf k x = { (s.ctxOf k x).reflectReturn f with
      run := if (s.core k).halted then .held else .running, blocked := false, accHalt := none } := by
  unfold State.answerSysc0
  rw [hframe]
  dsimp only
  rw [(State.handlerDone_eq _ k x).2.1, State.ctxOf_updCtx_same, CtxSt.release_running rfl]
  rfl

/-- The answer to a cause, by the cause. -/
theorem exec_supervisorResume {k : Nat} {x : Ctx} {s : State} {r : FaultRecord} (x56 x57 : Word) (hk : k < 384)
    (hrun : (s.ctxOf k x).run = .trapped r) : exec (.supervisorResume k x x56 x57) s = .next
      (if r.cause = .deadlk then s.resumeDead k
      else if r.cause = .sysc then
        if r.info = 0 then s.answerSysc0 k x r
        else (s.updCtx k x fun c => (c.setReg 56 x56).setReg 57 x57).resumeCtx k x r
      else if (s.ctxOf k x).frame.isSome then s
      else s.resumeCtx k x r) := by
  simp only [exec, execSupervisorResume, hrun]
  rw [if_neg (Nat.not_le.2 hk)]
  split
  · rfl
  · split
    · split <;> rfl
    · split <;> rfl

end Sys2Proof.Machine

open Sys2Proof Sys2Proof.Machine in
/-- Settles O45: DEADLK and the answers are changes of the core's contexts one by one, each told by its own equation. -/
theorem stuckAndResumedTasks : Obligations.StuckAndResumedTasks := by
  unfold Obligations.StuckAndResumedTasks
  have hstands {k : Nat} {s : State} (hactive : (s.core k).status = .active) (hdead : (s.core k).deadlocked = true)
      (hstop : (s.core k).mustStop = false) (hlanded : (s.core k).landedAll = true) (hquiet : s.coreQuiet k = true) :
      s.stands k = true := by
    rw [State.stands_eq, hactive, hdead, hstop, hlanded, hquiet]
    rfl
  refine ⟨?_, ?_, ?_, ?_, ?_, ?_, ?_, ?_, ?_⟩
  · intro k s hk hactive hdead hstop hlanded hquiet hstill hspec hreaders
    have hlog : s.Landed k (s.log (s.coreRecord k .deadlk (s.core k).deadInfo)) := State.landed_logAt hreaders k _ _
    refine ⟨_, s.coreRecord k .deadlk (s.core k).deadInfo,
      exec_deadlk_stops hk (hstands hactive hdead hstop hlanded hquiet) hstill hspec, rfl, rfl, rfl, fun x => ?_⟩
    rw [(State.deadCtxs_stop k _ _ _ (hreaders.of_tasks hlog.tasks) x).2]
    have hctx := hlog.ctxOf x
    unfold CtxSt.Landed at hctx
    rw [hctx]
    by_cases hended : (s.ctxOf k x).ended = true
    · rw [if_pos hended, if_neg fun h => by rw [CoreSt.mem_unended] at h; exact absurd (h.symm.trans hended) nofun]
    · rw [if_neg hended, if_pos ((CoreSt.mem_unended _ _).2 (Bool.not_eq_true _ ▸ hended))]
  · intro k s tk hk hactive hdead hstop hlanded hquiet hstill htask hspec
    exact ⟨_, _, exec_deadlk_parks hk (hstands hactive hdead hstop hlanded hquiet) hstill htask hspec, State.task?_park .., rfl⟩
  · intro k s hk hno
    have hno' : ¬(s.stands k = true ∧ 2 ^ 20 ≤ (s.core k).still) := by
      rintro ⟨hst, hstill⟩
      rw [State.stands_eq] at hst
      simp only [Bool.and_eq_true, beq_iff_eq] at hst
      obtain ⟨⟨⟨⟨hactive, hdead⟩, -⟩, hlanded⟩, hquiet⟩ := hst
      rcases hno with h | h | h | h | h
      · exact h hactive
      · exact absurd (h.symm.trans hdead) nofun
      · exact absurd (h.symm.trans hlanded) nofun
      · exact absurd (h.symm.trans hquiet) nofun
      · omega
    simp only [exec, execDeadlk]
    rw [if_neg (Nat.not_le.2 hk), if_neg hno']
  · intro k x x56 x57 s r hk hrun hdead hsysc hframe
    obtain ⟨hothers, hsame, hctxs, -⟩ := s.resumeCtx_resumes k x r
    refine ⟨_, exec_supervisorResume x56 x57 hk hrun, ?_⟩
    rw [if_neg hdead, if_neg hsysc, if_neg (by simp [hframe])]
    exact ⟨hothers, hsame, hctxs⟩
  · intro k x x56 x57 s r hk hrun hdead hsysc hframe
    rw [exec_supervisorResume x56 x57 hk hrun, if_neg hdead, if_neg hsysc, if_pos (Option.isSome_iff_ne_none.2 hframe)]
  · intro k x x56 x57 s r hk hrun hsysc hinfo
    obtain ⟨hothers, hsame, hctxs, -⟩ := (s.updCtx k x fun c => (c.setReg 56 x56).setReg 57 x57).resumeCtx_resumes k x r
    refine ⟨_, exec_supervisorResume x56 x57 hk hrun, ?_⟩
    rw [if_neg (by rw [hsysc]; decide), if_pos hsysc, if_neg hinfo]
    refine ⟨fun j hj => (hothers j hj).trans (State.core_updCtx_other _ _ _ _ _ hj), ?_, fun y hy => ?_⟩
    · rw [hsame, State.ctxOf_updCtx_same, State.core_updCtx_same]
      cases x <;> rfl
    · rw [hctxs y hy, State.ctxOf, State.core_updCtx_same, CoreSt.ctx_updCtx_other _ _ _ _ hy]
      rfl
  · intro k x x56 x57 s r f hk hrun hsysc hinfo hframe
    refine ⟨_, exec_supervisorResume x56 x57 hk hrun, ?_⟩
    rw [if_neg (by rw [hsysc]; decide), if_pos hsysc, if_pos hinfo, State.ctxOf_answerSysc0 hframe]
    refine ⟨rfl, rfl, rfl, rfl, CtxSt.wrap_natCast _ _, fun y => ?_⟩
    exact (CtxSt.reg_of_regs rfl y).trans ((s.ctxOf k x).reg_reflectReturn f y)
  · intro k x x56 x57 s r hk hrun hsysc hinfo hframe _
    refine ⟨_, { s.record k x.code { cause := .illop } false (s.ctxOf k x).level r.pos r.pos r.word with rst := r.rst },
      exec_supervisorResume x56 x57 hk hrun, ?_, rfl, rfl, rfl⟩
    rw [if_neg (by rw [hsysc]; decide), if_pos hsysc, if_pos hinfo]
    unfold State.answerSysc0
    rw [hframe]
    exact congrArg CtxSt.run (State.ctxOf_updCtx_same ..)
  · intro k x x56 x57 s r hk hrun hdead
    refine ⟨_, exec_supervisorResume x56 x57 hk hrun, ?_⟩
    rw [if_pos hdead]
    refine ⟨fun y q hq hcause => ?_, fun y hy => ?_⟩
    · rw [State.ctxOf_resumeDead, CtxSt.answered_dead hq hcause]
    · rw [State.ctxOf_resumeDead, CtxSt.answered_other hy]

/-! PROOFS. Selection, reservation and release (R424 to R428). -/

namespace Sys2Proof.Machine

open Sys2Proof

/-- The cores of a list take their places one by one. -/
theorem State.placeCores (q : Nat) (l : List (Nat × Nat)) (s : State) :
    (l.foldl (fun s e => s.updCore e.1 fun c => { c with status := .placed, task := q, rank := e.2 }) s).tasks = s.tasks ∧
    ∀ j, (j ∈ l.map Prod.fst ∨ ((s.core j).status = .placed ∧ (s.core j).task = q)) →
      ((l.foldl (fun s e => s.updCore e.1 fun c => { c with status := .placed, task := q, rank := e.2 }) s).core j).status = .placed ∧
      ((l.foldl (fun s e => s.updCore e.1 fun c => { c with status := .placed, task := q, rank := e.2 }) s).core j).task = q := by
  induction l generalizing s with
  | nil => exact ⟨rfl, fun j hj => hj.resolve_left List.not_mem_nil⟩
  | cons e l ih =>
    obtain ⟨htasks, hcores⟩ := ih (s.updCore e.1 fun c => { c with status := .placed, task := q, rank := e.2 })
    refine ⟨htasks, fun j hj => hcores j ?_⟩
    rw [List.map_cons, List.mem_cons] at hj
    rw [State.core_updCore]
    by_cases hje : j = e.1
    · rw [if_pos hje]
      exact .inr ⟨rfl, rfl⟩
    · rw [if_neg hje]
      exact hj.imp_left (Or.resolve_left · hje)

/-- A task that takes up its place holds its cores. -/
theorem State.place_places (s : State) (t : Task) : (∃ u, (s.place t).task? t.seq = some u ∧ u.st = .placed ∧ u.target = t.target) ∧
    (∀ q, q ≠ t.seq → (s.place t).task? q = s.task? q) ∧
    ∀ j, j ∈ t.target → ((s.place t).core j).status = .placed ∧ ((s.place t).core j).task = t.seq := by
  unfold State.place State.task?
  dsimp only
  obtain ⟨htasks, hcores⟩ := State.placeCores t.seq (t.target.zip (List.range t.target.length)) (s.setTask { t with
    st := .placed, spec := !s.isFront t, prov := (!s.isFront t) || (t.prov && !t.saved.isEmpty), got := [], reqs := [], caps := s.slotTab
    left := t.left, ragged := (hdrRagged t.hdr).isNone || !t.saved.isEmpty })
  refine ⟨⟨_, (congrArg (Sparse.find · t.seq) htasks).trans (Sparse.find_put_same ..), rfl, rfl⟩, fun q hq => ?_, fun j hj => hcores j (.inl ?_)⟩
  · rw [htasks]
    exact Sparse.find_put_other _ _ _ _ hq
  · rwa [List.map_fst_zip (by simp)]

/-- A task that gets a core holds one more reservation. -/
theorem State.reserved_reserve (s : State) (t : Task) (k : Nat) : Reserved s (s.reserve t k) t k := by
  unfold Reserved State.reserve
  dsimp only
  split
  · next h =>
    rw [if_pos (Bool.and_eq_true_iff.2 h)]
    obtain ⟨htask, -, hcores⟩ := s.place_places { t with got := insertNat k t.got, reqs := t.reqs.filter (· != k) }
    exact ⟨htask, hcores⟩
  · next h => rw [if_neg fun hb => h (Bool.and_eq_true_iff.1 hb)]

/-- And leaves the other tasks as they are. -/
theorem State.task?_reserve_other (s : State) (t : Task) (k : Nat) {q : Nat} (hq : q ≠ t.seq) :
    (s.reserve t k).task? q = s.task? q := by
  unfold State.reserve
  dsimp only
  split
  · exact (s.place_places { t with got := insertNat k t.got, reqs := t.reqs.filter (· != k) }).2.1 q hq
  · exact Sparse.find_put_other _ _ _ _ hq

/-! What a die agent answers (R426). -/

section TakeRequest

variable {s : State} {t : Task} {k : Nat}

theorem State.takeRequest_gives (hfree : (s.core k).status = .free) (howns : s.owns t.part k = true) (hnone : s.reserver k = none) :
    s.takeRequest t k = s.reserve t k := by
  unfold State.takeRequest
  dsimp only
  rw [if_neg (by simp [hfree, howns]), hnone]

theorem State.takeRequest_takes {v : Task} (hfree : (s.core k).status = .free) (howns : s.owns t.part k = true)
    (hsome : s.reserver k = some v) (hbefore : t.before v = true) : s.takeRequest t k = (s.revoke v).reserve t k := by
  unfold State.takeRequest
  dsimp only
  rw [if_neg (by simp [hfree, howns]), hsome]
  exact if_pos hbefore

theorem State.takeRequest_waits (h : (s.core k).status ≠ .free ∨ s.owns t.part k = false ∨
    ∃ v, s.reserver k = some v ∧ t.before v = false) : s.takeRequest t k = s.setTask { t with reqs := t.reqs.filter (· != k) } := by
  unfold State.takeRequest
  dsimp only
  by_cases hno : (s.core k).status ≠ .free ∨ s.owns t.part k = false
  · rw [if_pos (by simpa using hno)]
  · rw [if_neg (by simpa using hno)]
    obtain ⟨v, hv, hbefore⟩ := (h.resolve_left fun hf => hno (.inl hf)).resolve_left fun ho => hno (.inr ho)
    rw [hv]
    exact if_neg (by simp [hbefore])

end TakeRequest

/-- A request that is under way reaches the die agent. -/
theorem exec_reservationRequest {q k : Nat} {s u : State} {tk : Task} (hk : k < 384) (hu : u = s.handOver k)
    (htk : u.task? q = some tk) (hst : tk.st = .reserving) (hreq : tk.reqs.contains k = true) :
    exec (.reservationRequest q k) s = .next (u.takeRequest tk k) := by
  subst hu
  simp only [exec, execReservationRequest]
  rw [if_neg (Nat.not_le.2 hk), htk]
  exact if_pos ⟨hst, hreq⟩

end Sys2Proof.Machine

open Sys2Proof Sys2Proof.Machine in
/-- Settles O42: each answer of a die agent is one reservation, one revoked before it, or none. -/
theorem reservationEvents : Obligations.ReservationEvents := by
  unfold Obligations.ReservationEvents
  refine ⟨?_, ?_, ?_, ?_, ?_, ?_⟩
  · rintro part s u tk ks rfl hready hhold hcandidate htarget hturn
    refine ⟨_, ?_, rfl⟩
    simp only [exec, execTaskSelect]
    rw [if_neg (by simp [hready, hhold]), hcandidate]
    dsimp only
    rw [htarget]
    exact if_pos hturn
  · rintro part s u rfl hno
    simp only [exec, execTaskSelect]
    exact if_pos (by simpa using hno)
  · intro q k s u tk hk hu htk hst hreq hfree howns hnone
    refine ⟨_, exec_reservationRequest hk hu htk hst hreq, ?_⟩
    rw [State.takeRequest_gives hfree howns hnone]
    exact u.reserved_reserve tk k
  · intro q k s u tk v hk hu htk hst hreq hfree howns hsome hbefore hne
    refine ⟨_, { v with st := .waiting, target := [], got := [], reqs := [], since := u.now },
      exec_reservationRequest hk hu htk hst hreq, ?_⟩
    rw [State.takeRequest_takes hfree howns hsome hbefore]
    refine ⟨?_, rfl, rfl, (u.revoke v).reserved_reserve tk k⟩
    rw [State.task?_reserve_other _ _ _ hne]
    exact Sparse.find_put_same ..
  · intro q k s u tk hk hu htk hst hreq hno
    exact ⟨_, exec_reservationRequest hk hu htk hst hreq, State.takeRequest_waits hno⟩
  · intro k s tk hk hfree hnone hearliest
    refine ⟨_, if_neg (Nat.not_le.2 hk), ?_⟩
    have hhand : s.handOver k = s.reserve tk k := by
      unfold State.handOver
      rw [if_pos (by simp [hfree, hnone]), hearliest]
    rw [hhand]
    exact s.reserved_reserve tk k

/-! PROOFS. What the scheduler's bookkeeping never adds: a task, a binding, a later commit (R286, R288, R299). -/

namespace Sys2Proof.Machine

open Sys2Proof

/-- From `s` to `t` no task, no binding and no commit is new. -/
structure State.NothingNew (s t : State) : Prop where
  tasks  : TasksByNumber s → TasksByNumber t ∧ ∀ q, s.task? q = none → t.task? q = none
  binds  : ∀ b, b ∈ t.binds → b ∈ s.binds
  lastTs : ∀ p, (t.part p).lastTs = (s.part p).lastTs

theorem State.NothingNew.refl (s : State) : s.NothingNew s := ⟨fun h => ⟨h, fun _ => id⟩, fun _ => id, fun _ => rfl⟩

theorem State.NothingNew.trans {s t u : State} (h : s.NothingNew t) (h' : t.NothingNew u) : s.NothingNew u := by
  refine ⟨fun hnum => ?_, fun b hb => h.binds b (h'.binds b hb), fun p => (h'.lastTs p).trans (h.lastTs p)⟩
  obtain ⟨hnum', hnone⟩ := h.tasks hnum
  obtain ⟨hnum'', hnone'⟩ := h'.tasks hnum'
  exact ⟨hnum'', fun q hq => hnone' q (hnone q hq)⟩

theorem State.NothingNew.of_eq {s t : State} (htasks : t.tasks = s.tasks) (hbinds : t.binds = s.binds) (hparts : t.parts = s.parts) :
    s.NothingNew t := by
  refine ⟨fun hnum => ⟨?_, fun q hq => ?_⟩, fun b hb => hbinds ▸ hb, fun p => ?_⟩
  · unfold TasksByNumber
    rw [htasks]
    exact hnum
  · rw [State.task?, htasks]
    exact hq
  · rw [State.part, hparts]
    rfl

theorem State.nothingNew_foldl {α : Type} (l : List α) (f : State → α → State) (hf : ∀ (s : State) a, s.NothingNew (f s a))
    (s : State) : s.NothingNew (l.foldl f s) := by
  induction l generalizing s with
  | nil => exact .refl s
  | cons a l ih => exact (hf s a).trans (ih _)

theorem State.NothingNew.ite {s t u : State} {p : Prop} [Decidable p] (h : s.NothingNew t) (h' : s.NothingNew u) :
    s.NothingNew (if p then t else u) := by split <;> assumption

/-- A task that is listed is found by its number. -/
theorem TasksByNumber.find {s : State} (h : TasksByNumber s) {t : Task} (ht : t ∈ s.allTasks) : s.task? t.seq ≠ none := by
  obtain ⟨e, he, rfl⟩ := List.mem_map.1 ht
  have hkey := h e he
  intro hnone
  have hmem : ∀ {m : Sparse Task}, e ∈ m → Sparse.find m e.1 ≠ none := by
    intro m hm
    induction m with
    | nil => exact absurd hm List.not_mem_nil
    | cons d m ih =>
      obtain ⟨j, x⟩ := d
      unfold Sparse.find
      split
      · exact Option.some_ne_none _
      · next hj =>
        rcases List.mem_cons.1 hm with rfl | hm
        · exact absurd rfl hj
        · exact ih hm
  rw [State.task?, hkey] at hnone
  exact hmem he hnone

/-- A task that was listed is changed under its own number. -/
theorem State.NothingNew.setTask {s u : State} (h : s.NothingNew u) {t t' : Task} (ht : t ∈ s.allTasks) (hseq : t'.seq = t.seq) :
    s.NothingNew (u.setTask t') := by
  refine ⟨fun hnum => ?_, h.binds, h.lastTs⟩
  obtain ⟨hnum', hnone⟩ := h.tasks hnum
  refine ⟨fun e he => ?_, fun q hq => ?_⟩
  · rcases Sparse.mem_put he with rfl | he
    · rfl
    · exact hnum' e he
  · have hne : q ≠ t'.seq := by
      rintro rfl
      rw [hseq] at hq
      exact hnum.find ht hq
    exact (Sparse.find_put_other _ _ _ _ hne).trans (hnone q hq)

theorem State.mem_allTasks_of_task? {s : State} {q : Nat} {t : Task} (h : s.task? q = some t) : t ∈ s.allTasks :=
  List.mem_map_of_mem (f := Prod.snd) (Sparse.mem_of_find h)

theorem State.nothingNew_updPart (s : State) (p : Nat) {f : Part → Part} (hf : ∀ v, (f v).lastTs = v.lastTs) :
    s.NothingNew (s.updPart p f) := by
  refine ⟨fun h => ⟨h, fun _ => id⟩, fun _ => id, fun p' => ?_⟩
  unfold State.updPart State.part
  rw [Sparse.get_put]
  split
  · next h => rw [hf, h]
  · rfl

theorem State.nothingNew_updCore (s : State) (k : Nat) (f : CoreSt → CoreSt) : s.NothingNew (s.updCore k f) := .of_eq rfl rfl rfl

theorem State.nothingNew_updCtx (s : State) (k : Nat) (x : Ctx) (f : CtxSt → CtxSt) : s.NothingNew (s.updCtx k x f) :=
  s.nothingNew_updCore k _

theorem State.nothingNew_forCores (s : State) (ks : List Nat) (f : CoreSt → CoreSt) : s.NothingNew (s.forCores ks f) :=
  State.nothingNew_foldl _ _ (fun u k => u.nothingNew_updCore k f) s

/-! ### Writes of memory -/

theorem State.putBytes_fields (s : State) (space a : Nat) (bs : List Byte) : (s.putBytes space a bs).tasks = s.tasks ∧
    (s.putBytes space a bs).binds = s.binds ∧ (s.putBytes space a bs).parts = s.parts ∧ (s.putBytes space a bs).cores = s.cores := by
  unfold State.putBytes
  dsimp only
  split <;> exact ⟨rfl, rfl, rfl, rfl⟩

theorem State.nothingNew_putBytes (s : State) (space a : Nat) (bs : List Byte) : s.NothingNew (s.putBytes space a bs) := by
  obtain ⟨htasks, hbinds, hparts, -⟩ := s.putBytes_fields space a bs
  exact .of_eq htasks hbinds hparts

theorem State.nothingNew_poke (s : State) (space a : Nat) (bs : List Byte) : s.NothingNew (s.poke space a bs) := by
  unfold State.poke
  dsimp only
  generalize (if space = 0 then _ else _ : List Nat) = hit
  split
  · exact s.nothingNew_putBytes space a bs
  · exact (s.nothingNew_putBytes space a bs).trans (.of_eq rfl rfl rfl)

/-! ### Aborts -/

theorem State.nothingNew_segWord (s : State) (pa v : Nat) : s.NothingNew (s.segWord pa v) := s.nothingNew_putBytes ..

theorem State.nothingNew_writeChain (s : State) (l : List Seg) : s.NothingNew (s.writeChain l) := by
  induction l generalizing s with
  | nil => exact .refl s
  | cons g l ih => exact ((s.nothingNew_segWord _ _).trans (State.nothingNew_segWord _ _ _)).trans (ih _)

theorem State.nothingNew_reclaim (s : State) (p : Nat) (g : Seg) : s.NothingNew (s.reclaim p g) := by
  unfold State.reclaim
  split
  · exact .refl s
  · dsimp only
    refine State.NothingNew.trans ?_ (State.nothingNew_writeChain _ _)
    refine State.NothingNew.trans ?_ (State.nothingNew_segWord _ _ _)
    refine State.NothingNew.trans ?_ (State.nothingNew_segWord _ _ _)
    exact s.nothingNew_updPart p fun _ => rfl

theorem State.nothingNew_dropEntry (s : State) (p q : Nat) : s.NothingNew (s.dropEntry p q) := by
  unfold State.dropEntry
  split
  · exact .refl s
  · dsimp only
    refine State.NothingNew.trans ?_ (State.nothingNew_reclaim _ _ _)
    refine State.NothingNew.trans ?_ (State.nothingNew_segWord _ _ _)
    exact s.nothingNew_updPart p fun _ => rfl

theorem State.nothingNew_freeName (s : State) (w : Word) : s.NothingNew (s.freeName w) := by
  rw [State.freeName_eq]
  exact .of_eq rfl rfl rfl

theorem State.nothingNew_relinquish (s : State) (w : Word) : s.NothingNew (s.relinquish w) := by
  rw [State.relinquish_eq]
  exact .of_eq rfl rfl rfl

theorem State.nothingNew_discard (s : State) (t : Task) : s.NothingNew (s.discard t) := by
  rw [State.discard_eq]
  refine State.NothingNew.trans ?_ (State.nothingNew_forCores _ _ _)
  have hbinds (v : State) (h : ∀ b, b ∈ v.binds → b ∈ s.binds) (htasks : v.tasks = s.tasks) (hparts : v.parts = s.parts) :
      s.NothingNew v := ⟨(State.NothingNew.of_eq (s := s) (t := { v with binds := s.binds }) htasks rfl hparts).tasks, h,
        (State.NothingNew.of_eq (s := s) (t := { v with binds := s.binds }) htasks rfl hparts).lastTs⟩
  unfold State.discardKept
  dsimp only
  refine State.NothingNew.trans (t := { s with
    vlines := s.vlines.filter fun (v : VLine) => v.task != t.seq
    binds := s.binds.filter fun (b : Bind) => b.task != t.seq
    gov := s.gov.map fun (e : Nat × List LeaveReq) => (e.1, e.2.filter fun (r : LeaveReq) => !(s.coresOf t.seq).contains r.core) })
    (hbinds _ (fun b hb => List.mem_of_mem_filter hb) rfl rfl) ?_
  have hnames (v : State) : v.NothingNew (t.shares.foldl (fun s w => s.relinquish w) (t.berths.foldl (fun s w => s.freeName w) v)) :=
    (State.nothingNew_foldl _ _ (fun u w => u.nothingNew_freeName w) v).trans
      (State.nothingNew_foldl _ _ (fun u w => u.nothingNew_relinquish w) _)
  refine .ite (State.NothingNew.trans (hnames _) ?_) (hnames _)
  exact State.nothingNew_updPart _ _ fun _ => rfl

theorem State.nothingNew_eraseTask (s : State) (q : Nat) : s.NothingNew { s with tasks := Sparse.erase s.tasks q } := by
  refine ⟨fun h => ⟨fun e he => h e (Sparse.mem_erase he), fun i hi => ?_⟩, fun _ => id, fun _ => rfl⟩
  by_cases hq : i = q
  · rw [hq]
    exact Sparse.find_erase_same ..
  · exact (Sparse.find_erase_other _ _ _ hq).trans hi

theorem State.nothingNew_abortOne (s : State) (a : List Nat) (q : Nat) : s.NothingNew (s.abortOne a q) := by
  unfold State.abortOne
  split
  · exact .refl s
  · next t ht =>
    unfold State.requeue
    split
    · have htasks : (s.discard t).tasks = ((s.discard t).dropEntry t.part t.seq).tasks := by
        rw [(s.discard t).onlyQueues_dropEntry t.part t.seq]
      rw [htasks]
      exact ((s.nothingNew_discard t).trans (State.nothingNew_dropEntry _ t.part t.seq)).trans (State.nothingNew_eraseTask _ t.seq)
    · exact (s.nothingNew_discard t).setTask (State.mem_allTasks_of_task? ht) rfl

/-- Taking creations away leaves the partitions' commits. -/
theorem State.nothingNew_waiting (s : State) (f : Part → List Creation) (hf : f .reset = []) :
    s.NothingNew { s with parts := s.parts.map fun (e : Nat × Part) => (e.1, { e.2 with waiting := f e.2 }) } := by
  refine ⟨fun h => ⟨h, fun _ => id⟩, fun _ => id, fun p => ?_⟩
  have hreset : ({ Part.reset with waiting := f .reset } : Part) = .reset := by rw [hf]; rfl
  have hpart := Sparse.get_map Part.reset (fun v => { v with waiting := f v }) hreset s.parts p
  have hlast := congrArg Part.lastTs hpart
  exact hlast

theorem State.nothingNew_abort (s : State) (q : Nat) : s.NothingNew (s.abort q) := by
  unfold State.abort
  exact (State.nothingNew_foldl _ _ (fun u i => u.nothingNew_abortOne _ i) s).trans
    (State.nothingNew_waiting _ (fun v => v.waiting.filter _) rfl)

theorem State.nothingNew_abortAll (s : State) (qs : List Nat) : s.NothingNew (s.abortAll qs) :=
  State.nothingNew_foldl _ _ (fun u q => u.nothingNew_abort q) s

/-! ### Records, increments and words released -/

theorem State.nothingNew_partWrite (s : State) (p space a : Nat) (bs : List Byte) : s.NothingNew (s.partWrite p space a bs) :=
  (s.nothingNew_poke space a bs).trans (State.nothingNew_abortAll _ _)

theorem State.nothingNew_logAt (s : State) (die : Nat) (r : FaultRecord) : s.NothingNew (s.logAt die r) := by
  have hcount (v : State) (n : BitVec 32) : v.NothingNew (v.updPart r.part fun p => { p with flogp := p.flogp + n }) :=
    v.nothingNew_updPart _ fun _ => rfl
  unfold State.logAt
  dsimp only
  split
  · exact (hcount s _).trans (.of_eq rfl rfl rfl)
  · exact ((s.nothingNew_partWrite _ _ _ _).trans (hcount _ _)).trans (.of_eq rfl rfl rfl)

theorem State.nothingNew_incTk (s : State) (k n amount : Nat) (flag : Bool) (r : FaultRecord) :
    s.NothingNew (s.incTk k n amount flag r) := by
  unfold State.incTk State.incTkFrom
  dsimp only
  exact .ite ((s.nothingNew_updCore _ _).trans (State.nothingNew_logAt _ _ _)) (s.nothingNew_updCore _ _)

theorem State.nothingNew_release (s : State) (k : Nat) (x : Ctx) (g : Sig) : s.NothingNew (s.release k x g) := by
  unfold State.release
  dsimp only
  exact .ite ((s.nothingNew_updCtx _ _ _).trans (State.nothingNew_updCore _ _ _))
    ((s.nothingNew_updCtx _ _ _).trans (State.nothingNew_incTk _ _ _ _ _ _))

theorem State.nothingNew_unhold (s : State) (k : Nat) (x : Ctx) (wid : Nat) : s.NothingNew (s.unhold k x wid) :=
  (s.nothingNew_updCtx _ _ _).trans
    (State.nothingNew_foldl _ _ (fun u g => .ite (u.nothingNew_release k x g) (.refl u)) _)

/-! ### Replicas, version lines and completion (R303, R307, R353) -/

theorem State.nothingNew_replicaApply (s : State) (d : Nat) : s.NothingNew (s.replicaApply d) := by
  unfold State.replicaApply
  split
  · exact .refl s
  · next u _ =>
    dsimp only
    have hwrite (log : List RepUpd) (hit : List Nat) :
        s.NothingNew ((({ s with seqLog := log } : State).poke 0 (u.addr + d * 2 ^ 16) u.data).abortAll hit) :=
      (State.NothingNew.of_eq (s := s) (t := { s with seqLog := log }) rfl rfl rfl).trans
        ((State.nothingNew_poke _ _ _ _).trans (State.nothingNew_abortAll _ _))
    exact .ite ((hwrite _ _).trans (State.nothingNew_unhold _ _ _ _)) (hwrite _ _)

theorem State.nothingNew_drainReplicas (s : State) : s.NothingNew s.drainReplicas :=
  State.nothingNew_foldl _ _ (fun u _ => State.nothingNew_foldl _ _ (fun v d => v.nothingNew_replicaApply d) u) s

theorem State.nothingNew_flushLine (s : State) (k : Nat) (v : VLine) : s.NothingNew (s.flushLine k v) := by
  unfold State.flushLine
  split
  · next l _ =>
    dsimp only
    have hlines (u : State) (f : List VLine) (hit : List Nat) : u.NothingNew (({ u with vlines := f } : State).abortAll hit) :=
      (State.NothingNew.of_eq (s := u) (t := { u with vlines := f }) rfl rfl rfl).trans (State.nothingNew_abortAll _ _)
    refine State.NothingNew.trans ?_ (hlines _ _ _)
    exact .ite (s.nothingNew_drainReplicas.trans (State.nothingNew_foldl _ _ (fun u i =>
        State.nothingNew_foldl _ _ (fun w d => w.nothingNew_poke _ _ _) u) _))
      (State.nothingNew_foldl _ _ (fun u i => u.nothingNew_poke _ _ _) s)
  · exact .refl s

theorem State.nothingNew_flushTask (s : State) (t : Task) : s.NothingNew (s.flushTask t) :=
  State.nothingNew_foldl _ _ (fun u v => .ite (.refl u) (u.nothingNew_flushLine _ v)) s

theorem State.nothingNew_taskWrite (s : State) (t : Task) (l : Loc) (va : Nat) (bs : List Byte) :
    s.NothingNew (s.taskWrite t l va bs) := by
  unfold State.taskWrite
  exact .ite (.of_eq rfl rfl rfl) ((s.nothingNew_poke _ _ _).trans (State.nothingNew_abortAll _ _))

theorem State.nothingNew_completionWord (s : State) (t : Task) (v : Nat) : s.NothingNew (s.completionWord t v) := by
  unfold State.completionWord
  refine .ite (.refl s) ?_
  split
  · exact s.nothingNew_taskWrite _ _ _ _
  · exact s.nothingNew_logAt _ _
  · exact .refl s

theorem State.nothingNew_complete (s : State) (t : Task) (status : Nat) : s.NothingNew (s.complete t status) := by
  rw [(s.complete_host t status).1]
  exact .of_eq rfl rfl rfl

/-! ### A frontier that takes up its place (R290, R302) -/

theorem State.nothingNew_updTask (s : State) (q : Nat) {f : Task → Task} (hf : ∀ t, (f t).seq = t.seq) :
    s.NothingNew (s.updTask q f) := by
  unfold State.updTask
  split
  · next t ht => exact (State.NothingNew.refl s).setTask (State.mem_allTasks_of_task? ht) (hf t)
  · exact .refl s

theorem State.nothingNew_discardForRestart (s : State) (t : Task) : s.NothingNew (s.discardForRestart t) := by
  unfold State.discardForRestart
  exact ((State.nothingNew_foldl _ _ (fun u i => u.nothingNew_abortOne _ i) s).trans
    (State.nothingNew_waiting _ (fun v => v.waiting.filter _) rfl)).trans (State.nothingNew_discard _ _)

theorem State.nothingNew_takeBack (s : State) (ks : List Nat) : s.NothingNew (s.takeBack ks) := by
  refine State.nothingNew_foldl _ _ (fun u k => ?_) s
  split
  · next t ht => exact (State.NothingNew.refl u).setTask (List.mem_of_find?_eq_some ht) rfl
  · exact .refl u

theorem State.nothingNew_restart (s : State) {t : Task} (ht : t ∈ s.allTasks) : s.NothingNew (s.restart t) := by
  unfold State.restart
  dsimp only
  refine .ite (State.NothingNew.trans (t := ((s.discardForRestart t).takeBack t.target).setTask t.restarted) ?_ ?_) (.refl s)
  · exact ((s.nothingNew_discardForRestart t).trans (State.nothingNew_takeBack _ _)).setTask ht rfl
  · exact State.nothingNew_foldl _ _ (fun u e => u.nothingNew_updCore _ _) _

theorem earliest_mem {l : List Task} {t : Task} (h : earliest l = some t) : t ∈ l := by
  induction l generalizing t with
  | nil => cases h
  | cons a l ih =>
    unfold earliest at h
    split at h
    · next u hu =>
      cases h
      unfold Task.least
      split
      · exact List.mem_cons_of_mem _ (ih hu)
      · exact List.mem_cons_self
    · cases h
      exact List.mem_cons_self

/-- The frontier of a partition is a task of it. -/
theorem State.front_mem {s : State} {p : Nat} {t : Task} (h : s.front p = some t) : t ∈ s.allTasks ∧ t.part = p := by
  have hmem := List.mem_filter.1 (earliest_mem h)
  exact ⟨hmem.1, by simpa using hmem.2⟩

theorem State.nothingNew_enterFront (s : State) (p : Nat) : s.NothingNew (s.enterFront p) := by
  unfold State.enterFront
  split
  · exact .refl s
  · next t ht =>
    have hmem := (State.front_mem ht).1
    refine .ite (s.nothingNew_restart hmem) (.ite (.ite (s.nothingNew_restart hmem) (.ite ?_ (.refl s))) (.refl s))
    exact (s.nothingNew_flushTask t).trans (State.nothingNew_updTask _ _ fun _ => rfl)

end Sys2Proof.Machine

/-! PROOFS. A core that has drained, and a frontier that commits (R80, R303). -/

namespace Sys2Proof.Machine

open Sys2Proof

/-! ### A core leaves its gang (R80) -/

/-- Whether the cores of a task have all started changes its state and its saved cores alone. -/
theorem State.task?_allStarted {s : State} {q : Nat} {t : Task} (ht : s.task? q = some t) (hseq : t.seq = q) :
    (s.allStarted q).cores = s.cores ∧ ∃ u, (s.allStarted q).task? q = some u ∧ u.left = t.left := by
  unfold State.allStarted
  rw [ht]
  dsimp only
  split
  · refine ⟨rfl, { t with st := .running, saved := [] }, ?_, rfl⟩
    rw [← hseq]
    exact Sparse.find_put_same ..
  · exact ⟨rfl, t, ht, rfl⟩

theorem State.task?_updTask {s : State} {q : Nat} {t : Task} (ht : s.task? q = some t) {f : Task → Task} (hf : (f t).seq = q) :
    (s.updTask q f).task? q = some (f t) ∧ (s.updTask q f).cores = s.cores := by
  unfold State.updTask
  rw [ht]
  refine ⟨?_, rfl⟩
  rw [← hf]
  exact Sparse.find_put_same ..

/-- A task that no graph node has made releases none. -/
theorem State.releaseNode_eq {t : Task} (h : ∀ tab n g b, t.origin ≠ .node tab n g b) (s : State) : s.releaseNode t = s := by
  unfold State.releaseNode
  split
  · next tab n g b horigin => exact absurd horigin (h tab n g b)
  · rfl

/-- What the gang is left with when core `k` has drained. -/
theorem State.leaveGang_leaves {s : State} {k : Nat} {tk : Task} (htk : s.taskOf k = some tk)
    (horigin : ∀ tab n g b, tk.origin ≠ .node tab n g b) :
    (s.leaveGang k).core k = (s.core k).cleared ∧ (∀ j, j ≠ k → (s.leaveGang k).core j = s.core j) ∧
    ∃ u, (s.leaveGang k).task? tk.seq = some u ∧ u.left = insertNat (s.core k).rank tk.left ∧
      ((s.leaveGang k).coresOf tk.seq = [] → u.st = .done) := by
  obtain ⟨v, hv, hcores, htask⟩ : ∃ v : State, (if (v.coresOf tk.seq).isEmpty then
        ((if v.isFront { tk with left := tk.left } then v.updPart tk.part fun p => { p with pre := false } else v).updTask tk.seq
          fun u => { u with st := .done, draining := false }).releaseNode tk
      else v.allStarted tk.seq) = s.leaveGang k ∧ v.cores = (s.updCore k CoreSt.cleared).cores ∧
      v.task? tk.seq = some { tk with left := insertNat (s.core k).rank tk.left } := by
    unfold State.leaveGang
    rw [htk]
    exact ⟨_, rfl, rfl, Sparse.find_put_same ..⟩
  have hlast : ∃ u, (s.leaveGang k).task? tk.seq = some u ∧ u.left = insertNat (s.core k).rank tk.left ∧
      ((s.leaveGang k).coresOf tk.seq = [] → u.st = .done) ∧ (s.leaveGang k).cores = v.cores := by
    rw [← hv]
    split
    · obtain ⟨w, hw, hwcores, hwtask⟩ : ∃ w : State, (if v.isFront { tk with left := tk.left } then
          v.updPart tk.part fun p => { p with pre := false } else v) = w ∧ w.cores = v.cores ∧ w.task? tk.seq = v.task? tk.seq := by
        split
        · exact ⟨_, rfl, rfl, rfl⟩
        · exact ⟨_, rfl, rfl, rfl⟩
      obtain ⟨hfind, hsame⟩ := State.task?_updTask (f := fun u => { u with st := .done, draining := false })
        (hwtask.trans htask) rfl
      rw [hw, State.releaseNode_eq horigin]
      exact ⟨_, hfind, rfl, fun _ => rfl, hsame.trans hwcores⟩
    · next hmore =>
      obtain ⟨hsame, u, hu, hleft⟩ := State.task?_allStarted htask rfl
      refine ⟨u, hu, hleft, fun hnone => absurd ?_ hmore, hsame⟩
      unfold State.coresOf at hnone ⊢
      rw [hsame] at hnone
      rw [hnone]
      rfl
  obtain ⟨u, hu, hleft, hdone, hsame⟩ := hlast
  have hcore (j : Nat) : (s.leaveGang k).core j = (s.updCore k CoreSt.cleared).core j := by
    rw [State.core, hsame, hcores]
    rfl
  refine ⟨?_, fun j hj => ?_, u, hu, hleft, hdone⟩
  · rw [hcore, State.core_updCore_same]
  · rw [hcore, State.core_updCore_other _ _ _ _ hj]

/-! ### The commit (R303) -/

theorem State.NothingNew.byNumber {s t : State} (h : s.NothingNew t) (hnum : TasksByNumber s) : TasksByNumber t := (h.tasks hnum).1

/-- The task that commits is gone, with its bindings. -/
theorem State.retire_gone (s : State) (t : Task) (word : Nat) (status : Option Nat) : s.NothingNew (s.retire t word status) ∧
    (s.retire t word status).task? t.seq = none ∧ ∀ b, b ∈ (s.retire t word status).binds → b.task ≠ t.seq := by
  obtain ⟨v, hv, hnew⟩ : ∃ v : State, s.retire t word status =
      { v with tasks := Sparse.erase v.tasks t.seq, binds := v.binds.filter fun (b : Bind) => b.task != t.seq } ∧ s.NothingNew v := by
    refine ⟨_, rfl, ?_⟩
    refine State.NothingNew.trans ?_ (State.nothingNew_dropEntry _ _ _)
    have hword := (s.nothingNew_completionWord t word).trans (State.nothingNew_drainReplicas _)
    cases status with
    | none => exact hword
    | some n => exact hword.trans (State.nothingNew_complete _ _ _)
  rw [hv]
  refine ⟨hnew.trans ((v.nothingNew_eraseTask t.seq).trans ?_), Sparse.find_erase_same .., fun b hb => ?_⟩
  · exact ⟨fun h => ⟨h, fun _ => id⟩, fun b hb => List.mem_of_mem_filter hb, fun _ => rfl⟩
  · simpa using (List.mem_filter.1 hb).2

/-- What a commit leaves. -/
theorem State.commitTask_commits {s : State} {t : Task} (hnum : TasksByNumber s) : TasksByNumber (s.commitTask t) ∧
    (s.commitTask t).task? t.seq = none ∧ ((s.commitTask t).part t.part).lastTs = t.ts ∧
    ∀ b, b ∈ (s.commitTask t).binds → b.task ≠ t.seq := by
  obtain ⟨v, hv, hnew⟩ : ∃ v : State, s.commitTask t =
      (v.retire t t.word (if t.failed then none else some 0)).updPart t.part (fun p => { p with lastTs := t.ts }) ∧ s.NothingNew v :=
    ⟨_, rfl, (s.nothingNew_flushTask t).trans
      (State.nothingNew_foldl t.rlqs (fun s e => s.relinquish e.2) (fun u e => u.nothingNew_relinquish e.2) _)⟩
  obtain ⟨hretire, hgone, hbinds⟩ := v.retire_gone t t.word (if t.failed then none else some 0)
  rw [hv]
  refine ⟨(hnew.trans hretire).byNumber hnum, hgone, ?_, hbinds⟩
  exact congrArg Part.lastTs (Sparse.get_put_same ..)

end Sys2Proof.Machine

open Sys2Proof Sys2Proof.Machine in
/-- Settles O44: a drained core leaves its gang; a commit removes its task, and the next frontier's entry brings nothing back. -/
theorem endEvents : Obligations.EndEvents := by
  unfold Obligations.EndEvents
  refine ⟨?_, ?_⟩
  · intro k s tk hk htk hnum hdraining huntrapped hengines hfaulty hdrained horigin
    have hexec : exec (.coreDrainDone k) s = .next (s.leaveGang k) := by
      simp only [exec, execCoreDrainDone]
      rw [if_neg (Nat.not_le.2 hk), if_neg (by simp [hdraining, huntrapped, hengines]), hfaulty]
      exact if_pos hdrained
    obtain ⟨hcore, hothers, u, hu, hleft, hdone⟩ := State.leaveGang_leaves htk horigin
    exact ⟨_, u, hexec, hcore, hothers, hu, hleft, hdone⟩
  · intro part s tk hfront hnum hst hlost hflush hword hreleased
    have hexec : exec (.taskCommit part) s = .next ((s.commitTask tk).enterFront part) := by
      simp only [exec, execTaskCommit, hfront]
      rw [if_pos hst, if_neg, if_pos (by simp [hflush, hword, hreleased])]
      rcases hlost with h | h <;> simp [h]
    obtain ⟨hnum', hgone, hlast, hbinds⟩ := State.commitTask_commits (t := tk) hnum
    have henter := (s.commitTask tk).nothingNew_enterFront part
    obtain ⟨-, hpart⟩ := State.front_mem hfront
    refine ⟨_, hexec, (henter.tasks hnum').2 _ hgone, ?_, fun b hb => hbinds b (henter.binds b hb)⟩
    rw [henter.lastTs, ← hpart, hlast]

/-! PROOFS. What a walk may leave in the TLBs and with the walkers, and how a halted part goes on (R385, R387, R388, R391, R393). -/

namespace Sys2Proof.Machine

open Sys2Proof

/-! ### The TLBs and the walkers -/

theorem mem_of_mem_tlbInsert {cap victim : Nat} {n e : TlbEntry} {l : List TlbEntry} (h : e ∈ tlbInsert cap victim n l) :
    e ∈ l ∨ e = n := by
  unfold tlbInsert at h
  rw [List.mem_append, List.mem_singleton] at h
  refine h.imp_left fun h => ?_
  split at h
  · exact List.mem_of_mem_filter (List.mem_of_mem_eraseIdx h)
  · exact List.mem_of_mem_filter h

/-- The first-level TLB of a core may keep a translation. -/
theorem State.keepFirst_keeps (s : State) (k : Nat) (n : TlbEntry) : s.keepFirst k n = { s with cores := (s.keepFirst k n).cores } ∧
    (∀ j, (s.keepFirst k n).core j = { s.core j with tlb := ((s.keepFirst k n).core j).tlb }) ∧
    ∀ j e, e ∈ ((s.keepFirst k n).core j).tlb → e ∈ (s.core j).tlb ∨ (j = k ∧ e = n) := by
  unfold State.keepFirst
  split
  · refine ⟨rfl, fun j => ?_, fun j e he => ?_⟩
    · rw [State.core_updCore]
      split
      · next h => rw [h]
      · rfl
    · rw [State.core_updCore] at he
      split at he
      · next h =>
        rw [h]
        exact (mem_of_mem_tlbInsert he).imp_right fun h' => ⟨rfl, h'⟩
      · exact .inl he
  · exact ⟨rfl, fun _ => rfl, fun _ _ => .inl⟩

/-- So may the second-level TLB of a die. -/
theorem State.keepSecond_keeps (s : State) (die : Nat) (n : TlbEntry) :
    s.keepSecond die n = { s with tlb2 := (s.keepSecond die n).tlb2 } ∧
    ∀ d e, e ∈ Sparse.get [] (s.keepSecond die n).tlb2 d → e ∈ Sparse.get [] s.tlb2 d ∨ (d = die ∧ e = n) := by
  unfold State.keepSecond
  split
  · refine ⟨rfl, fun d e he => ?_⟩
    dsimp only at he
    rw [Sparse.get_put] at he
    split at he
    · next h =>
      rw [h]
      exact (mem_of_mem_tlbInsert he).imp_right fun h' => ⟨rfl, h'⟩
    · exact .inl he
  · exact ⟨rfl, fun _ _ => .inl⟩

/-- What a walker may keep of a walk: the pointers above its leaf. -/
theorem State.mem_walkEntries {s : State} {die p va : Nat} {e : WalkEntry} (h : e ∈ s.walkEntries die p va) :
    e.part = p ∧ e.shift ∈ [47, 34, 29] ∧ e.key = va / 2 ^ e.shift := by
  unfold State.walkEntries at h
  simp only [List.mem_append] at h
  have hone {c : Prop} [Decidable c] {shift : Nat} {w : Word} (hs : shift ∈ [47, 34, 29])
      (he : e ∈ if c then [(⟨p, shift, va / 2 ^ shift, w⟩ : WalkEntry)] else []) :
      e.part = p ∧ e.shift ∈ [47, 34, 29] ∧ e.key = va / 2 ^ e.shift := by
    split at he
    · rw [List.mem_singleton] at he
      rw [he]
      exact ⟨rfl, hs, rfl⟩
    · exact absurd he List.not_mem_nil
  rcases h with (h | h) | h
  · exact hone (by decide) h
  · exact hone (by decide) h
  · exact hone (by decide) h

/-- The walker of a die may keep them. -/
theorem State.keepWalk_keeps (s : State) (die p va : Nat) : s.keepWalk die p va = { s with walks := (s.keepWalk die p va).walks } ∧
    ∀ d e, e ∈ Sparse.get [] (s.keepWalk die p va).walks d → e ∈ Sparse.get [] s.walks d ∨
      (d = die ∧ e.part = p ∧ e.shift ∈ [47, 34, 29] ∧ e.key = va / 2 ^ e.shift) := by
  unfold State.keepWalk
  dsimp only
  split
  · exact ⟨rfl, fun _ _ => .inl⟩
  · refine ⟨rfl, fun d e he => ?_⟩
    dsimp only at he
    rw [Sparse.get_put] at he
    split at he
    · next h =>
      rw [h]
      refine (List.mem_append.1 he).imp List.mem_of_mem_filter fun he => ⟨rfl, ?_⟩
      obtain ⟨x, hx, rfl⟩ := List.mem_map.1 he
      exact State.mem_walkEntries (List.of_mem_zip (List.mem_of_mem_filter hx)).1
    · exact .inl he

/-! ### Service (R391, R393) -/

theorem find?_updFirst {α : Type} {p : α → Bool} {f : α → α} (hf : ∀ a, p a = true → p (f a) = true) (l : List α) :
    (updFirst p f l).find? p = (l.find? p).map f := by
  induction l with
  | nil => rfl
  | cons a l ih =>
    unfold updFirst
    by_cases ha : p a = true
    · rw [if_pos ha, List.find?_cons_of_pos (hf a ha), List.find?_cons_of_pos ha]
      rfl
    · rw [if_neg ha, List.find?_cons_of_neg ha, List.find?_cons_of_neg ha, ih]

/-- An engine command that is changed under its own number is found changed. -/
theorem CoreSt.eng?_updEng (c : CoreSt) (id : Nat) {f : EngCmd → EngCmd} (hf : ∀ e, (f e).id = e.id) :
    (c.updEng id f).eng? id = (c.eng? id).map f := by
  have hkeep (e : EngCmd) (he : (e.id == id) = true) : ((f e).id == id) = true := by rw [hf]; exact he
  unfold CoreSt.eng? CoreSt.transfers CoreSt.updEng
  simp only [List.find?_append, find?_updFirst hkeep, Option.map_or]

theorem State.eng?_updEng {s : State} {k id : Nat} {e : EngCmd} (he : (s.core k).eng? id = some e) {f : EngCmd → EngCmd}
    (hf : ∀ e, (f e).id = e.id) : ((s.updEng k id f).core k).eng? id = some (f e) := by
  unfold State.updEng
  rw [State.core_updCore_same, CoreSt.eng?_updEng _ _ hf, he]
  rfl

section ServeAccess

variable {s : State} {k : Nat} {x : Ctx} {h : Halt} {mapped : Bool}

/-- A halted access queue goes on where its page is mapped, or a walk finds it so. -/
theorem State.serveAccess_on (hhalt : (s.ctxOf k x).accHalt = some h) (hfailed : h.failed = none)
    (hon : mapped = true ∨ s.walksNow k h.va = true) :
    s.serveAccess k x mapped = s.updCtx k x fun c => { c with accHalt := none } := by
  unfold State.serveAccess
  rw [hhalt]
  dsimp only
  rw [if_neg (by simp [hfailed]), if_pos (by simpa [State.replays] using hon)]
  rfl

/-- Else XLATE is delivered at the access. -/
theorem State.serveAccess_fails {a : Access} (hhalt : (s.ctxOf k x).accHalt = some h) (hfailed : h.failed = none)
    (hwalk : s.walksNow k h.va = false) (ha : (s.ctxOf k x).accq.find? (fun a => a.wid == h.wid) = some a) :
    s.serveAccess k x false = s.failAccess k x a { cause := .xlate, addr := w64 h.va, malf := h.malf } := by
  unfold State.serveAccess
  rw [hhalt]
  dsimp only
  rw [if_neg (by simp [hfailed]), if_neg (by simp [State.replays, hwalk]), ha]

/-- A context's record depends on no context. -/
theorem State.record_updCtx (s : State) (k : Nat) (x : Ctx) (f : CtxSt → CtxSt) (ctx : Nat) (t : Trap) (eng : Bool)
    (level pos resume : Nat) (w : Word) : (s.updCtx k x f).record k ctx t eng level pos resume w =
      s.record k ctx t eng level pos resume w := by
  unfold State.record State.partOf State.taskOf
  rw [State.core_updCtx_same]
  cases x <;> rfl

/-- What the failure of an access leaves in its context. -/
theorem State.ctxOf_failAccess (s : State) (k : Nat) (x : Ctx) (a : Access) (t : Trap) : (s.failAccess k x a t).ctxOf k x =
    { s.ctxOf k x with
      accHalt := some ⟨a.wid, t.addr.toNat, t.malf, some t.cause⟩
      attached := (s.ctxOf k x).attached ++ [s.record k x.code t false (s.ctxOf k x).level a.pos 0 a.word] } := by
  unfold State.failAccess State.attach State.haltAccess
  rw [State.ctxOf_updCtx_same, State.ctxOf_updCtx_same, State.record_updCtx]

end ServeAccess

/-- The service of a halted engine command. -/
theorem State.eng?_serveEng {s : State} {k id : Nat} {e : EngCmd} {h : Halt} (mapped : Bool) (he : (s.core k).eng? id = some e)
    (hhalt : e.halt = some h) : ((s.serveEng k id mapped).core k).eng? id = some { e with
      halt := none
      fail := if mapped || s.walksNow k h.va then e.fail else some { cause := .xlate, addr := w64 h.va, malf := h.malf } } := by
  have hserved := State.eng?_updEng he (f := fun e => { e with halt := none }) fun _ => rfl
  unfold State.serveEng
  rw [he]
  dsimp only
  rw [hhalt]
  dsimp only
  unfold State.replays
  split
  · exact hserved
  · exact State.eng?_updEng hserved fun _ => rfl

end Sys2Proof.Machine

open Sys2Proof Sys2Proof.Machine in
/-- Settles O40: a walk may keep three things, one after the other; a service either drops the halt or fails what it halts. -/
theorem translationEvents : Obligations.TranslationEvents := by
  unfold Obligations.TranslationEvents
  refine ⟨?_, ?_, ?_, ?_, ?_, ?_⟩
  · rintro k va p s w block n hk hserved hbusy rfl hwin hwalk hmig rfl
    have hexec : exec (.tlbWalk k va) s = .next (((s.keepWalk (dieOf k) (s.partOf k) va).keepFirst k
        ⟨s.partOf k, false, block, va / (if block then 2 ^ 34 else 2 ^ 16), w⟩).keepSecond (dieOf k)
        ⟨s.partOf k, false, block, va / (if block then 2 ^ 34 else 2 ^ 16), w⟩) := by
      simp only [exec, execTlbWalk]
      rw [if_neg (Nat.not_le.2 hk), if_neg (by simp [hserved, hbusy]), if_neg (by simp [hwin]), hwalk]
      exact if_neg (by simp [hmig])
    obtain ⟨hw, hwalks⟩ := s.keepWalk_keeps (dieOf k) (s.partOf k) va
    generalize hu : s.keepWalk (dieOf k) (s.partOf k) va = u at *
    obtain ⟨hf, hcores, htlb⟩ := u.keepFirst_keeps k ⟨s.partOf k, false, block, va / (if block then 2 ^ 34 else 2 ^ 16), w⟩
    generalize u.keepFirst k ⟨s.partOf k, false, block, va / (if block then 2 ^ 34 else 2 ^ 16), w⟩ = v at *
    obtain ⟨hs, htlb2⟩ := v.keepSecond_keeps (dieOf k) ⟨s.partOf k, false, block, va / (if block then 2 ^ 34 else 2 ^ 16), w⟩
    generalize v.keepSecond (dieOf k) ⟨s.partOf k, false, block, va / (if block then 2 ^ 34 else 2 ^ 16), w⟩ = t at *
    rw [hf] at hs htlb2
    rw [hw] at hs hcores htlb htlb2
    have hcore (j : Nat) : t.core j = v.core j := by rw [hs]; rfl
    refine ⟨t, hexec, ?_, fun j => ?_, fun j e he => ?_, htlb2, fun d e he => hwalks d e ?_⟩
    · rw [hs]
    · rw [hcore]
      exact hcores j
    · rw [hcore] at he
      exact htlb j e he
    · rw [hs] at he
      exact he
  · rintro k va p s n hk hserved hbusy rfl hwin hentry
    refine ⟨_, ?_, s.keepFirst_keeps k n⟩
    simp only [exec, execTlbWalk]
    rw [if_neg (Nat.not_le.2 hk), if_neg (by simp [hserved, hbusy]), if_pos hwin, hentry]
  · intro k id s h mapped hk hhalt hfailed hon
    exact ⟨_, if_neg (Nat.not_le.2 hk), State.serveAccess_on hhalt hfailed hon⟩
  · intro k id s h mapped hk hhalt hfailed hon
    exact ⟨_, if_neg (Nat.not_le.2 hk), State.serveAccess_on hhalt hfailed hon⟩
  · intro k id s h a hk hhalt hfailed hwalk ha
    refine ⟨_, if_neg (Nat.not_le.2 hk), ?_⟩
    rw [State.serveAccess_fails hhalt hfailed hwalk ha, State.ctxOf_failAccess]
    exact ⟨rfl, rfl⟩
  · intro k who id s e h mapped hk hwho he hhalt
    refine ⟨s.serveEng k id mapped, ?_, State.eng?_serveEng mapped he hhalt⟩
    rcases hwho with rfl | rfl | rfl <;> exact if_neg (Nat.not_le.2 hk)

/-! PROOFS. Engine commands and collectives (R229, R241, R246, R250, R443 to R445). -/

namespace Sys2Proof.Machine

open Sys2Proof

/-! ### Increments that do not pass 65,535 -/

theorem Sparse.put_put {α : Type} (m : Sparse α) (j : Nat) (x y : α) : Sparse.put (Sparse.put m j x) j y = Sparse.put m j y := by
  induction m with
  | nil => simp [Sparse.put]
  | cons e r ih =>
    obtain ⟨k, v⟩ := e
    simp only [Sparse.put]
    split
    · simp [Sparse.put]
    · split
      · simp [Sparse.put]
      · next h1 h2 => simp [Sparse.put, h1, h2, ih]

/-- Two changes of a core are one. -/
theorem State.updCore_updCore (s : State) (k : Nat) (f g : CoreSt → CoreSt) :
    (s.updCore k f).updCore k g = s.updCore k fun c => g (f c) := by
  unfold State.updCore
  rw [State.core_setCore_same]
  unfold State.setCore
  rw [Sparse.put_put]

/-- One more increment of a counter below 65,535. -/
theorem CoreSt.incTk_one {c : CoreSt} {n : Nat} (h : (c.tk n).count < 65535) :
    c.incTk n 1 = c.setTk n { c.tk n with count := (c.tk n).count + 1 } := by
  have hpass : c.passes n 1 = false := by simp [CoreSt.passes]; omega
  have hmin : min ((c.tk n).count + 1) 65535 = (c.tk n).count + 1 := by omega
  unfold CoreSt.incTk
  dsimp only
  rw [hpass, hmin]
  simp

/-- Such an increment logs nothing. -/
theorem State.incTkFrom_one {s : State} {k n : Nat} (die : Nat) (flag : Bool) (r : FaultRecord) (h : ((s.core k).tk n).count < 65535) :
    s.incTkFrom die k n 1 flag r = s.updCore k fun c => c.incTk n 1 flag := by
  have hpass : (s.core k).passes n 1 = false := by simp [CoreSt.passes]; omega
  unfold State.incTkFrom
  dsimp only
  rw [if_neg (by simp [hpass])]

/-- An engine's token, where the counter is below 65,535. -/
theorem State.engToken_one {s : State} {k : Nat} (x : Ctx) (n : BitVec 5) (pos : Nat) (w addr : Word)
    (h : ((s.core k).tk n.toNat).count < 65535) : s.engToken k x n false pos w addr =
      if n = 0 then s else s.updCore k fun c => c.setTk n.toNat { c.tk n.toNat with count := (c.tk n.toNat).count + 1 } := by
  unfold State.engToken
  split
  · rfl
  · refine (State.incTkFrom_one _ false _ h).trans ?_
    unfold State.updCore
    exact congrArg (s.setCore k) (CoreSt.incTk_one h)

/-! ### Completion (R229, R250, R254) -/

section Complete

variable {s : State} {k id : Nat} {e : EngCmd} (x : Ctx)

/-- A finished command completes. -/
theorem exec_engineCmdComplete (hk : k < 384) (heng : s.engines k = true) (he : (s.core k).eng? id = some e) (hfin : e.fin = true)
    (hfail : e.fail = none) (hnow : (s.core k).completesNow e = true) (htier : s.tierClear (s.partOf k) e = true)
    (hwrites : s.writesDone k id = true) : exec (.engineCmdComplete k x id) s = .next
      (((s.spawnResults k e).updCore k fun c => c.dropEng id).engToken k e.ctx e.tko false e.pos e.word (w64 e.off)) := by
  simp only [exec, execEngineCmdComplete]
  rw [if_neg (Nat.not_le.2 hk), if_neg (by simp [heng]), he]
  dsimp only
  rw [if_neg (by simp [hfin, hfail, hnow, htier, hwrites]), hfail]

theorem State.spawnResults_other (h : e.op ≠ .tspawn) : s.spawnResults k e = s := by
  unfold State.spawnResults
  split
  · next hop => exact absurd hop h
  · rfl

theorem State.spawnResults_spawn (h : e.op = .tspawn) (hfail : e.fail = none) : s.spawnResults k e = s.updCtx k e.ctx fun c =>
    (c.arrive (rcdXd e.rcd) (if e.aux = 0 then e.name else 0)).arrive (rcdXs e.rcd) (w64 e.aux) := by
  unfold State.spawnResults
  rw [h, hfail]
  rfl

theorem CoreSt.tk_dropEng (c : CoreSt) (id n : Nat) : (c.dropEng id).tk n = c.tk n := rfl

theorem CoreSt.regs_dropEng (c : CoreSt) (id : Nat) (y : Ctx) : ((c.dropEng id).ctx y).regs = (c.ctx y).regs := by cases y <;> rfl

theorem CoreSt.regs_updEng (c : CoreSt) (id : Nat) (f : EngCmd → EngCmd) (y : Ctx) :
    ((c.updEng id f).ctx y).regs = (c.ctx y).regs := by cases y <;> rfl

end Complete

/-! ### RED and MSEND (R241, R246) -/

theorem CoreSt.eng?_of_ctxs {c d : CoreSt} (hL : d.cL = c.cL) (hS : d.cS = c.cS) (hf : d.ferry = c.ferry) (id : Nat) :
    d.eng? id = c.eng? id := by
  unfold CoreSt.eng? CoreSt.transfers
  rw [hL, hS, hf]

/-- After a change of the target, the token of a RED or MSEND, where its counter is below 65,535: of the core its counters. -/
theorem State.targetToken_updCore {s : State} {k t : Nat} {e : EngCmd} {g : CoreSt → CoreSt}
    (h : ((g (s.core t)).tk (rcdTtk e.rcd)).count < 65535) :
    ∃ f : CoreSt → CoreSt, (s.updCore t g).targetToken k e t = s.updCore t (fun c => f (g c)) ∧
      ∀ c : CoreSt, f c = { c with tks := (f c).tks, starved := (f c).starved } := by
  unfold State.targetToken
  dsimp only
  split
  · exact ⟨id, rfl, fun c => rfl⟩
  · refine ⟨fun c => c.incTk (rcdTtk e.rcd) 1, ?_, fun c => rfl⟩
    exact (State.incTkFrom_one _ false _ (by rw [State.core_updCore_same]; exact h)).trans (s.updCore_updCore t _ _)

/-- What a message does to the core that receives it: its bytes, and the slot of its queue. -/
def CoreSt.takeMessage (c : CoreSt) (n off : Nat) (bytes : List Byte) : CoreSt :=
  (c.spWrite off bytes).updMq n fun q => { q.setSlot q.claim .full with claim := q.claim + 1 }

theorem CoreSt.takeMessage_eq (c : CoreSt) (n off : Nat) (bytes : List Byte) :
    c.takeMessage n off bytes = { c.spWrite off bytes with mqs := (c.takeMessage n off bytes).mqs } := by
  unfold CoreSt.takeMessage CoreSt.updMq
  split <;> rfl

theorem CoreSt.tk_takeMessage (c : CoreSt) (n off : Nat) (bytes : List Byte) (m : Nat) : (c.takeMessage n off bytes).tk m = c.tk m := by
  rw [CoreSt.takeMessage_eq]; rfl

theorem CoreSt.sp_takeMessage (c : CoreSt) (n off : Nat) (bytes : List Byte) :
    (c.takeMessage n off bytes).sp = c.sp.setBytes off bytes := by
  rw [CoreSt.takeMessage_eq]; rfl

theorem CoreSt.takeMessage_ctxs (c : CoreSt) (n off : Nat) (bytes : List Byte) : (c.takeMessage n off bytes).cL = c.cL ∧
    (c.takeMessage n off bytes).cS = c.cS ∧ (c.takeMessage n off bytes).ferry = c.ferry := by
  rw [CoreSt.takeMessage_eq]; exact ⟨rfl, rfl, rfl⟩

theorem CoreSt.mq_takeMessage {c : CoreSt} {n off : Nat} {bytes : List Byte} {r : Ring} (h : c.mq n = some r) :
    Sparse.find (c.takeMessage n off bytes).mqs n = some { r.setSlot r.claim .full with claim := r.claim + 1 } := by
  unfold CoreSt.takeMessage CoreSt.updMq
  rw [show (c.spWrite off bytes).mq n = some r from h]
  exact Sparse.find_put_same ..

/-- What reaches a target and marks the command as finished: the target's change, but for its counters, and the mark. -/
theorem State.reached {s : State} {k t id : Nat} {e : EngCmd} {f g : CoreSt → CoreSt} (he : (s.core k).eng? id = some e)
    (hf : ∀ c : CoreSt, f c = { c with tks := (f c).tks, starved := (f c).starved })
    (hg : ∀ c : CoreSt, (g c).cL = c.cL ∧ (g c).cS = c.cS ∧ (g c).ferry = c.ferry) :
    let u := (s.updCore t fun c => f (g c)).updEng k id fun y => { y with fin := true }
    (u.core t).sp = (g (s.core t)).sp ∧ (u.core t).mqs = (g (s.core t)).mqs ∧ SameMemory u s ∧
      ((u.core k).eng? id).map (·.fin) = some true := by
  have hcore : ((s.updCore t fun c => f (g c)).core k).eng? id = some e := by
    rw [State.core_updCore]
    split
    · next hkt =>
      obtain ⟨hL, hS, hferry⟩ := hg (s.core t)
      rw [hf]
      refine (CoreSt.eng?_of_ctxs (c := s.core t) hL hS hferry id).trans ?_
      rw [← hkt, he]
    · exact he
  have hsame (j : Nat) : (((s.updCore t fun c => f (g c)).updEng k id fun y => { y with fin := true }).core j).sp =
      ((s.updCore t fun c => f (g c)).core j).sp ∧ (((s.updCore t fun c => f (g c)).updEng k id fun y => { y with fin := true }).core j).mqs =
      ((s.updCore t fun c => f (g c)).core j).mqs := by
    unfold State.updEng
    rw [State.core_updCore _ k j]
    split
    · next hj => rw [hj]; exact ⟨rfl, rfl⟩
    · exact ⟨rfl, rfl⟩
  obtain ⟨hsp, hmqs⟩ := hsame t
  refine ⟨?_, ?_, ⟨rfl, rfl, rfl, rfl, rfl, rfl⟩, ?_⟩
  · rw [hsp, State.core_updCore_same, hf]
  · rw [hmqs, State.core_updCore_same, hf]
  · rw [State.eng?_updEng hcore (f := fun y => { y with fin := true }) fun _ => rfl]
    rfl

theorem CoreSt.lostBlock_none {c : CoreSt} {off n : Nat} (h : c.spLost off n = false) : c.lostBlock [(off, off + n)] = none := by
  unfold CoreSt.lostBlock
  unfold CoreSt.spLost at h
  rw [List.flatMap_singleton, Nat.add_sub_cancel_left, List.find?_eq_none]
  intro b hb
  rw [List.any_eq_false] at h
  exact h b hb

theorem CoreSt.eng?_id {c : CoreSt} {id : Nat} {e : EngCmd} (h : c.eng? id = some e) : e.id = id := by
  have := List.find?_some h
  simpa using this

/-- What the name that an STN returns, and with STN.T its status, do to the context. -/
def CtxSt.namesArrive (c : CtxSt) (e : EngCmd) (status : Bool) : CtxSt :=
  let d := c.arrive (rcdXd e.rcd) e.name
  if status then d.arrive (rcdXs e.rcd) (w64 e.aux) else d

/-! ### Collectives (R443 to R445) -/

theorem State.collVerdict_eq (s : State) (cause : Cause) (info : Nat) (x : Contrib) :
    s.collVerdict cause info x = { s with cores := (s.collVerdict cause info x).cores } ∧
    ∀ k, ((s.collVerdict cause info x).core k).sp = (s.core k).sp := by
  unfold State.collVerdict
  split
  · refine ⟨rfl, fun k => ?_⟩
    unfold State.updEng
    rw [State.core_updCore]
    split
    · next h => rw [h]; rfl
    · rfl
  · exact ⟨rfl, fun _ => rfl⟩

/-- The verdicts of a collective touch its members' commands alone. -/
theorem State.collEnd_eq (s : State) (c : Coll) (cause : Cause) (info : Nat) :
    s.collEnd c cause info = { s with cores := (s.collEnd c cause info).cores } ∧
    ∀ k, ((s.collEnd c cause info).core k).sp = (s.core k).sp := by
  unfold State.collEnd
  generalize c.got = l
  induction l generalizing s with
  | nil => exact ⟨rfl, fun _ => rfl⟩
  | cons x l ih =>
    obtain ⟨hrest, hsp⟩ := s.collVerdict_eq cause info x
    obtain ⟨hrest', hsp'⟩ := ih (s.collVerdict cause info x)
    rw [List.foldl_cons]
    refine ⟨?_, fun k => (hsp' k).trans (hsp k)⟩
    generalize s.collVerdict cause info x = v at hrest hrest' ⊢
    generalize l.foldl (fun s x => s.collVerdict cause info x) v = u at hrest' ⊢
    generalize v.cores = cores at hrest
    subst hrest
    exact hrest'

/-- A first contribution opens its collective. -/
theorem State.contribute_first {s : State} {p g num n limit : Nat} {x : Contrib} {sub len op root : Nat}
    (h : s.colls.find? (fun c => c.is p g num) = none) :
    s.contribute p g num n limit x sub len op root = s.putColl ⟨p, g, num, sub, len, op, root, n, [x], s.now, 0, limit⟩ := by
  unfold State.contribute
  rw [h]

theorem State.colls_putColl_new {s : State} {d : Coll} (h : s.colls.find? (fun c => c.is d.part d.group d.cnum) = none)
    (hstate : d.state = 0) : (s.putColl d).colls = s.colls ++ [d] := by
  have hany : s.colls.any (fun c => c.is d.part d.group d.cnum) = false := by
    rw [List.any_eq_false]
    exact fun c hc => by simpa using List.find?_eq_none.1 h c hc
  unfold State.putColl
  dsimp only
  rw [if_neg (by simp [hstate]), hany]
  rfl

theorem FaultRecord.length_bytes (r : FaultRecord) : r.bytes.length = 64 := by
  simp [FaultRecord.bytes, FaultRecord.words]

/-- A fault record alone: its 64 bytes in the partition's log, and the count of the log's records. -/
theorem State.onlyRecord_log {s : State} (h : NoReaders s) (r : FaultRecord) : OnlyRecord s (s.log r) r.part := by
  have hcount (v : State) (hv : v.parts = s.parts) (n : BitVec 32) (q : Nat) :
      (v.updPart r.part fun p => { p with flogp := p.flogp + n }).part q = if q = r.part then
        { s.part r.part with flogp := ((v.updPart r.part fun p => { p with flogp := p.flogp + n }).part r.part).flogp } else s.part q := by
    have hpart (q : Nat) : v.part q = s.part q := by unfold State.part; rw [hv]
    split
    · next h => rw [h, State.part_updPart_same, hpart]
    · next h => rw [State.part_updPart_other _ _ _ _ h, hpart]
  by_cases hbase : field ((s.part r.part).reg 11) 16 30 * 2 ^ 16 = 0
  · have hlog : s.log r = { s.updPart r.part (fun p => { p with flogp := p.flogp + 0 }) with
        lpInts := s.lpInts ++ [(r.die, logInterrupt)] } := by
      unfold State.log State.logAt
      dsimp only
      rw [if_pos hbase, if_pos hbase]
      rfl
    rw [hlog]
    exact ⟨⟨rfl, rfl, rfl, rfl⟩, fun _ _ => rfl, fun q => hcount s rfl 0 q⟩
  · have hplace : recordPlace s r.part = some (field ((s.part r.part).reg 11) 16 30 * 2 ^ 16 +
        64 * ((s.part r.part).flogp.toNat % (2 ^ field ((s.part r.part).reg 11) 0 4 * 1024))) := if_neg hbase
    obtain ⟨bad, tampered, hpoke⟩ := s.poke_hbm (field ((s.part r.part).reg 11) 16 30 * 2 ^ 16 +
      64 * ((s.part r.part).flogp.toNat % (2 ^ field ((s.part r.part).reg 11) 0 4 * 1024))) r.bytes
    obtain ⟨v, hlog, hv, hhbm, hrest⟩ : ∃ v : State, s.log r = { v.updPart r.part (fun p => { p with flogp := p.flogp + 1 }) with
        lpInts := s.lpInts ++ [(r.die, logInterrupt)] } ∧ v.parts = s.parts ∧
        v.hbm = s.hbm.setBytes (field ((s.part r.part).reg 11) 16 30 * 2 ^ 16 +
          64 * ((s.part r.part).flogp.toNat % (2 ^ field ((s.part r.part).reg 11) 0 4 * 1024))) r.bytes ∧
        v.host = s.host ∧ v.tier = s.tier ∧ v.ws = s.ws ∧ v.seqLog = s.seqLog := by
      unfold State.log State.logAt
      dsimp only
      rw [if_neg hbase, if_neg hbase, State.partWrite_eq h, hpoke]
      exact ⟨_, rfl, rfl, rfl, rfl, rfl, rfl, rfl⟩
    rw [hlog]
    refine ⟨hrest, fun a ha => ?_, fun q => hcount v hv 1 q⟩
    have hout := ha _ hplace
    change v.hbm.byte a = _
    rw [hhbm]
    exact Memory.byte_setBytes_outside _ _ _ _ (by rw [FaultRecord.length_bytes]; exact hout)

/-- A missing contribution times the collective out. -/
theorem State.collTimeout_times (s : State) {p g n : Nat} {c : Coll} (hfind : s.colls.find? (fun c => c.is p g n) = some c) :
    ((s.collTimeout c).colls.find? fun c => c.is p g n) = some { c with state := 2 } ∧
    (NoReaders s → OnlyRecord s (s.collTimeout c) p ∧ ∀ k, ((s.collTimeout c).core k).sp = (s.core k).sp) := by
  have his : c.is p g n = true := List.find?_some (p := fun c : Coll => c.is p g n) hfind
  obtain ⟨rfl, rfl, rfl⟩ : c.part = p ∧ c.group = g ∧ c.cnum = n := by simpa [Coll.is, and_assoc] using his
  obtain ⟨hend, hsp⟩ := (s.timeoutRecord c).collEnd_eq c .rtimeout c.cnum
  have hcolls : (s.timeoutRecord c).colls = s.colls := by
    rw [State.timeoutRecord, State.log, s.logged_logAt _ _]
  have ht : s.collTimeout c = { (s.timeoutRecord c).collEnd c .rtimeout c.cnum with
      colls := updFirst (fun d => d.is c.part c.group c.cnum) (fun d => { d with state := 2 }) s.colls } := by
    unfold State.collTimeout
    dsimp only
    rw [hend]
    dsimp only
    rw [hcolls]
  rw [ht]
  refine ⟨?_, fun hreaders => ⟨?_, fun k => (hsp k).trans ?_⟩⟩
  · exact (find?_updFirst (p := fun d : Coll => d.is c.part c.group c.cnum) (f := fun d : Coll => { d with state := 2 })
      (fun _ hd => hd) s.colls).trans (congrArg (Option.map _) hfind)
  · rw [hend]
    have hrecord := State.onlyRecord_log hreaders (looseRecord c.part (s.freeVal 1 % 4) .rtimeout 0 (w64 c.cnum) (w64 (s.freeVal 2))
      (w64 (s.freeVal 3)))
    exact ⟨hrecord.spaces, hrecord.bytes, hrecord.parts⟩
  · rw [State.timeoutRecord, State.log,
      (State.landed_logAt hreaders (k + 1) _ _).others k (Nat.ne_of_lt (Nat.lt_succ_self k))]

end Sys2Proof.Machine

open Sys2Proof Sys2Proof.Machine in
/-- Settles O38: each event is a change of the command's core, of its target's, or of the list of collectives. -/
theorem engineEvents : Obligations.EngineEvents := by
  unfold Obligations.EngineEvents
  refine ⟨?_, ?_, ?_, ?_, ?_, ?_, ?_, ?_⟩
  · intro k x id s e hk heng he hfin hfail hnow htier hwrites hop
    refine ⟨_, exec_engineCmdComplete x hk heng he hfin hfail hnow htier hwrites, fun hfits => ?_⟩
    rw [State.spawnResults_other hop, State.engToken_one _ _ _ _ _ (by rw [State.core_updCore_same]; exact hfits _)]
    split
    · exact (s.updCore_updCore k (fun c => c.dropEng id) fun c => c).symm
    · rfl
  · intro k x id s e hk heng he hfin hfail hnow htier hwrites hop hfits
    refine ⟨_, exec_engineCmdComplete x hk heng he hfin hfail hnow htier hwrites, ?_⟩
    rw [State.spawnResults_spawn hop hfail, State.engToken_one]
    · split
      · rw [State.ctxOf, State.core_updCore_same, State.core_updCtx_same, CoreSt.regs_dropEng, CoreSt.ctx_updCtx_same]
        rfl
      · rw [State.ctxOf, State.core_updCore_same, State.core_updCore_same, State.core_updCtx_same, CoreSt.ctx_setTk, CoreSt.regs_dropEng,
          CoreSt.ctx_updCtx_same]
        rfl
    · rw [State.core_updCore_same, State.core_updCtx_same]
      exact (congrArg Tk.count (CoreSt.tk_updCtx ..)).trans_lt (hfits _)
  · intro k x id s e op t' hk heng he hop hstage hopen htarget hsize hwindow hlost hcount
    have hexec : exec (.redApply k x id) s = .next (s.redAt k e op t') := by
      simp only [exec, execRedApply]
      rw [if_neg (Nat.not_le.2 hk), if_neg (by simp [heng]), he]
      dsimp only
      rw [hop]
      dsimp only
      rw [if_pos ⟨hstage, hopen⟩, htarget]
    obtain ⟨f, htoken, hf⟩ := State.targetToken_updCore (s := s) (k := k) (t := t') (e := e)
      (g := fun c => { c with sp := applyRed op c.sp (rcdOffset e.rcd) (words32 e.buf) }) hcount
    have hred : s.redAt k e op t' = (s.updCore t' fun c => f { c with sp := applyRed op c.sp (rcdOffset e.rcd) (words32 e.buf) }).updEng k id
        fun y => { y with fin := true } := by
      unfold State.redAt
      dsimp only
      rw [if_neg (by simp [hwindow]; omega), CoreSt.lostBlock_none hlost]
      dsimp only
      rw [htoken, CoreSt.eng?_id he]
    obtain ⟨hsp, -, hmem, hmark⟩ := State.reached (t := t') he hf
      (g := fun c => { c with sp := applyRed op c.sp (rcdOffset e.rcd) (words32 e.buf) }) fun _ => ⟨rfl, rfl, rfl⟩
    exact ⟨_, hexec.trans (congrArg _ hred), hsp, hmem, hmark⟩
  · intro k x id s e t' r hk heng he hop hstage hopen hfirst htarget hmq hsize hslot hcount
    have hexec : exec (.msendGrant k x id) s = .next (s.msendAt k e t') := by
      simp only [exec, execMsendGrant]
      rw [if_neg (Nat.not_le.2 hk), if_neg (by simp [heng]), he]
      dsimp only
      rw [if_pos ⟨hop, hstage, hopen, hfirst⟩, htarget]
    obtain ⟨f, htoken, hf⟩ := State.targetToken_updCore (s := s) (k := k) (t := t') (e := e)
      (g := fun c => c.takeMessage (rcdTmq e.rcd) (r.base + r.claim % r.slots * r.size)
        (msgHeader (rcdLen e.rcd) k (s.core k).rank ++ e.buf)) (by rw [CoreSt.tk_takeMessage]; exact hcount)
    have hsend : s.msendAt k e t' = (s.updCore t' fun c => f (c.takeMessage (rcdTmq e.rcd) (r.base + r.claim % r.slots * r.size)
        (msgHeader (rcdLen e.rcd) k (s.core k).rank ++ e.buf))).updEng k id fun y => { y with fin := true } := by
      unfold State.msendAt
      rw [hmq]
      dsimp only
      rw [if_neg (Nat.not_lt.2 hsize), if_neg (by simp [hslot]), ← CoreSt.eng?_id he]
      exact congrArg (fun v : State => v.updEng k e.id fun y => { y with fin := true }) htoken
    obtain ⟨hsp, hmqs, hmem, -⟩ := State.reached (t := t') he hf
      (g := fun c => c.takeMessage (rcdTmq e.rcd) (r.base + r.claim % r.slots * r.size)
        (msgHeader (rcdLen e.rcd) k (s.core k).rank ++ e.buf)) fun c => c.takeMessage_ctxs ..
    refine ⟨_, hexec.trans (congrArg _ hsend), hsp.trans (CoreSt.sp_takeMessage ..), ?_, hmem⟩
    rw [CoreSt.mq, hmqs]
    exact CoreSt.mq_takeMessage hmq
  · intro k x id s e status hk heng he hop hstage hearlier
    have hexec : exec (.stnNameReturn k x id) s = .next ((s.updCtx k e.ctx fun c => c.namesArrive e status).updEng k id
        fun y => { y with stage := 4 }) := by
      simp only [exec, execStnNameReturn]
      rw [if_neg (Nat.not_le.2 hk), if_neg (by simp [heng]), he]
      dsimp only
      rw [hop]
      dsimp only
      refine if_pos ⟨hstage, List.filter_eq_nil_iff.2 fun y hy => ?_⟩
      split
      · next b hb => simpa using hearlier y hy b hb
      · simp
    refine ⟨_, hexec, ⟨rfl, rfl, rfl, rfl, rfl, rfl⟩, ?_⟩
    rw [State.ctxOf, State.updEng, State.core_updCore_same, CoreSt.regs_updEng, State.core_updCtx_same, CoreSt.ctx_updCtx_same]
    unfold CtxSt.namesArrive
    split <;> rfl
  · intro k x id s e form rank hk heng he hop hstage hopen hrank hnone
    have hexec : exec (.collContribution k x id) s = .next ((s.updEng k id fun y => { y with stage := 4, row := rank }).putColl
        ⟨s.partOf k, collGroup e.rcd, collNum e.rcd, form, collLen e.rcd, collOp e.rcd, collRoot e.rcd,
          s.groupSize (s.partOf k) (collGroup e.rcd), [⟨rank, e.buf, k, e.ctx, id, true⟩], s.now, 0, e.limit⟩) := by
      simp only [exec, execCollContribution]
      rw [if_neg (Nat.not_le.2 hk), if_neg (by simp [heng]), he]
      dsimp only
      rw [hop]
      dsimp only
      rw [if_pos ⟨hstage, hopen⟩, hrank]
      exact congrArg Host.Outcome.next (State.contribute_first (s := s.updEng k id fun y => { y with stage := 4, row := rank }) hnone)
    refine ⟨_, hexec, ?_, ?_⟩
    · exact ⟨rfl, rfl, rfl, rfl, rfl, rfl⟩
    · exact State.colls_putColl_new (s := s.updEng k id fun y => { y with stage := 4, row := rank }) hnone rfl
  · intro p g n s c hsafe hfind hstate hgot hlimit
    have hexec : exec (.collDeadlineExpire p g n) s = .next (s.collTimeout c) := by
      simp only [exec, execCollDeadlineExpire]
      rw [hfind]
      exact if_pos ⟨by simp [hsafe], hstate, hgot, hlimit⟩
    exact ⟨_, hexec, s.collTimeout_times hfind⟩
  · intro k x id s e form hk heng he hop hstage hfail hlate
    have hexec : exec (.collMemberTimeout k x id) s =
        .next (s.failEng k id { cause := .rtimeout, addr := w64 e.off, info := w64 (collNum e.rcd) }) := by
      simp only [exec, execCollMemberTimeout]
      rw [if_neg (Nat.not_le.2 hk), if_neg (by simp [heng]), he]
      dsimp only
      rw [hop]
      dsimp only
      rw [if_pos ⟨by omega, by simp [hfail], hlate⟩]
      split
      · rw [if_neg (by omega)]
      · rfl
    refine ⟨_, hexec, ⟨rfl, rfl, rfl, rfl, rfl, rfl⟩, ?_⟩
    rw [State.failEng, State.eng?_updEng he (f := fun y => { y with fail := some { cause := .rtimeout, addr := w64 e.off, info := w64 (collNum e.rcd) } })
      fun _ => rfl]
    rfl

/-! PROOFS. Statements that a scratch move onto a word of the window refutes.

An issued word owes its signals under its number, position and word (R66), the word as it stood in the window at issue. Words of X that read or
write the batch table first perform the scratch moves in flight (R323). Where one of these writes the window's own bytes, the word at the
program counter is another one afterwards, and the signals still name the old one. The statements below say of every state that the signals
name the word that the scratchpad holds after the moves. -/

namespace Sys2Proof.Machine

open Sys2Proof

/-- The outcome goes on with a signal owed for the word `w`. -/
def owesFor (o : Host.Outcome State Fault Refusal) (w : Word) : Bool :=
  match o with
  | .next t => t.me.sigs.any fun g => g.word == w
  | _ => false

/-- The signals of a word that has gone through from `u` name the word at `u`'s program counter. -/
theorem not_through_of_owesFor {o : Host.Outcome State Fault Refusal} {t u : State} {c : Ctl} {tki : List (BitVec 5)} {held engine : Bool}
    {core : CoreSt → CoreSt → CoreSt} {ctx : CtxSt → CtxSt → CtxSt} {w : Word} (ho : owesFor o w = true) (ht : o = .next t)
    (hsigs : u.me.sigs = []) (hword : u.wordAtPc ≠ w) : ¬ Through u t c tki held core ctx engine := by
  subst ht
  intro hthrough
  obtain ⟨g, hg, hgw⟩ := List.any_eq_true.1 ho
  rw [hthrough.half.signals, hsigs, List.nil_append] at hg
  have howed : g.word = u.wordAtPc := by
    simp only [owed, List.mem_append] at hg
    rcases hg with (hg | hg) | hg
    all_goals
      split at hg
      · rw [List.mem_singleton.1 hg]
      · exact absurd hg List.not_mem_nil
  exact hword (howed.symm.trans (eq_of_beq hgw))

/-- X of core 0, in interlocked mode, has a window of zeros at 4,096 and a scratch move in flight that writes 1 there; a table of one row,
quarantined, stands at 0 and is bound. -/
def overwriting : State :=
  { State.reset with
    who := ⟨0, .X⟩
    cores := [(0, { CoreSt.reset with
      status := .active, cX := { CtxSt.reset with run := .running, wbase := 4096, wwords := 64, flights := [⟨0, 0, 0, 0, .scratch 4096 1⟩] }
      batch := some 0, qmask := 1, sp := [(0, 1)], nextId := 1 })] }

/-- The control half of the words below: counter 1 goes up. -/
def signalling : Ctl := { Ctl.none with stk := 1 }

theorem seen_overwriting : overwriting.seen signalling 3 = overwriting := State.seen_interlocked _ _ _ rfl

theorem overwriting_sigs : overwriting.settleScratch.me.sigs = [] := by decide +kernel

theorem overwriting_word : overwriting.settleScratch.wordAtPc ≠ 0 := by decide +kernel

/-- Refutes O28: RNGJMP of the quarantined row (`overwriting`). -/
theorem not_rowWords : ¬ Obligations.RowWords := by
  unfold Obligations.RowWords
  rintro ⟨-, hjump, -⟩
  obtain ⟨t, ht, hthrough⟩ := hjump signalling 0 0 overwriting overwriting overwriting.settleScratch 0 seen_overwriting.symm rfl rfl
    (by decide +kernel) rfl ⟨rfl, by decide +kernel, by decide +kernel, rfl⟩
  rw [if_pos (by decide +kernel)] at hthrough
  exact not_through_of_owesFor (w := 0) (by decide +kernel) ht overwriting_sigs overwriting_word hthrough

/-- Refutes O27: GSTEP of the quarantined row (`overwriting`). -/
theorem not_generationWords : ¬ Obligations.GenerationWords := by
  unfold Obligations.GenerationWords
  rintro ⟨-, hgstep, -⟩
  have hstep := hgstep signalling ⟨vnull, vz, false⟩ overwriting 0
  rw [seen_overwriting] at hstep
  obtain ⟨⟨t, ht, hthrough, -⟩, -⟩ := hstep (by decide +kernel) (by decide +kernel) rfl rfl rfl
    ⟨by decide +kernel, by decide +kernel, by decide +kernel, by decide +kernel⟩ (by decide +kernel) (by decide +kernel) (by decide +kernel)
  exact not_through_of_owesFor (w := 0) (by decide +kernel) ht overwriting_sigs overwriting_word hthrough

/-- Refutes O26: TAPCHK where no probe table is set up (`overwriting`). -/
theorem not_tapWords : ¬ Obligations.TapWords := by
  unfold Obligations.TapWords
  rintro ⟨-, -, htap⟩
  have hcheck := htap signalling 0 0 0 overwriting ⟨overwriting.xsp, []⟩ []
  rw [seen_overwriting] at hcheck
  have hplan : overwriting.tapPlan 0 0 1 = .ok ⟨overwriting.xsp, []⟩ [] := by
    have hresid : overwriting.residTrap 0 = none := by decide +kernel
    unfold State.tapPlan
    dsimp only
    rw [if_pos (by decide +kernel), hresid]
    rfl
  obtain ⟨hnone, -⟩ := hcheck (by decide +kernel) rfl rfl rfl (by decide +kernel) hplan (by decide +kernel) (by decide +kernel)
    (by decide +kernel)
  obtain ⟨t, ht, hthrough⟩ := hnone rfl
  refine not_through_of_owesFor (w := 0) (by decide +kernel) ht ?_ ?_ hthrough
  · decide +kernel
  · decide +kernel

end Sys2Proof.Machine

/-! PROOFS. What an issued word moves, in one record.

Between the state that a word finds and the state that it leaves, every word changes the same control fields: token counters, FIFO counts,
program counter, loop stack, issue cycle, STOP count and signals (R65, R66, R72). `Moves u w m` says that `w` is `u` with the control fields
`m`: what a word's effect does besides stands in `u`. -/

namespace Sys2Proof.Machine

open Sys2Proof

/-- The control fields of a core, and of its issuing context. -/
structure Moved where
  tks     : Sparse Tk
  nextId  : Nat
  starved : List Ctx
  fifoP   : Ctx → Nat
  fifoN   : Ctx → Nat
  pc      : Nat
  loops   : List LoopEntry
  icycle  : Nat
  pair    : Option PairInfo
  nonStop : Nat
  sigs    : List Sig
  blocked : Bool
  forced  : Bool

/-- Context `y` with the control fields `m` of a word of context `x`. -/
def CtxSt.moved (d : CtxSt) (x y : Ctx) (m : Moved) : CtxSt :=
  { d with
    fifoP := m.fifoP y, fifoN := m.fifoN y
    pc := if y = x then m.pc else d.pc
    loops := if y = x then m.loops else d.loops
    icycle := if y = x then m.icycle else d.icycle
    pair := if y = x then m.pair else d.pair
    nonStop := if y = x then m.nonStop else d.nonStop
    sigs := if y = x then m.sigs else d.sigs
    blocked := if y = x then m.blocked else d.blocked
    forced := if y = x then m.forced else d.forced }

/-- The core with the control fields `m` of a word of context `x`. -/
def CoreSt.moved (c : CoreSt) (x : Ctx) (m : Moved) : CoreSt :=
  { c with
    tks := m.tks, nextId := m.nextId, starved := m.starved
    cL := c.cL.moved x .L m, cX := c.cX.moved x .X m, cS := c.cS.moved x .S m }

/-- The control fields as they stand. -/
def CoreSt.control (c : CoreSt) (x : Ctx) : Moved :=
  { tks := c.tks, nextId := c.nextId, starved := c.starved, fifoP := fun y => (c.ctx y).fifoP, fifoN := fun y => (c.ctx y).fifoN
    pc := (c.ctx x).pc, loops := (c.ctx x).loops, icycle := (c.ctx x).icycle, pair := (c.ctx x).pair, nonStop := (c.ctx x).nonStop
    sigs := (c.ctx x).sigs, blocked := (c.ctx x).blocked, forced := (c.ctx x).forced }

theorem CtxSt.moved_same (d : CtxSt) (x : Ctx) (m : Moved) : d.moved x x m = { d with
    fifoP := m.fifoP x, fifoN := m.fifoN x, pc := m.pc, loops := m.loops, icycle := m.icycle, pair := m.pair, nonStop := m.nonStop
    sigs := m.sigs, blocked := m.blocked, forced := m.forced } := by
  simp [CtxSt.moved]

theorem CtxSt.moved_other (d : CtxSt) {x y : Ctx} (m : Moved) (h : y ≠ x) :
    d.moved x y m = { d with fifoP := m.fifoP y, fifoN := m.fifoN y } := by
  simp [CtxSt.moved, h]

theorem CoreSt.ctx_moved (c : CoreSt) (x y : Ctx) (m : Moved) : (c.moved x m).ctx y = (c.ctx y).moved x y m := by cases y <;> rfl

theorem CoreSt.control_moved (c : CoreSt) (x : Ctx) (m : Moved) : (c.moved x m).control x = m := by
  unfold CoreSt.control
  simp only [CoreSt.ctx_moved, CtxSt.moved_same]
  rfl

/-- Two cores with the same control fields, and the same otherwise, are one. -/
theorem CoreSt.eq_moved {c d : CoreSt} {x : Ctx} {m : Moved} (hctx : ∀ y, d.ctx y = (c.ctx y).moved x y m)
    (hcore : d = { c with cL := d.cL, cX := d.cX, cS := d.cS, tks := m.tks, nextId := m.nextId, starved := m.starved }) : d = c.moved x m := by
  have hL : d.cL = c.cL.moved x .L m := hctx .L
  have hX : d.cX = c.cX.moved x .X m := hctx .X
  have hS : d.cS = c.cS.moved x .S m := hctx .S
  rw [hcore, hL, hX, hS]
  rfl

/-- A change of the issuing context's own control fields. -/
theorem CoreSt.moved_updCtx (c : CoreSt) (x : Ctx) (m m' : Moved) (f : CtxSt → CtxSt) (h : f ((c.ctx x).moved x x m) = (c.ctx x).moved x x m')
    (hfifo : m'.fifoP = m.fifoP ∧ m'.fifoN = m.fifoN) (hcore : m'.tks = m.tks ∧ m'.nextId = m.nextId ∧ m'.starved = m.starved) :
    (c.moved x m).updCtx x f = c.moved x m' := by
  obtain ⟨hP, hN⟩ := hfifo
  obtain ⟨htk, hid, hst⟩ := hcore
  refine CoreSt.eq_moved (fun y => ?_) ?_
  · by_cases hy : y = x
    · rw [hy, CoreSt.ctx_updCtx_same, CoreSt.ctx_moved, h]
    · rw [CoreSt.ctx_updCtx_other _ _ _ _ hy, CoreSt.ctx_moved, CtxSt.moved_other _ _ hy, CtxSt.moved_other _ _ hy, hP, hN]
  · rw [htk, hid, hst]
    cases x <;> rfl

/-- State `w` is `u` with the control fields `m` of a word of the issuing context. -/
structure Moves (u w : State) (m : Moved) : Prop where
  inside : State.Local u w
  cur    : w.cur = u.cur.moved u.who.ctx m

section

variable {u w : State} {m : Moved}

theorem Moves.who (h : Moves u w m) : w.who = u.who := h.inside.who

theorem Moves.ctx (h : Moves u w m) (y : Ctx) : w.cur.ctx y = (u.cur.ctx y).moved u.who.ctx y m := by rw [h.cur, CoreSt.ctx_moved]

theorem Moves.me (h : Moves u w m) : w.me = u.me.moved u.who.ctx u.who.ctx m := by
  unfold State.me
  rw [h.who]
  exact h.ctx _

theorem Moves.reg (h : Moves u w m) (y : Reg) : w.reg y = u.reg y := by
  unfold State.reg
  rw [h.me]
  rfl

theorem Moves.exposed (h : Moves u w m) : w.me.exposed = u.me.exposed := by rw [h.me]; rfl

/-- Changes of the two cores that agree but for the control fields. -/
theorem Moves.change (h : Moves u w m) (f g : CoreSt → CoreSt)
    (hf : f (u.cur.moved u.who.ctx m) = (g u.cur).moved u.who.ctx m) : Moves (u.updCur g) (w.updCur f) m where
  inside := by
    have hk : w.k = u.k := by rw [State.k, h.who]; rfl
    refine ⟨?_, fun k hne => ?_⟩
    · have := h.inside.device
      generalize w.cores = cores at this
      subst this
      rfl
    · have hne : k ≠ u.k := hne
      unfold State.updCur
      rw [State.core_updCore_other _ _ _ _ (by rw [hk]; exact hne), State.core_updCore_other _ _ _ _ hne, h.inside.cores k hne]
  cur := by rw [State.cur_updCur, State.cur_updCur, h.cur]; exact hf

/-- A change of the core that neither reads nor writes control fields. -/
theorem Moves.updCur (h : Moves u w m) (f : CoreSt → CoreSt)
    (hf : f (u.cur.moved u.who.ctx m) = (f u.cur).moved u.who.ctx m) : Moves (u.updCur f) (w.updCur f) m := h.change f f hf

/-- A change of the issuing context that neither reads nor writes control fields. -/
theorem Moves.updMe (h : Moves u w m) (f : CtxSt → CtxSt)
    (hf : f (u.me.moved u.who.ctx u.who.ctx m) = (f u.me).moved u.who.ctx u.who.ctx m) : Moves (u.updMe f) (w.updMe f) m := by
  unfold State.updMe State.updCtx
  rw [h.who]
  refine h.updCur (fun c => c.updCtx u.who.ctx f) ?_
  refine CoreSt.eq_moved (fun y => ?_) ?_
  · by_cases hy : y = u.who.ctx
    · rw [hy, CoreSt.ctx_updCtx_same, CoreSt.ctx_moved, CoreSt.ctx_updCtx_same]
      exact hf
    · rw [CoreSt.ctx_updCtx_other _ _ _ _ hy, CoreSt.ctx_moved, CoreSt.ctx_updCtx_other _ _ _ _ hy]
  · cases u.who.ctx <;> rfl

/-- A change of the device outside the cores that reads none of them. -/
theorem Moves.device (h : Moves u w m) (D : State → State) (hD : ∀ (s : State) cores, D { s with cores := cores } = { D s with cores := cores })
    (hwho : (D u).who = u.who) : Moves (D u) (D w) m := by
  have hu : (D u).cores = u.cores := by
    have := hD u u.cores
    rw [this]
  have hw : D w = { D u with cores := w.cores } := by
    have := h.inside.device
    rw [← hD u w.cores, ← this]
  have hk : (D u).k = u.k := by rw [State.k, hwho]; rfl
  have hcoreU (k : Nat) : (D u).core k = u.core k := by unfold State.core; rw [hu]
  have hcoreW (k : Nat) : (D w).core k = w.core k := by rw [hw]; rfl
  refine ⟨⟨?_, fun k hne => ?_⟩, ?_⟩
  · rw [hw]
  · rw [hcoreW, hcoreU, h.inside.cores k (by rwa [← hk])]
  · have hkw : (D w).k = w.k := by rw [hw, State.k, State.k, h.who, ← hwho]
    rw [State.cur, hkw, hcoreW, ← State.cur, h.cur, hwho, State.cur, State.cur, hk, hcoreU]

end

/-! ### The control half -/

/-- The control fields after a word's tokens and counters are taken. -/
def State.paid (v : State) (c : Ctl) (j : Issue) (n : Nat) : Moved := (v.pay c j n).cur.control v.who.ctx

theorem State.moves_pay (v : State) (c : Ctl) (j : Issue) (n : Nat) : Moves v (v.pay c j n) (v.paid c j n) := by
  have hown : (v.pay c j n).me = (v.pay c j n).cur.ctx v.who.ctx := rfl
  refine ⟨State.local_pay v c j n, CoreSt.eq_moved (fun y => ?_) ?_⟩
  · by_cases hy : y = v.who.ctx
    · subst hy
      have hme := State.me_pay v c j n
      rw [hown] at hme
      rw [CtxSt.moved_same]
      unfold State.paid CoreSt.control
      dsimp only
      generalize (v.pay c j n).cur.ctx v.who.ctx = d at hme ⊢
      rw [hme]
      rfl
    · have hctx := State.ctx_pay v c j n y hy
      rw [CtxSt.moved_other _ _ hy]
      unfold State.paid CoreSt.control
      dsimp only
      generalize (v.pay c j n).cur.ctx y = d at hctx ⊢
      rw [hctx]
  · have hcore := State.core_pay v c j n
    unfold State.paid CoreSt.control
    dsimp only
    generalize (v.pay c j n).cur = d at hcore ⊢
    rw [hcore]

theorem State.icycle_paid (v : State) (c : Ctl) (j : Issue) (n : Nat) : (v.paid c j n).icycle = n := by
  change ((v.pay c j n).me).icycle = n
  rw [State.me_pay]

theorem State.pc_paid (v : State) (c : Ctl) (j : Issue) (n : Nat) : (v.paid c j n).pc = v.me.pc := by
  change ((v.pay c j n).me).pc = v.me.pc
  rw [State.me_pay]

theorem State.loops_paid (v : State) (c : Ctl) (j : Issue) (n : Nat) : (v.paid c j n).loops = v.me.loops := by
  change ((v.pay c j n).me).loops = v.me.loops
  rw [State.me_pay]

theorem State.starved_paid (v : State) (c : Ctl) (j : Issue) (n : Nat) : (v.paid c j n).starved = [] := by
  change ((v.pay c j n).cur).starved = _
  rw [State.core_pay]

theorem State.nextId_paid (v : State) (c : Ctl) (j : Issue) (n : Nat) : (v.paid c j n).nextId = v.cur.nextId + 1 := by
  change ((v.pay c j n).cur).nextId = _
  rw [State.core_pay]

/-- A word's control half, from the control fields it leaves. -/
theorem Moves.half {v u t : State} {m : Moved} {c : Ctl} {j : Issue} {n : Nat} {held : Bool} (h : Moves u t m)
    (hpaid : m = { v.paid c j n with pc := m.pc, loops := m.loops, sigs := v.me.sigs ++ owed c v.cur.nextId v.me.pc v.wordAtPc held j.engine })
    (hwho : u.who = v.who) (hctl : u.cur.control u.who.ctx = v.cur.control v.who.ctx) (hword : u.wordAtPc = v.wordAtPc) :
    ControlHalf u t c j.tki held j.engine ∧ Confined u t keep keep keep := by
  have hfifo (y : Ctx) : (u.cur.ctx y).fifoP = (v.cur.ctx y).fifoP ∧ (u.cur.ctx y).fifoN = (v.cur.ctx y).fifoN :=
    ⟨congrFun (congrArg Moved.fifoP hctl) y, congrFun (congrArg Moved.fifoN hctl) y⟩
  have htk (k : Nat) : u.cur.tk k = v.cur.tk k := by
    have : u.cur.tks = v.cur.tks := congrArg Moved.tks hctl
    unfold CoreSt.tk
    rw [this]
  have hid : u.cur.nextId = v.cur.nextId := congrArg Moved.nextId hctl
  have hpc : u.me.pc = v.me.pc := congrArg Moved.pc hctl
  have hsigs : u.me.sigs = v.me.sigs := congrArg Moved.sigs hctl
  have hstop : u.me.nonStop = v.me.nonStop := congrArg Moved.nonStop hctl
  have hme := h.me
  rw [CtxSt.moved_same] at hme
  have hpay := State.effect_pay v c j n
  refine ⟨⟨fun y => ?_, fun k => ?_, ?_, ?_⟩, ⟨h.inside.device, h.inside.cores, ?_, ?_, fun y hy => ?_⟩⟩
  · have hnew : (t.cur.ctx y).fifoP = ((v.pay c j n).cur.ctx y).fifoP ∧ (t.cur.ctx y).fifoN = ((v.pay c j n).cur.ctx y).fifoN := by
      rw [h.ctx y, hpaid]
      exact ⟨rfl, rfl⟩
    rw [hnew.1, hnew.2, (hfifo y).1, (hfifo y).2, hwho]
    by_cases hy : y = v.who.ctx
    · subst hy
      have h1 : v.who.ctx ≠ v.who.ctx.succ := by cases v.who.ctx <;> decide
      have h2 : v.who.ctx ≠ v.who.ctx.pred := by cases v.who.ctx <;> decide
      have hown : (v.pay c j n).cur.ctx v.who.ctx = (v.pay c j n).me := rfl
      rw [hown, State.me_pay, if_neg h1, if_neg h2]
      exact ⟨rfl, rfl⟩
    · rw [State.ctx_pay v c j n y hy]
      exact ⟨rfl, rfl⟩
  · have hnew : t.cur.tk k = (v.pay c j n).cur.tk k := by
      rw [h.cur, hpaid]
      rfl
    rw [hnew, State.tk_pay, htk]
  · have hnew : t.me.nonStop = (v.pay c j n).me.nonStop := by
      rw [hme, hpaid]
      rfl
    rw [hnew, State.me_pay, hstop]
  · rw [hme, hpaid, hsigs, hid, hpc, hword]
  · rw [h.cur]
    rfl
  · have hoff : m.blocked = false ∧ m.forced = false := by
      have hown : (v.pay c j n).cur.ctx v.who.ctx = (v.pay c j n).me := rfl
      rw [hpaid]
      unfold State.paid CoreSt.control
      rw [hown, State.me_pay]
      exact ⟨rfl, rfl⟩
    obtain ⟨hb, hf⟩ := hoff
    rw [hme, hb, hf]
    rfl
  · rw [h.ctx y, CtxSt.moved_other _ _ hy]
    rfl

theorem State.updMe_updMe (s : State) (f g : CtxSt → CtxSt) : (s.updMe f).updMe g = s.updMe fun d => g (f d) :=
  (s.updCore_updCore s.k (fun c => c.updCtx s.who.ctx f) fun c => c.updCtx s.who.ctx g).trans
    (congrArg (s.updCore s.k) (funext fun _ => CoreSt.updCtx_updCtx ..))

/-- The next word in program order depends on the program counter, the loop stack and the length of the window. -/
theorem CtxSt.advance_of {d e : CtxSt} (hpc : d.pc = e.pc) (hloops : d.loops = e.loops) (hw : d.wwords = e.wwords) :
    d.advance.pc = e.advance.pc ∧ d.advance.loops = e.advance.loops := by
  simp [CtxSt.advance, CtxSt.wrap, hpc, hloops, hw]

/-- A word whose effect is `u` goes through, to the next word in program order. -/
theorem Moves.commit {v u w : State} {c : Ctl} {j : Issue} {n : Nat} (h : Moves u w (v.paid c j n))
    (hw : j.effect v.cur.nextId (v.pay c j n) = w) (hwho : u.who = v.who) (hctl : u.cur.control u.who.ctx = v.cur.control v.who.ctx)
    (hword : u.wordAtPc = v.wordAtPc) (hbr : j.branch = false) (hgo : j.goes = false) :
    ∃ m, Moves u (v.commit c j n) m ∧ m.icycle = n ∧
      Through u (v.commit c j n) c j.tki (j.hold && j.holdIf (w.updMe CtxSt.advance)) keep keep j.engine := by
  generalize hheld : (j.hold && j.holdIf (w.updMe CtxSt.advance)) = held
  have hpc : u.me.pc = v.me.pc := congrArg Moved.pc hctl
  have hloops : u.me.loops = v.me.loops := congrArg Moved.loops hctl
  have hsigs : (v.paid c j n).sigs = v.me.sigs := by
    change ((v.pay c j n).me).sigs = v.me.sigs
    rw [State.me_pay]
  let m : Moved := { v.paid c j n with
    pc := u.me.advance.pc, loops := u.me.advance.loops, sigs := v.me.sigs ++ owed c v.cur.nextId v.me.pc v.wordAtPc held j.engine }
  have hcommit : v.commit c j n = w.updMe fun d => { d.advance with
      sigs := d.advance.sigs ++ owed c v.cur.nextId v.me.pc v.wordAtPc held j.engine } := by
    unfold State.commit
    simp only [hw, hbr, hgo, Bool.or_self, Bool.false_eq_true, if_false, hheld]
    exact w.updMe_updMe _ _
  have hmoves : Moves u (v.commit c j n) m := by
    rw [hcommit]
    refine ⟨State.local_updMe h.inside _, ?_⟩
    rw [State.cur_updMe, h.who, h.cur]
    refine CoreSt.moved_updCtx _ _ _ _ _ ?_ ⟨rfl, rfl⟩ ⟨rfl, rfl, rfl⟩
    have hadv := CtxSt.advance_of (d := u.me.moved u.who.ctx u.who.ctx (v.paid c j n)) (e := u.me)
      (by rw [CtxSt.moved_same]; exact (State.pc_paid v c j n).trans hpc.symm)
      (by rw [CtxSt.moved_same]; exact (State.loops_paid v c j n).trans hloops.symm) rfl
    change { (u.me.moved u.who.ctx u.who.ctx (v.paid c j n)).advance with
      sigs := (u.me.moved u.who.ctx u.who.ctx (v.paid c j n)).advance.sigs ++
        owed c v.cur.nextId v.me.pc v.wordAtPc held j.engine } = u.me.moved u.who.ctx u.who.ctx m
    have hshape (d : CtxSt) : d.advance = { d with pc := d.advance.pc, loops := d.advance.loops } := rfl
    rw [hshape, hadv.1, hadv.2, CtxSt.moved_same, CtxSt.moved_same]
    simp only [hsigs, m]
  obtain ⟨hhalf, hconf⟩ := hmoves.half (held := held) rfl hwho hctl hword
  refine ⟨m, hmoves, State.icycle_paid v c j n, ⟨hhalf, hconf, ?_⟩⟩
  have hme := hmoves.me
  rw [CtxSt.moved_same] at hme
  rw [GoesOn, hme]
  exact ⟨rfl, rfl⟩

/-! ### Effects that keep the control fields -/

/-- `u` is `v` with the control fields and the word at the program counter kept. -/
structure Steady (v u : State) : Prop where
  who     : u.who = v.who
  control : u.cur.control u.who.ctx = v.cur.control v.who.ctx
  word    : u.wordAtPc = v.wordAtPc

theorem Steady.refl (v : State) : Steady v v := ⟨rfl, rfl, rfl⟩

theorem Steady.updCur {v u : State} (h : Steady v u) (f : CoreSt → CoreSt)
    (hctl : (f u.cur).control u.who.ctx = u.cur.control u.who.ctx) (hbase : ((f u.cur).ctx u.who.ctx).wbase = u.me.wbase)
    (hsp : (f u.cur).sp = u.cur.sp) : Steady v (u.updCur f) := by
  refine ⟨h.who, ?_, ?_⟩
  · rw [State.cur_updCur]; exact hctl.trans h.control
  · rw [← h.word]
    have hpc : ((f u.cur).ctx u.who.ctx).pc = u.me.pc := congrArg Moved.pc hctl
    have hme : (u.updCur f).me = (f u.cur).ctx u.who.ctx := by rw [State.me, State.cur_updCur]; rfl
    unfold State.wordAtPc
    rw [hme, State.cur_updCur, hpc, hbase, hsp]

theorem CoreSt.control_updCtx (c : CoreSt) (x : Ctx) (g : CtxSt → CtxSt)
    (h : ∃ d : CtxSt, g (c.ctx x) = { d with
      fifoP := (c.ctx x).fifoP, fifoN := (c.ctx x).fifoN, pc := (c.ctx x).pc, loops := (c.ctx x).loops, icycle := (c.ctx x).icycle
      pair := (c.ctx x).pair, nonStop := (c.ctx x).nonStop, sigs := (c.ctx x).sigs, blocked := (c.ctx x).blocked
      forced := (c.ctx x).forced }) : (c.updCtx x g).control x = c.control x := by
  obtain ⟨d, hd⟩ := h
  have hfifo (y : Ctx) : ((c.updCtx x g).ctx y).fifoP = (c.ctx y).fifoP ∧ ((c.updCtx x g).ctx y).fifoN = (c.ctx y).fifoN := by
    by_cases hy : y = x
    · rw [hy, CoreSt.ctx_updCtx_same, hd]; exact ⟨rfl, rfl⟩
    · rw [CoreSt.ctx_updCtx_other _ _ _ _ hy]; exact ⟨rfl, rfl⟩
  have hP : (fun y => ((c.updCtx x g).ctx y).fifoP) = fun y => (c.ctx y).fifoP := funext fun y => (hfifo y).1
  have hN : (fun y => ((c.updCtx x g).ctx y).fifoN) = fun y => (c.ctx y).fifoN := funext fun y => (hfifo y).2
  have hcore : (c.updCtx x g).tks = c.tks ∧ (c.updCtx x g).nextId = c.nextId ∧ (c.updCtx x g).starved = c.starved := by
    cases x <;> exact ⟨rfl, rfl, rfl⟩
  obtain ⟨htk, hid, hst⟩ := hcore
  unfold CoreSt.control
  rw [hP, hN, htk, hid, hst, CoreSt.ctx_updCtx_same, hd]

theorem Steady.updMe {v u : State} (h : Steady v u) (g : CtxSt → CtxSt)
    (hg : g u.me = { g u.me with
      fifoP := u.me.fifoP, fifoN := u.me.fifoN, pc := u.me.pc, loops := u.me.loops, icycle := u.me.icycle, pair := u.me.pair
      nonStop := u.me.nonStop, sigs := u.me.sigs, blocked := u.me.blocked, forced := u.me.forced, wbase := u.me.wbase }) :
    Steady v (u.updMe g) := by
  refine h.updCur (fun c => c.updCtx u.who.ctx g) (CoreSt.control_updCtx _ _ _ ⟨g u.me, ?_⟩) ?_ ?_
  · change g u.me = _
    generalize g u.me = d at hg ⊢
    rw [hg]
    rfl
  · rw [CoreSt.ctx_updCtx_same]
    change (g u.me).wbase = _
    rw [hg]
  · cases u.who.ctx <;> rfl

/-- `u` is `v` with nothing changed but what `core` lets through of the issuing core and `ctx` of its issuing context. -/
structure Within (v u : State) (core : CoreSt → CoreSt → CoreSt) (ctx : CtxSt → CtxSt → CtxSt) : Prop where
  steady : Steady v u
  inside : State.Local v u
  core   : u.cur = { core v.cur u.cur with cL := u.cur.cL, cX := u.cur.cX, cS := u.cur.cS, tks := u.cur.tks, nextId := u.cur.nextId, starved := u.cur.starved }
  me     : u.me = ctx v.me u.me
  window : u.me.wwords = v.me.wwords
  others : ∀ y, y ≠ v.who.ctx → u.cur.ctx y = v.cur.ctx y

theorem Within.refl (v : State) : Within v v keep keep := ⟨.refl v, State.local_refl v, rfl, rfl, rfl, fun _ _ => rfl⟩

/-- A change of the core outside its contexts. -/
theorem Within.updCur {v u : State} {core core' : CoreSt → CoreSt → CoreSt} {ctx : CtxSt → CtxSt → CtxSt} (h : Within v u core ctx)
    (f : CoreSt → CoreSt) (hf : f u.cur = { f u.cur with
      cL := u.cur.cL, cX := u.cur.cX, cS := u.cur.cS, tks := u.cur.tks, nextId := u.cur.nextId, starved := u.cur.starved, sp := u.cur.sp })
    (hcore : f u.cur = { core' v.cur (f u.cur) with
      cL := u.cur.cL, cX := u.cur.cX, cS := u.cur.cS, tks := u.cur.tks, nextId := u.cur.nextId, starved := u.cur.starved }) :
    Within v (u.updCur f) core' ctx := by
  have hctx (y : Ctx) : (f u.cur).ctx y = u.cur.ctx y := by rw [hf]; cases y <;> rfl
  have hme : (u.updCur f).me = u.me := by rw [State.me, State.cur_updCur]; exact hctx _
  have hk : u.k = v.k := by rw [State.k, h.steady.who]; rfl
  refine ⟨h.steady.updCur f ?_ ?_ ?_, ?_, ?_, ?_, ?_, fun y hy => ?_⟩
  · generalize f u.cur = d at hf
    rw [hf]
    rfl
  · rw [hctx]; rfl
  · rw [hf]
  · exact State.local_updCur h.inside f
  · rw [State.cur_updCur]
    generalize f u.cur = d at hf hcore ⊢
    generalize core' v.cur d = e at hcore ⊢
    rw [hcore]
  · rw [hme]; exact h.me
  · rw [hme]; exact h.window
  · rw [State.cur_updCur, hctx, h.others y hy]

/-- A change of the issuing context. -/
theorem Within.updMe {v u : State} {core : CoreSt → CoreSt → CoreSt} {ctx ctx' : CtxSt → CtxSt → CtxSt} (h : Within v u core ctx)
    (g : CtxSt → CtxSt) (hcore : ∀ a b x f, core a (CoreSt.updCtx b x f) = core a b)
    (hg : g u.me = { g u.me with
      fifoP := u.me.fifoP, fifoN := u.me.fifoN, pc := u.me.pc, loops := u.me.loops, icycle := u.me.icycle, pair := u.me.pair
      nonStop := u.me.nonStop, sigs := u.me.sigs, blocked := u.me.blocked, forced := u.me.forced, wbase := u.me.wbase
      wwords := u.me.wwords })
    (hctx : g u.me = ctx' v.me (g u.me)) : Within v (u.updMe g) core ctx' := by
  refine ⟨h.steady.updMe g ?_, State.local_updMe h.inside g, ?_, ?_, ?_, fun y hy => ?_⟩
  · generalize g u.me = d at hg ⊢
    rw [hg]
  · rw [State.cur_updMe, hcore]
    have := h.core
    generalize core v.cur u.cur = e at this ⊢
    generalize u.cur = d at this ⊢
    rw [this]
    cases u.who.ctx <;> rfl
  · rw [State.me_updMe]; exact hctx
  · rw [State.me_updMe, hg]; exact h.window
  · rw [State.cur_updMe, h.steady.who, CoreSt.ctx_updCtx_other _ _ _ _ hy, h.others y hy]

/-- A control half does not depend on what else the word's effect does. -/
theorem Steady.half {v u t : State} {c : Ctl} {tki : List (BitVec 5)} {held engine : Bool} (h : Steady v u)
    (ht : ControlHalf u t c tki held engine) : ControlHalf v t c tki held engine := by
  obtain ⟨hwho, hctl, hword⟩ := h
  obtain ⟨hfifos, hcounts, hstops, hsigs⟩ := ht
  have hfifo (y : Ctx) : (u.cur.ctx y).fifoP = (v.cur.ctx y).fifoP ∧ (u.cur.ctx y).fifoN = (v.cur.ctx y).fifoN :=
    ⟨congrFun (congrArg Moved.fifoP hctl) y, congrFun (congrArg Moved.fifoN hctl) y⟩
  have htk (k : Nat) : u.cur.tk k = v.cur.tk k := by
    have : u.cur.tks = v.cur.tks := congrArg Moved.tks hctl
    unfold CoreSt.tk
    rw [this]
  have hid : u.cur.nextId = v.cur.nextId := congrArg Moved.nextId hctl
  have hpc : u.me.pc = v.me.pc := congrArg Moved.pc hctl
  have hsig : u.me.sigs = v.me.sigs := congrArg Moved.sigs hctl
  have hstop : u.me.nonStop = v.me.nonStop := congrArg Moved.nonStop hctl
  refine ⟨fun y => ?_, fun n => ?_, ?_, ?_⟩
  · rw [← (hfifo y).1, ← (hfifo y).2, ← hwho]; exact hfifos y
  · rw [← htk]; exact hcounts n
  · rw [← hstop]; exact hstops
  · rw [← hsig, ← hid, ← hpc, ← hword]; exact hsigs

/-- What a word leaves unchanged, seen from the state it found. -/
theorem Within.confined {v u t : State} {m : Moved} {core : CoreSt → CoreSt → CoreSt} {ctx : CtxSt → CtxSt → CtxSt}
    (h : Within v u core ctx) (hmoves : Moves u t m) (hconf : Confined u t keep keep keep)
    (hcore : ∀ a b x m, core a (CoreSt.moved b x m) = core a b) (hctx : ∀ a b x y m, ctx a (CtxSt.moved b x y m) = ctx a b) :
    Confined v t core ctx keep := by
  obtain ⟨⟨hwho, -, -⟩, hlocal, hcur, hme, -, hothers⟩ := h
  have hk : u.k = v.k := by rw [State.k, hwho]; rfl
  refine ⟨?_, fun k hne => ?_, ?_, ?_, fun y hy => ?_⟩
  · rw [hconf.device, hlocal.device]
  · rw [hconf.cores k (by rwa [hk]), hlocal.cores k hne]
  · rw [hmoves.cur, hcore]
    generalize core v.cur u.cur = e at hcur ⊢
    generalize u.cur = d at hcur ⊢
    rw [hcur]
    rfl
  · have hnew := hconf.me
    have hsame : ctx v.me t.me = u.me := by rw [hmoves.me, hctx]; exact hme.symm
    rw [hsame]
    exact hnew
  · rw [hmoves.ctx y, CtxSt.moved_other _ _ (by rwa [hwho]), hothers y hy]
    rfl

/-- What a word leaves, seen from the state it found. -/
theorem Within.through {v u t : State} {m : Moved} {c : Ctl} {tki : List (BitVec 5)} {held engine : Bool}
    {core : CoreSt → CoreSt → CoreSt} {ctx : CtxSt → CtxSt → CtxSt} (h : Within v u core ctx) (hmoves : Moves u t m)
    (ht : Through u t c tki held keep keep engine) (hcore : ∀ a b x m, core a (CoreSt.moved b x m) = core a b)
    (hctx : ∀ a b x y m, ctx a (CtxSt.moved b x y m) = ctx a b) : Through v t c tki held core ctx engine := by
  obtain ⟨hpc, hloops⟩ := ht.goes
  obtain ⟨a1, a2⟩ := CtxSt.advance_of (congrArg Moved.pc h.steady.control) (congrArg Moved.loops h.steady.control) h.window
  exact ⟨h.steady.half ht.half, h.confined hmoves ht.confined hcore hctx, hpc.trans a1, hloops.trans a2⟩

/-! ### Scalar results and writes in flight -/

/-- What a scalar result does to its context: in exposed mode it is in flight, as `fl`. -/
def CtxSt.takes (d : CtxSt) (fl : Flight) (xd : Reg) (x : Word) : CtxSt :=
  if d.exposed then { d with flights := d.flights ++ [fl] } else d.setReg xd x

theorem CtxSt.takes_moved (d : CtxSt) (fl : Flight) (xd : Reg) (x : Word) (y z : Ctx) (m : Moved) :
    (d.moved y z m).takes fl xd x = (d.takes fl xd x).moved y z m := by
  unfold CtxSt.takes CtxSt.setReg
  change (if d.exposed = true then _ else if _ then _ else _) = _
  split
  · rfl
  · split <;> rfl

theorem State.updMe_congr {s : State} {f g : CtxSt → CtxSt} (h : f s.me = g s.me) : s.updMe f = s.updMe g :=
  congrArg (s.setCore s.k) (CoreSt.updCtx_congr _ _ _ _ h)

/-- The word at the program counter is the same as long as the program counter is. -/
theorem Moves.word {u w : State} {m : Moved} (h : Moves u w m) (hpc : m.pc = u.me.pc) : w.wordAtPc = u.wordAtPc := by
  unfold State.wordAtPc
  rw [h.me, CtxSt.moved_same, h.cur, hpc]
  rfl

theorem Moves.result {u w : State} {m : Moved} (h : Moves u w m) (hpc : m.pc = u.me.pc) (wid lat : Nat) (xd : Reg) (x : Word) :
    Moves (u.updMe fun d => d.takes ⟨wid, m.icycle + lat, u.me.pc, u.wordAtPc, .reg xd x⟩ xd x) (w.result wid lat xd x) m := by
  have hword := h.word hpc
  have htakes : w.result wid lat xd x = w.updMe fun d => d.takes ⟨wid, m.icycle + lat, u.me.pc, u.wordAtPc, .reg xd x⟩ xd x := by
    unfold State.result State.inFlight
    split
    · next hexp =>
      refine State.updMe_congr ?_
      unfold CtxSt.takes
      rw [if_pos hexp, hword, h.me, CtxSt.moved_same, hpc]
    · next hexp =>
      refine State.updMe_congr ?_
      unfold CtxSt.takes
      rw [if_neg hexp]
  rw [htakes]
  exact h.updMe _ (CtxSt.takes_moved ..)

theorem Within.takes {v u : State} {core : CoreSt → CoreSt → CoreSt} (h : Within v u core keep) (fl : Flight) (xd : Reg) (x : Word)
    (hcore : ∀ a b x f, core a (CoreSt.updCtx b x f) = core a b) : Within v (u.updMe fun d => d.takes fl xd x) core keepButRegs := by
  have hshape : u.me.takes fl xd x = { u.me with regs := (u.me.takes fl xd x).regs, flights := (u.me.takes fl xd x).flights } := by
    unfold CtxSt.takes CtxSt.setReg
    split
    · rfl
    · split <;> rfl
  have hme := h.me
  refine h.updMe _ hcore ?_ ?_
  · generalize u.me.takes fl xd x = d at hshape ⊢
    rw [hshape]
  · generalize u.me.takes fl xd x = d at hshape ⊢
    rw [hshape, hme]
    rfl

/-- A scalar result writes its register. -/
theorem Moves.writesReg {v u t : State} {m : Moved} {lat : Nat} {xd : Reg} {x : Word} (h : Moves u t m)
    (hme : u.me = v.me.takes ⟨v.cur.nextId, m.icycle + lat, v.me.pc, v.wordAtPc, .reg xd x⟩ xd x) : WritesReg v t lat xd x := by
  have ht : t.me = (v.me.takes ⟨v.cur.nextId, m.icycle + lat, v.me.pc, v.wordAtPc, .reg xd x⟩ xd x).moved u.who.ctx u.who.ctx m := by
    rw [h.me, hme]
  have hcycle : t.me.icycle = m.icycle := by rw [ht, CtxSt.moved_same]
  have hreg (y : Reg) : t.reg y = (v.me.takes ⟨v.cur.nextId, m.icycle + lat, v.me.pc, v.wordAtPc, .reg xd x⟩ xd x).reg y := by
    unfold State.reg
    rw [ht]
    rfl
  have hfl : t.me.flights = (v.me.takes ⟨v.cur.nextId, m.icycle + lat, v.me.pc, v.wordAtPc, .reg xd x⟩ xd x).flights := by rw [ht]; rfl
  refine ⟨fun hexp => ⟨?_, fun y => ?_⟩, fun hexp => ⟨fun y => ?_, ?_⟩⟩
  · rw [hfl, CtxSt.takes, if_neg (by simp [hexp])]
    simp
  · rw [hreg, CtxSt.takes, if_neg (by simp [hexp]), CtxSt.reg_setReg]
    rfl
  · rw [hreg, CtxSt.takes, if_pos hexp]
    rfl
  · rw [hfl, CtxSt.takes, if_pos hexp, flightOf, hcycle]

/-- A change of the core outside the issuing context. -/
theorem State.me_updCur {s : State} {f : CoreSt → CoreSt} (h : (f s.cur).ctx s.who.ctx = s.cur.ctx s.who.ctx) : (s.updCur f).me = s.me := by
  rw [State.me, State.cur_updCur]
  exact h

/-- A word whose effect is `u`, which keeps the control fields, goes through. -/
theorem Moves.passes {v u w : State} {c : Ctl} {j : Issue} {n : Nat} (h : Moves u w (v.paid c j n)) (hs : Steady v u)
    (hw : j.effect v.cur.nextId (v.pay c j n) = w) (hbr : j.branch = false) (hgo : j.goes = false) :
    ∃ m, Moves u (v.commit c j n) m ∧ m.icycle = n ∧
      Through u (v.commit c j n) c j.tki (j.hold && j.holdIf (w.updMe CtxSt.advance)) keep keep j.engine :=
  h.commit hw hs.who hs.control hs.word hbr hgo

end Sys2Proof.Machine

/-! PROOFS. MTS (R98, R367, R368). -/

namespace Sys2Proof.Machine

open Sys2Proof

section

variable {u w : State} {m : Moved}

theorem Moves.task (h : Moves u w m) (k : Nat) : (w.core k).task = (u.core k).task := by
  by_cases hk : k = u.k
  · have hw : w.core k = w.cur := by rw [hk, State.cur, State.k, State.k, h.who]
    rw [hw, h.cur, hk]
    rfl
  · rw [h.inside.cores k hk]

theorem Moves.taskOf (h : Moves u w m) (k : Nat) : w.taskOf k = u.taskOf k := by
  unfold State.taskOf State.task?
  rw [h.task, h.inside.device]

theorem Moves.partOf (h : Moves u w m) (k : Nat) : w.partOf k = u.partOf k := by
  unfold State.partOf
  rw [h.taskOf]

theorem Moves.k (h : Moves u w m) : w.k = u.k := by rw [State.k, h.who]; rfl

end

theorem Steady.device {v u : State} (h : Steady v u) (D : State → State) (hD : ∀ (s : State) cores, D { s with cores := cores } = { D s with cores := cores })
    (hwho : (D u).who = u.who) : Steady v (D u) := by
  have hu : (D u).cores = u.cores := by
    have := hD u u.cores
    rw [this]
  have hcur : (D u).cur = u.cur := by rw [State.cur, State.core, State.k, hwho, hu]; rfl
  have hme : (D u).me = u.me := by rw [State.me, hcur, hwho]; rfl
  exact ⟨hwho.trans h.who, by rw [hcur, hwho]; exact h.control, by unfold State.wordAtPc; rw [hcur, hme]; exact h.word⟩

/-- What an MTS issues. -/
def mtsWord (sel : BitVec 16) (xa : Reg) : Issue :=
  { allowed := .all
    priv := privSel sel
    uses := [xa]
    reads := [xa]
    check := fun s => if specialOk sel.toNat (s.reg xa) = some true then none else some { cause := .illop }
    effect := fun _ s =>
      if sel.toNat < 0x8000 then s.setSpecial sel.toNat (s.reg xa)
      else s.writePartSpecial (s.partOf s.k) sel.toNat (s.reg xa) }

/-- A legal MTS goes through with what it writes. -/
theorem exec_mts {c : Ctl} {sel : BitVec 16} {xa : Reg} {s u : State} (hclear : s.clear c 0 [] [xa] = true)
    (hpriv : 0x8000 ≤ sel.toNat → (s.seen c 0).me.level ≠ 0) (hok : specialOk sel.toNat ((s.seen c 0).reg xa) = some true)
    (hmoves : ∀ w m, Moves (s.seen c 0) w m → Moves u ((mtsWord sel xa).effect (s.seen c 0).cur.nextId w) m) (hs : Steady (s.seen c 0) u) :
    ∃ t, exec (.mts c sel xa) s = .next t ∧ Through u t c [] false keep keep := by
  have hlevel : privSel sel = true → s.me.level ≠ 0 := fun h => by
    have := s.level_atCycle_le (s.me.nextCycle c 0)
    have hne := hpriv (of_decide_eq_true h)
    intro h0
    rw [h0] at this
    exact hne (Nat.le_zero.1 this)
  refine ⟨_, s.issue_goes (.mts c sel xa) (mtsWord sel xa) hclear rfl hlevel rfl nofun nofun (if_pos hok) rfl rfl rfl, ?_⟩
  obtain ⟨m, -, -, hthrough⟩ := (hmoves _ _ (State.moves_pay ..)).passes hs rfl rfl rfl
  exact hthrough

end Sys2Proof.Machine

open Sys2Proof Sys2Proof.Machine in
/-- Settles O9: `exec_mts` for each register. -/
theorem specialWrites : Obligations.SpecialWrites := by
  unfold Obligations.SpecialWrites
  refine ⟨fun c xa s hclear hx => ?_, fun c xa s hclear hx => ?_, fun c sel xa s f hclear hlevel hsel => ?_⟩
  · refine exec_mts hclear nofun ?_ (fun w m h => ?_) ((Steady.refl _).updMe _ rfl)
    · exact congrArg some (decide_eq_true hx)
    · have heffect : (mtsWord 0x0001 xa).effect (s.seen c 0).cur.nextId w =
          w.updMe fun d => { d with spaceovr := ((s.seen c 0).reg xa).setWidth 32 } := by
        rw [← h.reg xa]
        rfl
      rw [heffect]
      exact h.updMe _ rfl
  · refine exec_mts hclear nofun ?_ (fun w m h => ?_) ((Steady.refl _).updMe _ rfl)
    · exact congrArg some (decide_eq_true hx)
    · have heffect : (mtsWord 0x0002 xa).effect (s.seen c 0).cur.nextId w = w.updMe fun d => { d with
          sflags := (((s.seen c 0).reg xa).setWidth 3 &&& (if s.who.ctx = .X then 7 else 6)) |||
            (if (s.seen c 0).me.exposed then (s.seen c 0).me.newFlags else 0) } := by
        have hnew : w.me.newFlags = (s.seen c 0).me.newFlags := by rw [h.me]; rfl
        have hwho : s.who.ctx = w.who.ctx := by rw [h.who, State.who_seen]
        rw [← h.reg xa, ← h.exposed, ← hnew, hwho]
        exact State.updMe_congr rfl
      rw [heffect]
      exact h.updMe _ rfl
  · obtain ⟨hok, hf⟩ : specialOk sel.toNat ((s.seen c 0).reg xa) = some true ∧ ¬ sel.toNat < 0x8000 ∧
        ∀ (v : State) p, v.writePartSpecial p sel.toNat ((s.seen c 0).reg xa) = v.updPart p f := by
      rcases hsel with ⟨rfl, hlow, hhigh, rfl⟩ | ⟨rfl, hhigh, rfl⟩ | ⟨rfl, hlow, hhigh, rfl⟩ | ⟨rfl, hhigh, hmod, rfl⟩ | ⟨rfl, hhigh, rfl⟩
      · refine ⟨?_, by decide, fun v p => rfl⟩
        simp [specialOk, hlow, hhigh]
      · refine ⟨?_, by decide, fun v p => rfl⟩
        simpa [specialOk] using hhigh
      · refine ⟨?_, by decide, fun v p => rfl⟩
        simp [specialOk, hlow, hhigh]
      · refine ⟨?_, by decide, fun v p => rfl⟩
        simpa [specialOk, hmod] using hhigh
      · refine ⟨?_, by decide, fun v p => ?_⟩
        · have : ((s.seen c 0).reg xa).toNat < 4 := by omega
          simpa [specialOk] using this
        · have hbit : bitOf ((s.seen c 0).reg xa) 1 = false := by
            have hdiv : ((s.seen c 0).reg xa).toNat / 2 ^ 1 % 2 = 0 := by omega
            rw [bitOf, hdiv]
            rfl
          exact if_neg (ne_true_of_eq_false hbit)
    obtain ⟨hhigh, hwrite⟩ := hf
    refine exec_mts hclear (fun _ => hlevel) hok (fun w m h => ?_) ((Steady.refl _).device (fun v => v.updPart _ f) (fun _ _ => rfl) rfl)
    have heffect : (mtsWord sel xa).effect (s.seen c 0).cur.nextId w = w.updPart ((s.seen c 0).partOf s.k) f := by
      have hk : s.k = w.k := by rw [h.k, State.k, State.k, State.who_seen]
      refine (if_neg hhigh).trans ?_
      rw [h.reg, hwrite, hk, ← h.partOf]
    rw [heffect]
    exact h.device (fun v => v.updPart ((s.seen c 0).partOf s.k) f) (fun _ _ => rfl) rfl

/-! PROOFS. Words whose access enters the queue of their context, and the words of rings and message queues (R225, R226, R238 to R245, R253). -/

namespace Sys2Proof.Machine

open Sys2Proof

/-! ### Accesses -/

/-- What an access does to its context as it enters the queue (R346, R222). -/
def CtxSt.queues (d : CtxSt) (a : Access) (awaits : Option Reg) : CtxSt :=
  { d with accq := d.accq ++ [a], pend := d.pend ++ match awaits with | some x => if x = 0 then [] else [x] | none => [] }

section

variable {u w : State} {m : Moved}

theorem Moves.enqueue (h : Moves u w m) (hpc : m.pc = u.me.pc) (wid : Nat) (op : AccOp) (ea : Word) :
    Moves (u.updMe fun d => d.queues ⟨wid, u.me.pc, u.wordAtPc, op, ea⟩ none) (w.enqueue wid op ea) m := by
  have henqueue : w.enqueue wid op ea = w.updMe fun d => d.queues ⟨wid, u.me.pc, u.wordAtPc, op, ea⟩ none := by
    unfold State.enqueue
    refine State.updMe_congr ?_
    unfold CtxSt.queues
    rw [h.word hpc, h.me, CtxSt.moved_same, hpc, List.append_nil]
  rw [henqueue]
  exact h.updMe _ rfl

theorem Moves.enqueueAwait (h : Moves u w m) (hpc : m.pc = u.me.pc) (wid : Nat) (op : AccOp) (ea : Word) (xd : Reg) :
    Moves (u.updMe fun d => d.queues ⟨wid, u.me.pc, u.wordAtPc, op, ea⟩ (some xd))
      ((w.enqueue wid op ea).updMe fun d => d.await xd) m := by
  have henqueue : (w.enqueue wid op ea).updMe (fun d => d.await xd) =
      w.updMe fun d => d.queues ⟨wid, u.me.pc, u.wordAtPc, op, ea⟩ (some xd) := by
    unfold State.enqueue
    rw [State.updMe_updMe]
    refine State.updMe_congr ?_
    unfold CtxSt.queues CtxSt.await
    rw [h.word hpc, h.me, CtxSt.moved_same, hpc]
    dsimp only
    split
    · rw [List.append_nil]
    · rfl
  rw [henqueue]
  exact h.updMe _ rfl

end

theorem Within.queues {v u : State} {core : CoreSt → CoreSt → CoreSt} (h : Within v u core keep) (a : Access) (awaits : Option Reg)
    (hcore : ∀ a b x f, core a (CoreSt.updCtx b x f) = core a b) : Within v (u.updMe fun d => d.queues a awaits) core keepButAccesses :=
  h.updMe _ hcore rfl (by rw [h.me]; rfl)

theorem Moves.hasQueued {v u t : State} {m : Moved} {op : AccOp} {ea : Word} {awaits : Option Reg} (h : Moves u t m)
    (hme : u.me = v.me.queues ⟨v.cur.nextId, v.me.pc, v.wordAtPc, op, ea⟩ awaits) : HasQueued v t op ea awaits := by
  have haccq : t.me.accq = u.me.accq := by rw [h.me]; rfl
  have hpend : t.me.pend = u.me.pend := by rw [h.me]; rfl
  unfold HasQueued
  rw [haccq, hpend, hme]
  cases awaits <;> exact ⟨rfl, rfl⟩

/-- A word whose effect is an access: it enters the queue, and nothing else changes. -/
theorem State.commit_access {v : State} {c : Ctl} {j : Issue} {n : Nat} {op : AccOp} {ea : Word} {awaits : Option Reg}
    (heffect : Moves (v.updMe fun d => d.queues ⟨v.cur.nextId, v.me.pc, v.wordAtPc, op, ea⟩ awaits)
      (j.effect v.cur.nextId (v.pay c j n)) (v.paid c j n))
    (hbr : j.branch = false) (hgo : j.goes = false) (hhold : j.hold = false) (heng : j.engine = false) :
    Through v (v.commit c j n) c j.tki false keep keepButAccesses ∧ HasQueued v (v.commit c j n) op ea awaits := by
  have hwithin := (Within.refl v).queues ⟨v.cur.nextId, v.me.pc, v.wordAtPc, op, ea⟩ awaits fun _ _ _ _ => rfl
  obtain ⟨m, hm, -, hthrough⟩ := heffect.passes hwithin.steady rfl hbr hgo
  rw [hhold, heng] at hthrough
  exact ⟨hwithin.through hm hthrough (fun _ _ _ _ => rfl) fun _ _ _ _ _ => rfl, hm.hasQueued (State.me_updMe ..)⟩

/-! ### Rings and message queues -/

/-- The rings `R` and message queues `Q` of a core. -/
def CoreSt.withRings (k : CoreSt) (R Q : Sparse Ring) : CoreSt := { k with rings := R, mqs := Q }

theorem Within.rings {v u : State} {ctx : CtxSt → CtxSt → CtxSt} (h : Within v u keep ctx) (R Q : Sparse Ring) :
    Within v (u.updCur fun k => k.withRings R Q) keepButRings ctx := by
  have hcur := h.core
  refine h.updCur _ rfl ?_
  generalize u.cur = d at hcur ⊢
  rw [hcur]
  rfl

section

variable {v : State} {c : Ctl} {j : Issue} {n : Nat} {R Q : Sparse Ring}

/-- A word that changes rings or message queues alone. -/
theorem State.commit_rings (heffect : j.effect v.cur.nextId (v.pay c j n) = (v.pay c j n).updCur fun k => k.withRings R Q)
    (hbr : j.branch = false) (hgo : j.goes = false) (hhold : j.hold = false) (heng : j.engine = false) :
    Through v (v.commit c j n) c j.tki false keepButRings keep ∧ (v.commit c j n).cur.rings = R ∧ (v.commit c j n).cur.mqs = Q := by
  have hwithin := (Within.refl v).rings R Q
  obtain ⟨m, hm, -, hthrough⟩ := ((State.moves_pay v c j n).updCur (fun k => k.withRings R Q) rfl).passes hwithin.steady heffect hbr hgo
  rw [hhold, heng] at hthrough
  refine ⟨hwithin.through hm hthrough (fun _ _ _ _ => rfl) (fun _ _ _ _ _ => rfl), ?_, ?_⟩
  · rw [hm.cur, State.cur_updCur]; rfl
  · rw [hm.cur, State.cur_updCur]; rfl

/-- A word that writes a register and changes rings or message queues. -/
theorem State.commit_ringResult {xd : Reg} {x : Word}
    (heffect : j.effect v.cur.nextId (v.pay c j n) = ((v.pay c j n).result v.cur.nextId 1 xd x).updCur fun k => k.withRings R Q)
    (hbr : j.branch = false) (hgo : j.goes = false) (hhold : j.hold = false) (heng : j.engine = false) :
    Through v (v.commit c j n) c j.tki false keepButRings keepButRegs ∧ WritesReg v (v.commit c j n) 1 xd x ∧
      (v.commit c j n).cur.rings = R ∧ (v.commit c j n).cur.mqs = Q := by
  have hmoves := ((State.moves_pay v c j n).result (State.pc_paid v c j n) v.cur.nextId 1 xd x).updCur (fun k => k.withRings R Q) rfl
  have hwithin := ((Within.refl v).takes ⟨v.cur.nextId, (v.paid c j n).icycle + 1, v.me.pc, v.wordAtPc, .reg xd x⟩ xd x
    fun _ _ _ _ => rfl).rings R Q
  obtain ⟨m, hm, hcycle, hthrough⟩ := hmoves.passes hwithin.steady heffect hbr hgo
  rw [hhold, heng] at hthrough
  refine ⟨hwithin.through hm hthrough (fun _ _ _ _ => rfl) (fun _ _ _ _ _ => rfl), hm.writesReg ?_, ?_, ?_⟩
  · rw [State.me_updCur (by cases v.who.ctx <;> rfl), State.me_updMe, hcycle, State.icycle_paid]
  · rw [hm.cur, State.cur_updCur]; rfl
  · rw [hm.cur, State.cur_updCur]; rfl

/-- A word whose access enters the queue and that changes rings or message queues. -/
theorem State.commit_ringAccess {op : AccOp} {ea : Word}
    (heffect : j.effect v.cur.nextId (v.pay c j n) = ((v.pay c j n).enqueue v.cur.nextId op ea).updCur fun k => k.withRings R Q)
    (hbr : j.branch = false) (hgo : j.goes = false) (hhold : j.hold = false) (heng : j.engine = false) :
    Through v (v.commit c j n) c j.tki false keepButRings keepButAccesses ∧ HasQueued v (v.commit c j n) op ea none ∧
      (v.commit c j n).cur.rings = R ∧ (v.commit c j n).cur.mqs = Q := by
  have hmoves := ((State.moves_pay v c j n).enqueue (State.pc_paid v c j n) v.cur.nextId op ea).updCur (fun k => k.withRings R Q) rfl
  have hwithin := ((Within.refl v).queues ⟨v.cur.nextId, v.me.pc, v.wordAtPc, op, ea⟩ none fun _ _ _ _ => rfl).rings R Q
  obtain ⟨m, hm, -, hthrough⟩ := hmoves.passes hwithin.steady heffect hbr hgo
  rw [hhold, heng] at hthrough
  refine ⟨hwithin.through hm hthrough (fun _ _ _ _ => rfl) (fun _ _ _ _ _ => rfl), hm.hasQueued ?_, ?_, ?_⟩
  · rw [State.me_updCur (by cases v.who.ctx <;> rfl), State.me_updMe]
  · rw [hm.cur, State.cur_updCur]; rfl
  · rw [hm.cur, State.cur_updCur]; rfl

end

theorem State.updCur_congr {s : State} {f g : CoreSt → CoreSt} (h : f s.cur = g s.cur) : s.updCur f = s.updCur g :=
  congrArg (s.setCore s.k) h

theorem CoreSt.updRing_eq {k : CoreSt} {n : Nat} {r : Ring} (f : Ring → Ring) (h : k.ring n = some r) :
    k.updRing n f = k.withRings (Sparse.put k.rings n (f r)) k.mqs := by
  unfold CoreSt.updRing
  rw [h]
  rfl

theorem CoreSt.updMq_eq {k : CoreSt} {n : Nat} {r : Ring} (f : Ring → Ring) (h : k.mq n = some r) :
    k.updMq n f = k.withRings k.rings (Sparse.put k.mqs n (f r)) := by
  unfold CoreSt.updMq
  rw [h]
  rfl

/-- What a core's rings and message queues are after `pay`, and after what a word does to its context besides. -/
theorem State.rings_of_moves {u w : State} {m : Moved} (h : Moves u w m) : w.cur.rings = u.cur.rings ∧ w.cur.mqs = u.cur.mqs := by
  rw [h.cur]
  exact ⟨rfl, rfl⟩

theorem State.updRing_of_moves {v w : State} {m : Moved} {g : CtxSt → CtxSt} {n : Nat} {r : Ring} (h : Moves (v.updMe g) w m)
    (hr : v.cur.ring n = some r) (f : Ring → Ring) :
    w.updCur (fun k => k.updRing n f) = w.updCur fun k => k.withRings (Sparse.put v.cur.rings n (f r)) v.cur.mqs := by
  obtain ⟨hrings, hmqs⟩ := State.rings_of_moves h
  rw [State.cur_updMe, CoreSt.rings_updCtx] at hrings
  rw [State.cur_updMe, CoreSt.mqs_updCtx] at hmqs
  refine State.updCur_congr ?_
  rw [CoreSt.updRing_eq f (r := r) (by rw [CoreSt.ring, hrings]; exact hr), hrings, hmqs]

theorem State.updMq_of_moves {v w : State} {m : Moved} {g : CtxSt → CtxSt} {n : Nat} {r : Ring} (h : Moves (v.updMe g) w m)
    (hr : v.cur.mq n = some r) (f : Ring → Ring) :
    w.updCur (fun k => k.updMq n f) = w.updCur fun k => k.withRings v.cur.rings (Sparse.put v.cur.mqs n (f r)) := by
  obtain ⟨hrings, hmqs⟩ := State.rings_of_moves h
  rw [State.cur_updMe, CoreSt.rings_updCtx] at hrings
  rw [State.cur_updMe, CoreSt.mqs_updCtx] at hmqs
  refine State.updCur_congr ?_
  rw [CoreSt.updMq_eq f (r := r) (by rw [CoreSt.mq, hmqs]; exact hr), hrings, hmqs]

theorem onlyRing_of {v t : State} {n : Nat} {r : Ring} (hR : t.cur.rings = Sparse.put v.cur.rings n r) (hQ : t.cur.mqs = v.cur.mqs) :
    OnlyRing v t n r := by
  refine ⟨?_, fun i hi => ?_, hQ⟩
  · rw [CoreSt.ring, hR]; exact Sparse.find_put_same ..
  · rw [CoreSt.ring, CoreSt.ring, hR]; exact Sparse.find_put_other _ _ _ _ hi

theorem onlyQueue_of {v t : State} {n : Nat} {r : Ring} (hQ : t.cur.mqs = Sparse.put v.cur.mqs n r) (hR : t.cur.rings = v.cur.rings) :
    OnlyQueue v t n r := by
  refine ⟨?_, fun i hi => ?_, hR⟩
  · rw [CoreSt.mq, hQ]; exact Sparse.find_put_same ..
  · rw [CoreSt.mq, CoreSt.mq, hQ]; exact Sparse.find_put_other _ _ _ _ hi

theorem State.rings_pay (v : State) (c : Ctl) (j : Issue) (n : Nat) : (v.pay c j n).cur.rings = v.cur.rings :=
  (State.rings_of_moves (State.moves_pay v c j n)).1

theorem State.mqs_pay (v : State) (c : Ctl) (j : Issue) (n : Nat) : (v.pay c j n).cur.mqs = v.cur.mqs :=
  (State.rings_of_moves (State.moves_pay v c j n)).2

/-- A word that changes a ring alone. -/
theorem State.commit_ring {v : State} {c : Ctl} {j : Issue} {n i : Nat} {r : Ring}
    (heffect : j.effect v.cur.nextId (v.pay c j n) = (v.pay c j n).updCur fun k => k.withRings (Sparse.put v.cur.rings i r) v.cur.mqs)
    (hbr : j.branch = false) (hgo : j.goes = false) (hhold : j.hold = false) (heng : j.engine = false) :
    Through v (v.commit c j n) c j.tki false keepButRings keep ∧ OnlyRing v (v.commit c j n) i r :=
  (State.commit_rings heffect hbr hgo hhold heng).imp id fun h => onlyRing_of h.1 h.2

/-- A word that changes a message queue alone. -/
theorem State.commit_queue {v : State} {c : Ctl} {j : Issue} {n i : Nat} {r : Ring}
    (heffect : j.effect v.cur.nextId (v.pay c j n) = (v.pay c j n).updCur fun k => k.withRings v.cur.rings (Sparse.put v.cur.mqs i r))
    (hbr : j.branch = false) (hgo : j.goes = false) (hhold : j.hold = false) (heng : j.engine = false) :
    Through v (v.commit c j n) c j.tki false keepButRings keep ∧ OnlyQueue v (v.commit c j n) i r :=
  (State.commit_rings heffect hbr hgo hhold heng).imp id fun h => onlyQueue_of h.2 h.1

theorem ringIs_some {r : Ring} {p : Ring → Bool} (h : p r = true) : ringIs (some r) p = true := h

/-- A word of the right side of a ring passes when the ring's state lets it. -/
theorem State.sideTrap_or {v : State} {o : Option Ring} {r : Ring} {producer : Bool} {p : Ring → Bool} {t : Trap} (ho : o = some r)
    (hside : v.who.ctx = if producer then r.prod else r.cons) (hp : p r = true) :
    (v.sideTrap o producer).or (if ringIs o p then none else some t) = none := by
  subst ho
  have hside' : v.sideTrap (some r) producer = none := if_pos hside
  rw [hside', ringIs_some hp]
  rfl

/-- A word that writes a register alone. -/
theorem State.commit_resultOnly {v : State} {c : Ctl} {j : Issue} {n lat : Nat} {xd : Reg} {x : Word}
    (heffect : j.effect v.cur.nextId (v.pay c j n) = (v.pay c j n).result v.cur.nextId lat xd x)
    (hbr : j.branch = false) (hgo : j.goes = false) (hhold : j.hold = false) (heng : j.engine = false) :
    Through v (v.commit c j n) c j.tki false keep keepButRegs ∧ WritesReg v (v.commit c j n) lat xd x := by
  obtain ⟨hreg, hconf, hhalf, hgoes⟩ := State.commit_result v c j n lat xd x heffect hbr hgo hhold heng
  exact ⟨⟨hhalf, hconf, hgoes⟩, hreg⟩

theorem State.sideTrap_producer {v : State} {r : Ring} (h : v.who.ctx = r.prod) : v.sideTrap (some r) true = none := if_pos h

theorem State.sideTrap_consumer {v : State} {r : Ring} (h : v.who.ctx = r.cons) : v.sideTrap (some r) false = none := if_pos h

/-- A word of L or S may issue. -/
theorem Allowed.ok_ls {x y : Ctx} (h : x = y) (hy : y ≠ .X) : Allowed.ok .ls x = true := by
  subst h
  exact bne_iff_ne.2 hy

/-- What a word reads of a ring. -/
theorem State.ringResult_pay {v : State} {c : Ctl} {j : Issue} {n i : Nat} {r : Ring} (hr : v.cur.ring i = some r) (wid : Nat) (xd : Reg)
    (f : Ring → Word) : (v.pay c j n).ringResult wid xd ((v.pay c j n).cur.ring i) f = (v.pay c j n).result wid 1 xd (f r) := by
  rw [CoreSt.ring, State.rings_pay, ← CoreSt.ring, hr]
  rfl

/-- A slot of a ring moves on, and its address is the word's result (R243, R244). -/
theorem State.commit_slot {v : State} {c : Ctl} {j : Issue} {n i : Nat} {r : Ring} {xd : Reg} {g : Ring → Word} {f : Ring → Ring} (hr : v.cur.ring i = some r)
    (heffect : j.effect v.cur.nextId (v.pay c j n) =
      ((v.pay c j n).ringResult v.cur.nextId xd ((v.pay c j n).cur.ring i) g).updCur fun k => k.updRing i f)
    (hbr : j.branch = false) (hgo : j.goes = false) (hhold : j.hold = false) (heng : j.engine = false) :
    Through v (v.commit c j n) c j.tki false keepButRings keepButRegs ∧ WritesReg v (v.commit c j n) 1 xd (g r) ∧
      OnlyRing v (v.commit c j n) i (f r) := by
  have hring := State.updRing_of_moves ((State.moves_pay v c j n).result (State.pc_paid v c j n) v.cur.nextId 1 xd (g r)) hr f
  rw [State.ringResult_pay hr] at heffect
  obtain ⟨hthrough, hreg, hR, hQ⟩ := State.commit_ringResult (heffect.trans hring) hbr hgo hhold heng
  exact ⟨hthrough, hreg, onlyRing_of hR hQ⟩

/-- A count of a ring goes on as the word's access enters the queue (R243, R244). -/
theorem State.commit_count {v : State} {c : Ctl} {j : Issue} {n i : Nat} {r : Ring} {op : AccOp} {ea : Word} {f : Ring → Ring}
    (hr : v.cur.ring i = some r)
    (heffect : j.effect v.cur.nextId (v.pay c j n) = ((v.pay c j n).enqueue v.cur.nextId op ea).updCur fun k => k.updRing i f)
    (hbr : j.branch = false) (hgo : j.goes = false) (hhold : j.hold = false) (heng : j.engine = false) :
    Through v (v.commit c j n) c j.tki false keepButRings keepButAccesses ∧ OnlyRing v (v.commit c j n) i (f r) ∧
      HasQueued v (v.commit c j n) op ea none := by
  have hring := State.updRing_of_moves ((State.moves_pay v c j n).enqueue (State.pc_paid v c j n) v.cur.nextId op ea) hr f
  obtain ⟨hthrough, hqueued, hR, hQ⟩ := State.commit_ringAccess (heffect.trans hring) hbr hgo hhold heng
  exact ⟨hthrough, onlyRing_of hR hQ, hqueued⟩

/-- The oldest FULL slot of a message queue is taken (R245). -/
theorem State.commit_mqTake {v : State} {c : Ctl} {j : Issue} {n : Nat} {r : Ring} {xd : Reg} {mq : BitVec 2} (hr : v.cur.mq mq.toNat = some r)
    (heffect : j.effect v.cur.nextId (v.pay c j n) = (v.pay c j n).mqTake v.cur.nextId xd mq)
    (hbr : j.branch = false) (hgo : j.goes = false) (hhold : j.hold = false) (heng : j.engine = false) :
    Through v (v.commit c j n) c j.tki false keepButRings keepButRegs ∧ WritesReg v (v.commit c j n) 1 xd (r.slotEa r.take) ∧
      OnlyQueue v (v.commit c j n) mq.toNat { r.setSlot r.take .taken with take := r.take + 1 } := by
  have hpaid : (v.pay c j n).cur.mq mq.toNat = some r := by
    rw [CoreSt.mq, State.mqs_pay]
    exact hr
  have htake : (v.pay c j n).mqTake v.cur.nextId xd mq = ((v.pay c j n).result v.cur.nextId 1 xd (r.slotEa r.take)).updCur fun k =>
      k.withRings v.cur.rings (Sparse.put v.cur.mqs mq.toNat { r.setSlot r.take .taken with take := r.take + 1 }) := by
    unfold State.mqTake State.ringResult
    rw [hpaid]
    exact State.updMq_of_moves ((State.moves_pay v c j n).result (State.pc_paid v c j n) v.cur.nextId 1 xd _) hr
      fun r => { r.setSlot r.take .taken with take := r.take + 1 }
  obtain ⟨hthrough, hreg, hR, hQ⟩ := State.commit_ringResult (heffect.trans htake) hbr hgo hhold heng
  exact ⟨hthrough, hreg, onlyQueue_of hQ hR⟩

/-- Credit of a message queue goes back as the word's access enters the queue (R245). -/
theorem State.commit_credit {v : State} {c : Ctl} {j : Issue} {n i : Nat} {r : Ring} {op : AccOp} {ea : Word} {f : Ring → Ring}
    (hr : v.cur.mq i = some r)
    (heffect : j.effect v.cur.nextId (v.pay c j n) = ((v.pay c j n).enqueue v.cur.nextId op ea).updCur fun k => k.updMq i f)
    (hbr : j.branch = false) (hgo : j.goes = false) (hhold : j.hold = false) (heng : j.engine = false) :
    Through v (v.commit c j n) c j.tki false keepButRings keepButAccesses ∧ OnlyQueue v (v.commit c j n) i (f r) ∧
      HasQueued v (v.commit c j n) op ea none := by
  have hqueue := State.updMq_of_moves ((State.moves_pay v c j n).enqueue (State.pc_paid v c j n) v.cur.nextId op ea) hr f
  obtain ⟨hthrough, hqueued, hR, hQ⟩ := State.commit_ringAccess (heffect.trans hqueue) hbr hgo hhold heng
  exact ⟨hthrough, onlyQueue_of hQ hR, hqueued⟩

end Sys2Proof.Machine

open Sys2Proof Sys2Proof.Machine in
/-- Settles O14: each word's effect is a result or an access, and a change of its ring or queue. -/
theorem ringAndQueueWords : Obligations.RingAndQueueWords := by
  unfold Obligations.RingAndQueueWords
  refine ⟨?_, ?_, ?_, ?_, ?_, ?_, ?_, ?_, ?_, ?_, ?_⟩
  · intro c ring xa s hclear hx hcheck
    refine ⟨_, s.issue_goes _ _ hclear (bne_iff_ne.2 hx) nofun rfl nofun nofun hcheck rfl rfl rfl, State.commit_ring ?_ rfl rfl rfl rfl⟩
    dsimp only
    rw [State.reg_pay]
    refine State.updCur_congr ?_
    rw [CoreSt.withRings, ← State.rings_pay (s.seen c 0), ← State.mqs_pay (s.seen c 0)]
  · intro c xd ring s r hclear hx hprod hr hslot
    have hwho : (s.seen c 0).who.ctx = r.prod := by rw [State.who_seen]; exact hx
    have htrap : (s.seen c 0).sideTrap ((s.seen c 0).cur.ring ring.toNat) true = none := by rw [hr]; exact State.sideTrap_producer hwho
    have hempty : ringIs ((s.seen c 0).cur.ring ring.toNat) (fun r => r.slot r.claim == .empty) = true := by
      rw [hr]; exact beq_iff_eq.2 hslot
    refine ⟨_, s.issue_goes _ _ hclear (Allowed.ok_ls hx hprod) nofun rfl nofun nofun htrap rfl (congrArg Wait.need hempty) rfl,
      State.commit_slot (g := fun r => r.slotEa r.claim) (f := fun r => { r.setSlot r.claim .claimed with claim := r.claim + 1 }) hr
        rfl rfl rfl rfl rfl⟩
  · intro c ring s r hclear hx hprod hhalt hr hfill
    have hwho : (s.seen c 0).who.ctx = r.prod := by rw [State.who_seen]; exact hx
    refine ⟨_, s.issue_goes _ _ hclear (Allowed.ok_ls hx hprod) nofun rfl nofun (fun _ => hhalt) ?_ rfl rfl rfl,
      State.commit_count (f := fun r => { r with fill := r.fill + 1 }) hr rfl rfl rfl rfl rfl⟩
    exact State.sideTrap_or hr hwho (decide_eq_true hfill)
  · intro c xd ring n s r hclear hx hcons hr hslots hcount
    have hwho : (s.seen c 0).who.ctx = r.cons := by rw [State.who_seen]; exact hx
    have hwait : ringIs ((s.seen c 0).cur.ring ring.toNat) (fun r => decide (n.toNat ≤ r.count .full)) = true := by
      rw [hr]; exact decide_eq_true hcount
    refine ⟨_, s.issue_goes _ _ hclear (Allowed.ok_ls hx hcons) nofun rfl nofun nofun ?_ rfl (congrArg Wait.need hwait) rfl,
      State.commit_resultOnly (State.ringResult_pay hr _ xd fun r => w64 (r.count .full)) rfl rfl rfl rfl⟩
    exact State.sideTrap_or hr hwho (decide_eq_true hslots)
  · intro c xd ring n s r hclear hx hprod hr hslots hcount
    have hwho : (s.seen c 0).who.ctx = r.prod := by rw [State.who_seen]; exact hx
    have hwait : ringIs ((s.seen c 0).cur.ring ring.toNat) (fun r => decide (n.toNat ≤ r.empties)) = true := by
      rw [hr]; exact decide_eq_true hcount
    refine ⟨_, s.issue_goes _ _ hclear (Allowed.ok_ls hx hprod) nofun rfl nofun nofun ?_ rfl (congrArg Wait.need hwait) rfl,
      State.commit_resultOnly (State.ringResult_pay hr _ xd fun r => w64 r.empties) rfl rfl rfl rfl⟩
    exact State.sideTrap_or hr hwho (decide_eq_true hslots)
  · intro c xd ring s r hclear hx hcons hr hslot
    have hwho : (s.seen c 0).who.ctx = r.cons := by rw [State.who_seen]; exact hx
    have htrap : (s.seen c 0).sideTrap ((s.seen c 0).cur.ring ring.toNat) false = none := by rw [hr]; exact State.sideTrap_consumer hwho
    have hfull : ringIs ((s.seen c 0).cur.ring ring.toNat) (fun r => r.slot r.take == .full) = true := by
      rw [hr]; exact beq_iff_eq.2 hslot
    refine ⟨_, s.issue_goes _ _ hclear (Allowed.ok_ls hx hcons) nofun rfl nofun nofun htrap rfl (congrArg Wait.need hfull) rfl,
      State.commit_slot (g := fun r => r.slotEa r.take) (f := fun r => { r.setSlot r.take .taken with take := r.take + 1 }) hr
        rfl rfl rfl rfl rfl⟩
  · intro c ring s r hclear hx hcons hhalt hr hfree
    have hwho : (s.seen c 0).who.ctx = r.cons := by rw [State.who_seen]; exact hx
    refine ⟨_, s.issue_goes _ _ hclear (Allowed.ok_ls hx hcons) nofun rfl nofun (fun _ => hhalt) ?_ rfl rfl rfl,
      State.commit_count (f := fun r => { r with free := r.free + 1 }) hr rfl rfl rfl rfl rfl⟩
    exact State.sideTrap_or hr hwho (decide_eq_true hfree)
  · intro c mq xa s hclear hx hcheck
    refine ⟨_, s.issue_goes _ _ hclear (bne_iff_ne.2 hx) nofun rfl nofun nofun hcheck rfl rfl rfl, State.commit_queue ?_ rfl rfl rfl rfl⟩
    have hwho : s.who.ctx = (s.seen c 0).who.ctx := by rw [State.who_seen]
    dsimp only
    rw [State.reg_pay]
    refine State.updCur_congr ?_
    rw [CoreSt.withRings, hwho, ← State.rings_pay (s.seen c 0), ← State.mqs_pay (s.seen c 0)]
    rfl
  · intro c xd mq s r hclear hx hcons hr hslot
    have hwho : (s.seen c 0).who.ctx = r.cons := by rw [State.who_seen]; exact hx
    have htrap : (s.seen c 0).mqTrap mq = none := by rw [State.mqTrap, hr]; exact State.sideTrap_consumer hwho
    have hready : (s.seen c 0).mqReady mq = true := by rw [State.mqReady, hr]; exact beq_iff_eq.2 hslot
    refine ⟨⟨_, s.issue_goes _ _ hclear (Allowed.ok_ls hx hcons) nofun rfl nofun nofun htrap rfl (congrArg Wait.need hready) rfl, ?_⟩,
      ⟨_, s.issue_goes _ _ hclear (Allowed.ok_ls hx hcons) nofun rfl nofun nofun htrap rfl rfl rfl, ?_⟩⟩
    · exact State.commit_mqTake hr rfl rfl rfl rfl rfl
    · refine State.commit_mqTake hr (if_pos ?_) rfl rfl rfl rfl
      rw [State.mqReady, CoreSt.mq, State.mqs_pay]
      exact hready
  · intro c xd mq s r hclear hx hcons hr hslot
    have hwho : (s.seen c 0).who.ctx = r.cons := by rw [State.who_seen]; exact hx
    have htrap : (s.seen c 0).mqTrap mq = none := by rw [State.mqTrap, hr]; exact State.sideTrap_consumer hwho
    have hready : (s.seen c 0).mqReady mq = false := by rw [State.mqReady, hr]; exact beq_false_of_ne hslot
    refine ⟨_, s.issue_goes _ _ hclear (Allowed.ok_ls hx hcons) nofun rfl nofun nofun htrap rfl rfl rfl,
      State.commit_resultOnly (if_neg ?_) rfl rfl rfl rfl⟩
    rw [State.mqReady, CoreSt.mq, State.mqs_pay]
    exact ne_true_of_eq_false hready
  · intro c mq n s r hclear hx hcons hhalt hr hfree
    have hwho : (s.seen c 0).who.ctx = r.cons := by rw [State.who_seen]; exact hx
    refine ⟨_, s.issue_goes _ _ hclear (Allowed.ok_ls hx hcons) nofun rfl nofun (fun _ => hhalt) ?_ rfl rfl rfl,
      State.commit_credit (f := fun r => { r with free := r.free + n.toNat }) hr rfl rfl rfl rfl rfl⟩
    exact State.sideTrap_or hr hwho (decide_eq_true hfree)

/-! PROOFS. Loads, stores, AMO, VLD, MARK, FENCE and RLQ enter the access queue (R225, R226, R238 to R240, R253). -/

namespace Sys2Proof.Machine

open Sys2Proof

theorem State.ea_pay {v : State} {c : Ctl} {j : Issue} {n b : Nat} (xb : Reg) (imm : BitVec b) :
    (v.pay c j n).ea xb imm = v.reg xb + imm.signExtend 64 := by
  unfold State.ea
  rw [State.reg_pay]
  rfl

section

variable {i : Instr} {s : State} {xb : Reg} {imm : BitVec 24} {n : Nat}

/-- A scalar load enters the queue. -/
theorem State.issue_load {xd : Reg} {ea : Word} (hclear : s.clear (ctlOf i) 0 [] [xd, xb] = true) (hx : s.who.ctx ≠ .X)
    (hhalt : (s.seen (ctlOf i) 0).me.accHalt = none) (hea : (s.seen (ctlOf i) 0).reg xb + imm.signExtend 64 = ea)
    (hcheck : (s.seen (ctlOf i) 0).accTrap ea n n false = none) (hlost : (s.seen (ctlOf i) 0).lostTrap ea n = none) :
    ∃ t, s.issue i (loadIssue xd xb imm n) = .next t ∧ Through (s.seen (ctlOf i) 0) t (ctlOf i) [] false keep keepButAccesses ∧
      HasQueued (s.seen (ctlOf i) 0) t (.load xd n) ea (some xd) := by
  subst hea
  refine ⟨_, s.issue_goes i (loadIssue xd xb imm n) hclear (bne_iff_ne.2 hx) nofun rfl nofun (fun _ => hhalt) hcheck rfl rfl hlost, ?_⟩
  refine State.commit_access ?_ rfl rfl rfl rfl
  unfold loadIssue
  dsimp only
  rw [State.ea_pay]
  exact (State.moves_pay ..).enqueueAwait (State.pc_paid ..) _ _ _ _

/-- A scalar store enters the queue. -/
theorem State.issue_store {xs : Reg} {ea : Word} (hclear : s.clear (ctlOf i) 0 [] [xs, xb] = true) (hx : s.who.ctx ≠ .X)
    (hhalt : (s.seen (ctlOf i) 0).me.accHalt = none) (hea : (s.seen (ctlOf i) 0).reg xb + imm.signExtend 64 = ea)
    (hcheck : (s.seen (ctlOf i) 0).accTrap ea n n true = none) (hmay : (s.seen (ctlOf i) 0).mayStore ea n = true) :
    ∃ t, s.issue i (storeIssue xs xb imm n) = .next t ∧ Through (s.seen (ctlOf i) 0) t (ctlOf i) [] false keep keepButAccesses ∧
      HasQueued (s.seen (ctlOf i) 0) t (.store n ((s.seen (ctlOf i) 0).reg xs)) ea none := by
  subst hea
  refine ⟨_, s.issue_goes i (storeIssue xs xb imm n) hclear (bne_iff_ne.2 hx) nofun rfl nofun (fun _ => hhalt) hcheck rfl
    (congrArg Wait.need hmay) rfl, ?_⟩
  refine State.commit_access ?_ rfl rfl rfl rfl
  unfold storeIssue
  dsimp only
  rw [State.ea_pay, State.reg_pay]
  exact (State.moves_pay ..).enqueue (State.pc_paid ..) _ _ _

end

/-- An AMO enters the queue. -/
theorem exec_amo {c : Ctl} {op : AmoOp} {dbl : Bool} {xd xa xb : Reg} {imm : BitVec 16} {s : State} {ea : Word}
    (hclear : s.clear c 0 [] [xd, xa, xb] = true) (hx : s.who.ctx ≠ .X)
    (hhalt : (s.seen c 0).me.accHalt = none) (hea : (s.seen c 0).reg xa + imm.signExtend 64 = ea)
    (hcheck : (s.seen c 0).accTrap ea (if dbl then 8 else 4) (if dbl then 8 else 4) true = none)
    (hamo : (s.seen c 0).amoTrap op ea = none) (hfront : (s.seen c 0).isSpec s.k = false ∨ isVirt ea = false)
    (hlost : (s.seen c 0).lostTrap ea (if dbl then 8 else 4) = none) :
    ∃ t, exec (.amo c op dbl xd xa xb imm) s = .next t ∧ Through (s.seen c 0) t c [] false keep keepButAccesses ∧
      HasQueued (s.seen c 0) t (.amo op dbl xd ((s.seen c 0).reg xb) ((s.seen c 0).reg xd)) ea (some xd) := by
  subst hea
  have hk : (s.seen c 0).k = s.k := by rw [State.k, State.who_seen]; rfl
  have hwait : (!((s.seen c 0).isSpec (s.seen c 0).k && isVirt ((s.seen c 0).ea xa imm))) = true := by
    rw [hk]
    rcases hfront with h | h
    · rw [h]; rfl
    · rw [State.ea, sext, h]; simp
  refine ⟨_, s.issue_goes (.amo c op dbl xd xa xb imm) _ hclear (bne_iff_ne.2 hx) nofun rfl nofun (fun _ => hhalt)
    ((congrArg (Option.or · _) hcheck).trans hamo) rfl (congrArg Wait.need hwait) hlost, ?_⟩
  refine State.commit_access ?_ rfl rfl rfl rfl
  dsimp only
  rw [State.ea_pay, State.reg_pay, State.reg_pay]
  exact (State.moves_pay ..).enqueueAwait (State.pc_paid ..) _ _ _ _

/-! ### Vector queues and marks -/

/-- The vector queues `Q` of a core. -/
def CoreSt.withQueues (k : CoreSt) (Q : Sparse QState) : CoreSt := { k with qs := Q }

theorem Within.vectorQueues {v u : State} {ctx : CtxSt → CtxSt → CtxSt} (h : Within v u keep ctx) (Q : Sparse QState) :
    Within v (u.updCur fun k => k.withQueues Q) keepButQueues ctx := by
  have hcur := h.core
  refine h.updCur _ rfl ?_
  generalize u.cur = d at hcur ⊢
  rw [hcur]
  rfl

/-- A queue that is set, where no context is starved. -/
theorem Moves.setQueue {u w : State} {m : Moved} (h : Moves u w m) (hst : m.starved = []) (i : Nat) (q : QState) :
    Moves (u.updCur fun k => k.withQueues (Sparse.put k.qs i q)) (w.updCur fun k => k.setQueue i q) m := by
  refine h.change _ _ ?_
  unfold CoreSt.setQueue CoreSt.moved
  rw [hst]
  rfl

theorem CoreSt.queue_put_same {k d : CoreSt} {i : Nat} {q : QState} (h : k.qs = Sparse.put d.qs i q) : k.queue i = q := by
  unfold CoreSt.queue
  rw [h, Sparse.find_put_same]

theorem CoreSt.queue_put_other {k d : CoreSt} {i n : Nat} {q : QState} (h : k.qs = Sparse.put d.qs i q) (hn : n ≠ i) : k.queue n = d.queue n := by
  unfold CoreSt.queue
  rw [h, Sparse.find_put_other _ _ _ _ hn]

theorem Moves.queue {u w : State} {m : Moved} (h : Moves u w m) (i : Nat) : w.cur.queue i = u.cur.queue i := by rw [h.cur]; rfl

theorem State.queue_pay (v : State) (c : Ctl) (j : Issue) (n i : Nat) : (v.pay c j n).cur.queue i = v.cur.queue i :=
  (State.moves_pay v c j n).queue i

theorem State.queue_enqueue (v : State) (wid : Nat) (op : AccOp) (ea : Word) (i : Nat) : (v.enqueue wid op ea).cur.queue i = v.cur.queue i := by
  unfold State.enqueue
  rw [State.cur_updMe]
  cases v.who.ctx <;> rfl

section

variable {v : State} {c : Ctl} {j : Issue} {n : Nat}

/-- A word whose access enters the queue and that takes a place of a vector queue (R226). -/
theorem State.commit_fill {op : AccOp} {ea : Word} {vq : Nat} {q : QState}
    (heffect : j.effect v.cur.nextId (v.pay c j n) = ((v.pay c j n).enqueue v.cur.nextId op ea).updCur fun k => k.setQueue vq q)
    (hbr : j.branch = false) (hgo : j.goes = false) (hhold : j.hold = false) (heng : j.engine = false) :
    Through v (v.commit c j n) c j.tki false keepButQueues keepButAccesses ∧ HasQueued v (v.commit c j n) op ea none ∧
      (v.commit c j n).cur.qs = Sparse.put v.cur.qs vq q := by
  have hmoves := ((State.moves_pay v c j n).enqueue (State.pc_paid v c j n) v.cur.nextId op ea).setQueue (State.starved_paid ..) vq q
  have hqs : (v.updMe fun d => d.queues ⟨v.cur.nextId, v.me.pc, v.wordAtPc, op, ea⟩ none).cur.qs = v.cur.qs := by
    rw [State.cur_updMe]
    cases v.who.ctx <;> rfl
  have hbase : ((v.updMe fun d => d.queues ⟨v.cur.nextId, v.me.pc, v.wordAtPc, op, ea⟩ none).updCur fun k =>
      k.withQueues (Sparse.put k.qs vq q)) = (v.updMe fun d => d.queues ⟨v.cur.nextId, v.me.pc, v.wordAtPc, op, ea⟩ none).updCur fun k =>
        k.withQueues (Sparse.put v.cur.qs vq q) := State.updCur_congr (by rw [hqs])
  rw [hbase] at hmoves
  have hwithin := ((Within.refl v).queues ⟨v.cur.nextId, v.me.pc, v.wordAtPc, op, ea⟩ none fun _ _ _ _ => rfl).vectorQueues
    (Sparse.put v.cur.qs vq q)
  obtain ⟨m, hm, -, hthrough⟩ := hmoves.passes hwithin.steady heffect hbr hgo
  rw [hhold, heng] at hthrough
  refine ⟨hwithin.through hm hthrough (fun _ _ _ _ => rfl) (fun _ _ _ _ _ => rfl), hm.hasQueued ?_, ?_⟩
  · rw [State.me_updCur (by cases v.who.ctx <;> rfl), State.me_updMe]
  · rw [hm.cur, State.cur_updCur]; rfl

/-- MARK enters the queue and counts itself (R238). -/
theorem State.commit_mark {id : Nat} (heffect : j.effect v.cur.nextId (v.pay c j n) =
      ((v.pay c j n).enqueue v.cur.nextId (.mark id (Sparse.get 0 v.me.marks id + 1)) 0).updMe fun d =>
        { d with marks := Sparse.set 0 d.marks id (Sparse.get 0 v.me.marks id + 1) })
    (hbr : j.branch = false) (hgo : j.goes = false) (hhold : j.hold = false) (heng : j.engine = false) :
    Through v (v.commit c j n) c j.tki false keep (fun a b => { a with accq := b.accq, marks := b.marks }) ∧
      HasQueued v (v.commit c j n) (.mark id (Sparse.get 0 v.me.marks id + 1)) 0 none ∧
      Sparse.get 0 (v.commit c j n).me.marks id = Sparse.get 0 v.me.marks id + 1 := by
  have hmoves := ((State.moves_pay v c j n).enqueue (State.pc_paid v c j n) v.cur.nextId (.mark id (Sparse.get 0 v.me.marks id + 1))
    0).updMe (fun d => { d with marks := Sparse.set 0 d.marks id (Sparse.get 0 v.me.marks id + 1) }) rfl
  have hwithin := ((Within.refl v).queues ⟨v.cur.nextId, v.me.pc, v.wordAtPc, .mark id (Sparse.get 0 v.me.marks id + 1), 0⟩ none
    fun _ _ _ _ => rfl).updMe (ctx' := fun a b => { a with accq := b.accq, marks := b.marks })
      (fun d => { d with marks := Sparse.set 0 d.marks id (Sparse.get 0 v.me.marks id + 1) }) (fun _ _ _ _ => rfl) rfl
      (by rw [State.me_updMe]; unfold CtxSt.queues; rw [List.append_nil])
  obtain ⟨m, hm, -, hthrough⟩ := hmoves.passes hwithin.steady heffect hbr hgo
  rw [hhold, heng] at hthrough
  have hme := hm.me
  rw [State.me_updMe, State.me_updMe] at hme
  refine ⟨hwithin.through hm hthrough (fun _ _ _ _ => rfl) (fun _ _ _ _ _ => rfl), ⟨?_, ?_⟩, ?_⟩
  · rw [hme]; rfl
  · rw [hme]; rfl
  · rw [hme]
    exact Sparse.get_set_same (0 : Nat) v.me.marks id (Sparse.get 0 v.me.marks id + 1)

end

end Sys2Proof.Machine

open Sys2Proof Sys2Proof.Machine in
/-- Settles O11: `State.issue_load`, `State.issue_store` and `exec_amo`. -/
theorem scalarAccessesEnterTheQueue : Obligations.ScalarAccessesEnterTheQueue := by
  unfold Obligations.ScalarAccessesEnterTheQueue
  intro i s a ha hclear hx hhalt hcheck hmore
  cases i <;> cases ha
  case ldb | ldh | ldw | ldd => exact State.issue_load hclear hx hhalt rfl hcheck hmore
  case stb | sth | stw | std => exact State.issue_store hclear hx hhalt rfl hcheck hmore
  case amo =>
    obtain ⟨hamo, hfront, hlost⟩ := hmore
    exact exec_amo hclear hx hhalt rfl hcheck hamo hfront hlost

open Sys2Proof Sys2Proof.Machine in
/-- Settles O13: `State.commit_access`, with VLD's place in its queue and MARK's count. -/
theorem otherAccessesEnterTheQueue : Obligations.OtherAccessesEnterTheQueue := by
  unfold Obligations.OtherAccessesEnterTheQueue
  refine ⟨?_, ?_, ?_, ?_⟩
  · intro c vq xb imm s hclear hx hhalt hkind hroom hcheck hlost
    refine ⟨_, s.issue_goes _ _ hclear (beq_iff_eq.2 hx) nofun rfl nofun (fun _ => hhalt) ?_ rfl (congrArg Wait.feed (decide_eq_true hroom))
      hlost, ?_⟩
    · exact (congrArg (Option.or · _) (if_neg (not_not.2 hkind))).trans hcheck
    refine (State.commit_fill (vq := vq.toNat) (q := { (s.seen c 0).cur.queue vq.toNat with
      els := ((s.seen c 0).cur.queue vq.toNat).els ++ [⟨0, (s.seen c 0).cur.nextId, false, false, none⟩] }) ?_ rfl rfl rfl rfl).imp id
      (And.imp id fun hqs => ⟨fun q hq => CoreSt.queue_put_other hqs hq, CoreSt.queue_put_same hqs⟩)
    dsimp only
    rw [State.ea_pay]
    refine State.updCur_congr ?_
    rw [State.queue_enqueue, State.queue_pay]
  · intro c id s hclear hx hhalt
    refine ⟨_, s.issue_goes _ _ hclear (bne_iff_ne.2 hx) nofun rfl nofun (fun _ => hhalt) rfl rfl rfl rfl, ?_⟩
    have hmarks (j : Issue) (n : Nat) : ((s.seen c 0).pay c j n).me.marks = (s.seen c 0).me.marks := by rw [State.me_pay]
    refine State.commit_mark ?_ rfl rfl rfl rfl
    dsimp only
    exact congrArg (fun l => State.updMe (State.enqueue _ _ (.mark id.toNat (Sparse.get 0 l id.toNat + 1)) 0) fun d =>
      { d with marks := Sparse.set 0 d.marks id.toNat (Sparse.get 0 l id.toNat + 1) }) (hmarks _ _)
  · intro c e scope s hclear hx hhalt
    refine ⟨_, s.issue_goes _ _ hclear (bne_iff_ne.2 hx) nofun rfl nofun (fun _ => hhalt) rfl rfl rfl rfl, ?_⟩
    exact State.commit_access ((State.moves_pay ..).enqueue (State.pc_paid ..) _ _ _) rfl rfl rfl rfl
  · intro c xa s b hclear hx hhalt hberth
    have hk : (s.seen c 0).k = s.k := by rw [State.k, State.who_seen]; rfl
    have hname : (s.seen c 0).nameTrap ((s.seen c 0).reg xa) = none := by rw [State.nameTrap, hk, hberth]
    refine ⟨_, s.issue_goes _ _ hclear (bne_iff_ne.2 hx) nofun rfl nofun (fun _ => hhalt) hname rfl rfl rfl, ?_⟩
    refine State.commit_access ?_ rfl rfl rfl rfl
    dsimp only
    rw [State.reg_pay]
    exact (State.moves_pay ..).enqueue (State.pc_paid ..) _ _ _

/-! PROOFS. Branches and loops (R142 to R147, R150). -/

namespace Sys2Proof.Machine

open Sys2Proof

/-- A word that sets the program counter and the loop stack. -/
theorem Moves.jumps {u w : State} {m : Moved} (h : Moves u w m) {f : CtxSt → CtxSt} {p : Nat} {l : List LoopEntry}
    (hf : f w.me = { w.me with pc := p, loops := l }) : Moves u (w.updMe f) { m with pc := p, loops := l } := by
  refine ⟨State.local_updMe h.inside f, ?_⟩
  rw [State.cur_updMe, h.who, h.cur]
  refine CoreSt.moved_updCtx _ _ _ _ _ ?_ ⟨rfl, rfl⟩ ⟨rfl, rfl, rfl⟩
  rw [h.me] at hf
  refine hf.trans ?_
  rw [CtxSt.moved_same]
  exact (CtxSt.moved_same (u.cur.ctx u.who.ctx) u.who.ctx { m with pc := p, loops := l }).symm

/-- A word that goes elsewhere than to the next word leaves its control half besides. -/
theorem Moves.leaps {v u w : State} {c : Ctl} {j : Issue} {n p : Nat} {l : List LoopEntry}
    (h : Moves u w { v.paid c j n with pc := p, loops := l }) (hs : Steady v u) (hw : j.effect v.cur.nextId (v.pay c j n) = w)
    (hgo : (j.branch || j.goes) = true) :
    ∃ m, Moves u (v.commit c j n) m ∧ m.icycle = n ∧ (v.commit c j n).me.pc = p ∧ (v.commit c j n).me.loops = l ∧
      ControlHalf u (v.commit c j n) c j.tki (j.hold && j.holdIf w) j.engine ∧ Confined u (v.commit c j n) keep keep keep := by
  generalize hheld : (j.hold && j.holdIf w) = held
  have hsigs : (v.paid c j n).sigs = v.me.sigs := by
    change ((v.pay c j n).me).sigs = v.me.sigs
    rw [State.me_pay]
  have hcommit : v.commit c j n = w.updMe fun d => { d with
      sigs := d.sigs ++ owed c v.cur.nextId v.me.pc v.wordAtPc held j.engine } := by
    unfold State.commit
    simp only [hw, hgo, if_true, hheld]
  have hmoves : Moves u (v.commit c j n) { v.paid c j n with
      pc := p, loops := l, sigs := v.me.sigs ++ owed c v.cur.nextId v.me.pc v.wordAtPc held j.engine } := by
    rw [hcommit]
    refine ⟨State.local_updMe h.inside _, ?_⟩
    rw [State.cur_updMe, h.who, h.cur]
    refine CoreSt.moved_updCtx _ _ _ _ _ ?_ ⟨rfl, rfl⟩ ⟨rfl, rfl, rfl⟩
    rw [CtxSt.moved_same, CtxSt.moved_same]
    simp only [hsigs]
  obtain ⟨hhalf, hconf⟩ := hmoves.half (held := held) rfl hs.who hs.control hs.word
  have hme := hmoves.me
  rw [CtxSt.moved_same] at hme
  exact ⟨_, hmoves, State.icycle_paid v c j n, by rw [hme], by rw [hme], hhalf, hconf⟩

/-- Where the next word stands. -/
theorem CtxSt.wrap_eq (d : CtxSt) (i : Int) : d.wrap i = (i % d.wwords).toNat := rfl

/-- What a branch does to the program counter and the loop stack (R142, R147). -/
theorem CtxSt.branch_eq (d : CtxSt) (taken : Bool) (target : Nat) : d.branch taken target = { d with
    pc := if taken then target else d.wrap (d.pc + 1)
    loops := if taken then d.loops.dropWhile fun e => !d.inBody e target else d.loops } := by
  unfold CtxSt.branch CtxSt.jump
  split <;> rfl

theorem branchedTo_of {v t : State} {taken : Bool} {target : Int}
    (hpc : t.me.pc = if taken then v.me.wrap target else v.me.wrap (v.me.pc + 1))
    (hloops : t.me.loops = if taken then v.me.loops.dropWhile fun e => !v.me.inBody e (v.me.wrap target) else v.me.loops) :
    BranchedTo v t taken target := by
  unfold BranchedTo
  rw [hpc, hloops]
  split <;> exact ⟨rfl, rfl⟩

/-- The window and the loops of a context as the word's effect finds them. -/
theorem State.me_pay_branch (v : State) (c : Ctl) (j : Issue) (n : Nat) (taken : Bool) (target : Nat) :
    (v.pay c j n).me.branch taken target = { (v.pay c j n).me with
      pc := if taken then target else v.me.wrap (v.me.pc + 1)
      loops := if taken then v.me.loops.dropWhile fun e => !v.me.inBody e target else v.me.loops } := by
  rw [CtxSt.branch_eq, State.me_pay]
  rfl

/-- A branch (R142, R147). -/
theorem State.commit_branch {v : State} {c : Ctl} {j : Issue} {n : Nat} {taken : Bool} {target : Int} {f : CtxSt → CtxSt}
    (heffect : j.effect v.cur.nextId (v.pay c j n) = (v.pay c j n).updMe f)
    (hf : f (v.pay c j n).me = (v.pay c j n).me.branch taken (v.me.wrap target))
    (hbr : j.branch = true) (hhold : j.hold = false) (heng : j.engine = false) :
    Confined v (v.commit c j n) keep keep keep ∧ ControlHalf v (v.commit c j n) c j.tki false ∧ BranchedTo v (v.commit c j n) taken target := by
  obtain ⟨m, -, -, hpc, hloops, hhalf, hconf⟩ := ((State.moves_pay v c j n).jumps (hf.trans (State.me_pay_branch ..))).leaps (.refl v)
    heffect (by rw [hbr]; rfl)
  rw [hhold, heng] at hhalf
  exact ⟨hconf, hhalf, branchedTo_of hpc hloops⟩

/-- A jump with a link (R143, R147). -/
theorem State.commit_jump {v : State} {c : Ctl} {j : Issue} {n : Nat} {xd : Reg} {x : Word} {target : Int}
    (heffect : j.effect v.cur.nextId (v.pay c j n) = ((v.pay c j n).result v.cur.nextId 1 xd x).updMe fun d => d.jump (v.me.wrap target))
    (hbr : j.branch = true) (hhold : j.hold = false) (heng : j.engine = false) :
    Confined v (v.commit c j n) keep keepButRegs keep ∧ ControlHalf v (v.commit c j n) c j.tki false ∧ WritesReg v (v.commit c j n) 1 xd x ∧
      BranchedTo v (v.commit c j n) true target := by
  have hresult := (State.moves_pay v c j n).result (State.pc_paid v c j n) v.cur.nextId 1 xd x
  have hwithin := (Within.refl v).takes ⟨v.cur.nextId, (v.paid c j n).icycle + 1, v.me.pc, v.wordAtPc, .reg xd x⟩ xd x fun _ _ _ _ => rfl
  have hjump := hresult.jumps (f := fun d => d.jump (v.me.wrap target)) (p := v.me.wrap target)
    (l := v.me.loops.dropWhile fun e => !v.me.inBody e (v.me.wrap target)) (by
      have hloops : ((v.pay c j n).result v.cur.nextId 1 xd x).me.loops = v.me.loops := by
        rw [hresult.me, CtxSt.moved_same, State.loops_paid]
      have hbody (e : LoopEntry) (p : Nat) : ((v.pay c j n).result v.cur.nextId 1 xd x).me.inBody e p = v.me.inBody e p := by
        rw [hresult.me, State.me_updMe]
        unfold CtxSt.inBody CtxSt.wrap
        have : (v.me.takes ⟨v.cur.nextId, (v.paid c j n).icycle + 1, v.me.pc, v.wordAtPc, .reg xd x⟩ xd x).wwords = v.me.wwords :=
          (congrArg CtxSt.wwords (State.me_updMe v _)).symm.trans hwithin.window
        rw [CtxSt.moved_same]
        dsimp only
        rw [this]
      unfold CtxSt.jump
      rw [hloops]
      simp only [hbody])
  obtain ⟨m, hm, hcycle, hpc, hloops, hhalf, hconf⟩ := hjump.leaps hwithin.steady heffect (by rw [hbr]; rfl)
  rw [hhold, heng] at hhalf
  refine ⟨hwithin.confined hm hconf (fun _ _ _ _ => rfl) (fun _ _ _ _ _ => rfl), hwithin.steady.half hhalf, hm.writesReg ?_, branchedTo_of hpc hloops⟩
  rw [State.me_updMe, hcycle, State.icycle_paid]

theorem CoreSt.ctx_cqPop (k : CoreSt) (x : Ctx) (d : Dir6) : (k.cqPop x d).ctx x = k.ctx x := by cases d <;> cases x <;> rfl

theorem CoreSt.control_cqPop (k : CoreSt) (x : Ctx) (d : Dir6) : (k.cqPop x d).control x = k.control x := by
  have hP : (fun y => ((k.cqPop x d).ctx y).fifoP) = fun y => (k.ctx y).fifoP := funext fun y => by
    cases d <;> cases x <;> cases y <;> rfl
  have hN : (fun y => ((k.cqPop x d).ctx y).fifoN) = fun y => (k.ctx y).fifoN := funext fun y => by
    cases d <;> cases x <;> cases y <;> rfl
  unfold CoreSt.control
  rw [hP, hN, CoreSt.ctx_cqPop]
  cases d <;> cases x <;> rfl

/-- A branch on a control queue (R150). -/
theorem State.commit_cqBranch {v : State} {c : Ctl} {j : Issue} {n : Nat} {dir : Dir6} {taken : Bool} {target : Int} {f : CtxSt → CtxSt}
    (heffect : j.effect v.cur.nextId (v.pay c j n) = ((v.pay c j n).updCur fun k => k.cqPop v.who.ctx dir).updMe f)
    (hf : f ((v.pay c j n).updCur fun k => k.cqPop v.who.ctx dir).me =
      ((v.pay c j n).updCur fun k => k.cqPop v.who.ctx dir).me.branch taken (v.me.wrap target))
    (hbr : j.branch = true) (hhold : j.hold = false) (heng : j.engine = false) :
    Confined (v.updCur fun k => k.cqPop v.who.ctx dir) (v.commit c j n) keep keep keep ∧ ControlHalf v (v.commit c j n) c j.tki false ∧
      (v.commit c j n).cur.cqIn v.who.ctx dir = (v.cur.cqIn v.who.ctx dir).tail ∧ BranchedTo v (v.commit c j n) taken target := by
  have hpop := (State.moves_pay v c j n).updCur (fun k => k.cqPop v.who.ctx dir) (by cases dir <;> cases v.who.ctx <;> rfl)
  have hsteady : Steady v (v.updCur fun k => k.cqPop v.who.ctx dir) :=
    (Steady.refl v).updCur _ (CoreSt.control_cqPop ..) (congrArg CtxSt.wbase (CoreSt.ctx_cqPop ..)) (by cases dir <;> cases v.who.ctx <;> rfl)
  have hme : ((v.pay c j n).updCur fun k => k.cqPop v.who.ctx dir).me = (v.pay c j n).me := State.me_updCur (CoreSt.ctx_cqPop ..)
  rw [hme] at hf
  have hjump := hpop.jumps (f := f) (by rw [hme]; exact hf.trans (State.me_pay_branch ..))
  obtain ⟨m, hm, -, hpc, hloops, hhalf, hconf⟩ := hjump.leaps hsteady heffect (by rw [hbr]; rfl)
  rw [hhold, heng] at hhalf
  refine ⟨hconf, hsteady.half hhalf, ?_, branchedTo_of hpc hloops⟩
  rw [hm.cur, State.cur_updCur]
  cases dir <;> cases v.who.ctx <;> rfl

/-! ### The words of R93 -/

/-- The sum by which R142 lays out BR's operands. -/
theorem operandsOf_br (cond : Cond) (xa xb : Reg) (disp : BitVec 24) : operandsOf (.br Ctl.none cond xa xb disp) =
    xa.toNat * 2 ^ 34 + xb.toNat * 2 ^ 28 + cond.code.toNat * 2 ^ 24 + disp.toNat := by
  show put 24 disp.toNat (put 4 cond.code.toNat (put 6 xb.toNat (put 6 xa.toNat 0))) = _
  simp only [put]
  ring

/-- The sum by which R143 lays out JMPR's operands. -/
theorem operandsOf_jmpr (xd xa : Reg) (imm : BitVec 16) : operandsOf (.jmpr Ctl.none xd xa imm) =
    xd.toNat * 2 ^ 34 + xa.toNat * 2 ^ 28 + imm.toNat := by
  show put 16 imm.toNat (put 12 0 (put 6 xa.toNat (put 6 xd.toNat 0))) = _
  simp only [put]
  ring

/-- JMPR's bits 27:16 are reserved (R143). -/
theorem decJmpr_reserved {c : Ctl} {n : Nat} {i : Instr} (h : decJmpr c n = some i) : n / 2 ^ 16 % 2 ^ 12 = 0 := by
  simp only [decJmpr, rd, rk_eq_some] at h
  exact h.1

/-! ### Loops (R145) -/

theorem CtxSt.enterLoop_eq (d : CtxSt) (n : Word) (body : Nat) : d.enterLoop n body = { d with
    pc := if n = 0 then (closeLoops (d.wrap (d.pc + body)) (d.wrap (d.wrap (d.pc + body) + 1)) d.loops).2 else d.wrap (d.pc + 1)
    loops := if n = 0 then (closeLoops (d.wrap (d.pc + body)) (d.wrap (d.wrap (d.pc + body) + 1)) d.loops).1
      else ⟨d.wrap (d.pc + 1), d.wrap (d.pc + body), n⟩ :: d.loops } := by
  unfold CtxSt.enterLoop CtxSt.skipLoop
  dsimp only
  split <;> rfl

/-- A legal loop word passes its check. -/
theorem LoopLegal.check {v : State} {n : Word} {body : Nat} (h : LoopLegal v n body) : v.me.loopCheck n body = none := by
  obtain ⟨hbody, hnest⟩ := h
  unfold CtxSt.loopCheck
  rw [if_neg (Nat.not_le.2 hbody)]
  split
  · rfl
  · next hn =>
    obtain ⟨hroom, hinside⟩ := hnest hn
    rw [if_neg (Nat.not_le.2 hroom)]
    split
    · rfl
    · next e r he =>
      obtain ⟨hstart, hclose, hle⟩ := hinside e (by rw [he]; rfl)
      dsimp only
      rw [hstart, hclose, decide_eq_true hle]
      rfl

/-- A loop word: the new loop, or the word after the body. -/
theorem State.commit_loop {v : State} {c : Ctl} {j : Issue} {k body : Nat} {n : Word}
    (heffect : j.effect v.cur.nextId (v.pay c j k) = (v.pay c j k).updMe fun d => d.enterLoop n body)
    (hbr : j.branch = true) (hhold : j.hold = false) (heng : j.engine = false) :
    Confined v (v.commit c j k) keep keep keep ∧ ControlHalf v (v.commit c j k) c j.tki false ∧ LoopsBy v (v.commit c j k) n body := by
  obtain ⟨m, -, -, hpc, hloops, hhalf, hconf⟩ := ((State.moves_pay v c j k).jumps (f := fun d => d.enterLoop n body)
    (CtxSt.enterLoop_eq ..)).leaps (.refl _) heffect (by rw [hbr]; rfl)
  rw [hhold, heng] at hhalf
  refine ⟨hconf, hhalf, ?_⟩
  unfold LoopsBy
  dsimp only
  rw [hpc, hloops, State.me_pay]
  split
  · rfl
  · exact ⟨rfl, rfl⟩

/-- A legal loop word goes through. -/
theorem State.issue_loop {i : Instr} {s : State} {uses : List Reg} {n : State → Word} {body : Nat} {extra : State → Bool}
    (hclear : s.clear (ctlOf i) 0 [] uses = true) (hclosing : (s.seen (ctlOf i) 0).me.closing = false)
    (hextra : extra (s.seen (ctlOf i) 0) = false) (hlegal : LoopLegal (s.seen (ctlOf i) 0) (n (s.seen (ctlOf i) 0)) body)
    (hpay : ∀ j k, n ((s.seen (ctlOf i) 0).pay (ctlOf i) j k) = n (s.seen (ctlOf i) 0)) :
    ∃ t, s.issue i (loopIssue uses n body extra) = .next t ∧ Confined (s.seen (ctlOf i) 0) t keep keep keep ∧
      ControlHalf (s.seen (ctlOf i) 0) t (ctlOf i) [] false ∧ LoopsBy (s.seen (ctlOf i) 0) t (n (s.seen (ctlOf i) 0)) body := by
  have hcheck : (loopIssue uses n body extra).check (s.seen (ctlOf i) 0) = none := by
    refine (if_neg ?_).trans hlegal.check
    rw [hextra]
    decide
  refine ⟨_, s.issue_goes i (loopIssue uses n body extra) hclear rfl nofun rfl (fun _ => hclosing) nofun hcheck rfl rfl rfl,
    State.commit_loop ?_ rfl rfl rfl⟩
  unfold loopIssue
  dsimp only
  rw [hpay]

end Sys2Proof.Machine

open Sys2Proof Sys2Proof.Machine in
/-- Settles O2: each branch sets the program counter and the loop stack, JMPR writes the link, and CQBR pops. -/
theorem branches : Obligations.Branches := by
  unfold Obligations.Branches
  refine ⟨?_, ?_, ?_, ?_, ?_, ?_⟩
  · intro c cond xa xb disp s hclear hclosing
    refine ⟨_, s.issue_goes _ _ hclear rfl nofun rfl (fun _ => hclosing) nofun rfl rfl rfl rfl, ?_⟩
    refine State.commit_branch rfl ?_ rfl rfl rfl
    rw [State.me_pay]
    rfl
  · intro c xd xa imm s hclear hclosing
    refine ⟨_, s.issue_goes _ _ hclear rfl nofun rfl (fun _ => hclosing) nofun rfl rfl rfl rfl, State.commit_jump ?_ rfl rfl rfl⟩
    dsimp only
    rw [State.reg_pay, State.me_pay]
    rfl
  · intro c cond dir disp s hclear hclosing hne
    have hwho : s.who = (s.seen c 0).who := by rw [State.who_seen]
    rw [hwho] at hne ⊢
    have hfed : (!((s.seen c 0).cur.cqIn (s.seen c 0).who.ctx dir).isEmpty) = true := by simpa using hne
    refine ⟨_, s.issue_goes _ _ hclear rfl nofun rfl (fun _ => hclosing) nofun rfl rfl (congrArg Wait.feed hfed) rfl,
      State.commit_cqBranch rfl ?_ rfl rfl rfl⟩
    have hin (c' : Ctl) (j : Issue) (n : Nat) : ((s.seen c 0).pay c' j n).cur.cqIn (s.seen c 0).who.ctx dir =
        (s.seen c 0).cur.cqIn (s.seen c 0).who.ctx dir := by
      rw [(State.moves_pay (s.seen c 0) c' j n).cur]
      cases dir <;> cases (s.seen c 0).who.ctx <;> rfl
    rw [State.me_updCur (CoreSt.ctx_cqPop ..), State.who_pay, hin, State.me_pay]
    rfl
  · intro cond xa xb disp hcond
    have hwf : (Instr.br Ctl.none cond xa xb disp).wf = true := by
      rcases hcond with h | ⟨rfl, rfl⟩
      · simp [Instr.wf, h]
      · simp [Instr.wf]
    have hdecode := decode_plainWord (op := 0x20) rfl rfl (operandsOf_br cond xa xb disp) (Laws.RoundTrip.br ..) (by decide) (by decide) hwf
    rw [plainWord] at hdecode
    simpa only [Nat.add_assoc] using hdecode
  · intro xd xa imm
    have hdecode := decode_plainWord (op := 0x21) rfl rfl (operandsOf_jmpr xd xa imm) (Laws.RoundTrip.jmpr ..) (by decide) (by decide) rfl
    rw [plainWord] at hdecode
    simpa only [Nat.add_assoc] using hdecode
  · intro w hop hzero
    refine illegal_of_operands (by omega) fun c i hi => ?_
    rw [hop] at hi
    have hres := decJmpr_reserved (show decJmpr c _ = some i from hi)
    rw [field_operands w 16 12 (by decide)] at hres
    exact absurd hres hzero

open Sys2Proof Sys2Proof.Machine in
/-- Settles O3: each loop word goes through as `State.issue_loop` says. -/
theorem loops : Obligations.Loops := by
  unfold Obligations.Loops
  refine ⟨fun c xa body s hclear hclosing hlegal => ?_, fun c level body s hclear hclosing hlevel hlegal => ?_,
    fun c count body s hclear hclosing hlegal => ?_⟩
  · exact State.issue_loop hclear hclosing rfl hlegal fun j n => State.reg_pay ..
  · have hextra : (((s.seen c 0).cur.level level.toNat).extent != 0 && ((s.seen c 0).cur.level level.toNat).kind != 0) = false := by
      rcases hlevel with h | h
      · rw [h]; rfl
      · rw [h]; simp
    exact State.issue_loop hclear hclosing hextra hlegal fun j n => by rw [State.core_pay]; rfl
  · exact State.issue_loop hclear hclosing rfl hlegal fun j n => rfl

/-! PROOFS. What words do to vector queues and writes in flight (R61 to R65, R163 to R165). -/

namespace Sys2Proof.Machine

open Sys2Proof

/-! ### Queues and writes in flight -/

/-- The state with the issuing core's vector queues `Q` and its issuing context's writes in flight `F`. -/
def State.queued (v : State) (Q : Sparse QState) (F : List Flight) : State :=
  v.updCur fun k => (k.withQueues Q).updCtx v.who.ctx fun d => { d with flights := F }

/-- Queue `q` among the queues `Q`. -/
def queueOf (Q : Sparse QState) (q : Nat) : QState := (CoreSt.reset.withQueues Q).queue q

theorem CoreSt.queue_eq (k : CoreSt) (q : Nat) : k.queue q = queueOf k.qs q := rfl

theorem queueOf_put (Q : Sparse QState) (i q : Nat) (x : QState) : queueOf (Sparse.put Q i x) q = if q = i then x else queueOf Q q := by
  split
  · next h => rw [h]; exact CoreSt.queue_put_same (d := CoreSt.reset.withQueues Q) rfl
  · next h => exact CoreSt.queue_put_other (d := CoreSt.reset.withQueues Q) rfl h

theorem State.queued_self (v : State) : v.queued v.cur.qs v.me.flights = v.updCur fun k => k := by
  unfold State.queued
  refine State.updCur_congr ?_
  unfold State.me
  cases v.who.ctx <;> rfl

section

variable {v w : State} {m : Moved} {Q : Sparse QState} {F : List Flight}

/-- A word starts from the queues and flights that it finds. -/
theorem Moves.queued (h : Moves v w m) : Moves (v.queued v.cur.qs v.me.flights) w m := by
  refine ⟨?_, ?_⟩
  · obtain ⟨hdev, hcores⟩ := h.inside
    refine ⟨?_, fun k hk => ?_⟩
    · unfold State.queued
      generalize w.cores = cores at hdev
      rw [hdev]
      rfl
    · unfold State.queued State.updCur
      have hne : k ≠ v.k := hk
      rw [State.core_updCore_other _ _ _ _ hne]
      exact hcores k hne
  · rw [h.cur, State.queued_self, State.cur_updCur]
    rfl

theorem State.cur_queued (v : State) (Q : Sparse QState) (F : List Flight) :
    (v.queued Q F).cur = (v.cur.withQueues Q).updCtx v.who.ctx fun d => { d with flights := F } := State.cur_updCur ..

theorem State.qs_queued (v : State) (Q : Sparse QState) (F : List Flight) : (v.queued Q F).cur.qs = Q := by
  rw [State.cur_queued]
  cases v.who.ctx <;> rfl

theorem State.me_queued (v : State) (Q : Sparse QState) (F : List Flight) : (v.queued Q F).me = { v.me with flights := F } := by
  rw [State.me, State.cur_queued]
  exact CoreSt.ctx_updCtx_same ..

theorem Moves.qs (h : Moves u w m) : w.cur.qs = u.cur.qs := by rw [h.cur]; rfl

/-- A queue that is set. -/
theorem Moves.queued_setQueue (h : Moves (v.queued Q F) w m) (hst : m.starved = []) (i : Nat) (q : QState) :
    Moves (v.queued (Sparse.put Q i q) F) (w.updCur fun k => k.setQueue i q) m := by
  have hset := h.setQueue hst i q
  have hbase : ((v.queued Q F).updCur fun k => k.withQueues (Sparse.put k.qs i q)) = v.queued (Sparse.put Q i q) F := by
    unfold State.queued State.updCur
    refine (State.updCore_updCore ..).trans (congrArg (v.updCore v.k) (funext fun k => ?_))
    cases v.who.ctx <;> rfl
  rwa [hbase] at hset

/-- A write in flight more. -/
theorem Moves.queued_inFlight (h : Moves (v.queued Q F) w m) (hpc : m.pc = v.me.pc) (wid lat : Nat) (l : Landing) :
    Moves (v.queued Q (F ++ [⟨wid, m.icycle + lat, v.me.pc, v.wordAtPc, l⟩])) (w.inFlight wid lat l) m := by
  have hme := State.me_queued v Q F
  have hword : w.wordAtPc = v.wordAtPc := by
    refine (h.word (by rw [hpc, hme])).trans ?_
    unfold State.wordAtPc
    rw [hme, State.cur_queued]
    cases v.who.ctx <;> rfl
  have hflight : w.inFlight wid lat l = w.updMe fun d => { d with flights := F ++ [⟨wid, m.icycle + lat, v.me.pc, v.wordAtPc, l⟩] } := by
    unfold State.inFlight
    refine State.updMe_congr ?_
    rw [hword, h.me, CtxSt.moved_same, hme, hpc]
  have hland := h.updMe (fun d => { d with flights := F ++ [⟨wid, m.icycle + lat, v.me.pc, v.wordAtPc, l⟩] }) rfl
  have hbase : ((v.queued Q F).updMe fun d => { d with flights := F ++ [⟨wid, m.icycle + lat, v.me.pc, v.wordAtPc, l⟩] }) =
      v.queued Q (F ++ [⟨wid, m.icycle + lat, v.me.pc, v.wordAtPc, l⟩]) := by
    unfold State.queued State.updCur State.updMe State.updCtx
    refine (State.updCore_updCore ..).trans (congrArg (v.updCore v.k) (funext fun k => ?_))
    change ((k.withQueues Q).updCtx v.who.ctx _).updCtx v.who.ctx _ = _
    rw [CoreSt.updCtx_updCtx]
  rw [hflight, ← hbase]
  exact hland

end

/-! ### Pops -/

theorem sortedFrom_popsOf (vs : List VSrc) (u : Sparse Nat) (h : Sparse.sortedFrom 0 u = true) : Sparse.sortedFrom 0 (popsOf vs u) = true := by
  induction vs generalizing u with
  | nil => exact h
  | cons x vs ih =>
    unfold popsOf
    split
    · exact ih u h
    · exact ih _ (Sparse.sortedFrom_put h (Nat.zero_le _))

/-- A list with rising keys lists no key below its bound. -/
theorem Sparse.get_of_sortedFrom {α : Type} (d : α) {n j : Nat} {m : Sparse α} (h : Sparse.sortedFrom n m = true) (hj : j < n) :
    Sparse.get d m j = d := by
  induction m generalizing n with
  | nil => rfl
  | cons e r ih =>
    obtain ⟨k, x⟩ := e
    simp only [Sparse.sortedFrom, Bool.and_eq_true, decide_eq_true_eq] at h
    obtain ⟨hk, hr⟩ := h
    unfold Sparse.get
    rw [if_neg (by omega)]
    exact ih hr (by omega)

section

variable {v w : State} {m : Moved} {Q : Sparse QState} {F : List Flight}

/-- The pops of a list of queues. -/
theorem Moves.queued_pops (h : Moves (v.queued Q F) w m) (hst : m.starved = []) (l : Sparse Nat) (n : Nat)
    (hl : Sparse.sortedFrom n l = true) :
    ∃ Q', Moves (v.queued Q' F) (l.foldl (fun s e => s.updCur fun c =>
        let q := c.queue e.1
        c.setQueue e.1 { q with els := q.els.drop e.2 }) w) m ∧
      ∀ q, queueOf Q' q = { queueOf Q q with els := (queueOf Q q).els.drop (Sparse.get 0 l q) } := by
  induction l generalizing w Q n with
  | nil => exact ⟨Q, h, fun q => rfl⟩
  | cons e r ih =>
    obtain ⟨i, x⟩ := e
    simp only [Sparse.sortedFrom, Bool.and_eq_true, decide_eq_true_eq] at hl
    have hq : w.cur.queue i = queueOf Q i := by rw [CoreSt.queue_eq, h.qs, State.qs_queued]
    have hpop := h.queued_setQueue hst i { queueOf Q i with els := (queueOf Q i).els.drop x }
    rw [← hq] at hpop
    obtain ⟨Q', hmoves, hqueues⟩ := ih (w := w.updCur fun c =>
      let q := c.queue i
      c.setQueue i { q with els := q.els.drop x }) hpop (i + 1) hl.2
    refine ⟨Q', hmoves, fun q => ?_⟩
    rw [hqueues q, queueOf_put, hq]
    by_cases hqi : q = i
    · rw [if_pos hqi, hqi, Sparse.get_of_sortedFrom 0 hl.2 (Nat.lt_succ_self i), Sparse.get, if_pos rfl]
      rfl
    · rw [if_neg hqi, Sparse.get, if_neg (Ne.symm hqi)]

theorem Moves.queued_popSrcs (h : Moves (v.queued Q F) w m) (hst : m.starved = []) (vs : List VSrc) :
    ∃ Q', Moves (v.queued Q' F) (w.popSrcs vs) m ∧
      ∀ q, queueOf Q' q = { queueOf Q q with els := (queueOf Q q).els.drop (Sparse.get 0 (popsOf vs []) q) } :=
  h.queued_pops hst (popsOf vs []) 0 (sortedFrom_popsOf vs [] rfl)

end

/-! ### Pushes -/

/-- The elements that a word pushes, each with its place among them. -/
def pushedEls (wid : Nat) (l : List (Elem × Nat)) : List QEl := l.map fun e => ⟨e.1, wid * 64 + e.2, false, false, none⟩

/-- Their writes in flight. -/
def pushedFlights (v : State) (wid due : Nat) (vd : QName) (l : List (Elem × Nat)) : List Flight :=
  l.map fun e => ⟨wid, due + e.2, v.me.pc, v.wordAtPc, .push vd.toNat (wid * 64 + e.2)⟩

section

variable {v w : State} {m : Moved} {Q : Sparse QState} {F : List Flight}

theorem Moves.queued_pushes (h : Moves (v.queued Q F) w m) (hst : m.starved = []) (hpc : m.pc = v.me.pc) (wid lat : Nat) {vd : QName}
    (hvd : vd ≠ vnull) (l : List (Elem × Nat)) :
    ∃ Q', Moves (v.queued Q' (F ++ pushedFlights v wid (m.icycle + lat) vd l)) (l.foldl (fun s e => s.pushOne wid lat e.2 vd e.1) w) m ∧
      ∀ q, queueOf Q' q = { queueOf Q q with els := (queueOf Q q).els ++ if q = vd.toNat then pushedEls wid l else [] } := by
  induction l generalizing w Q F with
  | nil => exact ⟨Q, by rw [pushedFlights, List.map_nil, List.append_nil]; exact h, fun q => by simp [pushedEls]⟩
  | cons e r ih =>
    have hq : w.cur.queue vd.toNat = queueOf Q vd.toNat := by rw [CoreSt.queue_eq, h.qs, State.qs_queued]
    have hpush := h.queued_setQueue hst vd.toNat { queueOf Q vd.toNat with
      els := (queueOf Q vd.toNat).els ++ [⟨e.1, wid * 64 + e.2, false, false, none⟩] }
    rw [← hq] at hpush
    have hone : w.pushOne wid lat e.2 vd e.1 = (w.updCur fun c => c.setQueue vd.toNat { w.cur.queue vd.toNat with
        els := (w.cur.queue vd.toNat).els ++ [⟨e.1, wid * 64 + e.2, false, false, none⟩] }).inFlight wid (lat + e.2)
          (.push vd.toNat (wid * 64 + e.2)) := if_neg hvd
    obtain ⟨Q', hmoves, hqueues⟩ := ih (w := w.pushOne wid lat e.2 vd e.1) (by
      rw [hone]; exact hpush.queued_inFlight hpc wid (lat + e.2) (.push vd.toNat (wid * 64 + e.2)))
    refine ⟨Q', ?_, fun q => ?_⟩
    · rw [List.append_assoc, ← Nat.add_assoc] at hmoves
      exact hmoves
    · rw [hqueues q, queueOf_put, hq]
      by_cases hqv : q = vd.toNat
      · simp [hqv, pushedEls]
      · simp [hqv]

theorem zip_range {es : List Elem} {β : Type} (g : Elem × Nat → β) :
    (es.zip (List.range es.length)).map g = (List.range es.length).map fun j => g (es.getD j 0, j) := by
  refine List.ext_getElem (by simp) fun i h1 h2 => ?_
  have hi : i < es.length := by simpa using h2
  simp [hi]

theorem Moves.queued_pushAll (h : Moves (v.queued Q F) w m) (hst : m.starved = []) (hpc : m.pc = v.me.pc) (wid lat : Nat) (vd : QName)
    (es : List Elem) :
    ∃ Q', Moves (v.queued Q' (F ++ if vd = vnull then [] else (List.range es.length).map fun j =>
        ⟨wid, m.icycle + (lat + j), v.me.pc, v.wordAtPc, .push vd.toNat (wid * 64 + j)⟩)) (w.pushAll wid lat vd es) m ∧
      ∀ q, queueOf Q' q = { queueOf Q q with els := (queueOf Q q).els ++
        if q = vd.toNat ∧ vd ≠ vnull then (List.range es.length).map fun j => ⟨es.getD j 0, wid * 64 + j, false, false, none⟩ else [] } := by
  by_cases hvd : vd = vnull
  · have hnone : w.pushAll wid lat vd es = w := by
      unfold State.pushAll
      generalize es.zip (List.range es.length) = l
      induction l with
      | nil => rfl
      | cons e r ih => rw [List.foldl_cons, State.pushOne, if_pos hvd]; exact ih
    refine ⟨Q, ?_, fun q => ?_⟩
    · rw [hnone, if_pos hvd, List.append_nil]; exact h
    · rw [if_neg (by simp [hvd]), List.append_nil]
  · obtain ⟨Q', hmoves, hqueues⟩ := h.queued_pushes hst hpc wid lat hvd (es.zip (List.range es.length))
    refine ⟨Q', ?_, fun q => ?_⟩
    · rw [if_neg hvd]
      rw [pushedFlights, zip_range] at hmoves
      simp only [Nat.add_assoc] at hmoves
      exact hmoves
    · rw [hqueues q, pushedEls, zip_range]
      simp only [hvd, ne_eq, not_false_eq_true, and_true]

theorem Moves.queued_owe (h : Moves (v.queued Q F) w m) (hpc : m.pc = v.me.pc) (wid lat : Nat) (f : BitVec 3) :
    Moves (v.queued Q (F ++ if f = 0 then [] else [⟨wid, m.icycle + lat, v.me.pc, v.wordAtPc, .flags f⟩])) (w.owe wid lat f) m := by
  unfold State.owe
  split
  · rw [List.append_nil]; exact h
  · exact h.queued_inFlight hpc wid lat (.flags f)

end

/-! ### What a word of X leaves -/

/-- Nothing changes but the queues and the writes in flight. -/
theorem Within.queued (v : State) (Q : Sparse QState) (F : List Flight) : Within v (v.queued Q F) keepButQueues keepButFlights := by
  have hqs := (Within.refl v).vectorQueues Q
  have h := hqs.updMe (ctx' := keepButFlights) (fun d => { d with flights := F }) (fun _ _ x _ => by cases x <;> rfl) rfl (by rw [hqs.me]; rfl)
  have hbase : ((v.updCur fun k => k.withQueues Q).updMe fun d => { d with flights := F }) = v.queued Q F := by
    unfold State.queued State.updCur State.updMe State.updCtx
    exact State.updCore_updCore ..
  rwa [hbase] at h

/-- A word whose effect is on vector queues and writes in flight goes through. -/
theorem State.commit_queued {v w : State} {c : Ctl} {j : Issue} {n : Nat} {Q : Sparse QState} {F : List Flight} {es : List Elem} {srcs : List VSrc}
    {vd : QName} (h : Moves (v.queued Q F) w (v.paid c j n)) (hw : j.effect v.cur.nextId (v.pay c j n) = w)
    (hQ : ∀ q, queueOf Q q = { v.cur.queue q with
      els := (v.cur.queue q).els.drop (Sparse.get 0 (popsOf srcs []) q) ++ if q = vd.toNat ∧ vd ≠ vnull then
        (List.range es.length).map fun j => ⟨es.getD j 0, v.cur.nextId * 64 + j, false, false, none⟩ else [] })
    (hbr : j.branch = false) (hgo : j.goes = false) (hhold : j.hold = false) (heng : j.engine = false) :
    Through v (v.commit c j n) c j.tki false keepButQueues keepButFlights ∧ QueuesBy v (v.commit c j n) srcs vd es ∧
      (v.commit c j n).me.flights = F ∧ (v.commit c j n).me.icycle = n := by
  have hwithin := Within.queued v Q F
  obtain ⟨m, hm, hcycle, hthrough⟩ := h.passes hwithin.steady hw hbr hgo
  rw [hhold, heng] at hthrough
  refine ⟨hwithin.through hm hthrough (fun _ _ _ _ => rfl) (fun _ _ _ _ _ => rfl), fun q => ?_, ?_, ?_⟩
  · rw [CoreSt.queue_eq, hm.qs, State.qs_queued]
    exact hQ q
  · rw [hm.me, State.me_queued]; rfl
  · rw [hm.me, CtxSt.moved_same]; exact hcycle

end Sys2Proof.Machine

/-! PROOFS. Vector words (R165 to R185). -/

namespace Sys2Proof.Machine

open Sys2Proof

section

variable {v w : State} {m : Moved}

theorem Moves.flights (h : Moves v w m) : w.me.flights = v.me.flights := by rw [h.me]; rfl

theorem CoreSt.takeSrcs_of_qs {c d : CoreSt} (h : d.qs = c.qs) (vs : List VSrc) (u : Sparse Nat) : d.takeSrcs vs u = c.takeSrcs vs u := by
  induction vs generalizing u with
  | nil => rfl
  | cons x vs ih => simp only [CoreSt.takeSrcs, CoreSt.queue_eq, h, ih]

theorem Moves.srcElems (h : Moves v w m) (vs : List VSrc) : w.srcElems vs = v.srcElems vs := by
  unfold State.srcElems
  rw [CoreSt.takeSrcs_of_qs h.qs]

end

/-- A word that pops its operands, pushes elements and owes flags. -/
theorem State.commit_vector {v : State} {c : Ctl} {j : Issue} {n lat last : Nat} {vs : List VSrc} {vd : QName} {es : List Elem} {f : BitVec 3}
    (heffect : j.effect v.cur.nextId (v.pay c j n) =
      (((v.pay c j n).popSrcs vs).pushAll v.cur.nextId lat vd es).owe v.cur.nextId last f)
    (hbr : j.branch = false) (hgo : j.goes = false) (hhold : j.hold = false) (heng : j.engine = false) :
    Through v (v.commit c j n) c j.tki false keepButQueues keepButFlights ∧ QueuesBy v (v.commit c j n) vs vd es ∧
      (v.commit c j n).me.flights = v.me.flights ++ pushFlights v (v.commit c j n) lat vd es ++
        (if f = 0 then [] else [flightOf v (v.commit c j n) last (.flags f)]) := by
  have hst := State.starved_paid v c j n
  have hpc := State.pc_paid v c j n
  obtain ⟨Q₁, hpop, hQ₁⟩ := (State.moves_pay v c j n).queued.queued_popSrcs hst vs
  obtain ⟨Q₂, hpush, hQ₂⟩ := hpop.queued_pushAll hst hpc v.cur.nextId lat vd es
  obtain ⟨hthrough, hqueues, hflights, hcycle⟩ := State.commit_queued (hpush.queued_owe hpc v.cur.nextId last f) heffect
    (srcs := vs) (vd := vd) (es := es) (fun q => by rw [hQ₂, hQ₁]; rfl) hbr hgo hhold heng
  refine ⟨hthrough, hqueues, hflights.trans ?_⟩
  unfold pushFlights flightOf
  rw [hcycle, State.icycle_paid]

/-- A vector word whose operands are there and whose destination has room goes through. -/
theorem State.issue_vector {i : Instr} {s : State} {lat pushes : Nat} {vs : List VSrc} {vd : QName}
    {f : State → List (List Elem) → List Elem × BitVec 3} {r : List Elem × BitVec 3} {j : Issue} (uses reads : List Reg)
    (hj : j = { vword lat vs vd pushes f with uses := uses, reads := reads })
    (hclear : s.clear (ctlOf i) 1 [] uses = true) (hx : s.who.ctx = .X) (hread : CanRead (s.seen (ctlOf i) 1) vs)
    (hdst : (s.seen (ctlOf i) 1).dstTrap vd pushes vs = none)
    (hf : ∀ n, f ((s.seen (ctlOf i) 1).pay (ctlOf i) j n) ((s.seen (ctlOf i) 1).srcElems vs) = r) :
    ∃ t, s.issue i j = .next t ∧ Through (s.seen (ctlOf i) 1) t (ctlOf i) [] false keepButQueues keepButFlights ∧
      QueuesBy (s.seen (ctlOf i) 1) t vs vd r.1 ∧
      t.me.flights = (s.seen (ctlOf i) 1).me.flights ++ pushFlights (s.seen (ctlOf i) 1) t lat vd r.1 ++
        (if r.2 = 0 then [] else [flightOf (s.seen (ctlOf i) 1) t (lat + (pushes - 1)) (.flags r.2)]) := by
  obtain ⟨hovf, htrap, hwait, hlost⟩ := hread
  have hcheck : ((s.seen (ctlOf i) 1).srcTrap vs).or ((s.seen (ctlOf i) 1).dstTrap vd pushes vs) = none := by rw [htrap, hdst]; rfl
  have heffect (n : Nat) : j.effect (s.seen (ctlOf i) 1).cur.nextId ((s.seen (ctlOf i) 1).pay (ctlOf i) j n) =
      ((((s.seen (ctlOf i) 1).pay (ctlOf i) j n).popSrcs vs).pushAll (s.seen (ctlOf i) 1).cur.nextId lat vd r.1).owe
        (s.seen (ctlOf i) 1).cur.nextId (lat + (pushes - 1)) r.2 := by
    rw [← hf n, ← (State.moves_pay (s.seen (ctlOf i) 1) (ctlOf i) j n).srcElems vs]
    generalize (s.seen (ctlOf i) 1).pay (ctlOf i) j n = w
    rw [hj]
    rfl
  have hunit : j.unit = 1 := by rw [hj]; rfl
  have hgoes := s.issue_goes i j (by rw [hj]; exact hclear) (by rw [hj, hx]; rfl) (by rw [hj]; nofun) (by rw [hj]; exact hovf)
    (by rw [hj]; nofun) (by rw [hj]; nofun) (by rw [hj]; exact hcheck) (by rw [hj]; rfl) (by rw [hj]; exact hwait)
    (by rw [hj]; exact hlost)
  rw [hunit] at hgoes
  have htki : j.tki = [] := by rw [hj]; rfl
  have hcommit := State.commit_vector (heffect (s.me.nextCycle (ctlOf i) 1)) (by rw [hj]; rfl) (by rw [hj]; rfl) (by rw [hj]; rfl) (by rw [hj]; rfl)
  rw [htki] at hcommit
  exact ⟨_, hgoes, hcommit⟩

/-- What O18 says of a word. -/
def VectorGoes (i : Instr) (s : State) (j : Issue) (a : VectorWord) : Prop :=
  ∃ t, s.issue i j = .next t ∧ Through (s.seen (ctlOf i) 1) t (ctlOf i) [] false keepButQueues keepButFlights ∧
    QueuesBy (s.seen (ctlOf i) 1) t a.srcs a.vd (a.value ((s.seen (ctlOf i) 1).srcElems a.srcs)).1 ∧
    t.me.flights = (s.seen (ctlOf i) 1).me.flights ++
      pushFlights (s.seen (ctlOf i) 1) t a.lat a.vd (a.value ((s.seen (ctlOf i) 1).srcElems a.srcs)).1 ++
      (if (a.value ((s.seen (ctlOf i) 1).srcElems a.srcs)).2 = 0 then [] else
        [flightOf (s.seen (ctlOf i) 1) t (a.lat + (a.pushes - 1)) (.flags (a.value ((s.seen (ctlOf i) 1).srcElems a.srcs)).2)])

section

variable {i : Instr} {s : State} {lat : Nat}

theorem State.issue_v2word {v : V2} {f : Elem → Elem × BitVec 3} (hclear : s.clear (ctlOf i) 1 [] [] = true) (hx : s.who.ctx = .X)
    (hread : CanRead (s.seen (ctlOf i) 1) (v2srcs v)) (hdst : (s.seen (ctlOf i) 1).dstTrap v.vd 1 (v2srcs v) = none) :
    VectorGoes i s (v2word lat v f) (vector2 lat v f) :=
  State.issue_vector (f := fun _ => (vector2 lat v f).value) [] [] rfl hclear hx hread hdst fun _ => rfl

theorem State.issue_v3word {v : V3} {f : Elem → Elem → Elem × BitVec 3} (hclear : s.clear (ctlOf i) 1 [] [] = true) (hx : s.who.ctx = .X)
    (hread : CanRead (s.seen (ctlOf i) 1) (v3srcs v)) (hdst : (s.seen (ctlOf i) 1).dstTrap v.vd 1 (v3srcs v) = none) :
    VectorGoes i s (v3word lat v f) (vector3 lat v f) :=
  State.issue_vector (f := fun _ => (vector3 lat v f).value) [] [] rfl hclear hx hread hdst fun _ => rfl

theorem State.issue_v4word {v : V4} {f : Elem → Elem → Elem → Elem × BitVec 3} (hclear : s.clear (ctlOf i) 1 [] [] = true)
    (hx : s.who.ctx = .X) (hread : CanRead (s.seen (ctlOf i) 1) (v4srcs v)) (hdst : (s.seen (ctlOf i) 1).dstTrap v.vd 1 (v4srcs v) = none) :
    VectorGoes i s (v4word lat v f) (vector4 lat v f) :=
  State.issue_vector (f := fun _ => (vector4 lat v f).value) [] [] rfl hclear hx hread hdst fun _ => rfl

end

end Sys2Proof.Machine

open Sys2Proof Sys2Proof.Machine in
/-- Settles O18: each vector word issues as `State.issue_vector` says. -/
theorem vectorWords : Obligations.VectorWords := by
  unfold Obligations.VectorWords
  intro i s a ha hclear hx hread hdst
  cases i
  case vact c v ty fn =>
    cases fn <;> cases ha
    case swiglu | geglu => exact State.issue_v3word hclear hx hread hdst
    all_goals exact State.issue_v2word hclear hx hread hdst
  all_goals cases ha
  case vsplatReg c vd ty xa =>
    refine State.issue_vector [xa] [xa] rfl hclear hx hread hdst fun n => ?_
    dsimp only
    rw [State.reg_pay]
  case vsplatImm c vd ty imm =>
    exact State.issue_vector (f := fun _ _ =>
      ([(ofLaneList ty.bits (List.replicate (lanesOf ty) (splatLane ty imm))).1], (ofLaneList ty.bits (List.replicate (lanesOf ty) (splatLane ty imm))).2))
      [] [] rfl hclear hx hread hdst fun _ => rfl
  case vcvt c v src dst rm sat =>
    exact State.issue_vector (f := fun _ es => cvtAll src dst rm sat (max 1 (dst.bits / src.bits)) (es.getD 0 [])) [] [] rfl hclear hx
      hread hdst fun _ => rfl
  case vfmaFp32 | vfmaBf16 | vfmaFp16 | vsel32 | vsel16 | vsel8 | vrmsnFp32 | vrmsnBf16 => exact State.issue_v4word hclear hx hread hdst
  case vabs | vneg | vaddi | vmuli | vredm | vsortcOrder | vspselMask | vspselMeta | vspselPack | vexp | vexp2 | vrcp | vrsq | vmov =>
    exact State.issue_v2word hclear hx hread hdst
  all_goals exact State.issue_v3word hclear hx hread hdst

/-! PROOFS. Scratch moves and exact accumulators (R186 to R189). -/

namespace Sys2Proof.Machine

open Sys2Proof

/-- One scratch write of X performed. -/
def CoreSt.scratchStep (c : CoreSt) (f : Flight) : CoreSt :=
  match f.land with
  | .scratch off e =>
    { c with sp := c.sp.setBytes off (elemBytes e), spBad := c.spBad.filter fun b => b < off / 64 || off / 64 + 8 ≤ b }
  | _ => c

theorem CoreSt.withScratch_eq (c : CoreSt) : c.withScratch = c.cX.flights.foldl CoreSt.scratchStep c := by
  unfold CoreSt.withScratch
  rfl

/-- X's scratch writes are performed on the bytes of the core alone. -/
theorem CoreSt.withScratch_moved (c : CoreSt) (x : Ctx) (m : Moved) : (c.moved x m).withScratch = c.withScratch.moved x m := by
  rw [CoreSt.withScratch_eq, CoreSt.withScratch_eq]
  change List.foldl _ (c.moved x m) c.cX.flights = _
  generalize c.cX.flights = l
  induction l generalizing c with
  | nil => rfl
  | cons f r ih =>
    have hstep : CoreSt.scratchStep (c.moved x m) f = (CoreSt.scratchStep c f).moved x m := by
      unfold CoreSt.scratchStep
      cases f.land with
      | scratch off e =>
        dsimp only
        generalize elemBytes e = bs
        rfl
      | _ => rfl
    rw [List.foldl_cons, List.foldl_cons, ← ih]
    exact congrArg (fun k => List.foldl CoreSt.scratchStep k r) hstep

section

variable {v : State} {c : Ctl} {j : Issue} {n : Nat}

theorem State.withScratch_pay (v : State) (c : Ctl) (j : Issue) (n : Nat) : (v.pay c j n).cur.withScratch.sp = v.cur.withScratch.sp := by
  rw [(State.moves_pay v c j n).cur, CoreSt.withScratch_moved]
  rfl

theorem State.scratchOff_pay (v : State) (c : Ctl) (j : Issue) (n : Nat) (xa : Reg) (imm : BitVec 15) :
    scratchOff (v.pay c j n) xa imm = scratchOff v xa imm := by
  unfold scratchOff
  rw [State.reg_pay]

theorem State.srcElems_pay (v : State) (c : Ctl) (j : Issue) (n : Nat) (vs : List VSrc) : (v.pay c j n).srcElems vs = v.srcElems vs :=
  (State.moves_pay v c j n).srcElems vs

/-- A word that pops its operands and has one write in flight. -/
theorem State.commit_popLand {lat : Nat} {vs : List VSrc} {l : Landing}
    (heffect : j.effect v.cur.nextId (v.pay c j n) = ((v.pay c j n).popSrcs vs).inFlight v.cur.nextId lat l)
    (hbr : j.branch = false) (hgo : j.goes = false) (hhold : j.hold = false) (heng : j.engine = false) :
    Through v (v.commit c j n) c j.tki false keepButQueues keepButFlights ∧ QueuesBy v (v.commit c j n) vs vnull [] ∧
      (v.commit c j n).me.flights = v.me.flights ++ [flightOf v (v.commit c j n) lat l] := by
  obtain ⟨Q, hpop, hQ⟩ := (State.moves_pay v c j n).queued.queued_popSrcs (State.starved_paid v c j n) vs
  obtain ⟨hthrough, hqueues, hflights, hcycle⟩ := State.commit_queued
    (hpop.queued_inFlight (State.pc_paid v c j n) v.cur.nextId lat l) heffect (srcs := vs) (vd := vnull) (es := [])
    (fun q => by rw [hQ, if_neg (by simp), List.append_nil]; rfl) hbr hgo hhold heng
  refine ⟨hthrough, hqueues, hflights.trans ?_⟩
  rw [flightOf, hcycle, State.icycle_paid]

/-- A word that pushes one element after the writes in flight `F`. -/
theorem State.commit_pushOne {w : State} {F : List Flight} {lat : Nat} {vd : QName} {e : Elem}
    (h : Moves (v.queued v.cur.qs F) w (v.paid c j n)) (heffect : j.effect v.cur.nextId (v.pay c j n) = w.pushOne v.cur.nextId lat 0 vd e)
    (hbr : j.branch = false) (hgo : j.goes = false) (hhold : j.hold = false) (heng : j.engine = false) :
    Through v (v.commit c j n) c j.tki false keepButQueues keepButFlights ∧ QueuesBy v (v.commit c j n) [] vd [e] ∧
      (v.commit c j n).me.flights = F ++ pushFlights v (v.commit c j n) lat vd [0] ∧ (v.commit c j n).me.icycle = n := by
  obtain ⟨Q, hpush, hQ⟩ := h.queued_pushAll (State.starved_paid v c j n) (State.pc_paid v c j n) v.cur.nextId lat vd [e]
  obtain ⟨hthrough, hqueues, hflights, hcycle⟩ := State.commit_queued hpush heffect (srcs := []) (vd := vd) (es := [e])
    (fun q => by rw [hQ]; rfl) hbr hgo hhold heng
  refine ⟨hthrough, hqueues, hflights.trans ?_, hcycle⟩
  unfold pushFlights flightOf
  rw [hcycle, State.icycle_paid]
  rfl

/-- A word that reads, with a write in flight before what it pushes where it clears. -/
theorem State.commit_exrd {lat : Nat} {vd : QName} {e : Elem} {clr : Bool} {l : Landing}
    (heffect : j.effect v.cur.nextId (v.pay c j n) =
      (if clr then (v.pay c j n).inFlight v.cur.nextId 0 l else v.pay c j n).pushOne v.cur.nextId lat 0 vd e)
    (hbr : j.branch = false) (hgo : j.goes = false) (hhold : j.hold = false) (heng : j.engine = false) :
    Through v (v.commit c j n) c j.tki false keepButQueues keepButFlights ∧ QueuesBy v (v.commit c j n) [] vd [e] ∧
      (v.commit c j n).me.flights = v.me.flights ++ (if clr then [flightOf v (v.commit c j n) 0 l] else []) ++
        pushFlights v (v.commit c j n) lat vd [0] := by
  have hstart : Moves (v.queued v.cur.qs (v.me.flights ++ if clr then [⟨v.cur.nextId, n + 0, v.me.pc, v.wordAtPc, l⟩] else []))
      (if clr then (v.pay c j n).inFlight v.cur.nextId 0 l else v.pay c j n) (v.paid c j n) := by
    split
    · have h := (State.moves_pay v c j n).queued.queued_inFlight (State.pc_paid v c j n) v.cur.nextId 0 l
      rwa [State.icycle_paid] at h
    · rw [List.append_nil]
      exact (State.moves_pay v c j n).queued
  obtain ⟨hthrough, hqueues, hflights, hcycle⟩ := State.commit_pushOne hstart heffect hbr hgo hhold heng
  refine ⟨hthrough, hqueues, hflights.trans ?_⟩
  unfold flightOf
  rw [hcycle]

/-- A word that has one write in flight, and no other effect. -/
theorem State.commit_land {lat : Nat} {l : Landing}
    (heffect : j.effect v.cur.nextId (v.pay c j n) = (v.pay c j n).inFlight v.cur.nextId lat l)
    (hbr : j.branch = false) (hgo : j.goes = false) (hhold : j.hold = false) (heng : j.engine = false) :
    Through v (v.commit c j n) c j.tki false keep keepButFlights ∧
      (v.commit c j n).me.flights = v.me.flights ++ [flightOf v (v.commit c j n) lat l] := by
  have hmoves := (State.moves_pay v c j n).updMe
    (fun d => { d with flights := d.flights ++ [⟨v.cur.nextId, n + lat, v.me.pc, v.wordAtPc, l⟩] }) rfl
  have hflight : j.effect v.cur.nextId (v.pay c j n) = (v.pay c j n).updMe
      fun d => { d with flights := d.flights ++ [⟨v.cur.nextId, n + lat, v.me.pc, v.wordAtPc, l⟩] } := by
    rw [heffect]
    refine State.updMe_congr ?_
    rw [State.wordAtPc_pay, State.me_pay]
  have hwithin := (Within.refl v).updMe (ctx' := keepButFlights)
    (fun d => { d with flights := d.flights ++ [⟨v.cur.nextId, n + lat, v.me.pc, v.wordAtPc, l⟩] }) (fun _ _ _ _ => rfl) rfl rfl
  obtain ⟨m, hm, hcycle, hthrough⟩ := hmoves.passes hwithin.steady hflight hbr hgo
  rw [hhold, heng] at hthrough
  refine ⟨hwithin.through hm hthrough (fun _ _ _ _ => rfl) (fun _ _ _ _ _ => rfl), ?_⟩
  rw [flightOf, hm.me, State.me_updMe, CtxSt.moved_same, hcycle]

end

/-- EXADD and EXADD.L go through. -/
theorem State.issue_exadd {i : Instr} {s : State} {ty : ETy} {va : QName} {pa : Bool} {d : Nat} {len : Option Nat}
    (hclear : s.clear (ctlOf i) 1 [] [] = true) (hx : s.who.ctx = .X) (hread : CanRead (s.seen (ctlOf i) 1) [{ q := va, peek := pa }]) :
    ∃ t, s.issue i (exaddIssue ty va pa d len) = .next t ∧ Through (s.seen (ctlOf i) 1) t (ctlOf i) [] false keepButQueues keepButFlights ∧
      QueuesBy (s.seen (ctlOf i) 1) t [{ q := va, peek := pa }] vnull [] ∧
      t.me.flights = (s.seen (ctlOf i) 1).me.flights ++ [flightOf (s.seen (ctlOf i) 1) t 4 (.exAdd (exAdds ty
        ((((s.seen (ctlOf i) 1).srcElems [{ q := va, peek := pa }]).getD 0 []).getD 0 0) d len))] := by
  obtain ⟨hovf, htrap, hwait, hlost⟩ := hread
  refine ⟨_, s.issue_goes i (exaddIssue ty va pa d len) hclear (by rw [hx]; rfl) nofun hovf nofun nofun
    ((congrArg (Option.or · _) htrap).trans rfl) rfl hwait hlost, State.commit_popLand ?_ rfl rfl rfl rfl⟩
  unfold exaddIssue
  dsimp only
  rw [State.srcElems_pay]
  rfl

end Sys2Proof.Machine

open Sys2Proof Sys2Proof.Machine in
/-- Settles O21: each word pops or pushes, and has writes in flight. -/
theorem scratchAndExactWords : Obligations.ScratchAndExactWords := by
  unfold Obligations.ScratchAndExactWords
  refine ⟨?_, ?_, ?_, ?_, ?_, ?_, ?_⟩
  · intro c vd xa imm s hclear hx hgenq hscratch hdst hlost
    have hcheck : (scratchTrap (scratchOff (s.seen c 1) xa imm)).or ((s.seen c 1).dstTrap vd 1 []) = none := by rw [hscratch, hdst]; rfl
    have hempty : (s.seen c 1).cur.genq.isEmpty = true := by rw [hgenq]; rfl
    refine ⟨_, s.issue_goes _ _ hclear (by rw [hx]; rfl) nofun rfl nofun nofun hcheck rfl (congrArg Wait.need hempty)
      (if_neg (ne_true_of_eq_false hlost)), ?_⟩
    refine (State.commit_pushOne (State.moves_pay ..).queued ?_ rfl rfl rfl rfl).imp id (And.imp id And.left)
    dsimp only
    rw [State.withScratch_pay, State.scratchOff_pay]
  · intro c va pa xa imm s hclear hx hgenq hscratch hwindow hread
    obtain ⟨hovf, htrap, hwait, hlost⟩ := hread
    have hcheck : ((scratchTrap (scratchOff (s.seen c 1) xa imm)).or
        (if (s.seen c 1).cur.meetsWindow (scratchOff (s.seen c 1) xa imm) 512 then
          some { cause := .prot, addr := w64 (scratchOff (s.seen c 1) xa imm) } else none)).or
        ((s.seen c 1).srcTrap [{ q := va, peek := pa }]) = none := by
      rw [hscratch, hwindow, htrap]; rfl
    have hgo : ((s.seen c 1).srcWait [{ q := va, peek := pa }]).and (.need (s.seen c 1).cur.genq.isEmpty) = .go := by
      rw [hwait, hgenq]; rfl
    refine ⟨_, s.issue_goes _ _ hclear (by rw [hx]; rfl) nofun hovf nofun nofun hcheck rfl hgo hlost, State.commit_popLand ?_ rfl rfl rfl rfl⟩
    dsimp only
    rw [State.scratchOff_pay, State.srcElems_pay]
    rfl
  · intro c xd vn s hclear hx
    refine ⟨_, s.issue_goes _ _ hclear (by rw [hx]; rfl) nofun rfl nofun nofun rfl rfl rfl rfl, State.commit_resultOnly ?_ rfl rfl rfl rfl⟩
    dsimp only
    rw [(State.moves_pay (s.seen c 1) _ _ _).cur]
    rfl
  · exact fun c d va pa ty s hclear hx hread => State.issue_exadd hclear hx hread
  · exact fun c d va len1 pa ty s hclear hx hread => State.issue_exadd hclear hx hread
  · intro c vd a len1 clr s hclear hx hdst htouch hbad
    have hwait : (if !(s.seen c 1).me.exposed && (s.seen c 1).me.flights.any (fun f => f.touches a.toNat (len1.toNat + 1)) then Wait.hold
        else .go) = .go := by
      refine if_neg ?_
      cases hexp : (s.seen c 1).me.exposed
      · simp [htouch hexp]
      · simp
    have hlate : (if (List.range (len1.toNat + 1)).any fun i => ((s.seen c 1).cur.exa (a.toNat + i)).bad then
        some ({ cause := .eccu, info := 6 } : Trap) else none) = none := by
      refine if_neg ?_
      simp only [List.any_eq_true, List.mem_range, not_exists, not_and]
      exact fun i hi => ne_true_of_eq_false (hbad i (Nat.le_of_lt_succ hi))
    refine ⟨_, s.issue_goes _ _ hclear (by rw [hx]; rfl) nofun rfl nofun nofun hdst rfl hwait hlate, ?_⟩
    refine State.commit_exrd (l := .exClr a.toNat (len1.toNat + 1)) (clr := clr) ?_ rfl rfl rfl rfl
    dsimp only
    rw [(State.moves_pay (s.seen c 1) _ _ _).cur]
    rfl
  · intro c a len1 s hclear hx
    exact ⟨_, s.issue_goes _ _ hclear (by rw [hx]; rfl) nofun rfl nofun nofun rfl rfl rfl rfl, State.commit_land rfl rfl rfl rfl rfl⟩

/-! PROOFS. Words that enter the engine queue and the ladder queue (R192, R206 to R216, R263). -/

namespace Sys2Proof.Machine

open Sys2Proof

section

variable {v : State} {c : Ctl} {j : Issue} {n : Nat}

/-- A word whose effect is a change of the core outside its contexts goes through. -/
theorem State.commit_core {f : CoreSt → CoreSt} {held : Bool} (hmoved : ∀ m, f (v.cur.moved v.who.ctx m) = (f v.cur).moved v.who.ctx m)
    (hf : f v.cur = { f v.cur with
      cL := v.cur.cL, cX := v.cur.cX, cS := v.cur.cS, tks := v.cur.tks, nextId := v.cur.nextId, starved := v.cur.starved, sp := v.cur.sp })
    (heffect : j.effect v.cur.nextId (v.pay c j n) = (v.pay c j n).updCur f)
    (hbr : j.branch = false) (hgo : j.goes = false) (hheld : ∀ s, (j.hold && j.holdIf s) = held) :
    Through (v.updCur f) (v.commit c j n) c j.tki held keep keep j.engine := by
  have hwithin := (Within.refl v).updCur (core' := fun _ b => b) f hf (by
    generalize f v.cur = d at hf ⊢
    rw [hf])
  obtain ⟨m, -, -, hthrough⟩ := ((State.moves_pay v c j n).updCur f (hmoved _)).passes hwithin.steady heffect hbr hgo
  rwa [hheld] at hthrough

theorem State.groups_pay (v : State) (c : Ctl) (j : Issue) (n : Nat) (nest : BitVec 512) (x : Nat) :
    (v.pay c j n).groups nest x = v.groups nest x := by
  unfold State.groups State.groupRaw
  rw [State.withScratch_pay]

/-- A command for the engine queue does not depend on the control fields. -/
theorem State.matCmd_pay (v : State) (c : Ctl) (j : Issue) (n wid : Nat) (op : MatOp) (acc : Nat) :
    (v.pay c j n).matCmd wid op acc = v.matCmd wid op acc := by
  unfold State.matCmd
  rw [State.wordAtPc_pay, State.me_pay, (State.moves_pay v c j n).cur]
  rfl

theorem State.nestSlot_pay (v : State) (c : Ctl) (j : Issue) (n x : Nat) : (v.pay c j n).cur.nestSlot x = v.cur.nestSlot x := by
  rw [(State.moves_pay v c j n).cur]
  rfl

theorem State.tile_pay (v : State) (c : Ctl) (j : Issue) (n x : Nat) : (v.pay c j n).cur.tile x = v.cur.tile x := by
  rw [(State.moves_pay v c j n).cur]
  rfl

theorem State.fqWord_pay (v : State) (c : Ctl) (j : Issue) (n : Nat) :
    (v.pay c j n).cur.fqWord (v.pay c j n).cur.claimed = v.cur.fqWord v.cur.claimed := by
  rw [(State.moves_pay v c j n).cur]
  rfl

theorem State.tgoGroups_pay (v : State) (c : Ctl) (j : Issue) (n : Nat) (op : MatOp) (w : Tile) :
    (v.pay c j n).tgoGroups op w = v.tgoGroups op w := by
  unfold State.tgoGroups
  cases op <;> dsimp only
  rw [State.groups_pay, State.nestSlot_pay, State.reg_pay]

end

/-- A tile command whose checks let it through issues. -/
theorem State.issue_tgo {s : State} {i : Instr} {op : MatOp} {w : Tile} (hclear : s.clear (ctlOf i) 2 [] [w.xm, w.xn, w.xk] = true)
    (hx : s.who.ctx = .X) (htrap : (s.seen (ctlOf i) 2).tgoTrap op w = none) (hordered : (s.seen (ctlOf i) 2).tgoOrdered op w = none)
    (hready : accumReady (s.seen (ctlOf i) 2) w)
    (hlost : op = .tgoG → (s.seen (ctlOf i) 2).cur.withScratch.spLost (nestGtab ((s.seen (ctlOf i) 2).cur.nestSlot w.nest.toNat))
      (8 * ((s.seen (ctlOf i) 2).reg w.xm).toNat) = false) :
    ∃ t, s.issue i (tgoIssue op w) = .next t ∧ tgoIssues (s.seen (ctlOf i) 2) t (ctlOf i) op w := by
  have hpre : (tgoIssue op w).pre (s.seen (ctlOf i) 2) = none := by
    refine ite_eq_right_iff.2 fun h => ?_
    simp only [Bool.and_eq_true, bne_iff_ne] at h
    obtain ⟨⟨hacc, hm⟩, hn⟩ := h
    exact hready hacc hm hn
  have hlate : (tgoIssue op w).late (s.seen (ctlOf i) 2) = none := by
    refine if_neg ?_
    simp only [Bool.and_eq_true, beq_iff_eq, not_and]
    exact fun h => ne_true_of_eq_false (hlost h)
  refine ⟨_, s.issue_goes i (tgoIssue op w) hclear (by rw [hx]; rfl) nofun hpre nofun nofun htrap hordered rfl hlate, ?_⟩
  unfold tgoIssues
  refine State.commit_core (fun m => rfl) rfl ?_ rfl rfl fun _ => rfl
  unfold tgoIssue
  dsimp only
  rw [State.matCmd_pay, State.nestSlot_pay, State.fqWord_pay, State.tgoGroups_pay, State.reg_pay, State.reg_pay, State.reg_pay]
  cases w.adv <;> rfl

end Sys2Proof.Machine

open Sys2Proof Sys2Proof.Machine in
/-- Settles O23: the three words issue as `State.issue_tgo` says. -/
theorem tileCommandsIssue : Obligations.TileCommandsIssue := by
  unfold Obligations.TileCommandsIssue
  refine ⟨fun c w s hclear hx htrap hordered hready => ?_, fun c w s hclear hx htrap hordered hready hlost => ?_,
    fun c w s hclear hx htrap hordered hready => ?_⟩
  · exact State.issue_tgo hclear hx htrap hordered hready nofun
  · exact State.issue_tgo hclear hx htrap hordered hready fun _ => hlost
  · exact State.issue_tgo hclear hx htrap hordered hready nofun

namespace Sys2Proof.Machine

open Sys2Proof

/-- X may read a tile that is ready. -/
theorem TileReady.passes {v : State} {n : Nat} (h : TileReady v n) :
    v.tileOvf n = none ∧ v.cur.tileFull n = true ∧ v.tileLost n = none := by
  obtain ⟨hpend, hovf, hbad⟩ := h
  refine ⟨?_, ?_, if_neg (ne_true_of_eq_false hbad)⟩
  · unfold State.tileOvf
    dsimp only
    rw [hovf]
  · unfold CoreSt.tileFull
    rw [hpend]
    rfl

section

variable {v : State} {c : Ctl} {j : Issue} {n : Nat}

/-- The core with a window command in the engine queue. -/
def CoreSt.windowIn (k : CoreSt) (op : MatOp) (w : Win) (nest : BitVec 512) (cmd : MatCmd) : CoreSt :=
  { k with
    tiles := if op = .accld then (k.markTile w.acc.toNat).tiles else k.tiles
    nests := if w.adv then (k.setNest w.nest.toNat nest).nests else k.nests
    matq := k.matq ++ [cmd] }

/-- A window command as X issues it. -/
def State.winCmd (s : State) (wid : Nat) (op : MatOp) (w : Win) : MatCmd :=
  { s.matCmd wid op w.acc.toNat with
    m := (s.reg w.xm).toNat, n := (s.reg w.xn).toNat, nest := s.cur.nestSlot w.nest.toNat }

theorem CoreSt.windowIn_eq (k : CoreSt) (op : MatOp) (w : Win) (nest : BitVec 512) (cmd : MatCmd) :
    (let k := if op = .accld then k.markTile w.acc.toNat else k
     let k := if w.adv then k.setNest w.nest.toNat nest else k
     { k with matq := k.matq ++ [cmd] }) = k.windowIn op w nest cmd := by
  unfold CoreSt.windowIn
  by_cases h : op = .accld
  · rw [if_pos h, if_pos h]
    cases w.adv <;> rfl
  · rw [if_neg h, if_neg h]
    cases w.adv <;> rfl

theorem State.winPush_eq (s : State) (wid : Nat) (op : MatOp) (w : Win) : s.winPush wid op w =
    s.updCur fun k => k.windowIn op w (nestAdv (s.cur.nestSlot w.nest.toNat) 2) (s.winCmd wid op w) :=
  congrArg s.updCur (funext fun k => k.windowIn_eq op w _ _)

theorem State.winCmd_pay (v : State) (c : Ctl) (j : Issue) (n wid : Nat) (op : MatOp) (w : Win) :
    (v.pay c j n).winCmd wid op w = v.winCmd wid op w := by
  unfold State.winCmd
  rw [State.matCmd_pay, State.nestSlot_pay, State.reg_pay, State.reg_pay]

/-- ACCST and ACCLD enter the engine queue. -/
theorem State.commit_window {op : MatOp} {w : Win} (heffect : j.effect v.cur.nextId (v.pay c j n) = (v.pay c j n).winPush v.cur.nextId op w)
    (hbr : j.branch = false) (hgo : j.goes = false) (hheld : ∀ s, (j.hold && j.holdIf s) = true) (htki : j.tki = [])
    (heng : j.engine = false) : winIssues v (v.commit c j n) c op w := by
  rw [State.winPush_eq, State.winCmd_pay, State.nestSlot_pay] at heffect
  have hcore := State.commit_core (f := fun k => k.windowIn op w (nestAdv (v.cur.nestSlot w.nest.toNat) 2) (v.winCmd v.cur.nextId op w))
    (fun _ => rfl) rfl heffect hbr hgo hheld
  rw [htki, heng] at hcore
  exact hcore

end

end Sys2Proof.Machine

open Sys2Proof Sys2Proof.Machine in
/-- Settles O24: each word enters the engine queue, and ACCRD pushes its row. -/
theorem tileMoves : Obligations.TileMoves := by
  unfold Obligations.TileMoves
  refine ⟨?_, ?_, ?_, ?_, ?_⟩
  · intro c acc s hclear hx
    refine ⟨_, s.issue_goes _ _ hclear (by rw [hx]; rfl) nofun rfl nofun nofun rfl rfl rfl rfl,
      State.commit_core (fun _ => rfl) rfl ?_ rfl rfl fun _ => rfl⟩
    dsimp only
    rw [State.matCmd_pay]
    rfl
  · intro c accD accS add s hclear hx hready hadd
    obtain ⟨hovf, hfull, hlost⟩ := hready.passes
    have hpre : ((s.seen c 2).tileOvf accS.toNat).or (if add then (s.seen c 2).tileOvf accD.toNat else none) = none := by
      rw [hovf]
      exact ite_eq_right_iff.2 hadd
    refine ⟨_, s.issue_goes _ _ hclear (by rw [hx]; rfl) nofun hpre nofun nofun rfl rfl (congrArg Wait.need hfull) hlost,
      State.commit_core (fun _ => rfl) rfl ?_ rfl rfl fun _ => rfl⟩
    dsimp only
    rw [State.matCmd_pay]
    rfl
  · intro c w s hclear hx hbad hready htrap hovlap
    obtain ⟨hovf, hfull, hlost⟩ := hready.passes
    have hlate : (((s.seen c 2).winTrap w ((s.seen c 2).cur.tile w.acc.toNat).size true).or
        ((s.seen c 2).winOvlap w ((s.seen c 2).cur.tile w.acc.toNat).size true)).or ((s.seen c 2).tileLost w.acc.toNat) = none := by
      rw [htrap, hovlap, hlost]
      rfl
    exact ⟨_, s.issue_goes _ _ hclear (by rw [hx]; rfl) nofun hovf nofun nofun (if_neg (ne_true_of_eq_false hbad)) rfl
      (congrArg Wait.need hfull) hlate, State.commit_window rfl rfl rfl (fun _ => rfl) rfl rfl⟩
  · intro c w s hclear hx hbad htrap hovlap
    exact ⟨_, s.issue_goes _ _ hclear (by rw [hx]; rfl) nofun rfl nofun nofun ((if_neg (ne_true_of_eq_false hbad)).trans htrap) hovlap
      rfl rfl, State.commit_window rfl rfl rfl (fun _ => rfl) rfl rfl⟩
  · intro c vd acc ty xa row s hclear hx hready hdst
    obtain ⟨hovf, hfull, hlost⟩ := hready.passes
    refine ⟨_, s.issue_goes _ _ hclear (by rw [hx]; rfl) nofun hovf nofun nofun hdst rfl (congrArg Wait.need hfull) hlost, ?_⟩
    refine (State.commit_pushOne (State.moves_pay ..).queued ?_ rfl rfl rfl rfl).imp id (And.imp id And.left)
    dsimp only
    rw [State.tile_pay, State.reg_pay]

namespace Sys2Proof.Machine

open Sys2Proof

/-- A command for the ladder queue does not depend on the control fields. -/
theorem State.ladCmd_pay (v : State) (c : Ctl) (j : Issue) (n wid : Nat) (op : LadOp) (slot : Nat) (els : List Elem) :
    (v.pay c j n).ladCmd wid op slot els = v.ladCmd wid op slot els := by
  unfold State.ladCmd
  rw [State.wordAtPc_pay, State.me_pay, (State.moves_pay v c j n).cur]
  rfl

/-- Queues alone changed. -/
theorem State.queued_flights (v : State) (Q : Sparse QState) : v.queued Q v.me.flights = v.updCur fun k => k.withQueues Q := by
  unfold State.queued
  refine State.updCur_congr ?_
  unfold State.me
  cases v.who.ctx <;> rfl

/-- A ladder word that pops its operands and enters the ladder queue goes through. -/
theorem State.commit_ladder {v : State} {c : Ctl} {j : Issue} {n : Nat} {vs : List VSrc} {m : LadCmd}
    (heffect : j.effect v.cur.nextId (v.pay c j n) = ((v.pay c j n).popSrcs vs).updCur fun k => { k with ladq := k.ladq ++ [m] })
    (hbr : j.branch = false) (hgo : j.goes = false) (hheld : ∀ s, (j.hold && j.holdIf s) = true) :
    Through v (v.commit c j n) c j.tki true (fun x y => { x with qs := y.qs, ladq := y.ladq }) keep j.engine ∧
      QueuesBy v (v.commit c j n) vs vnull [] ∧ (v.commit c j n).cur.ladq = v.cur.ladq ++ [m] := by
  obtain ⟨Q, hpop, hQ⟩ := (State.moves_pay v c j n).queued.queued_popSrcs (State.starved_paid v c j n) vs
  rw [State.queued_flights] at hpop
  have hwithin := ((Within.refl v).vectorQueues Q).updCur (core' := fun x y => { x with qs := y.qs, ladq := y.ladq })
    (fun k => { k with ladq := k.ladq ++ [m] }) rfl (by rw [State.cur_updCur]; rfl)
  obtain ⟨mv, hm, -, hthrough⟩ := (hpop.updCur (fun k => { k with ladq := k.ladq ++ [m] }) rfl).passes hwithin.steady heffect hbr hgo
  rw [hheld] at hthrough
  have hcur : (v.commit c j n).cur = ({ v.cur.withQueues Q with ladq := v.cur.ladq ++ [m] } : CoreSt).moved v.who.ctx mv := by
    rw [hm.cur, State.cur_updCur, State.cur_updCur]
    rfl
  refine ⟨hwithin.through hm hthrough (fun _ _ _ _ => rfl) (fun _ _ _ _ _ => rfl), fun q => ?_, ?_⟩
  · rw [CoreSt.queue_eq, hcur, if_neg (by simp), List.append_nil]
    exact hQ q
  · rw [hcur]
    rfl

/-- The issue of a ladder word. -/
theorem ladderWord_exec {i : Instr} {s : State} {a : LadderWord} (ha : ladderWord (s.seen (ctlOf i) 0) i = some a) :
    ∃ op : State → LadOp, exec i s = s.issue i (ladIssue op a.slot a.srcs a.uses) ∧ a.op = op (s.seen (ctlOf i) 0) ∧
      ∀ c j n, op ((s.seen (ctlOf i) 0).pay c j n) = op (s.seen (ctlOf i) 0) := by
  cases i
  all_goals cases ha
  case ltruncLow c slot xm => exact ⟨fun v => .ltruncLow (v.reg xm), rfl, rfl, fun _ _ _ => congrArg LadOp.ltruncLow (State.reg_pay ..)⟩
  all_goals exact ⟨fun _ => _, rfl, rfl, fun _ _ _ => rfl⟩

end Sys2Proof.Machine

open Sys2Proof Sys2Proof.Machine in
/-- Settles O25: a ladder word pops its operands, then its command enters the queue. -/
theorem ladderWordsEnterTheQueue : Obligations.LadderWordsEnterTheQueue := by
  unfold Obligations.LadderWordsEnterTheQueue
  intro i s a ha hclear hx hread htrap hbatch hwait hroom
  obtain ⟨op, hexec, hop, hpay⟩ := ladderWord_exec ha
  obtain ⟨hovf, hsrc, hsrcs, hlost⟩ := hread
  rw [hop] at htrap hbatch hwait
  have hcheck : (((s.seen (ctlOf i) 0).cur.ladTrap (op (s.seen (ctlOf i) 0)) a.slot).or
      ((op (s.seen (ctlOf i) 0)).batchTrap (s.seen (ctlOf i) 0).cur)).or ((s.seen (ctlOf i) 0).srcTrap a.srcs) = none := by
    rw [htrap, hbatch, hsrc]
    rfl
  have hgo : ((s.seen (ctlOf i) 0).srcWait a.srcs).and (.need (decide ((s.seen (ctlOf i) 0).cur.ladq.length < 16) &&
      !(op (s.seen (ctlOf i) 0)).batchWait (s.seen (ctlOf i) 0).cur)) = .go := by
    rw [hsrcs, hwait, decide_eq_true hroom]
    rfl
  have heffect (n : Nat) : (ladIssue op a.slot a.srcs a.uses).effect (s.seen (ctlOf i) 0).cur.nextId
      ((s.seen (ctlOf i) 0).pay (ctlOf i) (ladIssue op a.slot a.srcs a.uses) n) =
      (((s.seen (ctlOf i) 0).pay (ctlOf i) (ladIssue op a.slot a.srcs a.uses) n).popSrcs a.srcs).updCur fun k => { k with
        ladq := k.ladq ++ [(s.seen (ctlOf i) 0).ladCmd (s.seen (ctlOf i) 0).cur.nextId a.op a.slot
          (((s.seen (ctlOf i) 0).srcElems a.srcs).map fun l => l.headD 0)] } := by
    rw [← State.srcElems_pay (s.seen (ctlOf i) 0) (ctlOf i) (ladIssue op a.slot a.srcs a.uses) n, hop, ← hpay (ctlOf i) (ladIssue op a.slot a.srcs a.uses) n,
      ← State.ladCmd_pay (s.seen (ctlOf i) 0) (ctlOf i) (ladIssue op a.slot a.srcs a.uses) n]
    rfl
  obtain ⟨hthrough, hqueues, hlad⟩ := State.commit_ladder (heffect (s.me.nextCycle (ctlOf i) 0)) rfl rfl fun _ => rfl
  exact ⟨_, _, hexec.trans (s.issue_goes i _ hclear (by rw [hx]; rfl) nofun hovf nofun nofun hcheck rfl hgo hlost), hthrough, hqueues, hlad,
    rfl, rfl, rfl, rfl, rfl, rfl, rfl, rfl, rfl⟩

/-! PROOFS. Statements that leave out what a landing, or a word's own core, may do.

A TKINC that lands past 65,535 may abort the task that its context issues for (R68, R296): the word then finds its context released, at kernel
level. RESUME may name its own core, whose context goes on at the program counter that the supervisor wrote, and whose signals name the
word that issued. -/

namespace Sys2Proof.Machine

open Sys2Proof

/-- Task 1 of `landingAborts` at monitor level. -/
def dismissed : State :=
  { landingAborts with
    cores := [(0, { CoreSt.reset with
      status := .active, task := 1, cL := { incrementInFlight with level := 2 }, tks := [(1, ⟨65535, false⟩)], nextId := 1 })] }

/-- The outcome goes on with no slot-table write on its way. -/
def leavesSlots (o : Host.Outcome State Fault Refusal) : Bool :=
  match o with
  | .next t => t.slotNew.isEmpty
  | _ => false

/-- Refutes O31: SLOTW where a landing takes the core from the context (`dismissed`) traps PRIV. -/
theorem not_monitorWords : ¬ Obligations.MonitorWords := by
  unfold Obligations.MonitorWords
  rintro ⟨hslotw, -⟩
  obtain ⟨t, ht, hthrough⟩ := hslotw Ctl.none 1 0 dismissed (by decide +kernel) (by decide +kernel) (by decide +kernel) (by decide +kernel)
  have hdevice := hthrough.confined.device
  have hslots : leavesSlots (.next t) = false := by
    rw [hdevice]
    simp [leavesSlots]
  have hout : leavesSlots (exec (.slotw Ctl.none 1 0) dismissed) = true := by decide +kernel
  rw [ht, hslots] at hout
  exact Bool.false_ne_true hout

/-- L of core 0 runs at supervisor level while its core is halted; the supervisor has moved its program counter from a word 1 to a word 0. -/
def halfHalted : State :=
  { State.reset with
    parts := [(0, { Part.reset with regs := [(0, 1)] })]
    cores := [(0, { CoreSt.reset with
      status := .active, halted := true, patches := [.mode .L 1 false 0 1], nextId := 1, sp := [(0, 1)]
      cL := { CtxSt.reset with run := .running, wwords := 64, level := 1 } })] }

/-- Refutes O32: RESUME of the word's own core (`halfHalted`). -/
theorem not_haltAndResume : ¬ Obligations.HaltAndResume := by
  unfold Obligations.HaltAndResume
  rintro ⟨-, hresume⟩
  obtain ⟨t, ht, hthrough, -⟩ := hresume signalling 0 halfHalted 0 (by decide +kernel) (by decide +kernel) (by decide +kernel) (by decide +kernel)
    (by decide +kernel)
  exact not_through_of_owesFor (w := 1) (by decide +kernel) ht (by decide +kernel) (by decide +kernel) hthrough

end Sys2Proof.Machine

/-! PROOFS. What a core sees of memory does not depend on control fields (R344, R385 to R390). -/

namespace Sys2Proof.Machine

open Sys2Proof

/-- The two states differ in their cores alone, and there in nothing that a read of memory looks at. -/
structure SameSight (u w : State) : Prop where
  device : w = { u with cores := w.cores }
  tlb    : ∀ k, (w.core k).tlb = (u.core k).tlb
  posted : ∀ k, (w.core k).posted = (u.core k).posted
  task   : ∀ k, (w.core k).task = (u.core k).task
  batch  : ∀ k, (w.core k).batch = (u.core k).batch
  sp     : ∀ k, (w.core k).sp = (u.core k).sp

theorem Moves.sight {u w : State} {m : Moved} (h : Moves u w m) : SameSight u w := by
  have hcore (k : Nat) : w.core k = u.core k ∨ ∃ x m, w.core k = (u.core k).moved x m := by
    by_cases hk : k = u.k
    · refine .inr ⟨u.who.ctx, m, ?_⟩
      have hcur := h.cur
      have hwk : w.k = u.k := by rw [State.k, h.who]; rfl
      rw [State.cur, hwk] at hcur
      rw [hk]
      exact hcur
    · exact .inl (h.inside.cores k hk)
  refine ⟨h.inside.device, fun k => ?_, fun k => ?_, fun k => ?_, fun k => ?_, fun k => ?_⟩ <;>
    rcases hcore k with hk | ⟨x, m, hk⟩ <;> rw [hk] <;> rfl

section

variable {u w : State}

theorem SameSight.taskOf (h : SameSight u w) (k : Nat) : w.taskOf k = u.taskOf k := by
  unfold State.taskOf
  rw [h.task, h.device]
  rfl

theorem SameSight.partOf (h : SameSight u w) (k : Nat) : w.partOf k = u.partOf k := by
  unfold State.partOf
  rw [h.taskOf]

theorem SameSight.translate (h : SameSight u w) (k : Nat) (a : Acc) (va : Nat) : w.translate k a va = u.translate k a va := by
  unfold State.translate
  rw [h.partOf]
  generalize u.partOf k = p
  have hshown : w.shown k p va = u.shown k p va := by unfold State.shown; rw [h.tlb]
  have hwindow : w.windowAt k p a va = u.windowAt k p a va := by
    unfold State.windowAt
    rw [hshown, h.device]
    rfl
  have hhit : w.tlbHit k p va = u.tlbHit k p va := by unfold State.tlbHit; rw [h.tlb, h.device]
  have hlookup : w.lookup k p va = u.lookup k p va := by
    unfold State.lookup
    rw [h.tlb, h.device]
    rfl
  unfold State.translateIn State.resolve
  rw [hshown, hwindow, hhit, hlookup, h.device]
  rfl

theorem SameSight.readPiece (h : SameSight u w) (k : Nat) (l : Loc) (va n : Nat) : w.readPiece k l va n = u.readPiece k l va n := by
  have hbyte (l : Loc) : w.coreByte k l = u.coreByte k l := by
    unfold State.coreByte
    rw [h.posted, h.device]
    rfl
  have hlost : w.readsLost k l n = u.readsLost k l n := by
    unfold State.readsLost
    rw [h.posted, h.device]
    rfl
  have hsource (t : Task) (a : Nat) : w.source t a = u.source t a := by rw [h.device]; rfl
  unfold State.readPiece
  simp only [hbyte, hlost, hsource, h.taskOf]

theorem SameSight.readVirt (h : SameSight u w) (k : Nat) (a : Acc) (va n : Nat) : w.readVirt k a va n = u.readVirt k a va n := by
  have hport (l : Loc) : w.portOpen l = u.portOpen l := by rw [h.device]; rfl
  have hone (e : Nat × Nat) : w.readOne k (u.partOf k) a e.1 e.2 = u.readOne k (u.partOf k) a e.1 e.2 := by
    have htrans := h.translate k a e.1
    unfold State.translate at htrans
    rw [h.partOf] at htrans
    unfold State.readOne
    rw [htrans]
    unfold State.readAt
    simp only [hport, h.readPiece]
  unfold State.readVirt State.readIn
  simp only [h.partOf, hone]

theorem SameSight.superPlace (h : SameSight u w) (hk : w.k = u.k) (va : Nat) : w.superPlace va = u.superPlace va := by
  have hport (l : Loc) : w.portOpen l = u.portOpen l := by rw [h.device]; rfl
  unfold State.superPlace
  rw [hk, h.translate]
  simp only [hport]

/-- Reads that record nothing, one after the other. -/
theorem Rd.notes_append {a b : Rd} {bs : List Byte} {notes : List ReadEnt} (ha : ∀ bs notes, a = .ok bs notes → notes = [])
    (hb : ∀ bs notes, b = .ok bs notes → notes = []) (h : a.append b = .ok bs notes) : notes = [] := by
  cases a with
  | ok x m =>
    cases b with
    | ok y n =>
      cases h
      rw [ha _ _ rfl, hb _ _ rfl]
      rfl
    | _ => cases h
  | _ => cases h

/-- A task that is not speculative records no reads. -/
theorem State.readVirt_plain {s : State} {k : Nat} {a : Acc} {va n : Nat} {bs : List Byte} {notes : List ReadEnt} (hplain : s.isSpec k = false)
    (h : s.readVirt k a va n = .ok bs notes) : notes = [] := by
  have hpiece (l : Loc) (va n : Nat) : (s.readPiece k l va n).note = none := by
    unfold State.readPiece
    unfold State.isSpec at hplain
    dsimp only
    split
    · rfl
    · next t ht =>
      rw [ht] at hplain
      rw [if_pos (by simp [show t.spec = false from hplain])]
  have hone (p : Nat) (e : Nat × Nat) (bs : List Byte) (notes : List ReadEnt) (h : s.readOne k p a e.1 e.2 = .ok bs notes) : notes = [] := by
    unfold State.readOne State.readAt at h
    split at h
    · cases h
    · cases h
    · split at h
      · cases h
      · dsimp only at h
        split at h
        · cases h
        · cases h
          rw [hpiece]
          rfl
  have hfold (l : List (Nat × Nat)) : ∀ r : Rd, (∀ bs notes, r = .ok bs notes → notes = []) → ∀ bs notes,
      l.foldl (fun r e => r.append (s.readOne k (s.partOf k) a e.1 e.2)) r = .ok bs notes → notes = [] := by
    induction l with
    | nil => exact fun r hr => hr
    | cons e l ih =>
      exact fun r hr => ih _ fun bs notes heq => Rd.notes_append hr (hone _ e) heq
  exact hfold _ _ (fun _ _ h => by cases h; rfl) _ _ h

end

end Sys2Proof.Machine

/-! PROOFS. System words that write memory, translations, masks and interrupts (R369 to R373, R378, R399). -/

namespace Sys2Proof.Machine

open Sys2Proof

/-- A write at device scope after which no abort can follow. -/
theorem State.devWrite_eq {s : State} (h : NoReaders s) (k : Nat) (x : Ctx) (wid : Nat) (own : Bool) (l : Loc) (va : Nat) (bs : List Byte) :
    s.devWrite k x wid own l va bs = performed s l va bs k x wid := by
  unfold State.devWrite performed
  split
  · rfl
  · have hinner (t : Task) : (linesOf va bs.length).flatMap (fun n => s.conflicts t n) = [] :=
      List.flatMap_eq_nil_iff.2 fun n _ => State.conflicts_nil h t n
    have houter : (linesOf l.addr bs.length).flatMap (fun n => s.outsideConflicts (some (s.partOf k)) l.space n) = [] :=
      List.flatMap_eq_nil_iff.2 fun n _ => State.outsideConflicts_nil h _ _ _
    cases s.taskOf k <;> simp [hinner, houter]

theorem State.poke_cores (s : State) (cores : Sparse CoreSt) (space a : Nat) (bs : List Byte) :
    ({ s with cores := cores } : State).poke space a bs = { s.poke space a bs with cores := cores } := by
  have hput : ({ s with cores := cores } : State).putBytes space a bs = { s.putBytes space a bs with cores := cores } := by
    unfold State.putBytes
    split <;> rfl
  by_cases hhit : (if space = 0 then s.segmentsHit a bs.length else []).isEmpty = true
  · have hleft : ({ s with cores := cores } : State).poke space a bs = ({ s with cores := cores } : State).putBytes space a bs := if_pos hhit
    have hright : s.poke space a bs = s.putBytes space a bs := if_pos hhit
    rw [hleft, hright, hput]
  · have hleft : ({ s with cores := cores } : State).poke space a bs = _ := if_neg hhit
    have hright : s.poke space a bs = _ := if_neg hhit
    rw [hleft, hright, hput]
    rfl

/-- Bytes performed, the partition of the sequencer's record given. -/
def performedFor (s : State) (l : Loc) (va : Nat) (bs : List Byte) (k : Nat) (x : Ctx) (wid p : Nat) : State :=
  if l.space = 5 then s.sequence l.addr bs k x wid p va else s.poke l.space l.addr bs

theorem performedFor_cores (l : Loc) (va : Nat) (bs : List Byte) (k : Nat) (x : Ctx) (wid p : Nat) (s : State) (cores : Sparse CoreSt) :
    performedFor { s with cores := cores } l va bs k x wid p = { performedFor s l va bs k x wid p with cores := cores } := by
  unfold performedFor
  split
  · rfl
  · exact s.poke_cores ..

theorem who_performedFor (s : State) (l : Loc) (va : Nat) (bs : List Byte) (k : Nat) (x : Ctx) (wid p : Nat) :
    (performedFor s l va bs k x wid p).who = s.who := by
  unfold performedFor
  split
  · rfl
  · exact s.who_poke ..

section

variable {u v w : State} {m : Moved}

theorem Moves.performed (h : Moves u w m) (l : Loc) (va : Nat) (bs : List Byte) (k : Nat) (x : Ctx) (wid : Nat) :
    Moves (performed u l va bs k x wid) (performed w l va bs k x wid) m := by
  have hD := h.device (fun s => performedFor s l va bs k x wid (u.partOf k)) (fun _ _ => performedFor_cores ..) (who_performedFor ..)
  unfold performedFor at hD
  unfold Machine.performed
  rwa [h.partOf]

theorem Steady.performed (h : Steady v u) (l : Loc) (va : Nat) (bs : List Byte) (k : Nat) (x : Ctx) (wid : Nat) :
    Steady v (performed u l va bs k x wid) :=
  h.device (fun s => performedFor s l va bs k x wid (u.partOf k)) (fun _ _ => performedFor_cores ..) (who_performedFor ..)

/-- Whether an abort can follow does not depend on control fields. -/
theorem Moves.noReaders (h : Moves u w m) (hno : NoReaders u) : NoReaders w := hno.of_tasks (by rw [h.inside.device])

end

/-- A system word's wait is over once nothing but the frontier held it. -/
theorem State.frontWait_seen {s : State} {c : Ctl} {unit : Nat} (h : (s.seen c unit).isSpec s.k = false) :
    (s.seen c unit).frontWait true = .go := by
  unfold State.frontWait
  have hk : (s.seen c unit).k = s.k := by rw [State.k, State.who_seen]; rfl
  rw [hk, h]
  rfl

theorem State.k_seen (s : State) (c : Ctl) (unit : Nat) : (s.seen c unit).k = s.k := by
  rw [State.k, State.who_seen]
  rfl

section

variable {v : State} {c : Ctl} {j : Issue} {n : Nat}

/-- A word that writes memory at device scope goes through; it is held while the sequencer has its update. -/
theorem State.commit_spreading {u w : State} (h : Moves u w (v.paid c j n)) (hs : Steady v u) (heffect : j.effect v.cur.nextId (v.pay c j n) = w)
    (hbr : j.branch = false) (hgo : j.goes = false) (hhold : j.hold = true) (hholdIf : j.holdIf = State.sequencing) :
    Through u (v.commit c j n) c j.tki (spreading u) keep keep j.engine := by
  obtain ⟨m, -, -, hthrough⟩ := h.passes hs heffect hbr hgo
  have hheld : State.sequencing (w.updMe CtxSt.advance) = spreading u := by
    have hid : (w.updMe CtxSt.advance).cur.nextId = u.cur.nextId + 1 := by
      have hbase : u.cur.nextId = v.cur.nextId := congrArg Moved.nextId hs.control
      rw [State.cur_updMe, CoreSt.nextId_updCtx, h.cur, hbase]
      exact State.nextId_paid v c j n
    have hwho : (w.updMe CtxSt.advance).who = u.who := h.who
    have hlog : (w.updMe CtxSt.advance).seqLog = u.seqLog := by
      change w.seqLog = _
      rw [h.inside.device]
    unfold State.sequencing spreading State.k
    rw [hid, hwho, hlog]
    simp
  rw [hhold, hholdIf, Bool.true_and, hheld] at hthrough
  exact hthrough

end

end Sys2Proof.Machine

namespace Sys2Proof.Machine

open Sys2Proof

/-- What WSW does. -/
def wswEffect (xa xb xc : Reg) (wid : Nat) (s : State) : State :=
  match s.superRead (s.reg xa).toNat (s.reg xc).toNat with
  | .ok bs notes => (s.note s.k notes).wswWrite wid (s.reg xb).toNat bs
  | _ => s

section

variable {v : State} {c : Ctl} {j : Issue} {n : Nat}

theorem State.superRead_pay (v : State) (c : Ctl) (j : Issue) (n va b : Nat) : (v.pay c j n).superRead va b = v.superRead va b := by
  have hmoves := State.moves_pay v c j n
  unfold State.superRead
  dsimp only
  rw [hmoves.k, hmoves.sight.readVirt]

theorem State.ptbwAt_pay (v : State) (c : Ctl) (j : Issue) (n o : Nat) : (v.pay c j n).ptbwAt o = v.ptbwAt o := by
  have hmoves := State.moves_pay v c j n
  have hbase : (v.pay c j n).probeBase = v.probeBase := by
    unfold State.probeBase State.part
    rw [hmoves.k, hmoves.partOf, hmoves.inside.device]
  unfold State.ptbwAt
  rw [hbase, hmoves.sight.superPlace hmoves.k]

theorem State.probeBase_pay (v : State) (c : Ctl) (j : Issue) (n : Nat) : (v.pay c j n).probeBase = v.probeBase := by
  have hmoves := State.moves_pay v c j n
  unfold State.probeBase State.part
  rw [hmoves.k, hmoves.partOf, hmoves.inside.device]

theorem State.blockAt_pay (v : State) (c : Ctl) (j : Issue) (n : Nat) (a : Word) : (v.pay c j n).blockAt a = v.blockAt a := by
  unfold State.blockAt State.xsp
  rw [State.withScratch_pay]

/-- A copy into the Weight Store window. -/
theorem State.commit_wsw {xa xb xc : Reg} {bs : List Byte} (hread : v.superRead (v.reg xa).toNat (v.reg xc).toNat = .ok bs [])
    (hno : NoReaders v) (heffect : ∀ wid s, j.effect wid s = wswEffect xa xb xc wid s) (hbr : j.branch = false) (hgo : j.goes = false)
    (hhold : j.hold = false) : Through (v.poke 3 (v.reg xb).toNat bs) (v.commit c j n) c j.tki false keep keep j.engine := by
  have hmoves := State.moves_pay v c j n
  have hwrite : j.effect v.cur.nextId (v.pay c j n) = (v.pay c j n).poke 3 (v.reg xb).toNat bs := by
    rw [heffect]
    unfold wswEffect
    rw [State.reg_pay, State.reg_pay, State.reg_pay, State.superRead_pay, hread]
    exact State.devWrite_eq (hmoves.noReaders hno) ..
  obtain ⟨m, -, -, hthrough⟩ := (hmoves.performed ⟨3, (v.reg xb).toNat⟩ 0 bs 0 .L 0).passes ((Steady.refl v).performed ..) hwrite hbr hgo
  rw [hhold] at hthrough
  exact hthrough

/-- A block that PTBW writes. -/
theorem State.commit_ptbw {xa : Reg} {bad : List Byte → Bool} {o : Nat} {l : Loc} {notes : List ReadEnt} (hat : v.ptbwAt o = .ok l notes)
    (hno : NoReaders v) : Through (placed v l (v.probeBase.getD 0 + o) (v.blockAt (v.reg xa))) (v.commit c (ptbwIssue xa bad o) n) c []
      (spreading (placed v l (v.probeBase.getD 0 + o) (v.blockAt (v.reg xa)))) keep keep := by
  have hmoves := State.moves_pay v c (ptbwIssue xa bad o) n
  refine State.commit_spreading (hmoves.performed ..) ((Steady.refl v).performed ..) ?_ rfl rfl rfl rfl
  have hat' : (v.pay c (ptbwIssue xa bad o) n).ptbwAt o = .ok l notes := (State.ptbwAt_pay ..).trans hat
  have heffect : (ptbwIssue xa bad o).effect v.cur.nextId (v.pay c (ptbwIssue xa bad o) n) =
      (v.pay c (ptbwIssue xa bad o) n).devWrite v.k v.who.ctx v.cur.nextId true l ((v.pay c (ptbwIssue xa bad o) n).probeBase.getD 0 + o)
        ((v.pay c (ptbwIssue xa bad o) n).blockAt ((v.pay c (ptbwIssue xa bad o) n).reg xa)) := by
    unfold ptbwIssue Issue.until sysIssue at hat' ⊢
    dsimp only at hat' ⊢
    rw [hat']
    rfl
  rw [heffect, State.probeBase_pay, State.blockAt_pay, State.reg_pay]
  exact State.devWrite_eq (hmoves.noReaders hno) ..

end

theorem State.superRead_plain {s : State} {va n : Nat} {bs : List Byte} {notes : List ReadEnt} (hplain : s.isSpec s.k = false)
    (h : s.superRead va n = .ok bs notes) : notes = [] := by
  unfold State.superRead at h
  dsimp only at h
  split at h
  · cases h
  · generalize hr : s.readVirt s.k Machine.superRead (va % 2 ^ 64) n = r at h
    cases r with
    | ok x m =>
      cases h
      exact State.readVirt_plain hplain hr
    | _ => cases h

/-- PTBW and PTBW.H write their block. -/
theorem State.issue_ptbw {s : State} {i : Instr} {xa : Reg} {bad : List Byte → Bool} {o : Nat} {l : Loc} {notes : List ReadEnt}
    (hclear : s.clear (ctlOf i) 0 [] [xa] = true) (hlevel : s.me.level ≠ 0) (hplain : (s.seen (ctlOf i) 0).isSpec s.k = false)
    (htrap : (s.seen (ctlOf i) 0).ptbwTrap ((s.seen (ctlOf i) 0).reg xa) bad = none) (hat : (s.seen (ctlOf i) 0).ptbwAt o = .ok l notes)
    (hfree : (s.seen (ctlOf i) 0).wayFree l 64 = true) (hlost : (s.seen (ctlOf i) 0).rangeLost ((s.seen (ctlOf i) 0).reg xa).toNat 64 = none)
    (hno : NoReaders (s.seen (ctlOf i) 0)) :
    ∃ t u, s.issue i (ptbwIssue xa bad o) = .next t ∧
      u = placed (s.seen (ctlOf i) 0) l ((s.seen (ctlOf i) 0).probeBase.getD 0 + o)
        ((s.seen (ctlOf i) 0).blockAt ((s.seen (ctlOf i) 0).reg xa)) ∧
      Through u t (ctlOf i) [] (spreading u) keep keep := by
  have hway : (s.seen (ctlOf i) 0).ptbwFree o = true := by
    unfold State.ptbwFree
    rw [hat]
    exact hfree
  have hwait : ((s.seen (ctlOf i) 0).frontWait true).and (.need ((s.seen (ctlOf i) 0).ptbwFree o)) = .go := by
    rw [State.frontWait_seen hplain, hway]
    rfl
  have hlate : ((s.seen (ctlOf i) 0).rangeLost ((s.seen (ctlOf i) 0).reg xa).toNat 64).or ((s.seen (ctlOf i) 0).ptbwAt o).trap = none := by
    rw [hlost, hat]
    rfl
  refine ⟨_, _, s.issue_goes i (ptbwIssue xa bad o) hclear rfl (fun _ => hlevel) rfl nofun nofun htrap rfl hwait hlate, rfl,
    State.commit_ptbw hat hno⟩

end Sys2Proof.Machine

open Sys2Proof Sys2Proof.Machine in
/-- Settles O30: no abort can follow the writes, so each is the bytes it names. -/
theorem copyingSystemWords : Obligations.CopyingSystemWords := by
  unfold Obligations.CopyingSystemWords
  refine ⟨?_, ?_, ?_⟩
  · intro c xa xb xc s bs notes hclear hlevel hplain htrap hquiet hports hread hno
    have hk := s.k_seen c 0
    have hnotes : notes = [] := State.superRead_plain (by rw [hk]; exact hplain) hread
    subst hnotes
    have hgo : ((s.seen c 0).frontWait true).and (.need ((s.seen c 0).quiet ((s.seen c 0).partOf (s.seen c 0).k) (s.seen c 0).cur.task &&
        (banksOf ((s.seen c 0).reg xb).toNat ((s.seen c 0).reg xc).toNat).all (fun b => (s.seen c 0).portOpen ⟨3, b * 2 ^ 24⟩) &&
        !((s.seen c 0).superRead ((s.seen c 0).reg xa).toNat ((s.seen c 0).reg xc).toNat).waits)) = .go := by
      rw [State.frontWait_seen hplain, hk, hquiet, List.all_eq_true.2 hports, hread]
      rfl
    refine ⟨_, s.issue_goes _ _ hclear rfl (fun _ => hlevel) rfl nofun nofun htrap rfl hgo (congrArg Lk.trap hread), ?_⟩
    exact State.commit_wsw (xa := xa) (xb := xb) (xc := xc) hread hno (fun _ _ => rfl) rfl rfl rfl
  · intro c xa idx s l notes hclear hlevel hplain htrap hat hfree hlost hno
    exact State.issue_ptbw hclear hlevel hplain htrap hat hfree hlost hno
  · intro c xa s l notes hclear hlevel hplain htrap hat hfree hlost hno
    exact State.issue_ptbw hclear hlevel hplain htrap hat hfree hlost hno


namespace Sys2Proof.Machine

open Sys2Proof

/-! ### Changes of any core, and of all -/

section

variable {u v w : State} {m : Moved}

/-- A change of one core, which may be the issuing one. -/
theorem Moves.updCore (h : Moves u w m) (k : Nat) (f : CoreSt → CoreSt)
    (hf : f (u.cur.moved u.who.ctx m) = (f u.cur).moved u.who.ctx m) : Moves (u.updCore k f) (w.updCore k f) m := by
  by_cases hk : k = u.k
  · have hcur := h.updCur f hf
    unfold State.updCur at hcur
    rwa [h.k, ← hk] at hcur
  · have hcore : w.core k = u.core k := h.inside.cores k hk
    refine ⟨⟨?_, fun i hi => ?_⟩, ?_⟩
    · have hdevice := h.inside.device
      generalize w.cores = cores at hdevice
      subst hdevice
      rfl
    · by_cases hik : i = k
      · rw [hik, State.core_updCore_same, State.core_updCore_same, hcore]
      · rw [State.core_updCore_other _ _ _ _ hik, State.core_updCore_other _ _ _ _ hik]
        exact h.inside.cores i hi
    · have hw : (w.updCore k f).cur = w.cur := State.core_updCore_other _ _ _ _ (by change w.k ≠ k; rw [h.k]; exact Ne.symm hk)
      have hu : (u.updCore k f).cur = u.cur := State.core_updCore_other _ _ _ _ (Ne.symm hk)
      rw [hw, hu]
      exact h.cur

theorem Steady.updCore (h : Steady v u) (k : Nat) (f : CoreSt → CoreSt) (hctl : (f u.cur).control u.who.ctx = u.cur.control u.who.ctx)
    (hbase : ((f u.cur).ctx u.who.ctx).wbase = u.me.wbase) (hsp : (f u.cur).sp = u.cur.sp) : Steady v (u.updCore k f) := by
  by_cases hk : k = u.k
  · rw [hk]
    exact h.updCur f hctl hbase hsp
  · have hu : (u.updCore k f).cur = u.cur := State.core_updCore_other _ _ _ _ (Ne.symm hk)
    have hme : (u.updCore k f).me = u.me := by rw [State.me, hu]; rfl
    refine ⟨h.who, by rw [hu]; exact h.control, ?_⟩
    rw [← h.word]
    unfold State.wordAtPc
    rw [hu, hme]

/-- A change of the core that neither reads nor writes control fields keeps them. -/
theorem CoreSt.control_of_moved {c : CoreSt} {x : Ctx} {f : CoreSt → CoreSt} (hf : ∀ m, f (c.moved x m) = (f c).moved x m) :
    (f c).control x = c.control x := by
  have hself : c.moved x (c.control x) = c := by cases x <;> rfl
  have h := hf (c.control x)
  rw [hself] at h
  rw [h, CoreSt.control_moved]

theorem Sparse.get_mapKeys {α : Type} (d : α) (f : Nat → α → α) (hd : ∀ k, f k d = d) (l : Sparse α) (k : Nat) :
    Sparse.get d (l.map fun e => (e.1, f e.1 e.2)) k = f k (Sparse.get d l k) := by
  induction l with
  | nil => exact (hd k).symm
  | cons e r ih =>
    obtain ⟨j, x⟩ := e
    rw [List.map_cons]
    unfold Sparse.get
    by_cases hj : j = k
    · rw [if_pos hj, if_pos hj, hj]
    · rw [if_neg hj, if_neg hj, ih]

theorem State.core_shoot (s : State) (p k : Nat) (d : Shoot) : (s.shoot p d).core k = (s.core k).shoot p (s.partOf k == p) d :=
  Sparse.get_mapKeys CoreSt.reset (fun i (c : CoreSt) => c.shoot p (s.partOf i == p) d) (fun i => by unfold CoreSt.shoot; dsimp only; split <;> rfl) s.cores k

theorem CoreSt.shoot_moved (c : CoreSt) (x : Ctx) (m : Moved) (p : Nat) (b : Bool) (d : Shoot) :
    (c.moved x m).shoot p b d = (c.shoot p b d).moved x m := by
  unfold CoreSt.shoot
  cases b <;> rfl

/-- Translations dropped everywhere. -/
theorem Moves.shoot (h : Moves u w m) (p : Nat) (d : Shoot) : Moves (u.shoot p d) (w.shoot p d) m := by
  refine ⟨⟨?_, fun k hk => ?_⟩, ?_⟩
  · have hdevice := h.inside.device
    generalize w.cores = cores at hdevice
    subst hdevice
    rfl
  · rw [State.core_shoot, State.core_shoot, h.partOf, h.inside.cores k hk]
  · have hw : (w.shoot p d).cur = w.cur.shoot p (w.partOf w.k == p) d := State.core_shoot ..
    have hu : (u.shoot p d).cur = u.cur.shoot p (u.partOf u.k == p) d := State.core_shoot ..
    rw [hw, hu, h.cur, h.k, h.partOf]
    exact CoreSt.shoot_moved ..

theorem Steady.shoot (h : Steady v u) (p : Nat) (d : Shoot) : Steady v (u.shoot p d) := by
  have hu : (u.shoot p d).cur = u.cur.shoot p (u.partOf u.k == p) d := State.core_shoot ..
  have hctl : (u.shoot p d).cur.control u.who.ctx = u.cur.control u.who.ctx := by
    rw [hu]
    exact CoreSt.control_of_moved (f := fun c => c.shoot p (u.partOf u.k == p) d) fun m => CoreSt.shoot_moved ..
  refine ⟨h.who, hctl.trans h.control, ?_⟩
  rw [← h.word]
  have hme : (u.shoot p d).me.pc = u.me.pc ∧ (u.shoot p d).me.wbase = u.me.wbase := by
    rw [State.me, hu]
    unfold State.me CoreSt.shoot
    change (CoreSt.ctx _ u.who.ctx).pc = _ ∧ (CoreSt.ctx _ u.who.ctx).wbase = _
    cases u.who.ctx <;> exact ⟨rfl, rfl⟩
  unfold State.wordAtPc
  rw [hme.1, hme.2, hu]
  rfl

end

/-! ### TLBI -/

theorem State.issue_tlbi {s : State} {i : Instr} {uses : List Reg} {what : State → Shoot} {d : Shoot} (hd : what (s.seen (ctlOf i) 0) = d)
    (hpay : ∀ j n, what ((s.seen (ctlOf i) 0).pay (ctlOf i) j n) = d) (hclear : s.clear (ctlOf i) 0 [] uses = true) (hlevel : s.me.level ≠ 0)
    (hplain : (s.seen (ctlOf i) 0).isSpec s.k = false) (hstores : (s.seen (ctlOf i) 0).storesAt 2 = true)
    (hout : (s.seen (ctlOf i) 0).translated ((s.seen (ctlOf i) 0).partOf s.k) d = false) :
    ∃ t, s.issue i (tlbiIssue uses what) = .next t ∧
      Through ((s.seen (ctlOf i) 0).shoot ((s.seen (ctlOf i) 0).partOf s.k) d) t (ctlOf i) [] false keep keep ∧
      (∀ k e, e ∈ (t.core k).tlb → d.drops ((s.seen (ctlOf i) 0).partOf s.k) e = false) := by
  have hk := s.k_seen (ctlOf i) 0
  have hgo : ((s.seen (ctlOf i) 0).frontWait true).and (.need ((s.seen (ctlOf i) 0).storesAt 2 &&
      !(s.seen (ctlOf i) 0).translated ((s.seen (ctlOf i) 0).partOf (s.seen (ctlOf i) 0).k) (what (s.seen (ctlOf i) 0)))) = .go := by
    rw [State.frontWait_seen hplain, hstores, hk, hd, hout]
    rfl
  have hmoves := State.moves_pay (s.seen (ctlOf i) 0) (ctlOf i) (tlbiIssue uses what) (s.me.nextCycle (ctlOf i) 0)
  have hwrite : (tlbiIssue uses what).effect (s.seen (ctlOf i) 0).cur.nextId
      ((s.seen (ctlOf i) 0).pay (ctlOf i) (tlbiIssue uses what) (s.me.nextCycle (ctlOf i) 0)) =
      ((s.seen (ctlOf i) 0).pay (ctlOf i) (tlbiIssue uses what) (s.me.nextCycle (ctlOf i) 0)).shoot ((s.seen (ctlOf i) 0).partOf s.k) d := by
    unfold tlbiIssue Issue.until sysIssue
    dsimp only
    rw [hpay, (State.moves_pay ..).k, (State.moves_pay ..).partOf, hk]
  obtain ⟨m, hm, -, hthrough⟩ := (hmoves.shoot ((s.seen (ctlOf i) 0).partOf s.k) d).passes ((Steady.refl _).shoot ..) hwrite rfl rfl
  refine ⟨_, s.issue_goes i _ hclear rfl (fun _ => hlevel) rfl nofun nofun rfl rfl hgo rfl, hthrough, fun k e he => ?_⟩
  have htlb := hm.sight.tlb k
  rw [State.core_shoot] at htlb
  have hmem := he
  rw [show (tlbiIssue uses what).unit = 0 from rfl, htlb] at hmem
  have hkept := (List.mem_filter.1 hmem).2
  simpa using hkept

/-! ### QUAR -/

theorem cores_performed (s : State) (l : Loc) (va : Nat) (bs : List Byte) (k : Nat) (x : Ctx) (wid : Nat) :
    (performed s l va bs k x wid).cores = s.cores := by
  have h := performedFor_cores l va bs k x wid (s.partOf k) s s.cores
  change (performedFor s l va bs k x wid (s.partOf k)).cores = s.cores
  rw [h]

/-- A word that lets nothing of the core through keeps the mask of every core. -/
theorem Confined.qmask {u t : State} (h : Confined u t keep keep keep) (k : Nat) : (t.core k).qmask = (u.core k).qmask := by
  by_cases hk : k = u.k
  · have hcur := h.core
    have htk : t.k = u.k := by rw [State.k, h.device]; rfl
    unfold keep at hcur
    rw [State.cur, htk, State.cur] at hcur
    rw [hk, hcur]
  · rw [h.cores k hk]

section

variable {v : State} {c : Ctl} {j : Issue} {n : Nat}

theorem State.quarAt_pay (v : State) (c : Ctl) (j : Issue) (n k : Nat) : (v.pay c j n).quarAt k = v.quarAt k := by
  have hmoves := State.moves_pay v c j n
  have hentry (p : Nat) : (v.pay c j n).quarEntry p k = v.quarEntry p k := by
    unfold State.quarEntry
    rw [hmoves.sight.batch, hmoves.sight.sp, hmoves.inside.device]
    rfl
  unfold State.quarAt
  rw [hmoves.k, hmoves.partOf, hentry]
  simp only [hmoves.sight.superPlace hmoves.k]

/-- What QUAR does. -/
def quarEffect (xa xb : Reg) (w : BitVec 2) (wid : Nat) (s : State) : State :=
  match s.quarAt (s.reg xa).toNat with
  | .ok e _ => (s.updCore (s.reg xa).toNat fun c => c.quarantine (rowsAt w.toNat (s.reg xb).toNat)).quarStore wid
      (rowsAt w.toNat (s.reg xb).toNat) e
  | _ => s

theorem State.quarEffect_pay {xa xb : Reg} {b : BitVec 2} {k wid : Nat} {rows : BitVec 256} {e : Option (Nat × Loc)} {notes : List ReadEnt}
    (hat : v.quarAt (v.reg xa).toNat = .ok e notes) (hk : k = (v.reg xa).toNat) (hrows : rows = rowsAt b.toNat (v.reg xb).toNat) :
    quarEffect xa xb b wid (v.pay c j n) = ((v.pay c j n).updCore k fun x => x.quarantine rows).quarStore wid rows e := by
  unfold quarEffect
  rw [State.reg_pay, State.reg_pay, State.quarAt_pay, hat, hk, hrows]

/-- The entry of the quarantine table is written where the partition has one. -/
theorem Moves.quarStore {u w : State} {m : Moved} (h : Moves u w m) (hs : Steady v u) (hno : NoReaders w) (rows : BitVec 256)
    (e : Option (Nat × Loc)) (q : State) (hq : ∀ va l, e = some (va, l) →
      q = Machine.performed u l va (orRows (u.portBytes l 32) rows) u.k u.who.ctx v.cur.nextId) (hnone : e = none → q = u) :
    Moves q (w.quarStore v.cur.nextId rows e) m ∧ Steady v q := by
  cases e with
  | none =>
    rw [hnone rfl]
    exact ⟨h, hs⟩
  | some e =>
    obtain ⟨va, l⟩ := e
    rw [hq va l rfl]
    refine ⟨?_, hs.performed ..⟩
    have hbytes : w.portBytes l 32 = u.portBytes l 32 := by
      rw [h.inside.device]
      rfl
    have hwrite : w.quarStore v.cur.nextId rows (some (va, l)) =
        Machine.performed w l va (orRows (u.portBytes l 32) rows) u.k u.who.ctx v.cur.nextId := by
      unfold State.quarStore
      dsimp only
      rw [State.devWrite_eq hno, hbytes, h.k, h.who]
    rw [hwrite]
    exact h.performed ..

/-- Quarantined rows go through. -/
theorem State.commit_quarantine {k : Nat} {rows : BitVec 256} {e : Option (Nat × Loc)} {q : State} (hno : NoReaders v)
    (hq : ∀ va l, e = some (va, l) → q = placed (v.updCore k fun x => x.quarantine rows) l va (orRows (v.portBytes l 32) rows))
    (hnone : e = none → q = v.updCore k fun x => x.quarantine rows)
    (heffect : j.effect v.cur.nextId (v.pay c j n) = ((v.pay c j n).updCore k fun x => x.quarantine rows).quarStore v.cur.nextId rows e)
    (hbr : j.branch = false) (hgo : j.goes = false) (hhold : j.hold = true) (hholdIf : j.holdIf = State.sequencing) :
    Through q (v.commit c j n) c j.tki (spreading q) keep keep j.engine ∧ ((v.commit c j n).core k).qmask = (v.core k).qmask ||| rows := by
  have hmoves := (State.moves_pay v c j n).updCore k (fun x => x.quarantine rows) rfl
  have hsteady := (Steady.refl v).updCore k (fun x => x.quarantine rows)
    (CoreSt.control_of_moved (f := fun x => x.quarantine rows) fun _ => rfl)
    (by unfold State.me; cases v.who.ctx <;> rfl) rfl
  have hid : (v.updCore k fun x => x.quarantine rows).cur.nextId = v.cur.nextId := congrArg Moved.nextId hsteady.control
  obtain ⟨hm, hs⟩ := hmoves.quarStore hsteady (hmoves.noReaders (hno.of_tasks rfl)) rows e q
    (fun va l he => by rw [hq va l he, placed, hid]; rfl) hnone
  have hthrough := State.commit_spreading hm hs heffect hbr hgo hhold hholdIf
  refine ⟨hthrough, ?_⟩
  have hq' : q.cores = (v.updCore k fun x => x.quarantine rows).cores := by
    cases he : e with
    | none => rw [hnone he]
    | some e' =>
      obtain ⟨va, l⟩ := e'
      rw [hq va l he]
      exact cores_performed ..
  rw [hthrough.confined.qmask, State.core, hq', ← State.core, State.core_updCore_same]
  rfl

end

/-! ### IPI -/

theorem State.commit_interrupt {v : State} {c : Ctl} {j : Issue} {n target code : Nat}
    (heffect : j.effect v.cur.nextId (v.pay c j n) = (v.pay c j n).interrupt target code)
    (hbr : j.branch = false) (hgo : j.goes = false) (hhold : j.hold = false) :
    Through (v.interrupt target code) (v.commit c j n) c j.tki false keep keep j.engine := by
  have hcores (s : State) (cores : Sparse CoreSt) :
      ({ s with cores := cores } : State).interrupt target code = { s.interrupt target code with cores := cores } := by
    unfold State.interrupt
    split <;> rfl
  have hwho : (v.interrupt target code).who = v.who := by
    unfold State.interrupt
    split <;> rfl
  obtain ⟨m, -, -, hthrough⟩ := ((State.moves_pay v c j n).device (fun s => s.interrupt target code) hcores hwho).passes
    ((Steady.refl v).device (fun s => s.interrupt target code) hcores hwho) heffect hbr hgo
  rw [hhold] at hthrough
  exact hthrough

end Sys2Proof.Machine

open Sys2Proof Sys2Proof.Machine in
/-- Settles O34: TLBI by `State.issue_tlbi`, QUAR by `State.commit_quarantine`, IPI by `State.commit_interrupt`. -/
theorem crossCoreWords : Obligations.CrossCoreWords := by
  unfold Obligations.CrossCoreWords
  refine ⟨?_, ?_, ?_⟩
  · intro i c s uses d hi hclear hlevel hplain hstores hout
    obtain ⟨xa, huses, ⟨hi, hd⟩ | ⟨hi, hd⟩⟩ | ⟨huses, hi, hd⟩ := hi
    all_goals
      subst huses
      subst hi
    · exact State.issue_tlbi hd.symm (fun j n => by rw [State.reg_pay]; exact hd.symm) hclear hlevel hplain hstores hout
    · exact State.issue_tlbi hd.symm (fun j n => by rw [State.reg_pay]; exact hd.symm) hclear hlevel hplain hstores hout
    · exact State.issue_tlbi hd.symm (fun _ _ => hd.symm) hclear hlevel hplain hstores hout
  · intro c xa xb w s e notes k rows hclear hlevel hplain hk hlt howns hat hfree hno hrows
    have hk' := s.k_seen c 0
    have hcheck : (if 383 < ((s.seen c 0).reg xa).toNat then some ({ cause := .illop } : Trap)
        else if (s.seen c 0).owns ((s.seen c 0).partOf (s.seen c 0).k) ((s.seen c 0).reg xa).toNat then none
        else some { cause := .prot, addr := (s.seen c 0).reg xa }) = none := by
      rw [← hk, if_neg (by omega), hk', if_pos howns]
    have hplace : (s.seen c 0).quarFree ((s.seen c 0).reg xa).toNat = true := by
      unfold State.quarFree
      rw [← hk, hat]
      cases e with
      | none => rfl
      | some e => exact hfree e.1 e.2 rfl
    have hgo : ((s.seen c 0).frontWait true).and (.need ((s.seen c 0).quarFree ((s.seen c 0).reg xa).toNat)) = .go := by
      rw [State.frontWait_seen hplain, hplace]
      rfl
    have hlate : ((s.seen c 0).quarAt ((s.seen c 0).reg xa).toNat).trap = none := by
      rw [← hk, hat]
      rfl
    refine ⟨_, _, s.issue_goes _ _ hclear rfl (fun _ => hlevel) rfl nofun nofun hcheck rfl hgo hlate, rfl,
      State.commit_quarantine (e := e) hno ?_ ?_ ?_ rfl rfl rfl rfl⟩
    · rintro va l rfl
      rfl
    · rintro rfl
      rfl
    · exact State.quarEffect_pay (hk ▸ hat) hk hrows
  · intro c xa code s n hclear hlevel hplain hn hle hstores
    have hgo : ((s.seen c 0).frontWait true).and (.need ((s.seen c 0).storesAt (if ((s.seen c 0).reg xa).toNat = 6 then 3 else 2))) = .go := by
      rw [State.frontWait_seen hplain, ← hn, hstores]
      rfl
    have hcheck : (if 6 < ((s.seen c 0).reg xa).toNat then some ({ cause := .illop } : Trap) else none) = none := if_neg (by omega)
    refine ⟨_, s.issue_goes _ _ hclear rfl (fun _ => hlevel) rfl nofun nofun hcheck rfl hgo rfl, ?_⟩
    refine State.commit_interrupt (target := n) (code := code.toNat) ?_ rfl rfl rfl
    rw [hn, ← State.reg_pay (s.seen c 0)]
    rfl

/-! PROOFS. Writes in flight that land while no token counter passes 65,535 (R66, R68). -/

namespace Sys2Proof.Machine

open Sys2Proof

/-- What a write in flight adds to token counter `n`. -/
def flightTk (n : Nat) (f : Flight) : Nat :=
  match f.land with
  | .tk m a => if m = n then a else 0
  | _ => 0

theorem CtxSt.inFlightTk_eq (c : CtxSt) (n : Nat) :
    c.inFlightTk n = (c.sigs.filter fun g => g.stk.toNat == n).length + (c.flights.map (flightTk n)).sum := rfl

/-- What landing writes of core `k` change of the state, where no counter passes 65,535. -/
structure State.LandedIn (k : Nat) (s t : State) : Prop where
  device : t = { s with cores := t.cores }
  others : ∀ j, j ≠ k → t.core j = s.core j
  core   : (s.core k).Landed (t.core k)
  flights : ∀ y, ((t.core k).ctx y).flights.Sublist ((s.core k).ctx y).flights

theorem State.LandedIn.refl (k : Nat) (s : State) : s.LandedIn k s := ⟨rfl, fun _ _ => rfl, .refl _, fun _ => .refl _⟩

theorem State.LandedIn.trans {k : Nat} {s t u : State} (h : s.LandedIn k t) (h' : t.LandedIn k u) : s.LandedIn k u := by
  refine ⟨?_, fun j hj => (h'.others j hj).trans (h.others j hj), h.core.trans h'.core, fun y => (h'.flights y).trans (h.flights y)⟩
  have h1 := h.device
  have h2 := h'.device
  generalize t.cores = cores at h1
  subst h1
  exact h2

theorem State.landedIn_updCore (s : State) (k : Nat) {f : CoreSt → CoreSt} (hf : (s.core k).Landed (f (s.core k)))
    (hfl : ∀ y, ((f (s.core k)).ctx y).flights.Sublist ((s.core k).ctx y).flights) : s.LandedIn k (s.updCore k f) := by
  refine ⟨rfl, fun _ hj => State.core_updCore_other _ _ _ _ hj, ?_, fun y => ?_⟩
  · rw [State.core_updCore_same]; exact hf
  · rw [State.core_updCore_same]; exact hfl y

/-- A change of the core outside its contexts. -/
theorem State.landedIn_rest (s : State) (k : Nat) {f : CoreSt → CoreSt} (hf : f (s.core k) = { s.core k with
    tks := (f (s.core k)).tks, qs := (f (s.core k)).qs, starved := (f (s.core k)).starved, ex := (f (s.core k)).ex
    sp := (f (s.core k)).sp, spBad := (f (s.core k)).spBad }) : s.LandedIn k (s.updCore k f) := by
  refine s.landedIn_updCore k (.of_ctx hf) fun y => ?_
  rw [hf]
  cases y <;> exact .refl _

theorem State.landedIn_updCtx (s : State) (k : Nat) (x : Ctx) {f : CtxSt → CtxSt} (hf : (s.ctxOf k x).Landed (f (s.ctxOf k x)))
    (hfl : (f (s.ctxOf k x)).flights.Sublist (s.ctxOf k x).flights) : s.LandedIn k (s.updCtx k x f) := by
  refine s.landedIn_updCore k (CoreSt.Landed.of_updCtx hf) fun y => ?_
  by_cases hy : y = x
  · rw [hy, CoreSt.ctx_updCtx_same]
    exact hfl
  · rw [CoreSt.ctx_updCtx_other _ _ _ _ hy]

theorem State.landedIn_mark (s : State) (k : Nat) : s.LandedIn k (s.updCtx k .X fun c => { c with sflags := c.sflags ||| 1 }) :=
  s.landedIn_updCtx k .X rfl (.refl _)

theorem State.landedIn_attach (s : State) (k : Nat) (x : Ctx) (t : Trap) (eng : Bool) (pos : Nat) (w : Word) :
    s.LandedIn k (s.attach k x t eng pos w) := s.landedIn_updCtx k x rfl (.refl _)

theorem State.landedIn_dropFlights (s : State) (k : Nat) (x : Ctx) (p : Flight → Bool) :
    s.LandedIn k (s.updCtx k x fun c => { c with flights := c.flights.filter fun f => !p f }) :=
  s.landedIn_updCtx k x rfl List.filter_sublist

/-- The counters after a list of writes has landed hold what was in flight. -/
def FitsFlights (c : CoreSt) (l : List Flight) : Prop := ∀ n, (c.tk n).count + (l.map (flightTk n)).sum ≤ 65535

/-- The exact accumulators alone change as products are added. -/
theorem CoreSt.exAddAll_eq (c : CoreSt) (l : List (Nat × List (BitVec 32))) : (c.exAddAll l).1 = { c with ex := (c.exAddAll l).1.ex } := by
  induction l generalizing c with
  | nil => rfl
  | cons e r ih => exact ih _

theorem CoreSt.exClear_eq (c : CoreSt) (a n : Nat) : c.exClear a n = { c with ex := (c.exClear a n).ex } := by
  unfold CoreSt.exClear
  generalize List.range n = l
  induction l generalizing c with
  | nil => rfl
  | cons i l ih => exact ih _

theorem State.tks_updCtx (s : State) (k : Nat) (x : Ctx) (f : CtxSt → CtxSt) : ((s.updCtx k x f).core k).tks = (s.core k).tks := by
  unfold State.updCtx
  rw [State.core_updCore_same]
  cases x <;> rfl

/-- One write that lands: the state it leaves, and the room that is left in the counters. -/
theorem State.landOne_fits {s : State} {k : Nat} {f : Flight} {r : List Flight} (x : Ctx) (h : FitsFlights (s.core k) (f :: r)) :
    s.LandedIn k (s.landOne k x f) ∧ FitsFlights ((s.landOne k x f).core k) r := by
  have hkeep {t : State} (ht : (t.core k).tks = (s.core k).tks) : FitsFlights (t.core k) r := fun n => by
    have := h n
    rw [List.map_cons, List.sum_cons] at this
    have htk : (t.core k).tk n = (s.core k).tk n := by unfold CoreSt.tk; rw [ht]
    rw [htk]
    omega
  unfold State.landOne
  cases hl : f.land with
  | reg y v => exact ⟨s.landedIn_updCtx k x (CtxSt.landed_setReg ..) (by unfold CtxSt.setReg; split <;> exact .refl _), hkeep (s.tks_updCtx ..)⟩
  | push q id => exact ⟨s.landedIn_rest k rfl, hkeep (by rw [State.core_updCore_same]; rfl)⟩
  | exAdd adds =>
    have hadd : s.LandedIn k (s.setCore k ((s.core k).exAddAll adds).1) :=
      s.landedIn_rest k (f := fun _ => ((s.core k).exAddAll adds).1) (by rw [CoreSt.exAddAll_eq])
    have htks : ((s.setCore k ((s.core k).exAddAll adds).1).core k).tks = (s.core k).tks :=
      (congrArg CoreSt.tks (s.core_updCore_same k fun _ => ((s.core k).exAddAll adds).1)).trans (by rw [CoreSt.exAddAll_eq])
    dsimp only
    split
    · exact ⟨hadd, hkeep htks⟩
    · split
      · exact ⟨(hadd.trans (State.landedIn_mark _ k)).trans (State.landedIn_attach ..),
          hkeep ((State.tks_updCtx ..).trans ((State.tks_updCtx ..).trans htks))⟩
      · exact ⟨hadd.trans (State.landedIn_mark _ k), hkeep ((State.tks_updCtx ..).trans htks)⟩
  | exClr a n =>
    exact ⟨s.landedIn_rest k (by rw [CoreSt.exClear_eq]), hkeep (by rw [State.core_updCore_same]; rw [CoreSt.exClear_eq])⟩
  | scratch off e =>
    dsimp only
    generalize elemBytes e = bs
    exact ⟨s.landedIn_rest k rfl, hkeep (by rw [State.core_updCore_same])⟩
  | cq succ v =>
    refine ⟨(s.landedIn_updCtx k x ?_ ?_).trans (State.landedIn_rest _ k rfl), hkeep ?_⟩
    · split <;> rfl
    · split <;> exact .refl _
    · rw [State.core_updCore_same]
      exact s.tks_updCtx ..
  | tk m a =>
    have hfit := h m
    have hamount : flightTk m f = a := by unfold flightTk; rw [hl]; exact if_pos rfl
    rw [List.map_cons, List.sum_cons, hamount] at hfit
    have hpast : (s.core k).passes m a = false := decide_eq_false (by omega)
    have hinc : s.incTk k m a false (s.tkovf k m x false f.pos f.word 0) = s.updCore k fun c => c.incTk m a := by
      unfold State.incTk State.incTkFrom
      dsimp only
      rw [hpast]
      rfl
    dsimp only
    rw [hinc]
    refine ⟨s.landedIn_rest k rfl, fun n => ?_⟩
    rw [State.core_updCore_same]
    unfold CoreSt.incTk
    dsimp only
    rw [CoreSt.tk_setTk]
    have hn := h n
    rw [List.map_cons, List.sum_cons] at hn
    by_cases hnm : n = m
    · subst hnm
      rw [if_pos rfl]
      dsimp only
      omega
    · rw [if_neg hnm]
      omega
  | flags g => exact ⟨s.landedIn_updCtx k x rfl (.refl _), hkeep (s.tks_updCtx ..)⟩

theorem State.foldl_landOne_fits {k : Nat} {x : Ctx} (l : List Flight) : ∀ s : State, FitsFlights (s.core k) l →
    s.LandedIn k (l.foldl (fun s f => s.landOne k x f) s) := by
  induction l with
  | nil => exact fun s _ => .refl k s
  | cons f r ih =>
    intro s h
    obtain ⟨hland, hrest⟩ := State.landOne_fits x h
    exact hland.trans (ih _ hrest)

theorem sum_insertDue (n : Nat) (f : Flight) (l : List Flight) :
    ((insertDue f l).map (flightTk n)).sum = flightTk n f + (l.map (flightTk n)).sum := by
  induction l with
  | nil => rfl
  | cons g r ih =>
    unfold insertDue
    split
    · rfl
    · rw [List.map_cons, List.sum_cons, ih, List.map_cons, List.sum_cons]
      omega

theorem sum_landingOrder (n : Nat) (exposed : Bool) (l : List Flight) :
    ((landingOrder exposed l).map (flightTk n)).sum = (l.map (flightTk n)).sum := by
  unfold landingOrder
  split
  · induction l with
    | nil => rfl
    | cons f r ih => rw [List.foldr_cons, sum_insertDue, ih, List.map_cons, List.sum_cons]
  · rfl

theorem sum_filter_le (n : Nat) (p : Flight → Bool) (l : List Flight) : ((l.filter p).map (flightTk n)).sum ≤ (l.map (flightTk n)).sum := by
  induction l with
  | nil => exact Nat.le_refl _
  | cons f r ih =>
    rw [List.filter_cons]
    split
    · rw [List.map_cons, List.sum_cons, List.map_cons, List.sum_cons]; omega
    · rw [List.map_cons, List.sum_cons]; omega

/-- The flights of a context of a core whose counters have room. -/
theorem TkFits.flights {c : CoreSt} (h : TkFits c) (x : Ctx) (n : Nat) : (c.tk n).count + ((c.ctx x).flights.map (flightTk n)).sum ≤ 65535 := by
  have hfit := h n
  unfold CoreSt.inFlightTk at hfit
  rw [CtxSt.inFlightTk_eq, CtxSt.inFlightTk_eq, CtxSt.inFlightTk_eq] at hfit
  cases x <;> (unfold CoreSt.ctx; dsimp only; omega)

/-- The counters have room for what lands. -/
theorem State.fits_dropFlights {s : State} {k : Nat} (h : TkFits (s.core k)) (x : Ctx) (p : Flight → Bool) :
    FitsFlights ((s.updCtx k x fun c => { c with flights := c.flights.filter fun f => !p f }).core k)
      (landingOrder (s.ctxOf k x).exposed ((s.ctxOf k x).flights.filter p)) := fun n => by
  have htk : ((s.updCtx k x fun c => { c with flights := c.flights.filter fun f => !p f }).core k).tk n = (s.core k).tk n := by
    unfold CoreSt.tk
    rw [State.tks_updCtx]
  rw [htk, sum_landingOrder]
  have hall := h.flights x n
  have hsome := sum_filter_le n p (s.ctxOf k x).flights
  unfold State.ctxOf at hsome ⊢
  omega

/-- Writes that land change no counter past its limit, so nothing outside the core. -/
theorem State.landWhere_fits {s : State} {k : Nat} (h : TkFits (s.core k)) (x : Ctx) (p : Flight → Bool) : s.LandedIn k (s.landWhere k x p) := by
  unfold State.landWhere
  dsimp only
  exact (s.landedIn_dropFlights k x p).trans (State.foldl_landOne_fits _ _ (State.fits_dropFlights h x p))

theorem State.drain_fits {s : State} {k : Nat} (h : TkFits (s.core k)) (x : Ctx) : s.LandedIn k (s.drain k x) := State.landWhere_fits h x _

end Sys2Proof.Machine

/-! PROOFS. The ends of a context's words (R79, R80, R157 to R159, R401). -/

namespace Sys2Proof.Machine

open Sys2Proof

section

variable {v : State} {c : Ctl} {j : Issue} {n : Nat}

theorem State.sigs_paid (v : State) (c : Ctl) (j : Issue) (n : Nat) : (v.paid c j n).sigs = v.me.sigs := by
  change ((v.pay c j n).me).sigs = v.me.sigs
  rw [State.me_pay]

/-- A word's tokens and counters take nothing past the limit. -/
theorem State.tkFits_pay (h : TkFits v.cur) : TkFits (v.pay c j n).cur := by
  have hctx (y : Ctx) (m : Nat) : ((v.pay c j n).cur.ctx y).inFlightTk m = (v.cur.ctx y).inFlightTk m := by
    rw [(State.moves_pay v c j n).ctx]
    by_cases hy : y = v.who.ctx
    · subst hy
      rw [CtxSt.moved_same, CtxSt.inFlightTk_eq, CtxSt.inFlightTk_eq, State.sigs_paid]
      rfl
    · rw [CtxSt.moved_other _ _ hy]
      rfl
  intro m
  have hin : (v.pay c j n).cur.inFlightTk m = v.cur.inFlightTk m := by
    change ((v.pay c j n).cur.ctx .L).inFlightTk m + ((v.pay c j n).cur.ctx .X).inFlightTk m + ((v.pay c j n).cur.ctx .S).inFlightTk m = _
    rw [hctx, hctx, hctx]
    rfl
  have hfit := h m
  rw [hin, State.tk_pay]
  dsimp only
  omega

/-- A word's own writes land before its context stops: nothing outside the core changes. -/
theorem State.drain_pay (h : TkFits v.cur) : (v.pay c j n).LandedIn v.k ((v.pay c j n).drain v.k v.who.ctx) := by
  refine State.drain_fits ?_ _
  have hcur := State.tkFits_pay (c := c) (j := j) (n := n) h
  rwa [State.cur, (State.moves_pay v c j n).k] at hcur

theorem State.LandedIn.taskOf {k : Nat} {s t : State} (h : s.LandedIn k t) (i : Nat) : t.taskOf i = s.taskOf i := by
  have htask : (t.core i).task = (s.core i).task := by
    by_cases hi : i = k
    · rw [hi, h.core.rest]
    · rw [h.others i hi]
  unfold State.taskOf State.task?
  rw [htask, h.device]

theorem State.drain_flights {k : Nat} {s : State} (h : TkFits (s.core k)) (x : Ctx) : (((s.drain k x).core k).ctx x).flights = [] := by
  have hdrop : s.drain k x = ((landingOrder (s.ctxOf k x).exposed ((s.ctxOf k x).flights.filter fun _ => true)).foldl
      (fun s f => s.landOne k x f) (s.updCtx k x fun c => { c with flights := c.flights.filter fun _ => !true })) := rfl
  have hfold := State.foldl_landOne_fits (k := k) (x := x) (landingOrder (s.ctxOf k x).exposed ((s.ctxOf k x).flights.filter fun _ => true))
    (s.updCtx k x fun c => { c with flights := c.flights.filter fun _ => !true }) (State.fits_dropFlights h x _)
  have hnone : (((s.updCtx k x fun c => { c with flights := c.flights.filter fun _ => !true }).core k).ctx x).flights = [] := by
    unfold State.updCtx
    rw [State.core_updCore_same, CoreSt.ctx_updCtx_same]
    simp
  have hsub := hfold.flights x
  rw [hnone] at hsub
  rw [hdrop]
  exact List.sublist_nil.1 hsub

end

/-! ### EXIT -/

theorem CoreSt.allEnded_iff (c : CoreSt) : c.allEnded = true ↔ ∀ y, (c.ctx y).ended = true := by
  unfold CoreSt.allEnded
  rw [Bool.and_eq_true, Bool.and_eq_true]
  exact ⟨fun ⟨⟨hL, hX⟩, hS⟩ y => by cases y <;> assumption, fun h => ⟨⟨h .L, h .X⟩, h .S⟩⟩

theorem CoreSt.beginDrain_eq (c : CoreSt) : c.beginDrain = { c with status := c.beginDrain.status } := by
  unfold CoreSt.beginDrain
  split <;> rfl

theorem CoreSt.ctx_beginDrain (c : CoreSt) (y : Ctx) : c.beginDrain.ctx y = c.ctx y := by
  rw [CoreSt.beginDrain_eq]
  cases y <;> rfl

/-- The core of a context that ends, with what it owes. -/
def CoreSt.ends (d : CoreSt) (x : Ctx) (g : CtxSt → CtxSt) : CoreSt := (d.updCtx x CtxSt.exitNow).beginDrain.updCtx x g

theorem CoreSt.ctx_ends (d : CoreSt) (x : Ctx) (g : CtxSt → CtxSt) : (d.ends x g).ctx x = g (d.ctx x).exitNow := by
  unfold CoreSt.ends
  rw [CoreSt.ctx_updCtx_same, CoreSt.ctx_beginDrain, CoreSt.ctx_updCtx_same]

theorem CoreSt.status_ends (d : CoreSt) (x : Ctx) (g : CtxSt → CtxSt) : (d.ends x g).status =
    if (d.updCtx x CtxSt.exitNow).allEnded && d.status == .active then .draining else d.status := by
  have hupd (c : CoreSt) (f : CtxSt → CtxSt) : (c.updCtx x f).status = c.status := by cases x <;> rfl
  unfold CoreSt.ends CoreSt.beginDrain
  rw [hupd, hupd]
  split
  · rfl
  · rw [hupd]

theorem CoreSt.allEnded_exitNow (d : CoreSt) (x : Ctx) :
    (d.updCtx x CtxSt.exitNow).allEnded = true ↔ ∀ y, y ≠ x → (d.ctx y).ended = true := by
  rw [CoreSt.allEnded_iff]
  refine ⟨fun h y hy => ?_, fun h y => ?_⟩
  · have := h y
    rwa [CoreSt.ctx_updCtx_other _ _ _ _ hy] at this
  · by_cases hy : y = x
    · rw [hy, CoreSt.ctx_updCtx_same]
      rfl
    · rw [CoreSt.ctx_updCtx_other _ _ _ _ hy]
      exact h y hy

/-- EXIT's effect on the state where its context's writes have landed. -/
def State.endsContext (d : State) : State := ((d.updMe CtxSt.exitNow).updCur CoreSt.beginDrain).haltDone d.k

theorem State.endsContext_updMe {d : State} (h : d.cur.haltReq = false) (g : CtxSt → CtxSt) :
    d.endsContext.updMe g = d.updCur fun k => k.ends d.who.ctx g := by
  have hcore : ((d.updMe CtxSt.exitNow).updCur CoreSt.beginDrain).core d.k = (d.cur.updCtx d.who.ctx CtxSt.exitNow).beginDrain := by
    have := State.cur_updCur (d.updMe CtxSt.exitNow) CoreSt.beginDrain
    rw [State.cur_updMe] at this
    exact this
  have hnone : (((d.updMe CtxSt.exitNow).updCur CoreSt.beginDrain).core d.k).haltReq = false := by
    rw [hcore, CoreSt.beginDrain_eq, ← h]
    cases d.who.ctx <;> rfl
  have hstay : d.endsContext = (d.updMe CtxSt.exitNow).updCur CoreSt.beginDrain := by
    unfold State.endsContext State.haltDone
    rw [hnone]
    rfl
  rw [hstay]
  exact (State.updCore_updCore (d.updCore d.k fun k => k.updCtx d.who.ctx CtxSt.exitNow) d.k CoreSt.beginDrain
    fun k => k.updCtx d.who.ctx g).trans (State.updCore_updCore d d.k _ _)

/-- The issue of EXIT. -/
def exitWord : Issue :=
  { allowed := .all
    branch := true
    effect := fun _ s => (((s.drain s.k s.who.ctx).updMe CtxSt.exitNow).updCur CoreSt.beginDrain).haltDone s.k }

/-- A context that owes signals more. -/
def CtxSt.owes (d : CtxSt) (l : List Sig) : CtxSt := { d with sigs := d.sigs ++ l }

/-- What EXIT leaves: the writes in flight have landed, and the context has ended. -/
theorem State.commit_exit {v : State} {c : Ctl} {j : Issue} {n : Nat} (hfits : TkFits v.cur) (hreq : v.cur.haltReq = false)
    (heffect : ∀ wid s, j.effect wid s = (((s.drain s.k s.who.ctx).updMe CtxSt.exitNow).updCur CoreSt.beginDrain).haltDone s.k)
    (hbr : j.branch = true) : ∃ l, v.commit c j n =
      ((v.pay c j n).drain v.k v.who.ctx).updCore v.k fun k => k.ends v.who.ctx fun e => e.owes l := by
  have hmoves := State.moves_pay v c j n
  have hland := State.drain_pay (c := c) (j := j) (n := n) hfits
  have hwho : ((v.pay c j n).drain v.k v.who.ctx).who = v.who := (State.who_landWhere ..).trans hmoves.who
  have hk : ((v.pay c j n).drain v.k v.who.ctx).k = v.k := by rw [State.k, hwho]; rfl
  have hnone : ((v.pay c j n).drain v.k v.who.ctx).cur.haltReq = false := by
    rw [State.cur, hk, hland.core.rest, ← hreq]
    have hcur := hmoves.cur
    rw [State.cur, hmoves.k] at hcur
    rw [hcur]
    rfl
  refine ⟨owed c v.cur.nextId v.me.pc v.wordAtPc (j.hold && j.holdIf (((v.pay c j n).drain v.k v.who.ctx).endsContext)) j.engine, ?_⟩
  have hends := State.endsContext_updMe hnone fun e => e.owes
    (owed c v.cur.nextId v.me.pc v.wordAtPc (j.hold && j.holdIf (((v.pay c j n).drain v.k v.who.ctx).endsContext)) j.engine)
  unfold State.updCur at hends
  rw [hwho, hk] at hends
  rw [← hends]
  have hdone : j.effect v.cur.nextId (v.pay c j n) = ((v.pay c j n).drain v.k v.who.ctx).endsContext := by
    rw [heffect, hmoves.k, hmoves.who]
    unfold State.endsContext
    rw [hk]
  unfold State.commit
  dsimp only
  rw [hdone, hbr]
  rfl

/-- A context that stops on its own word: the state that its writes in flight leave, outside the core. -/
theorem State.drained_device {v : State} {c : Ctl} {j : Issue} {n : Nat} (hfits : TkFits v.cur) :
    (v.pay c j n).drain v.k v.who.ctx = { v with cores := ((v.pay c j n).drain v.k v.who.ctx).cores } := by
  have hdevice := (State.drain_pay (c := c) (j := j) (n := n) hfits).device
  have hpay := (State.moves_pay v c j n).inside.device
  generalize (v.pay c j n).cores = cores at hpay
  rw [hpay] at hdevice ⊢
  exact hdevice

/-- A context as it stands once its core's writes in flight have landed. -/
theorem State.drained_ctx {v : State} {c : Ctl} {j : Issue} {n : Nat} (hfits : TkFits v.cur) (y : Ctx) :
    (v.cur.ctx y).ended = ((((v.pay c j n).drain v.k v.who.ctx).core v.k).ctx y).ended := by
  have hland := (State.drain_pay (c := c) (j := j) (n := n) hfits).core.ctx y
  have hpay := (State.moves_pay v c j n).ctx y
  rw [State.cur, (State.moves_pay v c j n).k] at hpay
  rw [hland, hpay]
  rfl

theorem State.drained_status {v : State} {c : Ctl} {j : Issue} {n : Nat} (hfits : TkFits v.cur) :
    (((v.pay c j n).drain v.k v.who.ctx).core v.k).status = v.cur.status := by
  have hpay := (State.moves_pay v c j n).cur
  rw [State.cur, (State.moves_pay v c j n).k] at hpay
  rw [(State.drain_pay (c := c) (j := j) (n := n) hfits).core.rest, hpay]
  rfl

theorem State.drained_others {v : State} {c : Ctl} {j : Issue} {n : Nat} (hfits : TkFits v.cur) {k : Nat} (hk : k ≠ v.k) :
    ((v.pay c j n).drain v.k v.who.ctx).core k = v.core k := by
  rw [(State.drain_pay (c := c) (j := j) (n := n) hfits).others k hk, (State.moves_pay v c j n).inside.cores k hk]

theorem State.drained_flights {v : State} {c : Ctl} {j : Issue} {n : Nat} (hfits : TkFits v.cur) :
    ((((v.pay c j n).drain v.k v.who.ctx).core v.k).ctx v.who.ctx).flights = [] := by
  refine State.drain_flights ?_ _
  have hcur := State.tkFits_pay (c := c) (j := j) (n := n) hfits
  rwa [State.cur, (State.moves_pay v c j n).k] at hcur

theorem State.who_drained (v : State) (c : Ctl) (j : Issue) (n : Nat) : ((v.pay c j n).drain v.k v.who.ctx).who = v.who :=
  (State.who_landWhere ..).trans (State.moves_pay v c j n).who

/-! ### BRK and SYSC -/

/-- A cause that parks no task stops its context. -/
theorem State.takeCause_stops {s : State} {k : Nat} {x : Ctx} {r : FaultRecord} {deferrable : Bool}
    (h : ∀ u, (s.drain k x).taskOf k = some u → (u.spec && deferrable) = false) : s.takeCause k x r deferrable =
      ((s.drain k x).log r).updCtx k x fun c => { c with run := .trapped r, blocked := false, pair := none } := by
  unfold State.takeCause
  dsimp only
  split
  · next u hu => rw [if_neg (ne_true_of_eq_false (h u hu))]
  · rfl

/-- A word whose effect stops its context leaves it stopped. -/
theorem State.commit_stops {v u : State} {c : Ctl} {j : Issue} {n : Nat} {r : FaultRecord} (heffect : j.effect v.cur.nextId (v.pay c j n) =
      (u.log r).updCtx v.k v.who.ctx fun c => { c with run := .trapped r, blocked := false, pair := none })
    (hwho : u.who = v.who) (hbr : j.branch = false) (hgo : j.goes = false) : (v.commit c j n).me.run = .trapped r := by
  have hlog : (u.log r).who = v.who := (State.who_logAt ..).trans hwho
  have hstopped : ((u.log r).updCtx v.k v.who.ctx fun c => { c with run := .trapped r, blocked := false, pair := none }).me.run = .trapped r := by
    have hk : (u.log r).k = v.k := by rw [State.k, hlog]; rfl
    have hx : (u.log r).who.ctx = v.who.ctx := by rw [hlog]
    rw [← hk, ← hx]
    exact congrArg CtxSt.run (State.me_updMe (u.log r) fun c => { c with run := .trapped r, blocked := false, pair := none })
  unfold State.commit
  dsimp only
  rw [heffect, hbr, hgo, State.me_updMe]
  change (State.me (State.updMe _ CtxSt.advance)).run = _
  rw [State.me_updMe]
  exact hstopped

/-- The record of a cause that the issuing word takes once it has completed. -/
def State.wordRecord (s : State) (t : Trap) (w : Word) : FaultRecord :=
  s.record s.k s.who.ctx.code t false s.me.level s.me.pc s.me.advance.pc w

theorem State.wordRecord_pay (v : State) (c : Ctl) (j : Issue) (n : Nat) (t : Trap) (w : Word) :
    ((v.pay c j n).wordRecord t w).pos = v.me.pc ∧ ((v.pay c j n).wordRecord t w).resume = v.me.advance.pc ∧
      ((v.pay c j n).wordRecord t w).ctx = v.who.ctx.code ∧ ((v.pay c j n).wordRecord t w).core = v.k := by
  have hmoves := State.moves_pay v c j n
  have hpc : (v.pay c j n).me.pc = v.me.pc := by rw [State.me_pay]
  have hadv := CtxSt.advance_of (d := (v.pay c j n).me) (e := v.me) hpc (by rw [State.me_pay]) (by rw [hmoves.me, CtxSt.moved_same])
  exact ⟨hpc, hadv.1, congrArg (fun w : Who => w.ctx.code) hmoves.who, hmoves.k⟩

/-- The issue of BRK. -/
def brkWord (c : Ctl) (code : BitVec 28) : Issue :=
  { allowed := .all
    effect := fun _ s => s.takeCause s.k s.who.ctx (s.wordRecord { cause := .brk, info := zext code } (wordOf (.brk c code))) true }

/-- The issue of SYSC. -/
def syscWord (c : Ctl) (service : BitVec 28) : Issue :=
  { allowed := .all
    wait := fun s => s.frontWait true
    effect := fun _ s => s.takeCause s.k s.who.ctx (s.wordRecord { cause := .sysc, info := zext service } (wordOf (.sysc c service))) false }

/-- A word whose effect is a cause that parks no task stops its context with the cause's record. -/
theorem State.commit_takeCause {v : State} {c : Ctl} {j : Issue} {n : Nat} {t : Trap} {w : Word} {deferrable : Bool} (hfits : TkFits v.cur)
    (heffect : ∀ wid s, j.effect wid s = s.takeCause s.k s.who.ctx (s.wordRecord t w) deferrable)
    (hstay : ∀ u, v.taskOf v.k = some u → (u.spec && deferrable) = false) (hbr : j.branch = false) (hgo : j.goes = false) :
    ∃ r : FaultRecord, (v.commit c j n).me.run = .trapped r ∧ r.cause = t.cause ∧ r.info = t.info ∧ r.pos = v.me.pc ∧
      r.resume = v.me.advance.pc ∧ r.ctx = v.who.ctx.code ∧ r.core = v.k := by
  have hmoves := State.moves_pay v c j n
  have htask : ((v.pay c j n).drain v.k v.who.ctx).taskOf v.k = v.taskOf v.k := by
    rw [(State.drain_pay hfits).taskOf, hmoves.taskOf]
  refine ⟨(v.pay c j n).wordRecord t w, State.commit_stops ?_ (v.who_drained c j n) hbr hgo, rfl, rfl, State.wordRecord_pay ..⟩
  rw [heffect, State.takeCause_stops (by rw [hmoves.k, hmoves.who, htask]; exact hstay), hmoves.k, hmoves.who]

/-- A word whose effect is a cause that parks its speculative task leaves the task parked. -/
theorem State.commit_parks {v : State} {c : Ctl} {j : Issue} {n : Nat} {t : Trap} {w : Word} {u : Task} (hfits : TkFits v.cur)
    (heffect : ∀ wid s, j.effect wid s = s.takeCause s.k s.who.ctx (s.wordRecord t w) true) (htask : v.taskOf v.k = some u)
    (hspec : u.spec = true) (hbr : j.branch = false) (hgo : j.goes = false) :
    (v.commit c j n).task? u.seq = some { u with st := .parked, parked := some ((v.pay c j n).wordRecord t w) } := by
  have hmoves := State.moves_pay v c j n
  have hdrained : ((v.pay c j n).drain v.k v.who.ctx).taskOf v.k = some u := by
    rw [(State.drain_pay hfits).taskOf, hmoves.taskOf, htask]
  have hpark : j.effect v.cur.nextId (v.pay c j n) = ((v.pay c j n).drain v.k v.who.ctx).park u ((v.pay c j n).wordRecord t w) := by
    rw [heffect, hmoves.k, hmoves.who]
    unfold State.takeCause
    dsimp only
    rw [hdrained]
    exact if_pos (by rw [hspec]; rfl)
  have hcommit : (v.commit c j n).task? u.seq = (j.effect v.cur.nextId (v.pay c j n)).task? u.seq := by
    unfold State.commit
    dsimp only
    rw [hbr, hgo]
    rfl
  rw [hcommit, hpark]
  exact State.task?_park ..

/-- A word that its own wait holds stalls. -/
theorem State.issue_stalls (s : State) (i : Instr) (j : Issue) (h : s.clear (ctlOf i) j.unit j.tki j.uses = true) (ha : j.allowed.ok s.who.ctx = true)
    (hp : j.priv = false) (hpre : j.pre (s.seen (ctlOf i) j.unit) = none) (hb : j.branch = false) (hq : j.queue = false)
    (hc : j.check (s.seen (ctlOf i) j.unit) = none) (ho : j.ordered (s.seen (ctlOf i) j.unit) = none)
    (hw : j.wait (s.seen (ctlOf i) j.unit) = .block) : s.issue i j = .next (s.stall (ctlOf i) j .block) := by
  have hwho := State.who_seen s (ctlOf i) j.unit
  have hv : s.atCycle (s.me.nextCycle (ctlOf i) j.unit) = s.seen (ctlOf i) j.unit := rfl
  generalize hvv : s.seen (ctlOf i) j.unit = v at *
  simp only [State.clear, hvv, Bool.and_eq_true, Bool.or_eq_true, bne_iff_ne, beq_iff_eq, List.isEmpty_iff,
    Option.isNone_iff_eq_none, Bool.not_eq_true', and_assoc] at h
  obtain ⟨hrun, hstop, hhere, hattached, hregs, htokens, hflag, hplaces, hslack, -⟩ := h
  have hready : v.operandsReady j = true := by
    unfold State.operandsReady
    rw [hregs, hq]
    rfl
  have hcommon : v.commonWait (ctlOf i) j = .go := by
    simp [State.commonWait, hwho, htokens, hplaces, hslack, Wait.feed, Wait.need, Wait.and]
  have hforced : s.me.forcedDue (ctlOf i).stop = false := by
    simp only [CtxSt.forcedDue, Bool.and_eq_false_iff, beq_eq_false_iff_ne]
    rcases hstop with hstop | hstop
    · exact .inl (.inl hstop)
    · exact .inl (.inr (by simp [hstop]))
  have holdest : v.oldestCause none = none := by simp [State.oldestCause, hattached]
  unfold State.issue
  simp [hv, hrun, ha, hp, hhere, hpre, hb, hready, hc, ho, hwho, hflag, hcommon, hw, hforced, holdest, Wait.and]

/-- SYSC's wait. -/
theorem State.stall_alone (s : State) (c : Ctl) (j : Issue) (h : s.me.pair = none) : s.stall c j .block = s.block := by
  unfold State.stall CtxSt.seconds
  rw [h]
  rfl

end Sys2Proof.Machine

open Sys2Proof Sys2Proof.Machine in
/-- Settles O10: the writes in flight land within the core, and the context ends, or stops with its cause. -/
theorem contextEnds : Obligations.ContextEnds := by
  unfold Obligations.ContextEnds
  refine ⟨?_, ?_, ?_, ?_, ?_⟩
  · intro c s hclear hclosing hreq hfits
    have hgoes := s.issue_goes (.exit c) exitWord hclear rfl nofun rfl (fun _ => hclosing) nofun rfl rfl rfl rfl
    obtain ⟨l, hcommit⟩ := State.commit_exit (v := s.seen c 0) (c := c) (j := exitWord) (n := s.me.nextCycle c 0) hfits hreq (fun _ _ => rfl) rfl
    refine ⟨_, hgoes.trans (congrArg Host.Outcome.next hcommit), ?_⟩
    have hk : (s.seen c 0).k = s.k := s.k_seen c 0
    have hx : (s.seen c 0).who.ctx = s.who.ctx := by rw [State.who_seen]
    have hwho := (s.seen c 0).who_drained c exitWord (s.me.nextCycle c 0)
    have hdevice := State.drained_device (c := c) (j := exitWord) (n := s.me.nextCycle c 0) hfits
    have hothers (k : Nat) (hne : k ≠ (s.seen c 0).k) := State.drained_others (c := c) (j := exitWord) (n := s.me.nextCycle c 0) hfits hne
    have hflights := State.drained_flights (c := c) (j := exitWord) (n := s.me.nextCycle c 0) hfits
    have hended (y : Ctx) := State.drained_ctx (c := c) (j := exitWord) (n := s.me.nextCycle c 0) hfits y
    have hstatus := State.drained_status (c := c) (j := exitWord) (n := s.me.nextCycle c 0) hfits
    generalize ((s.seen c 0).pay c exitWord (s.me.nextCycle c 0)).drain (s.seen c 0).k (s.seen c 0).who.ctx = d at *
    have hcur : (d.updCore (s.seen c 0).k fun k => k.ends (s.seen c 0).who.ctx fun e => e.owes l).cur =
        (d.core (s.seen c 0).k).ends (s.seen c 0).who.ctx fun e => e.owes l := by
      have hdk : d.k = (s.seen c 0).k := by rw [State.k, hwho]; rfl
      rw [← hdk]
      exact State.core_updCore_same ..
    have hme : (d.updCore (s.seen c 0).k fun k => k.ends (s.seen c 0).who.ctx fun e => e.owes l).me =
        ((d.core (s.seen c 0).k).ctx (s.seen c 0).who.ctx).exitNow.owes l := by
      rw [State.me, hcur]
      change CoreSt.ctx _ d.who.ctx = _
      rw [hwho, CoreSt.ctx_ends]
    refine ⟨?_, fun k hne => ?_, ?_, ?_, ?_, ?_, fun hall hactive => ?_, fun hsome => ?_⟩
    · generalize d.cores = cores at hdevice
      subst hdevice
      rfl
    · rw [← hk] at hne
      rw [State.core_updCore_other _ _ _ _ hne, hothers k hne]
    · rw [hme]; rfl
    · rw [hme]; rfl
    · rw [hme]; rfl
    · rw [hme]; exact hflights
    · have hends : ((d.core (s.seen c 0).k).updCtx (s.seen c 0).who.ctx CtxSt.exitNow).allEnded = true :=
        (CoreSt.allEnded_exitNow ..).2 fun y hy => (hended y).symm.trans (hall y (by rwa [← hx]))
      rw [hcur, CoreSt.status_ends, hends, hstatus, hactive]
      rfl
    · obtain ⟨y, hy, hrunning⟩ := hsome
      have hends : ((d.core (s.seen c 0).k).updCtx (s.seen c 0).who.ctx CtxSt.exitNow).allEnded = false := by
        rw [← Bool.not_eq_true, CoreSt.allEnded_exitNow]
        intro h
        have := h y (by rwa [hx])
        rw [← hended y, hrunning] at this
        exact Bool.false_ne_true this
      rw [hcur, CoreSt.status_ends, hends, hstatus]
      rfl
  · intro c code s hclear hplain hfits
    have hgoes := s.issue_goes (.brk c code) (brkWord c code) hclear rfl nofun rfl nofun nofun rfl rfl rfl rfl
    have hk := s.k_seen c 0
    have hstay (u : Task) (hu : (s.seen c 0).taskOf (s.seen c 0).k = some u) : (u.spec && true) = false := by
      rw [hk] at hu
      rw [Bool.and_true]
      unfold State.isSpec at hplain
      rwa [hu] at hplain
    obtain ⟨r, hrun, hcause, hinfo, hpos, hresume, hctx, hcore⟩ := State.commit_takeCause (v := s.seen c 0) (c := c)
      (j := brkWord c code) (n := s.me.nextCycle c 0) hfits (fun _ _ => rfl) hstay rfl rfl
    exact ⟨_, r, hgoes, hrun, hcause, hinfo, hpos, hresume, by rw [hctx, State.who_seen], by rw [hcore, hk]⟩
  · intro c code s tk hclear htask hspec hfits
    have hgoes := s.issue_goes (.brk c code) (brkWord c code) hclear rfl nofun rfl nofun nofun rfl rfl rfl rfl
    have hpark := State.commit_parks (v := s.seen c 0) (c := c) (j := brkWord c code) (n := s.me.nextCycle c 0) hfits (fun _ _ => rfl)
      (by rw [s.k_seen]; exact htask) hspec rfl rfl
    exact ⟨_, _, _, hgoes, hpark, rfl, rfl, rfl, rfl⟩
  · intro c service s hclear hexposed hpair hspec
    have hwait : (s.seen c 0).frontWait true = .block := by
      rw [State.seen_interlocked _ _ _ hexposed]
      unfold State.frontWait
      rw [hspec]
      rfl
    exact (s.issue_stalls (.sysc c service) (syscWord c service) hclear rfl rfl rfl rfl rfl rfl rfl hwait).trans
      (congrArg Host.Outcome.next (s.stall_alone _ _ hpair))
  · intro c service s hclear hplain hfits
    have hgoes := s.issue_goes (.sysc c service) (syscWord c service) hclear rfl nofun rfl nofun nofun rfl rfl (State.frontWait_seen hplain) rfl
    have hk := s.k_seen c 0
    obtain ⟨r, hrun, hcause, hinfo, hpos, hresume, hctx, hcore⟩ := State.commit_takeCause (v := s.seen c 0) (c := c)
      (j := syscWord c service) (n := s.me.nextCycle c 0) hfits (fun _ _ => rfl) (fun u _ => Bool.and_false _) rfl rfl
    exact ⟨_, r, hgoes, hrun, hcause, hinfo, hpos, hresume, by rw [hctx, State.who_seen], by rw [hcore, hk]⟩

/-! PROOFS. Statements about memory that an abort refutes.

A write that a task performs aborts the tasks of other partitions that have read its line (R296), and an abort that takes a child with it
writes the header of the queue segment that held the child's entry (R421). The statement below says of every state that the memories are
those that the write alone leaves; others leave such states out (`NoReaders`). -/

namespace Sys2Proof.Machine

open Sys2Proof

/-- Core 0 has a store to line 0 of host memory in its access unit. Task 1 of partition 1 has read that line; task 2 is the partition's
frontier, and a queue segment at 0x100000 holds the entries of tasks 3, a child of task 1, and 4. -/
def readerAborts : State :=
  { State.reset with
    nextSeq := 5
    tasks := [(1, { logReader with part := 1, target := [], reads := [⟨0, 1, 0, true, []⟩] }),
      (2, { logReader with seq := 2, ts := 1, part := 1, target := [], spec := false, prov := false, reads := [] }),
      (3, { logReader with seq := 3, part := 1, parent := 1, st := .waiting, target := [], reads := [] })]
    parts := [(1, { Part.reset with segs := [⟨2, 0x100000, [3, 4]⟩] })]
    cores := [(0, { CoreSt.reset with posted := [⟨.L, 0, 1, 0, 0, [1]⟩] })] }

/-- The outcome goes on with a value at an address of HBM. -/
def leavesByte (o : Host.Outcome State Fault Refusal) (a : Nat) (b : Byte) : Bool :=
  match o with
  | .next t => t.hbm.byte a == b
  | _ => false

/-- Refutes O36: a store of the access unit whose line another partition's task has read (`readerAborts`). -/
theorem not_storesArePerformed : ¬ Obligations.StoresArePerformed := by
  unfold Obligations.StoresArePerformed
  rintro ⟨-, -, -, hposted⟩
  obtain ⟨t, ht, hmem⟩ := hposted 0 .L readerAborts 0 0 ⟨.L, 0, 1, 0, 0, [1]⟩ (by decide) rfl (by decide +kernel) nofun
  have hout : leavesByte (exec (.postedStorePerformed 0 .L 1 0) readerAborts) 0x100008 1 = true := by decide +kernel
  rw [ht] at hout
  have hbyte : t.hbm.byte 0x100008 = 1 := eq_of_beq hout
  obtain ⟨hhbm, -⟩ := hmem
  rw [hhbm] at hbyte
  exact absurd hbyte (by decide +kernel)

end Sys2Proof.Machine

/-! PROOFS. LOAD_COMPLETE (R222, R240, R346). -/

namespace Sys2Proof.Machine

open Sys2Proof

/-- LOAD_COMPLETE of an access that is ready performs it. -/
theorem exec_loadComplete {k : Nat} {x : Ctx} {s : State} {a : Access} (hk : k < 384)
    (hfind : (s.ctxOf k x).accq.find? (fun a => a.op.isLoad) = some a) (hready : s.loadReady k x a = true) :
    exec (.loadComplete k x) s = .next (s.doLoad k x a) := by
  change execLoadComplete k x s = _
  unfold execLoadComplete
  rw [if_neg (by omega), hfind]
  exact if_pos hready

theorem sameMemory_refl (s : State) : SameMemory s s := ⟨rfl, rfl, rfl, rfl, rfl, rfl⟩

/-- A read that is noted changes the reader's read set alone. -/
theorem State.note_eq (s : State) (k : Nat) (ns : List ReadEnt) : s.note k ns = { s with tasks := (s.note k ns).tasks } := by
  unfold State.note State.updTask
  split
  · rfl
  · split <;> rfl

theorem State.core_note (s : State) (k : Nat) (ns : List ReadEnt) (i : Nat) : (s.note k ns).core i = s.core i := by
  rw [State.note_eq]
  rfl

theorem State.sameMemory_note (s : State) (k : Nat) (ns : List ReadEnt) : SameMemory (s.note k ns) s := by
  rw [State.note_eq]
  exact ⟨rfl, rfl, rfl, rfl, rfl, rfl⟩

/-- What is read into a register or a queue. -/
theorem State.doLoad_reads {s : State} {k : Nat} {x : Ctx} {a : Access} {bs : List Byte} {notes : List ReadEnt}
    (hop : ∀ op dbl xd b old, a.op ≠ .amo op dbl xd b old) (hread : s.readEa k ((s.ctxOf k x).acc false) a.ea a.op.size = .ok bs notes) :
    s.doLoad k x a = (s.note k notes).finishLoad k x a (overlayStores bs a ((s.ctxOf k x).before a)) := by
  unfold State.doLoad
  split
  · next op dbl xd b old h => exact (hop _ _ _ _ _ h).elim
  · rw [hread]

theorem CoreSt.ctx_setQueue (c : CoreSt) (i : Nat) (q : QState) (y : Ctx) : (c.setQueue i q).ctx y = c.ctx y := by cases y <;> rfl

theorem CoreSt.queue_updCtx (c : CoreSt) (x : Ctx) (f : CtxSt → CtxSt) (q : Nat) : (c.updCtx x f).queue q = c.queue q := by cases x <;> rfl

section

variable {s : State} {k : Nat} {x : Ctx} {a : Access} {op : AmoOp} {dbl : Bool} {xd : Reg} {b old : Word}

theorem State.doLoad_amo (hop : a.op = .amo op dbl xd b old) : s.doLoad k x a = s.doAmo k x a op dbl xd b old := by
  unfold State.doLoad
  rw [hop]

/-- An AMO's new bytes, by the value that it found. -/
def amoBytes (op : AmoOp) (n : Nat) (b old : Word) (m : Nat) : List Byte :=
  leBytes n (amoNew op (8 * n) m (b.toNat % 2 ^ (8 * n)) (old.toNat % 2 ^ (8 * n)))

/-- An AMO of scratchpad bytes. -/
theorem State.doAmo_scratch {off : Nat} (hclass : classOfAddr a.ea = .scratch off) (hlost : (s.core k).spLost off (if dbl then 8 else 4) = false) :
    s.doAmo k x a op dbl xd b old = (s.updCore k fun c => { c with
      sp := c.sp.setBytes off (amoBytes op (if dbl then 8 else 4) b old ((s.core k).sp.num off (if dbl then 8 else 4))) }).updCtx k x
        fun c => (c.dropAccess a.wid).arrive xd (w64 ((s.core k).sp.num off (if dbl then 8 else 4))) := by
  unfold State.doAmo amoBytes
  dsimp only
  rw [hclass]
  dsimp only
  exact if_neg (ne_true_of_eq_false hlost)

/-- An AMO of memory, after which no abort can follow. -/
theorem State.doAmo_virt {va : Nat} {l : Loc} (hclass : classOfAddr a.ea = .virt va) (htrans : s.translate k ((s.ctxOf k x).acc true) va = .ok l)
    (hremote : l.space = 1 ∨ l.space = 2 → amoRemote op = true) (hlost : s.lostAt k l (if dbl then 8 else 4) = false)
    (hposted : (s.core k).postedMeets l (if dbl then 8 else 4) = false) (hplain : s.isSpec k = false) (hport : s.portOpen l = true)
    (hno : NoReaders s) : s.doAmo k x a op dbl xd b old =
      (performed s l va (amoBytes op (if dbl then 8 else 4) b old (bytesToNat (s.portBytes l (if dbl then 8 else 4)))) k x a.wid).updCtx k x
        fun c => (c.dropAccess a.wid).arrive xd (w64 (bytesToNat (s.portBytes l (if dbl then 8 else 4)))) := by
  have hnear : ¬((l.space = 1 ∨ l.space = 2) ∧ (!amoRemote op) = true) := fun ⟨hspace, hbad⟩ => by
    rw [hremote hspace] at hbad
    cases hbad
  rw [← State.devWrite_eq hno k x a.wid true]
  unfold State.doAmo amoBytes
  dsimp only
  rw [hclass]
  dsimp only
  rw [htrans]
  dsimp only
  rw [if_neg hnear, if_neg (ne_true_of_eq_false hlost), hposted, hplain, hport]
  exact if_neg nofun

end

end Sys2Proof.Machine

open Sys2Proof Sys2Proof.Machine in
/-- Settles O35: what `doLoad` does to a ready access, case by case; no abort can follow an AMO's write. -/
theorem loadsComplete : Obligations.LoadsComplete := by
  unfold Obligations.LoadsComplete
  refine ⟨?_, ?_, ?_, ?_⟩
  · intro k x s a xd n bs notes hk hfind hop hready hread
    have hsize : a.op.size = n := by rw [hop]; rfl
    have hload := State.doLoad_reads (a := a) (bs := bs) (notes := notes) (by rw [hop]; exact nofun) (by rw [hsize]; exact hread)
    refine ⟨_, (exec_loadComplete hk hfind hready).trans (congrArg Host.Outcome.next hload), ?_, fun j hj => ?_, ?_⟩
    all_goals
      unfold State.finishLoad
      rw [hop]
      dsimp only
    · exact s.sameMemory_note k notes
    · unfold State.updCtx
      rw [State.core_updCore_other _ _ _ _ hj, State.core_updCore_other _ _ _ _ hj, State.core_note]
    · rw [State.ctxOf_updCtx_same, State.ctxOf_updCtx_same]
      unfold State.ctxOf
      rw [State.core_note]
  · intro k x s a q id bs notes hk hfind hop hready hread
    have hsize : a.op.size = 512 := by rw [hop]; rfl
    have hload := State.doLoad_reads (a := a) (bs := bs) (notes := notes) (by rw [hop]; exact nofun) (by rw [hsize]; exact hread)
    refine ⟨_, (exec_loadComplete hk hfind hready).trans (congrArg Host.Outcome.next hload), ?_, ?_, ?_⟩
    all_goals
      unfold State.finishLoad
      rw [hop]
      dsimp only
    · exact s.sameMemory_note k notes
    · unfold State.ctxOf
      rw [State.core_updCore_same, CoreSt.ctx_setQueue]
      unfold State.updCtx
      rw [State.core_updCore_same, CoreSt.ctx_updCtx_same, State.core_note]
    · rw [State.core_updCore_same, CoreSt.queue_put_same rfl]
      unfold State.updCtx
      rw [State.core_updCore_same, CoreSt.queue_updCtx, State.core_note]
  · intro k x s a op dbl xd b old off n hk hfind hop hready hclass hn hlost
    have hload := State.doLoad_amo (s := s) (k := k) (x := x) hop
    subst hn
    rw [State.doAmo_scratch hclass hlost] at hload
    refine ⟨_, (exec_loadComplete hk hfind hready).trans (congrArg Host.Outcome.next hload), ⟨rfl, rfl, rfl, rfl, rfl, rfl⟩, ?_, ?_⟩
    · rw [State.ctxOf_updCtx_same]
      unfold State.ctxOf
      rw [State.core_updCore_same]
      cases x <;> rfl
    · unfold State.updCtx
      rw [State.core_updCore_same, State.core_updCore_same]
      cases x <;> rfl
  · intro k x s a op dbl xd b old va l n hk hfind hop hready hclass hn htrans hremote hlost hposted hplain hport hno
    have hload := State.doLoad_amo (s := s) (k := k) (x := x) hop
    subst hn
    rw [State.doAmo_virt hclass htrans hremote hlost hposted hplain hport hno] at hload
    refine ⟨_, (exec_loadComplete hk hfind hready).trans (congrArg Host.Outcome.next hload), ⟨rfl, rfl, rfl, rfl, rfl, rfl⟩, ?_⟩
    rw [State.ctxOf_updCtx_same]
    unfold State.ctxOf State.core
    rw [cores_performed]

/-! PROOFS. Signals that leave while no token counter passes 65,535 (R66, R68, R196, R348). -/

namespace Sys2Proof.Machine

open Sys2Proof

/-- What signals that leave change of a context. -/
def CtxSt.Released (c d : CtxSt) : Prop := d = { c with sigs := d.sigs, fifoP := d.fifoP, fifoN := d.fifoN }

/-- What signals that leave a context of core `k` change of the state. -/
structure State.Released (k : Nat) (s t : State) : Prop where
  device : t = { s with cores := t.cores }
  others : ∀ j, j ≠ k → t.core j = s.core j
  core   : t.core k = { s.core k with
    cL := (t.core k).cL, cX := (t.core k).cX, cS := (t.core k).cS, tks := (t.core k).tks, starved := (t.core k).starved }
  ctx    : ∀ y, (s.ctxOf k y).Released (t.ctxOf k y)

theorem State.Released.refl (k : Nat) (s : State) : s.Released k s := ⟨rfl, fun _ _ => rfl, rfl, fun _ => rfl⟩

theorem State.Released.trans {k : Nat} {s t u : State} (h : s.Released k t) (h' : t.Released k u) : s.Released k u := by
  refine ⟨?_, fun j hj => (h'.others j hj).trans (h.others j hj), ?_, fun y => ?_⟩
  · have h1 := h.device
    have h2 := h'.device
    generalize t.cores = cores at h1
    subst h1
    exact h2
  · have hnew := h'.core
    rw [h.core] at hnew
    exact hnew
  · have hnew := h'.ctx y
    unfold CtxSt.Released at hnew ⊢
    rw [h.ctx y] at hnew
    exact hnew

theorem State.released_updCore (s : State) (k : Nat) {f : CoreSt → CoreSt}
    (hf : f (s.core k) = { s.core k with tks := (f (s.core k)).tks, starved := (f (s.core k)).starved }) : s.Released k (s.updCore k f) := by
  refine ⟨rfl, fun _ hj => State.core_updCore_other _ _ _ _ hj, ?_, fun y => ?_⟩
  · rw [State.core_updCore_same, hf]
  · unfold CtxSt.Released State.ctxOf
    rw [State.core_updCore_same, hf]
    cases y <;> rfl

theorem State.released_updCtx (s : State) (k : Nat) (x : Ctx) {f : CtxSt → CtxSt} (hf : (s.ctxOf k x).Released (f (s.ctxOf k x))) :
    s.Released k (s.updCtx k x f) := by
  refine ⟨rfl, fun _ hj => State.core_updCore_other _ _ _ _ hj, ?_, fun y => ?_⟩
  · unfold State.updCtx
    rw [State.core_updCore_same]
    cases x <;> rfl
  · unfold State.ctxOf State.updCtx
    rw [State.core_updCore_same]
    by_cases hy : y = x
    · rw [hy, CoreSt.ctx_updCtx_same]
      exact hf
    · rw [CoreSt.ctx_updCtx_other _ _ _ _ hy]
      rfl

/-- The signals of a list that count in counter `n`. -/
def sigTk (n : Nat) (l : List Sig) : Nat := (l.filter fun g => g.stk.toNat == n).length

/-- The counters have room for the signals of a list. -/
def FitsSigs (c : CoreSt) (l : List Sig) : Prop := ∀ n, (c.tk n).count + sigTk n l ≤ 65535

theorem sigTk_cons (n : Nat) (g : Sig) (l : List Sig) : sigTk n (g :: l) = (if g.stk.toNat = n then 1 else 0) + sigTk n l := by
  unfold sigTk
  rw [List.filter_cons]
  by_cases h : g.stk.toNat = n
  · rw [if_pos (beq_iff_eq.2 h), if_pos h, List.length_cons]
    omega
  · rw [if_neg (by simpa using h), if_neg h]
    omega

/-- One signal that leaves: the state it leaves, and the room that is left in the counters. -/
theorem State.release_fits {s : State} {k : Nat} {g : Sig} {r : List Sig} (x : Ctx) (h : FitsSigs (s.core k) (g :: r)) :
    s.Released k (s.release k x g) ∧ FitsSigs ((s.release k x g).core k) r := by
  have hout : s.Released k (s.updCtx k x fun c =>
      { c with sigs := c.sigs.filter (· != g), fifoP := c.fifoP + b2n g.pushp, fifoN := c.fifoN + b2n g.pushn }) := s.released_updCtx k x rfl
  have htks : ((s.updCtx k x fun c =>
      { c with sigs := c.sigs.filter (· != g), fifoP := c.fifoP + b2n g.pushp, fifoN := c.fifoN + b2n g.pushn }).core k).tks = (s.core k).tks :=
    s.tks_updCtx ..
  unfold State.release
  dsimp only
  generalize (s.updCtx k x fun c =>
    { c with sigs := c.sigs.filter (· != g), fifoP := c.fifoP + b2n g.pushp, fifoN := c.fifoN + b2n g.pushn }) = u at hout htks ⊢
  have htk (n : Nat) : (u.core k).tk n = (s.core k).tk n := by unfold CoreSt.tk; rw [htks]
  split
  · refine ⟨hout.trans (u.released_updCore k rfl), fun n => ?_⟩
    have hn := h n
    rw [sigTk_cons] at hn
    rw [State.core_updCore_same]
    change ((u.core k).tk n).count + _ ≤ _
    rw [htk]
    omega
  · have hg := h g.stk.toNat
    rw [sigTk_cons, if_pos rfl] at hg
    have hpast : (u.core k).passes g.stk.toNat 1 = false := decide_eq_false (by rw [htk]; omega)
    have hinc : u.incTk k g.stk.toNat 1 false (u.tkovf k g.stk.toNat x false g.pos g.word 0) = u.updCore k fun c => c.incTk g.stk.toNat 1 := by
      unfold State.incTk State.incTkFrom
      dsimp only
      rw [hpast]
      rfl
    rw [hinc]
    refine ⟨hout.trans (u.released_updCore k rfl), fun n => ?_⟩
    have hn := h n
    rw [sigTk_cons] at hn
    rw [State.core_updCore_same]
    unfold CoreSt.incTk
    dsimp only
    rw [CoreSt.tk_setTk]
    by_cases hnm : n = g.stk.toNat
    · subst hnm
      rw [if_pos rfl, htk]
      dsimp only
      omega
    · rw [if_neg hnm, htk]
      omega

theorem State.foldl_release_fits {k : Nat} {x : Ctx} (l : List Sig) : ∀ s : State, FitsSigs (s.core k) l →
    s.Released k (l.foldl (fun s g => if (s.ctxOf k x).releasable x g then s.release k x g else s) s) := by
  induction l with
  | nil => exact fun s _ => .refl k s
  | cons g r ih =>
    intro s h
    rw [List.foldl_cons]
    split
    · obtain ⟨hout, hrest⟩ := State.release_fits x h
      exact hout.trans (ih _ hrest)
    · refine ih _ fun n => ?_
      have hn := h n
      rw [sigTk_cons] at hn
      omega

/-- The signals of a context of a core whose counters have room. -/
theorem TkFits.sigs {c : CoreSt} (h : TkFits c) (x : Ctx) : FitsSigs c (c.ctx x).sigs := fun n => by
  have hfit := h n
  unfold CoreSt.inFlightTk at hfit
  rw [CtxSt.inFlightTk_eq, CtxSt.inFlightTk_eq, CtxSt.inFlightTk_eq] at hfit
  unfold sigTk
  cases x <;> (unfold CoreSt.ctx; dsimp only; omega)

theorem sigTk_filter_le (n : Nat) (p : Sig → Bool) (l : List Sig) : sigTk n (l.filter p) ≤ sigTk n l := by
  unfold sigTk
  rw [List.filter_comm]
  exact List.length_filter_le ..

theorem State.releaseWid_fits {s : State} {k : Nat} {x : Ctx} (h : FitsSigs (s.core k) (s.ctxOf k x).sigs) (wid : Nat) :
    s.Released k (s.releaseWid k x wid) :=
  State.foldl_release_fits _ s fun n => by
    have hn := h n
    have hle := sigTk_filter_le n (·.wid == wid) (s.ctxOf k x).sigs
    omega

/-- The word of an accepted or completed command retires, within its core. -/
theorem State.unhold_fits {s : State} {k : Nat} (h : TkFits (s.core k)) (x : Ctx) (wid : Nat) : s.Released k (s.unhold k x wid) := by
  have hfree : s.Released k (s.updCtx k x fun c =>
      { c with sigs := c.sigs.map fun g => if g.wid = wid then { g with hold := false } else g }) := s.released_updCtx k x rfl
  refine hfree.trans (State.releaseWid_fits (fun n => ?_) wid)
  have htk : ((s.updCtx k x fun c =>
      { c with sigs := c.sigs.map fun g => if g.wid = wid then { g with hold := false } else g }).core k).tk n = (s.core k).tk n := by
    unfold CoreSt.tk
    rw [State.tks_updCtx]
  have hsame (l : List Sig) : sigTk n (l.map fun g => if g.wid = wid then { g with hold := false } else g) = sigTk n l := by
    induction l with
    | nil => rfl
    | cons g r ih =>
      rw [List.map_cons, sigTk_cons, sigTk_cons, ih]
      split <;> rfl
  have hn := h.sigs x n
  rw [htk]
  unfold State.ctxOf State.updCtx
  rw [State.core_updCore_same, CoreSt.ctx_updCtx_same]
  dsimp only
  rw [hsame]
  exact hn

/-- Room in the counters depends on the counters, the signals and the writes in flight. -/
theorem TkFits.of_eq {c d : CoreSt} (h : TkFits c) (htks : d.tks = c.tks)
    (hctx : ∀ y, (d.ctx y).sigs = (c.ctx y).sigs ∧ (d.ctx y).flights = (c.ctx y).flights) : TkFits d := by
  have hin (y : Ctx) (n : Nat) : (d.ctx y).inFlightTk n = (c.ctx y).inFlightTk n := by
    rw [CtxSt.inFlightTk_eq, CtxSt.inFlightTk_eq, (hctx y).1, (hctx y).2]
  intro n
  have hn := h n
  have hsum : d.inFlightTk n = c.inFlightTk n := by
    change (d.ctx .L).inFlightTk n + (d.ctx .X).inFlightTk n + (d.ctx .S).inFlightTk n = _
    rw [hin, hin, hin]
    rfl
  have htk : d.tk n = c.tk n := by unfold CoreSt.tk; rw [htks]
  rw [htk, hsum]
  exact hn

end Sys2Proof.Machine

/-! PROOFS. The matrix and the ladder engine: commands at the head, at acceptance and at completion (R119, R192, R206, R209, R211, R264). -/

namespace Sys2Proof.Machine

open Sys2Proof

/-! ### The mode entries before a command -/

/-- The entries behind the leading modes end the list. -/
theorem leadModes_suffix (l : List FqEntry) : ∀ m, ∃ pre, l = pre ++ (leadModes l m).2 := by
  induction l with
  | nil => exact fun _ => ⟨[], rfl⟩
  | cons a r ih =>
    intro m
    cases a with
    | mode x =>
      obtain ⟨pre, hpre⟩ := ih x
      exact ⟨.mode x :: pre, congrArg (FqEntry.mode x :: ·) hpre⟩
    | fmt w => exact ⟨[], rfl⟩

theorem leadModes_length_le (l : List FqEntry) (m : RM) : (leadModes l m).2.length ≤ l.length := by
  obtain ⟨pre, hpre⟩ := leadModes_suffix l m
  have h := congrArg List.length hpre
  rw [List.length_append] at h
  omega

/-- The first `n` entries of a list, less those before `rest`, then the others. -/
theorem drop_take_suffix {α : Type} (l rest pre : List α) (n : Nat) (h : l.take n = pre ++ rest) :
    l.drop ((l.take n).length - rest.length) = rest ++ l.drop (l.take n).length := by
  have hl : l = pre ++ (rest ++ l.drop n) := by rw [← List.append_assoc, ← h, List.take_append_drop]
  have hlen : (l.take n).length - rest.length = pre.length := by rw [h, List.length_append]; omega
  have hdrop : l.drop (l.take n).length = l.drop n := by
    rw [List.length_take]
    rcases Nat.le_total n l.length with hn | hn
    · rw [Nat.min_eq_left hn]
    · rw [Nat.min_eq_right hn, List.drop_length, List.drop_eq_nil_of_le hn]
  rw [hlen, hdrop]
  nth_rewrite 1 [hl]
  exact List.drop_left ..

section

variable {c : CoreSt} {m : MatCmd} {mode : RM} {rest : List FqEntry} {w : Word}

theorem CoreSt.fqHead_fmt (h : leadModes (c.fq.take (m.fqEnd - c.fqOut)) c.emode = (mode, .fmt w :: rest)) :
    c.fqHead m = (mode, (c.fq.take (m.fqEnd - c.fqOut)).length - (rest.length + 1), some w) := by
  unfold CoreSt.fqHead
  dsimp only
  rw [h]
  rfl

theorem CoreSt.fqHead_none (h : leadModes (c.fq.take (m.fqEnd - c.fqOut)) c.emode = (mode, [])) :
    c.fqHead m = (mode, (c.fq.take (m.fqEnd - c.fqOut)).length, none) := by
  unfold CoreSt.fqHead
  dsimp only
  rw [h]
  rfl

/-- The queue behind the modes before a command. -/
theorem CoreSt.fq_behind_modes (h : leadModes (c.fq.take (m.fqEnd - c.fqOut)) c.emode = (mode, .fmt w :: rest)) :
    c.fq.drop ((c.fq.take (m.fqEnd - c.fqOut)).length - (rest.length + 1)) =
      .fmt w :: rest ++ c.fq.drop (c.fq.take (m.fqEnd - c.fqOut)).length := by
  obtain ⟨pre, hpre⟩ := leadModes_suffix (c.fq.take (m.fqEnd - c.fqOut)) c.emode
  rw [h] at hpre
  exact drop_take_suffix c.fq (.fmt w :: rest) pre _ hpre

/-- The modes and the format word are among the entries of a command. -/
theorem CoreSt.fq_length_ge (h : leadModes (c.fq.take (m.fqEnd - c.fqOut)) c.emode = (mode, .fmt w :: rest)) :
    rest.length + 1 ≤ (c.fq.take (m.fqEnd - c.fqOut)).length := by
  have hle := leadModes_length_le (c.fq.take (m.fqEnd - c.fqOut)) c.emode
  rw [h] at hle
  exact hle

end

theorem CoreSt.tile_setTile (c : CoreSt) (n : Nat) (t : TileSt) : (c.setTile n t).tile n = t := Sparse.get_put_same ..

/-! ### Writing elements keeps the count of pending writers -/

theorem foldl_pend {α : Type} {f : TileSt → α → TileSt} (hf : ∀ t a, (f t a).pend = t.pend) (l : List α) : ∀ t, (l.foldl f t).pend = t.pend := by
  induction l with
  | nil => exact fun _ => rfl
  | cons a r ih => exact fun t => (ih _).trans (hf t a)

theorem foldl_pend_fst {α : Type} {f : TileSt × Bool → α → TileSt × Bool} (hf : ∀ t a, (f t a).1.pend = t.1.pend) (l : List α) :
    ∀ t, (l.foldl f t).1.pend = t.1.pend := by
  induction l with
  | nil => exact fun _ => rfl
  | cons a r ih => exact fun t => (ih _).trans (hf t a)

theorem MatCmd.pend_apply (m : MatCmd) (t : TileSt) : (m.apply t).1.pend = t.pend := by
  refine foldl_pend_fst (fun r j => foldl_pend_fst (fun u p => ?_) _ r) _ (t, false)
  dsimp only
  split <;> rfl

theorem MatCmd.pend_load (m : MatCmd) (t : TileSt) : (m.load t).pend = t.pend := by
  refine foldl_pend (fun u p => ?_) _ t
  split <;> rfl

theorem MatCmd.pend_move (m : MatCmd) (t u : TileSt) (add : Bool) : (m.move t u add).pend = t.pend := by
  refine foldl_pend (fun v p => ?_) _ t
  split <;> rfl

/-! ### A tile that a command has written -/

/-- What may change of a core when a command has written its tile: the tiles, and X's flags. -/
structure State.Tiled (k : Nat) (s t : State) : Prop where
  device : t = { s with cores := t.cores }
  core   : t.core k = { s.core k with cL := (t.core k).cL, cX := (t.core k).cX, cS := (t.core k).cS, tiles := (t.core k).tiles }
  ctx    : ∀ y, t.ctxOf k y = { s.ctxOf k y with sflags := (t.ctxOf k y).sflags }

theorem State.tiled_updCore (s : State) (k : Nat) {f : CoreSt → CoreSt} (hf : f (s.core k) = { s.core k with tiles := (f (s.core k)).tiles }) :
    s.Tiled k (s.updCore k f) := by
  refine ⟨rfl, ?_, fun y => ?_⟩
  · rw [State.core_updCore_same, hf]
  · unfold State.ctxOf
    rw [State.core_updCore_same, hf]
    cases y <;> rfl

theorem State.tiled_updCtx (s : State) (k : Nat) (x : Ctx) {f : CtxSt → CtxSt}
    (hf : f (s.ctxOf k x) = { s.ctxOf k x with sflags := (f (s.ctxOf k x)).sflags }) : s.Tiled k (s.updCtx k x f) := by
  refine ⟨rfl, ?_, fun y => ?_⟩
  · rw [State.core_updCtx_same]
    cases x <;> rfl
  · by_cases hy : y = x
    · rw [hy, State.ctxOf_updCtx_same, hf]
    · unfold State.ctxOf
      rw [State.core_updCtx_same, CoreSt.ctx_updCtx_other _ _ _ _ hy]

theorem State.Tiled.trans {k : Nat} {s t u : State} (h : s.Tiled k t) (h' : t.Tiled k u) : s.Tiled k u := by
  refine ⟨?_, ?_, fun y => ?_⟩
  · have h1 := h.device
    have h2 := h'.device
    generalize t.cores = cores at h1
    subst h1
    exact h2
  · have hnew := h'.core
    rw [h.core] at hnew
    exact hnew
  · have hnew := h'.ctx y
    rw [h.ctx y] at hnew
    exact hnew

theorem CoreSt.tile_updCtx (c : CoreSt) (x : Ctx) (f : CtxSt → CtxSt) (n : Nat) : (c.updCtx x f).tile n = c.tile n := by cases x <;> rfl

theorem State.tileDone_spec (s : State) (k n : Nat) :
    s.Tiled k (s.tileDone k n) ∧ ((s.tileDone k n).core k |>.tile n).pend = ((s.core k).tile n).pend - 1 ∧
      ((s.tileDone k n).core k |>.tile n).els = ((s.core k).tile n).els := by
  unfold State.tileDone
  dsimp only
  split
  · refine ⟨(s.tiled_updCore k rfl).trans (State.tiled_updCtx _ k .X rfl), ?_⟩
    rw [State.core_updCtx_same, State.core_updCore_same, CoreSt.tile_updCtx, CoreSt.tile_setTile]
    exact ⟨rfl, rfl⟩
  · refine ⟨s.tiled_updCore k rfl, ?_⟩
    rw [State.core_updCore_same, CoreSt.tile_setTile]
    exact ⟨rfl, rfl⟩

/-! ### A fault at the head -/

/-- The record of a fault depends on the cores, but for the core's task and cycle, in no way. -/
theorem State.record_of {s t : State} {k : Nat} (hdev : t = { s with cores := t.cores }) (htask : (t.core k).task = (s.core k).task)
    (hcyc : (t.core k).cycle = (s.core k).cycle) (ctx : Nat) (r : Trap) (eng : Bool) (level pos resume : Nat) (w : Word) :
    t.record k ctx r eng level pos resume w = s.record k ctx r eng level pos resume w := by
  have hof : t.taskOf k = s.taskOf k := by
    unfold State.taskOf State.task?
    rw [htask, hdev]
  have hpart : t.partOf k = s.partOf k := by
    unfold State.partOf
    rw [hof]
  have hnow : t.now = s.now := by rw [hdev]
  unfold State.record
  rw [hof, hpart, hnow, hcyc]

/-- The core when the faulty command has left. -/
def CoreSt.held (c : CoreSt) (m : MatCmd) : CoreSt := { c.dropMat m.id with matHold := true }

/-- A fault at the head: the command is gone, the engine holds, and the cause is attached. -/
theorem State.headFault_fits {s : State} {k : Nat} {m : MatCmd} (tr : Trap) (hop : m.op ≠ .accst) (hfits : TkFits (s.core k)) :
    ((s.headFault k m tr).core k).matHold = true ∧ ((s.headFault k m tr).core k).fq = (s.core k).fq ∧
      ((s.headFault k m tr).core k).emode = (s.core k).emode ∧
      ((s.headFault k m tr).core k).matq = delFirst (fun x => x.id == m.id) (s.core k).matq ∧
      ((s.headFault k m tr).ctxOf k .X).attached = (s.ctxOf k .X).attached ++
        [s.record k Ctx.X.code tr true (s.ctxOf k .X).level m.pos 0 m.word] := by
  have hfault : s.headFault k m tr =
      ((((s.updCore k fun c => c.held m).tileDone k m.acc).attach k .X tr true m.pos m.word).unhold k .X m.wid) := by
    unfold State.headFault
    dsimp only
    rw [if_neg hop]
    rfl
  obtain ⟨htiled, -⟩ := (s.updCore k fun c => c.held m).tileDone_spec k m.acc
  rw [hfault]
  generalize (s.updCore k fun c => c.held m).tileDone k m.acc = u at htiled ⊢
  have hcore := htiled.core
  have hctx := htiled.ctx
  rw [State.core_updCore_same] at hcore
  have hheld (y : Ctx) : (s.updCore k fun c => c.held m).ctxOf k y = s.ctxOf k y := by
    unfold State.ctxOf
    rw [State.core_updCore_same]
    cases y <;> rfl
  have hrecord : u.record k Ctx.X.code tr true (u.ctxOf k .X).level m.pos 0 m.word =
      s.record k Ctx.X.code tr true (s.ctxOf k .X).level m.pos 0 m.word := by
    have hlevel : (u.ctxOf k .X).level = (s.ctxOf k .X).level := by rw [hctx, hheld]
    rw [hlevel]
    calc u.record k Ctx.X.code tr true (s.ctxOf k .X).level m.pos 0 m.word
      _ = (s.updCore k fun c => c.held m).record k Ctx.X.code tr true (s.ctxOf k .X).level m.pos 0 m.word :=
        State.record_of htiled.device (by rw [hcore, State.core_updCore_same]) (by rw [hcore, State.core_updCore_same]) ..
      _ = s.record k Ctx.X.code tr true (s.ctxOf k .X).level m.pos 0 m.word :=
        State.record_of rfl (by rw [State.core_updCore_same]; rfl) (by rw [State.core_updCore_same]; rfl) ..
  have hfits' : TkFits ((u.attach k .X tr true m.pos m.word).core k) := by
    refine hfits.of_eq ?_ fun y => ?_
    · unfold State.attach
      rw [State.core_updCtx_same, CoreSt.tks_updCtx, hcore]
      rfl
    · have hy := hctx y
      rw [hheld] at hy
      unfold State.ctxOf at hy
      unfold State.attach
      rw [State.core_updCtx_same]
      by_cases hx : y = .X
      · rw [hx] at hy ⊢
        rw [CoreSt.ctx_updCtx_same]
        dsimp only
        rw [hy]
        exact ⟨rfl, rfl⟩
      · rw [CoreSt.ctx_updCtx_other _ _ _ _ hx, hy]
        exact ⟨rfl, rfl⟩
  have hrel := State.unhold_fits hfits' .X m.wid
  have hcore' : (u.attach k .X tr true m.pos m.word).core k =
      (u.core k).updCtx .X fun c => { c with attached := c.attached ++ [u.record k Ctx.X.code tr true c.level m.pos 0 m.word] } :=
    State.core_updCtx_same ..
  refine ⟨?_, ?_, ?_, ?_, ?_⟩
  · rw [hrel.core, hcore', hcore]
    rfl
  · rw [hrel.core, hcore', hcore]
    rfl
  · rw [hrel.core, hcore', hcore]
    rfl
  · rw [hrel.core, hcore', hcore]
    rfl
  · rw [hrel.ctx .X]
    unfold State.attach
    dsimp only
    rw [State.ctxOf_updCtx_same]
    dsimp only
    rw [hrecord, hctx .X, hheld]

/-! ### The head -/

section

variable {s : State} {k : Nat} {m : MatCmd} {mode : RM} {rest : List FqEntry} {w : Word}

theorem exec_tileCmdHead (hk : k < 384) (heng : s.engines k = true) (hhead : (s.core k).headMat = some m)
    (hop : m.op = .tgo ∨ m.op = .tgoG ∨ m.op = .tgoSp) : exec (.tileCmdHead k) s = .next (s.tgoHead k m) := by
  change execTileCmdHead k s = _
  unfold execTileCmdHead
  rw [if_neg (by omega), if_neg (by rw [heng]; decide), hhead]
  rcases hop with h | h | h <;> simp only [h]

theorem MatOp.ne_accst_of_tgo {op : MatOp} (hop : op = .tgo ∨ op = .tgoG ∨ op = .tgoSp) : op ≠ .accst := by
  rcases hop with h | h | h <;> rw [h] <;> exact fun h => nomatch h

/-- A command of the TGO family that fails at the head. -/
theorem State.tgoHead_fails {modes : Nat} {word : Option Word} {tr : Trap} (hq : (s.core k).fqHead m = (mode, modes, word))
    (htr : ∀ v, word = some v → (s.core k).headTrap m v = some tr) (hnone : word = none → tr = { cause := .fqunf }) :
    s.tgoHead k m = (s.updCore k fun c => c.fqLeave m mode modes).headFault k m tr := by
  unfold State.tgoHead
  rw [hq]
  cases word with
  | none => rw [hnone rfl]
  | some v =>
    dsimp only
    rw [htr v rfl]

/-- The core when the command at the head has taken its format word. -/
def CoreSt.headTaken (c : CoreSt) (m : MatCmd) (mode : RM) (gone : Nat) (w : Word) (m' : MatCmd) : CoreSt :=
  let c := c.fqLeave m mode gone
  let t := c.tile m.acc
  (c.setTile m.acc { t with cfmt := fwC w, ofmt := fwO w, osat := fwOsat w, mode := mode }).updMat m.id fun _ => m'

theorem CoreSt.cfmt_headTaken (c : CoreSt) (m : MatCmd) (mode : RM) (gone : Nat) (w : Word) (m' : MatCmd) :
    ((c.headTaken m mode gone w m').tile m.acc).cfmt = fwC w := by
  unfold CoreSt.headTaken
  dsimp only
  generalize c.fqLeave m mode gone = d
  have htile (e : CoreSt) : (e.updMat m.id fun _ => m').tile m.acc = e.tile m.acc := rfl
  rw [htile, CoreSt.tile_setTile]

/-- A command of the TGO family that starts at the head with no leave to ask for. -/
theorem State.tgoHead_starts {modes : Nat} (hq : (s.core k).fqHead m = (mode, modes, some w)) (htr : (s.core k).headTrap m w = none)
    (hatoms : ({ m with fw := w, mode := mode, stage := 1 } : MatCmd).atoms ≤ 64) :
    s.tgoHead k m = s.updCore k fun c => c.headTaken m mode (modes + 1) w { m with fw := w, mode := mode, stage := 1 } := by
  unfold State.tgoHead
  rw [hq]
  dsimp only
  rw [htr]
  exact if_neg (by omega)

/-- A fault of a command of the TGO family at the head, whose mode entries have left fq. -/
theorem State.headFault_leave {modes : Nat} (tr : Trap) (hop : m.op ≠ .accst) (hfits : TkFits (s.core k)) :
    let t := (s.updCore k fun c => c.fqLeave m mode modes).headFault k m tr
    (t.core k).matHold = true ∧ (t.core k).fq = (s.core k).fq.drop modes ∧ (t.core k).emode = mode ∧
      (t.core k).matq = delFirst (fun x => x.id == m.id) (s.core k).matq ∧
      (t.ctxOf k .X).attached = (s.ctxOf k .X).attached ++ [s.record k Ctx.X.code tr true (s.ctxOf k .X).level m.pos 0 m.word] := by
  intro t
  have hcore : (s.updCore k fun c => c.fqLeave m mode modes).core k = (s.core k).fqLeave m mode modes := State.core_updCore_same ..
  have hctx : (s.updCore k fun c => c.fqLeave m mode modes).ctxOf k .X = s.ctxOf k .X := by
    unfold State.ctxOf
    rw [hcore]
    rfl
  have hrecord (level : Nat) : (s.updCore k fun c => c.fqLeave m mode modes).record k Ctx.X.code tr true level m.pos 0 m.word =
      s.record k Ctx.X.code tr true level m.pos 0 m.word :=
    State.record_of rfl (by rw [hcore]; rfl) (by rw [hcore]; rfl) ..
  obtain ⟨hhold, hfq, hmode, hmatq, hatt⟩ := State.headFault_fits (m := m) (s := s.updCore k fun c => c.fqLeave m mode modes) tr hop
    (by rw [hcore]; exact hfits.of_eq rfl fun y => by cases y <;> exact ⟨rfl, rfl⟩)
  rw [hcore] at hfq hmode hmatq
  rw [hctx, hrecord] at hatt
  exact ⟨hhold, hfq, hmode, hmatq, hatt⟩

end

/-! ### Acceptance -/

section

variable {s : State} {k : Nat} {m : MatCmd}

theorem exec_tileCmdAccept_tgo (hk : k < 384) (heng : s.engines k = true) (hhold : (s.core k).matHold = false)
    (hfind : (s.core k).matq.find? (fun m => m.stage == 1 && (!m.asked || m.leave)) = some m)
    (hop : m.op = .tgo ∨ m.op = .tgoG ∨ m.op = .tgoSp) :
    exec (.tileCmdAccept k) s = .next (s.matRead k m (tgoSpans m.op m.nest m.m m.n m.kk m.groups m.fw)) := by
  change execTileCmdAccept k s = _
  unfold execTileCmdAccept
  rw [if_neg (by omega), if_neg (by rw [heng]; decide), if_neg (by rw [hhold]; decide), hfind]
  rcases hop with h | h | h <;> simp only [h]

theorem exec_tileCmdAccept_accst (hk : k < 384) (heng : s.engines k = true) (hhold : (s.core k).matHold = false)
    (hfind : (s.core k).matq.find? (fun m => m.stage == 1 && (!m.asked || m.leave)) = some m) (hop : m.op = .accst) :
    exec (.tileCmdAccept k) s = .next (s.accstDone k m) := by
  change execTileCmdAccept k s = _
  unfold execTileCmdAccept
  rw [if_neg (by omega), if_neg (by rw [heng]; decide), if_neg (by rw [hhold]; decide), hfind]
  simp only [hop]

/-- X's flags with those of a command, and one command's word retired: what is left of the state. -/
theorem State.unhold_addFlags {flags : BitVec 3} (hfits : TkFits (s.core k)) (wid : Nat) :
    let t := (s.updCtx k .X fun c => { c with sflags := c.sflags ||| flags }).unhold k .X wid
    t = { s with cores := t.cores } ∧ (t.core k).matq = (s.core k).matq ∧ (t.core k).sp = (s.core k).sp ∧
      (t.ctxOf k .X).sflags = (s.ctxOf k .X).sflags ||| flags := by
  intro t
  have hcore : (s.updCtx k .X fun c => { c with sflags := c.sflags ||| flags }).core k =
      (s.core k).updCtx .X fun c => { c with sflags := c.sflags ||| flags } := State.core_updCtx_same ..
  have hrel := State.unhold_fits (s := s.updCtx k .X fun c => { c with sflags := c.sflags ||| flags }) (k := k)
    (by rw [hcore]; exact hfits.of_eq rfl fun y => by cases y <;> exact ⟨rfl, rfl⟩) .X wid
  refine ⟨hrel.device, ?_, ?_, ?_⟩
  · rw [hrel.core, hcore]
    rfl
  · rw [hrel.core, hcore]
    rfl
  · rw [hrel.ctx .X]
    dsimp only
    rw [State.ctxOf_updCtx_same]

/-- The operand bytes of a command of the TGO family are read. -/
theorem State.matRead_fits {spans : List Span} (hop : m.op = .tgo ∨ m.op = .tgoG ∨ m.op = .tgoSp) (hlost : (s.core k).lostBlock spans = none)
    (hfits : TkFits (s.core k)) :
    let m' := { m with snap := (s.core k).sp, stage := 2 }
    let t := s.matRead k m spans
    (t.core k).matq = updFirst (fun x => x.id == m.id) (fun _ => m') (s.core k).matq ∧ (t.core k).sp = (s.core k).sp ∧
      (t.ctxOf k .X).sflags = (s.ctxOf k .X).sflags ||| (if MatCmd.scaleNaN m' then flagCVNAN else 0) := by
  intro m' t
  have hload : (m.op != .accld) = true := by rcases hop with h | h | h <;> rw [h] <;> rfl
  have ht : t = (if MatCmd.scaleNaN m' then
      (s.updCore k fun c => c.updMat m.id fun _ => m').updCtx k .X fun c => { c with sflags := c.sflags ||| flagCVNAN }
      else s.updCore k fun c => c.updMat m.id fun _ => m').unhold k .X m.wid := by
    change s.matRead k m spans = _
    unfold State.matRead
    rw [hlost]
    dsimp only
    rw [hload, Bool.true_and]
  have hcore : (s.updCore k fun c => c.updMat m.id fun _ => m').core k = (s.core k).updMat m.id fun _ => m' := State.core_updCore_same ..
  have hctx : (s.updCore k fun c => c.updMat m.id fun _ => m').ctxOf k .X = s.ctxOf k .X := by
    unfold State.ctxOf
    rw [hcore]
    rfl
  have hfits' : TkFits ((s.updCore k fun c => c.updMat m.id fun _ => m').core k) := by
    rw [hcore]
    exact hfits.of_eq rfl fun y => by cases y <;> exact ⟨rfl, rfl⟩
  rw [ht]
  split
  · obtain ⟨-, hmatq, hsp, hflags⟩ := State.unhold_addFlags (flags := flagCVNAN) hfits' m.wid
    rw [hcore] at hmatq hsp
    rw [hctx] at hflags
    exact ⟨hmatq, hsp, hflags⟩
  · have hrel := State.unhold_fits hfits' .X m.wid
    refine ⟨?_, ?_, ?_⟩
    · rw [hrel.core, hcore]
      rfl
    · rw [hrel.core, hcore]
      rfl
    · rw [hrel.ctx .X]
      dsimp only
      rw [hctx]
      exact BitVec.or_zero.symm

/-- ACCST's bytes are performed, and it leaves. -/
theorem State.accstDone_fits (hfits : TkFits (s.core k)) :
    let t := s.accstDone k m
    (t.core k).sp = m.store ((s.core k).tile m.acc) (s.core k).sp ∧ (t.core k).matq = delFirst (fun x => x.id == m.id) (s.core k).matq ∧
      SameMemory t s := by
  intro t
  have ht : t = (((s.updCore k fun c => { c with sp := m.store ((s.core k).tile m.acc) c.sp }).updCtx k .X fun c =>
      { c with sflags := c.sflags ||| m.storeFlags ((s.core k).tile m.acc) }).updCore k fun c => c.dropMat m.id).unhold k .X m.wid := rfl
  clear_value t
  generalize m.storeFlags ((s.core k).tile m.acc) = flags at ht
  generalize m.store ((s.core k).tile m.acc) = put at ht ⊢
  subst ht
  have hcore : (((s.updCore k fun c => { c with sp := put c.sp }).updCtx k .X fun c => { c with sflags := c.sflags ||| flags }).updCore k
      fun c => c.dropMat m.id).core k =
      (({ s.core k with sp := put (s.core k).sp }.updCtx .X fun c => { c with sflags := c.sflags ||| flags }).dropMat m.id : CoreSt) := by
    rw [State.core_updCore_same, State.core_updCtx_same, State.core_updCore_same]
  have hrel := State.unhold_fits (k := k) (s := ((s.updCore k fun c => { c with sp := put c.sp }).updCtx k .X fun c =>
    { c with sflags := c.sflags ||| flags }).updCore k fun c => c.dropMat m.id)
    (by rw [hcore]; exact hfits.of_eq rfl fun y => by cases y <;> exact ⟨rfl, rfl⟩) .X m.wid
  refine ⟨?_, ?_, ?_⟩
  · rw [hrel.core, hcore]
    rfl
  · rw [hrel.core, hcore]
    rfl
  · rw [hrel.device]
    exact sameMemory_refl s

end

/-! ### Completion -/

section

variable {s : State} {k id : Nat} {m : MatCmd}

theorem exec_tileCmdComplete (hk : k < 384) (heng : s.engines k = true)
    (hfind : (s.core k).matq.find? (fun m => m.id == id && m.stage == 2) = some m) (hmay : (s.core k).mayComplete m = true) :
    exec (.tileCmdComplete k id) s = .next (((s.matResult k m).updCore k fun c => c.dropMat id).tileDone k m.acc) := by
  change execTileCmdComplete k id s = _
  unfold execTileCmdComplete
  rw [if_neg (by omega), if_neg (by rw [heng]; decide), hfind]
  exact if_pos hmay

/-- A command's result changes its tile alone, and keeps the count of its pending writers. -/
theorem State.matResult_tile (s : State) (k : Nat) (m : MatCmd) :
    ((s.matResult k m).core k).matq = (s.core k).matq ∧
      (((s.matResult k m).core k).tile m.acc).pend = ((s.core k).tile m.acc).pend := by
  unfold State.matResult
  rw [State.core_updCore_same]
  dsimp only
  split
  · exact ⟨rfl, by rw [CoreSt.tile_setTile, MatCmd.pend_apply]⟩
  · exact ⟨rfl, by rw [CoreSt.tile_setTile, MatCmd.pend_apply]⟩
  · exact ⟨rfl, by rw [CoreSt.tile_setTile, MatCmd.pend_apply]⟩
  · exact ⟨rfl, by rw [CoreSt.tile_setTile]; rfl⟩
  · exact ⟨rfl, by rw [CoreSt.tile_setTile, MatCmd.pend_move]⟩
  · exact ⟨rfl, by rw [CoreSt.tile_setTile, MatCmd.pend_load]⟩
  · exact ⟨rfl, rfl⟩

theorem State.matResult_accz (s : State) (k : Nat) (hop : m.op = .accz) :
    (((s.matResult k m).core k).tile m.acc).els = (m.zero ((s.core k).tile m.acc)).els := by
  unfold State.matResult
  rw [State.core_updCore_same]
  simp only [hop]
  rw [CoreSt.tile_setTile]

theorem State.matResult_tgo (s : State) (k : Nat) (hop : m.op = .tgo ∨ m.op = .tgoG ∨ m.op = .tgoSp) :
    (((s.matResult k m).core k).tile m.acc).els = (m.apply ((s.core k).tile m.acc)).1.els := by
  unfold State.matResult
  rw [State.core_updCore_same]
  rcases hop with h | h | h
  · simp only [h]
    rw [CoreSt.tile_setTile]
  · simp only [h]
    rw [CoreSt.tile_setTile]
  · simp only [h]
    rw [CoreSt.tile_setTile]

theorem State.matResult_accld (s : State) (k : Nat) (hop : m.op = .accld) :
    (((s.matResult k m).core k).tile m.acc).els = (m.load ((s.core k).tile m.acc)).els := by
  unfold State.matResult
  rw [State.core_updCore_same]
  simp only [hop]
  rw [CoreSt.tile_setTile]

theorem State.matResult_accmov (s : State) (k : Nat) {src : Nat} {add : Bool} (hop : m.op = .accmov src add) :
    (((s.matResult k m).core k).tile m.acc).els = (m.move ((s.core k).tile m.acc) ((s.core k).tile src) add).els := by
  unfold State.matResult
  rw [State.core_updCore_same]
  simp only [hop]
  rw [CoreSt.tile_setTile]

/-- A completed command has left, and its result stands in the tile. -/
theorem State.matDone_spec (s : State) (k id : Nat) (m : MatCmd) :
    let t := ((s.matResult k m).updCore k fun c => c.dropMat id).tileDone k m.acc
    (t.core k).matq = delFirst (fun x => x.id == id) (s.core k).matq ∧
      ((t.core k).tile m.acc).els = (((s.matResult k m).core k).tile m.acc).els ∧
      ((t.core k).tile m.acc).pend = ((s.core k).tile m.acc).pend - 1 := by
  intro t
  obtain ⟨htiled, hpend, hels⟩ := ((s.matResult k m).updCore k fun c => c.dropMat id).tileDone_spec k m.acc
  obtain ⟨hmatq, hkeep⟩ := s.matResult_tile k m
  rw [State.core_updCore_same] at hpend hels
  refine ⟨?_, hels, hpend.trans (congrArg (· - 1) hkeep)⟩
  rw [htiled.core, State.core_updCore_same, ← hmatq]
  rfl

theorem exec_ladderCmdComplete (hk : k < 384) (heng : s.engines k = true) {m : LadCmd}
    (hfind : (s.core k).ladq.find? (fun m => m.id == id) = some m) (hfail : m.fail = none) (hstage : m.stage = 8) :
    exec (.ladderCmdComplete k id) s =
      .next ((s.updCore k fun c => { c with ladq := delFirst (fun m => m.id == id) c.ladq }).unhold k .X m.wid) := by
  change execLadderCmdComplete k id s = _
  unfold execLadderCmdComplete
  rw [if_neg (by omega), if_neg (by rw [heng]; decide), hfind]
  dsimp only
  rw [hfail]
  exact if_pos hstage

end

end Sys2Proof.Machine

open Sys2Proof Sys2Proof.Machine in
/-- Settles O39: at the head a command finds its format word behind the leading modes, or faults; a fault keeps the queue from that word on.
Acceptance reads the operands or performs ACCST; completion writes the tile and counts it as written once. -/
theorem engineQueueEvents : Obligations.EngineQueueEvents := by
  unfold Obligations.EngineQueueEvents
  refine ⟨?_, ?_, ?_, ?_, ?_, ?_, ?_, ?_⟩
  case refine_1 =>
    intro k s m w mine rest mode hk heng hhead hop hmine hmodes htrap haccum hatoms
    subst hmine
    have hbad : (s.core k).headTrap m w = none := by
      unfold CoreSt.headTrap
      rw [htrap]
      refine if_neg fun h => ?_
      obtain ⟨hacc, hlost⟩ := Bool.and_eq_true_iff.1 h
      rw [haccum hacc] at hlost
      exact absurd hlost (by decide)
    have hlen := CoreSt.fq_length_ge hmodes
    have hgone : ((s.core k).fq.take (m.fqEnd - (s.core k).fqOut)).length - (rest.length + 1) + 1 =
        ((s.core k).fq.take (m.fqEnd - (s.core k).fqOut)).length - rest.length := by omega
    have hfq : (s.core k).fq.drop (((s.core k).fq.take (m.fqEnd - (s.core k).fqOut)).length - rest.length) =
        rest ++ (s.core k).fq.drop ((s.core k).fq.take (m.fqEnd - (s.core k).fqOut)).length := by
      rw [← hgone, ← List.drop_drop, CoreSt.fq_behind_modes hmodes]
      rfl
    refine ⟨_, exec_tileCmdHead hk heng hhead hop, ?_⟩
    rw [State.tgoHead_starts (CoreSt.fqHead_fmt hmodes) hbad hatoms, State.core_updCore_same, hgone]
    refine ⟨hfq, rfl, rfl, rfl, ?_, rfl⟩
    exact CoreSt.cfmt_headTaken ..
  case refine_2 =>
    intro k s m w mine rest mode tr hk heng hhead hop hmine hmodes htrap hfits
    subst hmine
    have hbad : (s.core k).headTrap m w = some tr := by
      unfold CoreSt.headTrap
      rw [htrap]
      rfl
    refine ⟨_, exec_tileCmdHead hk heng hhead hop, ?_⟩
    rw [State.tgoHead_fails (CoreSt.fqHead_fmt hmodes) (fun v hv => Option.some.inj hv ▸ hbad) (fun h => nomatch h),
      ← CoreSt.fq_behind_modes hmodes]
    obtain ⟨hhold, hfq, hmode, hmatq, hatt⟩ := State.headFault_leave (mode := mode) (modes := _) tr (MatOp.ne_accst_of_tgo hop) hfits
    exact ⟨hhold, hfq, hmode, hmatq, hatt⟩
  case refine_3 =>
    intro k s m mine mode hk heng hhead hop hmine hmodes hfits
    subst hmine
    refine ⟨_, exec_tileCmdHead hk heng hhead hop, ?_⟩
    rw [State.tgoHead_fails (CoreSt.fqHead_none hmodes) (fun v hv => nomatch hv) (fun _ => rfl)]
    obtain ⟨hhold, -, hmode, hmatq, hatt⟩ := State.headFault_leave (mode := mode) (modes := _) { cause := .fqunf } (MatOp.ne_accst_of_tgo hop) hfits
    exact ⟨hhold, hmatq, hmode, hatt⟩
  case refine_4 =>
    intro k s m hk heng hhead hop
    refine ⟨_, ?_, rfl⟩
    change execTileCmdHead k s = _
    unfold execTileCmdHead
    rw [if_neg (by omega), if_neg (by rw [heng]; decide), hhead]
    rcases hop with h | h
    · simp only [h]
      rfl
    · simp only [h]
      rfl
  case refine_5 =>
    intro k s m hk heng hhold hfind hop hlost hfits
    exact ⟨_, exec_tileCmdAccept_tgo hk heng hhold hfind hop, State.matRead_fits hop hlost hfits⟩
  case refine_6 =>
    intro k s m hk heng hhold hfind hop hfits
    exact ⟨_, exec_tileCmdAccept_accst hk heng hhold hfind hop, State.accstDone_fits hfits⟩
  case refine_7 =>
    intro k id s m hk heng hfind hmay
    obtain ⟨hmatq, hels, hpend⟩ := s.matDone_spec k id m
    exact ⟨_, exec_tileCmdComplete hk heng hfind hmay, hmatq, fun h => hels.trans (s.matResult_accz k h),
      fun h => hels.trans (s.matResult_tgo k h), fun h => hels.trans (s.matResult_accld k h),
      fun src add h => hels.trans (s.matResult_accmov k h), hpend⟩
  case refine_8 =>
    intro k id s m hk heng hfind hfail hstage hfits
    have hcore : (s.updCore k fun c => { c with ladq := delFirst (fun m => m.id == id) c.ladq }).core k =
        { s.core k with ladq := delFirst (fun m => m.id == id) (s.core k).ladq } := State.core_updCore_same ..
    have hrel := State.unhold_fits (s := s.updCore k fun c => { c with ladq := delFirst (fun m => m.id == id) c.ladq }) (k := k)
      (by rw [hcore]; exact hfits.of_eq rfl fun y => by cases y <;> exact ⟨rfl, rfl⟩) .X m.wid
    refine ⟨_, exec_ladderCmdComplete hk heng hfind hfail hstage, ?_, ?_⟩
    · rw [hrel.core, hcore]
    · rw [hrel.device]
      exact sameMemory_refl s

/-! PROOFS. Engine words: the record is copied and the command queued (R227, R229, R256, R443). -/

namespace Sys2Proof.Machine

open Sys2Proof

/-! ### What the words of every kind have in common -/

/-- What an engine word does to its context: the command enters the engine queue, and the registers of its answer are pending. -/
def CtxSt.asks (d : CtxSt) (e : EngCmd) (awaits : List Reg) : CtxSt :=
  { d with engq := d.engq ++ [e], pend := d.pend ++ awaits.filter (· ≠ 0) }

/-- What an engine word does to its core where its command enters the buffer of the Ferry path. -/
def CoreSt.ferries (d : CoreSt) (e : EngCmd) : CoreSt := { d with ferry := d.ferry ++ [e] }

/-- The state with the command of an engine word entered. -/
def State.asked (s : State) (a : EngineWord) (e : EngCmd) : State :=
  if a.ferry then s.updCur fun d => d.ferries e else s.updMe fun d => d.asks e a.awaits

/-- The issue of an engine word, as the word asks for it by the state it finds. -/
structure Asks (v : State) (a : EngineWord) (j : Issue) : Prop where
  allowed : j.allowed = if a.onlyL then .onlyL else .ls := by rfl
  priv    : j.priv = false := by rfl
  unit    : j.unit = 0 := by rfl
  branch  : j.branch = false := by rfl
  goes    : j.goes = false := by rfl
  engine  : j.engine = true := by rfl
  uses    : j.uses = [] := by rfl
  queue   : j.queue = false := by rfl
  tki     : j.tki = [a.args.tki0, a.args.tki1, a.args.tki2] := by rfl
  held    : ∀ s, (j.hold && j.holdIf s) = a.ferry
  buffered : a.ferry = true → a.awaits = []
  pre     : ∀ s, j.pre s = none := by exact fun _ => rfl
  check   : ∀ s, j.check s = none := by exact fun _ => rfl
  ordered : a.op = .tgraph ∨ (a.trap = none ∧ v.rcdLost a.args = none) → j.ordered v = none
  late    : a.trap = none → v.rcdLost a.args = none → j.late v = none
  ready   : (a.front = true → v.isSpec v.k = false) → v.me.regsReady a.awaits = true → (a.ferry = false → v.me.engq.length < 16) → j.wait v = .go
  waits   : a.front = true → v.isSpec v.k = true → j.wait v = .block
  effect  : a.twice = false → ∀ c n, j.effect v.cur.nextId (v.pay c j n) = (v.pay c j n).asked a (issuedCmd v a)

/-- The record of a word does not change as it issues. -/
theorem State.rcdAt_pay (v : State) (c : Ctl) (j : Issue) (n : Nat) (e : EArgs) : (v.pay c j n).rcdAt e = v.rcdAt e := by
  unfold State.rcdAt
  rw [(State.moves_pay v c j n).cur]
  rfl

/-- The command that a word issues. -/
theorem State.engCmd_pay (v : State) (c : Ctl) (j : Issue) (n wid : Nat) (op : EngOp) (e : EArgs) :
    (v.pay c j n).engCmd wid op e = v.engCmd wid op e := by
  have hpos : (v.pay c j n).me.pc = v.me.pc := by rw [State.me_pay]
  unfold State.engCmd
  rw [State.rcdAt_pay, State.wordAtPc_pay, hpos, State.who_pay]

/-! ### Waiting for a place in the queue, for the frontier and for registers -/

theorem State.engFree_of {v : State} (h : v.me.engq.length < 16) : v.engFree = true := decide_eq_true h

/-- A word with a place in the queue waits for the frontier where its command is irrevocable. -/
theorem State.engWait_goes {v : State} {front : Bool} (hspec : front = true → v.isSpec v.k = false) (hfree : v.engFree = true) :
    (Wait.need v.engFree).and (v.frontWait front) = .go := by
  unfold State.frontWait
  rw [hfree]
  cases front with
  | false => rfl
  | true => rw [hspec rfl]; rfl

theorem State.frontWait_blocks {v : State} (hspec : v.isSpec v.k = true) : v.frontWait true = .block := by
  unfold State.frontWait
  rw [hspec]
  rfl

theorem State.engWait_blocks {v : State} {front : Bool} (hfront : front = true) (hspec : v.isSpec v.k = true) :
    (Wait.need v.engFree).and (v.frontWait front) = .block := by
  rw [hfront, State.frontWait_blocks hspec]
  cases v.engFree <;> rfl

theorem Option.or_none_of {α : Type} {a b : Option α} (ha : a = none) (hb : b = none) : a.or b = none := by rw [ha, hb]; rfl

/-! ### The words -/

/-- The issue of TSPAWN. -/
def tspawnWord (e : EArgs) : Issue :=
  { allowed := .onlyL
    engine := true
    tki := tkis e
    ordered := fun s => (s.rcdLost e).or (s.spawnTrap (s.rcdAt e))
    wait := fun s => .need (s.engFree && s.me.regsReady [rcdXd (s.rcdAt e), rcdXs (s.rcdAt e)])
    effect := fun wid s =>
      let cmd := { s.engCmd wid .tspawn e with aux := s.childTs (s.rcdAt e) }
      (s.pushEng cmd).updMe fun c => (c.await (rcdXd cmd.rcd)).await (rcdXs cmd.rcd) }

/-- The issue of TGRAPH. -/
def tgraphWord (e : EArgs) : Issue :=
  { allowed := .onlyL
    engine := true
    tki := tkis e
    wait := fun s => (Wait.need s.engFree).and (s.frontWait true)
    late := fun s => (s.rcdLost e).or (s.graphTrap (s.rcdAt e))
    effect := fun wid s => s.pushEng (s.engCmd wid .tgraph e) }

section

variable (v : State) (e : EArgs)

/-- A command enters the queue of its context, with no register to wait for. -/
theorem State.pushEng_asked {v : State} {a : EngineWord} (s : State) (hferry : a.ferry = false) (hawaits : a.awaits = []) {cmd : EngCmd}
    (hcmd : cmd = issuedCmd v a) : s.pushEng cmd = s.asked a (issuedCmd v a) := by
  unfold State.asked State.pushEng
  rw [hferry, hcmd]
  refine State.updMe_congr ?_
  unfold CtxSt.asks
  rw [hawaits, List.filter_nil, List.append_nil]

/-- Registers that are pending, one after another. -/
theorem CtxSt.foldl_await (l : List Reg) : ∀ d : CtxSt, l.foldl CtxSt.await d = { d with pend := d.pend ++ l.filter (· ≠ 0) } := by
  induction l with
  | nil =>
    intro d
    rw [List.filter_nil, List.append_nil]
    rfl
  | cons x r ih =>
    intro d
    rw [List.foldl_cons, ih, List.filter_cons]
    unfold CtxSt.await
    by_cases hx : x = 0
    · rw [if_pos hx, if_neg (by simpa using hx)]
    · rw [if_neg hx, if_pos (by simpa using hx)]
      dsimp only
      rw [List.append_assoc]
      rfl

/-- A command enters the queue of its context, and the registers of its answer are pending. -/
theorem State.pushEng_await_asked {v : State} {a : EngineWord} (s : State) (hferry : a.ferry = false) {cmd : EngCmd} (hcmd : cmd = issuedCmd v a) :
    ((s.pushEng cmd).updMe fun d => a.awaits.foldl CtxSt.await d) = s.asked a (issuedCmd v a) := by
  unfold State.asked State.pushEng
  rw [hferry, hcmd, State.updMe_updMe]
  refine State.updMe_congr ?_
  rw [CtxSt.foldl_await]
  rfl

/-- The words whose record a token orders are checked where their tokens are there. -/
theorem ordered_of {v : State} {a : EngineWord} {o : Option Trap} (hop : a.op ≠ .tgraph)
    (h : a.trap = none → v.rcdLost a.args = none → o = none) : a.op = .tgraph ∨ (a.trap = none ∧ v.rcdLost a.args = none) → o = none := by
  rintro (ht | ⟨htrap, hlost⟩)
  · exact absurd ht hop
  · exact h htrap hlost

theorem asks_transfer {op : EngOp} (hop : op ≠ .tgraph) : Asks v (transferWord v op e false) (transferIssue op e) where
  held _ := rfl
  buffered _ := rfl
  ordered := ordered_of hop fun h _ => h
  late _ _ := rfl
  ready hfront _ hfree := State.engWait_goes hfront (State.engFree_of (hfree rfl))
  waits := State.engWait_blocks
  effect _ _ _ := State.pushEng_asked _ rfl rfl (State.engCmd_pay ..)

theorem asks_ferry {op : EngOp} (hop : op ≠ .tgraph) : Asks v (transferWord v op e true) (ferryIssue op e) where
  held _ := rfl
  buffered _ := rfl
  ordered := ordered_of hop fun h _ => h
  late _ _ := rfl
  ready hfront _ _ := by
    change v.frontWait (v.writesHost op (v.rcdAt e)) = .go
    unfold State.frontWait
    cases hhost : v.writesHost op (v.rcdAt e) with
    | false => rfl
    | true => rw [hfront hhost]; rfl
  waits hfront hspec := by
    have hhost : v.writesHost op (v.rcdAt e) = true := hfront
    change v.frontWait (v.writesHost op (v.rcdAt e)) = .block
    rw [hhost]
    exact State.frontWait_blocks hspec
  effect _ c n := congrArg (fun m => (v.pay c (ferryIssue op e) n).updCur fun k => k.ferries m) (State.engCmd_pay ..)

theorem asks_remote {op : EngOp} (hop : op ≠ .tgraph) : Asks v (remoteWord v op e) (remoteIssue op e) where
  held _ := rfl
  buffered _ := rfl
  ordered := ordered_of hop fun h _ => h
  late _ _ := rfl
  ready hfront _ hfree := State.engWait_goes hfront (State.engFree_of (hfree rfl))
  waits := State.engWait_blocks
  effect _ _ _ := State.pushEng_asked _ rfl rfl (State.engCmd_pay ..)

theorem asks_stn (status : Bool) : Asks v (stnWord v status (stnRegs status (v.rcdAt e)) e) (stnIssue status e) where
  held _ := rfl
  buffered h := nomatch h
  ordered := ordered_of (fun h => nomatch h) fun h _ => h
  late _ _ := rfl
  ready _ hregs hfree := by
    change Wait.need (v.engFree && v.me.regsReady (stnRegs status (v.rcdAt e))) = .go
    have hready : v.me.regsReady (stnRegs status (v.rcdAt e)) = true := hregs
    rw [hready, State.engFree_of (hfree rfl)]
    rfl
  waits h := nomatch h
  effect _ c n := by
    have hcmd := State.engCmd_pay v c (stnIssue status e) n v.cur.nextId (.stn status) e
    change (((v.pay c (stnIssue status e) n).pushEng ((v.pay c (stnIssue status e) n).engCmd v.cur.nextId (.stn status) e)).updMe fun d =>
      (stnRegs status ((v.pay c (stnIssue status e) n).engCmd v.cur.nextId (.stn status) e).rcd).foldl CtxSt.await d) = _
    rw [hcmd]
    exact State.pushEng_await_asked (a := stnWord v status (stnRegs status (v.rcdAt e)) e) _ rfl rfl

theorem asks_tspawn : Asks v (spawnWord v e) (tspawnWord e) where
  held _ := rfl
  buffered h := nomatch h
  ordered := ordered_of (fun h => nomatch h) fun h hlost => Option.or_none_of hlost h
  late _ _ := rfl
  ready _ hregs hfree := by
    change Wait.need (v.engFree && v.me.regsReady [rcdXd (v.rcdAt e), rcdXs (v.rcdAt e)]) = .go
    have hready : v.me.regsReady [rcdXd (v.rcdAt e), rcdXs (v.rcdAt e)] = true := hregs
    rw [hready, State.engFree_of (hfree rfl)]
    rfl
  waits h := nomatch h
  effect _ c n := by
    have hcmd := State.engCmd_pay v c (tspawnWord e) n v.cur.nextId .tspawn e
    have hts : (v.pay c (tspawnWord e) n).childTs ((v.pay c (tspawnWord e) n).rcdAt e) = v.childTs (v.rcdAt e) := by
      have hmoves := State.moves_pay v c (tspawnWord e) n
      unfold State.childTs State.taskt
      rw [State.rcdAt_pay, hmoves.k, hmoves.taskOf]
    change (((v.pay c (tspawnWord e) n).pushEng { (v.pay c (tspawnWord e) n).engCmd v.cur.nextId .tspawn e with
        aux := (v.pay c (tspawnWord e) n).childTs ((v.pay c (tspawnWord e) n).rcdAt e) }).updMe fun d =>
      (d.await (rcdXd ((v.pay c (tspawnWord e) n).engCmd v.cur.nextId .tspawn e).rcd)).await
        (rcdXs ((v.pay c (tspawnWord e) n).engCmd v.cur.nextId .tspawn e).rcd)) = _
    rw [hcmd, hts]
    exact State.pushEng_await_asked (a := spawnWord v e) _ rfl rfl

/-- What TGRAPH asks for. -/
def graphWord : EngineWord := { op := .tgraph, args := e, onlyL := true, trap := v.graphTrap (v.rcdAt e), front := true }

theorem asks_tgraph : Asks v (graphWord v e) (tgraphWord e) where
  held _ := rfl
  buffered _ := rfl
  ordered _ := rfl
  late h hlost := Option.or_none_of hlost h
  ready hfront _ hfree := State.engWait_goes (front := true) hfront (State.engFree_of (hfree rfl))
  waits := State.engWait_blocks
  effect _ _ _ := State.pushEng_asked _ rfl rfl (State.engCmd_pay ..)

/-- The command of a COLL as it issues. -/
def State.collCmd (s : State) (wid form : Nat) (e : EArgs) : EngCmd :=
  { s.engCmd wid (.coll form) e with aux := s.now, limit := s.deadline (s.partOf s.k) }

theorem State.collCmd_pay (form : Nat) (c : Ctl) (j : Issue) (n : Nat) :
    (v.pay c j n).collCmd v.cur.nextId form e = issuedCmd v (collWord v form e) := by
  have hmoves := State.moves_pay v c j n
  have hpart : (v.pay c j n).partOf (v.pay c j n).k = v.partOf v.k := by rw [hmoves.k, hmoves.partOf]
  have hreg : ((v.pay c j n).part (v.partOf v.k)).reddl = (v.part (v.partOf v.k)).reddl := rfl
  unfold State.collCmd State.deadline
  rw [State.engCmd_pay, hpart, hreg]
  rfl

/-- COLL's command enters the queue; a second one of a group and number fails with the first (R443). -/
theorem collIssue_effect (wid form : Nat) : (collIssue form e).effect wid v =
    (v.cur.transfers.find? fun x => x.collective (collGroup (v.rcdAt e)) (collNum (v.rcdAt e))).elim (v.pushEng (v.collCmd wid form e))
      fun first => (v.pushEng (v.collCmd wid form e)).collDouble v.k first (v.collCmd wid form e) form := by
  unfold collIssue
  dsimp only
  change (match v.cur.transfers.find? fun x => x.collective (collGroup (v.rcdAt e)) (collNum (v.rcdAt e)) with
    | some first => (v.pushEng (v.collCmd wid form e)).collDouble v.k first (v.collCmd wid form e) form
    | none => v.pushEng (v.collCmd wid form e)) = _
  generalize (v.cur.transfers.find? fun x => x.collective (collGroup (v.rcdAt e)) (collNum (v.rcdAt e))) = o
  cases o with
  | none => rw [Option.elim_none]
  | some first => rw [Option.elim_some]

theorem State.coll_effect (form : Nat) (c : Ctl) (n : Nat) :
    (collIssue form e).effect v.cur.nextId (v.pay c (collIssue form e) n) =
      (v.cur.transfers.find? fun x => x.collective (collGroup (v.rcdAt e)) (collNum (v.rcdAt e))).elim
        ((v.pay c (collIssue form e) n).pushEng (issuedCmd v (collWord v form e)))
        fun first => ((v.pay c (collIssue form e) n).pushEng (issuedCmd v (collWord v form e))).collDouble v.k first
          (issuedCmd v (collWord v form e)) form := by
  have hmoves := State.moves_pay v c (collIssue form e) n
  have htrans : (v.pay c (collIssue form e) n).cur.transfers = v.cur.transfers := by
    rw [hmoves.cur]
    rfl
  rw [collIssue_effect, State.collCmd_pay, State.rcdAt_pay, htrans, hmoves.k]

theorem asks_coll (form : Nat) : Asks v (collWord v form e) (collIssue form e) where
  held _ := rfl
  buffered _ := rfl
  ordered := ordered_of (fun h => nomatch h) fun h hlost => by
    obtain ⟨hcoll, hover⟩ := Option.or_eq_none_iff.1 h
    exact Option.or_none_of (Option.or_none_of hlost hcoll) hover
  late _ _ := rfl
  ready hfront _ hfree := State.engWait_goes (front := true) hfront (State.engFree_of (hfree rfl))
  waits := State.engWait_blocks
  effect htwice c n := by
    have hnone : (v.cur.transfers.find? fun x => x.collective (collGroup (v.rcdAt e)) (collNum (v.rcdAt e))) = none := by
      rw [List.find?_eq_none]
      intro x hx hcoll
      have hany : (v.cur.transfers.any fun x => x.collective (collGroup (v.rcdAt e)) (collNum (v.rcdAt e))) = true :=
        List.any_eq_true.2 ⟨x, hx, hcoll⟩
      have hno : (v.cur.transfers.any fun x => x.collective (collGroup (v.rcdAt e)) (collNum (v.rcdAt e))) = false := htwice
      rw [hany] at hno
      exact absurd hno (by decide)
    rw [State.coll_effect, hnone]
    exact State.pushEng_asked _ rfl rfl rfl

end

/-- Every engine word is issued as it asks. -/
theorem engineWord_asks {i : Instr} {v : State} {a : EngineWord} (h : engineWord v i = some a) :
    ∃ j, (∀ s, exec i s = s.issue i j) ∧ Asks v a j := by
  unfold engineWord at h
  split at h
  · exact Option.some.inj h ▸ ⟨_, fun _ => rfl, asks_transfer v _ fun h => nomatch h⟩
  · exact Option.some.inj h ▸ ⟨_, fun _ => rfl, asks_transfer v _ fun h => nomatch h⟩
  · exact Option.some.inj h ▸ ⟨_, fun _ => rfl, asks_transfer v _ fun h => nomatch h⟩
  · exact Option.some.inj h ▸ ⟨_, fun _ => rfl, asks_transfer v _ fun h => nomatch h⟩
  · exact Option.some.inj h ▸ ⟨_, fun _ => rfl, asks_transfer v _ fun h => nomatch h⟩
  · exact Option.some.inj h ▸ ⟨_, fun _ => rfl, asks_ferry v _ fun h => nomatch h⟩
  · exact Option.some.inj h ▸ ⟨_, fun _ => rfl, asks_ferry v _ fun h => nomatch h⟩
  · exact Option.some.inj h ▸ ⟨_, fun _ => rfl, asks_ferry v _ fun h => nomatch h⟩
  · exact Option.some.inj h ▸ ⟨_, fun _ => rfl, asks_remote v _ fun h => nomatch h⟩
  · exact Option.some.inj h ▸ ⟨_, fun _ => rfl, asks_remote v _ fun h => nomatch h⟩
  · exact Option.some.inj h ▸ ⟨_, fun _ => rfl, asks_stn v _ false⟩
  · exact Option.some.inj h ▸ ⟨_, fun _ => rfl, asks_stn v _ true⟩
  · exact Option.some.inj h ▸ ⟨_, fun _ => rfl, asks_tspawn v _⟩
  · exact Option.some.inj h ▸ ⟨_, fun _ => rfl, asks_tgraph v _⟩
  · exact Option.some.inj h ▸ ⟨_, fun _ => rfl, asks_coll v _ 0⟩
  · exact Option.some.inj h ▸ ⟨_, fun _ => rfl, asks_coll v _ 1⟩
  · exact Option.some.inj h ▸ ⟨_, fun _ => rfl, asks_coll v _ 2⟩
  · exact Option.some.inj h ▸ ⟨_, fun _ => rfl, asks_coll v _ 3⟩
  · exact nomatch h

/-! ### Issue -/

section

variable {v : State} {a : EngineWord} {j : Issue}

theorem Moves.asked {u w : State} {m : Moved} (h : Moves u w m) (a : EngineWord) (e : EngCmd) : Moves (u.asked a e) (w.asked a e) m := by
  unfold State.asked
  split
  · exact h.updCur _ rfl
  · exact h.updMe _ rfl

/-- What an engine word may change of its core. -/
def keepButFerry (x y : CoreSt) : CoreSt := { x with ferry := y.ferry }

/-- What an engine word may change of its context. -/
def keepButEngq (x y : CtxSt) : CtxSt := { x with engq := y.engq, pend := y.pend }

theorem Within.asked (v : State) (a : EngineWord) (e : EngCmd) : Within v (v.asked a e) keepButFerry keepButEngq := by
  have hstart : Within v v keepButFerry keepButEngq := ⟨.refl v, State.local_refl v, rfl, rfl, rfl, fun _ _ => rfl⟩
  unfold State.asked
  split
  · exact hstart.updCur (fun d => d.ferries e) rfl rfl
  · exact hstart.updMe (fun d => d.asks e a.awaits) (fun _ _ x _ => by cases x <;> rfl) rfl rfl

theorem Asks.commit (h : Asks v a j) (htwice : a.twice = false) (c : Ctl) (n : Nat) :
    Through v (v.commit c j n) c [a.args.tki0, a.args.tki1, a.args.tki2] a.ferry keepButFerry keepButEngq true ∧
      (v.commit c j n).cur.ferry = v.cur.ferry ++ (if a.ferry then [issuedCmd v a] else []) ∧
      (v.commit c j n).me.engq = v.me.engq ++ (if a.ferry then [] else [issuedCmd v a]) ∧
      (v.commit c j n).me.pend = v.me.pend ++ a.awaits.filter (· ≠ 0) := by
  have hwithin := Within.asked v a (issuedCmd v a)
  obtain ⟨m, hm, -, hthrough⟩ := ((State.moves_pay v c j n).asked a (issuedCmd v a)).passes hwithin.steady (h.effect htwice c n) h.branch h.goes
  rw [h.held, h.tki, h.engine] at hthrough
  refine ⟨hwithin.through hm hthrough (fun _ _ _ _ => rfl) (fun _ _ _ _ _ => rfl), ?_⟩
  have hferry : (v.commit c j n).cur.ferry = (v.asked a (issuedCmd v a)).cur.ferry := by rw [hm.cur]; rfl
  have hme : (v.commit c j n).me = (v.asked a (issuedCmd v a)).me.moved (v.asked a (issuedCmd v a)).who.ctx (v.asked a (issuedCmd v a)).who.ctx m := hm.me
  have hengq : (v.commit c j n).me.engq = (v.asked a (issuedCmd v a)).me.engq := by rw [hme]; rfl
  have hpend : (v.commit c j n).me.pend = (v.asked a (issuedCmd v a)).me.pend := by rw [hme]; rfl
  rw [hferry, hengq, hpend]
  unfold State.asked
  cases hf : a.ferry with
  | true =>
    have hkeep : (v.updCur fun d => d.ferries (issuedCmd v a)).me = v.me := State.me_updCur (by cases v.who.ctx <;> rfl)
    simp only [if_true]
    rw [State.cur_updCur, hkeep, h.buffered hf, List.filter_nil, List.append_nil, List.append_nil]
    exact ⟨rfl, rfl, rfl⟩
  | false =>
    simp only [Bool.false_eq_true, if_false]
    rw [State.me_updMe, State.cur_updMe, List.append_nil]
    exact ⟨by cases v.who.ctx <;> rfl, rfl, rfl⟩

/-- The contexts that may issue an engine word. -/
theorem allowed_ok {onlyL : Bool} {x : Ctx} (h : if onlyL then x = .L else x ≠ .X) :
    (if onlyL then Allowed.onlyL else Allowed.ls).ok x = true := by
  cases onlyL with
  | true =>
    have hx : x = .L := h
    rw [hx]
    rfl
  | false =>
    have hx : x ≠ .X := h
    cases x with
    | X => exact absurd rfl hx
    | L => rfl
    | S => rfl

/-- An engine word that comes to its checks goes through. -/
theorem Asks.issue_goes {s : State} {i : Instr} (h : Asks (s.seen (ctlOf i) 0) a j)
    (hclear : s.clear (ctlOf i) 0 [a.args.tki0, a.args.tki1, a.args.tki2] [] = true) (hctx : if a.onlyL then s.who.ctx = .L else s.who.ctx ≠ .X)
    (htrap : a.trap = none) (hlost : (s.seen (ctlOf i) 0).rcdLost a.args = none)
    (hspec : a.front = true → (s.seen (ctlOf i) 0).isSpec s.k = false) (hregs : (s.seen (ctlOf i) 0).me.regsReady a.awaits = true)
    (hfree : a.ferry = false → (s.seen (ctlOf i) 0).me.engq.length < 16) :
    s.issue i j = .next ((s.seen (ctlOf i) 0).commit (ctlOf i) j (s.me.nextCycle (ctlOf i) 0)) := by
  have hgoes := s.issue_goes i j
  rw [h.unit, h.tki, h.uses, h.allowed] at hgoes
  refine hgoes hclear (allowed_ok hctx) ?_ (h.pre _) ?_ ?_ (h.check _) (h.ordered (.inr ⟨htrap, hlost⟩)) ?_ (h.late htrap hlost)
  · rw [h.priv]; exact nofun
  · rw [h.branch]; exact nofun
  · rw [h.queue]; exact nofun
  · exact h.ready (by rw [s.k_seen]; exact hspec) hregs hfree

/-- An irrevocable engine word of a speculative task waits. -/
theorem Asks.issue_waits {s : State} {i : Instr} (h : Asks s a j) (hplain : s.me.exposed = false) (hpair : s.me.pair = none)
    (hclear : s.clear (ctlOf i) 0 [a.args.tki0, a.args.tki1, a.args.tki2] [] = true) (hctx : if a.onlyL then s.who.ctx = .L else s.who.ctx ≠ .X)
    (hchecks : a.op = .tgraph ∨ (a.trap = none ∧ s.rcdLost a.args = none)) (hfront : a.front = true) (hspec : s.isSpec s.k = true) :
    s.issue i j = .next s.block := by
  have hstalls := s.issue_stalls i j
  rw [h.unit, h.tki, h.uses, h.allowed, State.seen_interlocked _ _ _ hplain] at hstalls
  exact (hstalls hclear (allowed_ok hctx) h.priv (h.pre _) h.branch h.queue (h.check _) (h.ordered hchecks) (h.waits hfront hspec)).trans
    (congrArg Host.Outcome.next (s.stall_alone _ _ hpair))

end

end Sys2Proof.Machine

/-! ### A second collective of a group and number (R443) -/

namespace Sys2Proof.Machine

open Sys2Proof

theorem engineWord_twice {i : Instr} {v : State} {a : EngineWord} (h : engineWord v i = some a) (htwice : a.twice = true) :
    ∃ form e, a = collWord v form e ∧ ∀ s, exec i s = s.issue i (collIssue form e) := by
  unfold engineWord at h
  split at h
  case h_15 => exact ⟨_, _, (Option.some.inj h).symm, fun _ => rfl⟩
  case h_16 => exact ⟨_, _, (Option.some.inj h).symm, fun _ => rfl⟩
  case h_17 => exact ⟨_, _, (Option.some.inj h).symm, fun _ => rfl⟩
  case h_18 => exact ⟨_, _, (Option.some.inj h).symm, fun _ => rfl⟩
  case h_19 => exact nomatch h
  all_goals
    have hno := congrArg EngineWord.twice (Option.some.inj h)
    rw [htwice] at hno
    exact nomatch hno

/-- A command that the verdict ILLOP has reached. -/
def EngCmd.condemned (e : EngCmd) : EngCmd := { e with fail := some { cause := .illop, addr := w64 e.off, info := w64 0 } }

theorem State.collVerdict_illop (s : State) (j : Nat) (x : Ctx) (id : Nat) :
    s.collVerdict .illop 0 ⟨0, [], j, x, id, true⟩ = s.updEng j id EngCmd.condemned := rfl

/-- Commands of a core that a list of numbers names get the verdict. -/
def CoreSt.condemn (c : CoreSt) (ids : List Nat) : CoreSt := ids.foldl (fun c id => c.updEng id EngCmd.condemned) c

/-- A command with the verdict, where the list names it. -/
def EngCmd.judged (ids : List Nat) (e : EngCmd) : EngCmd := if e.id ∈ ids then e.condemned else e

theorem updFirst_eq_map {f : EngCmd → EngCmd} (id : Nat) (l : List EngCmd) (h : (l.map (·.id)).Nodup) :
    updFirst (fun e => e.id == id) f l = l.map fun e => if e.id = id then f e else e := by
  induction l with
  | nil => rfl
  | cons e r ih =>
    obtain ⟨hnot, hr⟩ := List.nodup_cons.1 h
    unfold updFirst
    rw [List.map_cons]
    by_cases he : e.id = id
    · have hrest : (r.map fun e => if e.id = id then f e else e) = r := by
        refine (List.map_congr_left fun x hx => if_neg fun hxid => hnot ?_).trans (List.map_id r)
        have hsame : e.id = x.id := he.trans hxid.symm
        exact List.mem_map.2 ⟨x, hx, hsame.symm⟩
      rw [if_pos (beq_iff_eq.2 he), if_pos he, hrest]
    · rw [if_neg (by simpa using he), if_neg he, ih hr]

theorem CoreSt.transfers_updEng {c : CoreSt} (h : (c.transfers.map (·.id)).Nodup) (id : Nat) (f : EngCmd → EngCmd) :
    (c.updEng id f).transfers = c.transfers.map fun e => if e.id = id then f e else e := by
  unfold CoreSt.transfers at h ⊢
  rw [List.map_append, List.map_append] at h
  obtain ⟨hLS, hF, -⟩ := List.nodup_append.1 h
  obtain ⟨hL, hS, -⟩ := List.nodup_append.1 hLS
  rw [List.map_append, List.map_append, ← updFirst_eq_map id _ hL, ← updFirst_eq_map id _ hS, ← updFirst_eq_map id _ hF]
  rfl

theorem CoreSt.transfers_condemn (ids : List Nat) : ∀ c : CoreSt, (c.transfers.map (·.id)).Nodup →
    (c.condemn ids).transfers = c.transfers.map (EngCmd.judged ids) := by
  induction ids with
  | nil => exact fun c _ => (List.map_id' c.transfers).symm
  | cons id r ih =>
    intro c h
    have hone := c.transfers_updEng h id EngCmd.condemned
    have hids : ((c.updEng id EngCmd.condemned).transfers.map (·.id)) = c.transfers.map (·.id) := by
      rw [hone, List.map_map]
      refine List.map_congr_left fun e _ => ?_
      change (if e.id = id then e.condemned else e).id = e.id
      split <;> rfl
    change ((c.updEng id EngCmd.condemned).condemn r).transfers = _
    rw [ih _ (by rwa [hids]), hone, List.map_map]
    refine List.map_congr_left fun e _ => ?_
    change EngCmd.judged r (if e.id = id then e.condemned else e) = _
    unfold EngCmd.judged
    by_cases he : e.id = id
    · have hmem : e.id ∈ id :: r := he ▸ List.mem_cons_self
      rw [if_pos he, if_pos hmem]
      exact ite_self _
    · rw [if_neg he]
      exact if_congr (by rw [List.mem_cons, or_iff_right he]) rfl rfl

/-- A verdict keeps the numbers of the commands in a queue. -/
theorem map_id_updFirst {p : EngCmd → Bool} {f : EngCmd → EngCmd} (hf : ∀ e, (f e).id = e.id) (l : List EngCmd) :
    (updFirst p f l).map (·.id) = l.map (·.id) := by
  induction l with
  | nil => rfl
  | cons e r ih =>
    unfold updFirst
    split
    · rw [List.map_cons, List.map_cons, hf]
    · rw [List.map_cons, List.map_cons, ih]

theorem CoreSt.engq_condemn (x : Ctx) (ids : List Nat) : ∀ c : CoreSt, ((c.condemn ids).ctx x).engq.map (·.id) = (c.ctx x).engq.map (·.id) := by
  induction ids with
  | nil => exact fun _ => rfl
  | cons id r ih =>
    intro c
    have hone : ((c.updEng id EngCmd.condemned).ctx x).engq.map (·.id) = (c.ctx x).engq.map (·.id) := by
      cases x with
      | L => exact map_id_updFirst (f := EngCmd.condemned) (fun _ => rfl) _
      | X => rfl
      | S => exact map_id_updFirst (f := EngCmd.condemned) (fun _ => rfl) _
    exact (ih _).trans hone

/-- Commands that pairs of a core and a number name get the verdict. -/
def State.condemn (s : State) (l : List (Nat × Nat)) : State := l.foldl (fun s p => s.updEng p.1 p.2 EngCmd.condemned) s

theorem State.core_condemn (k : Nat) (l : List (Nat × Nat)) : ∀ s : State,
    (s.condemn l).core k = (s.core k).condemn ((l.filter fun p => p.1 == k).map (·.2)) := by
  induction l with
  | nil => exact fun _ => rfl
  | cons p r ih =>
    intro s
    change ((s.updEng p.1 p.2 EngCmd.condemned).condemn r).core k = _
    rw [ih, List.filter_cons]
    unfold State.updEng
    by_cases hp : p.1 = k
    · rw [if_pos (beq_iff_eq.2 hp), hp, State.core_updCore_same, List.map_cons]
      rfl
    · rw [if_neg (by simpa using hp), State.core_updCore_other _ _ _ _ (fun h => hp h.symm)]

theorem State.who_condemn (l : List (Nat × Nat)) : ∀ s : State, (s.condemn l).who = s.who := by
  induction l with
  | nil => exact fun _ => rfl
  | cons p r ih => exact fun s => ih _

/-- The commands that a failed collective reaches. -/
def State.failing (s : State) (p g n : Nat) (test : Nat → EngCmd → Bool) : List (Nat × Nat) :=
  (s.cores.filter fun c => s.partOf c.1 == p).flatMap fun c =>
    (c.2.transfers.filter fun e => e.collective g n && test c.1 e && !e.fin && e.fail.isNone).map fun e => (c.1, e.id)

theorem State.collFail_eq (s : State) (p g n : Nat) (test : Nat → EngCmd → Bool) : s.collFail p g n test = s.condemn (s.failing p g n test) := by
  unfold State.collFail State.condemn State.failing
  rw [List.foldl_flatMap]
  refine congrArg (fun f => List.foldl f s (s.cores.filter fun c => s.partOf c.1 == p)) ?_
  funext t c
  rw [List.foldl_map]
  rfl

theorem State.cores_putColl (s : State) (d : Coll) : (s.putColl d).cores = s.cores := rfl

theorem State.who_putColl (s : State) (d : Coll) : (s.putColl d).who = s.who := rfl

/-- A second collective of a group and number: the commands that fail, whatever the reduction point notes. -/
theorem State.collDouble_cores {s : State} {k : Nat} {first e : EngCmd} {form : Nat}
    (hrank : (s.collRank (s.partOf k) (collGroup e.rcd) k).isSome = true) :
    ∃ test : Nat → EngCmd → Bool, (∀ x, test k x = true) ∧
      (s.collDouble k first e form).cores = (s.condemn (s.failing (s.partOf k) (collGroup e.rcd) (collNum e.rcd) test)).cores ∧
      (s.collDouble k first e form).who = s.who := by
  obtain ⟨r, hr⟩ := Option.isSome_iff_exists.1 hrank
  refine ⟨fun j x => j == k || decide (4 ≤ x.stage), fun x => Bool.or_eq_true_iff.2 (.inl (beq_self_eq_true k)), ?_⟩
  have hwho := State.who_condemn (s.failing (s.partOf k) (collGroup e.rcd) (collNum e.rcd) fun j x => j == k || decide (4 ≤ x.stage)) s
  unfold State.collDouble
  dsimp only
  rw [hr]
  dsimp only
  rw [State.collFail_eq]
  generalize s.condemn (s.failing (s.partOf k) (collGroup e.rcd) (collNum e.rcd) fun j x => j == k || decide (4 ≤ x.stage)) = t at hwho ⊢
  split
  · exact ⟨State.cores_putColl .., (State.who_putColl ..).trans hwho⟩
  · split
    · exact ⟨rfl, hwho⟩
    · exact ⟨State.cores_putColl .., (State.who_putColl ..).trans hwho⟩

/-- A core stands in the list of the cores where it has been changed. -/
theorem State.mem_cores_updMe (s : State) (f : CtxSt → CtxSt) : (s.k, (s.updMe f).core s.k) ∈ (s.updMe f).cores := by
  refine Sparse.mem_of_find ?_
  have hfind : Sparse.find (s.updMe f).cores s.k = some (s.cur.updCtx s.who.ctx f) := Sparse.find_put_same ..
  rw [hfind]
  exact congrArg some (s.cur_updMe f).symm

section

variable {s : State} {p g n : Nat} {test : Nat → EngCmd → Bool}

/-- No outstanding command of a failed collective is without a cause, on a core of which every command is meant. -/
theorem State.condemned_fail {k : Nat} (hmem : (k, s.core k) ∈ s.cores) (hpart : s.partOf k = p) (htest : ∀ x, test k x = true)
    (hids : ((s.core k).transfers.map (·.id)).Nodup) {e : EngCmd} (he : e ∈ ((s.condemn (s.failing p g n test)).core k).transfers)
    (hcoll : e.collective g n = true) (hfin : e.fin = false) : e.fail.isSome = true := by
  rw [State.core_condemn, CoreSt.transfers_condemn _ _ hids] at he
  obtain ⟨x, hx, rfl⟩ := List.mem_map.1 he
  unfold EngCmd.judged at hcoll hfin ⊢
  split
  case isTrue => rfl
  case isFalse hnot =>
    rw [if_neg hnot] at hcoll hfin
    by_contra hfail
    refine hnot (List.mem_map.2 ⟨(k, x.id), List.mem_filter.2 ⟨?_, beq_self_eq_true k⟩, rfl⟩)
    refine List.mem_flatMap.2 ⟨(k, s.core k), List.mem_filter.2 ⟨hmem, beq_iff_eq.2 hpart⟩, ?_⟩
    refine List.mem_map.2 ⟨x, List.mem_filter.2 ⟨hx, ?_⟩, rfl⟩
    rw [hcoll, htest, hfin, Option.isNone_iff_eq_none.2 (by simpa using hfail)]
    rfl

end

/-- A command enters the queue of a context of L or S. -/
theorem CoreSt.transfers_push {c : CoreSt} {x : Ctx} (hx : x ≠ .X) (e : EngCmd) :
    (c.updCtx x fun d => { d with engq := d.engq ++ [e] }).transfers.Perm (e :: c.transfers) := by
  cases x with
  | X => exact absurd rfl hx
  | L =>
    change ((c.cL.engq ++ [e]) ++ c.cS.engq ++ c.ferry).Perm (e :: (c.cL.engq ++ c.cS.engq ++ c.ferry))
    rw [List.append_assoc, List.append_assoc, List.append_assoc, List.singleton_append]
    exact List.perm_middle
  | S =>
    change (c.cL.engq ++ (c.cS.engq ++ [e]) ++ c.ferry).Perm (e :: (c.cL.engq ++ c.cS.engq ++ c.ferry))
    rw [← List.append_assoc, List.append_assoc, List.singleton_append]
    exact List.perm_middle

/-- The control half that a word owes leaves the commands as they are. -/
theorem State.commit_transfers {v w : State} {c : Ctl} {j : Issue} {n : Nat} (hw : j.effect v.cur.nextId (v.pay c j n) = w)
    (hbr : j.branch = false) (hgo : j.goes = false) : (v.commit c j n).me.engq = w.me.engq ∧ (v.commit c j n).cur.transfers = w.cur.transfers := by
  have hcommit : ∃ l, v.commit c j n = w.updMe fun d => { d.advance with sigs := l } := by
    unfold State.commit
    simp only [hw, hbr, hgo, Bool.or_self, Bool.false_eq_true, if_false]
    exact ⟨_, (w.updMe_updMe _ _).trans (State.updMe_congr rfl)⟩
  obtain ⟨l, hl⟩ := hcommit
  rw [hl, State.me_updMe, State.cur_updMe]
  exact ⟨rfl, by cases w.who.ctx <;> rfl⟩

section

variable {v : State} {form : Nat} {e : EArgs} {c : Ctl} {n : Nat}

/-- The state in which the command of a second collective has entered the queue. -/
theorem State.pushEng_pay (v : State) (c : Ctl) (j : Issue) (n : Nat) (cmd : EngCmd) :
    Moves (v.updMe fun d => { d with engq := d.engq ++ [cmd] }) ((v.pay c j n).pushEng cmd) (v.paid c j n) :=
  (State.moves_pay v c j n).updMe (fun d => { d with engq := d.engq ++ [cmd] }) rfl

theorem State.partOf_updMe (s : State) (f : CtxSt → CtxSt) : (s.updMe f).partOf s.k = s.partOf s.k := by
  unfold State.partOf State.taskOf
  have htask : ((s.updMe f).core s.k).task = (s.core s.k).task := (congrArg CoreSt.task (s.cur_updMe f)).trans (CoreSt.task_updCtx ..)
  rw [htask]
  rfl

/-- A second collective of a group and number fails with the first, as it issues. -/
theorem State.commit_twice (hx : v.who.ctx ≠ .X) (htwice : (collWord v form e).twice = true)
    (hrank : (v.collRank (v.partOf v.k) (collGroup (v.rcdAt e)) v.k).isSome = true) (hids : (v.cur.transfers.map (·.id)).Nodup)
    (hnew : ∀ x, x ∈ v.cur.transfers → x.id < v.cur.nextId) :
    (v.commit c (collIssue form e) n).me.engq.map (·.id) = v.me.engq.map (·.id) ++ [v.cur.nextId] ∧
      ∀ x, x ∈ (v.commit c (collIssue form e) n).cur.transfers → x.collective (collGroup (v.rcdAt e)) (collNum (v.rcdAt e)) = true →
        x.fin = false → x.fail.isSome = true := by
  obtain ⟨first, hfirst⟩ : ∃ first, (v.cur.transfers.find? fun x => x.collective (collGroup (v.rcdAt e)) (collNum (v.rcdAt e))) = some first := by
    obtain ⟨x, hx, hcoll⟩ := List.any_eq_true.1 htwice
    exact Option.isSome_iff_exists.1 (List.find?_isSome.2 ⟨x, hx, hcoll⟩)
  have heffect := v.coll_effect e form c n
  rw [hfirst, Option.elim_some] at heffect
  obtain ⟨hengq, htransfers⟩ := State.commit_transfers heffect rfl rfl
  have hmoves := v.pushEng_pay c (collIssue form e) n (issuedCmd v (collWord v form e))
  have hu : ((v.pay c (collIssue form e) n).pushEng (issuedCmd v (collWord v form e))).k = v.k := hmoves.k
  have hmem := (v.pay c (collIssue form e) n).mem_cores_updMe fun d => { d with engq := d.engq ++ [issuedCmd v (collWord v form e)] }
  have hkpay : (v.pay c (collIssue form e) n).k = v.k := (State.moves_pay v c (collIssue form e) n).k
  rw [hkpay] at hmem
  change (v.k, ((v.pay c (collIssue form e) n).pushEng (issuedCmd v (collWord v form e))).core v.k) ∈
    ((v.pay c (collIssue form e) n).pushEng (issuedCmd v (collWord v form e))).cores at hmem
  generalize (v.pay c (collIssue form e) n).pushEng (issuedCmd v (collWord v form e)) = u at *
  have hpart : u.partOf v.k = v.partOf v.k := (hmoves.partOf v.k).trans (v.partOf_updMe _)
  have hrank' : (u.collRank (u.partOf v.k) (collGroup (issuedCmd v (collWord v form e)).rcd) v.k).isSome = true := by
    rw [hpart, hmoves.inside.device]
    exact hrank
  obtain ⟨test, htest, hcores, hwho⟩ := State.collDouble_cores (first := first) (form := form) hrank'
  generalize u.collDouble v.k first (issuedCmd v (collWord v form e)) form = w at *
  have hcur : w.cur = (u.condemn (u.failing (u.partOf v.k) (collGroup (v.rcdAt e)) (collNum (v.rcdAt e)) test)).core v.k := by
    unfold State.cur State.core
    rw [State.k, hwho, hcores]
    exact congrArg (Sparse.get _ _) hu
  have hx' : w.who.ctx = v.who.ctx := by rw [hwho, hmoves.who]; rfl
  have hucur : u.core v.k = u.cur := by rw [State.cur, hu]
  have hperm : ((u.core v.k).transfers).Perm (issuedCmd v (collWord v form e) :: v.cur.transfers) := by
    rw [hucur, hmoves.cur, State.cur_updMe]
    exact CoreSt.transfers_push hx _
  have hnodup : ((u.core v.k).transfers.map (·.id)).Nodup := by
    refine (hperm.map (·.id)).nodup_iff.2 (List.nodup_cons.2 ⟨fun hold => ?_, hids⟩)
    obtain ⟨x, hxm, hxid⟩ := List.mem_map.1 hold
    exact absurd (hnew x hxm) (by rw [hxid]; exact Nat.lt_irrefl _)
  refine ⟨?_, fun x hxm hcoll hfin => ?_⟩
  · have hme : u.me.engq = v.me.engq ++ [issuedCmd v (collWord v form e)] := by
      rw [hmoves.me, State.me_updMe]
      rfl
    have hown : (u.core v.k).ctx v.who.ctx = u.me := by
      rw [hucur, State.me, hmoves.who]
      rfl
    rw [hengq, State.me, hx', hcur, State.core_condemn, CoreSt.engq_condemn, hown, hme, List.map_append]
    rfl
  · rw [htransfers, hcur] at hxm
    exact State.condemned_fail hmem rfl htest hnodup hxm hcoll hfin

end

end Sys2Proof.Machine

open Sys2Proof Sys2Proof.Machine in
/-- Settles O16: every engine word is issued as it asks, so its command enters the queue, or it waits; a second collective gives the
verdict to every command of its core with the group and number. -/
theorem engineWordsEnterTheirQueue : Obligations.EngineWordsEnterTheirQueue := by
  unfold Obligations.EngineWordsEnterTheirQueue
  refine ⟨?_, ?_, ?_⟩
  · intro i s a hword hclear hctx htrap htwice hspec hlost hregs hfree
    obtain ⟨j, hexec, hasks⟩ := engineWord_asks hword
    exact ⟨_, (hexec s).trans (hasks.issue_goes hclear hctx htrap hlost hspec hregs hfree), hasks.commit htwice _ _⟩
  · intro i s v a g n hv hword hclear hx htrap htwice hspec hlost hfree hg hn hrank hids hnew
    subst hv
    obtain ⟨form, e, rfl, hexec⟩ := engineWord_twice hword htwice
    subst hg hn
    have hk := s.k_seen (ctlOf i) 0
    refine ⟨_, (hexec s).trans ((asks_coll _ e form).issue_goes hclear hx htrap hlost (fun _ => hspec) rfl fun _ => hfree), ?_⟩
    exact State.commit_twice (by rw [State.who_seen]; exact hx) htwice (by rw [hk]; exact hrank) hids hnew
  · intro i s a hplain hword hclear hctx hpair hchecks hfront hspec
    obtain ⟨j, hexec, hasks⟩ := engineWord_asks hword
    exact (hexec s).trans (hasks.issue_waits hplain hpair hclear hctx hchecks hfront hspec)

/-! PROOFS. Lanes of an element-by-element result, and the integer arithmetic of a lane (R166, R167, R170, R171, R175, R178). -/

namespace Sys2Proof.Machine

open Sys2Proof

/-! ### Lanes of an element -/

theorem packLanes_div (w : Nat) (vs : List Nat) : ∀ i, packLanes w vs / 2 ^ (w * i) % 2 ^ w = vs.getD i 0 % 2 ^ w := by
  induction vs with
  | nil =>
    intro i
    change 0 / 2 ^ (w * i) % 2 ^ w = 0 % 2 ^ w
    rw [Nat.zero_div]
  | cons v vs ih =>
    intro i
    have hlow : v % 2 ^ w < 2 ^ w := Nat.mod_lt _ (by positivity)
    unfold packLanes
    cases i with
    | zero =>
      rw [Nat.mul_zero, Nat.pow_zero, Nat.div_one, Nat.add_mul_mod_self_left, Nat.mod_mod]
      rfl
    | succ i =>
      have hpow : 2 ^ (w * (i + 1)) = 2 ^ w * 2 ^ (w * i) := by rw [← pow_add]; ring_nf
      rw [hpow, ← Nat.div_div_eq_div_mul, Nat.add_mul_div_left _ _ (by positivity), Nat.div_eq_of_lt hlow, Nat.zero_add, ih i]
      rfl

/-- Bits below the cut of a truncated number. -/
theorem mod_pow_div_mod {x N k w : Nat} (h : k + w ≤ N) : x % 2 ^ N / 2 ^ k % 2 ^ w = x / 2 ^ k % 2 ^ w := by
  obtain ⟨m, rfl⟩ := Nat.exists_eq_add_of_le h
  rw [Nat.add_assoc, pow_add, pow_add, Nat.mod_mul_right_div_self, Nat.mod_mod_of_dvd _ (Dvd.intro _ rfl)]

/-- A lane of an element made from lanes. -/
theorem lane_ofLanes {w i : Nat} (vs : List Nat) (h : w * i + w ≤ 4096) : lane w (ofLanes w vs) i = vs.getD i 0 % 2 ^ w := by
  unfold lane ofLanes
  rw [BitVec.toNat_ofNat]
  exact (mod_pow_div_mod h).trans (packLanes_div ..)

/-- The lanes of a type fill an element. -/
theorem bits_mul_lanesOf (ty : ETy) : ty.bits * lanesOf ty = 4096 := by cases ty <;> rfl

theorem lane_fits {ty : ETy} {i : Nat} (h : i < lanesOf ty) : ty.bits * i + ty.bits ≤ 4096 := by
  rw [← bits_mul_lanesOf ty, ← Nat.mul_succ]
  exact Nat.mul_le_mul_left _ h

theorem lanesOf_eq (ty : ETy) : 4096 / ty.bits = lanesOf ty := rfl

/-- Elements lane by lane. -/
theorem zipLanes_eq (ty : ETy) (f : Nat → Nat → Lane) (a b : Elem) :
    zipLanes ty.bits f a b = ofLaneList ty.bits ((List.range (lanesOf ty)).map fun i => f (lane ty.bits a i) (lane ty.bits b i)) := by
  unfold zipLanes unpack
  rw [lanesOf_eq, List.zip_map', List.map_map]
  rfl

/-- The three flags that lanes raise. -/
theorem convFlags_bits (nan sat : Bool) :
    (convFlags nan sat).getLsbD 0 = false ∧ (convFlags nan sat).getLsbD 1 = sat ∧ (convFlags nan sat).getLsbD 2 = nan := by
  cases nan <;> cases sat <;> decide

theorem any_range_map {α : Type} (g : Nat → α) (p : α → Bool) (n : Nat) :
    ((List.range n).map g).any p = true ↔ ∃ i, i < n ∧ p (g i) = true := by
  rw [List.any_map, List.any_eq_true]
  exact exists_congr fun i => and_congr_left' List.mem_range

theorem lane_zipLanes {ty : ETy} {f : Nat → Nat → Lane} {a b : Elem} {i : Nat} (h : i < lanesOf ty) :
    lane ty.bits (zipLanes ty.bits f a b).1 i = (f (lane ty.bits a i) (lane ty.bits b i)).v % 2 ^ ty.bits := by
  rw [zipLanes_eq]
  unfold ofLaneList
  rw [lane_ofLanes _ (lane_fits h), List.map_map, List.getD_eq_getElem?_getD, List.getElem?_map, List.getElem?_range h]
  rfl

/-! ### Integers in a lane -/

theorem wrapInt_lt (n : Nat) (i : Int) : wrapInt n i < 2 ^ n := by
  have hpos : (0 : Int) < ((2 ^ n : Nat) : Int) := by positivity
  unfold wrapInt
  have hlt := Int.emod_lt_of_pos i hpos
  have hnn := Int.emod_nonneg i hpos.ne'
  omega

theorem intBounds_eq (ty : ETy) :
    (intBounds ty).1 = (if isSigned ty then -((2 ^ (ty.bits - 1) : Nat) : Int) else 0) ∧
      (intBounds ty).2 = (if isSigned ty then ((2 ^ (ty.bits - 1) : Nat) : Int) - 1 else ((2 ^ ty.bits : Nat) : Int) - 1) := by
  cases ty <;> exact ⟨rfl, rfl⟩

theorem intBounds_le (ty : ETy) : (intBounds ty).1 ≤ (intBounds ty).2 := by cases ty <;> decide

/-- A result of an integer type: the exact integer clamped or not, then wrapped (R166, R170). -/
theorem intResult_eq_narrowed (ty : ETy) (clamp : Bool) (i : Int) : intResult ty clamp i = narrowed ty clamp i := by
  obtain ⟨hlo, hhi⟩ := intBounds_eq ty
  have hle := intBounds_le ty
  unfold intResult narrowed wrapInt
  dsimp only
  rw [← hlo, ← hhi]
  generalize (intBounds ty).1 = lo at hle ⊢
  generalize (intBounds ty).2 = hi at hle ⊢
  cases clamp with
  | false => rfl
  | true =>
    rw [if_pos rfl, if_pos rfl, Bool.true_and]
    split
    case isTrue h =>
      have hclamp : max lo (min hi i) = lo := by omega
      rw [hclamp, decide_eq_true (.inl h)]
    case isFalse h =>
      split
      case isTrue h' =>
        have hclamp : max lo (min hi i) = hi := by omega
        rw [hclamp, decide_eq_true (.inr h')]
      case isFalse h' =>
        have hclamp : max lo (min hi i) = i := by omega
        rw [hclamp, decide_eq_false (by omega)]

theorem narrowed_lt (ty : ETy) (clamp : Bool) (i : Int) : (narrowed ty clamp i).v < 2 ^ ty.bits := wrapInt_lt ty.bits _

/-- A lane's integer lies within two to the width of the lane. -/
theorem intLane_bounds {ty : ETy} {a : Nat} (h : a < 2 ^ ty.bits) :
    -((2 ^ ty.bits : Nat) : Int) ≤ intLane ty a ∧ intLane ty a < ((2 ^ ty.bits : Nat) : Int) := by
  unfold intLane signedNat
  split
  · split <;> omega
  · omega

/-- A shift by the width or more leaves what a shift by the width leaves. -/
theorem ediv_pow_min {x : Int} {w n : Nat} (hlo : -((2 ^ w : Nat) : Int) ≤ x) (hhi : x < ((2 ^ w : Nat) : Int)) :
    x / ((2 ^ min n w : Nat) : Int) = x / ((2 ^ n : Nat) : Int) := by
  rcases Nat.le_total n w with hn | hn
  · rw [Nat.min_eq_left hn]
  · rw [Nat.min_eq_right hn]
    have hpow : (2 ^ w : Nat) ≤ 2 ^ n := Nat.pow_le_pow_right (by decide) hn
    have hpos : 0 < (2 ^ w : Nat) := by positivity
    rcases lt_or_ge x 0 with hx | hx
    · have hneg {d : Int} (hd : 0 < d) (hxd : -d ≤ x) : x / d = -1 := by
        rw [Int.ediv_eq_iff_of_pos hd]
        omega
      rw [hneg (by omega) hlo, hneg (by omega) (by omega)]
    · rw [Int.ediv_eq_zero_of_lt hx hhi, Int.ediv_eq_zero_of_lt hx (by omega)]

theorem shiftLane_left (ty : ETy) (a n : Nat) : shiftLane false false ty a n = { v := a * 2 ^ n % 2 ^ ty.bits } := by
  unfold shiftLane
  rw [if_neg (by decide)]
  split
  case isTrue h =>
    obtain ⟨m, rfl⟩ := Nat.exists_eq_add_of_le h
    rw [pow_add, Nat.mul_left_comm, Nat.mul_mod_right]
  case isFalse => rfl

theorem shiftLane_right {ty : ETy} {a : Nat} (n : Nat) (h : a < 2 ^ ty.bits) : shiftLane true false ty a n = { v := a / 2 ^ n } := by
  unfold shiftLane
  rw [if_pos rfl, if_neg (by decide)]
  split
  case isTrue hn => rw [Nat.div_eq_of_lt (h.trans_le (Nat.pow_le_pow_right (by decide) hn))]
  case isFalse => rfl

theorem shiftLane_arith {ty : ETy} {a : Nat} (n : Nat) (h : a < 2 ^ ty.bits) :
    shiftLane true true ty a n = { v := ((intLane ty a / (2 ^ n : Nat)) % (2 ^ ty.bits : Nat)).toNat } := by
  obtain ⟨hlo, hhi⟩ := intLane_bounds h
  unfold shiftLane wrapInt
  rw [if_pos rfl, if_pos rfl, ediv_pow_min hlo hhi]

/-! ### Compares -/

theorem cmpHolds_int {ty : ETy} (c : VCond) (a b : Nat) (h : fmtOf ty = none) :
    cmpHolds ty c a b = intCompares c (intLane ty a) (intLane ty b) := by
  unfold cmpHolds intCompares
  rw [h]
  dsimp only
  cases c with
  | eq => rfl
  | ne => exact (decide_not ..).symm
  | lt => rfl
  | le => rw [← Bool.decide_or]; exact decide_eq_decide.2 (Int.le_iff_lt_or_eq).symm
  | gt =>
    rw [Bool.not_false, Bool.true_and, ← decide_not, ← decide_not, ← Bool.decide_and]
    exact decide_eq_decide.2 (by omega)
  | ge =>
    change (!false && !decide (intLane ty a < intLane ty b)) = decide (intLane ty b ≤ intLane ty a)
    rw [Bool.not_false, Bool.true_and, ← decide_not]
    exact decide_eq_decide.2 Int.not_lt

theorem FV.lt_nan {x y : FV} (h : x.isNaN = true ∨ y.isNaN = true) : x.lt y = false := by
  cases x with
  | nan => rfl
  | inf _ =>
    cases y with
    | nan => rfl
    | inf _ => exact h.elim nofun nofun
    | fin _ _ _ => exact h.elim nofun nofun
  | fin _ _ _ =>
    cases y with
    | nan => rfl
    | inf _ => exact h.elim nofun nofun
    | fin _ _ _ => exact h.elim nofun nofun

/-- Of the conditions of a compare with a NaN, NE alone holds (R175). -/
theorem cmpHolds_nan {ty : ETy} {f : FFmt} (c : VCond) (a b : Nat) (h : fmtOf ty = some f)
    (hnan : (f.dec a).isNaN = true ∨ (f.dec b).isNaN = true) : cmpHolds ty c a b = decide (c = .ne) := by
  have hor : ((f.dec a).isNaN || (f.dec b).isNaN) = true := Bool.or_eq_true_iff.2 hnan
  have hand : (!(f.dec a).isNaN && !(f.dec b).isNaN) = false := by rw [← Bool.not_or, hor]; rfl
  have hequal : (!(f.dec a).lt (f.dec b) && !(f.dec b).lt (f.dec a) && !(f.dec a).isNaN && !(f.dec b).isNaN) = false := by
    rw [Bool.and_assoc, hand, Bool.and_false]
  unfold cmpHolds
  rw [h]
  dsimp only
  rw [hequal, FV.lt_nan hnan, hor]
  cases c <;> rfl

/-! ### Integer sums -/

theorem reds_int {ty : ETy} (md : VMode) (a b : Elem) (h : fmtOf ty = none) :
    reds ty md a b = ofLaneList 32 [intResult .int32 md.sat
      (((List.range (lanesOf ty)).map fun i => intLane ty (lane ty.bits a i)).sum + intLane .int32 (lane 32 b 0))] := by
  unfold reds unpack
  rw [h, List.map_map]
  rfl

/-- A word of 32 bits in lane 0, and its flags. -/
theorem ofLaneList_single (r : Lane) : lane 32 (ofLaneList 32 [r]).1 0 = r.v % 2 ^ 32 ∧
    (∀ i, 0 < i → i < 128 → lane 32 (ofLaneList 32 [r]).1 i = 0) ∧ (ofLaneList 32 [r]).2.getLsbD 1 = r.sat := by
  obtain ⟨-, hsat, -⟩ := convFlags_bits ([r].any (·.nan)) ([r].any (·.sat))
  refine ⟨lane_ofLanes _ (by omega), fun i hpos hi => ?_, hsat.trans (Bool.or_false _)⟩
  unfold ofLaneList
  rw [lane_ofLanes _ (by omega)]
  obtain ⟨j, rfl⟩ := Nat.exists_eq_add_of_lt hpos
  rfl

end Sys2Proof.Machine

open Sys2Proof Sys2Proof.Machine in
/-- Settles O20: an element packs its lanes, and each lane's integer is the exact one, clamped and wrapped. -/
theorem vectorLanes : Obligations.VectorLanes := by
  unfold Obligations.VectorLanes
  refine ⟨?_, ?_, ?_, ?_, ?_, ?_⟩
  · intro ty f a b
    have hflags := convFlags_bits (((List.range (lanesOf ty)).map fun i => f (lane ty.bits a i) (lane ty.bits b i)).any (·.nan))
      (((List.range (lanesOf ty)).map fun i => f (lane ty.bits a i) (lane ty.bits b i)).any (·.sat))
    obtain ⟨hzero, hsat, hnan⟩ := hflags
    refine ⟨fun i hi => lane_zipLanes hi, ?_, ?_, ?_⟩
    · rw [zipLanes_eq]
      exact hzero
    · rw [zipLanes_eq]
      exact (Bool.eq_iff_iff.1 hsat).trans (any_range_map ..)
    · rw [zipLanes_eq]
      exact (Bool.eq_iff_iff.1 hnan).trans (any_range_map ..)
  · intro ty rm clamp a b h
    have harith (o : Arith) : arithLane o ty ⟨clamp, rm⟩ a b = narrowed ty clamp (o.int (intLane ty a) (intLane ty b)) := by
      unfold arithLane
      rw [h]
      exact intResult_eq_narrowed ty clamp _
    have hsign (neg : Bool) : signLane neg ty clamp a = narrowed ty clamp (if neg then -(intLane ty a) else (intLane ty a).natAbs) := by
      unfold signLane
      rw [h]
      exact intResult_eq_narrowed ty clamp _
    exact ⟨harith .add, harith .sub, harith .mul, hsign false, hsign true⟩
  · exact fun ty a n h => ⟨shiftLane_left ty a n, shiftLane_right n h, shiftLane_arith n h⟩
  · intro ty c a b h
    unfold cmpLane
    rw [cmpHolds_int c a b h]
  · intro ty f c a b h hnan
    unfold cmpLane
    rw [cmpHolds_nan c a b h hnan]
    exact congrArg (fun v => ({ v := v } : Lane)) (if_congr decide_eq_true_iff rfl rfl)
  · intro ty md a b x h hx
    subst hx
    rw [reds_int md a b h, intResult_eq_narrowed]
    generalize ((List.range (lanesOf ty)).map fun i => intLane ty (lane ty.bits a i)).sum + intLane .int32 (lane 32 b 0) = x
    obtain ⟨hlow, hrest, hflag⟩ := ofLaneList_single (narrowed .int32 md.sat x)
    rw [hlow, hflag]
    exact ⟨Nat.mod_eq_of_lt (narrowed_lt .int32 md.sat x), hrest, Iff.rfl⟩

/-! PROOFS. The save of a gang, and an error of memory that no word consumes (R301, R412, R413, R417). -/

namespace Sys2Proof.Machine

open Sys2Proof

/-! ### Whether an abort can follow depends on the order of the tasks (R288) -/

/-- Two tasks have the same partition, key and number, and have started or not. -/
structure Task.SameKey (u v : Task) : Prop where
  part    : u.part = v.part
  ts      : u.ts = v.ts
  seq     : u.seq = v.seq
  started : u.started = v.started

theorem Task.before_iff (a b : Task) : a.before b = true ↔ a.ts < b.ts ∨ a.ts = b.ts ∧ a.seq < b.seq := by
  simp [Task.before]

theorem Task.not_before_iff (a b : Task) : a.before b = false ↔ b.ts < a.ts ∨ b.ts = a.ts ∧ b.seq ≤ a.seq := by
  rw [← Bool.not_eq_true, Task.before_iff]
  omega

theorem earliest_isSome {l : List Task} {u : Task} (h : u ∈ l) : ∃ f, earliest l = some f := by
  cases l with
  | nil => exact absurd h List.not_mem_nil
  | cons t r =>
    unfold earliest
    split
    · exact ⟨_, rfl⟩
    · exact ⟨t, rfl⟩

/-- No task of the list is before the earliest. -/
theorem earliest_min {l : List Task} : ∀ {f : Task}, earliest l = some f → ∀ u, u ∈ l → u.before f = false := by
  induction l with
  | nil => exact fun _ u hu => absurd hu List.not_mem_nil
  | cons t r ih =>
    intro f hf u hu
    unfold earliest at hf
    split at hf
    next w hw =>
      obtain rfl := Option.some.inj hf
      have hwmin := ih hw
      unfold Task.least
      split
      case isTrue h =>
        rcases List.mem_cons.1 hu with rfl | hu
        · rw [Task.before_iff] at h
          rw [Task.not_before_iff]
          omega
        · exact hwmin u hu
      case isFalse h =>
        rw [Bool.not_eq_true, Task.not_before_iff] at h
        rw [Task.not_before_iff]
        rcases List.mem_cons.1 hu with rfl | hu
        · exact .inr ⟨rfl, Nat.le_refl _⟩
        · have hmin := (Task.not_before_iff ..).1 (hwmin u hu)
          omega
    next hnone =>
      obtain rfl := Option.some.inj hf
      rcases List.mem_cons.1 hu with rfl | hu
      · exact (Task.not_before_iff ..).2 (.inr ⟨rfl, Nat.le_refl _⟩)
      · obtain ⟨w, hw⟩ := earliest_isSome hu
        rw [hnone] at hw
        exact nomatch hw

theorem State.mem_domain {s : State} {p : Nat} {u : Task} : u ∈ s.domain p ↔ u ∈ s.allTasks ∧ u.part = p := by
  unfold State.domain
  rw [List.mem_filter]
  exact and_congr_right' beq_iff_eq

theorem State.isFront_iff (s : State) (u : Task) : s.isFront u = true ↔ ∃ f, s.front u.part = some f ∧ f.seq = u.seq := by
  unfold State.isFront
  split
  · next f hf =>
    rw [beq_iff_eq, hf]
    constructor
    · exact fun h => ⟨f, rfl, h⟩
    · rintro ⟨g, hg, h⟩
      rw [Option.some.inj hg]
      exact h
  · next hnone =>
    rw [hnone]
    constructor
    · exact fun h => nomatch h
    · exact fun ⟨_, hg, _⟩ => nomatch hg

/-- Lists of tasks with the same keys have the same frontiers. -/
theorem NoReaders.of_sameKeys {s t : State} (h : NoReaders s) (hsub : ∀ u, u ∈ t.allTasks → ∃ v, v ∈ s.allTasks ∧ u.SameKey v)
    (hsup : ∀ v, v ∈ s.allTasks → ∃ u, u ∈ t.allTasks ∧ u.SameKey v) : NoReaders t := by
  intro u hu hstarted
  obtain ⟨v, hv, huv⟩ := hsub u hu
  obtain ⟨f, hf, hfv⟩ := (State.isFront_iff s v).1 (h v hv (huv.started.symm.trans hstarted))
  obtain ⟨g, hg⟩ : ∃ g, t.front u.part = some g := earliest_isSome (State.mem_domain.2 ⟨hu, rfl⟩)
  obtain ⟨hgt, hgpart⟩ := State.mem_domain.1 (earliest_mem hg)
  obtain ⟨hfs, hfpart⟩ := State.mem_domain.1 (earliest_mem hf)
  obtain ⟨g', hg's, hgg'⟩ := hsub g hgt
  obtain ⟨f', hf't, hff'⟩ := hsup f hfs
  have hle := (Task.not_before_iff ..).1 (earliest_min hg f' (State.mem_domain.2 ⟨hf't, by rw [hff'.part, hfpart, huv.part]⟩))
  have hge := (Task.not_before_iff ..).1 (earliest_min hf g' (State.mem_domain.2 ⟨hg's, by rw [← hgg'.part, hgpart, huv.part]⟩))
  rw [hff'.ts, hff'.seq] at hle
  rw [← hgg'.ts, ← hgg'.seq] at hge
  refine (State.isFront_iff t u).2 ⟨g, hg, ?_⟩
  rw [huv.seq, ← hfv]
  omega

theorem Sparse.mem_put_of_mem {α : Type} {m : Sparse α} {j : Nat} {x : α} {e : Nat × α} (h : e ∈ m) :
    e ∈ Sparse.put m j x ∨ Sparse.find m j = some e.2 := by
  induction m with
  | nil => exact absurd h List.not_mem_nil
  | cons a r ih =>
    obtain ⟨k, v⟩ := a
    unfold Sparse.put Sparse.find
    split
    case isTrue => exact .inl (List.mem_cons_of_mem _ h)
    case isFalse hjk =>
      split
      case isTrue hkj =>
        rcases List.mem_cons.1 h with rfl | h
        · exact .inr rfl
        · exact .inl (List.mem_cons_of_mem _ h)
      case isFalse hkj =>
        rcases List.mem_cons.1 h with rfl | h
        · exact .inl List.mem_cons_self
        · exact (ih h).imp (List.mem_cons_of_mem _) id

theorem Sparse.mem_put_self {α : Type} (m : Sparse α) (j : Nat) (x : α) : (j, x) ∈ Sparse.put m j x :=
  Sparse.mem_of_find (Sparse.find_put_same ..)

/-- A task that changes under its own key. -/
theorem NoReaders.setTask {s : State} (h : NoReaders s) {tk u : Task} (htk : s.task? u.seq = some tk) (hkey : u.SameKey tk) : NoReaders (s.setTask u) := by
  have hmem : tk ∈ s.allTasks := List.mem_map.2 ⟨(u.seq, tk), Sparse.mem_of_find htk, rfl⟩
  refine h.of_sameKeys (fun v hv => ?_) fun v hv => ?_
  · obtain ⟨e, he, rfl⟩ := List.mem_map.1 hv
    rcases Sparse.mem_put he with rfl | he
    · exact ⟨tk, hmem, hkey⟩
    · exact ⟨e.2, List.mem_map.2 ⟨e, he, rfl⟩, rfl, rfl, rfl, rfl⟩
  · obtain ⟨e, he, rfl⟩ := List.mem_map.1 hv
    rcases Sparse.mem_put_of_mem (j := u.seq) (x := u) he with he | hfind
    · exact ⟨e.2, List.mem_map.2 ⟨e, he, rfl⟩, rfl, rfl, rfl, rfl⟩
    · have hsame : tk = e.2 := Option.some.inj (htk.symm.trans hfind)
      exact ⟨u, List.mem_map.2 ⟨(u.seq, u), Sparse.mem_put_self .., rfl⟩, hsame ▸ hkey⟩

/-! ### A core is saved (R412, R413) -/

/-- The area in memory, and the record of the save. -/
def State.saveWrites (s : State) (base k : Nat) : State :=
  let t := s.partWrite (s.partOf k) 0 base (saveBytes (s.core k) fun o => s.freeVal (1000 + o))
  t.log (t.coreRecord k .preempt (w64 base))

/-- What the task keeps of a saved core. -/
def Task.keepCore (t : Task) (c : CoreSt) (base now : Nat) : Task :=
  { t with saved := Sparse.put t.saved c.rank (c.asSaved now), areas := Sparse.put t.areas c.rank base }

/-- The bindings and the requests of a core that leaves with the gang. -/
def State.withdrawn (s : State) (q k rank : Nat) : State := (s.moveCore q k (savedCore rank)).dropLeave k

/-- The task keeps the core, which is free. -/
def State.keepsCore (s : State) (q base k : Nat) (c : CoreSt) : State :=
  (s.updTask q fun t => t.keepCore c base s.now).updCore k CoreSt.cleared

theorem State.saveCore_eq (s : State) (q base k : Nat) : s.saveCore q base k =
    ((s.saveWrites base k).withdrawn q k (s.core k).rank).keepsCore q base k (s.core k) := by
  unfold State.saveCore State.saveWrites State.withdrawn State.keepsCore Task.keepCore
  with_reducible rfl

/-- A record of a fault changes no core and no task. -/
theorem State.log_spec {s : State} (h : NoReaders s) (r : FaultRecord) : (s.log r).cores = s.cores ∧ (s.log r).tasks = s.tasks := by
  obtain ⟨bad, tampered, hpoke⟩ := s.poke_hbm (field ((s.part r.part).reg 11) 16 30 * 2 ^ 16 +
    64 * ((s.part r.part).flogp.toNat % (2 ^ field ((s.part r.part).reg 11) 0 4 * 1024))) r.bytes
  unfold State.log State.logAt
  dsimp only
  split
  · exact ⟨rfl, rfl⟩
  · rw [State.partWrite_eq h, hpoke]
    exact ⟨rfl, rfl⟩

/-- What a write of a partition and a record leave. -/
theorem State.written_spec {s : State} (h : NoReaders s) (p base : Nat) (bs : List Byte) (r : State → FaultRecord) :
    ((s.partWrite p 0 base bs).log (r (s.partWrite p 0 base bs))).cores = s.cores ∧
      ((s.partWrite p 0 base bs).log (r (s.partWrite p 0 base bs))).tasks = s.tasks := by
  obtain ⟨bad, tampered, hp⟩ := s.poke_hbm base bs
  have hcores : (s.poke 0 base bs).cores = s.cores := by rw [hp]
  have htasks : (s.poke 0 base bs).tasks = s.tasks := by rw [hp]
  rw [State.partWrite_eq h]
  generalize s.poke 0 base bs = u at hcores htasks ⊢
  obtain ⟨hc, ht⟩ := State.log_spec (h.of_tasks htasks) (r u)
  exact ⟨hc.trans hcores, ht.trans htasks⟩

theorem State.saveWrites_spec {s : State} (h : NoReaders s) (base k : Nat) :
    (s.saveWrites base k).cores = s.cores ∧ (s.saveWrites base k).tasks = s.tasks :=
  s.written_spec h (s.partOf k) base _ fun t => t.coreRecord k .preempt (w64 base)

/-- The task keeps a core, which is free; the task's key stays. -/
theorem State.keepsCore_spec {v : State} {q k base : Nat} {tk : Task} (c : CoreSt) (h : NoReaders v) (htk : v.task? q = some tk) (hseq : tk.seq = q) :
    NoReaders (v.keepsCore q base k c) ∧ (∃ u, (v.keepsCore q base k c).task? q = some u ∧ u.seq = q) ∧
      ((v.keepsCore q base k c).core k).status = .free ∧ ∀ j, j ≠ k → (v.keepsCore q base k c).core j = v.core j := by
  have hupd : v.updTask q (fun t => t.keepCore c base v.now) = v.setTask (tk.keepCore c base v.now) := by
    unfold State.updTask
    rw [htk]
  have hkeep : v.task? (tk.keepCore c base v.now).seq = some tk := by
    rw [← htk, ← hseq]
    rfl
  unfold State.keepsCore
  rw [hupd]
  refine ⟨(h.setTask hkeep ⟨rfl, rfl, rfl, rfl⟩).of_tasks rfl, ⟨tk.keepCore c base v.now, ?_, hseq⟩, ?_, fun j hj => ?_⟩
  · have hset := v.task?_setTask_same (tk.keepCore c base v.now)
    rw [← hseq]
    exact hset
  · rw [State.core_updCore_same]
    rfl
  · rw [State.core_updCore_other _ _ _ _ hj]
    rfl

theorem State.withdrawn_spec (s : State) (q k rank : Nat) :
    (s.withdrawn q k rank).tasks = s.tasks ∧ (s.withdrawn q k rank).cores = s.cores ∧ (s.withdrawn q k rank).hbm = s.hbm := ⟨rfl, rfl, rfl⟩

/-- A core of the gang is saved: it is free, the others are as they were, and the task's key stays. -/
theorem State.saveCore_spec {s : State} {q k base : Nat} {tk : Task} (h : NoReaders s) (htk : s.task? q = some tk) (hseq : tk.seq = q) :
    NoReaders (s.saveCore q base k) ∧ (∃ u, (s.saveCore q base k).task? q = some u ∧ u.seq = q) ∧
      ((s.saveCore q base k).core k).status = .free ∧ ∀ j, j ≠ k → (s.saveCore q base k).core j = s.core j := by
  obtain ⟨hcores, htasks⟩ := State.saveWrites_spec h base k
  rw [State.saveCore_eq]
  generalize s.saveWrites base k = u at hcores htasks ⊢
  generalize (s.core k).rank = rank
  obtain ⟨hvtasks, hvcores, -⟩ := u.withdrawn_spec q k rank
  generalize u.withdrawn q k rank = v at hvtasks hvcores ⊢
  have hvtask : v.task? q = some tk := by
    unfold State.task?
    rw [hvtasks, htasks]
    exact htk
  obtain ⟨hno, htask, hfree, hother⟩ := State.keepsCore_spec (base := base) (k := k) (s.core k) (h.of_tasks (hvtasks.trans htasks)) hvtask hseq
  refine ⟨hno, htask, hfree, fun j hj => (hother j hj).trans ?_⟩
  unfold State.core
  rw [hvcores, hcores]

/-- The cores of a gang are saved one after another. -/
theorem State.saveCores_spec {q : Nat} {base : State → Nat → Nat} (ks : List Nat) : ∀ {s : State} {tk : Task}, NoReaders s → s.task? q = some tk →
    tk.seq = q → let t := ks.foldl (fun s k => s.saveCore q (base s k) k) s
      (∃ u, t.task? q = some u ∧ u.seq = q) ∧ (∀ k, k ∈ ks → (t.core k).status = .free) ∧ ∀ k, k ∉ ks → t.core k = s.core k := by
  induction ks with
  | nil => exact fun _ htk hseq => ⟨⟨_, htk, hseq⟩, fun k hk => absurd hk List.not_mem_nil, fun _ _ => rfl⟩
  | cons k r ih =>
    intro s tk h htk hseq
    obtain ⟨hno, ⟨u, hu, huseq⟩, hfree, hother⟩ := State.saveCore_spec (k := k) (base := base s k) h htk hseq
    obtain ⟨htask, hin, hout⟩ := ih hno hu huseq
    refine ⟨htask, fun j hj => ?_, fun j hj => ?_⟩
    · by_cases hjr : j ∈ r
      · exact hin j hjr
      · have hjk : j = k := (List.mem_cons.1 hj).resolve_right hjr
        subst hjk
        exact (congrArg CoreSt.status (hout j hjr)).trans hfree
    · rw [List.mem_cons, not_or] at hj
      exact (hout j hj.2).trans (hother j hj.1)

/-- The pre-empted task waits, and its cores stay as they are. -/
theorem State.preempted_spec {s : State} {q : Nat} {u : Task} (hu : s.task? q = some u) (hseq : u.seq = q) :
    (∃ w, (s.preempted q).task? q = some w ∧ w.st = .waiting) ∧ (s.preempted q).cores = s.cores := by
  unfold State.preempted
  rw [hu]
  subst hseq
  exact ⟨⟨{ u with st := .waiting, spec := false, target := [], got := [], reqs := [], since := s.now }, State.task?_setTask_same .., rfl⟩, rfl⟩

/-- The cores of a gang that is ready are saved. -/
theorem exec_preemptSave {s : State} {q area : Nat} {tk : Task} (htk : s.task? q = some tk) (hst : tk.st = .running) (hspec : tk.spec = false)
    (hpre : (s.coresOf q).any (fun k => (s.core k).preReq) = true) (hready : ∀ k, k ∈ s.coresOf q → s.saveReady k = true)
    (hferry : s.ferryServed tk.part = true) (hhbm : s.hbmServed = true)
    (hareas : ∀ k, k ∈ s.coresOf q → areaOk (tk.areaOf area (s.core k).rank) = true) :
    exec (.preemptSave q area) s =
      .next (((s.coresOf q).foldl (fun s k => s.saveCore q (tk.areaOf area (s.core k).rank) k) s).preempted q) := by
  change execPreemptSave q area s = _
  unfold execPreemptSave
  rw [htk]
  dsimp only
  have hall : ((s.coresOf q).all s.saveReady && (s.ferryServed tk.part && s.hbmServed &&
      (s.coresOf q).all fun k => areaOk (tk.areaOf area (s.core k).rank))) = true := by
    rw [List.all_eq_true.2 hready, List.all_eq_true.2 hareas, hferry, hhbm]
    rfl
  rw [hst, hpre, hspec, hall]
  rfl

/-! ### Bytes of a save (R413) -/

theorem length_map_range {α : Type} (f : Nat → α) (n : Nat) : ((List.range n).map f).length = n := by
  rw [List.length_map, List.length_range]

theorem getD_map_range {α : Type} (f : Nat → α) {n o : Nat} (d : α) (h : o < n) : ((List.range n).map f).getD o d = f o := by
  rw [List.getD_eq_getElem?_getD, List.getElem?_map, List.getElem?_range h]
  rfl

theorem length_saveBytes (c : CoreSt) (free : Nat → Nat) : (saveBytes c free).length = saveSize := length_map_range _ saveSize

theorem getD_saveBytes {c : CoreSt} {free : Nat → Nat} {o : Nat} {b : Byte} (ho : o < saveSize) (hb : saveByte c o = some b) :
    (saveBytes c free).getD o 0 = b := by
  refine (getD_map_range _ (n := saveSize) 0 ho).trans ?_
  rw [hb]
  rfl

/-- A record of a partition whose log has no place writes nothing. -/
theorem State.hbm_log_noPlace {s : State} {r : FaultRecord} (h : field ((s.part r.part).reg 11) 16 30 = 0) : (s.log r).hbm = s.hbm := by
  unfold State.log State.logAt
  dsimp only
  rw [h, Nat.zero_mul, if_pos rfl]
  rfl

theorem State.part_coreRecord (s : State) (k : Nat) (cause : Cause) (info : Word) : (s.coreRecord k cause info).part = s.partOf k := rfl

/-- The memory after a write of a partition and the record of a core, where the partition has no log. -/
theorem State.hbm_written {s : State} (h : NoReaders s) (base k : Nat) (bs : List Byte) (info : Word)
    (hlog : field ((s.part (s.partOf k)).reg 11) 16 30 = 0) :
    ((s.partWrite (s.partOf k) 0 base bs).log ((s.partWrite (s.partOf k) 0 base bs).coreRecord k .preempt info)).hbm = s.hbm.setBytes base bs := by
  obtain ⟨bad, tampered, hp⟩ := s.poke_hbm base bs
  have hparts (p : Nat) : (s.poke 0 base bs).part p = s.part p := by rw [hp]; rfl
  have hpart : (s.poke 0 base bs).partOf k = s.partOf k := by rw [hp]; rfl
  have hhbm : (s.poke 0 base bs).hbm = s.hbm.setBytes base bs := by rw [hp]
  rw [State.partWrite_eq h]
  generalize s.poke 0 base bs = u at hparts hpart hhbm ⊢
  rw [State.hbm_log_noPlace, hhbm]
  rw [State.part_coreRecord, hpart, hparts]
  exact hlog

theorem State.hbm_keepsCore (v : State) (q base k : Nat) (c : CoreSt) : (v.keepsCore q base k c).hbm = v.hbm := by
  unfold State.keepsCore State.updTask
  split <;> rfl

/-- The memory after the save of a core of a partition without a log. -/
theorem State.hbm_saveCore {s : State} (h : NoReaders s) (q base k : Nat) (hlog : field ((s.part (s.partOf k)).reg 11) 16 30 = 0) :
    ∃ free, (s.saveCore q base k).hbm = s.hbm.setBytes base (saveBytes (s.core k) free) := by
  refine ⟨fun o => s.freeVal (1000 + o), ?_⟩
  rw [State.saveCore_eq, State.hbm_keepsCore, (State.withdrawn_spec ..).2.2]
  exact State.hbm_written h base k _ _ hlog

end Sys2Proof.Machine

/-! ### The count of a log's records (R404) -/

namespace Sys2Proof.Machine

open Sys2Proof

/-- The counts of the logs are the same. -/
def State.SameCounts (s t : State) : Prop := ∀ p, (t.part p).flogp = (s.part p).flogp

theorem State.SameCounts.trans {s t u : State} (h : s.SameCounts t) (h' : t.SameCounts u) : s.SameCounts u := fun p => (h' p).trans (h p)

theorem State.SameCounts.of_parts {s t : State} (h : t.parts = s.parts) : s.SameCounts t := fun p => by
  unfold State.part
  rw [h]

theorem State.sameCounts_foldl {α : Type} (f : State → α → State) (hf : ∀ (s : State) a, s.SameCounts (f s a)) (l : List α) :
    ∀ s : State, s.SameCounts (l.foldl f s) := by
  induction l with
  | nil => exact fun _ _ => rfl
  | cons a l ih => exact fun s => State.SameCounts.trans (hf s a) (ih _)

theorem State.sameCounts_updPart (s : State) (p : Nat) {f : Part → Part} (hf : (f (s.part p)).flogp = (s.part p).flogp) :
    s.SameCounts (s.updPart p f) := fun q => by
  by_cases hq : q = p
  · rw [hq, State.part_updPart_same, hf]
  · rw [State.part_updPart_other _ _ _ _ hq]

theorem State.sameCounts_segWord (s : State) (pa v : Nat) : s.SameCounts (s.segWord pa v) := .of_parts (s.parts_segWord pa v)

theorem State.sameCounts_writeChain (l : List Seg) : ∀ s : State, s.SameCounts (s.writeChain l) := by
  induction l with
  | nil => exact fun _ _ => rfl
  | cons g r ih => exact fun s => ((s.sameCounts_segWord _ _).trans (State.sameCounts_segWord _ _ _)).trans (ih _)

theorem State.sameCounts_reclaim (s : State) (p : Nat) (g : Seg) : s.SameCounts (s.reclaim p g) := by
  unfold State.reclaim
  split
  · exact fun _ => rfl
  · exact (((s.sameCounts_updPart p rfl).trans (State.sameCounts_segWord _ _ _)).trans (State.sameCounts_segWord _ _ _)).trans
      (State.sameCounts_writeChain _ _)

theorem State.sameCounts_dropEntry (s : State) (p q : Nat) : s.SameCounts (s.dropEntry p q) := by
  unfold State.dropEntry
  split
  · exact fun _ => rfl
  · exact ((s.sameCounts_updPart p rfl).trans (State.sameCounts_segWord _ _ _)).trans (State.sameCounts_reclaim _ _ _)

theorem State.sameCounts_discardKept (s : State) (t : Task) : s.SameCounts (s.discardKept t) := by
  unfold State.discardKept
  dsimp only
  rw [State.relinquishAll_eq, State.freeNames_eq]
  split
  · refine State.SameCounts.trans (.of_parts rfl) (State.sameCounts_updPart _ t.part rfl)
  · exact .of_parts rfl

theorem State.sameCounts_requeue (s : State) (t : Task) (remove : Bool) : s.SameCounts (s.requeue t remove) := by
  unfold State.requeue
  split
  · exact (s.sameCounts_dropEntry _ _).trans (.of_parts rfl)
  · exact .of_parts rfl

theorem State.sameCounts_abortOne (s : State) (l : List Nat) (q : Nat) : s.SameCounts (s.abortOne l q) := by
  unfold State.abortOne
  split
  · exact fun _ => rfl
  · refine State.SameCounts.trans ?_ (State.sameCounts_requeue _ _ _)
    rw [State.discard_eq, State.forCores_eq]
    exact (s.sameCounts_discardKept _).trans (.of_parts rfl)

theorem State.sameCounts_waiting (s : State) (f : Part → List Creation) (hf : f Part.reset = []) :
    s.SameCounts { s with parts := s.parts.map fun (e : Nat × Part) => (e.1, { e.2 with waiting := f e.2 }) } := fun p =>
  (congrArg Part.flogp (Sparse.get_map Part.reset (fun v => { v with waiting := f v }) (by rw [hf]; rfl) s.parts p)).trans rfl

theorem State.sameCounts_abort (s : State) (q : Nat) : s.SameCounts (s.abort q) := by
  unfold State.abort
  dsimp only
  refine State.SameCounts.trans (State.sameCounts_foldl (fun u i => u.abortOne (cascade s.allTasks s.tasks.length [q]) i)
    (fun u i => u.sameCounts_abortOne _ i) (cascade s.allTasks s.tasks.length [q]) s) ?_
  exact State.sameCounts_waiting _ (fun v => v.waiting.filter fun w => !(cascade s.allTasks s.tasks.length [q]).contains w.task.parent) rfl

theorem State.sameCounts_partWrite (s : State) (p a : Nat) (bs : List Byte) : s.SameCounts (s.partWrite p 0 a bs) := by
  obtain ⟨bad, tampered, hp⟩ := s.poke_hbm a bs
  exact State.SameCounts.trans (.of_parts (by rw [hp])) (State.sameCounts_foldl _ (fun u q => u.sameCounts_abort q) _ _)

/-- A write of a partition, off the scheduler's queues. -/
theorem State.byte_partWrite {s : State} {a : Nat} (hoff : OffQueues s a 1) (p b : Nat) (bs : List Byte) :
    (s.partWrite p 0 b bs).hbm.byte a = (s.hbm.setBytes b bs : Memory).byte a := by
  obtain ⟨bad, tampered, hp⟩ := s.poke_hbm b bs
  have hpoke : OffQueues (s.poke 0 b bs) a 1 := by rw [hp]; exact hoff
  obtain ⟨-, hbyte⟩ := State.keepsByte_abortAll a (s.poke 0 b bs) _ hpoke
  refine hbyte.trans ?_
  rw [hp]

section

variable {s : State} {r : FaultRecord} {base n : Nat}

/-- One more record of a partition's log. -/
theorem State.flogp_counted (u : State) (p : Nat) (n : BitVec 32) (l : List (Nat × Nat)) :
    (({ u.updPart p (fun v => { v with flogp := v.flogp + n }) with lpInts := l } : State).part p).flogp = (u.part p).flogp + n :=
  congrArg Part.flogp (State.part_updPart_same u p fun v => { v with flogp := v.flogp + n })

/-- The place of a record in its partition's log. -/
theorem State.log_eq (hbase : base = field ((s.part r.part).reg 11) 16 30 * 2 ^ 16)
    (hn : n = (s.part r.part).flogp.toNat % (2 ^ field ((s.part r.part).reg 11) 0 4 * 1024)) :
    ∃ u : State, (s.log r).hbm = u.hbm ∧ ((s.log r).part r.part).flogp = (u.part r.part).flogp + (if base = 0 then 0 else 1) ∧
      u = if base = 0 then s else s.partWrite r.part 0 (base + 64 * n) r.bytes := by
  subst hbase hn
  refine ⟨_, ?_, ?_, rfl⟩
  · rfl
  · unfold State.log State.logAt
    dsimp only
    exact State.flogp_counted ..

end

theorem State.hbm_preempted (s : State) (q : Nat) : (s.preempted q).hbm = s.hbm := by
  unfold State.preempted
  split <;> rfl

/-- The record of an error that no word consumes (R417). -/
def State.scrubRecord (s : State) (part kind addr : Nat) : FaultRecord :=
  { looseRecord (part % 16) (s.freeVal 1 % 4) .eccu (w64 addr) (w64 kind) (w64 (s.freeVal 2)) (w64 (s.freeVal 3)) with
    cyc := w64 (s.freeVal 4) }

theorem exec_scrubError {s : State} {part kind addr : Nat} (hsafe : s.boot.safe = false) :
    exec (.scrubError part kind addr) s = .next (s.log (s.scrubRecord part kind addr)) := by
  change execScrubError part kind addr s = _
  unfold execScrubError
  rw [hsafe]
  rfl

end Sys2Proof.Machine

open Sys2Proof Sys2Proof.Machine in
/-- Settles O47: the saves of a gang's cores follow one another, each in its area; a scrub error is one record of the log. -/
theorem saveAndScrub : Obligations.SaveAndScrub := by
  unfold Obligations.SaveAndScrub
  refine ⟨?_, ?_, ?_, ?_⟩
  · intro q area s tk htk hnum hno hst hspec hpre hready hferry hhbm hareas
    obtain ⟨⟨u, hu, hseq⟩, hfree, hother⟩ := State.saveCores_spec (base := fun s k => tk.areaOf area (s.core k).rank) (s.coresOf q) hno htk (hnum.seq htk)
    obtain ⟨⟨w, hw, hwait⟩, hcores⟩ := State.preempted_spec hu hseq
    refine ⟨_, w, exec_preemptSave htk hst hspec hpre hready hferry hhbm hareas, hw, hwait, fun k hk => ?_, fun k hk => ?_⟩
    · exact (congrArg CoreSt.status (congrArg (Sparse.get _ · k) hcores)).trans (hfree k hk)
    · exact (congrArg (Sparse.get _ · k) hcores).trans (hother k hk)
  · intro q area k s tk htk hno hst hspec hone hpre hready hferry hhbm harea hlog
    have hall {p : Nat → Prop} (h : p k) : ∀ j, j ∈ s.coresOf q → p j := fun j hj => by
      rw [hone, List.mem_singleton] at hj
      rwa [hj]
    have hany : (s.coresOf q).any (fun k => (s.core k).preReq) = true := by
      rw [hone, List.any_cons, hpre]
      rfl
    obtain ⟨free, hsave⟩ := State.hbm_saveCore hno q (tk.areaOf area (s.core k).rank) k hlog
    refine ⟨_, exec_preemptSave htk hst hspec hany (hall hready) hferry hhbm (hall (p := fun k => areaOk (tk.areaOf area (s.core k).rank) = true) harea), ?_⟩
    rw [hone, State.hbm_preempted, List.foldl_cons, List.foldl_nil, hsave]
    refine ⟨fun o b ho hb => ?_, fun a ha => ?_⟩
    · rw [Memory.byte_setBytes, length_saveBytes, if_pos (by omega), Nat.add_sub_cancel_left]
      exact getD_saveBytes ho hb
    · exact Memory.byte_setBytes_outside _ _ _ _ (by rw [length_saveBytes]; exact ha)
  · intro q area s tk htk hst hspec hpre
    change execPreemptSave q area s = _
    unfold execPreemptSave
    rw [htk]
    dsimp only
    rw [hst, hpre, hspec]
    rfl
  · intro part kind addr s base n hsafe hbase hn
    obtain ⟨u, hhbm, hcount, hu⟩ := State.log_eq (r := s.scrubRecord part kind addr) hbase hn
    have hflogp : (u.part (part % 16)).flogp = (s.part (part % 16)).flogp := by
      rw [hu]
      split
      · rfl
      · exact s.sameCounts_partWrite _ _ _ _
    refine ⟨_, s.scrubRecord part kind addr, exec_scrubError hsafe, rfl, rfl, rfl, rfl, fun hno => ?_, fun a hoff => ?_, hcount.trans (by rw [← hflogp]; rfl)⟩
    · obtain ⟨bad, tampered, hp⟩ := s.poke_hbm (base + 64 * n) (s.scrubRecord part kind addr).bytes
      rw [hhbm, hu]
      split
      · rfl
      · rw [State.partWrite_eq hno, hp]
    · rw [hhbm, hu]
      split
      · rfl
      · exact State.byte_partWrite hoff _ _ _

/-! PROOFS. The distributor and a task that has been ended with FAULT (R52, R407).

A task that is ended with FAULT while it is PLACED keeps its state and is marked failed; its distributor has no more to do. The statement
below says of every PLACED task that its lists are made, and does not leave such a task out. -/

namespace Sys2Proof.Machine

open Sys2Proof

/-- A header with windows of 4 KiB at 0, 4096 and 8192, one ragged level of extent 1, and its list at 12288. -/
def raggedHdr : Hdr := BitVec.ofNat 2048 (2 ^ 144 + 2 * 2 ^ 160 + 12 * 2 ^ 308 + (1 + 2 ^ 18) * 2 ^ 320)

/-- A PLACED task whose image and group table stand in the partition's Weight Store window, and which has been ended with FAULT. -/
def endedTask : Task :=
  { newTask 0 0 0 0 false 0x10000000000 0x10000010000 0 .spawn raggedHdr with seq := 1, st := .placed, failed := true }

/-- Partition 0 has a Weight Store window. -/
def endedEarly : State :=
  { State.reset with
    nextSeq := 2
    tasks := [(1, endedTask)]
    parts := [(0, { Part.reset with regs := Sparse.put (Sparse.put Part.reset.regs 9 0x10000000000) 24 1 })] }

/-- A piece of a read is there, whole. -/
def pieceThere (s : State) (k p : Nat) (a : Acc) (e : Nat × Nat) : Bool :=
  match s.readOne k p a e.1 e.2 with
  | .ok bs _ => bs.length == e.2
  | _ => false

theorem readOne_of_pieceThere {s : State} {k p : Nat} {a : Acc} {e : Nat × Nat} (h : pieceThere s k p a e = true) :
    ∃ bs n, s.readOne k p a e.1 e.2 = .ok bs n ∧ bs.length = e.2 := by
  unfold pieceThere at h
  split at h
  next bs n hbs => exact ⟨bs, n, hbs, eq_of_beq h⟩
  next => exact nomatch h

/-- Pieces that are there read as one. -/
theorem foldl_append_of_pieces {s : State} {k p : Nat} {a : Acc} (l : List (Nat × Nat)) (h : l.all (pieceThere s k p a) = true) :
    ∀ bs n, ∃ bs' n', l.foldl (fun (r : Rd) e => r.append (s.readOne k p a e.1 e.2)) (.ok bs n) = .ok bs' n' ∧
      bs'.length = bs.length + (l.map (·.2)).sum := by
  induction l with
  | nil => exact fun bs n => ⟨bs, n, rfl, rfl⟩
  | cons e r ih =>
    intro bs n
    rw [List.all_cons, Bool.and_eq_true] at h
    obtain ⟨x, m, hx, hlen⟩ := readOne_of_pieceThere h.1
    obtain ⟨bs', n', hfold, hsum⟩ := ih h.2 (bs ++ x) (n ++ m)
    refine ⟨bs', n', ?_, ?_⟩
    · rw [List.foldl_cons, hx]
      exact hfold
    · rw [hsum, List.length_append, hlen, List.map_cons, List.sum_cons, Nat.add_assoc]

theorem readIn_of_pieces {s : State} {k p : Nat} {a : Acc} {va n : Nat} (h : (pieces va n).all (pieceThere s k p a) = true) :
    ∃ bs m, s.readIn k p a va n = .ok bs m ∧ bs.length = ((pieces va n).map (·.2)).sum := by
  obtain ⟨bs, m, hread, hlen⟩ := foldl_append_of_pieces _ h [] []
  exact ⟨bs, m, hread, hlen.trans (Nat.zero_add _)⟩

/-- The core that the distributor reads for. -/
theorem reader_endedEarly : (endedEarly.coresOf endedTask.seq).headD sequencer = sequencer := by decide +kernel

/-- The group table: one group without rows. -/
theorem groups_endedEarly : ∃ n, endedEarly.readIn ((endedEarly.coresOf endedTask.seq).headD sequencer) endedTask.part (endedTask.acc false)
    (endedTask.args.toNat + hdrGoff endedTask.hdr) (4 * hdrGroups endedTask.hdr) = .ok [0, 0, 0, 0] n := ⟨[], by decide +kernel⟩

/-- The image: windows, and no record after them. -/
theorem image_endedEarly : ∃ body m, endedEarly.imageBody ((endedEarly.coresOf endedTask.seq).headD sequencer) endedTask = .ok body m ∧
    bodyRecords endedTask.hdr body = [] := by
  have hplace : endedTask.kimg.toNat + 256 = 0x10000000100 := by decide +kernel
  have hsize : spOffset endedTask.hdr - 256 + hdrSpsz endedTask.hdr = 12288 := by decide +kernel
  have hwindows : spOffset endedTask.hdr - 256 = 12288 := by decide +kernel
  obtain ⟨body, m, hread, hlen⟩ := readIn_of_pieces (s := endedEarly) (k := sequencer) (p := endedTask.part) (a := endedTask.acc false)
    (va := 0x10000000100) (n := 12288) (by decide +kernel)
  have hsum : ((pieces 0x10000000100 12288).map (·.2)).sum = 12288 := by decide +kernel
  have hall : body.drop 12288 = [] := List.drop_eq_nil_of_le (hlen.trans hsum).le
  refine ⟨body, m, ?_, ?_⟩
  · unfold State.imageBody
    rw [reader_endedEarly, hplace, hsize]
    exact hread
  · unfold bodyRecords
    rw [hwindows, hall]
    rfl

/-- Refutes O43: a PLACED task that has been ended with FAULT has no lists made (`endedEarly`). -/
theorem not_startEvents : ¬ Obligations.StartEvents := by
  unfold Obligations.StartEvents
  rintro ⟨hlists, -⟩
  obtain ⟨n, hgroups⟩ := groups_endedEarly
  obtain ⟨body, m, himage, hrecords⟩ := image_endedEarly
  have hnum : TasksByNumber endedEarly := by
    intro e he
    rw [List.mem_singleton.1 he]
    rfl
  have hlevel : hdrRagged endedTask.hdr = some (0, 1) := by decide +kernel
  have hcounts : ((words32 [0, 0, 0, 0]).any fun v => decide (65535 < ceilDiv v (hdrChunk endedTask.hdr))) = false := by decide +kernel
  have hgood : (((distribute 1 (hdrChunk endedTask.hdr) (words32 [0, 0, 0, 0])).map chunkBytes).any fun l =>
      listBad endedTask.hdr (bodyRecords endedTask.hdr body) l.length) = false := by
    rw [hrecords]
    decide +kernel
  obtain ⟨t, u, ht, hu, -, hragged, -⟩ := hlists 1 endedEarly endedTask 0 1 [0, 0, 0, 0] n body m hnum rfl rfl rfl hlevel hgroups himage hcounts hgood
  have hout : exec (.raggedDistribute 1) endedEarly = .next endedEarly := rfl
  rw [hout] at ht
  obtain rfl := Host.Outcome.next.inj ht
  obtain rfl := Option.some.inj hu
  exact nomatch hragged

end Sys2Proof.Machine

/-! PROOFS. Page moves, the end of a hold window, and the host's mailbox (R235, R395 to R398, R439). -/

namespace Sys2Proof.Machine

open Sys2Proof

/-! ### The four memories by their number -/

/-- The memory of the space `sp`: HBM, host memory, the second tier or the Weight Store. -/
def State.memory (s : State) (sp : Nat) : Memory := if sp = 0 then s.hbm else if sp = 1 then s.host else if sp = 2 then s.tier else s.ws

theorem State.peek_eq (s : State) (sp a n : Nat) : s.peek sp a n = (s.memory sp).bytes a n := by
  match sp with
  | 0 => rfl
  | 1 => rfl
  | 2 => rfl
  | _ + 3 => rfl

/-- A write of memory changes the memories, what is lost of them, and which queue segments it has hit. -/
theorem State.poke_frame (s : State) (sp a : Nat) (bs : List Byte) : s.poke sp a bs = { s with
    hbm := (s.poke sp a bs).hbm, host := (s.poke sp a bs).host, tier := (s.poke sp a bs).tier, ws := (s.poke sp a bs).ws
    bad := (s.poke sp a bs).bad, tampered := (s.poke sp a bs).tampered } := by
  have hput : s.putBytes sp a bs = { s with
      hbm := (s.putBytes sp a bs).hbm, host := (s.putBytes sp a bs).host, tier := (s.putBytes sp a bs).tier
      ws := (s.putBytes sp a bs).ws, bad := (s.putBytes sp a bs).bad } := by
    match sp with
    | 0 => rfl
    | 1 => rfl
    | 2 => rfl
    | _ + 3 => rfl
  unfold State.poke
  dsimp only
  generalize (if sp = 0 then s.segmentsHit a bs.length else []) = hit
  rw [hput]
  split <;> rfl

/-- A write goes to its own memory. -/
theorem State.memory_poke (s : State) {sp : Nat} (a : Nat) (bs : List Byte) (hsp : sp < 4) {j : Nat} (hj : j < 4) :
    (s.poke sp a bs).memory j = if j = sp then ((s.memory sp).setBytes a bs : Memory) else s.memory j := by
  have hput : (s.poke sp a bs).memory j = (s.putBytes sp a bs).memory j := by
    unfold State.poke
    dsimp only
    generalize (if sp = 0 then s.segmentsHit a bs.length else []) = hit
    split <;> rfl
  rw [hput]
  interval_cases sp <;> interval_cases j <;> rfl

/-! ### What a write and its aborts leave -/

/-- `t` has the memories of `s` but for headers of queue segments, and the same TLBs, moved berth pages and requests of the device. -/
structure State.PagesKept (s t : State) : Prop where
  byte   : ∀ a, s.KeepsByte a t
  others : ∀ sp, sp ≠ 0 → t.memory sp = s.memory sp
  moved  : t.moved = s.moved
  devMig : t.devMig = s.devMig
  tlb2   : t.tlb2 = s.tlb2
  tlb    : ∀ k, (t.core k).tlb = (s.core k).tlb

theorem State.PagesKept.refl (s : State) : s.PagesKept s := ⟨fun a => .refl a s, fun _ _ => rfl, rfl, rfl, rfl, fun _ => rfl⟩

theorem State.PagesKept.trans {s t u : State} (h : s.PagesKept t) (h' : t.PagesKept u) : s.PagesKept u :=
  ⟨fun a => (h.byte a).trans (h'.byte a), fun sp hsp => (h'.others sp hsp).trans (h.others sp hsp), h'.moved.trans h.moved,
    h'.devMig.trans h.devMig, h'.tlb2.trans h.tlb2, fun k => (h'.tlb k).trans (h.tlb k)⟩

theorem State.tlb_discard (s : State) (t : Task) (k : Nat) : ((s.discard t).core k).tlb = (s.core k).tlb := by
  rw [State.core_discard]
  split <;> rfl

theorem State.tlb_abortOne (s : State) (l : List Nat) (q k : Nat) : ((s.abortOne l q).core k).tlb = (s.core k).tlb := by
  unfold State.abortOne
  split
  · rfl
  · unfold State.core
    rw [State.cores_requeue]
    exact State.tlb_discard ..

theorem State.tlb_foldl {α : Type} (l : List α) (f : State → α → State) (k : Nat)
    (hf : ∀ (s : State) x, ((f s x).core k).tlb = (s.core k).tlb) (s : State) : ((l.foldl f s).core k).tlb = (s.core k).tlb := by
  induction l generalizing s with
  | nil => rfl
  | cons x l ih => exact (ih (f s x)).trans (hf s x)

theorem State.tlb_abort (s : State) (q k : Nat) : ((s.abort q).core k).tlb = (s.core k).tlb :=
  State.tlb_foldl (cascade s.allTasks s.tasks.length [q]) (fun u i => u.abortOne (cascade s.allTasks s.tasks.length [q]) i) k
    (fun u i => u.tlb_abortOne _ i k) s

/-- Aborts write headers of queue segments, and keep the TLBs. -/
theorem State.pagesKept_abortAll (s : State) (qs : List Nat) : s.PagesKept (s.abortAll qs) where
  byte := fun a => s.keepsByte_abortAll a qs
  others := fun sp hsp => by simp [State.memory, hsp]
  moved := by rw [(s.aborted_abortAll qs).rest]
  devMig := s.devMig_abortAll qs
  tlb2 := s.tlb2_abortAll qs
  tlb := fun k => State.tlb_foldl qs _ k (fun u q => u.tlb_abort q k) s

theorem State.pagesKept_bad (s : State) (bad : Sparse Nat) : s.PagesKept { s with bad := bad } :=
  ⟨fun _ => .of_eq rfl rfl, fun _ _ => rfl, rfl, rfl, rfl, fun _ => rfl⟩

/-- The losses of a page go with it. -/
theorem State.pagesKept_carryLoss (s : State) (a l : Loc) : s.PagesKept (s.carryLoss a l) := by
  unfold State.carryLoss
  exact s.pagesKept_bad _

/-- A change of the commands of a core. -/
theorem State.pagesKept_updEng (s : State) (k id : Nat) (f : EngCmd → EngCmd) : s.PagesKept (s.updEng k id f) where
  byte := fun _ => .of_eq rfl rfl
  others := fun _ _ => rfl
  moved := rfl
  devMig := rfl
  tlb2 := rfl
  tlb := fun j => by
    unfold State.updEng
    by_cases hj : j = k
    · subst hj
      rw [State.core_updCore_same]
      rfl
    · rw [State.core_updCore_other _ _ _ _ hj]

/-- Bytes that are equal one by one. -/
theorem Memory.bytes_congr {m m' : Memory} {a n : Nat} (h : ∀ i, i < n → m'.byte (a + i) = m.byte (a + i)) :
    (m'.bytes a n : List Byte) = m.bytes a n := by
  induction n generalizing a with
  | zero => rfl
  | succ n ih =>
    unfold Memory.bytes
    rw [show m'.byte a = m.byte a from h 0 (by omega), ih (a := a + 1) fun i hi => by
      have := h (i + 1) (by omega)
      rwa [show a + (i + 1) = a + 1 + i by omega] at this]

/-- A range off the queues' segments is off them byte by byte. -/
theorem OffQueues.byte {s : State} {a n i : Nat} (h : OffQueues s a n) (hi : i < n) : OffQueues s (a + i) 1 := by
  intro e he g hg
  have := h e he g hg
  simp only [meets, Bool.and_eq_false_iff, decide_eq_false_iff_not] at this ⊢
  omega

theorem State.PagesKept.peek {s t : State} (h : s.PagesKept t) {sp a n : Nat} (hoff : sp = 0 → OffQueues s a n) :
    t.peek sp a n = s.peek sp a n := by
  by_cases hsp : sp = 0
  · subst hsp
    refine Memory.bytes_congr fun i hi => ?_
    obtain ⟨-, hbyte⟩ := h.byte (a + i) ((hoff rfl).byte hi)
    exact hbyte
  · rw [State.peek_eq, State.peek_eq, h.others sp hsp]

/-- A range is off the queues' segments where each of its bytes is. -/
theorem OffQueues.of_bytes {s : State} {a n : Nat} (h : ∀ i, i < n → OffQueues s (a + i) 1) : OffQueues s a n := by
  intro e he g hg
  by_contra hmeets
  simp only [meets, Bool.not_eq_false, Bool.and_eq_true, decide_eq_true_eq] at hmeets
  obtain ⟨⟨⟨-, hn⟩, hlow⟩, hhigh⟩ := hmeets
  have := h (g.pa - a) (by omega) e he g hg
  simp only [meets, Bool.and_eq_false_iff, decide_eq_false_iff_not] at this
  omega

theorem State.PagesKept.offQueues {s t : State} (h : s.PagesKept t) {a n : Nat} (hoff : OffQueues s a n) : OffQueues t a n :=
  .of_bytes fun i hi => (h.byte (a + i) (hoff.byte hi)).1

/-- A write of memory leaves the queues' segments where they are. -/
theorem OffQueues.poke {s : State} {a n : Nat} (h : OffQueues s a n) (sp b : Nat) (bs : List Byte) : OffQueues (s.poke sp b bs) a n := by
  rw [State.poke_frame]
  exact h

/-- The bytes written are read back. -/
theorem State.peek_poke_same (s : State) {sp a n : Nat} {bs : List Byte} (hsp : sp < 4) (hn : bs.length = n) :
    (s.poke sp a bs).peek sp a n = bs := by
  rw [State.peek_eq, s.memory_poke a bs hsp hsp, if_pos rfl, ← hn]
  exact Memory.bytes_setBytes_same ..

/-- Other bytes are not written. -/
theorem State.peek_poke_outside (s : State) {sp a : Nat} {bs : List Byte} {j b n : Nat} (hsp : sp < 4) (hj : j < 4)
    (hout : j ≠ sp ∨ b + n ≤ a ∨ a + bs.length ≤ b) : (s.poke sp a bs).peek j b n = s.peek j b n := by
  rw [State.peek_eq, State.peek_eq, s.memory_poke a bs hsp hj]
  by_cases hjs : j = sp
  · subst hjs
    rw [if_pos rfl]
    exact Memory.bytes_setBytes_outside _ _ _ _ _ (hout.resolve_left fun hne => hne rfl)
  · rw [if_neg hjs]

/-! ### A page of the device -/

/-- What a page move does before the bytes are copied: the translations of the page go, and the read sets and the bindings that name its
place name the new one. -/
def State.readied (s : State) (p va : Nat) (h : PageAt) (l : Loc) : State :=
  if h.loc.space = 0 then ((s.shoot p (.page va)).moveReads p va l).moveBinds h.loc.addr l
  else (s.shoot p (.page va)).moveReads p va l

/-- The bytes are copied with their losses, and later readers of the place abort. -/
def State.carried (s : State) (p va : Nat) (h : PageAt) (l : Loc) : State :=
  let u := ((s.readied p va h l).poke l.space l.addr (s.peek h.loc.space h.loc.addr 65536)).carryLoss h.loc l
  u.abortAll ((linesOf l.addr 65536).flatMap fun n => u.outsideConflicts (some p) l.space n)

theorem State.movePage_eq (s : State) (p va : Nat) (h : PageAt) (l : Loc) (hold : Bool) :
    s.movePage p va h l hold = (s.carried p va h l).setPlace p va h l hold := by
  unfold State.movePage State.carried State.readied
  with_reducible rfl

/-- Moving a page touches, before the copy, tables of addresses and TLBs alone. -/
theorem State.readied_frame (s : State) (p va : Nat) (h : PageAt) (l : Loc) : s.readied p va h l = { s.shoot p (.page va) with
    tasks := (s.readied p va h l).tasks, binds := (s.readied p va h l).binds } := by
  unfold State.readied
  split <;> rfl

theorem State.memory_readied (s : State) (p va : Nat) (h : PageAt) (l : Loc) (sp : Nat) : (s.readied p va h l).memory sp = s.memory sp := by
  rw [State.readied_frame]
  rfl

theorem OffQueues.readied {s : State} {a n : Nat} (hoff : OffQueues s a n) (p va : Nat) (h : PageAt) (l : Loc) :
    OffQueues (s.readied p va h l) a n := by
  rw [State.readied_frame]
  exact hoff

/-- From the copy on, the aborts alone change what others see. -/
theorem State.pagesKept_carried (s : State) (p va : Nat) (h : PageAt) (l : Loc) :
    ((s.readied p va h l).poke l.space l.addr (s.peek h.loc.space h.loc.addr 65536)).PagesKept (s.carried p va h l) := by
  unfold State.carried
  exact (State.pagesKept_carryLoss ..).trans (State.pagesKept_abortAll ..)

theorem State.pagesKept_partWrite (s : State) (p a : Nat) (bs : List Byte) : (s.poke 0 a bs).PagesKept (s.partWrite p 0 a bs) :=
  State.pagesKept_abortAll ..

section

variable (s : State) (p va : Nat) (h : PageAt) (l : Loc) (hold : Bool)

theorem OffQueues.carried {s : State} {a n : Nat} (hoff : OffQueues s a n) : OffQueues (s.carried p va h l) a n :=
  (s.pagesKept_carried p va h l).offQueues ((hoff.readied p va h l).poke _ _ _)

/-- The page's bytes stand at its new place. -/
theorem State.peek_carried_same (hl : l.space < 4) (hoff : l.space = 0 → OffQueues s l.addr 65536) :
    (s.carried p va h l).peek l.space l.addr 65536 = s.peek h.loc.space h.loc.addr 65536 := by
  rw [(s.pagesKept_carried p va h l).peek fun hsp => ((hoff hsp).readied p va h l).poke _ _ _]
  refine State.peek_poke_same _ hl ?_
  rw [State.peek_eq, Memory.bytes_length]

/-- Bytes elsewhere stay. -/
theorem State.peek_carried_outside (hl : l.space < 4) {sp a n : Nat} (hsp : sp < 4)
    (hout : sp ≠ l.space ∨ a + n ≤ l.addr ∨ l.addr + 65536 ≤ a) (hoff : sp = 0 → OffQueues s a n) :
    (s.carried p va h l).peek sp a n = s.peek sp a n := by
  rw [(s.pagesKept_carried p va h l).peek fun hsp => ((hoff hsp).readied p va h l).poke _ _ _]
  rw [State.peek_poke_outside _ hl hsp, State.peek_eq, State.peek_eq, State.memory_readied]
  rwa [State.peek_eq, Memory.bytes_length]

/-- The new place of a page is written into its leaf, or noted for its berth window. -/
theorem State.peek_setPlace {sp a n : Nat} (hsp : sp < 4) (hout : ∀ entry w, h = .leaf entry w → sp ≠ 0 ∨ a + n ≤ entry ∨ entry + 8 ≤ a)
    (hoff : sp = 0 → OffQueues s a n) : (s.setPlace p va h l hold).peek sp a n = s.peek sp a n := by
  cases h with
  | berth b => rw [State.peek_eq, State.peek_eq]; rfl
  | leaf entry w =>
    rw [show s.setPlace p va (.leaf entry w) l hold = s.partWrite p 0 entry (leBytes 8 (leafMoved w l.space l.addr hold).toNat) from rfl,
      (s.pagesKept_partWrite p entry _).peek fun hsp => (hoff hsp).poke _ _ _]
    exact State.peek_poke_outside _ (by omega) hsp (hout entry w rfl)

theorem State.movedTo_setMoved : (s.setMoved p va l).movedTo p va = some l := by
  unfold State.movedTo State.setMoved
  rw [List.find?_append, List.find?_eq_none.2]
  · simp
  · intro m hm hat
    obtain ⟨-, hnot⟩ := List.mem_filter.1 hm
    rw [hat] at hnot
    cases hnot

theorem State.tlbs_setPlace (h' : PageAt) (k : Nat) : ((s.setPlace p va h' l hold).core k).tlb = (s.core k).tlb ∧
    (s.setPlace p va h' l hold).tlb2 = s.tlb2 ∧ (s.setPlace p va h' l hold).devMig = s.devMig := by
  cases h' with
  | berth b => exact ⟨rfl, rfl, rfl⟩
  | leaf entry w =>
    have hkept := s.pagesKept_partWrite p entry (leBytes 8 (leafMoved w l.space l.addr hold).toNat)
    have hpoke := s.poke_frame 0 entry (leBytes 8 (leafMoved w l.space l.addr hold).toNat)
    exact ⟨(hkept.tlb k).trans (by rw [hpoke]; rfl), hkept.tlb2.trans (by rw [hpoke]), hkept.devMig.trans (by rw [hpoke])⟩

theorem State.tlbs_carried (k : Nat) : ((s.carried p va h l).core k).tlb = ((s.core k).shoot p (s.partOf k == p) (.page va)).tlb ∧
    (s.carried p va h l).tlb2 = (s.shoot p (.page va)).tlb2 ∧ (s.carried p va h l).devMig = s.devMig := by
  have hkept := s.pagesKept_carried p va h l
  have hpoke := (s.readied p va h l).poke_frame l.space l.addr (s.peek h.loc.space h.loc.addr 65536)
  have hready := s.readied_frame p va h l
  generalize s.peek h.loc.space h.loc.addr 65536 = bs at hkept hpoke
  rw [← State.core_shoot]
  exact ⟨(hkept.tlb k).trans (by rw [hpoke, hready]; rfl), hkept.tlb2.trans (by rw [hpoke, hready]),
    hkept.devMig.trans (by rw [hpoke, hready]; rfl)⟩

end

/-- A word that is written is read back. -/
theorem State.entry_setEntry {s : State} (p : Nat) {a : Nat} (w : Word) (hoff : OffQueues s a 8) : (s.setEntry p a w).entry a = w := by
  have hbytes : (s.setEntry p a w).hbm.bytes a 8 = leBytes 8 w.toNat :=
    ((s.pagesKept_partWrite p a (leBytes 8 w.toNat)).peek (sp := 0) fun _ => hoff.poke _ _ _).trans
      (s.peek_poke_same (by omega) (leBytes_length ..))
  unfold State.entry Memory.num
  rw [hbytes, bytesToNat_leBytes, w64]
  exact BitVec.eq_of_toNat_eq (by rw [BitVec.toNat_ofNat, Nat.mod_mod]; exact Nat.mod_eq_of_lt w.isLt)

/-- A page move leaves what R384 to R397 say. -/
theorem State.pageMoved_movePage (s : State) (p va : Nat) (h : PageAt) (l : Loc) (hold : Bool) (hl : l.space < 4) :
    PageMoved s (s.movePage p va h l hold) p va h l hold := by
  rw [State.movePage_eq]
  refine ⟨?_, fun hentry hoff => ?_, fun sp a n hsp hout hentry hoff => ?_, ?_⟩
  · cases h with
    | leaf entry w => exact fun hoff => State.entry_setEntry p _ (hoff.carried p va _ l)
    | berth b => exact State.movedTo_setMoved ..
  · rw [State.peek_setPlace _ _ _ _ _ _ hl ?_ fun hsp => (hoff hsp).carried p va h l]
    · exact s.peek_carried_same p va h l hl hoff
    · exact fun entry w he => (hentry entry w he).imp id fun hd => hd.symm
  · rw [State.peek_setPlace _ _ _ _ _ _ hsp hentry fun hsp => (hoff hsp).carried p va h l]
    exact s.peek_carried_outside p va h l hl hsp hout hoff
  · refine ⟨fun k e he => ?_, fun d e he => ?_⟩
    · rw [(State.tlbs_setPlace _ p va l hold h k).1, (s.tlbs_carried p va h l k).1] at he
      simpa using (List.mem_filter.1 he).2
    · rw [(State.tlbs_setPlace _ p va l hold h 0).2.1, (s.tlbs_carried p va h l 0).2.1] at he
      rw [show Sparse.get [] (s.shoot p (.page va)).tlb2 d = (Sparse.get [] s.tlb2 d).filter fun t => !(Shoot.page va).drops p t from
        Sparse.get_map [] (fun ts : List TlbEntry => ts.filter fun t => !(Shoot.page va).drops p t) rfl s.tlb2 d] at he
      simpa using (List.mem_filter.1 he).2

theorem State.devMig_movePage (s : State) (p va : Nat) (h : PageAt) (l : Loc) (hold : Bool) :
    (s.movePage p va h l hold).devMig = s.devMig := by
  rw [State.movePage_eq]
  obtain ⟨-, -, hset⟩ := (s.carried p va h l).tlbs_setPlace p va l hold h 0
  obtain ⟨-, -, hcarried⟩ := s.tlbs_carried p va h l 0
  exact hset.trans hcarried

/-- A page that has been moved stays so when a command of a core changes. -/
theorem PageMoved.updEng {s t : State} {p va : Nat} {h : PageAt} {l : Loc} {hold : Bool} (hm : PageMoved s t p va h l hold) (k id : Nat)
    (f : EngCmd → EngCmd) : PageMoved s (t.updEng k id f) p va h l hold where
  known := by
    cases h with
    | leaf entry w => exact hm.known
    | berth b => exact hm.known
  copied := hm.copied
  others := hm.others
  tlbs := by
    obtain ⟨hcore, hdie⟩ := hm.tlbs
    exact ⟨fun j e he => hcore j e (by rwa [(t.pagesKept_updEng k id f).tlb j] at he), hdie⟩

theorem PageMoved.dropMig {s t : State} {p va : Nat} {h : PageAt} {l : Loc} {hold : Bool} (hm : PageMoved s t p va h l hold)
    (part page : Nat) : PageMoved s (t.dropMig part page) p va h l hold where
  known := by
    cases h with
    | leaf entry w => exact hm.known
    | berth b => exact hm.known
  copied := hm.copied
  others := hm.others
  tlbs := hm.tlbs

/-! ### The hold flag of a leaf -/

/-- A word is what a mask keeps of it beside what it clears. -/
theorem BitVec.toNat_and_not_add_and {n : Nat} (w m : BitVec n) : (w &&& ~~~m).toNat + (w &&& m).toNat = w.toNat := by
  have hdisjoint : (w &&& ~~~m) &&& (w &&& m) = 0#n := by
    ext i
    rw [BitVec.getElem_and, BitVec.getElem_and, BitVec.getElem_and, BitVec.getElem_not, BitVec.getElem_zero]
    cases w[i] <;> cases m[i] <;> rfl
  have hunion : (w &&& ~~~m) ||| (w &&& m) = w := by
    ext i
    rw [BitVec.getElem_or, BitVec.getElem_and, BitVec.getElem_and, BitVec.getElem_not]
    cases w[i] <;> cases m[i] <;> rfl
  rw [← BitVec.toNat_add_of_and_eq_zero hdisjoint, BitVec.add_eq_or_of_and_eq_zero _ _ hdisjoint, hunion]

/-- One bit of a word, as its field of length 1. -/
theorem toNat_and_twoPow_eq_field (w : Word) : (w &&& (0x800 : Word)).toNat = field w 11 1 * 2 ^ 11 := by
  have hpow : w.toNat &&& 2 ^ 11 = (w.toNat.testBit 11).toNat * 2 ^ 11 := Nat.and_two_pow ..
  rw [Nat.toNat_testBit] at hpow
  exact hpow

/-- Taking the flag away is clearing its bit. -/
theorem w64_withoutHold (w : Word) : w64 (w.toNat - field w 11 1 * 2 ^ 11 + b2n false * 2 ^ 11) = w &&& ~~~(0x800 : Word) := by
  have hvalue : w.toNat - field w 11 1 * 2 ^ 11 + b2n false * 2 ^ 11 = (w &&& ~~~(0x800 : Word)).toNat := by
    rw [← toNat_and_twoPow_eq_field, ← BitVec.toNat_and_not_add_and w (0x800 : Word), Nat.add_sub_cancel]
    rfl
  rw [hvalue]
  exact BitVec.ofNat_toNat ..

/-! ### The mailbox (R439) -/

section

variable (dir : Bool) (part : Nat)

/-- GO of the mailbox, with its direction and partition. -/
def goWord : Word := w64 (2 ^ 63 + b2n dir * 2 ^ 8 + part % 16)

theorem b2n_le_one (b : Bool) : b2n b ≤ 1 := by cases b <;> decide

theorem toNat_goWord : (goWord dir part).toNat = 2 ^ 63 + b2n dir * 2 ^ 8 + part % 16 := by
  have := b2n_le_one dir
  unfold goWord w64
  rw [BitVec.toNat_ofNat]
  omega

theorem bitOf_goWord : bitOf (goWord dir part) 63 = true := by
  have := b2n_le_one dir
  unfold bitOf
  rw [toNat_goWord, beq_iff_eq]
  omega

theorem fields_goWord : field (goWord dir part) 8 1 = b2n dir ∧ field (goWord dir part) 0 4 = part % 16 := by
  have := b2n_le_one dir
  unfold field
  rw [toNat_goWord]
  omega

theorem field_ctl : field (w64 (b2n dir * 2 ^ 8 + part % 16)) 0 4 = part % 16 := by
  have := b2n_le_one dir
  unfold field w64
  rw [BitVec.toNat_ofNat]
  omega

theorem field_mva (mva : Nat) : field (w64 (mva / 2 ^ 16 % 2 ^ 36 * 2 ^ 16)) 16 36 = mva / 2 ^ 16 % 2 ^ 36 := by
  unfold field w64
  rw [BitVec.toNat_ofNat]
  omega

/-- A write of GO. -/
theorem State.writeMbox_goWord (s : State) : s.writeMbox (goWord dir part) =
    if s.mbox.res ≠ 0 then
      ({ s with mbox := { s.mbox with ctl := w64 (b2n dir * 2 ^ 8 + part % 16), res := 0, rva := s.mbox.mva,
                                      rctl := w64 (b2n dir * 2 ^ 8 + part % 16) } } : State).submit
    else { s with mbox := { s.mbox with ctl := w64 (b2n dir * 2 ^ 8 + part % 16) } } := by
  obtain ⟨hdir, hpart⟩ := fields_goWord dir part
  unfold State.writeMbox
  dsimp only
  rw [hdir, hpart]
  by_cases hres : s.mbox.res = 0
  · rw [if_neg (fun h => h.2 hres), if_neg (fun h => h hres)]
  · rw [if_pos ⟨bitOf_goWord dir part, hres⟩, if_pos hres]

end

/-- A request for a page that nothing holds. -/
theorem State.submit_of_free {s : State} (hhold : s.holdOf s.mbox.partition s.mbox.page = none)
    (hmig : s.devMig.contains (s.mbox.partition, s.mbox.page) = false) : s.submit = s := by
  unfold State.submit
  dsimp only
  rw [hhold, hmig]
  rfl

/-! ### The events -/

section

variable {s : State}

theorem exec_pageMove {part va dest addr : Nat} {h : PageAt} (hsafe : s.boot.safe = false) (hdest : dest < 3)
    (hmay : s.mayMove part (va / 2 ^ 16) dest addr = true) (hmovable : s.movable part (va / 2 ^ 16 * 2 ^ 16) = some h)
    (hport : (h.loc.space = 0 ∧ dest = 0) ∨ s.ports ≠ []) : exec (.pageMove part va dest addr) s =
      .next ((s.movePage part (va / 2 ^ 16 * 2 ^ 16) h ⟨dest, addr⟩ false).dropMig part (va / 2 ^ 16)) := by
  have hserved : ((h.loc.space != 0 || dest != 0) && s.ports.isEmpty) = false := by
    rcases hport with ⟨hspace, rfl⟩ | hports
    · simp [hspace]
    · simp [hports]
  change execPageMove part va dest addr s = _
  unfold execPageMove
  dsimp only
  rw [if_neg (by rw [hsafe, hmay]; simp; omega), hmovable]
  dsimp only
  rw [hserved, if_neg Bool.false_ne_true]

section

variable {k id : Nat} {x : Ctx} {e : EngCmd} {h : PageAt} (hk : k < 384) (heng : s.engines k = true)
  (hfind : (s.core k).ferry.find? (fun e => e.id == id && e.op == .ferryTier && e.stage == 2 && e.open) = some e)
  (hferry : s.ferryServed (s.partOf k) = true) (hhbm : s.hbmServed = true) (hports : s.ports ≠ [])
  (hmovable : s.movable (s.partOf k) e.tierPage = some h) (hspace : h.loc.space = 2)

include hk heng hfind hferry hhbm hports hmovable hspace

/-- The supervisor names a page for a FERRY.TIER. -/
theorem exec_pageSupplyAnswer_some {pa : Nat} (hpa : pa % 2 ^ 16 = 0) (hok : hbmOk pa = true) (hlost : s.lost 2 h.loc.addr 65536 = false) :
    exec (.pageSupplyAnswer k x id (some pa)) s =
      .next ((s.movePage (s.partOf k) e.tierPage h ⟨0, pa⟩ false).updEng k id fun x =>
        { x.nextPage with pages := x.pages ++ [x.tierPage / 2 ^ 16] }) := by
  change execPageSupplyAnswer k x id (some pa) s = _
  unfold execPageSupplyAnswer
  rw [if_neg (by omega), heng, hfind]
  simp only [hferry, hhbm, hmovable, PageAt.out, hspace, hlost, hpa, hok, Option.filter]
  simp [hports]

/-- The supervisor has no page for a FERRY.TIER. -/
theorem exec_pageSupplyAnswer_none : exec (.pageSupplyAnswer k x id none) s =
    .next (s.failEng k id { cause := .xlate, addr := w64 e.tierPage }) := by
  change execPageSupplyAnswer k x id none s = _
  unfold execPageSupplyAnswer
  rw [if_neg (by omega), heng, hfind]
  simp [hferry, hhbm, hmovable, PageAt.out, hspace, hports]

end

/-- The Ferry does not serve the partition, or the memory is not served. -/
theorem exec_pageSupplyAnswer_unserved {k id : Nat} {x : Ctx} {page : Option Nat} (hk : k < 384)
    (hserved : s.ferryServed (s.partOf k) = false ∨ s.hbmServed = false) : exec (.pageSupplyAnswer k x id page) s = .next s := by
  change execPageSupplyAnswer k x id page s = _
  unfold execPageSupplyAnswer
  rw [if_neg (by omega)]
  split
  · rfl
  · split
    · rfl
    · dsimp only
      rw [if_pos (by rcases hserved with h | h <;> simp [h])]

/-! A hold window. -/

/-- The end of the hold of a page. -/
def State.unheld (s : State) (part page : Nat) : State := { s with holds := s.holds.filter fun x => !(x.part == part && x.page == page) }

theorem State.holdOf_unheld (part page : Nat) : (s.unheld part page).holdOf part page = none := by
  unfold State.holdOf State.unheld
  rw [List.find?_eq_none]
  intro m hm hat
  obtain ⟨-, hnot⟩ := List.mem_filter.1 hm
  rw [hat] at hnot
  cases hnot

theorem State.holds_setHold (p page : Nat) (b : Bool) : (s.setHold p page b).holds = s.holds := by
  unfold State.setHold
  split
  · next a _ =>
    dsimp only
    split
    · unfold State.setEntry State.partWrite
      dsimp only
      rw [State.holds_abortAll, State.poke_frame]
    · rfl
  · rfl

/-- The flag of a page's leaf is cleared. -/
theorem State.entry_setHold {p page a : Nat} (hwindow : (s.part p).inWindow (page * 2 ^ 16) = false) (hoff : OffQueues s a 8)
    (hleaf : s.leafEntry p (page * 2 ^ 16) = some a) (htype : entryType (s.entry a) = 3) :
    (s.setHold p page false).entry a = s.entry a &&& ~~~(0x800 : Word) := by
  unfold State.setHold
  rw [hwindow, if_neg Bool.false_ne_true, hleaf]
  dsimp only
  rw [if_pos htype, State.entry_setEntry p _ hoff, w64_withoutHold]

theorem exec_holdWindowExpire {part va : Nat} {h : HoldWin} (hhold : s.holdOf part (va / 2 ^ 16) = some h) :
    exec (.holdWindowExpire part va) s = .next (if s.now - h.since < 2500000 ∨ s.boot.safe then s
      else if h.device then s.unheld part (va / 2 ^ 16) else (s.unheld part (va / 2 ^ 16)).setHold part (va / 2 ^ 16) false) := by
  change execHoldWindowExpire part va s = _
  unfold execHoldWindowExpire
  dsimp only
  rw [hhold]
  dsimp only
  split <;> rfl

/-! The host's request. -/

theorem exec_migrationGo {mva part : Nat} {dir : Bool} (hsafe : s.boot.safe = false) : exec (.migrationGo mva dir part) s = .next
    (if s.mbox.res ≠ 0 then
      ({ s with mbox := ⟨w64 (mva / 2 ^ 16 % 2 ^ 36 * 2 ^ 16), w64 (b2n dir * 2 ^ 8 + part % 16), 0,
          w64 (mva / 2 ^ 16 % 2 ^ 36 * 2 ^ 16), w64 (b2n dir * 2 ^ 8 + part % 16)⟩ } : State).submit
    else { s with mbox :=
      { s.mbox with mva := w64 (mva / 2 ^ 16 % 2 ^ 36 * 2 ^ 16), ctl := w64 (b2n dir * 2 ^ 8 + part % 16) } }) := by
  change execMigrationGo mva dir part s = _
  unfold execMigrationGo
  rw [if_neg (by rw [hsafe]; exact Bool.false_ne_true), ← goWord, State.writeMbox_goWord]

end

end Sys2Proof.Machine

open Sys2Proof Sys2Proof.Machine in
/-- Settles O41: the page's bytes are written at its new place, its leaf or the device's record afterwards, so each byte is read through
the last write that names it, and the aborts behind a write reach segments of the queues alone. -/
theorem pageEvents : Obligations.PageEvents := by
  unfold Obligations.PageEvents
  refine ⟨?_, ?_, ?_, ?_, ?_, ?_, ?_, ?_⟩
  · intro part va dest addr s h hsafe hdest hmay hmovable hport
    have hmoved := s.pageMoved_movePage part (va / 2 ^ 16 * 2 ^ 16) h ⟨dest, addr⟩ false (show dest < 4 by omega)
    refine ⟨_, exec_pageMove hsafe hdest hmay hmovable hport, ?_, hmoved.dropMig _ _⟩
    rw [State.dropMig, State.devMig_movePage]
  · intro k x id s e pa h hk heng hfind hferry hhbm hports hpa hok hmovable hspace hlost
    exact ⟨_, exec_pageSupplyAnswer_some hk heng hfind hferry hhbm hports hmovable hspace hpa hok hlost,
      (s.pageMoved_movePage _ _ h ⟨0, pa⟩ false (Nat.zero_lt_succ 3)).updEng k id _⟩
  · intro k x id s e h hk heng hfind hferry hhbm hports hmovable hspace
    exact ⟨_, exec_pageSupplyAnswer_none hk heng hfind hferry hhbm hports hmovable hspace, rfl⟩
  · intro k x id page s hk _ hserved
    exact exec_pageSupplyAnswer_unserved hk hserved
  · intro part va s h hsafe hhold hsince
    have hlate : ¬(s.now - h.since < 2500000 ∨ s.boot.safe) := by rw [hsafe]; simp; omega
    refine ⟨_, exec_holdWindowExpire hhold, ?_, fun a hdevice hwindow hoff hleaf htype => ?_⟩
    · rw [if_neg hlate]
      split
      · exact State.holdOf_unheld ..
      · unfold State.holdOf
        rw [State.holds_setHold]
        exact State.holdOf_unheld ..
    · rw [if_neg hlate, hdevice, if_neg Bool.false_ne_true]
      exact State.entry_setHold hwindow hoff hleaf htype
  · intro part va s h hhold hsince
    rw [exec_holdWindowExpire hhold, if_pos (.inl hsince)]
  · intro mva dir part s mv ct hsafe hres hfree hmig hmv hct
    subst hmv hct
    refine ⟨_, exec_migrationGo hsafe, ?_⟩
    rw [if_pos hres]
    refine State.submit_of_free ?_ ?_
    · rw [Mailbox.partition, Mailbox.page, field_ctl, field_mva]
      exact hfree
    · rw [Mailbox.partition, Mailbox.page, field_ctl, field_mva]
      exact hmig
  · intro mva dir part s hsafe hres
    refine ⟨_, exec_migrationGo hsafe, ?_⟩
    rw [if_neg fun hne => hne hres]
